-- ==== Sys2Proof/Word.lean ====
section
/-!
DEFINITION. The words of the machine (R204, R261, R294) and their plainest arithmetic.
-/

namespace Sys2Proof

/-- A byte of memory. -/
abbrev Byte := BitVec 8

/-- The data word of a vector register (R186). -/
abbrev Word32 := BitVec 32

/-- The data word of a scalar register and of an address (R186, R96). -/
abbrev Word64 := BitVec 64

/-- A lane mask of a team: bit `l` is lane `l` (R185). -/
abbrev Mask := BitVec 1024

/-- Number of a scalar register, s0 to s63 (R263). -/
abbrev Reg6 := BitVec 6

/-- Number of a RISC-V integer register of a queue processor (R55). -/
abbrev Reg5 := BitVec 5

/-- Bits [hi:lo] of a word, as a number. -/
def bits (hi lo : Nat) (w : Nat) : Nat := w / 2 ^ lo % 2 ^ (hi + 1 - lo)

/-- The low `n` bytes of a number, the least significant first (R261: memory is little-endian). -/
def toBytes : Nat → Nat → List Byte
  | 0, _ => []
  | n + 1, w => BitVec.ofNat 8 w :: toBytes n (w / 256)

/-- The number that a list of bytes holds, the least significant first. -/
def ofBytes : List Byte → Nat
  | [] => 0
  | b :: bs => b.toNat + 256 * ofBytes bs

/-- A number read as a two's-complement value of `w` bits. -/
def toSigned (w n : Nat) : Int :=
  if n % 2 ^ w < 2 ^ (w - 1) then ((n % 2 ^ w : Nat) : Int) else ((n % 2 ^ w : Nat) : Int) - ((2 ^ w : Nat) : Int)

/-- The `w`-bit two's-complement code of an integer. -/
def ofSigned (w : Nat) (i : Int) : Nat := (i % ((2 ^ w : Nat) : Int)).toNat

/-- The smallest integer at or above `a / b`. -/
def ceilDiv (a b : Nat) : Nat := (a + b - 1) / b

end Sys2Proof
end

