-- ==== Sys2Proof/Syntax.lean ====
section
/-!
DEFINITION. Syntax: the steps of the device, one constructor of `Instr` for each row of the table of operations and
events: the scalar instructions (R263), the lane instructions (R265), the command instructions of the queue processors
(R55) and the events of the device, each with what its agent brings to it.
-/

namespace Sys2Proof

/-- The fields of a lane instruction (R265) other than OPC. Each instruction checks at issue the fields it uses and
those that must be zero (R266, R292). -/
structure LaneFields where
  /-- MOD, w0[31:26]. -/
  md : BitVec 6
  /-- Destination, w0[25:18]. -/
  vd : BitVec 8
  /-- Guard negate, w0[17]. -/
  gn : BitVec 1
  /-- Guard predicate, w0[16:14]. -/
  gp : BitVec 3
  /-- Element type code, w0[13:10]. -/
  ty : BitVec 4
  /-- b-operand select, w1[31:30]. -/
  bsel : BitVec 2
  /-- Scalar source, w1[29:24]. -/
  ss : BitVec 6
  /-- Third source, w1[23:16]. -/
  vc : BitVec 8
  /-- Second source, w1[15:8]. -/
  vb : BitVec 8
  /-- First source, w1[7:0]. -/
  va : BitVec 8
  /-- Immediate or extended fields, w2. -/
  imm : BitVec 32
  deriving DecidableEq, Repr

/-- A word that encodes no assigned instruction: a scalar word or a lane word (R3). -/
inductive EncWord where
  | scalar (w : BitVec 32)
  | lane (w : BitVec 96)
  deriving DecidableEq, Repr

/-- The read-modify-write operations of the scalar atomics, the word atomics and remote atomics (R286, R342). -/
inductive AtomicOp where
  | add | and | or | xor | min | max | minu | maxu | swap | cas
  deriving DecidableEq, Repr

/-- A request on the management bus (R18). -/
inductive MgmtReq where
  | temperatures
  | power
  | readCap
  | writeCap (watts : Nat)
  | svcstat
  | certificate
  deriving DecidableEq, Repr

/-- A host access to device memory, through CXL.mem (a physical address) or through the memory window (an offset)
(R20, R24). -/
structure HostAccess where
  viaWindow : Bool
  addr : Nat
  /-- Bytes read, when `data` is none. -/
  len : Nat
  /-- The bytes written, or none for a read. -/
  data : Option (List Byte)
  /-- A write to a line in host bias that stays dirty in a host cache (R28). -/
  cached : Bool
  deriving DecidableEq, Repr

/-- What a peer asks of the owner (R44, R45). -/
inductive PeerOp where
  | load (size : Nat) (wantLease : Bool)
  | store (data : List Byte)
  /-- Word atomics that perform as one step, with the operand and comparand of each (R338, R342). -/
  | atomic (op : AtomicOp) (size : Nat) (xs : List (Nat × Nat))
  /-- Line atomics that perform as one step, with the 64 data bytes of each (R344). -/
  | lineAtomic (op : AtomicOp) (data : List (List Byte))
  deriving DecidableEq, Repr

/-- A peer's space-0x3 access arriving at the owner (R44). -/
structure PeerReq where
  node : Nat
  id : Nat
  off : Nat
  op : PeerOp
  deriving DecidableEq, Repr

/-- What comes back to a requester of a remote access (R44, R45, R47). -/
inductive PeerReply where
  | data (bytes : List Byte) (leaseEnd : Option Nat)
  | ack
  | refused
  deriving DecidableEq, Repr

/-- The fingerprint that members compare: OP, RED, TYPE, ACCM, COUNT and P (R52). -/
structure CollFinger where
  op : Nat
  red : Nat
  ty : Nat
  accm : Nat
  count : Nat
  members : Nat
  deriving DecidableEq, Repr

/-- What arrives from a member of a collective (R52). -/
inductive CollMsg where
  | finger (rank : Nat) (fp : CollFinger)
  | block (rank : Nat) (data : List Byte)
  deriving DecidableEq, Repr

/-- Why a collective fails, other than a member that has not arrived in time (R53). -/
inductive CollFail where
  | mismatch
  | memberLost
  | memberFault
  deriving DecidableEq, Repr

/-- A write to a launch page: how many TLPs carry it, where it starts, whether every byte enable is set, and its
bytes as one number (R23). -/
structure LaunchTlp where
  off : Nat
  len : Nat
  tlps : Nat
  allBe : Bool
  data : BitVec 512
  deriving DecidableEq, Repr

/-- A request in the debug mailbox: its header (R252) and the bytes from byte 16 of REQ. -/
structure DebugReq where
  cmd : BitVec 8
  asid : BitVec 12
  path : BitVec 4
  idx : BitVec 8
  team : BitVec 32
  arg0 : BitVec 64
  data : List Byte
  deriving DecidableEq, Repr

/-- What an ordinary RISC-V memory instruction of a queue processor does (R54). -/
inductive QpOp where
  | load (rd : Reg5) (signed : Bool)
  | store (x : BitVec 64)
  | amo (op : AtomicOp) (x c : BitVec 64) (rd : Reg5)
  deriving DecidableEq, Repr

/-- An ordinary memory access of a queue processor (R54). -/
structure QpAccess where
  addr : BitVec 64
  size : Nat
  op : QpOp
  deriving DecidableEq, Repr


/-- The steps of the device: one constructor for each row of the table of operations and events. The scalar and
lane instructions keep every field of their word; an event carries what its agent brings to it. -/
inductive Instr where
  /-- RFETCH (R57). Fetches the next packet of a queue from the inline slot or the ring into local SRAM. -/
  | rfetch (rd : Reg5) (rs1 : Reg5) (rs2 : Reg5)
  /-- BFXU (R58). Extracts an unsigned bit field. -/
  | bfxu (rd : Reg5) (rs1 : Reg5) (rs2 : Reg5)
  /-- BFXS (R58). Extracts a sign-extended bit field. -/
  | bfxs (rd : Reg5) (rs1 : Reg5) (rs2 : Reg5)
  /-- SWAIT (R59). Waits until a signal's VALUE meets the condition against the comparand. -/
  | swait (c : BitVec 3) (rd : Reg5) (rs1 : Reg5) (rs2 : Reg5)
  /-- DISP (R60). Checks a LAUNCH packet and its descriptor and creates a launch handle, or reports the first failing trap class. -/
  | disp (rd : Reg5) (rs1 : Reg5) (rs2 : Reg5)
  /-- ADD (R295). sd := sa + sb. -/
  | add (sd : Reg6) (sa : Reg6) (sb : Reg6)
  /-- SUB (R295). sd := sa − sb. -/
  | sub (sd : Reg6) (sa : Reg6) (sb : Reg6)
  /-- AND (R295). sd := sa AND sb. -/
  | and (sd : Reg6) (sa : Reg6) (sb : Reg6)
  /-- OR (R295). sd := sa OR sb. -/
  | or (sd : Reg6) (sa : Reg6) (sb : Reg6)
  /-- XOR (R295). sd := sa XOR sb. -/
  | xor (sd : Reg6) (sa : Reg6) (sb : Reg6)
  /-- ANDN (R295). sd := sa AND NOT sb. -/
  | andn (sd : Reg6) (sa : Reg6) (sb : Reg6)
  /-- SHL (R295). Shifts left by sb[5:0]. -/
  | shl (sd : Reg6) (sa : Reg6) (sb : Reg6)
  /-- SHR (R295). Shifts right with zero fill. -/
  | shr (sd : Reg6) (sa : Reg6) (sb : Reg6)
  /-- SAR (R295). Shifts right arithmetically. -/
  | sar (sd : Reg6) (sa : Reg6) (sb : Reg6)
  /-- ROL (R295). Rotates left. -/
  | rol (sd : Reg6) (sa : Reg6) (sb : Reg6)
  /-- ROR (R295). Rotates right. -/
  | ror (sd : Reg6) (sa : Reg6) (sb : Reg6)
  /-- SLT (R295). Signed less-than. -/
  | slt (sd : Reg6) (sa : Reg6) (sb : Reg6)
  /-- SLTU (R295). Unsigned less-than. -/
  | sltu (sd : Reg6) (sa : Reg6) (sb : Reg6)
  /-- SEQ (R295). Equality test. -/
  | seq (sd : Reg6) (sa : Reg6) (sb : Reg6)
  /-- MIN (R295). Signed minimum. -/
  | min (sd : Reg6) (sa : Reg6) (sb : Reg6)
  /-- MAX (R295). Signed maximum. -/
  | max (sd : Reg6) (sa : Reg6) (sb : Reg6)
  /-- MINU (R295). Unsigned minimum. -/
  | minu (sd : Reg6) (sa : Reg6) (sb : Reg6)
  /-- MAXU (R295). Unsigned maximum. -/
  | maxu (sd : Reg6) (sa : Reg6) (sb : Reg6)
  /-- MUL (R295). Low 64 bits of the product. -/
  | mul (sd : Reg6) (sa : Reg6) (sb : Reg6)
  /-- MULH (R295). High 64 bits of the signed product. -/
  | mulh (sd : Reg6) (sa : Reg6) (sb : Reg6)
  /-- MULHU (R295). High 64 bits of the unsigned product. -/
  | mulhu (sd : Reg6) (sa : Reg6) (sb : Reg6)
  /-- DIV (R295). Signed quotient. -/
  | div (sd : Reg6) (sa : Reg6) (sb : Reg6)
  /-- DIVU (R295). Unsigned quotient. -/
  | divu (sd : Reg6) (sa : Reg6) (sb : Reg6)
  /-- REM (R295). Signed remainder. -/
  | rem (sd : Reg6) (sa : Reg6) (sb : Reg6)
  /-- REMU (R295). Unsigned remainder. -/
  | remu (sd : Reg6) (sa : Reg6) (sb : Reg6)
  /-- CLZ (R295). Counts leading zero bits. -/
  | clz (sd : Reg6) (sa : Reg6) (sb : Reg6)
  /-- CTZ (R295). Counts trailing zero bits. -/
  | ctz (sd : Reg6) (sa : Reg6) (sb : Reg6)
  /-- POPC (R295). Counts set bits. -/
  | popc (sd : Reg6) (sa : Reg6) (sb : Reg6)
  /-- SEXT (R295). Sign-extends sa from bit sb[5:0]. -/
  | sext (sd : Reg6) (sa : Reg6) (sb : Reg6)
  /-- ADDI (R296). sd := sa + imm. -/
  | addi (sd : Reg6) (sa : Reg6) (imm : BitVec 13)
  /-- ANDI (R296). sd := sa AND imm. -/
  | andi (sd : Reg6) (sa : Reg6) (imm : BitVec 13)
  /-- ORI (R296). sd := sa OR imm. -/
  | ori (sd : Reg6) (sa : Reg6) (imm : BitVec 13)
  /-- XORI (R296). sd := sa XOR imm. -/
  | xori (sd : Reg6) (sa : Reg6) (imm : BitVec 13)
  /-- SHLI (R296). Shifts left by an immediate. -/
  | shli (sd : Reg6) (sa : Reg6) (imm : BitVec 13)
  /-- SHRI (R296). Shifts right with zero fill by an immediate. -/
  | shri (sd : Reg6) (sa : Reg6) (imm : BitVec 13)
  /-- SARI (R296). Shifts right arithmetically by an immediate. -/
  | sari (sd : Reg6) (sa : Reg6) (imm : BitVec 13)
  /-- SLTI (R296). Signed less-than with an immediate. -/
  | slti (sd : Reg6) (sa : Reg6) (imm : BitVec 13)
  /-- SLTIU (R296). Unsigned less-than with an immediate. -/
  | sltiu (sd : Reg6) (sa : Reg6) (imm : BitVec 13)
  /-- LUI (R297). Loads an upper immediate. -/
  | lui (sd : Reg6) (imm : BitVec 19)
  /-- ADDPC (R297). Adds an upper immediate to the PC. -/
  | addpc (sd : Reg6) (imm : BitVec 19)
  /-- BEQ (R298). Branches if equal. -/
  | beq (sa : Reg6) (sb : Reg6) (off : BitVec 13)
  /-- BNE (R298). Branches if not equal. -/
  | bne (sa : Reg6) (sb : Reg6) (off : BitVec 13)
  /-- BLT (R298). Branches if signed less. -/
  | blt (sa : Reg6) (sb : Reg6) (off : BitVec 13)
  /-- BGE (R298). Branches if signed greater or equal. -/
  | bge (sa : Reg6) (sb : Reg6) (off : BitVec 13)
  /-- BLTU (R298). Branches if unsigned less. -/
  | bltu (sa : Reg6) (sb : Reg6) (off : BitVec 13)
  /-- BGEU (R298). Branches if unsigned greater or equal. -/
  | bgeu (sa : Reg6) (sb : Reg6) (off : BitVec 13)
  /-- J (R299). Jumps PC-relative. -/
  | j (off : BitVec 25)
  /-- CALL (R299). Saves the return address in s63 and jumps. -/
  | call (off : BitVec 25)
  /-- LC (R300). Fetches a clause, captures its snapshot, mask and fmt, and enqueues it. -/
  | lc (off : BitVec 25)
  /-- SPLIT (R197). Divides the path's active lanes by a predicate into a new path or ejected lanes. -/
  | split (pn : BitVec 3) (toff : BitVec 11) (joff : BitVec 11)
  /-- JR (R299). Jumps through a register and writes the link register. -/
  | jr (sd : Reg6) (sa : Reg6) (imm : BitVec 13)
  /-- WAITF (R301). Waits until the named completion flags are clear. -/
  | waitf (sd : Reg6) (sa : Reg6) (imm : BitVec 13)
  /-- LD (R309). Scalar load. -/
  | ld (ord : BitVec 2) (scp : BitVec 2) (st : BitVec 1) (sz : BitVec 2) (sx : BitVec 1) (off : BitVec 5) (sd : Reg6) (sa : Reg6)
  /-- ST (R309). Scalar store. -/
  | st (ord : BitVec 2) (scp : BitVec 2) (st : BitVec 1) (sz : BitVec 2) (sx : BitVec 1) (off : BitVec 5) (sb : Reg6) (sa : Reg6)
  /-- AMOADD (R310). Atomic add. -/
  | amoadd (ord : BitVec 2) (scp : BitVec 2) (w : BitVec 1) (sd : Reg6) (sa : Reg6) (sb : Reg6)
  /-- AMOAND (R310). Atomic AND. -/
  | amoand (ord : BitVec 2) (scp : BitVec 2) (w : BitVec 1) (sd : Reg6) (sa : Reg6) (sb : Reg6)
  /-- AMOOR (R310). Atomic OR. -/
  | amoor (ord : BitVec 2) (scp : BitVec 2) (w : BitVec 1) (sd : Reg6) (sa : Reg6) (sb : Reg6)
  /-- AMOXOR (R310). Atomic XOR. -/
  | amoxor (ord : BitVec 2) (scp : BitVec 2) (w : BitVec 1) (sd : Reg6) (sa : Reg6) (sb : Reg6)
  /-- AMOMIN (R310). Atomic signed minimum. -/
  | amomin (ord : BitVec 2) (scp : BitVec 2) (w : BitVec 1) (sd : Reg6) (sa : Reg6) (sb : Reg6)
  /-- AMOMAX (R310). Atomic signed maximum. -/
  | amomax (ord : BitVec 2) (scp : BitVec 2) (w : BitVec 1) (sd : Reg6) (sa : Reg6) (sb : Reg6)
  /-- AMOMINU (R310). Atomic unsigned minimum. -/
  | amominu (ord : BitVec 2) (scp : BitVec 2) (w : BitVec 1) (sd : Reg6) (sa : Reg6) (sb : Reg6)
  /-- AMOMAXU (R310). Atomic unsigned maximum. -/
  | amomaxu (ord : BitVec 2) (scp : BitVec 2) (w : BitVec 1) (sd : Reg6) (sa : Reg6) (sb : Reg6)
  /-- AMOSWAP (R310). Atomic swap. -/
  | amoswap (ord : BitVec 2) (scp : BitVec 2) (w : BitVec 1) (sd : Reg6) (sa : Reg6) (sb : Reg6)
  /-- AMOCAS (R310). Atomic compare-and-swap. -/
  | amocas (ord : BitVec 2) (scp : BitVec 2) (w : BitVec 1) (sd : Reg6) (sa : Reg6) (sb : Reg6)
  /-- FENCE (R311). Fence with an order and a scope. -/
  | fence (fn : BitVec 7) (sd : Reg6) (sa : Reg6) (sb : Reg6)
  /-- TFENCE (R126). Orders the path's table writes before later walks in scope. -/
  | tfence (fn : BitVec 7) (sd : Reg6) (sa : Reg6) (sb : Reg6)
  /-- TSHOOT (R313). Starts a shoot-down of a range for the path's ASID. -/
  | tshoot (sd : Reg6) (sa : Reg6) (sb : Reg6)
  /-- TSYNC (R314). Waits for the path's shoot-downs to complete. -/
  | tsync (sd : Reg6) (sa : Reg6) (sb : Reg6)
  /-- CRR (R315). Reads a control register. -/
  | crr (sd : Reg6) (sa : Reg6) (imm : BitVec 13)
  /-- CRW (R315). Writes a control register, including the privileged registers of R382. -/
  | crw (sd : Reg6) (sa : Reg6) (imm : BitVec 13)
  /-- JOIN (R202). Waits, then reloads ejected lanes, returns to the parent or returns continuation lanes. -/
  | join (sd : Reg6) (sa : Reg6) (sb : Reg6)
  /-- SPAWN (R304). Releases at device scope and places new lanes in a spawn bin. -/
  | spawn (sd : Reg6) (sa : Reg6) (sb : Reg6)
  /-- EVPOP (R305). Takes the team's oldest event-queue entry. -/
  | evpop (sd : Reg6) (sa : Reg6) (sb : Reg6)
  /-- SETFMT (R306). Writes the path's format register and returns the old value. -/
  | setfmt (sd : Reg6) (sa : Reg6) (sb : Reg6)
  /-- VCOMMIT (R307). Commits the team's version and begins a new task. -/
  | vcommit (sd : Reg6) (sa : Reg6) (sb : Reg6)
  /-- RINGADV (R379). Waits until a ring slot may be reused behind the commit frontier. -/
  | ringadv (sd : Reg6) (sa : Reg6) (sb : Reg6)
  /-- END (R381). Ends the path, and the team when it is the last path. -/
  | endPath (sd : Reg6) (sa : Reg6) (sb : Reg6)
  /-- TRAP (R380). Raises trap class 0x7F with INFO from sa. -/
  | trap (sd : Reg6) (sa : Reg6) (sb : Reg6)
  /-- ERET (R248). Returns from a handler, restoring the path table. -/
  | eret (sd : Reg6) (sa : Reg6) (sb : Reg6)
  /-- BRK (R380). Raises BREAKPOINT. -/
  | brk (sd : Reg6) (sa : Reg6) (sb : Reg6)
  /-- PROG (R256). Adds 1 to a progress counter during a causal trial. -/
  | prog (sd : Reg6) (sa : Reg6) (sb : Reg6)
  /-- TNOPEN (R374). Opens a slot. -/
  | tnopen (sd : Reg6) (sa : Reg6) (sb : Reg6)
  /-- TNFORK (R144). Forks a child node. -/
  | tnfork (sd : Reg6) (sa : Reg6) (sb : Reg6)
  /-- TNAPPEND (R144). Appends tokens to a node. -/
  | tnappend (sd : Reg6) (sa : Reg6) (sb : Reg6)
  /-- TNPRUNE (R156). Prunes a node's subtree. -/
  | tnprune (sd : Reg6) (sa : Reg6) (sb : Reg6)
  /-- TNCOMMIT (R153). Makes a node's path the new trunk. -/
  | tncommit (sd : Reg6) (sa : Reg6) (sb : Reg6)
  /-- TNRETIRE (R158). Retires a slot. -/
  | tnretire (sd : Reg6) (sa : Reg6) (sb : Reg6)
  /-- TNBIND (R155). Binds or unbinds the team to a node. -/
  | tnbind (sd : Reg6) (sa : Reg6) (sb : Reg6)
  /-- TNSTAT (R377). Reads a node's state. -/
  | tnstat (sd : Reg6) (sa : Reg6) (sb : Reg6)
  /-- TNTOK (R374). Reads a token identifier. -/
  | tntok (sd : Reg6) (sa : Reg6) (sb : Reg6)
  /-- VADD (R318). Integer add. -/
  | vadd (f : LaneFields)
  /-- VSUB (R318). Integer subtract. -/
  | vsub (f : LaneFields)
  /-- VMUL (R318). Low product. -/
  | vmul (f : LaneFields)
  /-- VMULH (R318). High product. -/
  | vmulh (f : LaneFields)
  /-- VMAD (R318). Multiply-add. -/
  | vmad (f : LaneFields)
  /-- VDIV (R318). Integer divide. -/
  | vdiv (f : LaneFields)
  /-- VREM (R318). Integer remainder. -/
  | vrem (f : LaneFields)
  /-- VMIN (R318). Integer minimum. -/
  | vmin (f : LaneFields)
  /-- VMAX (R318). Integer maximum. -/
  | vmax (f : LaneFields)
  /-- VABS (R318). Absolute value. -/
  | vabs (f : LaneFields)
  /-- VNEG (R318). Negation. -/
  | vneg (f : LaneFields)
  /-- VADDS (R318). Saturating add. -/
  | vadds (f : LaneFields)
  /-- VSUBS (R318). Saturating subtract. -/
  | vsubs (f : LaneFields)
  /-- VAND (R320). Bitwise AND. -/
  | vand (f : LaneFields)
  /-- VOR (R320). Bitwise OR. -/
  | vor (f : LaneFields)
  /-- VXOR (R320). Bitwise XOR. -/
  | vxor (f : LaneFields)
  /-- VNOT (R320). Bitwise NOT. -/
  | vnot (f : LaneFields)
  /-- VANDN (R320). AND NOT. -/
  | vandn (f : LaneFields)
  /-- VSHL (R320). Shift left. -/
  | vshl (f : LaneFields)
  /-- VSHR (R320). Shift right. -/
  | vshr (f : LaneFields)
  /-- VROL (R320). Rotate left. -/
  | vrol (f : LaneFields)
  /-- VCLZ (R320). Count leading zeros. -/
  | vclz (f : LaneFields)
  /-- VPOPC (R320). Count set bits. -/
  | vpopc (f : LaneFields)
  /-- VBREV (R320). Reverse bit order. -/
  | vbrev (f : LaneFields)
  /-- VBFX (R321). Extract a bit field. -/
  | vbfx (f : LaneFields)
  /-- VMOV (R322). Move. -/
  | vmov (f : LaneFields)
  /-- VSEL (R322). Select by predicate. -/
  | vsel (f : LaneFields)
  /-- VCMPEQ (R324). Integer compare equal. -/
  | vcmpeq (f : LaneFields)
  /-- VCMPNE (R324). Integer compare not equal. -/
  | vcmpne (f : LaneFields)
  /-- VCMPLT (R324). Integer compare less. -/
  | vcmplt (f : LaneFields)
  /-- VCMPLE (R324). Integer compare less or equal. -/
  | vcmple (f : LaneFields)
  /-- VCMPGT (R324). Integer compare greater. -/
  | vcmpgt (f : LaneFields)
  /-- VCMPGE (R324). Integer compare greater or equal. -/
  | vcmpge (f : LaneFields)
  /-- VFADD (R325). Floating add. -/
  | vfadd (f : LaneFields)
  /-- VFSUB (R325). Floating subtract. -/
  | vfsub (f : LaneFields)
  /-- VFMUL (R325). Floating multiply. -/
  | vfmul (f : LaneFields)
  /-- VFMA (R325). Fused multiply-add. -/
  | vfma (f : LaneFields)
  /-- VFMIN (R326). Floating minimum. -/
  | vfmin (f : LaneFields)
  /-- VFMAX (R326). Floating maximum. -/
  | vfmax (f : LaneFields)
  /-- VFABS (R326). Clears the sign. -/
  | vfabs (f : LaneFields)
  /-- VFNEG (R326). Inverts the sign. -/
  | vfneg (f : LaneFields)
  /-- VFDIV (R325). Floating divide. -/
  | vfdiv (f : LaneFields)
  /-- VFSQRT (R325). Square root. -/
  | vfsqrt (f : LaneFields)
  /-- VFRSQ (R325). Reciprocal square root. -/
  | vfrsq (f : LaneFields)
  /-- VFEXP2 (R325). Power of two. -/
  | vfexp2 (f : LaneFields)
  /-- VFLOG2 (R325). Base-2 logarithm. -/
  | vflog2 (f : LaneFields)
  /-- VFCMPEQ (R324). Floating compare equal. -/
  | vfcmpeq (f : LaneFields)
  /-- VFCMPNE (R324). Floating compare not equal. -/
  | vfcmpne (f : LaneFields)
  /-- VFCMPLT (R324). Floating compare less. -/
  | vfcmplt (f : LaneFields)
  /-- VFCMPLE (R324). Floating compare less or equal. -/
  | vfcmple (f : LaneFields)
  /-- VFCMPGT (R324). Floating compare greater. -/
  | vfcmpgt (f : LaneFields)
  /-- VFCMPGE (R324). Floating compare greater or equal. -/
  | vfcmpge (f : LaneFields)
  /-- VCVT (R327). Converts between element types. -/
  | vcvt (f : LaneFields)
  /-- VLD (R341). Lane load. -/
  | vld (f : LaneFields)
  /-- VST (R341). Lane store. -/
  | vst (f : LaneFields)
  /-- VLD2 (R340). Two-register lane load. -/
  | vld2 (f : LaneFields)
  /-- VST2 (R340). Two-register lane store. -/
  | vst2 (f : LaneFields)
  /-- VLD4 (R340). Four-register lane load. -/
  | vld4 (f : LaneFields)
  /-- VST4 (R340). Four-register lane store. -/
  | vst4 (f : LaneFields)
  /-- VAADD (R343). Word atomic add. -/
  | vaadd (f : LaneFields)
  /-- VAAND (R343). Word atomic AND. -/
  | vaand (f : LaneFields)
  /-- VAOR (R343). Word atomic OR. -/
  | vaor (f : LaneFields)
  /-- VAXOR (R343). Word atomic XOR. -/
  | vaxor (f : LaneFields)
  /-- VAMIN (R343). Word atomic minimum. -/
  | vamin (f : LaneFields)
  /-- VAMAX (R343). Word atomic maximum. -/
  | vamax (f : LaneFields)
  /-- VASWAP (R343). Word atomic swap. -/
  | vaswap (f : LaneFields)
  /-- VACAS (R343). Word atomic compare-and-swap. -/
  | vacas (f : LaneFields)
  /-- VLAOR (R344). Line atomic OR. -/
  | vlaor (f : LaneFields)
  /-- VLAAND (R344). Line atomic AND. -/
  | vlaand (f : LaneFields)
  /-- VLAXOR (R344). Line atomic XOR. -/
  | vlaxor (f : LaneFields)
  /-- VSPILL (R345). Spills a register in compressed form. -/
  | vspill (f : LaneFields)
  /-- VFILL (R345). Fills a register from a spill slot. -/
  | vfill (f : LaneFields)
  /-- BWAIT (R348). Waits for a barrier object's CNT to reach zero or below. -/
  | bwait (f : LaneFields)
  /-- CPK (R349). Kicks a copy record. -/
  | cpk (f : LaneFields)
  /-- COLL (R350). Starts a collective. -/
  | coll (f : LaneFields)
  /-- VBAR (R351). Team barrier arrival. -/
  | vbar (f : LaneFields)
  /-- VNBAR (R352). Neighbourhood barrier arrival. -/
  | vnbar (f : LaneFields)
  /-- VFENCE (R353). Per-lane fence. -/
  | vfence (f : LaneFields)
  /-- BINIT (R347). Initialises a barrier object. -/
  | binit (f : LaneFields)
  /-- BADD (R347). Adds to a barrier object's count. -/
  | badd (f : LaneFields)
  /-- MZERO (R357). Clears a tile and its mode record. -/
  | mzero (f : LaneFields)
  /-- MLOOP (R358). Issues a sequence of matrix steps on a tile. -/
  | mloop (f : LaneFields)
  /-- MLOOPP (R358). Issues a sequence of paired matrix steps. -/
  | mloopp (f : LaneFields)
  /-- MRD (R361). Reads out tile entries to registers. -/
  | mrd (f : LaneFields)
  /-- MWR (R362). Writes or adds register values into tile entries. -/
  | mwr (f : LaneFields)
  /-- MSTAT (R363). Reads a tile's status. -/
  | mstat (f : LaneFields)
  /-- QLD (R366). Small-matrix load. -/
  | qld (f : LaneFields)
  /-- QST (R366). Small-matrix store. -/
  | qst (f : LaneFields)
  /-- QMOV (R365). Small-matrix move. -/
  | qmov (f : LaneFields)
  /-- QTRN (R365). Small-matrix transpose. -/
  | qtrn (f : LaneFields)
  /-- QADD (R365). Small-matrix add or subtract. -/
  | qadd (f : LaneFields)
  /-- QSCL (R365). Small-matrix scale. -/
  | qscl (f : LaneFields)
  /-- QMUL (R367). Small-matrix multiply. -/
  | qmul (f : LaneFields)
  /-- QMAD (R367). Small-matrix multiply-add. -/
  | qmad (f : LaneFields)
  /-- QCHOL (R368). Cholesky factorisation. -/
  | qchol (f : LaneFields)
  /-- QLUP (R368). LU factorisation with partial pivoting. -/
  | qlup (f : LaneFields)
  /-- QSOLC (R369). Solves with a Cholesky factor. -/
  | qsolc (f : LaneFields)
  /-- QSOLL (R369). Solves with an LU factor. -/
  | qsoll (f : LaneFields)
  /-- QDET (R370). Determinant from a factor. -/
  | qdet (f : LaneFields)
  /-- VBALLOT (R330). Ballots a predicate into a scalar register. -/
  | vballot (f : LaneFields)
  /-- VPREFIX (R331). Prefix count of a predicate. -/
  | vprefix (f : LaneFields)
  /-- VSHFLI (R332). Indexed shuffle. -/
  | vshfli (f : LaneFields)
  /-- VSHFLX (R332). XOR shuffle. -/
  | vshflx (f : LaneFields)
  /-- VSHFLU (R332). Shuffle up. -/
  | vshflu (f : LaneFields)
  /-- VSHFLD (R332). Shuffle down. -/
  | vshfld (f : LaneFields)
  /-- VLANEID (R334). Writes the lane number. -/
  | vlaneid (f : LaneFields)
  /-- VPAND (R329). Predicate AND. -/
  | vpand (f : LaneFields)
  /-- VPOR (R329). Predicate OR. -/
  | vpor (f : LaneFields)
  /-- VPXOR (R329). Predicate XOR. -/
  | vpxor (f : LaneFields)
  /-- VPANDN (R329). Predicate AND NOT. -/
  | vpandn (f : LaneFields)
  /-- VXSET (R335). Sets an index register. -/
  | vxset (f : LaneFields)
  /-- VXADD (R335). Advances an index register's INDEX. -/
  | vxadd (f : LaneFields)
  /-- VXMOV (R335). Copies an index register to a vector register. -/
  | vxmov (f : LaneFields)
  /-- TNMASK (R378). Computes attention-mask bits from the tree's ancestry. -/
  | tnmask (f : LaneFields)
  /-- UNASSIGNED_ENCODING (R3). A scalar word, lane word or clause-body word that encodes no assigned instruction traps ILLEGAL_OPCODE when a path reaches it. -/
  | unassignedEncoding (w : EncWord)
  /-- ILLEGAL_INSTRUCTION (R55). A custom-0 word with a reserved funct3, an undefined nonzero funct7 bit or user-mode execution raises the illegal-instruction exception (mcause 2). -/
  | illegalInstruction (w : BitVec 32)
  /-- CLAUSE_START (R87). When the running clause has ended, the datapath starts the next eligible clause by rotating over the team slots. -/
  | clauseStart (core : Nat)
  /-- CLAUSE_COMPLETION (R193). A clause completes when it has ended and its long-latency operations have finished, lowering its flags' outstanding counts. -/
  | clauseCompletion (core : Nat) (slot : Nat) (path : Nat)
  /-- ATTACH (R253). Attaches the debugger to an ASID so that event classes of its teams become stops. -/
  | dbgAttach (r : DebugReq)
  /-- DETACH (R253). Clears comparators and watchpoints and releases every stop. -/
  | dbgDetach (r : DebugReq)
  /-- LIST (R253). Returns up to 15 path records of resident teams. -/
  | dbgList (r : DebugReq)
  /-- POLL (R253). Returns up to 15 pending stop records, oldest first. -/
  | dbgPoll (r : DebugReq)
  /-- HOLD (R253). Stops a path at its next instruction boundary. -/
  | dbgHold (r : DebugReq)
  /-- RESUME (R253). Releases the stop of a path. -/
  | dbgResume (r : DebugReq)
  /-- STEP (R255). Executes one scalar instruction of a stopped path and stops it again. -/
  | dbgStep (r : DebugReq)
  /-- SETBP (R253). Sets a PC comparator. -/
  | dbgSetbp (r : DebugReq)
  /-- CLRBP (R253). Clears a PC comparator. -/
  | dbgClrbp (r : DebugReq)
  /-- SETWP (R254). Sets a watchpoint over a virtual or scratchpad range. -/
  | dbgSetwp (r : DebugReq)
  /-- CLRWP (R253). Clears a watchpoint. -/
  | dbgClrwp (r : DebugReq)
  /-- RDREG (R253). Reads registers of a debugged path. -/
  | dbgRdreg (r : DebugReq)
  /-- WRREG (R253). Writes registers of a stopped path. -/
  | dbgWrreg (r : DebugReq)
  /-- RDMEM (R253). Reads up to 4,064 bytes of the attached ASID's memory. -/
  | dbgRdmem (r : DebugReq)
  /-- DEBUG_UNKNOWN_COMMAND (R253). A debug request whose CMD is not one of the listed commands completes with DCODE 1. -/
  | debugUnknownCommand (r : DebugReq)
  /-- POWER_ON (R14). Main power arrives and the device starts bring-up from step 1. -/
  | powerOn
  /-- FUNCTION_LEVEL_RESET (R14). A function-level reset zeroes the measurement registers and task counters and restarts bring-up. -/
  | functionLevelReset
  /-- BRING_UP_STEP (R14). A bring-up step (boot ROM, signature check, DRAM, bridge or fabric training) ends, and the device records BSTEP or BERR and starts the next step. -/
  | bringUpStep (ok : Bool)
  /-- FULL_SERVICE_SWITCH (R16). Once step 5 has completed and no team is resident, the device writes back the L2, switches to the 320-slice interleave and restarts dispatch. -/
  | fullServiceSwitch
  /-- MAIN_POWER_LOSS (R11). Loss of main power enters D3cold and nothing is retained. -/
  | mainPowerLoss
  /-- D3HOT_REQUEST (R12). A PCIe power-management request enters D3hot after every queue item has finished and no version, lock or acknowledgement is outstanding. -/
  | d3hotRequest
  /-- D0_REQUEST (R11). A D0 request leaves D3hot and the device resumes at the service level it left. -/
  | d0Request
  /-- D0_IDLE_ENTRY (R11). After 100 µs with no resident team, the device gates the core clocks. -/
  | d0IdleEntry
  /-- POWER_WINDOW (R10). At the end of each 1 ms power window, the device lowers the core clock one step if the cap was exceeded, or raises it after 16 windows below 95% of the cap. -/
  | powerWindow (watts : Nat)
  /-- THERMAL_THROTTLE (R13). A sensor reading of 105 °C throttles that die's core clock. -/
  | thermalThrottle (die : Nat)
  /-- THERMAL_SHUTDOWN (R13). A sensor reading of 115 °C stops issue on both dies and reports UNCORRECTABLE for every resident task. -/
  | thermalShutdown
  /-- BRIDGE_FLIT_FAILURE (R5). A bridge flit that fails its CRC is retried, and after 64 retries the device stops issuing and reports UNCORRECTABLE. -/
  | bridgeFlitFailure
  /-- MGMT_BUS_REQUEST (R18). An MCTP/PLDM request on the OAM SMBus reads monitoring data or the certificate, or reads or writes the power cap. -/
  | mgmtBusRequest (r : MgmtReq)
  /-- PCAP_WRITE (R10). A write of PCAP sets the module power cap, and a value outside 600 to 1,800 W is ignored. -/
  | pcapWrite (v : BitVec 32)
  /-- WINBASE_WRITE (R24). A write of WINBASE moves the memory window, and an unaligned value is ignored. -/
  | winbaseWrite (v : BitVec 64)
  /-- HOST_MEMORY_ACCESS (R20). A host access through CXL.mem or the memory window performs at the line's home slice as a strong system-scope access, or is held while a range lock is held. -/
  | hostMemoryAccess (a : HostAccess)
  /-- SNP_DATA (R31). A host SnpData snoop is answered according to the line's state at the L2 slice. -/
  | snpData (line : Nat)
  /-- SNP_CUR (R31). A host SnpCur snoop is answered according to the line's state at the L2 slice. -/
  | snpCur (line : Nat)
  /-- SNP_INV (R31). A host SnpInv snoop invalidates the line or marks an outstanding fill no-install. -/
  | snpInv (line : Nat)
  /-- HOST_FILL_RETURN (R32). A returning CXL.cache fill delivers its data to the loads waiting on it, and the line is installed unless the fill is marked no-install. -/
  | hostFillReturn (line : Nat)
  /-- BIAS_FLIP_REQUEST (R29). A write of BFREQ is rejected or queues a bias flip of a run of frames. -/
  | biasFlipRequest (v : BitVec 64)
  /-- BIAS_FLIP_FRAME (R30). Once its lock is granted, the flip of one frame commits versions early, moves lines, changes the bias bit and releases the lock. -/
  | biasFlipFrame
  /-- MEXT (R35). A write of MEXT extends M5 to M8 with the staged digest and appends a log record, or sets IGN or FULL. -/
  | mext (v : BitVec 64)
  /-- GET_VERSION (R36). The SPDM GET_VERSION request is answered over the DOE mailbox. -/
  | getVersion
  /-- GET_CAPABILITIES (R36). The SPDM GET_CAPABILITIES request is answered. -/
  | getCapabilities
  /-- NEGOTIATE_ALGORITHMS (R36). The SPDM NEGOTIATE_ALGORITHMS request selects SM2_P256 and SM3_256, or returns InvalidRequest. -/
  | negotiateAlgorithms (sm2 : Bool) (sm3 : Bool)
  /-- GET_DIGESTS (R36). The SPDM GET_DIGESTS request returns the certificate digests. -/
  | getDigests
  /-- GET_CERTIFICATE (R33). The SPDM GET_CERTIFICATE request returns the SM2 identity certificate in slot 0. -/
  | getCertificate (slot : Nat)
  /-- CHALLENGE (R36). The SPDM CHALLENGE request is answered with a response signed over the transcript. -/
  | challenge (nonce : BitVec 256)
  /-- GET_MEASUREMENTS (R36). The SPDM GET_MEASUREMENTS request returns blocks 1 to 8 (M1 to M8) or block 9 (the log), signed where asked. -/
  | getMeasurements (block : Nat) (signed : Bool) (nonce : BitVec 256)
  /-- FNODE_WRITE (R39). A write of FNODE sets this device's fabric node number, and node 0xFFF silences all fabric traffic. -/
  | fnodeWrite (v : BitVec 32)
  /-- FTUNC_WRITE (R39). A write of FTUNC sets the uncertainty U, and a value outside 50 to 10,000 ns is ignored. -/
  | ftuncWrite (v : BitVec 32)
  /-- FABRIC_PORT_FAILURE (R37). A fabric port with a failed lane is taken down as a whole and cleared in FSTAT. -/
  | fabricPortFailure (port : Nat)
  /-- SYNC_EXCHANGE (R41). A PTP Sync exchange updates the error bound, LOCK and lease hold. -/
  | syncExchange (offsetNs : Nat) (variationNs : Nat)
  /-- REMOTE_ACCESS_REQUEST (R44). A peer's space-0x3 access arriving at the owner is resolved through the export table and performed, leased or refused. -/
  | remoteAccessRequest (r : PeerReq)
  /-- LEASE_HELD_WRITE (R46). Once owner fabric time reaches Tmax + U, a write or atomic held on a leased line performs. -/
  | leaseHeldWrite (line : Nat)
  /-- REMOTE_COMPLETION (R47). A fabric completion or acknowledgement for a remote access returns to the requester. -/
  | remoteCompletion (id : Nat) (reply : PeerReply)
  /-- REMOTE_TIMEOUT (R43). A space-0x3 access with no completion within FTMO traps UNCORRECTABLE. -/
  | remoteTimeout (id : Nat)
  /-- COLLECTIVE_ARRIVAL (R52). A member's collective data or fingerprint arrives, and its bytes are counted down on the barrier object. -/
  | collectiveArrival (id : Nat) (m : CollMsg)
  /-- COLLECTIVE_COMPLETION (R52). A collective completes: STATUS is set to 1, it releases at SCOPE and it posts TAG when EVT is set. -/
  | collectiveCompletion (id : Nat)
  /-- COLLECTIVE_FAILURE (R53). A mismatch, lost member or member fault ends the collective with STATUS 2, 3 or 4 and counts its barrier to zero. -/
  | collectiveFailure (id : Nat) (why : CollFail)
  /-- COLLECTIVE_ARRIVAL_TIMEOUT (R53). A member that has not arrived within TMO ends the collective as failed. -/
  | collectiveArrivalTimeout (id : Nat)
  /-- LAUNCH_STORE (R64). A 64-byte launch store is accepted into the inline slot and ring and advances QWR, or is discarded and counted in LDROP. -/
  | launchStore (q : Nat) (t : LaunchTlp)
  /-- SWAIT_REREAD (R59). A write to the signal's line, or the microsecond poll of a host signal, makes a waiting SWAIT reread VALUE and complete when the condition holds. -/
  | swaitReread (h : Nat)
  /-- SWAIT_TIMEOUT (R59). Expiry of qpwto completes SWAIT with the last value read and the condition false. -/
  | swaitTimeout (h : Nat)
  /-- QCTL_WRITE (R62). A write of QCTL sets or clears EN and the class fields, and a LOG2SZ outside 4 to 16 leaves the register unchanged. -/
  | qctlWrite (q : Nat) (v : BitVec 64)
  /-- QUEUE_RESET (R73). A write of 1 to QRST.GO cancels a queue's unbegun packets and running launches, waits for locks and acknowledgements, writes signals and resets the indices. -/
  | queueReset (q : Nat)
  /-- LAUNCH_PACKET (R65). A LAUNCH packet begins, and its launch's neighbourhoods join the waiting set. -/
  | launchPacket (q : Nat) (idx : Nat)
  /-- COPY_PACKET (R67). A COPY packet begins a linear copy in the queue-processor view under range locks. -/
  | copyPacket (q : Nat) (idx : Nat)
  /-- SIGNAL_PACKET (R67). A SIGNAL packet stores, adds or subtracts on a signal's VALUE atomically at system scope. -/
  | signalPacket (q : Nat) (idx : Nat)
  /-- WAIT_PACKET (R67). A WAIT packet completes when VALUE meets CMP against VAL. -/
  | waitPacket (q : Nat) (idx : Nat)
  /-- WAIT_PACKET_TIMEOUT (R67). Expiry of a WAIT packet's TMO fails it with TIMER. -/
  | waitPacketTimeout (q : Nat) (idx : Nat)
  /-- COND_PACKET (R71). A COND packet reads its predicate word once and runs or cancels the SKIP following packets. -/
  | condPacket (q : Nat) (idx : Nat)
  /-- BARRIER_AND_PACKET (R67). A BARRIER-AND packet completes when every named signal's VALUE is zero. -/
  | barrierAndPacket (q : Nat) (idx : Nat)
  /-- BARRIER_AND_TIMEOUT (R67). Expiry of a BARRIER-AND packet's TMO fails it with TIMER. -/
  | barrierAndTimeout (q : Nat) (idx : Nat)
  /-- TREE_OPEN (R374). A TREE packet with OP 0 opens a slot for the queue's ASID. -/
  | treeOpen (q : Nat) (idx : Nat)
  /-- TREE_FORK (R374). A TREE packet with OP 1 forks child NODE2 from NODE. -/
  | treeFork (q : Nat) (idx : Nat)
  /-- TREE_PRUNE (R156). A TREE packet with OP 2 prunes a node's subtree. -/
  | treePrune (q : Nat) (idx : Nat)
  /-- TREE_COMMIT (R153). A TREE packet with OP 3 commits a node's path as the new trunk. -/
  | treeCommit (q : Nat) (idx : Nat)
  /-- TREE_RETIRE (R158). A TREE packet with OP 4 retires a slot. -/
  | treeRetire (q : Nat) (idx : Nat)
  /-- REGISTER_REBUILD_LAUNCH (R162). A TREE packet with OP 5 registers or clears the slot's rebuild launch image. -/
  | registerRebuildLaunch (q : Nat) (idx : Nat)
  /-- PACKET_COMPLETION (R69). At a packet's end the device writes OUTCOME, TRAP and TASKID, decrements VALUE as one release, raises MSI-X if IRQ is set and advances QRD. -/
  | packetCompletion (q : Nat) (idx : Nat)
  /-- LAUNCH_COMPLETION (R65). A launch completes once its teams have ended, its versions have committed, its bins are empty and its copies and collectives are done. -/
  | launchCompletion (handle : Nat)
  /-- RUNTIME_FIRMWARE_LOAD (R75). A write of FWCTL.GO verifies, measures and starts a new firmware image, or reports FWSTAT 3 to 6. -/
  | runtimeFirmwareLoad (v : BitVec 32)
  /-- PLACEMENT (R80). The dispatcher places the oldest waiting neighbourhood of the highest class on the first fitting rectangle and starts its teams. -/
  | placement
  /-- PREEMPTION_DECISION (R89). When a waiting neighbourhood's waiting time reaches its class threshold, the dispatcher chooses widened cores to vacate. -/
  | preemptionDecision (now : Nat)
  /-- CONTEXT_SAVE (R92). A team stops at an instruction boundary and its state and save set are written to the context-save share and the DRAM save area. -/
  | contextSave (core : Nat) (slot : Nat)
  /-- CONTEXT_RESTORE (R95). A re-placed saved neighbourhood is restored and resumes at its saved boundary. -/
  | contextRestore (core : Nat) (slot : Nat)
  /-- VACATE_AND_FENCE (R90). A CVREQ write with OP 0 vacates and fences a widened range of cores. -/
  | vacateAndFence (v : BitVec 64)
  /-- UNFENCE (R90). A CVREQ write with OP 1 unfences a range of cores. -/
  | unfence (v : BitVec 64)
  /-- BIN_TIMER_EXPIRY (R82). A spawn bin whose timer reaches BTIMER × 64 core cycles launches a team with the lanes it holds. -/
  | binTimerExpiry (core : Nat) (bin : Nat)
  /-- BIN_TEAM_START (R83). A launched bin starts its team in a free spawn slot of its launch. -/
  | binTeamStart (core : Nat)
  /-- CTIME_TICK (R108). Every 64 core cycles, ctime and every resident path's pts rise by 1. -/
  | ctimeTick (core : Nat)
  /-- PAIRED_STEP_START (R88). An agreed paired MLOOP step starts on both engines at the first cycle, at least 4 cycles after the proposal, at which both are idle. -/
  | pairedStepStart (core : Nat)
  /-- MATRIX_STEP (R227). The engine starts the next MLOOP step from a sequencer and accumulates it into the tile. -/
  | matrixStep (core : Nat)
  /-- L2PART_WRITE (R112). A write of an L2PART register sets a partition's slice and way masks, and a write to partition 15 is ignored while a team is resident. -/
  | l2partWrite (n : Nat) (v : BitVec 64)
  /-- L2ASID_WRITE (R113). A write of L2ASID sets the partition of each ASID, and the whole write is ignored if it names partition 15. -/
  | l2asidWrite (n : Nat) (v : BitVec 64)
  /-- FTWR_WRITE (R136). A write of FTWR sets the frame-table byte of a frame. -/
  | ftwrWrite (v : BitVec 64)
  /-- FTRD_WRITE (R138). A write of FTRD selects the frame whose byte FTRD then reads. -/
  | ftrdWrite (v : BitVec 64)
  /-- PF_REPLAY (R134). A PFRESP write with code 0 replays the parked instruction for its unfinished lanes. -/
  | pfReplay (fid : BitVec 32)
  /-- PF_FAIL (R134). A PFRESP write with code 1 makes the parked instruction take PAGE_FAULT as a trap. -/
  | pfFail (fid : BitVec 32)
  /-- FAULT_RECORD_POST (R134). When EN = 1 and the fault ring has space, a parked path's fault record is written and the PFCTL vector is raised. -/
  | faultRecordPost
  /-- TSREQ_WRITE (R130). A write of TSREQ starts a driver shoot-down of TSVA's range, or is rejected with ERR. -/
  | tsreqWrite (v : BitVec 64)
  /-- SHOOTDOWN_COMPLETE (R128). A shoot-down completes when every access that translated through a removed entry has performed or been cancelled. -/
  | shootdownComplete (id : Nat)
  /-- MIGREQ_WRITE (R132). A write of MIGREQ checks the leaf, locks both frames, copies the frame, swaps the leaf, shoots the page down and releases the locks. -/
  | migreqWrite (v : BitVec 64)
  /-- SCCTL_WRITE (R137). A write of SCCTL configures and enables or disables Scythe, and a field out of range leaves the register unchanged. -/
  | scctlWrite (v : BitVec 64)
  /-- SCYTHE_SWEEP_STEP (R137). Scythe examines the frame under its hand, clearing FA or queueing the frame, and advances the hand. -/
  | scytheSweepStep
  /-- SCTAIL_WRITE (R137). A write of SCTAIL consumes ready-ring entries and lets a waiting Scythe resume below WM. -/
  | sctailWrite (v : BitVec 32)
  /-- KVBASE_WRITE (R140). A write of KVBASE sets the KV region, and is ignored while a slot is open or retiring or if the value is misaligned. -/
  | kvbaseWrite (v : BitVec 64)
  /-- KV_DONATE (R140). A write of KVDON pushes a frame onto its die's free list, or is refused with ERR, and replays writes parked for a frame. -/
  | kvDonate (v : BitVec 64)
  /-- KV_RECLAIM (R140). A write of KVRECL takes the top free frame back from a die for the driver to read. -/
  | kvReclaim (v : BitVec 64)
  /-- KVFRD_WRITE (R140). A write of KVFRD selects the frame whose count word KVFRD then reads. -/
  | kvfrdWrite (v : BitVec 64)
  /-- KV_COPY (R151). The page engine begins a copy-on-write of one frame, re-runs the lookup and copies the committed data into a new frame. -/
  | kvCopy (id : Nat)
  /-- KV_REBUILD_START (R160). An uncorrectable error on a data-plane frame marks it RB, replaces it, fills the rebuild record and injects the registered rebuild launch. -/
  | kvRebuildStart (frame : Nat)
  /-- KV_REBUILD_END (R160). Completion of the rebuild launch clears RB and replays the parked accesses. -/
  | kvRebuildEnd (slot : Nat)
  /-- PRUNE_RELEASE (R156). Once accesses through a pruned subtree have drained, its map entries are removed and its nodes become free. -/
  | pruneRelease (slot : Nat)
  /-- RANGE_LOCK_GRANT (R237). Gorse grants a waiting range-lock registration that no held lock and no earlier conflicting registration blocks. -/
  | rangeLockGrant
  /-- RANGE_LOCK_RELEASE (R237). Release of a range lock replays accesses held by RANGE_LOCKED and lets waiting registrations be granted. -/
  | rangeLockRelease (id : Nat)
  /-- COPY_LINE_WRITE (R239). An engine line performs at its destination and its bytes are subtracted from the barrier's CNT. -/
  | copyLineWrite (id : Nat)
  /-- COPY_COMPLETION (R179). A copy record completes: it commits at nb or wider, writes STATUS, counts down to zero, posts its event and releases its locks. -/
  | copyCompletion (id : Nat)
  /-- COPY_FAILURE (R239). A failed or cancelled copy record writes TRAP and STATUS 2, counts CNT down by its full size and raises ERRC. -/
  | copyFailure (id : Nat)
  /-- CONTEXT_TIMER_EXPIRY (R251). When CCYC reaches TCMP, the team clears TCMP and takes a TIMER event. -/
  | contextTimerExpiry (core : Nat) (slot : Nat)
  /-- WALL_DEADLINE_EXPIRY (R251). When WALL reaches TDLN, the team clears TDLN and takes a TIMER event. -/
  | wallDeadlineExpiry (core : Nat) (slot : Nat)
  /-- DMPSTAT_WRITE (R260). Writing 0 to DMPSTAT clears it. -/
  | dmpstatWrite (v : BitVec 64)
  /-- JOURNAL_RECORD (R258). Setting JCTL.MODE to 1 starts appending journal records. -/
  | journalRecord (v : BitVec 32)
  /-- JOURNAL_REPLAY (R259). Setting JCTL.MODE to 2 re-runs a journal, failing with JSTAT.ERR on a digest mismatch. -/
  | journalReplay (v : BitVec 32)
  /-- CXCTL_WRITE (R256). A write of CXCTL sets up a causal trial and clears CXDLY when EN is set. -/
  | cxctlWrite (v : BitVec 64)
  /-- REGISTER_WRITE (R21). A write of a device register with no behaviour of its own stores its writable fields, or clears W1C bits. -/
  | registerWrite (off : Nat) (v : BitVec 64)
  /-- BWAIT_REREAD (R348). A write to the barrier object's line makes a pending BWAIT reread CNT and finish when it is at most zero. -/
  | bwaitReread (core : Nat) (slot : Nat) (path : Nat)
  /-- BARRIER_GENERATION_COMPLETE (R351). A barrier generation completes once every counted lane or team has arrived, releasing the waiting lanes as an acquire. -/
  | barrierGenerationComplete (core : Nat) (slot : Nat) (nb : Bool)
  /-- QUEUE_PROCESSOR_ACCESS (R54). A queue processor's ordinary RISC-V load, store or atomic reaches host memory, local SRAM or device memory, the last as a strong system-scope access at the home slice. -/
  | queueProcessorAccess (h : Nat) (a : QpAccess)
  /-- DEBUG_REQUEST_TIMEOUT (R252). A debug request not completed within 1 ms ends with DCODE 4 and leaves the path unchanged. -/
  | debugRequestTimeout
  deriving DecidableEq, Repr

end Sys2Proof
end

