-- ==== Sys2Proof/WellFormed.lean ====
section
/-!
DEFINITION. Well-formed instructions: an encoded instruction is one that the opcode map assigns (R3, R55, R284 to R290),
and an event names things that exist.
-/

namespace Sys2Proof

/-- Whether R284 to R287 assign a scalar word. -/
def assignedScalar (w : BitVec 32) : Bool :=
  let op := w.toNat % 128
  let fn7 := w.toNat / 2 ^ 25
  if op == 0x01 then decide (fn7 ≤ 0x1C)
  else if op == 0x30 then decide (fn7 ≤ 0x0A)
  else if op == 0x31 then decide (fn7 ≤ 0x08)
  else if 0x24 ≤ op && op ≤ 0x27 then decide (w.toNat / 2 ^ 28 ≤ 9)
  else if op == 0x2A || op == 0x2B then fn7 == 0
  else (0x02 ≤ op && op ≤ 0x0C) || (0x10 ≤ op && op ≤ 0x15) || (0x18 ≤ op && op ≤ 0x1D) || op == 0x20 || op == 0x21
    || op == 0x28 || op == 0x29 || op == 0x2E || op == 0x2F

/-- Whether R290 assigns a lane opcode. -/
def assignedLane (opc : Nat) : Bool :=
  (0x0 ≤ opc && opc ≤ 0xC) || (0x20 ≤ opc && opc ≤ 0x2B) || (0x30 ≤ opc && opc ≤ 0x31) ||
  (0x40 ≤ opc && opc ≤ 0x45) || (0x100 ≤ opc && opc ≤ 0x10C) || (0x140 ≤ opc && opc ≤ 0x145) ||
  opc == 0x180 || (0x200 ≤ opc && opc ≤ 0x205) || (0x210 ≤ opc && opc ≤ 0x217) ||
  (0x220 ≤ opc && opc ≤ 0x222) || (0x230 ≤ opc && opc ≤ 0x231) || (0x280 ≤ opc && opc ≤ 0x287) ||
  (0x2C0 ≤ opc && opc ≤ 0x2C5) || (0x2D0 ≤ opc && opc ≤ 0x2DC) || (0x300 ≤ opc && opc ≤ 0x306) ||
  (0x308 ≤ opc && opc ≤ 0x30B) || (0x310 ≤ opc && opc ≤ 0x312) || opc == 0x320

/-- Whether R55 to R60 assign a custom-0 word. -/
def assignedCommand (w : BitVec 32) : Bool :=
  let f3 := w.toNat / 2 ^ 12 % 8
  let f7 := w.toNat / 2 ^ 25
  ((f3 == 0 || f3 == 3) && f7 == 0) || (f3 == 1 && decide (f7 ≤ 1)) || (f3 == 2 && decide (f7 ≤ 3))

/-- Whether the opcode map assigns a scalar word or a lane word. -/
def assignedWord : EncWord → Bool
  | .scalar w => assignedScalar w
  | .lane w => assignedLane (w.toNat % 1024)

/-- A team slot of a core. -/
def goodSlot (core slot : Nat) : Bool := decide (core < 384) && decide (slot < 16)

/-- Well-formedness: what each instruction or event may name. -/
def Instr.wf : Instr → Bool
  | .powerOn => true
  | .functionLevelReset => true
  | .bringUpStep _ => true
  | .fullServiceSwitch => true
  | .mainPowerLoss => true
  | .d3hotRequest => true
  | .d0Request => true
  | .d0IdleEntry => true
  | .powerWindow _ => true
  | .thermalThrottle die => decide (die < 2)
  | .thermalShutdown => true
  | .bridgeFlitFailure => true
  | .mgmtBusRequest _ => true
  | .pcapWrite _ => true
  | .winbaseWrite _ => true
  | .hostMemoryAccess a => decide (1 ≤ a.len) && (match a.data with | none => true | some d => d.length == a.len)
  | .snpData line => decide (line < 2 ^ 58)
  | .snpCur line => decide (line < 2 ^ 58)
  | .snpInv line => decide (line < 2 ^ 58)
  | .hostFillReturn line => decide (line < 2 ^ 58)
  | .biasFlipRequest _ => true
  | .biasFlipFrame => true
  | .mext _ => true
  | .getVersion => true
  | .getCapabilities => true
  | .negotiateAlgorithms _ _ => true
  | .getDigests => true
  | .getCertificate slot => decide (slot < 8)
  | .challenge _ => true
  | .getMeasurements block _ _ => decide (1 ≤ block) && decide (block ≤ 9)
  | .fnodeWrite _ => true
  | .ftuncWrite _ => true
  | .fabricPortFailure port => decide (port < 24)
  | .syncExchange _ _ => true
  | .remoteAccessRequest r => decide (r.node < 0xFFF) && decide (r.off < 2 ^ 48)
  | .leaseHeldWrite line => decide (line < 2 ^ 58)
  | .remoteCompletion _ _ => true
  | .remoteTimeout _ => true
  | .collectiveArrival _ _ => true
  | .collectiveCompletion _ => true
  | .collectiveFailure _ _ => true
  | .collectiveArrivalTimeout _ => true
  | .launchStore q t => decide (q < 1024) && decide (t.off + t.len ≤ 0x40) && decide (1 ≤ t.tlps)
  | .rfetch _ _ _ => true
  | .bfxu _ _ _ => true
  | .bfxs _ _ _ => true
  | .swait c _ _ _ => decide (c.toNat < 4)
  | .swaitReread h => decide (h < 8)
  | .swaitTimeout h => decide (h < 8)
  | .disp _ _ _ => true
  | .qctlWrite q _ => decide (q < 1024)
  | .queueReset q => decide (q < 1024)
  | .launchPacket q idx => decide (q < 1024) && decide (idx < 2 ^ 32)
  | .copyPacket q idx => decide (q < 1024) && decide (idx < 2 ^ 32)
  | .signalPacket q idx => decide (q < 1024) && decide (idx < 2 ^ 32)
  | .waitPacket q idx => decide (q < 1024) && decide (idx < 2 ^ 32)
  | .waitPacketTimeout q idx => decide (q < 1024) && decide (idx < 2 ^ 32)
  | .condPacket q idx => decide (q < 1024) && decide (idx < 2 ^ 32)
  | .barrierAndPacket q idx => decide (q < 1024) && decide (idx < 2 ^ 32)
  | .barrierAndTimeout q idx => decide (q < 1024) && decide (idx < 2 ^ 32)
  | .treeOpen q idx => decide (q < 1024) && decide (idx < 2 ^ 32)
  | .treeFork q idx => decide (q < 1024) && decide (idx < 2 ^ 32)
  | .treePrune q idx => decide (q < 1024) && decide (idx < 2 ^ 32)
  | .treeCommit q idx => decide (q < 1024) && decide (idx < 2 ^ 32)
  | .treeRetire q idx => decide (q < 1024) && decide (idx < 2 ^ 32)
  | .registerRebuildLaunch q idx => decide (q < 1024) && decide (idx < 2 ^ 32)
  | .packetCompletion q idx => decide (q < 1024) && decide (idx < 2 ^ 32)
  | .launchCompletion handle => decide (handle < 4096)
  | .runtimeFirmwareLoad _ => true
  | .placement => true
  | .preemptionDecision _ => true
  | .contextSave core slot => goodSlot core slot
  | .contextRestore core slot => goodSlot core slot
  | .vacateAndFence _ => true
  | .unfence _ => true
  | .binTimerExpiry core bin => decide (core < 384) && decide (bin < 32)
  | .binTeamStart core => decide (core < 384)
  | .ctimeTick core => decide (core < 384)
  | .clauseStart core => decide (core < 384)
  | .clauseCompletion core slot path => goodSlot core slot && decide (path < 8)
  | .pairedStepStart core => decide (core < 384)
  | .matrixStep core => decide (core < 384)
  | .l2partWrite n _ => decide (n < 16)
  | .l2asidWrite n _ => decide (n < 256)
  | .ftwrWrite _ => true
  | .ftrdWrite _ => true
  | .pfReplay _ => true
  | .pfFail _ => true
  | .faultRecordPost => true
  | .tsreqWrite _ => true
  | .shootdownComplete _ => true
  | .migreqWrite _ => true
  | .scctlWrite _ => true
  | .scytheSweepStep => true
  | .sctailWrite _ => true
  | .kvbaseWrite _ => true
  | .kvDonate _ => true
  | .kvReclaim _ => true
  | .kvfrdWrite _ => true
  | .kvCopy _ => true
  | .kvRebuildStart frame => decide (frame < 0x900000)
  | .kvRebuildEnd slot => decide (slot < 4096)
  | .pruneRelease slot => decide (slot < 4096)
  | .rangeLockGrant => true
  | .rangeLockRelease _ => true
  | .copyLineWrite _ => true
  | .copyCompletion _ => true
  | .copyFailure _ => true
  | .contextTimerExpiry core slot => goodSlot core slot
  | .wallDeadlineExpiry core slot => goodSlot core slot
  | .dmpstatWrite _ => true
  | .journalRecord _ => true
  | .journalReplay _ => true
  | .cxctlWrite _ => true
  | .dbgAttach r => decide (r.data.length ≤ 4080)
  | .dbgDetach r => decide (r.data.length ≤ 4080)
  | .dbgList r => decide (r.data.length ≤ 4080)
  | .dbgPoll r => decide (r.data.length ≤ 4080)
  | .dbgHold r => decide (r.data.length ≤ 4080)
  | .dbgResume r => decide (r.data.length ≤ 4080)
  | .dbgStep r => decide (r.data.length ≤ 4080)
  | .dbgSetbp r => decide (r.data.length ≤ 4080)
  | .dbgClrbp r => decide (r.data.length ≤ 4080)
  | .dbgSetwp r => decide (r.data.length ≤ 4080)
  | .dbgClrwp r => decide (r.data.length ≤ 4080)
  | .dbgRdreg r => decide (r.data.length ≤ 4080)
  | .dbgWrreg r => decide (r.data.length ≤ 4080)
  | .dbgRdmem r => decide (r.data.length ≤ 4080)
  | .registerWrite off _ => decide (off < 0x1010000)
  | .add _ _ _ => true
  | .sub _ _ _ => true
  | .and _ _ _ => true
  | .or _ _ _ => true
  | .xor _ _ _ => true
  | .andn _ _ _ => true
  | .shl _ _ _ => true
  | .shr _ _ _ => true
  | .sar _ _ _ => true
  | .rol _ _ _ => true
  | .ror _ _ _ => true
  | .slt _ _ _ => true
  | .sltu _ _ _ => true
  | .seq _ _ _ => true
  | .min _ _ _ => true
  | .max _ _ _ => true
  | .minu _ _ _ => true
  | .maxu _ _ _ => true
  | .mul _ _ _ => true
  | .mulh _ _ _ => true
  | .mulhu _ _ _ => true
  | .div _ _ _ => true
  | .divu _ _ _ => true
  | .rem _ _ _ => true
  | .remu _ _ _ => true
  | .clz _ _ _ => true
  | .ctz _ _ _ => true
  | .popc _ _ _ => true
  | .sext _ _ _ => true
  | .addi _ _ _ => true
  | .andi _ _ _ => true
  | .ori _ _ _ => true
  | .xori _ _ _ => true
  | .shli _ _ _ => true
  | .shri _ _ _ => true
  | .sari _ _ _ => true
  | .slti _ _ _ => true
  | .sltiu _ _ _ => true
  | .lui _ _ => true
  | .addpc _ _ => true
  | .beq _ _ _ => true
  | .bne _ _ _ => true
  | .blt _ _ _ => true
  | .bge _ _ _ => true
  | .bltu _ _ _ => true
  | .bgeu _ _ _ => true
  | .j _ => true
  | .call _ => true
  | .lc _ => true
  | .split _ _ _ => true
  | .jr _ _ _ => true
  | .waitf _ _ _ => true
  | .ld _ _ _ _ _ _ _ _ => true
  | .st _ _ _ _ _ _ _ _ => true
  | .amoadd _ _ _ _ _ _ => true
  | .amoand _ _ _ _ _ _ => true
  | .amoor _ _ _ _ _ _ => true
  | .amoxor _ _ _ _ _ _ => true
  | .amomin _ _ _ _ _ _ => true
  | .amomax _ _ _ _ _ _ => true
  | .amominu _ _ _ _ _ _ => true
  | .amomaxu _ _ _ _ _ _ => true
  | .amoswap _ _ _ _ _ _ => true
  | .amocas _ _ _ _ _ _ => true
  | .fence _ _ _ _ => true
  | .tfence _ _ _ _ => true
  | .tshoot _ _ _ => true
  | .tsync _ _ _ => true
  | .crr _ _ _ => true
  | .crw _ _ _ => true
  | .join _ _ _ => true
  | .spawn _ _ _ => true
  | .evpop _ _ _ => true
  | .setfmt _ _ _ => true
  | .vcommit _ _ _ => true
  | .ringadv _ _ _ => true
  | .endPath _ _ _ => true
  | .trap _ _ _ => true
  | .eret _ _ _ => true
  | .brk _ _ _ => true
  | .prog _ _ _ => true
  | .tnopen _ _ _ => true
  | .tnfork _ _ _ => true
  | .tnappend _ _ _ => true
  | .tnprune _ _ _ => true
  | .tncommit _ _ _ => true
  | .tnretire _ _ _ => true
  | .tnbind _ _ _ => true
  | .tnstat _ _ _ => true
  | .tntok _ _ _ => true
  | .vadd _ => true
  | .vsub _ => true
  | .vmul _ => true
  | .vmulh _ => true
  | .vmad _ => true
  | .vdiv _ => true
  | .vrem _ => true
  | .vmin _ => true
  | .vmax _ => true
  | .vabs _ => true
  | .vneg _ => true
  | .vadds _ => true
  | .vsubs _ => true
  | .vand _ => true
  | .vor _ => true
  | .vxor _ => true
  | .vnot _ => true
  | .vandn _ => true
  | .vshl _ => true
  | .vshr _ => true
  | .vrol _ => true
  | .vclz _ => true
  | .vpopc _ => true
  | .vbrev _ => true
  | .vbfx _ => true
  | .vmov _ => true
  | .vsel _ => true
  | .vcmpeq _ => true
  | .vcmpne _ => true
  | .vcmplt _ => true
  | .vcmple _ => true
  | .vcmpgt _ => true
  | .vcmpge _ => true
  | .vfadd _ => true
  | .vfsub _ => true
  | .vfmul _ => true
  | .vfma _ => true
  | .vfmin _ => true
  | .vfmax _ => true
  | .vfabs _ => true
  | .vfneg _ => true
  | .vfdiv _ => true
  | .vfsqrt _ => true
  | .vfrsq _ => true
  | .vfexp2 _ => true
  | .vflog2 _ => true
  | .vfcmpeq _ => true
  | .vfcmpne _ => true
  | .vfcmplt _ => true
  | .vfcmple _ => true
  | .vfcmpgt _ => true
  | .vfcmpge _ => true
  | .vcvt _ => true
  | .vld _ => true
  | .vst _ => true
  | .vld2 _ => true
  | .vst2 _ => true
  | .vld4 _ => true
  | .vst4 _ => true
  | .vaadd _ => true
  | .vaand _ => true
  | .vaor _ => true
  | .vaxor _ => true
  | .vamin _ => true
  | .vamax _ => true
  | .vaswap _ => true
  | .vacas _ => true
  | .vlaor _ => true
  | .vlaand _ => true
  | .vlaxor _ => true
  | .vspill _ => true
  | .vfill _ => true
  | .bwait _ => true
  | .bwaitReread core slot path => goodSlot core slot && decide (path < 8)
  | .cpk _ => true
  | .coll _ => true
  | .vbar _ => true
  | .vnbar _ => true
  | .barrierGenerationComplete core slot _ => goodSlot core slot
  | .vfence _ => true
  | .binit _ => true
  | .badd _ => true
  | .mzero _ => true
  | .mloop _ => true
  | .mloopp _ => true
  | .mrd _ => true
  | .mwr _ => true
  | .mstat _ => true
  | .qld _ => true
  | .qst _ => true
  | .qmov _ => true
  | .qtrn _ => true
  | .qadd _ => true
  | .qscl _ => true
  | .qmul _ => true
  | .qmad _ => true
  | .qchol _ => true
  | .qlup _ => true
  | .qsolc _ => true
  | .qsoll _ => true
  | .qdet _ => true
  | .vballot _ => true
  | .vprefix _ => true
  | .vshfli _ => true
  | .vshflx _ => true
  | .vshflu _ => true
  | .vshfld _ => true
  | .vlaneid _ => true
  | .vpand _ => true
  | .vpor _ => true
  | .vpxor _ => true
  | .vpandn _ => true
  | .vxset _ => true
  | .vxadd _ => true
  | .vxmov _ => true
  | .tnmask _ => true
  | .unassignedEncoding w => !assignedWord w
  | .queueProcessorAccess h a => decide (h < 8) && (a.size == 1 || a.size == 2 || a.size == 4 || a.size == 8)
  | .illegalInstruction w => w.toNat % 128 == 0x0B && !assignedCommand w
  | .debugUnknownCommand r => decide (r.data.length ≤ 4080)
  | .debugRequestTimeout => true

end Sys2Proof
end

