-- ==== Sys2Proof/Decode.lean ====
section
/-!
DEFINITION. The decoder and the encoder of scalar words (R263, R284 to R287), lane words (R265, R290), clause headers
(R270) and command words (R55). Both read the same tables of the opcode map. Every word decodes: a word that encodes no
assigned instruction decodes to the step that traps on it.
-/

namespace Sys2Proof

/-! ## The opcode map -/

/-- The integer group, opcode 0x01, by fn7 (R285). -/
def intTable : List (Nat × (Reg6 → Reg6 → Reg6 → Instr)) :=
  [(0x0, Instr.add), (0x1, Instr.sub), (0x2, Instr.and), (0x3, Instr.or),
   (0x4, Instr.xor), (0x5, Instr.andn), (0x6, Instr.shl), (0x7, Instr.shr),
   (0x8, Instr.sar), (0x9, Instr.rol), (0xA, Instr.ror), (0xB, Instr.slt),
   (0xC, Instr.sltu), (0xD, Instr.seq), (0xE, Instr.min), (0xF, Instr.max)] ++
  [(0x10, Instr.minu), (0x11, Instr.maxu), (0x12, Instr.mul), (0x13, Instr.mulh),
   (0x14, Instr.mulhu), (0x15, Instr.div), (0x16, Instr.divu), (0x17, Instr.rem),
   (0x18, Instr.remu), (0x19, Instr.clz), (0x1A, Instr.ctz), (0x1B, Instr.popc),
   (0x1C, Instr.sext)]

/-- The SI instructions by major opcode (R284). -/
def siTable : List (Nat × (Reg6 → Reg6 → BitVec 13 → Instr)) :=
  [(0x2, Instr.addi), (0x3, Instr.andi), (0x4, Instr.ori), (0x5, Instr.xori),
   (0x6, Instr.shli), (0x7, Instr.shri), (0x8, Instr.sari), (0x9, Instr.slti),
   (0xA, Instr.sltiu), (0x1C, Instr.jr), (0x1D, Instr.waitf), (0x2E, Instr.crr),
   (0x2F, Instr.crw)]

/-- The branches by major opcode (R284). -/
def sbTable : List (Nat × (Reg6 → Reg6 → BitVec 13 → Instr)) :=
  [(0x10, Instr.beq), (0x11, Instr.bne), (0x12, Instr.blt), (0x13, Instr.bge),
   (0x14, Instr.bltu), (0x15, Instr.bgeu)]

/-- The SU instructions by major opcode (R284). -/
def suTable : List (Nat × (Reg6 → BitVec 19 → Instr)) :=
  [(0xB, Instr.lui), (0xC, Instr.addpc)]

/-- The SJ instructions by major opcode (R284). -/
def sjTable : List (Nat × (BitVec 25 → Instr)) :=
  [(0x18, Instr.j), (0x19, Instr.call), (0x1A, Instr.lc)]

/-- The atomics by OP, fn7[6:3] (R286). -/
def amoTable : List (Nat × (BitVec 2 → BitVec 2 → BitVec 1 → Reg6 → Reg6 → Reg6 → Instr)) :=
  [(0x0, Instr.amoadd), (0x1, Instr.amoand), (0x2, Instr.amoor), (0x3, Instr.amoxor),
   (0x4, Instr.amomin), (0x5, Instr.amomax), (0x6, Instr.amominu), (0x7, Instr.amomaxu),
   (0x8, Instr.amoswap), (0x9, Instr.amocas)]

/-- The system group, opcode 0x30, by fn7 (R287). -/
def systemTable : List (Nat × (Reg6 → Reg6 → Reg6 → Instr)) :=
  [(0x0, Instr.join), (0x1, Instr.spawn), (0x2, Instr.evpop), (0x3, Instr.setfmt),
   (0x4, Instr.vcommit), (0x5, Instr.ringadv), (0x6, Instr.endPath), (0x7, Instr.trap),
   (0x8, Instr.eret), (0x9, Instr.brk), (0xA, Instr.prog)]

/-- The tree group, opcode 0x31, by fn7 (R287). -/
def treeTable : List (Nat × (Reg6 → Reg6 → Reg6 → Instr)) :=
  [(0x0, Instr.tnopen), (0x1, Instr.tnfork), (0x2, Instr.tnappend), (0x3, Instr.tnprune),
   (0x4, Instr.tncommit), (0x5, Instr.tnretire), (0x6, Instr.tnbind), (0x7, Instr.tnstat),
   (0x8, Instr.tntok)]

/-- The lane opcodes (R290). -/
def laneTable : List (Nat × (LaneFields → Instr)) :=
  [(0x0, Instr.vadd), (0x1, Instr.vsub), (0x2, Instr.vmul), (0x3, Instr.vmulh),
   (0x4, Instr.vmad), (0x5, Instr.vdiv), (0x6, Instr.vrem), (0x7, Instr.vmin),
   (0x8, Instr.vmax), (0x9, Instr.vabs), (0xA, Instr.vneg), (0xB, Instr.vadds),
   (0xC, Instr.vsubs), (0x20, Instr.vand), (0x21, Instr.vor), (0x22, Instr.vxor)] ++
  [(0x23, Instr.vnot), (0x24, Instr.vandn), (0x25, Instr.vshl), (0x26, Instr.vshr),
   (0x27, Instr.vrol), (0x28, Instr.vclz), (0x29, Instr.vpopc), (0x2A, Instr.vbrev),
   (0x2B, Instr.vbfx), (0x30, Instr.vmov), (0x31, Instr.vsel), (0x40, Instr.vcmpeq),
   (0x41, Instr.vcmpne), (0x42, Instr.vcmplt), (0x43, Instr.vcmple), (0x44, Instr.vcmpgt)] ++
  [(0x45, Instr.vcmpge), (0x100, Instr.vfadd), (0x101, Instr.vfsub), (0x102, Instr.vfmul),
   (0x103, Instr.vfma), (0x104, Instr.vfmin), (0x105, Instr.vfmax), (0x106, Instr.vfabs),
   (0x107, Instr.vfneg), (0x108, Instr.vfdiv), (0x109, Instr.vfsqrt), (0x10A, Instr.vfrsq),
   (0x10B, Instr.vfexp2), (0x10C, Instr.vflog2), (0x140, Instr.vfcmpeq), (0x141, Instr.vfcmpne)] ++
  [(0x142, Instr.vfcmplt), (0x143, Instr.vfcmple), (0x144, Instr.vfcmpgt), (0x145, Instr.vfcmpge),
   (0x180, Instr.vcvt), (0x200, Instr.vld), (0x201, Instr.vst), (0x202, Instr.vld2),
   (0x203, Instr.vst2), (0x204, Instr.vld4), (0x205, Instr.vst4), (0x210, Instr.vaadd),
   (0x211, Instr.vaand), (0x212, Instr.vaor), (0x213, Instr.vaxor), (0x214, Instr.vamin)] ++
  [(0x215, Instr.vamax), (0x216, Instr.vaswap), (0x217, Instr.vacas), (0x220, Instr.vlaor),
   (0x221, Instr.vlaand), (0x222, Instr.vlaxor), (0x230, Instr.vspill), (0x231, Instr.vfill),
   (0x280, Instr.bwait), (0x281, Instr.cpk), (0x282, Instr.coll), (0x283, Instr.vbar),
   (0x284, Instr.vnbar), (0x285, Instr.vfence), (0x286, Instr.binit), (0x287, Instr.badd)] ++
  [(0x2C0, Instr.mzero), (0x2C1, Instr.mloop), (0x2C2, Instr.mloopp), (0x2C3, Instr.mrd),
   (0x2C4, Instr.mwr), (0x2C5, Instr.mstat), (0x2D0, Instr.qld), (0x2D1, Instr.qst),
   (0x2D2, Instr.qmov), (0x2D3, Instr.qtrn), (0x2D4, Instr.qadd), (0x2D5, Instr.qscl),
   (0x2D6, Instr.qmul), (0x2D7, Instr.qmad), (0x2D8, Instr.qchol), (0x2D9, Instr.qlup)] ++
  [(0x2DA, Instr.qsolc), (0x2DB, Instr.qsoll), (0x2DC, Instr.qdet), (0x300, Instr.vballot),
   (0x301, Instr.vprefix), (0x302, Instr.vshfli), (0x303, Instr.vshflx), (0x304, Instr.vshflu),
   (0x305, Instr.vshfld), (0x306, Instr.vlaneid), (0x308, Instr.vpand), (0x309, Instr.vpor),
   (0x30A, Instr.vpxor), (0x30B, Instr.vpandn), (0x310, Instr.vxset), (0x311, Instr.vxadd)] ++
  [(0x312, Instr.vxmov), (0x320, Instr.tnmask)]

/-- The entry of a table at a code. -/
def atCode {α : Type} (k : Nat) (t : List (Nat × α)) : Option α := (t.find? (fun e => e.1 == k)).map (·.2)

/-! ## Fields -/

/-- Bits [lo+n-1:lo] of a word. -/
abbrev field {w : Nat} (x : BitVec w) (lo n : Nat) : BitVec n := x.extractLsb' lo n

/-! ## Scalar words -/

/-- The instruction in a scalar word (R263, R284 to R288). -/
def decodeScalar (w : BitVec 32) : Instr :=
  let op := (field w 0 7).toNat
  let fn7 := (field w 25 7).toNat
  let d : Reg6 := field w 7 6
  let a : Reg6 := field w 13 6
  let b : Reg6 := field w 19 6
  let bad : Instr := .unassignedEncoding (.scalar w)
  if op = 0x01 then ((atCode fn7 intTable).map (fun f => f d a b)).getD bad
  else if op = 0x30 then ((atCode fn7 systemTable).map (fun f => f d a b)).getD bad
  else if op = 0x31 then ((atCode fn7 treeTable).map (fun f => f d a b)).getD bad
  else if op = 0x1B then .split (field w 29 3) (field w 18 11) (field w 7 11)
  else if op = 0x20 then
    .ld (field w 30 2) (field w 28 2) (field w 27 1) (field w 25 2) (field w 24 1) (field w 19 5) d a
  else if op = 0x21 then
    .st (field w 30 2) (field w 28 2) (field w 27 1) (field w 25 2) (field w 24 1) (field w 19 5) a d
  else if 0x24 ≤ op ∧ op ≤ 0x27 then
    ((atCode (field w 28 4).toNat amoTable).map
      (fun f => f (field w 0 2) (field w 26 2) (field w 25 1) d a b)).getD bad
  else if op = 0x28 then .fence (field w 25 7) d a b
  else if op = 0x29 then .tfence (field w 25 7) d a b
  else if op = 0x2A then (if fn7 = 0 then .tshoot d a b else bad)
  else if op = 0x2B then (if fn7 = 0 then .tsync d a b else bad)
  else
    ((atCode op siTable).map (fun f => f d a (field w 19 13))).getD
      (((atCode op sbTable).map (fun f => f d a (field w 19 13))).getD
        (((atCode op suTable).map (fun f => f d (field w 13 19))).getD
          (((atCode op sjTable).map (fun f => f (field w 7 25))).getD bad)))

/-! ## Lane words -/

/-- The fields of a lane word (R265). -/
def laneFields (w : BitVec 96) : LaneFields :=
  { md := field w 26 6, vd := field w 18 8, gn := field w 17 1, gp := field w 14 3, ty := field w 10 4,
    bsel := field w 62 2, ss := field w 56 6, vc := field w 48 8, vb := field w 40 8, va := field w 32 8,
    imm := field w 64 32 }

/-- OPC of a lane word (R265). -/
def laneOpc (w : BitVec 96) : Nat := (field w 0 10).toNat

/-- The instruction in a lane word of a clause body (R265, R290). -/
def decodeLane (w : BitVec 96) : Instr :=
  ((atCode (laneOpc w) laneTable).map (fun f => f (laneFields w))).getD (.unassignedEncoding (.lane w))

/-! ## Command words of the queue processors -/

/-- The instruction in a custom-0 word (R55, R58, R59), or nothing for a word of another major opcode. -/
def decodeCommand (w : BitVec 32) : Option Instr :=
  let f3 := (field w 12 3).toNat
  let f7 := (field w 25 7).toNat
  let d : Reg5 := field w 7 5
  let a : Reg5 := field w 15 5
  let b : Reg5 := field w 20 5
  if (field w 0 7).toNat ≠ 0x0B then none
  else if f3 = 0 ∧ f7 = 0 then some (.rfetch d a b)
  else if f3 = 1 ∧ f7 = 0 then some (.bfxu d a b)
  else if f3 = 1 ∧ f7 = 1 then some (.bfxs d a b)
  else if f3 = 2 ∧ f7 < 4 then some (.swait (field w 25 3) d a b)
  else if f3 = 3 ∧ f7 = 0 then some (.disp d a b)
  else some (.illegalInstruction w)

/-! ## Clause headers -/

/-- The fields of a clause header (R270). -/
structure Header where
  wait : BitVec 12
  /-- Lane words in the body. -/
  count : Nat
  setA : Option Nat
  setB : Option Nat
  deriving DecidableEq, Repr

/-- What is wrong with a word that LC names (R192). -/
inductive HeaderFault where
  | notHeader
  | reserved
  deriving DecidableEq, Repr

/-- The header in a word, checked in the order of R192. -/
def decodeHeader (w : BitVec 96) : Except HeaderFault Header :=
  let av := field w 36 1
  let bv := field w 41 1
  let a := (field w 32 4).toNat
  let b := (field w 37 4).toNat
  if laneOpc w ≠ 0x3FF then .error .notHeader
  else if field w 26 6 ≠ 0 ∨ field w 42 22 ≠ 0 ∨ field w 64 32 ≠ 0 then .error .reserved
  else if (av = 0 ∧ a ≠ 0) ∨ (bv = 0 ∧ b ≠ 0) then .error .reserved
  else if (av = 1 ∧ 12 ≤ a) ∨ (bv = 1 ∧ 12 ≤ b) then .error .reserved
  else .ok { wait := field w 14 12, count := (field w 10 4).toNat + 1,
             setA := if av = 1 then some a else none, setB := if bv = 1 then some b else none }

/-! ## Bytes -/

/-- The scalar instruction at the front of a byte stream (R261). -/
def decodeScalarBytes : List Byte → Option (Instr × List Byte)
  | b0 :: b1 :: b2 :: b3 :: r => some (decodeScalar (b3 ++ b2 ++ b1 ++ b0), r)
  | _ => none

/-- The lane instruction at the front of a byte stream, w0 first (R261). -/
def decodeLaneBytes (l : List Byte) : Option (Instr × List Byte) :=
  if l.length < 12 then none else some (decodeLane (BitVec.ofNat 96 (ofBytes (l.take 12))), l.drop 12)

/-- The instruction in a word of the table of operations. A word of more than 32 bits is a lane word. A shorter word is
first read as a command word, and as a scalar word when it is none: LUI and custom-0 share the opcode 0x0B. -/
def decodeTableWord (nbits w : Nat) : Option Instr :=
  if 32 < nbits then some (decodeLane (BitVec.ofNat 96 w))
  else
    match decodeCommand (BitVec.ofNat 32 w) with
    | some (.illegalInstruction _) => some (decodeScalar (BitVec.ofNat 32 w))
    | some i => some i
    | none => some (decodeScalar (BitVec.ofNat 32 w))

/-! ## The encoder -/

/-- The word of an instruction, with the stream it belongs to. -/
inductive Encoded where
  | scalar (w : BitVec 32)
  | lane (w : BitVec 96)
  | command (w : BitVec 32)
  deriving DecidableEq, Repr

/-- An SR word (R263). -/
def encodeSR (op fn7 : BitVec 7) (d a b : Reg6) : Encoded := .scalar (fn7 ++ b ++ a ++ d ++ op)

/-- An SI word, or an SB word with its second source in place of sa and its first in place of sd (R263). -/
def encodeSI (op : BitVec 7) (d a : Reg6) (imm : BitVec 13) : Encoded := .scalar (imm ++ a ++ d ++ op)

/-- An SU word (R263). -/
def encodeSU (op : BitVec 7) (d : Reg6) (imm : BitVec 19) : Encoded := .scalar (imm ++ d ++ op)

/-- An SJ word (R263). -/
def encodeSJ (op : BitVec 7) (off : BitVec 25) : Encoded := .scalar (off ++ op)

/-- An atomic (R286): opcode 0x24 plus the order. -/
def encodeAmo (op : BitVec 4) (ord scp : BitVec 2) (w : BitVec 1) (d a b : Reg6) : Encoded :=
  .scalar (op ++ scp ++ w ++ b ++ a ++ d ++ 0x09#5 ++ ord)

/-- A lane word (R265). -/
def encodeLane (opc : BitVec 10) (f : LaneFields) : Encoded :=
  .lane (f.imm ++ f.bsel ++ f.ss ++ f.vc ++ f.vb ++ f.va ++ f.md ++ f.vd ++ f.gn ++ f.gp ++ f.ty ++ opc)

/-- A command word (R55). -/
def encodeCommand (f7 : BitVec 7) (f3 : BitVec 3) (d a b : Reg5) : Encoded :=
  .command (f7 ++ b ++ a ++ f3 ++ d ++ 0x0B#7)

/-- An unassigned word stands for itself. -/
def encodeUnassigned : EncWord → Encoded
  | .scalar w => .scalar w
  | .lane w => .lane w

/-- The word of an instruction (R55, R263 to R265, R284 to R290); an event of the device has none. -/
def encode : Instr → Option Encoded
  | .powerOn => none
  | .functionLevelReset => none
  | .bringUpStep _ => none
  | .fullServiceSwitch => none
  | .mainPowerLoss => none
  | .d3hotRequest => none
  | .d0Request => none
  | .d0IdleEntry => none
  | .powerWindow _ => none
  | .thermalThrottle _ => none
  | .thermalShutdown => none
  | .bridgeFlitFailure => none
  | .mgmtBusRequest _ => none
  | .pcapWrite _ => none
  | .winbaseWrite _ => none
  | .hostMemoryAccess _ => none
  | .snpData _ => none
  | .snpCur _ => none
  | .snpInv _ => none
  | .hostFillReturn _ => none
  | .biasFlipRequest _ => none
  | .biasFlipFrame => none
  | .mext _ => none
  | .getVersion => none
  | .getCapabilities => none
  | .negotiateAlgorithms _ _ => none
  | .getDigests => none
  | .getCertificate _ => none
  | .challenge _ => none
  | .getMeasurements _ _ _ => none
  | .fnodeWrite _ => none
  | .ftuncWrite _ => none
  | .fabricPortFailure _ => none
  | .syncExchange _ _ => none
  | .remoteAccessRequest _ => none
  | .leaseHeldWrite _ => none
  | .remoteCompletion _ _ => none
  | .remoteTimeout _ => none
  | .collectiveArrival _ _ => none
  | .collectiveCompletion _ => none
  | .collectiveFailure _ _ => none
  | .collectiveArrivalTimeout _ => none
  | .launchStore _ _ => none
  | .rfetch d a b => some (encodeCommand 0x00#7 0#3 d a b)
  | .bfxu d a b => some (encodeCommand 0x00#7 1#3 d a b)
  | .bfxs d a b => some (encodeCommand 0x01#7 1#3 d a b)
  | .swait c d a b => some (.command (0#4 ++ c ++ b ++ a ++ 2#3 ++ d ++ 0x0B#7))
  | .swaitReread _ => none
  | .swaitTimeout _ => none
  | .disp d a b => some (encodeCommand 0x00#7 3#3 d a b)
  | .qctlWrite _ _ => none
  | .queueReset _ => none
  | .launchPacket _ _ => none
  | .copyPacket _ _ => none
  | .signalPacket _ _ => none
  | .waitPacket _ _ => none
  | .waitPacketTimeout _ _ => none
  | .condPacket _ _ => none
  | .barrierAndPacket _ _ => none
  | .barrierAndTimeout _ _ => none
  | .treeOpen _ _ => none
  | .treeFork _ _ => none
  | .treePrune _ _ => none
  | .treeCommit _ _ => none
  | .treeRetire _ _ => none
  | .registerRebuildLaunch _ _ => none
  | .packetCompletion _ _ => none
  | .launchCompletion _ => none
  | .runtimeFirmwareLoad _ => none
  | .placement => none
  | .preemptionDecision _ => none
  | .contextSave _ _ => none
  | .contextRestore _ _ => none
  | .vacateAndFence _ => none
  | .unfence _ => none
  | .binTimerExpiry _ _ => none
  | .binTeamStart _ => none
  | .ctimeTick _ => none
  | .clauseStart _ => none
  | .clauseCompletion _ _ _ => none
  | .pairedStepStart _ => none
  | .matrixStep _ => none
  | .l2partWrite _ _ => none
  | .l2asidWrite _ _ => none
  | .ftwrWrite _ => none
  | .ftrdWrite _ => none
  | .pfReplay _ => none
  | .pfFail _ => none
  | .faultRecordPost => none
  | .tsreqWrite _ => none
  | .shootdownComplete _ => none
  | .migreqWrite _ => none
  | .scctlWrite _ => none
  | .scytheSweepStep => none
  | .sctailWrite _ => none
  | .kvbaseWrite _ => none
  | .kvDonate _ => none
  | .kvReclaim _ => none
  | .kvfrdWrite _ => none
  | .kvCopy _ => none
  | .kvRebuildStart _ => none
  | .kvRebuildEnd _ => none
  | .pruneRelease _ => none
  | .rangeLockGrant => none
  | .rangeLockRelease _ => none
  | .copyLineWrite _ => none
  | .copyCompletion _ => none
  | .copyFailure _ => none
  | .contextTimerExpiry _ _ => none
  | .wallDeadlineExpiry _ _ => none
  | .dmpstatWrite _ => none
  | .journalRecord _ => none
  | .journalReplay _ => none
  | .cxctlWrite _ => none
  | .dbgAttach _ => none
  | .dbgDetach _ => none
  | .dbgList _ => none
  | .dbgPoll _ => none
  | .dbgHold _ => none
  | .dbgResume _ => none
  | .dbgStep _ => none
  | .dbgSetbp _ => none
  | .dbgClrbp _ => none
  | .dbgSetwp _ => none
  | .dbgClrwp _ => none
  | .dbgRdreg _ => none
  | .dbgWrreg _ => none
  | .dbgRdmem _ => none
  | .registerWrite _ _ => none
  | .add d a b => some (encodeSR 0x01#7 0x00#7 d a b)
  | .sub d a b => some (encodeSR 0x01#7 0x01#7 d a b)
  | .and d a b => some (encodeSR 0x01#7 0x02#7 d a b)
  | .or d a b => some (encodeSR 0x01#7 0x03#7 d a b)
  | .xor d a b => some (encodeSR 0x01#7 0x04#7 d a b)
  | .andn d a b => some (encodeSR 0x01#7 0x05#7 d a b)
  | .shl d a b => some (encodeSR 0x01#7 0x06#7 d a b)
  | .shr d a b => some (encodeSR 0x01#7 0x07#7 d a b)
  | .sar d a b => some (encodeSR 0x01#7 0x08#7 d a b)
  | .rol d a b => some (encodeSR 0x01#7 0x09#7 d a b)
  | .ror d a b => some (encodeSR 0x01#7 0x0A#7 d a b)
  | .slt d a b => some (encodeSR 0x01#7 0x0B#7 d a b)
  | .sltu d a b => some (encodeSR 0x01#7 0x0C#7 d a b)
  | .seq d a b => some (encodeSR 0x01#7 0x0D#7 d a b)
  | .min d a b => some (encodeSR 0x01#7 0x0E#7 d a b)
  | .max d a b => some (encodeSR 0x01#7 0x0F#7 d a b)
  | .minu d a b => some (encodeSR 0x01#7 0x10#7 d a b)
  | .maxu d a b => some (encodeSR 0x01#7 0x11#7 d a b)
  | .mul d a b => some (encodeSR 0x01#7 0x12#7 d a b)
  | .mulh d a b => some (encodeSR 0x01#7 0x13#7 d a b)
  | .mulhu d a b => some (encodeSR 0x01#7 0x14#7 d a b)
  | .div d a b => some (encodeSR 0x01#7 0x15#7 d a b)
  | .divu d a b => some (encodeSR 0x01#7 0x16#7 d a b)
  | .rem d a b => some (encodeSR 0x01#7 0x17#7 d a b)
  | .remu d a b => some (encodeSR 0x01#7 0x18#7 d a b)
  | .clz d a b => some (encodeSR 0x01#7 0x19#7 d a b)
  | .ctz d a b => some (encodeSR 0x01#7 0x1A#7 d a b)
  | .popc d a b => some (encodeSR 0x01#7 0x1B#7 d a b)
  | .sext d a b => some (encodeSR 0x01#7 0x1C#7 d a b)
  | .addi d a imm => some (encodeSI 0x02#7 d a imm)
  | .andi d a imm => some (encodeSI 0x03#7 d a imm)
  | .ori d a imm => some (encodeSI 0x04#7 d a imm)
  | .xori d a imm => some (encodeSI 0x05#7 d a imm)
  | .shli d a imm => some (encodeSI 0x06#7 d a imm)
  | .shri d a imm => some (encodeSI 0x07#7 d a imm)
  | .sari d a imm => some (encodeSI 0x08#7 d a imm)
  | .slti d a imm => some (encodeSI 0x09#7 d a imm)
  | .sltiu d a imm => some (encodeSI 0x0A#7 d a imm)
  | .lui d imm => some (encodeSU 0x0B#7 d imm)
  | .addpc d imm => some (encodeSU 0x0C#7 d imm)
  | .beq d a imm => some (encodeSI 0x10#7 d a imm)
  | .bne d a imm => some (encodeSI 0x11#7 d a imm)
  | .blt d a imm => some (encodeSI 0x12#7 d a imm)
  | .bge d a imm => some (encodeSI 0x13#7 d a imm)
  | .bltu d a imm => some (encodeSI 0x14#7 d a imm)
  | .bgeu d a imm => some (encodeSI 0x15#7 d a imm)
  | .j off => some (encodeSJ 0x18#7 off)
  | .call off => some (encodeSJ 0x19#7 off)
  | .lc off => some (encodeSJ 0x1A#7 off)
  | .split pn toff joff => some (.scalar (pn ++ toff ++ joff ++ 0x1B#7))
  | .jr d a imm => some (encodeSI 0x1C#7 d a imm)
  | .waitf d a imm => some (encodeSI 0x1D#7 d a imm)
  | .ld ord scp st sz sx off sd sa =>
    some (.scalar (ord ++ scp ++ st ++ sz ++ sx ++ off ++ sa ++ sd ++ 0x20#7))
  | .st ord scp st sz sx off sb sa =>
    some (.scalar (ord ++ scp ++ st ++ sz ++ sx ++ off ++ sb ++ sa ++ 0x21#7))
  | .amoadd ord scp w d a b => some (encodeAmo 0x0#4 ord scp w d a b)
  | .amoand ord scp w d a b => some (encodeAmo 0x1#4 ord scp w d a b)
  | .amoor ord scp w d a b => some (encodeAmo 0x2#4 ord scp w d a b)
  | .amoxor ord scp w d a b => some (encodeAmo 0x3#4 ord scp w d a b)
  | .amomin ord scp w d a b => some (encodeAmo 0x4#4 ord scp w d a b)
  | .amomax ord scp w d a b => some (encodeAmo 0x5#4 ord scp w d a b)
  | .amominu ord scp w d a b => some (encodeAmo 0x6#4 ord scp w d a b)
  | .amomaxu ord scp w d a b => some (encodeAmo 0x7#4 ord scp w d a b)
  | .amoswap ord scp w d a b => some (encodeAmo 0x8#4 ord scp w d a b)
  | .amocas ord scp w d a b => some (encodeAmo 0x9#4 ord scp w d a b)
  | .fence fn d a b => some (encodeSR 0x28#7 fn d a b)
  | .tfence fn d a b => some (encodeSR 0x29#7 fn d a b)
  | .tshoot d a b => some (encodeSR 0x2A#7 0x00#7 d a b)
  | .tsync d a b => some (encodeSR 0x2B#7 0x00#7 d a b)
  | .crr d a imm => some (encodeSI 0x2E#7 d a imm)
  | .crw d a imm => some (encodeSI 0x2F#7 d a imm)
  | .join d a b => some (encodeSR 0x30#7 0x00#7 d a b)
  | .spawn d a b => some (encodeSR 0x30#7 0x01#7 d a b)
  | .evpop d a b => some (encodeSR 0x30#7 0x02#7 d a b)
  | .setfmt d a b => some (encodeSR 0x30#7 0x03#7 d a b)
  | .vcommit d a b => some (encodeSR 0x30#7 0x04#7 d a b)
  | .ringadv d a b => some (encodeSR 0x30#7 0x05#7 d a b)
  | .endPath d a b => some (encodeSR 0x30#7 0x06#7 d a b)
  | .trap d a b => some (encodeSR 0x30#7 0x07#7 d a b)
  | .eret d a b => some (encodeSR 0x30#7 0x08#7 d a b)
  | .brk d a b => some (encodeSR 0x30#7 0x09#7 d a b)
  | .prog d a b => some (encodeSR 0x30#7 0x0A#7 d a b)
  | .tnopen d a b => some (encodeSR 0x31#7 0x00#7 d a b)
  | .tnfork d a b => some (encodeSR 0x31#7 0x01#7 d a b)
  | .tnappend d a b => some (encodeSR 0x31#7 0x02#7 d a b)
  | .tnprune d a b => some (encodeSR 0x31#7 0x03#7 d a b)
  | .tncommit d a b => some (encodeSR 0x31#7 0x04#7 d a b)
  | .tnretire d a b => some (encodeSR 0x31#7 0x05#7 d a b)
  | .tnbind d a b => some (encodeSR 0x31#7 0x06#7 d a b)
  | .tnstat d a b => some (encodeSR 0x31#7 0x07#7 d a b)
  | .tntok d a b => some (encodeSR 0x31#7 0x08#7 d a b)
  | .vadd f => some (encodeLane 0x000#10 f)
  | .vsub f => some (encodeLane 0x001#10 f)
  | .vmul f => some (encodeLane 0x002#10 f)
  | .vmulh f => some (encodeLane 0x003#10 f)
  | .vmad f => some (encodeLane 0x004#10 f)
  | .vdiv f => some (encodeLane 0x005#10 f)
  | .vrem f => some (encodeLane 0x006#10 f)
  | .vmin f => some (encodeLane 0x007#10 f)
  | .vmax f => some (encodeLane 0x008#10 f)
  | .vabs f => some (encodeLane 0x009#10 f)
  | .vneg f => some (encodeLane 0x00A#10 f)
  | .vadds f => some (encodeLane 0x00B#10 f)
  | .vsubs f => some (encodeLane 0x00C#10 f)
  | .vand f => some (encodeLane 0x020#10 f)
  | .vor f => some (encodeLane 0x021#10 f)
  | .vxor f => some (encodeLane 0x022#10 f)
  | .vnot f => some (encodeLane 0x023#10 f)
  | .vandn f => some (encodeLane 0x024#10 f)
  | .vshl f => some (encodeLane 0x025#10 f)
  | .vshr f => some (encodeLane 0x026#10 f)
  | .vrol f => some (encodeLane 0x027#10 f)
  | .vclz f => some (encodeLane 0x028#10 f)
  | .vpopc f => some (encodeLane 0x029#10 f)
  | .vbrev f => some (encodeLane 0x02A#10 f)
  | .vbfx f => some (encodeLane 0x02B#10 f)
  | .vmov f => some (encodeLane 0x030#10 f)
  | .vsel f => some (encodeLane 0x031#10 f)
  | .vcmpeq f => some (encodeLane 0x040#10 f)
  | .vcmpne f => some (encodeLane 0x041#10 f)
  | .vcmplt f => some (encodeLane 0x042#10 f)
  | .vcmple f => some (encodeLane 0x043#10 f)
  | .vcmpgt f => some (encodeLane 0x044#10 f)
  | .vcmpge f => some (encodeLane 0x045#10 f)
  | .vfadd f => some (encodeLane 0x100#10 f)
  | .vfsub f => some (encodeLane 0x101#10 f)
  | .vfmul f => some (encodeLane 0x102#10 f)
  | .vfma f => some (encodeLane 0x103#10 f)
  | .vfmin f => some (encodeLane 0x104#10 f)
  | .vfmax f => some (encodeLane 0x105#10 f)
  | .vfabs f => some (encodeLane 0x106#10 f)
  | .vfneg f => some (encodeLane 0x107#10 f)
  | .vfdiv f => some (encodeLane 0x108#10 f)
  | .vfsqrt f => some (encodeLane 0x109#10 f)
  | .vfrsq f => some (encodeLane 0x10A#10 f)
  | .vfexp2 f => some (encodeLane 0x10B#10 f)
  | .vflog2 f => some (encodeLane 0x10C#10 f)
  | .vfcmpeq f => some (encodeLane 0x140#10 f)
  | .vfcmpne f => some (encodeLane 0x141#10 f)
  | .vfcmplt f => some (encodeLane 0x142#10 f)
  | .vfcmple f => some (encodeLane 0x143#10 f)
  | .vfcmpgt f => some (encodeLane 0x144#10 f)
  | .vfcmpge f => some (encodeLane 0x145#10 f)
  | .vcvt f => some (encodeLane 0x180#10 f)
  | .vld f => some (encodeLane 0x200#10 f)
  | .vst f => some (encodeLane 0x201#10 f)
  | .vld2 f => some (encodeLane 0x202#10 f)
  | .vst2 f => some (encodeLane 0x203#10 f)
  | .vld4 f => some (encodeLane 0x204#10 f)
  | .vst4 f => some (encodeLane 0x205#10 f)
  | .vaadd f => some (encodeLane 0x210#10 f)
  | .vaand f => some (encodeLane 0x211#10 f)
  | .vaor f => some (encodeLane 0x212#10 f)
  | .vaxor f => some (encodeLane 0x213#10 f)
  | .vamin f => some (encodeLane 0x214#10 f)
  | .vamax f => some (encodeLane 0x215#10 f)
  | .vaswap f => some (encodeLane 0x216#10 f)
  | .vacas f => some (encodeLane 0x217#10 f)
  | .vlaor f => some (encodeLane 0x220#10 f)
  | .vlaand f => some (encodeLane 0x221#10 f)
  | .vlaxor f => some (encodeLane 0x222#10 f)
  | .vspill f => some (encodeLane 0x230#10 f)
  | .vfill f => some (encodeLane 0x231#10 f)
  | .bwait f => some (encodeLane 0x280#10 f)
  | .bwaitReread _ _ _ => none
  | .cpk f => some (encodeLane 0x281#10 f)
  | .coll f => some (encodeLane 0x282#10 f)
  | .vbar f => some (encodeLane 0x283#10 f)
  | .vnbar f => some (encodeLane 0x284#10 f)
  | .barrierGenerationComplete _ _ _ => none
  | .vfence f => some (encodeLane 0x285#10 f)
  | .binit f => some (encodeLane 0x286#10 f)
  | .badd f => some (encodeLane 0x287#10 f)
  | .mzero f => some (encodeLane 0x2C0#10 f)
  | .mloop f => some (encodeLane 0x2C1#10 f)
  | .mloopp f => some (encodeLane 0x2C2#10 f)
  | .mrd f => some (encodeLane 0x2C3#10 f)
  | .mwr f => some (encodeLane 0x2C4#10 f)
  | .mstat f => some (encodeLane 0x2C5#10 f)
  | .qld f => some (encodeLane 0x2D0#10 f)
  | .qst f => some (encodeLane 0x2D1#10 f)
  | .qmov f => some (encodeLane 0x2D2#10 f)
  | .qtrn f => some (encodeLane 0x2D3#10 f)
  | .qadd f => some (encodeLane 0x2D4#10 f)
  | .qscl f => some (encodeLane 0x2D5#10 f)
  | .qmul f => some (encodeLane 0x2D6#10 f)
  | .qmad f => some (encodeLane 0x2D7#10 f)
  | .qchol f => some (encodeLane 0x2D8#10 f)
  | .qlup f => some (encodeLane 0x2D9#10 f)
  | .qsolc f => some (encodeLane 0x2DA#10 f)
  | .qsoll f => some (encodeLane 0x2DB#10 f)
  | .qdet f => some (encodeLane 0x2DC#10 f)
  | .vballot f => some (encodeLane 0x300#10 f)
  | .vprefix f => some (encodeLane 0x301#10 f)
  | .vshfli f => some (encodeLane 0x302#10 f)
  | .vshflx f => some (encodeLane 0x303#10 f)
  | .vshflu f => some (encodeLane 0x304#10 f)
  | .vshfld f => some (encodeLane 0x305#10 f)
  | .vlaneid f => some (encodeLane 0x306#10 f)
  | .vpand f => some (encodeLane 0x308#10 f)
  | .vpor f => some (encodeLane 0x309#10 f)
  | .vpxor f => some (encodeLane 0x30A#10 f)
  | .vpandn f => some (encodeLane 0x30B#10 f)
  | .vxset f => some (encodeLane 0x310#10 f)
  | .vxadd f => some (encodeLane 0x311#10 f)
  | .vxmov f => some (encodeLane 0x312#10 f)
  | .tnmask f => some (encodeLane 0x320#10 f)
  | .unassignedEncoding w => some (encodeUnassigned w)
  | .queueProcessorAccess _ _ => none
  | .illegalInstruction w => some (.command w)
  | .debugUnknownCommand _ => none
  | .debugRequestTimeout => none

/-- The instruction in an encoded word. -/
def decodeEncoded : Encoded → Option Instr
  | .scalar w => some (decodeScalar w)
  | .lane w => some (decodeLane w)
  | .command w => decodeCommand w

end Sys2Proof
end

