-- ==== Sys2Proof/Config.lean ====
section
/-!
DEFINITION. What one device fixes and the spec leaves open, as constants without a body: nothing can be proved of their
values, so what holds of the model holds for each of them. A `Nat` argument is the counter `State.fresh`.
-/

namespace Sys2Proof.Config

/-- DEVID [47:0]: stepping and fused serial (R21). -/
opaque devidLow : BitVec 48

/-- The fused digest of the signing key and the fused minimum security version (R26, R74). -/
opaque fusedKeyId : BitVec 256
opaque fusedMinSvn : BitVec 32

/-- SM3, whose definition the spec does not give (R34, R74). -/
opaque sm3 : List Byte → BitVec 256

/-- Whether an SM2 signature over a digest verifies under the key with this identifier (R74). -/
opaque sm2Verifies : BitVec 256 → BitVec 256 → List Byte → Bool

/-- The signature of the identity key over a digest (R33, R36). -/
opaque sm2Sign : BitVec 256 → List Byte

/-- The certificate of slot 0 (R33). -/
opaque certificate : List Byte

/-- Bodies of the SPDM responses that the spec names and does not lay out (R36), by message and request. -/
opaque spdmBody : Nat → List Byte → List Byte

/-- The digest of the boot ROM, and the firmware image that the module boots from, header and body (R14, R34, R74). -/
opaque romDigest : BitVec 256
opaque bootImage : List Byte

/-- What the temperature and power sensors read (R13, R18). -/
opaque sensors : Nat → List Byte

/-- How much WALL and fabric time advance between two steps that let time pass (R8, R40). -/
opaque wallAdvance : Nat → BitVec 64
opaque ftimeAdvance : Nat → BitVec 64

/-- How much a team's cycle count advances between two reads of it (R250). -/
opaque cycleAdvance : Nat → BitVec 64

/-- The victim among `n` candidates, where the spec says only pseudo-LRU or nothing (R106, R114, R121). -/
opaque victim : Nat → Nat

/-- The set of its slice that a line falls in (R107 fixes 512 sets and not which line uses which). -/
opaque l2Set : Nat → Nat

/-- The set of a TLB or of an L1 that a page or line falls in (R106, R121). -/
opaque l1Set : Nat → Nat
opaque tlbSet : Nat → Nat

/-- Whether a path's walk still misses a table word that the path has written (R182), by counter and address. -/
opaque lateWrite : Nat → Nat → Bool

/-- Bytes the spec leaves undefined (R53, R236), by counter and address. -/
opaque freeByte : Nat → Nat → Byte

/-- The nodes to which the fabric has a route once its ports are trained (R37, R43). -/
opaque reachable : Nat → Bool

/-- Bytes that a save writes for a team's path table, scalar state and sequencer (R92). -/
opaque pathTableBytes : Nat

/-- The layout of the opaque path block in a note of a core image (R257), as a function of what it holds. -/
opaque blockLayout : List Byte → List Byte

end Sys2Proof.Config
end

