-- ==== Sys2Proof/Machine/Tab.lean ====
section
/-!
DEFINITION. Maps as plain data. An `AMap` is a list of keys and values with strictly rising keys. A `Tab` is an `AMap`
that lists no key whose value is the value an unlisted key reads as, so equal tables are equal lists. Memory, the
register files and the timestamps are tables.
-/

namespace Sys2Proof.Machine

/-- Keys and values, the keys strictly rising. -/
abbrev AMap (α : Type) := List (Nat × α)

/-- The value listed at a key. -/
def AMap.find {α : Type} : AMap α → Nat → Option α
  | [], _ => none
  | (k', v) :: t, k => if k' = k then some v else AMap.find t k

/-- The map with `v` at `k`. -/
def AMap.insert {α : Type} (k : Nat) (v : α) : AMap α → AMap α
  | [] => [(k, v)]
  | (k', v') :: t =>
    if k < k' then (k, v) :: (k', v') :: t
    else if k = k' then (k, v) :: t
    else (k', v') :: AMap.insert k v t

/-- The map with nothing at `k`. -/
def AMap.erase {α : Type} (k : Nat) : AMap α → AMap α
  | [] => []
  | (k', v') :: t => if k' = k then t else (k', v') :: AMap.erase k t

/-- The keys rise strictly. -/
def AMap.rising {α : Type} : AMap α → Bool
  | [] => true
  | [_] => true
  | (a, _) :: (b, w) :: t => decide (a < b) && AMap.rising ((b, w) :: t)

/-- The map with the value at `k` changed, when one is listed there. -/
def AMap.modify {α : Type} (k : Nat) (f : α → α) (m : AMap α) : AMap α :=
  match AMap.find m k with
  | some v => AMap.insert k (f v) m
  | none => m

/-- The lowest number below `n` that is no key of the map. -/
def AMap.freeBelow {α : Type} (m : AMap α) (n : Nat) : Option Nat :=
  (List.range n).find? (fun k => (AMap.find m k).isNone)

/-- An `AMap` that lists no value equal to the one an unlisted key reads as. -/
abbrev Tab (α : Type) := List (Nat × α)

/-- The value at a key: the listed one, or `d`. -/
def Tab.get {α : Type} (d : α) (m : Tab α) (k : Nat) : α := (AMap.find m k).getD d

/-- The table with `v` at `k`. Writing `d` removes the entry. -/
def Tab.set {α : Type} [DecidableEq α] (d : α) (k : Nat) (v : α) (m : Tab α) : Tab α :=
  if v = d then AMap.erase k m else AMap.insert k v m

/-- The canonical form: keys strictly rising, and no entry equal to `d`. -/
def Tab.wf {α : Type} [DecidableEq α] (d : α) (m : Tab α) : Bool :=
  AMap.rising m && m.all (fun e => decide (e.2 ≠ d))

/-- The table with the values of `vs` at `k`, `k + 1`, and so on. -/
def Tab.setList {α : Type} [DecidableEq α] (d : α) : Nat → List α → Tab α → Tab α
  | _, [], m => m
  | k, v :: vs, m => Tab.setList d (k + 1) vs (Tab.set d k v m)

/-- The `n` values at `k`, `k + 1`, and so on. -/
def Tab.getList {α : Type} (d : α) (m : Tab α) : Nat → Nat → List α
  | _, 0 => []
  | k, n + 1 => Tab.get d m k :: Tab.getList d m (k + 1) n

end Sys2Proof.Machine
end

