-- ==== Sys2Proof/Machine/State.lean ====
section
/-!
DEFINITION. The state of the device as plain data: every register, memory, queue, table and unit that the spec names
(INVENTORY.md, '## State', lists each with its rule and its reset value), the reasons a step can stop, and the state
after reset.
-/

namespace Sys2Proof.Machine

/-- Why the machine stops. -/
inductive Fault where
  /-- Raised by every scalar and lane instruction when the state names no path that could be issuing it: no word of
  the spec gives such an execution an effect. Safe: no run that starts from a state with consistent context meets it. -/
  | noIssuer
  /-- Raised by a command instruction when the state names no queue processor (R54 has eight). Safe, as above. -/
  | noHart
  deriving DecidableEq, Repr

/-- Why an instruction has no meaning here. -/
inductive Refusal where
  /-- Raised by an arm of `exec` that has no meaning yet. Safe. -/
  | notModelled (mnemonic : String)
  deriving DecidableEq, Repr

/-- The trap classes (R245). -/
inductive TrapClass where
  | illegalOpcode | reservedField | operandOverlap | indexBounds | badSpace | misaligned | illegalType
  | pageFault | protection | stableWrite | rangeLocked | discardedWrite
  | kvUnmapped | kvRebuilding | treeState
  | breakpoint | watchpoint | singleStep | timer
  | uncorrectable | cancelled | trap
  deriving DecidableEq, Repr

/-- Which path, and which queue processor, the instruction being executed belongs to. -/
structure Ctx where
  core : Nat
  slot : Nat
  path : Nat
  hart : Nat
  deriving DecidableEq, Repr

/-- What the outside does to the device beyond the events of the table: a read of a register, a write of the mailbox by bytes, a
new size of the memory window (R21), the blowing of the debug fuse (R26), a line of host memory that its reads find in error or
sound again (R56, R59), a change of the interrupt lines of a queue processor (R54, R59), and the end of a flit that the bridge has
carried, maybe after retries (R5). -/
inductive Input where
  | hostRead (off size : Nat)
  | mailboxWrite (off : Nat) (bytes : List Byte)
  | windowSize (log2 : Nat)
  | blowFuse
  | hostLine (line : Nat) (bad : Bool)
  | interrupts (h : Nat) (lines : BitVec 12)
  | bridgeCarried
  deriving DecidableEq, Repr

/-- Who moves next: an event of the device, the outside, the scalar unit or the datapath of a core, one named path (a debug step),
or a queue processor. -/
inductive Move where
  | event (i : Instr)
  | input (i : Input)
  | scalar (core : Nat)
  | lane (core : Nat)
  | pathStep (core slot path : Nat)
  | hart (h : Nat)
  deriving DecidableEq, Repr

/-! ## Teams and paths -/

/-- What a path waits for while it is not ready (R86, R375). -/
inductive Wait where
  | clauseQueue | flags (m : BitVec 12) | join | endPath | split | tsync | ringadv
  /-- Scalar registers that are marked (R195, R294). -/
  | scoreboard (rs : List Nat)
  /-- A slot for a fifth shoot-down (R127), a version id (R243), a continuation slot (R198). -/
  | recordSlot | versionId | contSlot
  | loads | tree | fence | commit | lease | timeout
  /-- A TNRETIRE that has performed, with the generation of its slot (R375). -/
  | retiring (gen : BitVec 32)
  /-- A CRW to DSTEP whose step is in hand (R382). -/
  | stepping
  /-- A bin team that has not loaded the records of its continuation lanes (R201). -/
  | starting
  deriving DecidableEq, Repr

/-- Why an access is held (R134, R160, R354), or a clause stopped for a record slot of an engine or a place in a matrix
sequencer (R349, R356). -/
inductive Hold where
  | pageFault | rangeLocked | kvRebuilding | freeFrame (die : Nat) | kvCopy | tableSpace | engineSlot | sequencer
  deriving DecidableEq, Repr

/-- The fault record of a parked access (R135). -/
structure FaultInfo where
  fid : Option (BitVec 32)
  kind : Nat
  cause : Nat
  level : Nat
  epa : Nat
  va : BitVec 64
  lane : Nat
  deriving DecidableEq, Repr

/-- A parked or held instruction: why, for which lanes, and its fault record (R134, R354). -/
structure Park where
  hold : Hold
  lanes : Mask
  lane : Bool
  info : Option FaultInfo
  /-- The KV addresses that it holds, with their lanes (R156, R158). -/
  kvs : List (Nat × BitVec 64) := []
  deriving DecidableEq, Repr

/-- A stop under a debug session (R254): the stopping class, INFO and HMASK. -/
structure Stop where
  reason : Nat
  info : Nat
  hmask : Mask
  deriving DecidableEq, Repr

/-- An entry of a clause queue, or a clause that has started (R191, R193). -/
structure Clause where
  /-- Number of the clause among those its path has enqueued. -/
  id : Nat
  addr : BitVec 64
  wait : BitVec 12
  setA : Option Nat
  setB : Option Nat
  /-- The lane words of the body that have not issued, in order. -/
  body : List (BitVec 96)
  /-- How many lane words have issued. -/
  pos : Nat
  mask : Mask
  fmt : BitVec 32
  /-- The snapshot of scalar registers (R191). -/
  snap : Tab (BitVec 64)
  /-- Scalar destinations of the clause that have not landed (R195). -/
  dests : List Nat
  /-- Long-latency operations issued and not finished (R193). -/
  pend : Nat
  /-- The lanes a replay of the instruction at the head still has to run (R354). -/
  only : Option Mask
  /-- The clause is stopped at its instruction: parked, held or waiting for a slot (R134, R349). -/
  stopped : Bool
  /-- The watchpoints that lanes of the instruction at the head have matched before it was held, with those lanes (R254). -/
  watched : List (Nat × Mask)
  /-- A QLD or QST at the head has issued its accesses, which are numbered from here, and waits for them (R366). -/
  sent : Option Nat
  deriving DecidableEq, Repr

/-- A pending BWAIT of a path (R348). -/
structure PendingBwait where
  clause : Nat
  /-- Identifier of the team whose scratchpad holds the object, and the offset there. -/
  team : BitVec 32
  off : Nat
  scope : Nat
  deriving DecidableEq, Repr

/-- A scalar destination with a load or atomic that has not returned (R294), or a pending store (0). -/
structure PendingScalar where
  req : Nat
  sd : Option Nat
  deriving DecidableEq, Repr

/-- An ejected lane: its number, its continuation slot, its join point and its live set (R198 to R200). -/
structure EjLane where
  lane : Nat
  slot : Nat
  join : BitVec 64
  live : BitVec 256
  deriving DecidableEq, Repr

/-- An entry of a path table (R196). -/
structure Path where
  spc : BitVec 64
  mask : Mask
  rpc : Option (BitVec 64)
  parent : Option Nat
  fmt : BitVec 32
  jcnt : Nat
  ejm : Mask
  /-- The ejected lanes with their continuation slots and join points (R198, R202). -/
  ejSlots : List EjLane
  /-- The lanes whose records an ejection in progress has written: it waits for slots or for a page (R198). -/
  ejPart : Option (List EjLane)
  /-- The live set that the SPLIT checked before its commit (R198, R199). -/
  ejLive : BitVec 256 := 0
  /-- Largest release time of the returns of its ejected lanes (R426). -/
  relT : Nat
  sregs : Tab (BitVec 64)
  queue : List Clause
  run : Option Clause
  done : List Clause
  nextClause : Nat
  pts : Nat
  /-- Table words that the path has written and that its own walks may still read as they were, each with the timestamp of the path's
  last write to it (R182). -/
  tableOld : AMap (BitVec 64 × Nat)
  wait : Option Wait
  park : Option Park
  stop : Option Stop
  pendScalar : List PendingScalar
  bwaits : List PendingBwait
  /-- Shoot-downs the path has begun that have not completed (R127). -/
  shoots : List Nat
  /-- Scalar instructions counted outside the trial's range, and the delay left (R256). -/
  cxCount : Nat
  cxDelay : Nat
  /-- In a handler: the clauses that wait in the queue of the path that it interrupted, whose flags it has (R248). -/
  kept : List Clause := []
  deriving DecidableEq, Repr

/-- The mode record of a tile (R221). -/
inductive TileMode where
  | cleared | exact | wide
  deriving DecidableEq, Repr

/-- An accumulator tile: its record, the BAD bit and its 96-bit entries (R220, R221, R363). -/
structure Tile where
  mode : TileMode
  bad : Bool
  entries : Tab (BitVec 96)
  deriving DecidableEq, Repr

/-- What a matrix instruction in a sequencer does (R356). -/
inductive MatKind where
  | mzero
  | mloop (a b steps incA incB : Nat) (scale : Option Nat) (paired : Bool) (next : Nat)
  | mrd (vd row0 : Nat) (lanes : Mask)
  | mwr (va row0 ty : Nat) (wide add : Bool) (lanes : Mask)
  | mstat (sd : Nat)
  | drain (copy : Nat)
  deriving DecidableEq, Repr

/-- A matrix instruction in the sequencer of a team slot, with the path and clause it came from (R356). -/
structure MatOp where
  tile : Nat
  path : Nat
  clause : Nat
  fmt : BitVec 32
  kind : MatKind
  deriving DecidableEq, Repr

/-- A continuation lane of a bin team (R200, R201): its slot, its join point, its parent and the live set. -/
structure ContLane where
  slot : Nat
  jpc : BitVec 64
  pteam : BitVec 32
  ppath : Nat
  plane : Nat
  live : BitVec 256
  deriving DecidableEq, Repr

/-- What a handler is given (R248), with the opaque block it interrupted. -/
structure Handler where
  /-- The paths as they were, by index: the opaque path block. -/
  saved : AMap Path
  path : Nat
  cause : BitVec 64
  epc : BitVec 64
  elc : BitVec 64
  va : BitVec 64
  task : BitVec 64
  deriving DecidableEq, Repr

/-- The kernel descriptor of a launch and the pool word it uses (R76, R77). -/
structure Kdesc where
  sentry : BitVec 64
  lbase : BitVec 64
  lanes : Nat
  pair : Bool
  gw : Nat
  nbh : Nat
  nbw : Nat
  tpc : Nat
  spsl : Nat
  ejt : Nat
  btimer : Nat
  regs : Nat
  scrt : Nat
  dthr : Nat
  carea : BitVec 64
  calog2 : Nat
  regu : Nat
  scru : Nat
  accu : Nat
  save : Nat
  deriving DecidableEq, Repr

/-- Where a team stands: it runs, it is saved, or it is being restored (R92, R93). -/
inductive TeamPhase where
  | running | saving | saved | restoring
  deriving DecidableEq, Repr

/-- How the bytes of a lane load or atomic enter registers (R341): whole registers, one element zero-extended, sign-extended
or cut to six bits, or a value for each lane in turn (R338). -/
inductive LoadMode where
  | packed | zeroExtend | signExtend | sixBits | each
  deriving DecidableEq, Repr

/-- Where a load's data goes when it returns: a scalar register, or the registers from `first` of some lanes. -/
inductive LoadDest where
  | scalar (sd size : Nat) (signed : Bool)
  | lane (lanes : Mask) (first bytes : Nat) (mode : LoadMode)
  | nothing
  deriving DecidableEq, Repr

/-- An access that waits for the owner or for the host: who issued it and where its data goes. -/
structure PendAccess where
  id : Nat
  tkey : Nat
  teamId : BitVec 32
  path : Nat
  clause : Option Nat
  space : Nat
  addr : Nat
  size : Nat
  dest : LoadDest
  /-- It is an acquire, and it is strong (R171, R172). -/
  acq : Bool
  strong : Bool
  /-- Its lane, or the lowest of several; 0 for the scalar stream. -/
  lane : Nat
  /-- Virtual address and residency class of its page, for a line of host memory that it brings to the L2 (R112, R114). -/
  va : Nat
  rc : Nat
  glob : Bool := false
  /-- The request that asks for it again, when it is a load (R92). -/
  again : Option PeerOp
  /-- The request that is sent again, when it is a store or an atomic to a peer (R92). -/
  resend : Option PeerOp := none
  /-- The launch of its team (R70, R73). -/
  launch : Nat := 4096
  deriving DecidableEq, Repr

/-- A resident or saved team. A paired team is one team, kept at its even-column core (R88). -/
structure Team where
  launch : Nat
  /-- The descriptor of its launch. -/
  k : Kdesc
  /-- Neighbourhood number within the launch; a bin team is a neighbourhood of its own (R167). -/
  nbh : Nat
  binTeam : Bool
  /-- Team index within its neighbourhood (R79). -/
  tidx : Nat
  asid : Nat
  teamId : BitVec 32
  taskId : BitVec 32
  /-- Order of the start of its task among all tasks (R244). -/
  taskBorn : Nat
  late : Bool
  ecom : Bool
  taint : Bool
  /-- The version id of its task, as the die that gave it × 4096 + the id (R243). -/
  verId : Option Nat
  /-- The version: physical byte addresses and their uncommitted bytes (R175). -/
  version : AMap Byte
  paths : AMap Path
  vregs : Tab Word32
  pregs : Tab Bool
  xregs : Tab Word32
  scratch : Tab Byte
  /-- Largest release time of the writes to each 64-byte line of the scratchpad (R426). -/
  scratchT : Tab Nat
  tiles : AMap Tile
  seq : List MatOp
  privIdx : Nat
  /-- The slot of a paired team on the odd-column core (R88). -/
  oddSlot : Nat
  /-- Accesses that its save cancelled, to be issued again (R92, R95). -/
  replays : List PendAccess
  /-- A deadline passed while it was saved: its event comes before any other instruction (R251). -/
  dueFirst : Bool := false
  /-- The core whose share of the context-save partition holds it while it is saved, and how many of its bytes; the save area that the
  driver reserves holds the rest (R92, R94). -/
  savedAt : Nat
  inShare : Nat
  tvec : BitVec 64
  ccyc : BitVec 64
  tcmp : BitVec 64
  tdln : BitVec 64
  tnasid : BitVec 12
  handler : Option Handler
  binding : Option (Nat × Nat)
  /-- Arrivals of each lane at VBAR and at VNBAR, and completed generations (R351, R352). -/
  vbar : Tab Nat
  nbar : Tab Nat
  vbarGen : Nat
  nbarGen : Nat
  /-- Lanes and clauses that wait for a generation: path, clause, generation, VNBAR or not, and scope. -/
  barWait : List (Nat × Nat × Nat × Bool × Nat)
  /-- Largest release time of the arrivals at each generation, by twice the generation, plus 1 for VNBAR (R426). -/
  barT : Tab Nat
  /-- Largest w of writes of the team that performed under no pts of their own path: commits of its version, and what a commit
  wrote for its other paths (R426). -/
  wT : Nat
  contLanes : AMap ContLane
  /-- Lanes whose path has ended (R351, R381). -/
  endedLanes : Mask
  /-- Returns of continuation lanes held until the team is resident: parent path and release time (R202). -/
  heldReturns : List (Nat × Nat)
  rebuild : Option Nat
  phase : TeamPhase
  /-- Core cycles the team's task has run (R91). -/
  taskCycles : Nat
  /-- The lanes of the bin it started from, so that a discarded bin team can restart (R91). -/
  entry : BitVec 64
  args : List (BitVec 64)
  spawned : List (Nat × BitVec 32)
  deriving DecidableEq, Repr

/-! ## Cores -/

/-- An L1 line: its tags, its bytes, its lease and whether it is stable (R106, R108, R116). A KV line is tagged by
frame (R149). -/
structure L1Line where
  asid : Nat
  space : Nat
  /-- Virtual line number for translated spaces, physical line number for KV. -/
  vline : Nat
  pline : Nat
  data : List Byte
  base : Nat
  delta : Nat
  stable : Bool
  deriving DecidableEq, Repr

/-- An entry of a last-page register or a TLB (R121, R129): the head entry of the leaf it holds. -/
structure TlbEntry where
  asid : Nat
  /-- A mapping of host space 0x4. -/
  host : Bool
  /-- First virtual page, in 64 KiB pages, and the page size code. -/
  vpn : Nat
  ps : Nat
  leaf : BitVec 64
  leafPa : Nat
  gen : Nat
  deriving DecidableEq, Repr

/-- A lane in a spawn bin: a continuation lane's slot and parent path, with the set of its live registers, or a spawned lane's
first value (R82, R304). -/
inductive BinLane where
  | cont (slot : Nat) (pteam : BitVec 32) (ppath plane : Nat) (live : BitVec 256)
  | spawned (v0 : BitVec 32)
  deriving DecidableEq, Repr

/-- A spawn bin (R82): its key, its lanes in arrival order, its age, its timer and whether it has launched. -/
structure Bin where
  launch : Nat
  entry : BitVec 64
  frame : List (BitVec 64)
  lanes : List BinLane
  age : Nat
  timer : Nat
  launched : Bool
  asid : Nat
  deriving DecidableEq, Repr

/-- An entry of an event queue (R241) with the team it belongs to, its scope and its release time. -/
structure EvEntry where
  teamId : BitVec 32
  word : BitVec 64
  scope : Nat
  rel : Nat
  deriving DecidableEq, Repr

/-- A cached KV translation (R149). -/
structure KvTran where
  slot : Nat
  gen : BitVec 32
  node : Nat
  plane : Nat
  block : Nat
  frame : Nat
  deriving DecidableEq, Repr

/-- A core (R6). -/
structure Core where
  fenced : Bool
  ctime : Nat
  /-- The rotating pointers of R86: the slot issued last, and for each slot the path issued last. -/
  lastSlot : Nat
  lastPath : Tab Nat
  /-- The running clause, by slot and path, and the slot of the clause that ended last (R87). -/
  running : Option (Nat × Nat)
  lastClauseSlot : Nat
  l1 : List L1Line
  tlb : List TlbEntry
  lpr : AMap TlbEntry
  bins : List Bin
  evq : List EvEntry
  taskCtr : Tab (BitVec 19)
  kvCache : List KvTran
  /-- Launch of the team that started here last (R116). -/
  lastLaunch : Option Nat
  /-- Slot the matrix engine served last (R227). -/
  lastMatSlot : Nat
  /-- Slot whose MRD, MWR, MSTAT or MZERO the sequencers of the core ran last. -/
  lastMatOp : Nat := 0
  /-- The slot of a paired step that the core has proposed and that was not agreed (R88): one at most. -/
  pairPending : List Nat
  /-- The datapath has issued since the core's scalar unit last had its turn (R86, R87, R203). -/
  laneTurn : Bool
  deriving DecidableEq, Repr

/-! ## The host link, power and clocks -/

/-- Power states (R11). -/
inductive Power where
  | d0 | d0idle | d3hot | d3cold
  deriving DecidableEq, Repr

/-- A bias flip in the queue of R29: target, next frame and frames left. -/
structure BiasFlip where
  toHost : Bool
  frame : Nat
  left : Nat
  /-- The range-lock registration of the frame in hand. -/
  lock : Option Nat
  deriving DecidableEq, Repr

/-- A record of the measurement log (R34). -/
structure LogRecord where
  seq : Nat
  reg : Nat
  kind : Nat
  ver : Nat
  digest : BitVec 256
  deriving DecidableEq, Repr

/-- What the device shows to the outside: interrupts and responses. -/
inductive OutMsg where
  | msix (vector : Nat)
  | deviceEvent (vector : Nat)
  | readData (bytes : List Byte)
  | unsupportedRequest
  | snoop (kind : String) (line : Nat)
  | hostWrite (addr : Nat) (bytes : List Byte)
  | hostRead (line : Nat)
  | hostObtain (line : Nat)
  | rdOwn (line : Nat)
  | dirtyEvict (line : Nat)
  | spdm (kind : String) (payload : List Byte)
  | mgmt (payload : List Byte)
  | peerRequest (id port : Nat) (node off : Nat) (op : PeerOp)
  | peerCancel (id : Nat)
  | peerReply (node id : Nat) (reply : PeerReply)
  | collective (id node : Nat) (fp : CollFinger) (data : List Byte)
  deriving DecidableEq, Repr

/-- Bring-up, power, clocks and the registers of the host link (R8 to R36, R75). -/
structure Dev where
  power : Power
  /-- A D3hot request waits for work to finish (R12). -/
  d3Asked : Bool
  bstep : Nat
  berr : Nat
  /-- 0 no service, 1 reduced, 2 full, 3 full without fabric (R17). -/
  svc : Nat
  /-- Step 5 has completed and the switch to full service waits for the last team (R16). -/
  switching : Bool
  /-- The device has stopped issuing for good until a reset (R5, R13). -/
  halted : Bool
  /-- Step 1 of bring-up has failed: there is no link, and the device does not enumerate (R14). -/
  noLink : Bool
  /-- Core clock of each die, in steps of 53.125 MHz: 8 is 425 MHz, 16 is 850 MHz (R9). -/
  clk0 : Nat
  clk1 : Nat
  lowWindows : Nat
  pcap : Nat
  /-- How often a try of the flit that the bridge is carrying has failed (R5). -/
  bridgeRetries : Nat
  wall : BitVec 64
  winbase : BitVec 64
  winLog2 : Nat
  cxl : Bool
  flips : List BiasFlip
  bfDone : BitVec 32
  bfErr : BitVec 2
  meas : Tab (BitVec 256)
  log : List LogRecord
  mextStage : Tab (BitVec 64)
  mextIgn : Bool
  mextFull : Bool
  fuseDebug : Bool
  /-- SPDM: SM2 and SM3 have been negotiated, and the messages exchanged so far (R36). -/
  spdmAgreed : Bool
  transcript : List (List Byte)
  fwaddr : BitVec 64
  fwstat : BitVec 4
  /-- Body and entry of the firmware that runs (R74, R75). -/
  fwImage : Nat
  /-- Largest write timestamp that a write of the host was given: the release time of a launch store (R426). -/
  hostT : Nat
  /-- Accesses of the host that are held at the home slices while a flip has their frame (R30), the oldest first. -/
  heldHost : List HostAccess
  deriving DecidableEq, Repr

/-! ## The fabric -/

/-- A line held under a remote lease by this device as requester (R45). -/
structure LeasedLine where
  node : Nat
  line : Nat
  data : List Byte
  until_ : Nat
  deriving DecidableEq, Repr

/-- A write or atomic that the owner holds for a lease (R46). -/
structure HeldWrite where
  line : Nat
  pa : Nat
  op : PeerOp
  /-- ASID, virtual address and residency class of the page that a peer's request translated through (R44). -/
  asid : Nat
  va : Nat
  rc : Nat
  /-- The host wrote it. -/
  host : Bool
  /-- The peer and its request that wait for the acknowledgement. -/
  peer : Option (Nat × Nat)
  /-- The place of a write that a path waits with, by its team, its path, and whether a clause makes it: the path itself performs
  it. -/
  turn : Option (BitVec 32 × Nat × Bool) := none
  deriving DecidableEq, Repr

/-- The neighbourhood window that an engine operation of a team sees (R101, R167). -/
structure Window where
  launch : Nat
  nbh : Nat
  tidx : Nat
  binTeam : Bool
  nt : Nat
  scrSize : Nat
  deriving DecidableEq, Repr

/-- A collective in flight (R48 to R53). -/
structure Coll where
  id : Nat
  core : Nat
  tkey : Nat
  teamId : BitVec 32
  path : Nat
  launch : Nat
  asid : Nat
  recOff : Nat
  op : Nat
  red : Nat
  ty : Nat
  accm : Nat
  scope : Nat
  evt : Bool
  rnd : Nat
  sat : Bool
  tag : BitVec 32
  count : Nat
  dst : BitVec 64
  src : BitVec 64
  bar : Nat
  members : Nat
  rank : Nat
  win : Window
  /-- Node numbers of the members, by rank, as MLIST lists them (R49). -/
  nodes : List Nat
  /-- Source elements of each member for this one, by rank. -/
  blocks : AMap (List Byte)
  /-- Members whose fingerprint has arrived, and those whose block has been written and counted. -/
  fingers : List Nat
  arrived : List Nat
  /-- Bytes still to be counted down (R52). -/
  left : Nat
  pts : Nat
  /-- A fingerprint that differs, or a fault of this member's own, has ended it (R53). -/
  broken : Option CollFail
  /-- Largest w of its writes (R426). -/
  rel : Nat
  /-- A fault met under the locks (R134). -/
  pause : Option FaultInfo
  /-- Class of this member's own write to a stable page, which its record keeps (R116). -/
  trap : Nat := 0
  deriving DecidableEq, Repr

/-- A peer's access whose translation has failed at this owner, in the device-event queue (R44). -/
structure PeerFailure where
  node : Nat
  off : Nat
  write : Bool
  deriving DecidableEq, Repr

/-- The fabric and its registers (R37 to R49). -/
structure Fabric where
  fnode : BitVec 12
  ftime : BitVec 64
  running : Bool
  ftunc : Nat
  hold : Bool
  lock : Bool
  ports : BitVec 24
  /-- Sync intervals in a row with error at most U / 2 (R42). -/
  goodSyncs : Nat
  /-- Twice the error bound, in ns, once there has been a Sync exchange (R41). -/
  eps : Option Nat
  ftmo : BitVec 16
  fexp : Tab (BitVec 128)
  fgrp : Tab (BitVec 128)
  /-- Nodes to which a route exists. -/
  routes : List Nat
  /-- The port that carries the requests to a remote line that has been asked for (R38). -/
  linePort : AMap Nat
  leased : List LeasedLine
  /-- Latest lease end granted for each line this device owns (R46). -/
  tmax : Tab Nat
  held : List HeldWrite
  /-- The device-event queue of failed translations of peers' accesses, the oldest first (R44). -/
  failures : List PeerFailure
  colls : List Coll
  deriving DecidableEq, Repr

/-! ## Memory -/

/-- An outstanding fill of a line of host memory, with the loads that wait on it (R31, R32). -/
structure HostFill where
  /-- Partition and residency class under which it will be allocated, and the access that asked for it (R112, R114). -/
  part : Nat
  rc : Nat
  asid : Nat
  vline : Nat
  /-- What a fill marked no-install brings: the line as it was before the snoop that marked it. -/
  old : Option (List Byte)
  waiters : List PendAccess
  glob : Bool := false
  deriving DecidableEq, Repr

/-- A line of host memory at its home slice: its bytes when the L2 holds it, and its outstanding fills, the oldest first (R31,
R32). -/
structure HostLine where
  data : Option (List Byte)
  fills : List HostFill
  deriving DecidableEq, Repr

/-- An L2 line: way, partition, residency class, stream state (R99), whether it differs from DRAM (R112, R114), and the
address space and virtual line of the access that allocated it. -/
structure L2Line where
  way : Nat
  asid : Nat
  vline : Nat
  part : Nat
  rc : Nat
  stream : Bool
  dirty : Bool
  /-- Its page is global (R114, R127). -/
  glob : Bool := false
  deriving DecidableEq, Repr

/-- Memory and its home slices. -/
structure Memory where
  /-- Device memory, by physical byte address: the committed bytes, with those that a host cache holds (R28). -/
  bytes : Tab Byte
  /-- Write and read timestamps of each line, by line number (R108). -/
  ts : Tab (Nat × Nat)
  /-- Lines whose read returns an uncorrectable error. -/
  badLines : List Nat
  /-- The bias table: frames in host bias (R27). -/
  bias : Tab Bool
  /-- The frame table (R136). -/
  frames : Tab (BitVec 8)
  /-- Host memory, by I/O virtual byte address. -/
  host : Tab Byte
  hostLines : AMap HostLine
  /-- Lines of host memory whose read ends with an error (R25, R56, R59). -/
  badHost : List Nat
  /-- Lines of frames in host bias that a host cache holds dirty (R28, R30): `bytes` has what the host holds of them, and a
  device access obtains them first. -/
  hostHeld : List Nat
  /-- Lines in the L2, by space and line number (R107): device memory's by physical line number. -/
  l2 : AMap L2Line
  /-- Largest timestamp of a write of an agent outside the cores, and of a path's write to space 0x3 or 0x4 (R172, R178). -/
  outT : Nat
  /-- Largest timestamp of a write of a queue processor or of another unit of the device (R167, R172). -/
  devT : Nat := 0
  /-- L2PART and L2ASID (R112, R113). -/
  l2part : Tab (BitVec 64)
  l2asid : Tab (BitVec 64)
  deriving DecidableEq, Repr

/-! ## Translation -/

/-- A shoot-down that has begun (R127, R128, R130). -/
structure Shoot where
  id : Nat
  asid : Nat
  first : Nat
  count : Nat
  /-- The path that waits for it, by team key and path, or none for the driver's. -/
  issuer : Option (Nat × Nat)
  /-- Engine operations that translated an address of the range before it began. -/
  engines : List Nat
  begun : Bool
  /-- Peers and their requests whose writes, translated before it began, the owner holds (R46). -/
  peers : List (Nat × Nat) := []
  deriving DecidableEq, Repr

/-- A page migration (R132). -/
structure Migration where
  newFrame : Nat
  oldFrame : Nat
  leaf : BitVec 64
  lock : Nat
  /-- Its shoot-down, once that has begun. -/
  shoot : Option Nat
  deriving DecidableEq, Repr

/-- Translation registers and tables outside the cores (R121, R129, R138). -/
structure Xlate where
  atbase : BitVec 64
  ftrd : BitVec 24
  pfbase : BitVec 64
  pfctl : BitVec 32
  pfhead : BitVec 32
  pftail : BitVec 32
  nextFid : BitVec 32
  tsva : BitVec 64
  tsDone : BitVec 32
  tsErr : Bool
  migpte : BitVec 64
  migva : BitVec 64
  migDone : BitVec 32
  migErr : BitVec 2
  mig : Option Migration
  scbase : BitVec 64
  scctl : BitVec 64
  schead : BitVec 32
  sctail : BitVec 32
  schand : Nat
  dieTlb0 : List TlbEntry
  dieTlb1 : List TlbEntry
  walkGen : Tab (BitVec 32)
  shoots : List Shoot
  nextShoot : Nat
  deriving DecidableEq, Repr

/-! ## KV space -/

/-- An entry of a page map (R146). -/
structure MapEnt where
  plane : Nat
  block : Nat
  frame : Nat
  deriving DecidableEq, Repr

/-- A node of a token tree (R143): state 0 free, 1 live, 2 dead. -/
structure Node where
  state : Nat
  len : Nat
  start : Nat
  parent : Nat
  anc : BitVec 256
  map : List MapEnt
  /-- Physical addresses of its map blocks, in chain order. -/
  blocks : List Nat
  /-- Its number among the nodes that have been opened: a copy asked for under an earlier opening of its number is not its own (R150,
  R156). -/
  born : Nat := 0
  deriving DecidableEq, Repr

/-- A changing tree operation that has passed its checks and waits to perform (R159): of a path, by its team, or of a packet. -/
inductive TreeClaim where
  | path (team : BitVec 32) (pi : Nat)
  | packet (q : Nat) (idx : BitVec 32)
  deriving DecidableEq, Repr

/-- A slot (R142): state 0 free, 1 open, 2 retiring. -/
structure Slot where
  state : Nat
  asid : Nat
  npl : Nat
  rlog2 : Nat
  fail : Bool
  gen : BitVec 32
  rbl : BitVec 64
  nodes : AMap Node
  mapFrames : List Nat
  /-- The queue that registered the rebuild launch, and the kept image (R162). -/
  regQueue : Option Nat
  image : List Byte
  rebuilds : BitVec 32
  /-- The frame being rebuilt, its replacement, and the launch (R160). -/
  rebuilding : Option (Nat × Nat × Nat)
  /-- Largest release time of what wrote its state (R426). -/
  rel : Nat
  /-- Frames with RB set that are not rebuilt any more: an access to one ends in UNCORRECTABLE (R160). -/
  lost : List Nat
  /-- The operation for which its checked state is held (R159). -/
  claim : Option TreeClaim
  deriving DecidableEq, Repr

/-- A copy on write waiting at the page engine (R151). -/
structure KvCopy where
  id : Nat
  slot : Nat
  node : Nat
  plane : Nat
  block : Nat
  /-- The pts of the path that asked for it (R110), and the frame it goes to, once that is taken and locked (R150). -/
  pts : Nat
  dest : Option Nat
  /-- The node's number among those opened. -/
  born : Nat := 0
  deriving DecidableEq, Repr

/-- KV registers, slots, count table and free lists (R139 to R162). -/
structure Kv where
  kvbase : BitVec 64
  kvctl : BitVec 64
  reclaimed : Option Nat
  err : Bool
  kvfrd : BitVec 24
  slots : AMap Slot
  counts : Tab (BitVec 32)
  free0 : List Nat
  free1 : List Nat
  copies : List KvCopy
  nextCopy : Nat
  /-- Nodes that have been opened so far. -/
  births : Nat := 0
  /-- Largest timestamp that the page engine's filling of a frame got, by frame (R426). -/
  fillT : Tab Nat := []
  deriving DecidableEq, Repr

/-! ## Queues, launches and queue processors -/

/-- Where a fetched packet stands (R68, R72): fetched, begun, or ended with OUTCOME, TRAP and TASKID. -/
inductive PktState where
  | fetched
  | begun
  | ended (outcome trap : Nat) (task : BitVec 32)
  | reported
  deriving DecidableEq, Repr

/-- A packet fetched from a queue. -/
structure Packet where
  idx : BitVec 32
  bytes : List Byte
  st : PktState
  /-- The launch or the copy it started. -/
  item : Option Nat
  /-- Release time of its end (R426). -/
  rel : Nat
  deriving DecidableEq, Repr

/-- A user queue (R22, R61 to R73). -/
structure Queue where
  qbase : BitVec 64
  qctl : BitVec 64
  qwr : BitVec 32
  qrd : BitVec 32
  fetchIdx : BitVec 32
  rstDone : Bool
  rstBusy : Bool
  qerr : BitVec 8
  ldrop : BitVec 16
  inline_ : Option (BitVec 32 × List Byte)
  packets : List Packet
  /-- Packets that a failed COND still cancels (R71). -/
  skip : Nat
  /-- Largest release time that the beginning of its next packet synchronises with (R426). -/
  rel : Nat
  deriving DecidableEq, Repr

/-- A wait of a queue processor in SWAIT (R59). -/
structure SwaitState where
  cond : BitVec 3
  rd : Reg5
  addr : BitVec 64
  cmp : BitVec 64
  last : BitVec 64
  deriving DecidableEq, Repr

/-- The reservation of a load-reserve: its address, the bytes that it read, and the write timestamp of its line (R54). -/
structure Reserved where
  addr : Nat
  data : List Byte
  wts : Nat
  deriving DecidableEq, Repr

/-- A privilege mode of a queue processor (R54). -/
inductive HartMode where
  | machine | supervisor | user
  deriving DecidableEq, Repr

/-- A queue processor (R54 to R60). -/
structure Hart where
  x : Tab (BitVec 64)
  pc : BitVec 64
  mode : HartMode
  mstatus : BitVec 64
  mtvec : BitVec 64
  mepc : BitVec 64
  mcause : BitVec 64
  mtval : BitVec 64
  qpwto : BitVec 64
  /-- The registers f0 to f31, the other control and status registers by number, and the reservation of LR (R54). -/
  f : Tab (BitVec 64)
  csr : Tab (BitVec 64)
  resv : Option Reserved
  /-- The interrupt lines, by their bits in mip. -/
  irq : BitVec 12
  sram : Tab Byte
  swait : Option SwaitState
  deriving DecidableEq, Repr

/-- A live launch (R60, R65). -/
structure Launch where
  queue : Nat
  pkt : Option (BitVec 32)
  asid : Nat
  prio : Nat
  rt : Bool
  args : BitVec 64
  gx : Nat
  gy : Nat
  gz : Nat
  k : Kdesc
  /-- Order of DISP (R84). -/
  order : Nat
  begun : Bool
  /-- First neighbourhood never placed, and those that returned (R84, R95). -/
  nextNb : Nat
  returned : List Nat
  /-- Neighbourhoods whose teams have not all ended. -/
  liveNb : List Nat
  failed : Option (Nat × BitVec 32)
  cancelled : Bool
  /-- Continuation slots in use (R200). -/
  contSlots : List Nat
  /-- Private-area indices in use (R102). -/
  privUsed : List Nat
  rebuild : Option Nat
  /-- The neighbourhood of it that is the oldest of its class and did not fit, and the time from which (R89). -/
  waitFrom : Option (Nat × Nat)
  /-- Release time that its beginning acquired, and the largest of its own releases (R426). -/
  acq : Nat
  rel : Nat
  deriving DecidableEq, Repr

/-- Queues, queue processors, launches and placement (R54 to R95). -/
structure Sched where
  queues : AMap Queue
  harts : AMap Hart
  launches : AMap Launch
  dispCount : Nat
  /-- Largest release time of what the device wrote to a signal, by address in the queue-processor view (R426). -/
  sigT : Tab Nat
  /-- Saved and discarded teams, by launch and neighbourhood (R91, R92). -/
  saved : List (Nat × Nat × List Team)
  /-- Bins of vacated cores, each with its core's place in the rectangle (R91). -/
  savedBins : List (Nat × Bin)
  /-- Event-queue entries of saved teams (R241). -/
  savedEv : List EvEntry
  cvDone : BitVec 32
  cvErr : Bool
  cvBusy : Bool
  /-- Cores that a pre-emption vacates (R89), and those that a request vacates and fences (R90). -/
  vacating : List Nat
  cvCores : List Nat
  deriving DecidableEq, Repr

/-! ## Engines -/

/-- Whose range a lock is (R237, R30, R132, R150). -/
inductive LockOwner where
  | copy (id : Nat) | coll (id : Nat) | flip | migration | kvCopy (id : Nat)
  deriving DecidableEq, Repr

/-- What a lock's addresses count: device memory, host memory or the scratchpad of a team (R237). -/
inductive LockPlace where
  | device | host | scratch (team : BitVec 32)
  deriving DecidableEq, Repr

/-- A range of a place, by bytes from `lo` up to `hi` (R237). -/
structure LockRange where
  write : Bool
  place : LockPlace
  lo : Nat
  hi : Nat
  deriving DecidableEq, Repr

/-- A registration at Gorse, held or waiting (R237). -/
structure LockReg where
  id : Nat
  owner : LockOwner
  ranges : List LockRange
  granted : Bool
  deriving DecidableEq, Repr

/-- A copy record in flight (R233 to R239). The fields of the record stand as the engine read them. -/
structure Copy where
  id : Nat
  core : Nat
  tkey : Nat
  teamId : BitVec 32
  path : Nat
  clause : Nat
  launch : Nat
  asid : Nat
  recOff : Nat
  mode : Nat
  scope : Nat
  evt : Bool
  tag : BitVec 32
  src : BitVec 64
  dst : BitVec 64
  bar : Nat
  w4 : BitVec 64
  w5 : BitVec 64
  w6 : BitVec 64
  w7 : BitVec 64
  fmt : BitVec 32
  pts : Nat
  win : Window
  /-- Bytes moved so far, those of them subtracted from CNT, and the record's B. -/
  moved : Nat
  counted : Nat
  total : Nat
  /-- The rows a drain has read, converted (R235, R240). -/
  buffer : Option (List Byte)
  /-- Completion-area bytes of a drain-reduce. -/
  area : List Byte
  pause : Option FaultInfo
  /-- Set on a discard or a failure: the trap class to report. -/
  failed : Option TrapClass
  /-- A COPY packet, by queue and index, instead of a record. -/
  packet : Option (Nat × BitVec 32)
  /-- The release time of its writes (R426). -/
  rel : Nat
  deriving DecidableEq, Repr

/-- Engines, locks and accesses in flight. -/
structure Engines where
  copies : List Copy
  locks : List LockReg
  nextLock : Nat
  nextId : Nat
  pend : List PendAccess
  deriving DecidableEq, Repr

/-! ## Debug -/

/-- A watchpoint (R254, R420). -/
structure Watch where
  base : BitVec 64
  len : Nat
  kind : Nat
  space : Nat
  team : BitVec 32
  deriving DecidableEq, Repr

/-- A debug step in progress (R255). -/
structure DebugStep where
  req : DebugReq
  tkey : Nat
  path : Nat
  /-- The scalar instruction has completed, and the clause it enqueued, if any. -/
  issued : Bool
  clause : Option Nat
  /-- The first watchpoint matched during the step. -/
  watch : Option (Nat × Mask)
  /-- The path that a SPLIT made. -/
  child : Option Nat
  /-- The path whose CRW to DSTEP asked for the step, or none for the mailbox (R382). -/
  byPath : Option (Nat × Nat)
  /-- The stop that the step released. -/
  was : Stop
  deriving DecidableEq, Repr

/-- Debug, trap reports, journal, dump and trials (R25, R249 to R260, R382). -/
structure Debug where
  req : Tab Byte
  rsp : Tab Byte
  dcode : BitVec 8
  done : Bool
  busy : Bool
  attached : Option (BitVec 12)
  comparators : AMap (BitVec 64)
  watches : AMap Watch
  /-- Stop records that POLL has not returned, the oldest first (R253). -/
  stops : List (List Byte)
  stepping : Option DebugStep
  /-- A STEP of the mailbox that waits for the step in hand (R255). -/
  stepNext : Option DebugReq := none
  dres : BitVec 8
  trbase : BitVec 64
  trctl : BitVec 32
  trhead : BitVec 32
  trtail : BitVec 32
  /-- Trap reports that wait for space in the ring, or for the issued accesses of their team to perform (R247, R249). -/
  trWait : List (BitVec 32 × List Byte)
  dmpbase : BitVec 64
  dmpsize : BitVec 32
  dmpctl : BitVec 32
  dmpstat : BitVec 64
  jbase : BitVec 64
  jctl : BitVec 32
  jcount : BitVec 31
  jerr : Bool
  /-- Bytes of the journal written, or read back in a replay. -/
  jpos : Nat
  /-- Records a replay has taken, by number (R259). -/
  jtaken : List Nat
  cxlo : BitVec 64
  cxhi : BitVec 64
  cxctl : BitVec 64
  cxdly : BitVec 64
  cxpth : BitVec 64
  pcnt : Tab (BitVec 64)
  deriving DecidableEq, Repr

/-! ## The device -/

/-- The whole machine. -/
structure State where
  ctx : Ctx
  /-- Who moves next, in order. The spec leaves the interleaving of agents and the arrival of inputs open; this list
  holds one. When it is empty the step chooses under R86 and R87 on the core of `ctx`. -/
  agenda : List Move
  /-- The model's own counter of free values (see Config). -/
  fresh : Nat
  dev : Dev
  fab : Fabric
  mem : Memory
  xl : Xlate
  kv : Kv
  sched : Sched
  cores : AMap Core
  /-- Resident teams, by core number × 16 + slot. -/
  teams : AMap Team
  eng : Engines
  dbg : Debug
  /-- What the device has shown to the outside, the newest first. -/
  out : List OutMsg
  deriving DecidableEq, Repr

/-! ## Reset -/

/-- A core right after reset. -/
def Core.reset : Core :=
  { fenced := false, ctime := 0, lastSlot := 0, lastPath := [], running := none, lastClauseSlot := 0, l1 := [],
    tlb := [], lpr := [], bins := [], evq := [], taskCtr := [], kvCache := [], lastLaunch := none, lastMatSlot := 0,
    pairPending := [], laneTurn := false }

/-- A queue right after reset (R22, R61). -/
def Queue.reset : Queue :=
  { qbase := 0, qctl := 0, qwr := 0, qrd := 0, fetchIdx := 0, rstDone := false, rstBusy := false, qerr := 0,
    ldrop := 0, inline_ := none, packets := [], skip := 0, rel := 0 }

/-- A queue processor right after reset. -/
def Hart.reset : Hart :=
  { x := [], pc := 0, mode := .machine, mstatus := 0, mtvec := 0, mepc := 0, mcause := 0, mtval := 0, qpwto := 0,
    f := [], csr := [], resv := none, irq := 0, sram := [], swait := none }

/-- The host link after a power-on reset (R10, R14, R17, R34). -/
def Dev.reset : Dev :=
  { power := .d0, bstep := 0, berr := 0, svc := 0, switching := false, halted := false, noLink := false, clk0 := 8,
    clk1 := 8, lowWindows := 0, pcap := 1800, bridgeRetries := 0, d3Asked := false, wall := 0, winbase := 0, winLog2 := 40,
    cxl := true, flips := [], bfDone := 0, bfErr := 0, meas := [], log := [], mextStage := [], mextIgn := false,
    mextFull := false, fuseDebug := true, spdmAgreed := false, transcript := [], fwaddr := 0, fwstat := 0, fwImage := 0,
    hostT := 0, heldHost := [] }

/-- The fabric after reset (R39, R42: fabric time does not run, so the device is in lease hold). -/
def Fabric.reset : Fabric :=
  { fnode := 0xFFF, ftime := 0, running := false, ftunc := 250, hold := true, lock := false, ports := 0,
    goodSyncs := 0, eps := none, ftmo := 2000, fexp := [], fgrp := [], routes := [], linePort := [], leased := [], tmax := [],
    held := [], failures := [], colls := [] }

/-- Memory after reset: nothing listed (R425), L2PART as R112 gives it. -/
def Memory.reset : Memory :=
  { bytes := [], ts := [], badLines := [], bias := [], frames := [], host := [], hostLines := [], badHost := [],
    hostHeld := [], l2 := [], outT := 0, devT := 0,
    l2part := [(0, 0x00FFFFFFFFFFFFFF), (15, 0x000FFFF0FFFFFFFF)], l2asid := [] }

/-- Translation after reset (R138). -/
def Xlate.reset : Xlate :=
  { atbase := 0, ftrd := 0, pfbase := 0, pfctl := 0, pfhead := 0, pftail := 0, nextFid := 0, tsva := 0, tsDone := 0,
    tsErr := false, migpte := 0, migva := 0, migDone := 0, migErr := 0, mig := none, scbase := 0, scctl := 0,
    schead := 0, sctail := 0, schand := 0, dieTlb0 := [], dieTlb1 := [], walkGen := [], shoots := [], nextShoot := 0 }

/-- KV space after reset: every slot free (R140, R142). -/
def Kv.reset : Kv :=
  { kvbase := 0, kvctl := 0, reclaimed := none, err := false, kvfrd := 0, slots := [], counts := [], free0 := [],
    free1 := [], copies := [], nextCopy := 0, births := 0, fillT := [] }

/-- Queues and placement after reset: eight queue processors, no queue enabled, no launch (R61, R90). -/
def Sched.reset : Sched :=
  { queues := [], harts := (List.range 8).map (fun h => (h, Hart.reset)), launches := [], dispCount := 0, sigT := [], saved := [],
    savedBins := [], savedEv := [], cvDone := 0, cvErr := false, cvBusy := false, vacating := [], cvCores := [] }

/-- Engines after reset: nothing in flight. -/
def Engines.reset : Engines := { copies := [], locks := [], nextLock := 0, nextId := 0, pend := [] }

/-- Debug after reset (R25, R256, R260). -/
def Debug.reset : Debug :=
  { req := [], rsp := [], dcode := 0, done := false, busy := false, attached := none, comparators := [], watches := [],
    stops := [], stepping := none, stepNext := none, dres := 0, trbase := 0, trctl := 0, trhead := 0, trtail := 0, trWait := [],
    dmpbase := 0, dmpsize := 0, dmpctl := 0, dmpstat := 0, jbase := 0, jctl := 0, jcount := 0, jerr := false,
    jpos := 0, jtaken := [], cxlo := 0, cxhi := 0, cxctl := 0, cxdly := 0, cxpth := 0, pcnt := [] }

/-- The machine right after a power-on reset: bring-up has not begun (R14), nothing is resident and no program is
present. -/
def State.reset : State :=
  { ctx := { core := 0, slot := 0, path := 0, hart := 0 }, agenda := [], fresh := 0, dev := Dev.reset,
    fab := Fabric.reset, mem := Memory.reset, xl := Xlate.reset, kv := Kv.reset, sched := Sched.reset,
    cores := (List.range 384).map (fun c => (c, Core.reset)), teams := [], eng := Engines.reset, dbg := Debug.reset,
    out := [] }

end Sys2Proof.Machine
end

