-- ==== Sys2Proof/Machine/Home.lean ====
section
/-!
DEFINITION. Access to the parts of the state, and the home slices: committed memory, timestamps, L1 and L2 lines
(R97, R106 to R116, R136, R426).
-/

namespace Sys2Proof.Machine

/-! ## Parts of the state -/

/-- Key of a team: core number × 16 + slot. -/
def teamKey (core slot : Nat) : Nat := core * 16 + slot

/-- The core of a team's key. -/
def keyCore (key : Nat) : Nat := key / 16

/-- The slot of a team's key. -/
def keySlot (key : Nat) : Nat := key % 16

/-- A core (R6). -/
def State.core (s : State) (c : Nat) : Core := (AMap.find s.cores c).getD Core.reset

/-- The state with a core replaced. -/
def State.setCore (s : State) (c : Nat) (v : Core) : State := { s with cores := AMap.insert c v s.cores }

/-- The state with a core changed. -/
def State.modCore (s : State) (c : Nat) (f : Core → Core) : State := s.setCore c (f (s.core c))

/-- A resident team. -/
def State.team (s : State) (key : Nat) : Option Team := AMap.find s.teams key

/-- The state with a team put at its key. -/
def State.setTeam (s : State) (key : Nat) (t : Team) : State := { s with teams := AMap.insert key t s.teams }

/-- The state with a resident team changed. -/
def State.modTeam (s : State) (key : Nat) (f : Team → Team) : State := { s with teams := AMap.modify key f s.teams }

/-- The team with a path put at its index. -/
def Team.setPath (t : Team) (i : Nat) (p : Path) : Team := { t with paths := AMap.insert i p t.paths }

/-- The team with a path changed. -/
def Team.modPath (t : Team) (i : Nat) (f : Path → Path) : Team := { t with paths := AMap.modify i f t.paths }

/-- A path of a resident team. -/
def State.path (s : State) (key i : Nat) : Option Path := (s.team key).bind (fun t => AMap.find t.paths i)

/-- The state with a path changed. -/
def State.modPath (s : State) (key i : Nat) (f : Path → Path) : State := s.modTeam key (fun t => t.modPath i f)

/-- A launch. -/
def State.launch (s : State) (h : Nat) : Option Launch := AMap.find s.sched.launches h

/-- The state with a launch changed. -/
def State.modLaunch (s : State) (h : Nat) (f : Launch → Launch) : State :=
  { s with sched := { s.sched with launches := AMap.modify h f s.sched.launches } }

/-- A queue: one that nothing has written is as after reset (R61). -/
def State.queue (s : State) (q : Nat) : Queue := (AMap.find s.sched.queues q).getD Queue.reset

/-- The state with a queue changed. -/
def State.modQueue (s : State) (q : Nat) (f : Queue → Queue) : State :=
  { s with sched := { s.sched with queues := AMap.insert q (f (s.queue q)) s.sched.queues } }

/-- A queue processor (R54). -/
def State.hart (s : State) (h : Nat) : Hart := (AMap.find s.sched.harts h).getD Hart.reset

/-- The state with a queue processor changed. -/
def State.modHart (s : State) (h : Nat) (f : Hart → Hart) : State :=
  { s with sched := { s.sched with harts := AMap.insert h (f (s.hart h)) s.sched.harts } }

/-- The state with something shown to the outside. -/
def State.emit (s : State) (m : OutMsg) : State := { s with out := m :: s.out }

/-- The state with its counter of free values advanced. -/
def State.tick (s : State) : State := { s with fresh := s.fresh + 1 }

/-- Fabric time runs: from the end of bring-up step 6 on, and not in reduced service (R8, R40). -/
def State.fabricRuns (s : State) : Bool := s.fab.running && decide (2 ≤ s.dev.svc)

/-- Time passes (R8, R40). -/
def State.passTime (s : State) : State :=
  { s.tick with
    dev := { s.dev with wall := s.dev.wall + Config.wallAdvance s.fresh },
    fab := { s.fab with ftime := if s.fabricRuns then s.fab.ftime + Config.ftimeAdvance s.fresh else s.fab.ftime } }

/-! ## Addresses of memory -/

/-- First address past the device memory of the service level (R4, R15). -/
def Dev.limit (d : Dev) : Nat := if d.svc = 1 then 0x1800000000 else 0x9000000000

/-- The device is in D3hot or D3cold, where nothing runs and no access is served (R11). -/
def Dev.dark (d : Dev) : Bool := d.power == .d3hot || d.power == .d3cold

/-- The host reaches no register and no request of the host is served: in D3hot and D3cold (R11), and before step 1 of bring-up has
brought the link up (R14). -/
def Dev.deaf (d : Dev) : Bool := d.dark || d.bstep == 0

/-- The device is in D0: a team that starts ends D0 idle (R11). -/
def Dev.wake (d : Dev) : Dev := if d.power = .d0idle then { d with power := .d0 } else d

/-- No core issues and no team starts: before reduced service, in D3hot and D3cold, and after a stop of the whole device (R5, R11,
R13, R14). -/
def Dev.stopped (d : Dev) : Bool := d.halted || d.svc == 0 || d.dark

/-- The die whose DRAM serves a physical address (R4). -/
def dieOfPa (pa : Nat) : Nat := pa / 0x4800000000

/-- The line of a byte address. -/
def lineOf (a : Nat) : Nat := a / 64

/-- The frame of a physical address. -/
def frameOf (pa : Nat) : Nat := pa / 0x10000

/-- The fold of a line number that names its home slice (R107). -/
def foldSlice (d : Dev) (n : Nat) : Nat :=
  (n ^^^ (n >>> 9) ^^^ (n >>> 18) ^^^ (n >>> 27)) % (if d.svc = 1 then 160 else 320)

/-- The home slice of a physical address (R107). -/
def homeSlice (d : Dev) (pa : Nat) : Nat := foldSlice d (pa / 64 % 2 ^ 34)

/-- A line in the L2: its space, 0 for device memory, and its line number, address bits [59:6] in spaces 0x3 and 0x4 (R107). -/
def l2Key (space line : Nat) : Nat := space * 2 ^ 54 + line

/-- The home slice of a line in the L2 (R107): a line of host memory folds the line of its address as it was issued, `vline`. -/
def keySlice (d : Dev) (key vline : Nat) : Nat := foldSlice d (if key / 2 ^ 54 = 4 then vline else key % 2 ^ 54)

/-- The die of a slice (R107). -/
def sliceDie (slice : Nat) : Nat := slice / 160

/-! ## Committed memory -/

/-- `n` bytes of committed device memory. -/
def State.readPa (s : State) (pa n : Nat) : List Byte := Tab.getList 0 s.mem.bytes pa n

/-- The aligned 64-bit word of committed device memory at an address. -/
def State.readPa64 (s : State) (pa : Nat) : BitVec 64 := BitVec.ofNat 64 (ofBytes (s.readPa pa 8))

/-- Device memory with bytes written. -/
def Memory.put (m : Memory) (pa : Nat) (bs : List Byte) : Memory := { m with bytes := Tab.setList 0 pa bs m.bytes }

/-- wts and rts of a line (R108). -/
def Memory.stamps (m : Memory) (line : Nat) : Nat × Nat := Tab.get (0, 0) m.ts line

/-- A line with its timestamps set. -/
def Memory.setStamps (m : Memory) (line : Nat) (v : Nat × Nat) : Memory := { m with ts := Tab.set (0, 0) line v m.ts }

/-- The frame table byte of a frame (R136). -/
def Memory.frameByte (m : Memory) (fr : Nat) : BitVec 8 := Tab.get 0 m.frames fr

/-- FA of the frame is set by an access that performs at its home slice (R136). -/
def Memory.touch (m : Memory) (pa : Nat) : Memory :=
  { m with frames := Tab.set 0 (frameOf pa) (m.frameByte (frameOf pa) ||| 4) m.frames }

/-- TBL of the frame of an address (R136). -/
def Memory.isTable (m : Memory) (pa : Nat) : Bool := (m.frameByte (frameOf pa)).getLsbD 0

/-- The frame of an address is in host bias (R27). -/
def Memory.hostBias (m : Memory) (pa : Nat) : Bool := Tab.get false m.bias (frameOf pa)

/-- A list with the bytes from `off` replaced. -/
def patch (old : List Byte) (off : Nat) (new : List Byte) : List Byte :=
  old.take off ++ new ++ old.drop (off + new.length)

/-- An L1 line with a store of the same core applied (R106, R110). -/
def L1Line.update (l : L1Line) (pa : Nat) (bs : List Byte) (w : Nat) : L1Line :=
  if l.pline = lineOf pa then { l with data := patch l.data (pa % 64) bs, base := w, delta := 0 } else l

/-- A device access to a frame in host bias: the home slice obtains the line from the host, which may hold it dirty, and the L2
does not keep it (R28). -/
def State.obtain (s : State) (pa : Nat) : State :=
  if s.mem.hostBias pa then
    ({ s with mem := { s.mem with l2 := AMap.erase (lineOf pa) s.mem.l2,
                                  hostHeld := s.mem.hostHeld.filter (fun l => l != lineOf pa) } }).emit (.hostObtain (lineOf pa))
  else s

/-- A write at the home slice, within one line (R110): the new wts, and the state after it. `cores` are the storing cores,
whose own L1 copies are updated. -/
def State.writeLine (s : State) (cores : List Nat) (pts pa : Nat) (bs : List Byte) : State × Nat :=
  let w := max pts ((s.mem.stamps (lineOf pa)).2 + 1)
  let m := (((s.mem.put pa bs).setStamps (lineOf pa) (w, w)).touch pa)
  (cores.foldl (fun s c => s.modCore c (fun k => { k with l1 := k.l1.map (fun l => l.update pa bs w) })) { s with mem := m }, w)

/-- A write of the device at the home slice, within one line: in host bias the slice obtains the line first (R28, R110). -/
def State.writeHome (s : State) (cores : List Nat) (pts pa : Nat) (bs : List Byte) : State × Nat :=
  (s.obtain pa).writeLine cores pts pa bs

/-- Bytes cut at line boundaries: first address and bytes of each piece. `fuel` bounds the number of pieces. -/
def pieces : Nat → Nat → List Byte → List (Nat × List Byte)
  | 0, _, _ => []
  | _ + 1, _, [] => []
  | fuel + 1, a, b :: bs =>
    let n := 64 - a % 64
    (a, (b :: bs).take n) :: pieces fuel (a + n) ((b :: bs).drop n)

/-- A write of any length, line by line: the largest wts it got, and the state after it. -/
def State.writeLines (s : State) (cores : List Nat) (pts pa : Nat) (bs : List Byte) : State × Nat :=
  (pieces (bs.length + 1) pa bs).foldl
    (fun (r : State × Nat) p => let q := r.1.writeHome cores pts p.1 p.2; (q.1, max r.2 q.2)) (s, 0)

/-- A timestamp that a strong access at system scope to what an outside agent writes must pass (R172, R178). -/
def State.noteOut (s : State) (w : Nat) : State := { s with mem := { s.mem with outT := max s.mem.outT w } }

/-- A timestamp that a strong access at device scope to what a unit of the device writes must pass (R167, R172). -/
def State.noteDev (s : State) (w : Nat) : State := { s with mem := { s.mem with devT := max s.mem.devT w } }

/-- A write of a peer, which takes P.pts = 0 (R110). -/
def State.writeOutside (s : State) (pa : Nat) (bs : List Byte) : State :=
  let r := s.writeLines [] 0 pa bs
  r.1.noteOut r.2

/-- A write of a queue processor or of another unit of the device, which takes P.pts = 0 (R110): it is in the instances of device
scope too (R167). -/
def State.writeUnit (s : State) (pa : Nat) (bs : List Byte) : State :=
  let r := s.writeLines [] 0 pa bs
  (r.1.noteOut r.2).noteDev r.2

/-- A write of the host within one line, with its timestamp kept for the release of a launch store (R110, R426): the host is asked for
no line that it writes itself. -/
def State.hostLineWrite (s : State) (pa : Nat) (bs : List Byte) : State :=
  let r := s.writeLine [] 0 pa bs
  ({ r.1 with dev := { r.1.dev with hostT := max r.1.dev.hostT r.2 } }).noteOut r.2

/-! ## L2 allocation -/

/-- The partition of an ASID (R113). -/
def Memory.partition (m : Memory) (asid : Nat) : Nat :=
  bits (4 * (asid % 16) + 3) (4 * (asid % 16)) (Tab.get 0 m.l2asid (asid / 16)).toNat

/-- Whether an access allocates in the L2, and in the stream state, by its space, hint and residency class (R31, R45, R96, R99,
R114). -/
def l2Policy (space hint rc : Nat) : Option Bool :=
  if rc = 3 then none
  else if space = 3 ∨ space = 4 then some false
  else if space = 0 ∨ space = 5 ∨ space = 7 then
    (if hint = 3 then none else if hint = 2 then some true else some false)
  else if space = 1 then (if hint = 1 then some false else if hint = 2 then some true else none)
  else none

/-- Whether a load may fill the L1 (R96, R99, R106). -/
def l1Policy (space hint : Nat) : Bool :=
  if space = 0 ∨ space = 5 ∨ space = 7 then hint == 0 || hint == 1 else space == 1 && hint == 1

/-- A context save is running (R115). -/
def State.saving (s : State) : Bool := s.teams.any (fun e => e.2.phase == .saving)

/-- A way of a slice belongs to the context-save partition, and the line's partition is another: it takes clean lines of class
normal alone, and none while a save is running (R115). -/
def State.saveWay (s : State) (part slice way : Nat) : Bool :=
  let reg := (Tab.get 0 s.mem.l2part 15).toNat
  part != 15 && (bits 15 0 reg).testBit way && (bits 55 16 reg).testBit (slice / 8)

/-- What the L2 takes of a line: its key, the partition and residency class, and the access that brings it. -/
structure L2Args where
  key : Nat
  part : Nat
  rc : Nat
  asid : Nat
  vline : Nat
  stream : Bool
  dirty : Bool
  /-- Its page is global (R114, R127). -/
  glob : Bool := false
  deriving DecidableEq, Repr

/-- A line present in the L2 is written (R31, R115): one in a way of the context-save partition is written through. -/
def State.l2Dirty (s : State) (key : Nat) (l : L2Line) (dirty : Bool) : L2Line :=
  { l with dirty := l.dirty || (dirty && !s.saveWay l.part (keySlice s.dev key l.vline) l.way) }

/-- A line allocated in the L2 under its partition's slices and ways and the classes of what it would evict (R112,
R114, R115). -/
def State.l2Alloc (s : State) (a : L2Args) : State :=
  match AMap.find s.mem.l2 a.key with
  | some l => { s with mem := { s.mem with l2 := AMap.insert a.key (s.l2Dirty a.key l a.dirty) s.mem.l2 } }
  | none =>
    let slice := keySlice s.dev a.key a.vline
    let reg := (Tab.get 0 s.mem.l2part a.part).toNat
    if ¬ (bits 55 16 reg).testBit (slice / 8) then s
    else
      let same := s.mem.l2.filter
        (fun e => keySlice s.dev e.1 e.2.vline == slice && Config.l2Set e.1 % 512 == Config.l2Set a.key % 512)
      let pinned := (same.filter (fun e => e.2.rc == 2)).length
      let cls := if a.rc = 2 ∧ 12 ≤ pinned then 1 else a.rc
      let open_ := fun (j : Nat) => !s.saveWay a.part slice j || (cls == 0 && !s.saving)
      let ways := (List.range 16).filter (fun j => (bits 15 0 reg).testBit j && open_ j)
      let spec := fun (k : Nat) => decide (k < 2 ^ 54) && (s.teams.map (·.2) ++ s.sched.saved.flatMap (fun e => e.2.2)).any
        (fun t => t.version.any (fun b => lineOf b.1 == k))
      let put := fun (way : Nat) (m : AMap L2Line) =>
        AMap.insert a.key ({ way := way, asid := a.asid, vline := a.vline, part := a.part, rc := cls, stream := a.stream, glob := a.glob,
                             dirty := a.dirty && !s.saveWay a.part slice way } : L2Line) m
      match ways.find? (fun j => same.all (fun e => e.2.way != j)) with
      | some j => { s with mem := { s.mem with l2 := put j s.mem.l2 } }
      | none =>
        let cand := same.filter (fun e => ways.contains e.2.way && !spec e.1 &&
          (e.2.rc == 0 || (e.2.rc == 1 && e.2.part == a.part)))
        let first := if cand.any (fun e => e.2.stream) then cand.filter (fun e => e.2.stream) else cand
        match first[Config.victim s.fresh % max 1 first.length]? with
        | none => s
        | some e => { s.tick with mem := { s.mem with l2 := put e.2.way (AMap.erase e.1 s.mem.l2) } }

/-- What an access brings to the L2. -/
structure L2Access where
  pa : Nat
  asid : Nat
  space : Nat
  va : Nat
  hint : Nat
  rc : Nat
  dirty : Bool
  glob : Bool := false
  deriving DecidableEq, Repr

/-- The L2 side of an access to device memory (R28, R99, R112): in host bias a read obtains the line, as a write does when it
performs. -/
def State.l2Access (s : State) (a : L2Access) : State :=
  if s.mem.hostBias a.pa then (if a.dirty then s else s.obtain a.pa)
  else
    match l2Policy a.space a.hint a.rc with
    | none => s
    | some stream =>
      s.l2Alloc { key := lineOf a.pa, part := s.mem.partition a.asid, rc := a.rc, asid := a.asid, vline := lineOf a.va,
                  stream := stream, dirty := a.dirty, glob := a.glob }

/-! ## L1 -/

/-- Whether an L1 line is the copy of a line under these tags (R106, R149). -/
def L1Line.tagged (l : L1Line) (asid space vline pline : Nat) : Bool :=
  l.asid == asid && l.space == space && l.vline == vline && l.pline == pline

/-- The L1 with a line put in its set of eight; a full set gives up one line. -/
def l1Fill (fresh : Nat) (l1 : List L1Line) (l : L1Line) : List L1Line :=
  let rest := l1.filter (fun x => !x.tagged l.asid l.space l.vline l.pline)
  if rest.length < 8 then l :: rest
  else
    let inSet := rest.filter (fun x => Config.l1Set x.vline % 512 == Config.l1Set l.vline % 512)
    if inSet.length < 8 then l :: rest
    else
      match inSet[Config.victim fresh % 8]? with
      | none => l :: rest
      | some v => l :: rest.filter (fun x => !(x == v))

/-- What a load brings to the home slice or to the L1. -/
structure LoadArgs where
  /-- The core whose L1 serves it. -/
  core : Nat
  /-- Its path. -/
  key : Nat
  path : Nat
  asid : Nat
  space : Nat
  /-- Virtual and physical address of its first byte; it lies in one line. -/
  va : Nat
  pa : Nat
  size : Nat
  /-- An acquire that must renew at the home slice. -/
  renew : Bool
  /-- The policy allows an L1 fill, and the page is stable (R116). -/
  fill : Bool
  stable : Bool
  /-- What a strong load at device or system scope follows: the writes of units of the device, or of any agent outside the cores,
  before it (R172, R178). -/
  sync : Nat
  deriving DecidableEq, Repr

/-- A load of committed data (R109). A strong one passes what it follows before the test of the L1. -/
def State.loadCommitted (s0 : State) (a : LoadArgs) : State × List Byte :=
  let s := s0.modPath a.key a.path (fun p => { p with pts := max p.pts a.sync })
  let pts := ((s.path a.key a.path).map (·.pts)).getD 0
  let line := lineOf a.pa
  let cut := fun (d : List Byte) => (d.drop (a.pa % 64)).take a.size
  let hit := (s.core a.core).l1.find? (fun l => l.tagged a.asid a.space (lineOf a.va) line
    && (l.stable || decide (pts ≤ l.base + l.delta)))
  match (if a.renew then none else hit) with
  | some l =>
    ((if l.stable then s else s.modPath a.key a.path (fun p => { p with pts := max p.pts l.base })), cut l.data)
  | none =>
    let st := s.mem.stamps line
    let lease := max st.1 pts + 8
    let data := s.readPa (line * 64) 64
    let b := max st.1 (lease - 65535)
    let s := { s with mem := (s.mem.setStamps line (st.1, max st.2 lease)).touch a.pa }
    let s := s.modPath a.key a.path (fun p => { p with pts := max p.pts st.1 })
    let new : L1Line := { asid := a.asid, space := a.space, vline := lineOf a.va, pline := line, data := data,
                          base := b, delta := lease - b, stable := a.stable }
    let s := if a.fill && !s.mem.hostBias a.pa
      then s.tick.modCore a.core (fun c => { c with l1 := l1Fill s.fresh c.l1 new }) else s
    (s, cut data)

/-- The read that a failed compare performs (R28, R110). -/
def State.readAtomic (s0 : State) (key path pa : Nat) : State :=
  let s := s0.obtain pa
  let pts := ((s.path key path).map (·.pts)).getD 0
  let st := s.mem.stamps (lineOf pa)
  { s with mem := (s.mem.setStamps (lineOf pa) (st.1, max st.2 pts)).touch pa }.modPath key path
    (fun p => { p with pts := max p.pts st.1 })

/-- A write of a path at the home slice, whose pts then rises (R110). -/
def State.storeHome (s : State) (core key path pa : Nat) (bs : List Byte) : State :=
  let r := s.writeHome [core] (((s.path key path).map (·.pts)).getD 0) pa bs
  r.1.modPath key path (fun p => { p with pts := max p.pts r.2 })

/-- Every stable line of a core is dropped (R116). -/
def Core.dropStable (c : Core) : Core := { c with l1 := c.l1.filter (fun l => !l.stable) }

/-! ## Host memory -/

/-- The bytes of a line of host memory that the L2 holds (R31). -/
def State.hostPresent (s : State) (line : Nat) : Option (List Byte) :=
  if (AMap.find s.mem.l2 (l2Key 4 line)).isSome then (AMap.find s.mem.hostLines line).bind (·.data) else none

/-- `n` bytes of host memory. -/
def State.readHost (s : State) (a n : Nat) : List Byte := Tab.getList 0 s.mem.host a n

/-- A write to host memory: a CXL.cache write that updates an L2 copy in place (R31). -/
def State.writeHost (s : State) (a : Nat) (bs : List Byte) : State :=
  let lines := s.mem.hostLines.map (fun e =>
    match e.2.data with
    | some d => if e.1 = lineOf a then (e.1, { e.2 with data := some (patch d (a % 64) bs) }) else e
    | none => e)
  ({ s with mem := { s.mem with host := Tab.setList 0 a bs s.mem.host, hostLines := lines } }).emit
    (.hostWrite a bs)

/-! ## The queue processors' view (R54) -/

/-- Where an address of the queue processors' view leads: host memory, local SRAM, device memory, or nowhere. -/
inductive ViewTarget where
  | host (a : Nat)
  | sram (off : Nat)
  | dev (pa : Nat)
  | bad
  deriving DecidableEq, Repr

/-- An address of the queue processors' view (R54). -/
def viewOf (d : Dev) (a : Nat) : ViewTarget :=
  if a.testBit 63 then .host (bits 62 0 a)
  else if a.testBit 62 then (if bits 61 18 a = 0 then .sram (bits 17 0 a) else .bad)
  else if bits 61 0 a < d.limit then .dev (bits 61 0 a) else .bad

/-- `n` bytes at a target of the view, read in the local SRAM of queue processor `h`, or committed at the home slice. -/
def State.viewRead (s : State) (h : Nat) (t : ViewTarget) (n : Nat) : List Byte :=
  match t with
  | .host a => s.readHost a n
  | .sram off => Tab.getList 0 (s.hart h).sram off n
  | .dev pa => s.readPa pa n
  | .bad => []

/-- An access to device memory obtains its line from the host in host bias (R28), and its frame notes it (R136). -/
def State.viewTouch (s : State) : ViewTarget → State
  | .dev pa => { s.obtain pa with mem := (s.obtain pa).mem.touch pa }
  | _ => s

/-- Bytes written at a target of the view. -/
def State.viewWrite (s : State) (h : Nat) (t : ViewTarget) (bs : List Byte) : State :=
  match t with
  | .host a => s.writeHost a bs
  | .sram off => s.modHart h (fun k => { k with sram := Tab.setList 0 off bs k.sram })
  | .dev pa => s.writeUnit pa bs
  | .bad => s

/-- A read of `n` bytes at a target ends with an error. -/
def State.viewError (s : State) (t : ViewTarget) (n : Nat) : Bool :=
  match t with
  | .dev pa => decide (s.dev.limit < pa + n) || s.mem.badLines.any (fun l => lineOf pa ≤ l && l ≤ lineOf (pa + n - 1))
  | .bad => true
  | .host a => s.mem.badHost.any (fun l => lineOf a ≤ l && l ≤ lineOf (a + n - 1))
  | .sram off => decide (0x40000 < off + n)

/-! ## Leases of peers -/

/-- A lease that this device has granted on the line to a peer has not ended (R46). -/
def State.leaseBlocked (s : State) (pa : Nat) : Bool :=
  let t := Tab.get 0 s.fab.tmax (lineOf pa)
  t != 0 && decide (s.fab.ftime.toNat < t + s.fab.ftunc)

/-- A write that is held still waits: the place of a path's write stands while the path, or its clause, waits with it (R46). -/
def State.turnStands (s : State) (h : HeldWrite) : Bool :=
  match h.turn with
  | none => true
  | some (id, pi, lane) =>
    s.teams.any (fun e => e.2.teamId == id && (AMap.find e.2.paths pi).any (fun p =>
      if lane then p.run.isSome else p.wait == some .lease))

/-- A write to a line waits at the owner: for a lease, or behind a write that waits (R46). -/
def State.lineHeld (s : State) (pa : Nat) : Bool :=
  s.leaseBlocked pa || s.fab.held.any (fun h => h.line == lineOf pa && s.turnStands h)

/-- A path's write to a line waits at the owner: for a lease, or behind a write that arrived before it (R46). -/
def State.lineHeldFor (s : State) (turn : BitVec 32 × Nat × Bool) (pa : Nat) : Bool :=
  s.leaseBlocked pa ||
    !((s.fab.held.filter (fun h => h.line == lineOf pa && s.turnStands h)).takeWhile (fun h => h.turn != some turn)).isEmpty

/-- A path that waits to write takes a place behind each line that holds it up, and keeps those that it has (R46). -/
def State.takeTurns (s : State) (turn : BitVec 32 × Nat × Bool) (lines : List Nat) : State :=
  let kept := s.fab.held.filter (fun h => h.turn != some turn || lines.contains h.line)
  let new := lines.eraseDups.filter (fun l => !kept.any (fun h => h.turn == some turn && h.line == l))
  { s with fab := { s.fab with
      held := kept ++ new.map (fun l => { line := l, pa := l * 64, op := .store [], asid := 0, va := 0, rc := 3, host := false, peer := none,
                                          turn := some turn }) } }

/-- Some line of a range of device memory has an unexpired lease, or a write that waits for one (R46). -/
def State.leasedIn (s : State) (lo hi : Nat) : Bool :=
  s.fab.tmax.any (fun e => decide (lo < e.1 * 64 + 64) && decide (e.1 * 64 < hi) && s.leaseBlocked (e.1 * 64))
    || s.fab.held.any (fun h => decide (lo < h.line * 64 + 64) && decide (h.line * 64 < hi) && s.turnStands h)

/-- A write to some line of a range waits at the owner (R46). -/
def State.rangeLeased (s : State) (pa n : Nat) : Bool :=
  n != 0 && (List.range ((pa + n - 1) / 64 + 1 - pa / 64)).any (fun i => s.lineHeld ((pa / 64 + i) * 64))

/-- A write of one of the device's own units within one line, which waits at the owner behind a lease (R46, R183). -/
def State.deviceLine (s : State) (p : Nat × List Byte) : State :=
  if s.lineHeld p.1 then
    { s with fab := { s.fab with
        held := s.fab.held ++ [{ line := lineOf p.1, pa := p.1, op := .store p.2, asid := 0, va := 0, rc := 3, host := false, peer := none }] } }
  else s.writeUnit p.1 p.2

/-- A write of one of the device's own units: of a ring, the journal, a core image or a KV table (R46, R183). -/
def State.deviceWrite (s : State) (pa : Nat) (bs : List Byte) : State :=
  if s.rangeLeased pa bs.length then (pieces (bs.length + 1) pa bs).foldl State.deviceLine s else s.writeUnit pa bs

/-! ## Scratchpads -/

/-- Bytes of a team's scratchpad (R100). -/
def Team.scr (t : Team) (off n : Nat) : List Byte := Tab.getList 0 t.scratch off n

/-- A team's scratchpad with bytes written; its 64-byte lines keep the largest release time (R426). -/
def Team.scrPut (t : Team) (off : Nat) (bs : List Byte) (rel : Nat) : Team :=
  let line := off / 64
  { t with
    scratch := Tab.setList 0 off bs t.scratch,
    scratchT := (List.range ((off % 64 + bs.length + 63) / 64)).foldl
      (fun m i => Tab.set 0 (line + i) (max (Tab.get 0 m (line + i)) rel) m) t.scratchT }

/-- Largest release time of the lines that hold some bytes of a team's scratchpad (R426). -/
def Team.scrT (t : Team) (off n : Nat) : Nat :=
  (List.range ((off % 64 + n + 63) / 64)).foldl (fun m i => max m (Tab.get 0 t.scratchT (off / 64 + i))) 0

/-- Number of bytes of a team's scratchpad (R100). -/
def Team.scrSize (t : Team) : Nat := t.k.scrt * 0x4000

/-- A host write, line by line: a line under a lease holds it (R46). -/
def State.hostPut (s : State) (p : Nat × List Byte) : State :=
  if s.lineHeld p.1 then
    { s with fab := { s.fab with
        held := s.fab.held ++ [{ line := lineOf p.1, pa := p.1, op := .store p.2, asid := 0, va := 0, rc := 3, host := true, peer := none }] } }
  else s.hostLineWrite p.1 p.2

end Sys2Proof.Machine
end

