-- ==== Sys2Proof/Machine/Ops.lean ====
section
/-!
DEFINITION. The named operations of teams and paths: registers, waiting, tasks and commits, parking, taking a trap and
delivering an event, and the exceptions of the queue processors (R186, R242 to R249, R134, R176, R54 to R56).
-/

namespace Sys2Proof.Machine

/-- The outcome of one instruction. -/
abbrev Outcome := Host.Outcome State Fault Refusal

/-- A meaning that the host's link brings: nothing comes of it while the device serves none (R11, R14). -/
def onLink (s : State) (f : Outcome) : Outcome := if s.dev.deaf then .next s else f

/-! ## Trap classes -/

/-- Code of a trap class (R245). -/
def TrapClass.code : TrapClass → Nat
  | .illegalOpcode => 0x01 | .reservedField => 0x02 | .operandOverlap => 0x03 | .indexBounds => 0x04
  | .badSpace => 0x05 | .misaligned => 0x06 | .illegalType => 0x07 | .pageFault => 0x10 | .protection => 0x11
  | .stableWrite => 0x12 | .rangeLocked => 0x13 | .discardedWrite => 0x14 | .kvUnmapped => 0x20
  | .kvRebuilding => 0x21 | .treeState => 0x22 | .breakpoint => 0x30 | .watchpoint => 0x31 | .singleStep => 0x32
  | .timer => 0x33 | .uncorrectable => 0x40 | .cancelled => 0x41 | .trap => 0x7F

/-! ## Registers -/

/-- A scalar register; s0 reads zero (R186). -/
def Path.s (p : Path) (r : Reg6) : Word64 := if r = 0 then 0 else Tab.get 0 p.sregs r.toNat

/-- The path with a scalar register written; a write to s0 is discarded (R186). -/
def Path.setS (p : Path) (r : Reg6) (v : Word64) : Path :=
  if r = 0 then p else { p with sregs := Tab.set 0 r.toNat v p.sregs }

/-- A vector register of a lane (R186). -/
def Team.v (t : Team) (l n : Nat) : Word32 := Tab.get 0 t.vregs (l * 256 + n)

/-- The team with a vector register of a lane written. -/
def Team.setV (t : Team) (l n : Nat) (x : Word32) : Team := { t with vregs := Tab.set 0 (l * 256 + n) x t.vregs }

/-- A 64-bit lane value: the pair vn, vn + 1 (R187). -/
def Team.v64 (t : Team) (l n : Nat) : Word64 := t.v l (n + 1) ++ t.v l n

/-- The team with a pair of a lane written (R187). -/
def Team.setV64 (t : Team) (l n : Nat) (x : Word64) : Team :=
  (t.setV l n (x.extractLsb' 0 32)).setV l (n + 1) (x.extractLsb' 32 32)

/-- A predicate of a lane; p0 reads true (R186). -/
def Team.p (t : Team) (l n : Nat) : Bool := if n = 0 then true else Tab.get false t.pregs (l * 8 + n)

/-- The team with a predicate of a lane written; a write to p0 is discarded (R186). -/
def Team.setP (t : Team) (l n : Nat) (b : Bool) : Team :=
  if n = 0 then t else { t with pregs := Tab.set false (l * 8 + n) b t.pregs }

/-- An index register of a lane (R188). -/
def Team.x (t : Team) (l n : Nat) : Word32 := Tab.get 0 t.xregs (l * 8 + n)

/-- The team with an index register of a lane written. -/
def Team.setX (t : Team) (l n : Nat) (v : Word32) : Team := { t with xregs := Tab.set 0 (l * 8 + n) v t.xregs }

/-- Number of vector registers of a lane (R186). -/
def Team.vcount (t : Team) : Nat := 16 * t.k.regs

/-- The lanes of a mask, in ascending order. -/
def lanesOf (m : Mask) (n : Nat) : List Nat := (List.range n).filter (fun l => m.getLsbD l)

/-- The mask of a list of lanes. -/
def maskOf (ls : List Nat) : Mask := ls.foldl (fun m l => m ||| BitVec.twoPow 1024 l) 0

/-- The mask of lanes 0 to n - 1. -/
def maskBelow (n : Nat) : Mask := BitVec.ofNat 1024 (2 ^ n - 1)

/-- The lowest active lane of a path: the lowest trapping lane of a trap that names no lane of its own, since R248 takes the
lanes of a scalar instruction to be the path's mask (log entry 44). -/
def Path.firstLane (p : Path) : Nat := ((lanesOf p.mask 1024).head?).getD 0

/-- Number of active lanes of a path (R315). -/
def Path.active (p : Path) : Nat := (lanesOf p.mask 1024).length

/-! ## A new path and a new team (R81) -/

/-- The reset value of `fmt` (R212). -/
def resetFmt : BitVec 32 := 0x0000_0466#32

/-- A path with nothing enqueued, waiting or pending. -/
def Path.start (spc : BitVec 64) (mask : Mask) (fmt : BitVec 32) (pts : Nat) : Path :=
  { spc := spc, mask := mask, rpc := none, parent := none, fmt := fmt, jcnt := 0, ejm := 0,
    ejSlots := [], ejPart := none, relT := 0, sregs := [], queue := [], run := none, done := [], nextClause := 0, pts := pts, tableOld := [],
    wait := none, park := none, stop := none, pendScalar := [], bwaits := [], shoots := [],
    cxCount := 0, cxDelay := 0 }

/-- A team with no path yet and every register and scratchpad byte zero (R81, R100, R250). -/
def Team.start (launch : Nat) (k : Kdesc) (nbh tidx asid : Nat) (id : BitVec 32) (born privIdx : Nat) (binTeam : Bool) :
    Team :=
  { launch := launch, k := k, nbh := nbh, binTeam := binTeam, tidx := tidx, asid := asid, teamId := id, taskId := id,
    taskBorn := born, late := false, ecom := false, taint := false, verId := none, version := [], paths := [],
    vregs := [], pregs := [], xregs := [], scratch := [], scratchT := [], tiles := [], seq := [], privIdx := privIdx, oddSlot := 0, replays := [], savedAt := 0, inShare := 0,
    tvec := 0, ccyc := 0, tcmp := 0, tdln := 0, tnasid := 0, handler := none, binding := none, vbar := [], nbar := [],
    vbarGen := 0, nbarGen := 0, barWait := [], barT := [], wT := 0, contLanes := [], endedLanes := 0, heldReturns := [],
    rebuild := none, phase := .running, taskCycles := 0, entry := 0, args := [], spawned := [] }

/-! ## The issuing path -/

/-- The path that an instruction belongs to. -/
structure Who where
  core : Nat
  slot : Nat
  key : Nat
  pi : Nat
  team : Team
  path : Path
  deriving DecidableEq, Repr

/-- The path that `ctx` names. -/
def issuer (s : State) : Option Who :=
  match s.team (teamKey s.ctx.core s.ctx.slot) with
  | none => none
  | some t =>
    match AMap.find t.paths s.ctx.path with
    | none => none
    | some p => some { core := s.ctx.core, slot := s.ctx.slot, key := teamKey s.ctx.core s.ctx.slot,
                       pi := s.ctx.path, team := t, path := p }

/-- A scalar or lane meaning, applied to the issuing path. -/
def withIssuer (s : State) (f : Who → State) : Outcome :=
  match issuer s with
  | none => .fault .noIssuer
  | some w => .next (f w)

/-- The state with the issuing path changed. -/
def State.onPath (s : State) (w : Who) (f : Path → Path) : State := s.modPath w.key w.pi f

/-- The path continues at next (R294). -/
def Path.next (p : Path) : Path := { p with spc := p.spc + 4, wait := none }

/-- The path continues at an address. -/
def Path.goto (p : Path) (a : BitVec 64) : Path := { p with spc := a, wait := none }

/-- The issuing path waits at its instruction and will issue it again. -/
def waitFor (s : State) (w : Who) (r : Wait) : State := s.onPath w (fun p => { p with wait := some r })

/-- A scalar instruction that writes one register and continues at next. -/
def writeNext (s : State) (w : Who) (sd : Reg6) (v : Word64) : State := s.onPath w (fun p => (p.setS sd v).next)

/-- The physical core of a lane: the odd-column core of a paired team serves lanes from 512 (R88, R184). -/
def laneCore (w : Who) (l : Nat) : Nat := if w.team.k.pair && decide (512 ≤ l) then w.core + 1 else w.core

/-- The cores a team occupies (R88). -/
def teamCores (core : Nat) (t : Team) : List Nat := if t.k.pair then [core, core + 1] else [core]

/-! ## Tasks, versions and commits -/

/-- Die, core within the die and slot of a task identifier (R242). -/
def taskHome (id : BitVec 32) : Nat × Nat :=
  ((id.toNat / 2 ^ 31) * 192 + id.toNat / 2 ^ 23 % 256, id.toNat / 2 ^ 19 % 16)

/-- The next value of a task counter, which skips 0 (R242). -/
def nextSeq (v : BitVec 19) : BitVec 19 := if v + 1 = 0 then 1 else v + 1

/-- A task identifier taken from the counter of a core and slot (R242). -/
def State.takeTask (s : State) (core slot : Nat) : State × BitVec 32 :=
  let v := nextSeq (Tab.get 0 (s.core core).taskCtr slot)
  (s.modCore core (fun c => { c with taskCtr := Tab.set 0 slot v c.taskCtr }),
   BitVec.ofNat 1 (core / 192) ++ BitVec.ofNat 8 (core % 192) ++ BitVec.ofNat 4 slot ++ v)

/-- A team whose new task begins: untainted, LATE (R242, R307). -/
def Team.begin (t : Team) (task : BitVec 32) (born : Nat) : Team :=
  { t with taskId := task, taskBorn := born, late := true, taint := false, taskCycles := 0 }

/-- A new task of a team begins (R242). -/
def State.newTask (s : State) (key : Nat) : State :=
  match s.team key with
  | none => s
  | some t =>
    let r := s.takeTask (taskHome t.teamId).1 (taskHome t.teamId).2
    r.1.tick.modTeam key (fun t => t.begin r.2 s.fresh)

/-- The lines of a version with their bytes. -/
def versionLines (v : AMap Byte) : List Nat := (v.map (fun e => lineOf e.1)).eraseDups

/-- Bytes overlaid with those of a version (R175). -/
def overlay (v : AMap Byte) (pa : Nat) : List Byte → List Byte
  | [] => []
  | b :: bs => (AMap.find v pa).getD b :: overlay v (pa + 1) bs

/-- A version with bytes written into it. -/
def versionPut (v : AMap Byte) (pa : Nat) : List Byte → AMap Byte
  | [] => v
  | b :: bs => versionPut (AMap.insert pa b v) (pa + 1) bs

/-- The lines of a version perform at their home slices under the committing path's pts (R110, R176): the largest wts,
and the state after it. -/
def State.commitLines (s : State) (cores : List Nat) (pts : Nat) (v : AMap Byte) : State × Nat :=
  (versionLines v).foldl
    (fun (r : State × Nat) line =>
      let q := r.1.writeHome cores pts (line * 64) (overlay v (line * 64) (r.1.readPa (line * 64) 64))
      (q.1, max r.2 q.2)) (s, 0)

/-- A version's commit without a new task: its lines perform, its id is freed, and the path's pts passes every write; the
team's other paths pass them at their next release (R110, R176, R243, R426). -/
def State.commitVersion (s : State) (key pi : Nat) : State :=
  match s.team key with
  | none => s
  | some t =>
    let pts := ((AMap.find t.paths pi).map (·.pts)).getD 0
    let r := s.commitLines (teamCores (keyCore key) t) pts t.version
    r.1.modTeam key (fun t =>
      { (t.modPath pi (fun p => { p with pts := max p.pts r.2 })) with version := [], verId := none, wT := max t.wT r.2 })

/-- A commit (R176): the version performs and a new task begins. -/
def State.commit (s : State) (key pi : Nat) : State := (s.commitVersion key pi).newTask key

/-- The lowest-numbered path of a team. -/
def Team.firstPath (t : Team) : Nat := ((t.paths.head?).map (·.1)).getD 0

/-- An early commit marks the team (R244). -/
def State.commitEarly (s : State) (key : Nat) : State :=
  match s.team key with
  | none => s
  | some t => (s.commit key t.firstPath).modTeam key (fun t => { t with ecom := true })

/-- A line of the version is held by a lease this device has granted, so that a commit must wait (R46). -/
def State.commitBlocked (s : State) (key : Nat) : Bool :=
  match s.team key with
  | none => false
  | some t => (versionLines t.version).any (fun l => s.lineHeld (l * 64))

/-- The task has made a non-versioned write (R174). -/
def State.taint (s : State) (key : Nat) : State := s.modTeam key (fun t => { t with taint := true })

/-- An acquire that reads no home slice raises pts to the release times it synchronises with (R426). -/
def State.acquireT (s : State) (key pi T : Nat) : State :=
  s.modPath key pi (fun p => { p with pts := max p.pts T })

/-- The releasing path's pts passes every write of its team that performed under another (R426). -/
def State.passWrites (s : State) (key pi : Nat) : State :=
  s.acquireT key pi (((s.team key).map (·.wT)).getD 0)

/-- The commit of a release at nb scope or wider (R176, R426). -/
def State.commitRelease (s : State) (key pi : Nat) : State := (s.commit key pi).passWrites key pi

/-- A release at a scope commits the version at nb or wider (R176), and its timestamp covers every write before it (R426). -/
def State.release (s : State) (w : Who) (scope : Nat) : State :=
  if 1 ≤ scope then s.commitRelease w.key w.pi else s.passWrites w.key w.pi

/-! ## Rings in device memory -/

/-- An entry is written into a ring: entry `head mod 2^log` of `size` bytes each. -/
def State.ringPut (s : State) (base log size head : Nat) (bs : List Byte) : State :=
  s.deviceWrite (base + (head % 2 ^ log) * size) bs

/-- The report of a taken trap (R249). -/
def trapReport (t : Team) (pi : Nat) (cls : TrapClass) (lane : Nat) (spc va : BitVec 64) : List Byte :=
  toBytes 8 (cls.code + (if t.taint then 2 ^ 16 else 0) + (if t.ecom then 2 ^ 17 else 0)
      + (if t.late then 2 ^ 18 else 0) + t.taskId.toNat * 2 ^ 32)
    ++ toBytes 8 (lane * 2 ^ 7 + pi * 2 ^ 17 + t.asid * 2 ^ 20 + t.teamId.toNat * 2 ^ 32)
    ++ toBytes 8 spc.toNat ++ toBytes 8 va.toNat

/-- Every access in flight to a peer or to the host. -/
def State.allPend (s : State) : List PendAccess := s.eng.pend ++ s.mem.hostLines.flatMap (fun h => h.2.fills.flatMap (·.waiters))

/-- An access that a team has issued to the host or to a peer has not performed (R247). -/
def State.teamInFlight (s : State) (team : BitVec 32) : Bool := s.allPend.any (fun p => p.teamId == team)

/-- The waiting trap reports enter the ring while it has space, each once the issued accesses of its team have performed (R247,
R249). `fuel` bounds their number. -/
def State.flushReports : Nat → State → State
  | 0, s => s
  | n + 1, s =>
    match s.dbg.trWait.find? (fun r => !s.teamInFlight r.1) with
    | none => s
    | some r =>
      let log := bits 12 8 s.dbg.trctl.toNat
      let entry := s.dbg.trbase.toNat + s.dbg.trhead.toNat % 2 ^ log * 32
      if s.dbg.trctl.getLsbD 0 && decide ((s.dbg.trhead - s.dbg.trtail).toNat < 2 ^ log) && !s.rangeLeased entry 32 then
        let s1 := s.ringPut s.dbg.trbase.toNat log 32 s.dbg.trhead.toNat r.2
        State.flushReports n { s1 with dbg := { s1.dbg with trhead := s1.dbg.trhead + 1, trWait := s1.dbg.trWait.erase r } }
      else s

/-- The reports that wait enter the ring as far as they can (R249). -/
def State.flushAll (s : State) : State := State.flushReports s.dbg.trWait.length s

/-- A trap report of a team is written when TRCTL.EN = 1, or waits (R247, R249). -/
def State.report (s : State) (team : BitVec 32) (r : List Byte) : State :=
  if s.dbg.trctl.getLsbD 0 then { s with dbg := { s.dbg with trWait := s.dbg.trWait ++ [(team, r)] } }.flushAll else s

/-- A journal is recorded, or re-run (R258, R259). -/
def Debug.recording (d : Debug) : Bool := bits 1 0 d.jctl.toNat == 1
def Debug.replaying (d : Debug) : Bool := bits 1 0 d.jctl.toNat == 2

/-- The journal's ring has no room for a record of `n` payload bytes (R258). -/
def State.journalFull (s : State) (n : Nat) : Bool :=
  bits 1 0 s.dbg.jctl.toNat == 1 && decide (2 ^ bits 12 8 s.dbg.jctl.toNat < s.dbg.jpos + 8 + n)

/-- A record is appended to the journal while JCTL.MODE = 1 (R258). -/
def State.journal (s : State) (kind : Nat) (payload : List Byte) : State :=
  if bits 1 0 s.dbg.jctl.toNat = 1 then
    let hdr := toBytes 8 (s.dbg.jcount.toNat + payload.length % 2 ^ 24 * 2 ^ 32 + kind * 2 ^ 56)
    let s1 := s.deviceWrite (s.dbg.jbase.toNat + s.dbg.jpos) (hdr ++ payload)
    { s1 with dbg := { s1.dbg with jpos := s1.dbg.jpos + 8 + payload.length, jcount := s1.dbg.jcount + 1 } }
  else s

/-! ## Held accesses -/

/-- A held access replays: the path is ready again at its instruction, and a stopped clause resumes (R134, R354). -/
def Path.unpark (p : Path) : Path :=
  { p with park := none, run := p.run.map (fun c => { c with stopped := false }) }

/-- A path that one kind of hold keeps replays (R354). -/
def Path.replay (which : Hold → Bool) (p : Path) : Path :=
  match p.park with
  | some k => if which k.hold then p.unpark else p
  | none => p

/-- Every path of a table that one kind of hold keeps replays (R354). -/
def replayPaths (which : Hold → Bool) (m : AMap Path) : AMap Path := m.map (fun q => (q.1, q.2.replay which))

/-- Every path that one kind of hold keeps replays, in the path tables and in the blocks that handlers keep (R248, R354). -/
def State.replayHeld (s : State) (which : Hold → Bool) : State :=
  { s with teams := s.teams.map (fun e =>
      (e.1, { e.2 with
        paths := replayPaths which e.2.paths,
        handler := e.2.handler.map (fun h => { h with saved := replayPaths which h.saved }) })) }

/-! ## Where a team is (R93) -/

/-- Every saved team. -/
def State.savedTeams (s : State) : List Team := s.sched.saved.flatMap (fun e => e.2.2)

/-- The saved teams with one changed. -/
def State.modSaved (s : State) (id : BitVec 32) (f : Team → Team) : State :=
  { s with sched := { s.sched with
      saved := s.sched.saved.map (fun e => (e.1, e.2.1, e.2.2.map (fun t => if t.teamId = id then f t else t))) } }

/-- Where a team is: resident at a key, saved, or ended. -/
inductive Whereabouts where
  | resident (key : Nat) (t : Team)
  | saved (t : Team)
  | ended
  deriving DecidableEq, Repr

/-- Where the team with an identifier is. -/
def State.whereIs (s : State) (id : BitVec 32) : Whereabouts :=
  match s.teams.find? (fun e => e.2.teamId == id) with
  | some (k, t) => .resident k t
  | none =>
    match s.savedTeams.find? (fun t => t.teamId == id) with
    | some t => .saved t
    | none => .ended

/-- A team changed, wherever it is. -/
def State.modById (s : State) (id : BitVec 32) (f : Team → Team) : State :=
  match s.whereIs id with
  | .resident k _ => s.modTeam k f
  | .saved _ => s.modSaved id f
  | .ended => s

/-- The scratchpad bytes of a team's save set (R77, R92). -/
def Kdesc.savedScratch (k : Kdesc) : Nat :=
  if k.save = 0xFF then k.scrt * 0x4000 else min k.save k.scrt * 0x4000

/-- The team is being restored: engines wait for its scratchpad (R93). -/
def State.restoring (s : State) (id : BitVec 32) : Bool :=
  match s.whereIs id with
  | .resident _ t => decide (t.phase = .restoring)
  | _ => false

/-- An engine reads a team's scratchpad: the pool, the saved image, or what nothing states (R93). -/
def State.poolRead (s : State) (id : BitVec 32) (off n : Nat) : List Byte :=
  match s.whereIs id with
  | .resident _ t => t.scr off n
  | .saved t => t.scr off n
  | .ended => (List.range n).map (fun i => Config.freeByte s.fresh (off + i))

/-- An engine writes a team's scratchpad: bytes past its end, and past the save set of a saved team, are discarded
(R93). -/
def State.poolWrite (s : State) (id : BitVec 32) (off : Nat) (bs : List Byte) (rel : Nat) : State :=
  match s.whereIs id with
  | .resident k t => s.modTeam k (fun t' => t'.scrPut off (bs.take (t.scrSize - off)) rel)
  | .saved t => s.modSaved id (fun t' => t'.scrPut off (bs.take (t.k.savedScratch - off)) rel)
  | .ended => s

/-- A write to host or table memory on behalf of a team taints its task while it runs (R98, R124). -/
def State.taintId (s : State) (id : BitVec 32) : State := s.modById id (fun t => { t with taint := true })

/-! ## Barrier objects (R239) -/

/-- CNT of a barrier object falls, and ERRC rises (R239). Neither reaches past the scratchpad. -/
def State.countDown (s : State) (id : BitVec 32) (off n errs rel : Nat) : State :=
  let b := s.poolRead id off 16
  let cnt := BitVec.ofNat 64 (ofBytes (b.take 8)) - BitVec.ofNat 64 n
  let errc := min 255 (((b.drop 8).headD 0).toNat + errs)
  match s.whereIs id with
  | .ended => s
  | _ => s.poolWrite id off (toBytes 8 cnt.toNat ++ [BitVec.ofNat 8 errc] ++ b.drop 9) rel

/-- What completes for a path reaches the path table and the block that a handler keeps (R248). -/
def Team.landPath (t : Team) (pi : Nat) (f : Path → Path) : Team :=
  { t.modPath pi f with handler := t.handler.map (fun h => { h with saved := AMap.modify pi f h.saved }) }

/-! ## The end of a team -/

/-- The core's datapath stops running a clause of this slot (R87). -/
def Core.leaveClause (c : Core) (slot : Nat) : Core :=
  match c.running with
  | some (k, _) => if k = slot then { c with running := none, lastClauseSlot := slot } else c
  | none => c

/-- The slot of a team on one of its cores (R88). -/
def Team.slotOn (t : Team) (key core : Nat) : Nat := if core = keyCore key then keySlot key else t.oddSlot

/-- The datapath of each core of a team runs no clause of it (R87, R88). -/
def State.leaveData (s : State) (key : Nat) : State :=
  match s.team key with
  | none => s
  | some t => (teamCores (keyCore key) t).foldl (fun s c => s.modCore c (fun k => k.leaveClause (t.slotOn key c))) s

/-- The datapath of each core of a team runs a clause of it (R87, R88). -/
def State.runClause (s : State) (key pi : Nat) : State :=
  match s.team key with
  | none => s
  | some t =>
    (teamCores (keyCore key) t).foldl (fun s c => s.modCore c (fun k => { k with running := some (t.slotOn key c, pi) })) s

/-- The teams on a core, with their keys. -/
def State.teamsOn (s : State) (core : Nat) : List (Nat × Team) := s.teams.filter (fun e => (teamCores (keyCore e.1) e.2).contains core)

/-- What a core does when a team leaves it: its clause stops, a paired step that it has pending goes (R88), its event-queue
entries go (R241), and stable lines drop when it was the launch's last team there (R116). -/
def State.leaveCore (s : State) (core key : Nat) (t : Team) : State :=
  let others := (s.teamsOn core).any (fun e => e.1 != key && e.2.launch == t.launch)
  let slot := t.slotOn key core
  s.modCore core (fun c =>
    let c := { (c.leaveClause slot) with
      evq := c.evq.filter (fun e => e.teamId != t.teamId), pairPending := c.pairPending.filter (fun k => k != slot) }
    if others then c else c.dropStable)

/-- A team leaves each of its cores. -/
def State.leaveCores (s : State) (key : Nat) (t : Team) : State :=
  (teamCores (keyCore key) t).foldl (fun s c => s.leaveCore c key t) s

/-- The ctime of a core passes the pts of paths that end there (R108). -/
def Core.pass (c : Core) (pts : Nat) : Core := { c with ctime := max c.ctime pts }

/-- The ctime of each core of a team passes a pts (R88, R108). -/
def State.passPts (s : State) (key : Nat) (t : Team) (pts : Nat) : State :=
  (teamCores (keyCore key) t).foldl (fun s c => s.modCore c (fun k => k.pass pts)) s

/-- The vacating of cores that are empty ends; a request's cores are fenced (R89, R90). -/
def State.settleVacate (s : State) : State :=
  let empty := fun (cs : List Nat) => cs.all (fun c => (s.teamsOn c).isEmpty)
  let s1 := if empty s.sched.vacating then { s with sched := { s.sched with vacating := [] } } else s
  if s1.sched.cvBusy && empty s1.sched.cvCores then
    let s2 := s1.sched.cvCores.foldl (fun s c => s.modCore c (fun k => { k with fenced := true })) s1
    { s2 with sched := { s2.sched with cvCores := [], cvBusy := false, cvDone := s2.sched.cvDone + 1 } }
  else s1

/-- A neighbourhood after a team of it has left its slot: one with no team left is over, and one whose teams that are left are
all saved returns to its launch's waiting set (R84, R95). -/
def State.settleNb (s : State) (h nb : Nat) : State :=
  if s.teams.any (fun e => e.2.launch == h && e.2.nbh == nb) then s
  else if s.sched.saved.any (fun e => e.1 == h && e.2.1 == nb && !e.2.2.isEmpty) then
    s.modLaunch h (fun l => if l.returned.contains nb then l else { l with returned := l.returned ++ [nb] })
  else s.modLaunch h (fun l => { l with liveNb := l.liveNb.erase nb, returned := l.returned.erase nb })

/-- A team that has ended frees its private-area index (R102), and its neighbourhood and the cores that are vacated settle. -/
def State.afterEnd (s : State) (t : Team) : State :=
  ((s.modLaunch t.launch (fun l => { l with privUsed := l.privUsed.erase t.privIdx })).settleNb t.launch t.nbh).settleVacate

/-- A team is gone from its slot and its cores, with the entries that the device holds for it (R102, R108, R241). -/
def State.removeTeam (s : State) (key : Nat) : State :=
  match s.team key with
  | none => s
  | some t =>
    let ended := t.paths ++ (t.handler.map (·.saved)).getD []
    let s := ended.foldl (fun s p => s.passPts key t p.2.pts) (s.leaveCores key t)
    { s with
      teams := AMap.erase key s.teams,
      sched := { s.sched with savedEv := s.sched.savedEv.filter (fun e => e.teamId != t.teamId) } }.afterEnd t

/-- The copies of a team end when its version is discarded (R179, R239): each record takes STATUS 2 and TRAP = CANCELLED, CNT falls
by what was left of B, ERRC rises, and what waits for a record slot goes on. Their locks, which nothing owns any more, are
RANGE_LOCK_RELEASE's to release. -/
def State.dropCopies (s : State) (teamId : BitVec 32) : State :=
  let mine := fun (c : Copy) => c.teamId == teamId && c.packet.isNone
  if s.eng.copies.any mine then
    let s1 := (s.eng.copies.filter mine).foldl (fun s c =>
      (s.poolWrite teamId (c.recOff + 30) [BitVec.ofNat 8 TrapClass.cancelled.code, 2] 0).countDown teamId c.bar
        (c.total - c.counted) 1 0) s
    { s1 with eng := { s1.eng with copies := s1.eng.copies.filter (fun c => !mine c) } }.replayHeld (fun h => h == Hold.engineSlot)
  else s

/-- Events that the device holds for a team return to the queue of its core, while that has space (R241). -/
def State.refillEvents (s : State) (key : Nat) : State :=
  match s.team key with
  | none => s
  | some t =>
    let room := 256 - (s.core (keyCore key)).evq.length
    let back := (s.sched.savedEv.filter (fun e => e.teamId == t.teamId)).take room
    if back.isEmpty then s
    else { (s.modCore (keyCore key) (fun c => { c with evq := c.evq ++ back })) with
      sched := { s.sched with savedEv := back.foldl (fun l e => l.erase e) s.sched.savedEv } }

/-- A team ends without a commit: its version is discarded (R177, R247). -/
def State.discardTeam (s : State) (key : Nat) : State :=
  match s.team key with
  | none => s
  | some t => (s.dropCopies t.teamId).removeTeam key

/-- The launch of a team fails, with the class and task of its first failure (R72). -/
def State.failLaunch (s : State) (h cls : Nat) (task : BitVec 32) : State :=
  s.modLaunch h (fun l => if l.failed.isNone then { l with failed := some (cls, task) } else l)

/-! ## Core dumps -/

/-- The bytes of a mask: lane l is bit l mod 8 of byte l div 8 (R253). -/
def maskBytes (m : Mask) : List Byte := toBytes 128 m.toNat

/-- The clauses of a path that name each flag, queued and started (R193). -/
def Path.flagCounts (p : Path) : List Byte :=
  let named := fun (cs : List Clause) (n : Nat) => (cs.filter (fun c => c.setA == some n || c.setB == some n)).length
  (List.range 12).flatMap (fun n => toBytes 1 (named (p.queue ++ p.kept) n) ++ toBytes 1 (named (p.run.toList ++ p.done) n))

/-- What the opaque path block of a team holds (R257): of each path its index, SPC, mask, scalar registers, flags and `fmt`. -/
def pathBlock (m : AMap Path) : List Byte :=
  m.flatMap (fun e => toBytes 1 e.1 ++ toBytes 8 e.2.spc.toNat ++ maskBytes e.2.mask
    ++ (List.range 64).flatMap (fun r => toBytes 8 (e.2.s (BitVec.ofNat 6 r)).toNat) ++ e.2.flagCounts ++ toBytes 4 e.2.fmt.toNat)

/-- The cores of a team, wherever it is resident. -/
def State.coresOf (s : State) (t : Team) : List Nat :=
  match s.whereIs t.teamId with
  | .resident key _ => teamCores (keyCore key) t
  | _ => []

/-- The copy records in flight of a team's cores, as the scratchpads hold them, and those of the team itself while it is saved (R234,
R257). -/
def State.copyRecords (s : State) (t : Team) : List Byte :=
  (s.eng.copies.filter (fun c => c.packet.isNone && (c.teamId == t.teamId || (s.coresOf t).contains c.core))).flatMap
    (fun c => s.poolRead c.teamId c.recOff 64)

/-- The note of a team in a core image (R257): identifiers, class, LANES and REGS, the lane registers, then the opaque
path block and the copy records in flight. -/
def dumpNote (s : State) (cls : Nat) (t : Team) : List Byte :=
  let lanes := List.range t.k.lanes
  let desc := toBytes 4 t.teamId.toNat ++ toBytes 4 t.taskId.toNat ++ toBytes 4 cls ++ toBytes 4 t.k.lanes
    ++ toBytes 4 t.k.regs
    ++ lanes.flatMap (fun l => (List.range t.vcount).flatMap (fun n => toBytes 4 (t.v l n).toNat))
    ++ lanes.map (fun l => BitVec.ofNat 8 ((List.range 8).foldl (fun a n => a + (if t.p l n then 2 ^ n else 0)) 0))
    ++ lanes.flatMap (fun l => (List.range 8).flatMap (fun n => toBytes 4 (t.x l n).toNat))
    ++ Config.blockLayout (pathBlock t.paths ++ (t.handler.map (fun h => pathBlock h.saved)).getD []) ++ s.copyRecords t
  toBytes 4 6 ++ toBytes 4 desc.length ++ toBytes 4 1
    ++ [0x52, 0x4F, 0x58, 0x55, 0x53, 0, 0, 0] ++ desc ++ List.replicate ((4 - desc.length % 4) % 4) 0

/-- A program header of an ELF64 file: type, offset, virtual and physical address, size. -/
def elfPhdr (ty off va pa size : Nat) : List Byte :=
  toBytes 4 ty ++ toBytes 4 4 ++ toBytes 8 off ++ toBytes 8 va ++ toBytes 8 pa ++ toBytes 8 size ++ toBytes 8 size
    ++ toBytes 8 1

/-- The ELF64 core image of some teams (R257): ET_CORE, e_machine 0x5932, one PT_NOTE and a PT_LOAD for each scratchpad,
p_vaddr its window address and p_paddr its team identifier. -/
def coreImage (s : State) (ts : List Team) (cls : Nat) : List Byte :=
  let notes := ts.flatMap (dumpNote s cls)
  let nph := 1 + ts.length
  let base := 64 + 56 * nph
  let ehdr : List Byte := [0x7F, 0x45, 0x4C, 0x46, 2, 1, 1, 0] ++ List.replicate 8 0 ++ toBytes 2 4 ++ toBytes 2 0x5932
    ++ toBytes 4 1 ++ toBytes 8 0 ++ toBytes 8 64 ++ toBytes 8 0 ++ toBytes 4 0 ++ toBytes 2 64 ++ toBytes 2 56
    ++ toBytes 2 nph ++ toBytes 2 0 ++ toBytes 2 0 ++ toBytes 2 0
  let loads := ts.foldl
    (fun (r : List Byte × Nat) t =>
      (r.1 ++ elfPhdr 1 r.2 (0x6000000000000000 + t.tidx * 2 ^ 22) t.teamId.toNat t.scrSize, r.2 + t.scrSize))
    ([], base + notes.length)
  ehdr ++ elfPhdr 4 base 0 0 notes.length ++ loads.1 ++ notes ++ ts.flatMap (fun t => t.scr 0 t.scrSize)

/-! ## Taking a trap -/

/-- An error or cancel trap of a path is reported, and an error fails its launch (R72, R247, R249). -/
def State.reportTrap (s : State) (key pi : Nat) (cls : TrapClass) (lane : Nat) (va : BitVec 64) : State :=
  match s.team key with
  | none => s
  | some t =>
    let spc := ((AMap.find t.paths pi).map (·.spc)).getD 0
    let s := s.report t.teamId (trapReport t pi cls lane spc va)
    if cls = .cancelled then s else s.failLaunch t.launch cls.code t.taskId

/-- The lowest active lane of a team's lowest path: where a trap that no instruction raises is reported. -/
def Team.firstLane (t : Team) : Nat := ((AMap.find t.paths t.firstPath).map (·.firstLane)).getD 0

/-- A resident team is cancelled (R247): it is reported as CANCELLED and ends. -/
def State.cancelTeam (s : State) (key : Nat) : State :=
  match s.team key with
  | none => s
  | some t => (s.reportTrap key t.firstPath .cancelled t.firstLane 0).discardTeam key

/-- A saved team leaves the context-save share. -/
def State.dropSaved (s : State) (t : Team) : State :=
  { s with sched := { s.sched with
      saved := (s.sched.saved.map (fun e => (e.1, e.2.1, e.2.2.filter (fun x => x.teamId != t.teamId)))).filter
        (fun e => !e.2.2.isEmpty),
      savedEv := s.sched.savedEv.filter (fun e => e.teamId != t.teamId) } }

/-- A saved team is cancelled (R177, R247): it is reported, its copies end, and it is gone. -/
def State.cancelSavedTeam (s : State) (t : Team) : State :=
  let spc := ((AMap.find t.paths t.firstPath).map (·.spc)).getD 0
  (((s.report t.teamId (trapReport t t.firstPath .cancelled t.firstLane spc 0)).dropCopies t.teamId).dropSaved t).afterEnd t

/-- The saved teams that satisfy a test are cancelled (R177). -/
def State.cancelSaved (s : State) (hit : Team → Bool) : State :=
  (s.savedTeams.filter hit).foldl (fun s t => s.cancelSavedTeam t) s

/-- A launch is cancelled (R73, R247): its teams, resident and saved, and its bins go, and none of it is placed again. -/
def State.cancelLaunch (s : State) (h : Nat) : State :=
  let s := (s.teams.filter (fun e => e.2.launch == h)).foldl (fun s e => s.cancelTeam e.1) s
  let s := (s.cancelSaved (fun t => t.launch == h)).modLaunch h (fun l => { l with cancelled := true, returned := [], liveNb := [] })
  { s with
    sched := { s.sched with savedBins := s.sched.savedBins.filter (fun b => b.2.launch != h) },
    cores := s.cores.map (fun c => (c.1, { c.2 with bins := c.2.bins.filter (fun b => b.launch != h) })) }

/-- A core dump (R257): the image of every team of the ASID is written, up to DMPSIZE, and DMPSTAT is set. Then the teams end
under R247, those that did not trap as CANCELLED, and the other launches of the ASID complete as cancelled. `trapped` are the teams
that trapped, which their own traps end. -/
def State.dump (s : State) (trapped : List Team) (asid cls : Nat) : State :=
  let self := fun (id : BitVec 32) => trapped.any (fun t => t.teamId == id)
  let ts := (s.teams.map (·.2) ++ s.savedTeams).filter (fun t => t.asid == asid)
  let img := coreImage s ts cls
  let cap := s.dbg.dmpsize.toNat * 0x10000
  let s := s.deviceWrite s.dbg.dmpbase.toNat (img.take cap)
  let stat := min img.length cap % 2 ^ 32 + (if cap < img.length then 2 ^ 32 else 0) + 2 ^ 33
  let s := { s with dbg := { s.dbg with dmpstat := BitVec.ofNat 64 stat } }
  let s := (s.sched.launches.filter (fun l => l.2.asid == asid && !trapped.any (fun t => t.launch == l.1) && l.2.begun)).foldl
    (fun s l => s.cancelLaunch l.1) s
  let s := (s.teams.filter (fun e => e.2.asid == asid && !self e.2.teamId)).foldl (fun s e => s.cancelTeam e.1) s
  s.cancelSaved (fun t => t.asid == asid && !self t.teamId)

/-- The core image of an ASID is written when DMPCTL.EN = 1 and the class of its teams that trapped is an error (R257). -/
def State.dumpIf (s : State) (trapped : List Team) (asid : Nat) (cls : TrapClass) : State :=
  if s.dbg.dmpctl.getLsbD 0 && cls != .cancelled then s.dump trapped asid cls.code else s

/-- A team whose trap has been reported ends (R247): a core image is written when DMPCTL.EN = 1 and the class is an error, and
its version is discarded. -/
def State.endTrapped (s : State) (key : Nat) (cls : TrapClass) : State :=
  match s.team key with
  | none => s
  | some t =>
    (s.dumpIf [t] t.asid cls).discardTeam key

/-- An error or cancel trap is taken (R247): it is reported, an error fails the launch, a core image is written when DMPCTL.EN = 1,
the version is discarded and the team ends. -/
def State.trapError (s : State) (key pi : Nat) (cls : TrapClass) (lane : Nat) (va : BitVec 64) : State :=
  (s.reportTrap key pi cls lane va).endTrapped key cls

/-- An error trap of a path of a saved team is taken (R134, R247), as `trapError` does for a resident one. -/
def State.trapSaved (s : State) (t : Team) (pi : Nat) (cls : TrapClass) (lane : Nat) (va : BitVec 64) : State :=
  let spc := ((AMap.find t.paths pi).map (·.spc)).getD 0
  let s := (s.report t.teamId (trapReport t pi cls lane spc va)).failLaunch t.launch cls.code t.taskId
  let s := s.dumpIf [t] t.asid cls
  ((s.dropCopies t.teamId).dropSaved t).afterEnd t

/-- A precise trap of the issuing path at a scalar instruction: the lanes of such an instruction are the path's mask (R248,
R249). -/
def trapScalar (s : State) (w : Who) (cls : TrapClass) (va : BitVec 64 := 0) : State :=
  s.trapError w.key w.pi cls w.path.firstLane va

/-- STATE of a path record (R253). -/
def Team.recordState (t : Team) (p : Path) : Nat :=
  if p.stop.isSome then 1 else if p.park.isSome then 2 else if p.wait = some .join then 3
  else if t.handler.isSome then 4 else 0

/-- A path record (R253). -/
def pathRecord (t : Team) (pi : Nat) (p : Path) : List Byte :=
  let st := p.stop.getD { reason := 0, info := 0, hmask := 0 }
  toBytes 4 t.teamId.toNat ++ toBytes 1 pi ++ toBytes 1 (t.recordState p) ++ toBytes 1 st.reason ++ toBytes 1 st.info
    ++ toBytes 8 p.spc.toNat ++ maskBytes p.mask ++ maskBytes st.hmask

/-- The debug step in hand is of this path, or of the path that its SPLIT made (R255). -/
def State.stepOf (s : State) (key pi : Nat) : Bool :=
  match s.dbg.stepping with
  | some d => d.tkey == key && (d.path == pi || d.child == some pi)
  | none => false

/-- A path is stopped (R254): queued for POLL with device-event vector 62, unless the stop ends a STEP (R253). -/
def State.stopPath (s : State) (key pi reason info : Nat) (hmask : Mask) : State :=
  let quiet := s.stepOf key pi
  let s := s.modPath key pi (fun p =>
    { p with stop := some { reason := reason, info := info, hmask := hmask } })
  if quiet then s
  else
    match s.team key, s.path key pi with
    | some t, some p => ({ s with dbg := { s.dbg with stops := s.dbg.stops ++ [pathRecord t pi p] } }).emit (.deviceEvent 62)
    | _, _ => s

/-- What an event class brings to its delivery (R248). -/
structure EventInfo where
  cls : TrapClass
  info : Nat
  /-- Where the path resumes, and the next lane instruction of the interrupted clause, or 0. -/
  epc : BitVec 64
  elc : BitVec 64
  va : BitVec 64
  /-- Lanes of the instruction, for a lane instruction; the path's mask otherwise. -/
  mask : Mask
  lane : Bool

/-- The clauses that the handler of a path has as started ones, so that its flags are as they were: those that had started, of which the
one that it interrupted completes after the handler (R248). -/
def Path.heldClauses (p : Path) : List Clause :=
  p.done ++ p.run.toList.map (fun c => { c with pend := c.pend + 1, dests := [] })

/-- The handler is entered (R248): the path table becomes the opaque block, and one handler path runs at TVEC with the
scalar registers, flags and `fmt` of the trapping path. -/
def Team.enterHandler (t : Team) (pi : Nat) (p : Path) (e : EventInfo) (committed : BitVec 32) : Team :=
  let cause := BitVec.ofNat 64 (e.cls.code + e.info % 256 * 2 ^ 8 + (if e.lane then 2 ^ 16 else 0))
  { t with
    handler := some { saved := t.paths, path := pi, cause := cause, epc := e.epc, elc := e.elc, va := e.va,
                      task := BitVec.setWidth 64 committed },
    paths := [(pi, { p with spc := t.tvec, mask := e.mask, rpc := none, parent := none, jcnt := 0, ejm := 0,
                            ejSlots := [], ejPart := none, queue := [], run := none, done := p.heldClauses, wait := none,
                            park := none, stop := none, bwaits := [],
                            kept := p.queue.map (fun c => { c with dests := [] }) })] }

/-- The clause of a path stops at its instruction, which a replay runs for the given lanes (R134, R354). -/
def Path.stopClause (p : Path) (only : Option Mask) : Path :=
  { p with run := p.run.map (fun c => { c with stopped := true, only := only }) }

/-- An event class is delivered (R248): as a stop under a debug session, which holds a clause that it falls inside (R254), as an error inside a handler or when TVEC is
zero, or by entering the handler after a commit. The path's SPC is where it resumes. -/
def State.trapEvent (s : State) (key pi : Nat) (e : EventInfo) : State :=
  let s := s.modPath key pi (fun p => { p with spc := e.epc, wait := none })
  match s.team key with
  | none => s
  | some t =>
    if s.dbg.attached = some (BitVec.ofNat 12 t.asid) then
      let s := s.stopPath key pi e.cls.code e.info e.mask
      if e.lane then
        (s.modPath key pi (fun p => p.stopClause (p.run.bind (·.only)))).leaveData key
      else s
    else if t.handler.isSome then s.trapError key pi e.cls (((lanesOf e.mask 1024).head?).getD 0) e.va
    else
      let s := s.commit key pi
      if t.tvec = 0 then s.trapError key pi e.cls (((lanesOf e.mask 1024).head?).getD 0) e.va
      else
        (s.leaveData key).modTeam key (fun t' =>
          match AMap.find t'.paths pi with
          | some p => t'.enterHandler pi p e t.taskId
          | none => t')

/-- The return from a handler (R248): the opaque block comes back, and the trapping path resumes at TEPC. Lane registers
keep what the handler wrote. -/
def Team.leaveHandler (t : Team) (h : Handler) : Team :=
  { t with handler := none,
           paths := AMap.modify h.path (fun p => { p with spc := h.epc, wait := none }) h.saved }

/-! ## Parking -/

/-- An access is held: the path parks at its instruction with its unfinished lanes (R134, R354). -/
def State.parkAt (s : State) (key pi : Nat) (h : Hold) (lanes : Mask) (lane : Bool) (i : Option FaultInfo) : State :=
  let s := s.modPath key pi (fun p =>
    let p := { p with park := some { hold := h, lanes := lanes, lane := lane, info := i } }
    if lane then p.stopClause (some lanes) else p)
  if lane then s.leaveData key else s

/-! ## Exceptions of the queue processors -/

/-- The code of a privilege mode in mstatus.MPP. -/
def HartMode.code : HartMode → Nat
  | .user => 0 | .supervisor => 1 | .machine => 3

/-- The number of a field of mstatus from a bit on, replaced. -/
def putBits (w : Word64) (lo n v : Nat) : Word64 :=
  let x := w.toNat
  BitVec.ofNat 64 (x - bits (lo + n - 1) lo x * 2 ^ lo + v % 2 ^ n * 2 ^ lo)

/-- The pc of a trap: the base of the vector register, or for an interrupt under vectored mode the entry of its cause. -/
def trapPc (vec : Word64) (interrupt : Bool) (cause : Nat) : Word64 :=
  if interrupt && vec.toNat % 4 == 1 then (vec &&& ~~~3#64) + BitVec.ofNat 64 (4 * cause) else vec &&& ~~~3#64

/-- A trap of a queue processor to machine mode: mepc, mcause and mtval are written, MPIE := MIE, MIE := 0 and MPP := the mode. -/
def Hart.trapM (h : Hart) (interrupt : Bool) (cause : Nat) (tval : Word64) : Hart :=
  let st := h.mstatus
  { h with
    mepc := h.pc, mcause := BitVec.ofNat 64 ((if interrupt then 2 ^ 63 else 0) + cause), mtval := tval,
    mstatus := putBits (putBits (putBits st 7 1 (bits 3 3 st.toNat)) 3 1 0) 11 2 h.mode.code,
    mode := .machine, pc := trapPc h.mtvec interrupt cause, swait := none }

/-- A trap of a queue processor that medeleg or mideleg gives to supervisor mode: sepc, scause and stval are written, SPIE := SIE,
SIE := 0 and SPP := the mode. -/
def Hart.trapS (h : Hart) (interrupt : Bool) (cause : Nat) (tval : Word64) : Hart :=
  let st := h.mstatus
  { h with
    csr := Tab.set 0 0x143 tval (Tab.set 0 0x142 (BitVec.ofNat 64 ((if interrupt then 2 ^ 63 else 0) + cause))
      (Tab.set 0 0x141 h.pc h.csr)),
    mstatus := putBits (putBits (putBits st 5 1 (bits 1 1 st.toNat)) 1 1 0) 8 1 h.mode.code,
    mode := .supervisor, pc := trapPc (Tab.get 0 h.csr 0x105) interrupt cause, swait := none }

/-- The mode that takes an exception (false) or an interrupt (true) is supervisor mode: medeleg or mideleg has its bit, and the
queue processor is not in machine mode. -/
def Hart.delegated (h : Hart) (interrupt : Bool) (cause : Nat) : Bool :=
  h.mode != .machine && (Tab.get 0 h.csr (if interrupt then 0x303 else 0x302)).toNat.testBit cause

/-- A trap of a queue processor (R55, R56; the privileged registers are those of RISC-V, log entry 9). -/
def Hart.trap (h : Hart) (interrupt : Bool) (cause : Nat) (tval : Word64) : Hart :=
  if h.delegated interrupt cause then h.trapS interrupt cause tval else h.trapM interrupt cause tval

/-- A synchronous exception of a queue processor (R55, R56). -/
def Hart.exception (h : Hart) (cause : Nat) (tval : Word64) : Hart := h.trap false cause tval

/-- Interrupts that wait at a queue processor: its lines, and the bits that software has set in mip. -/
def Hart.mip (h : Hart) : Nat := h.irq.toNat ||| (Tab.get 0 h.csr 0x344).toNat

/-- The interrupt that a queue processor takes before its next instruction: one that is enabled, in the order of RISC-V, those of
machine mode first. -/
def Hart.interrupt (h : Hart) : Option Nat :=
  let p := h.mip &&& (Tab.get 0 h.csr 0x304).toNat
  let deleg := (Tab.get 0 h.csr 0x303).toNat
  let m := h.mode != .machine || h.mstatus.getLsbD 3
  let sv := h.mode == .user || (h.mode == .supervisor && h.mstatus.getLsbD 1)
  let order := [11, 3, 7, 9, 1, 5]
  match order.find? (fun c => p.testBit c && !deleg.testBit c && m) with
  | some c => some c
  | none => order.find? (fun c => p.testBit c && deleg.testBit c && sv)

/-- An instruction of a queue processor has retired: minstret counts it, unless mcountinhibit stops that. -/
def Hart.retire (h : Hart) : Hart :=
  if (Tab.get 0 h.csr 0x320).getLsbD 2 then h else { h with csr := Tab.set 0 0xB02 (Tab.get 0 h.csr 0xB02 + 1) h.csr }

/-- A register of a queue processor; x0 reads zero. -/
def Hart.r (h : Hart) (n : Reg5) : Word64 := if n = 0 then 0 else Tab.get 0 h.x n.toNat

/-- The hart with a register written; a write to x0 is discarded. -/
def Hart.setR (h : Hart) (n : Reg5) (v : Word64) : Hart :=
  if n = 0 then h else { h with x := Tab.set 0 n.toNat v h.x }

end Sys2Proof.Machine
end

