-- ==== Sys2Proof/Machine/Flags.lean ====
section
/-!
DEFINITION. Completion flags and the scalar scoreboard (R193, R195, R294), computed from the clauses of a path.
-/

namespace Sys2Proof.Machine

/-- The clause names a flag in one of its sets; a flag named in both counts once (R193). -/
def Clause.names (c : Clause) (n : Nat) : Bool := c.setA == some n || c.setB == some n

/-- The clauses of a path that have started and not completed. -/
def Path.started (p : Path) : List Clause := p.run.toList ++ p.done

/-- The queued count of a flag (R193). -/
def Path.queued (p : Path) (n : Nat) : Nat := ((p.queue ++ p.kept).filter (fun c => c.names n)).length

/-- The outstanding count of a flag (R193). -/
def Path.outstanding (p : Path) (n : Nat) : Nat := (p.started.filter (fun c => c.names n)).length

/-- A flag is busy while either count is non-zero (R193). -/
def Path.busy (p : Path) (n : Nat) : Bool := p.queued n != 0 || p.outstanding n != 0

/-- Every flag of a mask is clear (R301). -/
def Path.flagsClear (p : Path) (m : BitVec 12) : Bool :=
  (List.range 12).all (fun n => !m.getLsbD n || !p.busy n)

/-- Every clause that the path has enqueued has completed, so that every flag is clear (R197, R202, R381). -/
def Path.idle (p : Path) : Bool := p.queue.isEmpty && p.kept.isEmpty && p.run.isNone && p.done.isEmpty

/-- Every clause that the path has enqueued has ended (R164, R311). -/
def Path.ended (p : Path) : Bool := p.queue.isEmpty && p.run.isNone

/-- A clause's wait mask is clear of outstanding clauses, and its flags have room (R193). -/
def Path.clauseEligible (p : Path) (c : Clause) : Bool :=
  (List.range 12).all (fun n => (!c.wait.getLsbD n || p.outstanding n == 0)
    && (!c.names n || decide (p.outstanding n < 63)))

/-- A scalar register is marked: a clause that writes it has not landed, or a load or atomic has not returned (R195,
R294). -/
def Path.marked (p : Path) (r : Nat) : Bool :=
  r != 0 && ((p.queue ++ p.started).any (fun c => c.dests.contains r)
    || p.pendScalar.any (fun q => q.sd == some r))

/-- Scalar loads and atomics of the path that have not returned (R294). -/
def Path.loadsOut (p : Path) : Nat := (p.pendScalar.filter (fun q => q.sd.isSome)).length

/-- What the path waits for at its instruction may have come (R86): it is issued again. A wait on another unit's state is
issued again and waits on when nothing has changed. -/
def Path.waitOver (p : Path) : Bool :=
  match p.wait with
  | none => true
  | some .clauseQueue => decide (p.queue.length < 4)
  | some (.flags m) => p.flagsClear m
  | some .join => p.idle && p.jcnt == 0 && p.pendScalar.isEmpty
  | some .endPath => p.idle && p.jcnt == 0 && p.pendScalar.isEmpty
  | some .split => p.idle && p.pendScalar.isEmpty
  | some (.scoreboard rs) => rs.all (fun r => !p.marked r)
  | some .recordSlot => decide (p.shoots.length < 4)
  | some .tsync => p.shoots.isEmpty
  | some .commit => true
  | some .loads => decide (p.loadsOut < 8)
  | some .starting => false
  | some _ => true

/-- The path is inside an instruction that has performed and has not completed, where no event is taken (R375, R382). -/
def Path.within (p : Path) : Bool :=
  match p.wait with
  | some (.retiring _) => true
  | some .stepping => true
  | _ => false

/-- A path is ready (R86): it is not parked, not stopped, and not waiting. -/
def Path.ready (p : Path) : Bool :=
  p.park.isNone && p.stop.isNone && p.cxDelay == 0 && p.waitOver

end Sys2Proof.Machine
end

