-- ==== Sys2Proof/Machine/Translate.lean ====
section
/-!
DEFINITION. Address translation (R117 to R129): walks, the last-page registers, the core and die TLBs, permissions and the
accessed and dirty bits.
-/

namespace Sys2Proof.Machine

/-- What an access is for (R123, R135). -/
inductive AccKind where
  | load | store | atomic | fetch | engineRead | engineWrite | spill | fill
  deriving DecidableEq, Repr

/-- KIND of a fault record (R135). -/
def AccKind.code : AccKind → Nat
  | .load => 0 | .store => 1 | .atomic => 2 | .fetch => 3 | .engineRead => 4 | .engineWrite => 5
  | .spill => 6 | .fill => 6

/-- The access writes. -/
def AccKind.writes : AccKind → Bool
  | .store => true | .atomic => true | .engineWrite => true | .spill => true
  | .load => false | .fetch => false | .engineRead => false | .fill => false

/-- The permission of a leaf that an access needs (R123). -/
def AccKind.permitted (k : AccKind) (leaf : BitVec 64) : Bool :=
  match k with
  | .load => leaf.getLsbD 2 | .fill => leaf.getLsbD 2 | .engineRead => leaf.getLsbD 2
  | .store => leaf.getLsbD 3 | .spill => leaf.getLsbD 3 | .engineWrite => leaf.getLsbD 3
  | .atomic => leaf.getLsbD 2 && leaf.getLsbD 3
  | .fetch => leaf.getLsbD 4

/-! ## Leaves (R119) -/

def leafV (e : BitVec 64) : Bool := e.getLsbD 0
def leafT (e : BitVec 64) : Bool := e.getLsbD 1
def leafPs (e : BitVec 64) : Nat := (field e 12 2).toNat
def leafG (e : BitVec 64) : Bool := e.getLsbD 11
def leafDisc (e : BitVec 64) : Bool := e.getLsbD 14
def leafJ (e : BitVec 64) : Bool := e.getLsbD 15
def leafStable (e : BitVec 64) : Bool := e.getLsbD 7
def leafRc (e : BitVec 64) : Nat := (field e 8 2).toNat

/-- FRAME as an address (R119). -/
def leafFrame (e : BitVec 64) : Nat := (field e 16 48).toNat * 0x10000

/-- Pages of 64 KiB in a page of a size code (R120). -/
def pagesOf (ps : Nat) : Nat := if ps = 0 then 1 else if ps = 1 then 32 else 8192

/-- A leaf's A and D bits set as an access needs (R125). -/
def withAD (e : BitVec 64) (w : Bool) : BitVec 64 := e ||| 0x20#64 ||| (if w then 0x40#64 else 0)

/-! ## Walks -/

/-- How a walk ends (R122). -/
inductive WalkEnd where
  /-- PAGE_FAULT with its cause, the table level and the entry's address. -/
  | fault (cause level epa : Nat)
  | uncorrectable
  /-- A good leaf: the head entry, its address, and the first page of the run. -/
  | leaf (e : BitVec 64) (pa vpn : Nat)
  deriving DecidableEq, Repr

/-- Address of the head entry of the run that holds an entry (R120): `own` is the entry's address. -/
def headOf (own idx : Nat) (e : BitVec 64) : Nat := own - idx % (if leafPs e = 0 then 1 else if leafPs e = 1 then 32 else 2) * 8

/-- A good leaf, or the walk's end on a malformed one (R120), each entry tested in the order of R122: `own` is the address of the entry
reached, and `rd` reads a table word. -/
def checkLeaf (s : State) (rd : Nat → BitVec 64) (host : Bool) (level own idx vpn : Nat) (e : BitVec 64) : WalkEnd :=
  let ps := leafPs e
  let head := headOf own idx e
  let h := rd head
  let size := pagesOf ps * 0x10000
  if ¬ ((level = 3 ∧ ps ≤ 1) ∨ (level = 2 ∧ ps = 2)) then .fault 2 level own
  else if s.mem.badLines.contains (lineOf own) then .uncorrectable
  else if leafV h ≠ true ∨ leafPs h ≠ ps ∨ leafT h = true then .fault 2 level own
  else if leafFrame h % size ≠ 0 then .fault 2 level own
  else if host ∧ h.getLsbD 63 then .fault 2 level own
  else if ¬ host ∧ s.dev.limit ≤ leafFrame h then .fault 2 level own
  else if s.mem.badLines.contains (lineOf head) then .uncorrectable
  else .leaf h head (vpn - vpn % pagesOf ps)

/-- The levels of a walk from a node (R117, R122): `vpn` is the page, `level` the level of the node. -/
def walkNode (s : State) (rd : Nat → BitVec 64) (host : Bool) (vpn : Nat) : Nat → Nat → Nat → WalkEnd
  | 0, level, node => .fault 2 level node
  | fuel + 1, level, node =>
    let idx := vpn / 2 ^ (12 * (3 - level)) % 4096
    let own := node + idx * 8
    let e := rd own
    if leafV e ≠ true then .fault 1 level own
    else if leafT e then
      (if level = 3 ∨ field e 2 13 ≠ 0 ∨ 0x9000000000 ≤ (field e 15 49).toNat * 0x8000 then .fault 2 level own
       else if s.mem.badLines.contains (lineOf own) then .uncorrectable
       else walkNode s rd host vpn fuel (level + 1) ((field e 15 49).toNat * 0x8000))
    else if level = 1 then .fault 2 level own
    else checkLeaf s rd host level own idx vpn e

/-- A walk for an ASID and a page (R122), whose reads of table words give `rd`. -/
def walkWith (s : State) (rd : Nat → BitVec 64) (asid : Nat) (host : Bool) (vpn : Nat) : WalkEnd :=
  let own := s.xl.atbase.toNat + asid * 8
  let e := rd own
  if leafV e ≠ true then .fault 1 0 own
  else if leafT e ≠ true ∨ field e 2 13 ≠ 0 ∨ 0x9000000000 ≤ (field e 15 49).toNat * 0x8000 then .fault 2 0 own
  else if s.mem.badLines.contains (lineOf own) then .uncorrectable
  else walkNode s rd host vpn 3 1 ((field e 15 49).toNat * 0x8000)

/-- A walk that reads every table word as the last write left it (R124). -/
def walk (s : State) (asid : Nat) (host : Bool) (vpn : Nat) : WalkEnd := walkWith s s.readPa64 asid host vpn

/-- The addresses of the table words below a node that a walk reads (R122). -/
def nodeReads (rd : Nat → BitVec 64) (vpn : Nat) : Nat → Nat → Nat → List Nat
  | 0, _, _ => []
  | fuel + 1, level, node =>
    let idx := vpn / 2 ^ (12 * (3 - level)) % 4096
    let own := node + idx * 8
    let e := rd own
    if leafV e ≠ true then [own]
    else if leafT e then own :: nodeReads rd vpn fuel (level + 1) ((field e 15 49).toNat * 0x8000)
    else [own, headOf own idx e]

/-- A walker's reads perform at the home slices of the entries (R28, R122, R136). -/
def State.noteWalk (s : State) (asid vpn : Nat) : State :=
  let own := s.xl.atbase.toNat + asid * 8
  let e := s.readPa64 own
  ((own :: (if leafV e ∧ leafT e then nodeReads s.readPa64 vpn 3 1 ((field e 15 49).toNat * 0x8000) else [])).filter
      (fun a => decide (a < s.dev.limit))).foldl
    (fun s a => s.viewTouch (.dev a)) s

/-! ## Generations and entries -/

/-- The walk-generation counter of an ASID and a page (R129). -/
def genIndex (asid vpn : Nat) : Nat := (asid ^^^ (vpn / 2 ^ 13) ^^^ (vpn / 2 ^ 13 / 2 ^ 10)) % 1024

/-- The current generation of an ASID and a page on a die (R129). -/
def State.generation (s : State) (die asid vpn : Nat) : Nat := (Tab.get 0 s.xl.walkGen (die * 1024 + genIndex asid vpn)).toNat

/-- An entry matches an access: its page covers it, and the ASID is equal or G is set (R121). -/
def TlbEntry.hits (e : TlbEntry) (asid : Nat) (host : Bool) (vpn : Nat) : Bool :=
  (e.asid == asid || leafG e.leaf) && e.host == host && decide (e.vpn ≤ vpn) && decide (vpn < e.vpn + pagesOf e.ps)

/-- A TLB of 4 ways and `sets` sets with an entry filled; a full set gives up one entry (R121). -/
def tlbFill (fresh sets : Nat) (tlb : List TlbEntry) (e : TlbEntry) : List TlbEntry :=
  let rest := tlb.filter (fun x => !(x.asid == e.asid && x.host == e.host && x.vpn == e.vpn && x.ps == e.ps))
  if rest.length < 4 then e :: rest
  else
    let same := rest.filter (fun x => Config.tlbSet x.vpn % sets == Config.tlbSet e.vpn % sets)
    if same.length < 4 then e :: rest
    else
      match same[Config.victim fresh % 4]? with
      | none => e :: rest
      | some v => e :: rest.filter (fun x => !(x == v))

/-- Sets of the core TLB, of 512 entries, and of the die TLB, of 16,384 (R121). -/
def coreSets : Nat := 128
def dieSets : Nat := 4096

/-- The die TLB of a core's die (R121). -/
def Xlate.dieTlb (x : Xlate) (die : Nat) : List TlbEntry := if die = 0 then x.dieTlb0 else x.dieTlb1

/-- The translation state with a die TLB changed. -/
def Xlate.modDieTlb (x : Xlate) (die : Nat) (f : List TlbEntry → List TlbEntry) : Xlate :=
  if die = 0 then { x with dieTlb0 := f x.dieTlb0 } else { x with dieTlb1 := f x.dieTlb1 }

/-- Every entry of this leaf is dropped at each level that a core uses (R125). -/
def State.dropLeaf (s : State) (core leafPa : Nat) : State :=
  let keep := fun (e : TlbEntry) => e.leafPa != leafPa
  let s := s.modCore core (fun c => { c with tlb := c.tlb.filter keep, lpr := c.lpr.filter (fun l => keep l.2) })
  { s with xl := s.xl.modDieTlb (core / 192) (fun t => t.filter keep) }

/-- An entry filled into the die TLB, the core TLB and, for a lane, its last-page register (R121, R129, R337). -/
def State.fillTlb (s : State) (core : Nat) (lpr : Option Nat) (e : TlbEntry) : State :=
  let s := { s.tick with xl := s.xl.modDieTlb (core / 192) (fun t => tlbFill s.fresh dieSets t e) }
  s.modCore core (fun c =>
    { c with tlb := tlbFill s.fresh coreSets c.tlb e,
             lpr := match lpr with
               | none => c.lpr
               | some l => AMap.insert l e c.lpr })

/-- A table entry changed by the device at its home slice (R125). -/
def State.writeEntry (s : State) (pa : Nat) (e : BitVec 64) : State := (s.writeHome [] 0 pa (toBytes 8 e.toNat)).1

/-! ## The translation of one access -/

/-- What an access needs from translation. -/
structure Xreq where
  core : Nat
  asid : Nat
  /-- A space-0x4 access. -/
  host : Bool
  /-- Address bits [51:0]. -/
  va : Nat
  kind : AccKind
  /-- The physical lane whose last-page register serves it, if one does. -/
  lpr : Option Nat
  /-- Table words that the walk still reads as they were before the path wrote them (R182). -/
  old : AMap (BitVec 64) := []
  deriving DecidableEq, Repr

/-- What translation gives (R122). -/
inductive Xres where
  /-- The physical address, or the host I/O virtual address, and the leaf. -/
  | ok (pa : Nat) (leaf : BitVec 64)
  | fault (cause level epa : Nat)
  | protection
  | uncorrectable
  /-- Its A or D update waits for a lease on the leaf's line (R46). -/
  | leased
  deriving DecidableEq, Repr

/-- The address a leaf gives. -/
def leafAddr (e : TlbEntry) (va : Nat) : Nat := leafFrame e.leaf + (va - e.vpn * 0x10000)

/-- Every frame that a page maps has been accessed (R136). -/
def Memory.touchPage (m : Memory) (frame ps : Nat) : Memory :=
  ((List.range (pagesOf ps)).reverse).foldl (fun m i => m.touch (frame + i * 0x10000)) m

/-- A walk for an access, its permission test, its A and D update and its fills (R122, R123, R125, R129). A walk that read an old
entry and would change it finds that it has changed, and walks again. -/
def State.walkAccess (s : State) (r : Xreq) : State × Xres :=
  let vpn := r.va / 0x10000
  let rd := fun (a : Nat) => (AMap.find r.old a).getD (s.readPa64 a)
  let found := match walkWith s rd r.asid r.host vpn with
    | .leaf e pa v =>
      if rd pa = s.readPa64 pa ∨ (r.kind.permitted e ∧ (leafDisc e ∨ withAD e r.kind.writes = e)) then WalkEnd.leaf e pa v
      else walk s r.asid r.host vpn
    | x => x
  let s := s.noteWalk r.asid vpn
  match found with
  | .fault c l e => (s, .fault c l e)
  | .uncorrectable => (s, .uncorrectable)
  | .leaf e pa v =>
    if !r.kind.permitted e then (s, .protection)
    else
      let e' := if leafDisc e then e else withAD e r.kind.writes
      if e' ≠ e ∧ s.lineHeld pa then (s, .leased)
      else
        let s := if e' = e then s else s.writeEntry pa e'
        let ent : TlbEntry := { asid := r.asid, host := r.host, vpn := v, ps := leafPs e, leaf := e', leafPa := pa,
                                gen := s.generation (r.core / 192) r.asid vpn }
        let s := s.fillTlb r.core r.lpr ent
        let s := if r.host then s else { s with mem := s.mem.touchPage (leafFrame e') (leafPs e) }
        (s, .ok (leafAddr ent r.va) e')

/-- An access through a cached entry: permission, then the first write through an entry with D = 0 sets D by
compare-and-swap against the leaf, and a failed compare drops the entry and walks (R123, R125). -/
def State.hitAccess (s : State) (r : Xreq) (e : TlbEntry) : State × Xres :=
  if !r.kind.permitted e.leaf then (s, .protection)
  else if r.kind.writes && !leafDisc e.leaf && !e.leaf.getLsbD 6 then
    (if s.readPa64 e.leafPa ≠ e.leaf then (s.dropLeaf r.core e.leafPa).walkAccess r
     else if s.lineHeld e.leafPa then (s, .leased)
     else
       let e' := { e with leaf := withAD e.leaf true }
       (((s.writeEntry e.leafPa e'.leaf).dropLeaf r.core e.leafPa).fillTlb r.core r.lpr e', .ok (leafAddr e r.va) e'.leaf))
  else
    ((match r.lpr with
      | none => s
      | some l => s.modCore r.core (fun c => { c with lpr := AMap.insert l e c.lpr })), .ok (leafAddr e r.va) e.leaf)

/-- The translation of an access by the first level that holds a matching entry (R121). A fill from that level carries the
generation of its walk, in the counter of the walk's own ASID: one below the current counter is dropped, and the access walks (R129). No
level is filled for an access without permission. -/
def State.translate (s : State) (r : Xreq) : State × Xres :=
  let vpn := r.va / 0x10000
  let c := s.core r.core
  let hit := fun (e : TlbEntry) => e.hits r.asid r.host vpn
  let late := fun (e : TlbEntry) => decide (e.gen < s.generation (r.core / 192) e.asid vpn)
  let lpr := (r.lpr.bind (fun l => AMap.find c.lpr l)).filter hit
  match lpr with
  | some e => s.hitAccess r e
  | none =>
    match c.tlb.find? hit with
    | some e => if r.lpr.isSome && late e then s.walkAccess r else s.hitAccess r e
    | none =>
      match (s.xl.dieTlb (r.core / 192)).find? hit with
      | some e =>
        if late e then s.walkAccess r
        else if !r.kind.permitted e.leaf then (s, .protection)
        else (s.modCore r.core (fun c => { c with tlb := tlbFill s.fresh coreSets c.tlb e })).tick.hitAccess r e
      | none => s.walkAccess r

/-- The fault record of an access whose walk ended in PAGE_FAULT (R135). -/
def faultInfo (kind : AccKind) (va : BitVec 64) (lane cause level epa : Nat) : FaultInfo :=
  { fid := none, kind := kind.code, cause := cause, level := level, epa := epa, va := va, lane := lane }

/-! ## Shoot-downs -/

/-- The counters that a range touches (R129): every one for a count of 0. -/
def genRange (asid first count : Nat) : List Nat :=
  if count = 0 then List.range 1024
  else (List.range ((first + count - 1) / 2 ^ 13 - first / 2 ^ 13 + 1)).map (fun i => genIndex asid ((first / 2 ^ 13 + i) * 2 ^ 13))

/-- An entry lies in the range of a shoot-down: of its ASID, or global (R127). -/
def TlbEntry.inRange (e : TlbEntry) (asid first count : Nat) : Bool :=
  (e.asid == asid || leafG e.leaf) &&
    (count == 0 || (decide (e.vpn < first + count) && decide (first < e.vpn + pagesOf e.ps)))

/-- An L1 line lies in the range of a shoot-down and is tagged with its ASID (R128). -/
def L1Line.inRange (l : L1Line) (asid first count : Nat) : Bool :=
  l.asid == asid && l.space != 5 &&
    (count == 0 || (decide (first ≤ l.vline / 1024) && decide (l.vline / 1024 < first + count)))

/-- A pinned line of a range of pages that is shot down, of the ASID or of a global page (R127), keeps its class only while its page does
(R114): it takes the class that its page has now, and normal where the page is streaming or unmapped, which the spec does not say (log entry
143). -/
def State.unpin (s : State) (asid first count : Nat) : State :=
  let hit := fun (e : Nat × L2Line) => e.2.rc == 2 && (e.2.asid == asid || e.2.glob)
    && (count == 0 || (decide (first ≤ e.2.vline / 1024) && decide (e.2.vline / 1024 < first + count)))
  let cls := fun (e : Nat × L2Line) =>
    match walk s e.2.asid (e.1 / 2 ^ 54 == 4) (e.2.vline / 1024) with
    | .leaf l _ _ => if leafRc l = 3 then 0 else leafRc l
    | _ => 0
  { s with mem := { s.mem with l2 := s.mem.l2.map (fun e => if hit e then (e.1, { e.2 with rc := cls e }) else e) } }

/-- Steps 1 to 3 of a shoot-down (R128): the generations rise, and every matching entry and L1 line goes. -/
def State.sweep (s : State) (asid first count : Nat) : State :=
  let keep := fun (e : TlbEntry) => !e.inRange asid first count
  { s.unpin asid first count with
    xl := { s.xl with
      walkGen := ((genRange asid first count).eraseDups.flatMap (fun i => [i, 1024 + i])).foldl
        (fun m i => Tab.set 0 i (Tab.get 0 m i + 1) m) s.xl.walkGen,
      dieTlb0 := s.xl.dieTlb0.filter keep,
      dieTlb1 := s.xl.dieTlb1.filter keep },
    cores := s.cores.map (fun c => (c.1, { c.2 with
      tlb := c.2.tlb.filter keep,
      lpr := c.2.lpr.filter (fun l => keep l.2),
      l1 := c.2.l1.filter (fun l => !l.inRange asid first count) })) }

end Sys2Proof.Machine
end

