-- ==== Sys2Proof/Machine/Kv.lean ====
section
/-!
DEFINITION. KV space and token trees (R139 to R159): slots, nodes, page maps, count words and free lists, their image in
the KV region, the translation of a KV address, copies on write, and the tree operations.
-/

namespace Sys2Proof.Machine

/-! ## Frames, counts and free lists -/

/-- A slot that was never opened (R142). -/
def Slot.blank : Slot :=
  { state := 0, asid := 0, npl := 0, rlog2 := 0, fail := false, gen := 0, rbl := 0, nodes := [], mapFrames := [],
    regQueue := none, image := [], rebuilds := 0, rebuilding := none, rel := 0, lost := [], claim := none }

/-- A free node (R143). -/
def Node.blank : Node := { state := 0, len := 0, start := 0, parent := 0, anc := 0, map := [], blocks := [] }

/-- A slot (R142). -/
def State.slot (s : State) (n : Nat) : Slot := (AMap.find s.kv.slots n).getD Slot.blank

/-- A node of a slot (R143). -/
def Slot.node (k : Slot) (n : Nat) : Node := (AMap.find k.nodes n).getD Node.blank

/-- The slot with a node replaced. -/
def Slot.setNode (k : Slot) (n : Nat) (v : Node) : Slot := { k with nodes := AMap.insert n v k.nodes }

/-- The count word of a frame (R141). -/
def Kv.count (k : Kv) (f : Nat) : BitVec 32 := Tab.get 0 k.counts f

/-- KV state with a count word set. -/
def Kv.setCount (k : Kv) (f : Nat) (w : BitVec 32) : Kv := { k with counts := Tab.set 0 f w k.counts }

/-- REFC of a frame (R141). -/
def Kv.refc (k : Kv) (f : Nat) : Nat := (k.count f).toNat % 2 ^ 16

/-- RB of a frame (R141). -/
def Kv.rb (k : Kv) (f : Nat) : Bool := (k.count f).getLsbD 17

/-- The free list of a die, the top first (R140). -/
def Kv.free (k : Kv) (die : Nat) : List Nat := if die = 0 then k.free0 else k.free1

/-- KV state with a free list replaced. -/
def Kv.setFree (k : Kv) (die : Nat) (l : List Nat) : Kv := if die = 0 then { k with free0 := l } else { k with free1 := l }

/-- The state with its KV part changed. -/
def State.modKv (s : State) (f : Kv → Kv) : State := { s with kv := f s.kv }

/-- The low-watermark event, when the free count of a die has just fallen below LOW (R140). -/
def State.lowWater (s : State) (before after : Nat) : State :=
  let low := bits 47 24 s.kv.kvctl.toNat
  if after < low ∧ low ≤ before then s.emit (.deviceEvent (bits 21 16 s.kv.kvctl.toNat)) else s

/-- A frame goes on top of its die's free list: POOL and FREE set, no references (R140, R141). -/
def State.pushFree (s : State) (f : Nat) : State :=
  let die := dieOfPa (f * 0x10000)
  s.modKv (fun k => (k.setCount f 0xC0000#32).setFree die (f :: k.free die))

/-- The frame on top of a die's free list is allocated with a count word (R140). -/
def State.popFree (s : State) (die : Nat) (w : BitVec 32) : Option (State × Nat) :=
  match s.kv.free die with
  | [] => none
  | f :: fs =>
    some ((s.modKv (fun k => (k.setCount f w).setFree die fs)).lowWater (fs.length + 1) fs.length, f)

/-- A table without the keys from `lo` up to `hi`. -/
def Tab.clear {α : Type} (lo hi : Nat) (m : Tab α) : Tab α := m.filter (fun e => decide (e.1 < lo) || decide (hi ≤ e.1))

/-- The lines of a frame in host bias are obtained from the host (R28). -/
def State.obtainFrame (s : State) (f : Nat) : State :=
  if s.mem.hostBias (f * 0x10000) then (List.range 1024).foldl (fun s i => s.obtain (f * 0x10000 + i * 64)) s else s

/-- Every line of a frame is written at its home slice by an engine with this pts (R28, R110). -/
def State.stampFrame (s0 : State) (f pts : Nat) : State :=
  let s := s0.obtainFrame f
  let m := (List.range 1024).foldl
    (fun (m : Memory) i =>
      let w := max pts ((m.stamps (f * 1024 + i)).2 + 1)
      m.setStamps (f * 1024 + i) (w, w)) (s.mem.touch (f * 0x10000))
  { s with mem := m }

/-- A frame is filled with zeros by the page engine. -/
def State.zeroFrame (s : State) (f pts : Nat) : State :=
  State.stampFrame { s with mem := { s.mem with bytes := Tab.clear (f * 0x10000) ((f + 1) * 0x10000) s.mem.bytes } } f pts

/-- The largest wts of a frame's lines. -/
def State.frameStamp (s : State) (f : Nat) : Nat :=
  s.mem.ts.foldl (fun m e => if e.1 / 1024 = f then max m e.2.1 else m) 0

/-- The timestamp that the page engine's filling of a frame got is kept, for the releases that cover it (R426). -/
def State.noteFill (s : State) (f : Nat) : State := s.modKv (fun k => { k with fillT := Tab.set 0 f (s.frameStamp f) k.fillT })

/-- The timestamp of the page engine's filling of a frame (R426). -/
def Kv.fillStamp (k : Kv) (f : Nat) : Nat := Tab.get 0 k.fillT f

/-- The committed data of one frame is copied into another by the page engine (R132, R150): both are accessed at their home slices
(R28, R136). -/
def State.copyFrame (s0 : State) (src dst pts : Nat) : State :=
  let s1 := s0.obtainFrame src
  let s := { s1 with mem := s1.mem.touch (src * 0x10000) }
  let part := s.mem.bytes.filter (fun e => decide (src * 0x10000 ≤ e.1) && decide (e.1 < (src + 1) * 0x10000))
  let s := s.zeroFrame dst pts
  { s with mem := { s.mem with
      bytes := part.foldl (fun m e => Tab.set 0 (e.1 - src * 0x10000 + dst * 0x10000) e.2 m) s.mem.bytes } }

/-! ## Page maps -/

/-- The order of map entries: plane, then block (R146). -/
def MapEnt.before (a b : MapEnt) : Bool := decide (a.plane < b.plane) || (a.plane == b.plane && decide (a.block < b.block))

/-- A map with an entry put in its place. -/
def mapPut (e : MapEnt) : List MapEnt → List MapEnt
  | [] => [e]
  | x :: xs =>
    if x.plane = e.plane ∧ x.block = e.block then e :: xs
    else if e.before x then e :: x :: xs
    else x :: mapPut e xs

/-- The frame a map names for a plane and block. -/
def mapFind (m : List MapEnt) (plane block : Nat) : Option Nat :=
  (m.find? (fun e => e.plane == plane && e.block == block)).map (·.frame)

/-- A map without an entry. -/
def mapDrop (m : List MapEnt) (plane block : Nat) : List MapEnt :=
  m.filter (fun e => !(e.plane == plane && e.block == block))

/-- The map blocks of a slot that no node uses, lowest first in the order of its map frames (R146). -/
def Slot.freeBlocks (k : Slot) : List Nat :=
  (k.mapFrames.flatMap (fun f => (List.range 1024).map (fun i => f * 0x10000 + i * 64))).filter
    (fun b => k.nodes.all (fun n => !n.2.blocks.contains b))

/-- A node takes a map, with as many blocks as it needs; a block that is not free comes from a new map frame. None when
the home die has no frame for it (R146). -/
def State.setMap (s : State) (slot n : Nat) (m : List MapEnt) : Option State :=
  let k := s.slot slot
  let nd := k.node n
  let need := ceilDiv m.length 7
  let put := fun (s : State) (blocks : List Nat) =>
    s.modKv (fun kv => { kv with slots := AMap.insert slot ((s.slot slot).setNode n { nd with map := m, blocks := blocks }) kv.slots })
  if need ≤ nd.blocks.length then some (put s (nd.blocks.take need))
  else
    let more := need - nd.blocks.length
    let free := k.freeBlocks
    if more ≤ free.length then some (put s (nd.blocks ++ free.take more))
    else
      match s.popFree (slot % 2) 0x90000#32 with
      | none => none
      | some (s, f) =>
        let s := s.modKv (fun kv => { kv with
          slots := AMap.insert slot { s.slot slot with mapFrames := (s.slot slot).mapFrames ++ [f] } kv.slots })
        let fresh := (List.range 1024).map (fun i => f * 0x10000 + i * 64)
        some (put s (nd.blocks ++ (free ++ fresh).take more))

/-- A team without what its version writes into a frame. -/
def Team.dropWrites (f : Nat) (t : Team) : Team := { t with version := t.version.filter (fun b => frameOf b.1 != f) }

/-- The writes into a frame that have not committed are cancelled: nothing names the frame any more, and a replay of one would
trap KV_UNMAPPED (R156, R158). -/
def State.cancelWrites (s : State) (f : Nat) : State :=
  { s with
    teams := s.teams.map (fun e => (e.1, e.2.dropWrites f)),
    sched := { s.sched with saved := s.sched.saved.map (fun e => (e.1, e.2.1, e.2.2.map (Team.dropWrites f))) } }

/-- One reference to a frame goes; at zero the frame returns to the free list (R150). -/
def State.unref (s : State) (f : Nat) : State :=
  let w := s.kv.count f
  if w.toNat % 2 ^ 16 ≤ 1 then (s.pushFree f).cancelWrites f else s.modKv (fun k => k.setCount f (w - 1))

/-- One more reference to a frame (R150). -/
def State.ref (s : State) (f : Nat) : State := s.modKv (fun k => k.setCount f (k.count f + 1))

/-! ## The KV region -/

/-- A slot-table entry (R142). -/
def Slot.entry (k : Slot) : List Byte :=
  toBytes 8 (k.state + (if k.fail then 8 else 0) + k.rlog2 * 2 ^ 16 + k.npl * 2 ^ 20 + k.asid * 2 ^ 28)
    ++ toBytes 8 (k.gen.toNat * 2 ^ 32) ++ toBytes 8 ((k.mapFrames.head?.getD 0) * 0x10000) ++ toBytes 8 k.rbl.toNat
    ++ toBytes 32 (k.nodes.foldl (fun a n => if n.2.state = 0 then a else a + 2 ^ n.1) 0)

/-- A tree-table entry (R143). -/
def Node.entry (n : Node) : List Byte :=
  toBytes 8 n.state ++ toBytes 8 (n.parent + n.start * 2 ^ 18 + n.len * 2 ^ 36) ++ toBytes 8 0
    ++ toBytes 8 (n.blocks.head?.getD 0) ++ toBytes 32 n.anc.toNat

/-- A map entry (R146). -/
def MapEnt.entry (e : MapEnt) : List Byte := toBytes 8 (1 + e.frame * 2 ^ 16 + e.block * 2 ^ 40 + e.plane * 2 ^ 56)

/-- The map blocks of a node with what they hold (R146). -/
def mapBlocks : List Nat → List MapEnt → List (Nat × List Byte)
  | [], _ => []
  | b :: bs, m =>
    (b, toBytes 8 (bs.head?.getD 0) ++ (m.take 7).flatMap MapEnt.entry ++ List.replicate ((7 - (m.take 7).length) * 8) 0)
      :: mapBlocks bs (m.drop 7)

/-- The device's image of a slot and its nodes is written in the KV region (R140). -/
def State.mirror (s : State) (slot : Nat) : State :=
  let k := s.slot slot
  let base := s.kv.kvbase.toNat
  let s := s.deviceWrite (base + slot * 64) k.entry
  k.nodes.foldl (fun s n =>
    let s := s.deviceWrite (base + 0x80000 + slot * 0x4000 + n.1 * 64) n.2.entry
    (mapBlocks n.2.blocks n.2.map).foldl (fun s b => s.deviceWrite b.1 b.2) s) s

/-- Every core drops its cached KV translations of a slot (R149). -/
def State.dropKv (s : State) (slot : Nat) : State :=
  { s with cores := s.cores.map (fun c => (c.1, { c.2 with kvCache := c.2.kvCache.filter (fun t => t.slot != slot) })) }

/-- The state with a slot replaced and its image written. -/
def State.putSlot (s : State) (n : Nat) (k : Slot) : State :=
  (s.modKv (fun kv => { kv with slots := AMap.insert n k kv.slots })).mirror n

/-! ## KV addresses -/

/-- The fields of a space-0x5 address (R147). -/
structure KvAddr where
  plane : Nat
  slot : Nat
  node : Nat
  pos : Nat
  off : Nat
  deriving DecidableEq, Repr

/-- A KV address read (R147). -/
def kvAddr (a : Nat) : KvAddr :=
  { plane := bits 59 52 a, slot := bits 51 40 a, node := bits 39 32 a, pos := bits 31 14 a, off := bits 13 0 a }

/-- The deepest node from `m` towards the trunk whose map holds a plane and block, with its frame (R148). -/
def lookupUp (k : Slot) (plane block : Nat) : Nat → Nat → Option (Nat × Nat)
  | 0, _ => none
  | fuel + 1, m =>
    match mapFind (k.node m).map plane block with
    | some f => some (m, f)
    | none => if m = 0 then none else lookupUp k plane block fuel (k.node m).parent

/-- How the translation of a KV address ends (R148). -/
inductive KvRes where
  | ok (pa : Nat)
  | trap (c : TrapClass)
  | rebuilding
  /-- A frame is needed and the die's free list is empty. -/
  | noFrame (die : Nat)
  /-- The write needs a copy of a shared frame first: the node that names it and the frame. -/
  | copy (m f : Nat)
  /-- The frame that it would take is leased to a peer (R46). -/
  | leased
  deriving DecidableEq, Repr

/-- What a KV access brings (R148). -/
structure KvReq where
  addr : KvAddr
  size : Nat
  write : Bool
  asid : Nat
  /-- The access is of a tree operation. -/
  tree : Bool
  /-- The slot whose rebuild team makes it. -/
  rebuild : Option Nat
  deriving DecidableEq, Repr

/-- Record size and block of a position in a plane (R145). -/
def planeShape (k : Slot) (plane pos : Nat) : Nat × Nat :=
  if plane = 255 then (4, pos / 2 ^ 14) else (2 ^ k.rlog2, pos / 2 ^ (16 - k.rlog2))

/-- The checks of R148 before the lookup. -/
def kvCheck (s : State) (r : KvReq) : Option TrapClass :=
  let k := s.slot r.addr.slot
  let n := k.node r.addr.node
  if k.state ≠ 1 then some .kvUnmapped
  else if k.asid ≠ r.asid ∧ r.tree = false then some .protection
  else if r.addr.plane ≠ 255 ∧ k.npl ≤ r.addr.plane then some .badSpace
  else if (planeShape k r.addr.plane r.addr.pos).1 < r.addr.off + r.size then some .badSpace
  else if n.state ≠ 1 then some .kvUnmapped
  else if n.start + n.len ≤ r.addr.pos then some .kvUnmapped
  else if r.write ∧ r.addr.plane = 255 ∧ r.tree = false then some .protection
  else if r.write ∧ r.addr.pos < n.start ∧ r.rebuild.isNone then some .treeState
  else none

/-- The physical address of a position's record in a frame (R148). -/
def kvPa (rs : Nat) (a : KvAddr) (f : Nat) : Nat := f * 0x10000 + a.pos % (0x10000 / rs) * rs + a.off

/-- The translation of a KV address, with the frame allocation that a first write makes (R148). -/
def State.kvTranslate (s : State) (r : KvReq) (pts : Nat) : State × KvRes :=
  match kvCheck s r with
  | some c => (s, .trap c)
  | none =>
    let k := s.slot r.addr.slot
    let sh := planeShape k r.addr.plane r.addr.pos
    match lookupUp k r.addr.plane sh.2 256 r.addr.node with
    | none =>
      if !r.write then (s, .trap .kvUnmapped)
      else if r.rebuild.isSome then (s, .trap .treeState)
      else
        match s.popFree (r.addr.slot % 2) 0x80001#32 with
        | none => (s, .noFrame (r.addr.slot % 2))
        | some (s1, f) =>
          if s.leasedIn (f * 0x10000) ((f + 1) * 0x10000) then (s, .leased) else
          match ((s1.zeroFrame f pts).noteFill f).setMap r.addr.slot r.addr.node
              (mapPut { plane := r.addr.plane, block := sh.2, frame := f } (k.node r.addr.node).map) with
          | none => (s, .noFrame (r.addr.slot % 2))
          | some s2 => (s2.mirror r.addr.slot, .ok (kvPa sh.1 r.addr f))
    | some (m, f) =>
      if s.kv.rb f ∧ r.rebuild.isNone then
        (s, if k.lost.contains f then .trap .uncorrectable else .rebuilding)
      else if r.write ∧ r.rebuild.isSome ∧ ¬ (r.rebuild = some r.addr.slot ∧ k.rebuilding.any (fun x => x.2.1 == f)) then
        (s, .trap .treeState)
      else if r.write ∧ r.rebuild.isNone ∧ (m ≠ r.addr.node ∨ 1 < s.kv.refc f) then (s, .copy m f)
      else (s, .ok (kvPa sh.1 r.addr f))

/-- A copy on write (R150): the frame `g` takes the committed data of `f`, which node `m` names, and the writing node's map names
it. None when the home die has no frame for the map. -/
def State.copyOnWrite (s : State) (c : KvCopy) (m f g : Nat) : Option State :=
  let s := (s.copyFrame f g c.pts).noteFill g
  (s.setMap c.slot c.node (mapPut { plane := c.plane, block := c.block, frame := g } ((s.slot c.slot).node c.node).map)).map
    (fun s => ((if m = c.node then s.unref f else s).dropKv c.slot).mirror c.slot)

/-- A write asks the page engine for a copy of a block, once, under the pts of its path (R110, R151). -/
def State.askCopy (s : State) (slot node plane block pts : Nat) : State :=
  if s.kv.copies.any (fun c => c.slot == slot && c.node == node && c.plane == plane && c.block == block) then s
  else
    s.modKv (fun k => { k with
      copies := k.copies ++ [{ id := k.nextCopy, slot := slot, node := node, plane := plane, block := block, pts := pts,
                               dest := none, born := ((s.slot slot).node node).born }],
      nextCopy := k.nextCopy + 1 })

/-- A core keeps a KV translation, at most 64 of them (R149). -/
def Core.cacheKv (c : Core) (t : KvTran) : Core :=
  { c with kvCache := (t :: c.kvCache.filter (fun x => !(x.slot == t.slot && x.node == t.node && x.plane == t.plane
      && x.block == t.block))).take 64 }

/-! ## Locks on frames -/

/-- A granted lock overlaps a range of a place, or a write lock when only those count (R237). -/
def State.locked (s : State) (p : LockPlace) (lo hi : Nat) (writesOnly : Bool) : Bool :=
  s.eng.locks.any (fun l => l.granted && l.ranges.any (fun r => r.place == p && (r.write || !writesOnly)
    && decide (r.lo < hi) && decide (lo < r.hi)))

/-- A granted lock overlaps a range of device memory. -/
def State.lockedPa (s : State) (lo hi : Nat) (writesOnly : Bool) : Bool := s.locked .device lo hi writesOnly

/-! ## Tree operations -/

/-- How a tree operation ends: performed, with the value it returns; a trap; or a wait (R375). -/
inductive TreeRes where
  | done (s : State) (v : Word64)
  | trap (c : TrapClass)
  | wait (s : State)

/-- The operation that holds a slot's checked state still waits to perform: its path waits at it, or its packet has begun. -/
def State.claimStands (s : State) : TreeClaim → Bool
  | .path team pi => (s.teams.map (·.2) ++ s.savedTeams).any (fun t =>
      t.teamId == team && ((AMap.find t.paths pi).any (fun p => p.wait == some .tree || p.wait == some .fence || p.wait == some .commit)))
  | .packet q idx => (s.queue q).packets.any (fun p => p.idx == idx && p.st == .begun)

/-- A slot is held for another operation than `me` (R159). -/
def State.claimed (s : State) (slot : Nat) (me : TreeClaim) : Bool :=
  (s.slot slot).claim.any (fun c => c != me && s.claimStands c)

/-- A slot's checked state is held for an operation that waits (R159). -/
def State.claim (s : State) (slot : Nat) (me : TreeClaim) : State :=
  s.modKv (fun kv => { kv with slots := AMap.insert slot { s.slot slot with claim := some me } kv.slots })

/-- The operation for which a slot was held has performed. -/
def State.unclaim (s : State) (slot : Nat) : State :=
  if (s.slot slot).claim.isNone then s
  else s.modKv (fun kv => { kv with slots := AMap.modify slot (fun k => { k with claim := none }) kv.slots })

/-- The common checks of R373 but for those of the handle's bits. -/
def treeCheck (s : State) (slot asid : Nat) (opening : Bool) : Option TrapClass :=
  if ¬ s.kv.kvctl.getLsbD 0 then some .treeState
  else if opening then none
  else if (s.slot slot).state ≠ 1 then some .treeState
  else if (s.slot slot).asid ≠ asid ∧ asid ≠ 0 then some .protection
  else none

/-- The opening of a slot (R142, R374). -/
def State.treeOpen (s : State) (slot asid npl rlog2 rel : Nat) : TreeRes :=
  let k := s.slot slot
  if k.state ≠ 0 ∨ (s.dev.svc = 1 ∧ slot % 2 = 1) then .trap .treeState
  else
    let k' : Slot := { Slot.blank with
      state := 1, asid := asid, npl := npl, rlog2 := rlog2, gen := k.gen + 1, rebuilds := k.rebuilds, rel := max k.rel rel,
      nodes := [(0, { Node.blank with state := 1, anc := 1, born := s.kv.births + 1 })] }
    .done ((s.modKv (fun kv => { kv with births := kv.births + 1 })).putSlot slot k') (BitVec.setWidth 64 k'.gen)

/-- The planes whose block at a position is partly filled by what lies before it (R150). -/
def splitPlanes (k : Slot) (pos : Nat) : List (Nat × Nat) :=
  ((List.range k.npl).filterMap (fun p =>
    if pos % 2 ^ (16 - k.rlog2) ≠ 0 then some (p, pos / 2 ^ (16 - k.rlog2)) else none))
  ++ (if pos % 2 ^ 14 ≠ 0 then [(255, pos / 2 ^ 14)] else [])

/-- A fork (R144, R150). -/
def State.treeFork (s : State) (slot p c rel : Nat) : TreeRes :=
  let k := s.slot slot
  if c = 0 ∨ (k.node c).state = 1 ∨ (k.node p).state ≠ 1 then .trap .treeState
  else if (k.node c).state = 2 then .wait s
  else
    let par := k.node p
    let start := par.start + par.len
    let ents := (splitPlanes k start).filterMap (fun (pb : Nat × Nat) =>
      (mapFind par.map pb.1 pb.2).map (fun f => ({ plane := pb.1, block := pb.2, frame := f } : MapEnt)))
    let nd : Node := { state := 1, len := 0, start := start, parent := p, anc := par.anc ||| BitVec.twoPow 256 c,
                       map := [], blocks := [], born := s.kv.births + 1 }
    let s1 := s.modKv (fun kv => { kv with births := kv.births + 1, slots := AMap.insert slot { k.setNode c nd with rel := max k.rel rel } kv.slots })
    match s1.setMap slot c ents with
    | none => .wait s
    | some s2 => .done (((ents.foldl (fun s e => s.ref e.frame) s2).dropKv slot).mirror slot) 0

/-- A node has a live child (R144). -/
def Slot.liveChild (k : Slot) (n : Nat) : Bool :=
  k.nodes.any (fun e => e.1 != 0 && e.2.state == 1 && e.2.parent == n)

/-- How the writing of token identifiers ends: written, with the largest w; waiting for a frame, a lease or a rebuild, or for the copy of a
block that is shared; or a trap. -/
inductive TokenEnd where
  | put (s : State) (w : Nat)
  | later
  | copy (block : Nat)
  | trap (c : TrapClass)

/-- One token identifier is written into the token plane by a tree operation (R144, R145, R150). -/
def State.putToken (s : State) (slot node pos : Nat) (tok : BitVec 32) (pts : Nat) : TokenEnd :=
  let req : KvReq := { addr := { plane := 255, slot := slot, node := node, pos := pos, off := 0 }, size := 4,
                       write := true, asid := 0, tree := true, rebuild := none }
  match s.kvTranslate req pts with
  | (s1, .ok pa) =>
    if s1.lineHeld pa then .later
    else
      let r := s1.writeLines [] pts pa (toBytes 4 tok.toNat)
      .put r.1 (max r.2 (s1.kv.fillStamp (frameOf pa)))
  | (_, .copy _ _) => .copy (pos / 2 ^ 14)
  | (_, .trap c) => .trap c
  | (_, .rebuilding) => .later
  | (_, .noFrame _) => .later
  | (_, .leased) => .later

/-- Token identifiers at successive positions, over a largest w so far. -/
def State.putTokens (s : State) (slot node : Nat) : Nat → List (BitVec 32) → Nat → Nat → TokenEnd
  | _, [], _, w => .put s w
  | pos, t :: ts, pts, w =>
    match s.putToken slot node pos t pts with
    | .put s1 w1 => State.putTokens s1 slot node (pos + 1) ts pts (max w w1)
    | e => e

/-- The own checks of an append (R144). -/
def appendCheck (s : State) (slot n k : Nat) : Bool :=
  let nd := (s.slot slot).node n
  nd.state == 1 && !(s.slot slot).liveChild n && decide (nd.start + nd.len + k ≤ 262143)

/-- An append (R144): the node grows, and its identifiers enter the token plane, whose release time the slot keeps (R426). -/
def State.treeAppend (s : State) (slot n : Nat) (toks : List (BitVec 32)) (rel pts : Nat) : TreeRes :=
  let k := s.slot slot
  let nd := k.node n
  if !appendCheck s slot n toks.length then .trap .treeState
  else
    let s1 := s.modKv (fun kv => { kv with
      slots := AMap.insert slot { k.setNode n { nd with len := nd.len + toks.length } with rel := max k.rel rel } kv.slots })
    match s1.putTokens slot n (nd.start + nd.len) toks pts 0 with
    | .trap c => .trap c
    | .later => .wait s
    | .copy block => .wait (s.askCopy slot n 255 block pts)
    | .put s2 w =>
      .done (s2.putSlot slot { s2.slot slot with rel := max (s2.slot slot).rel w })
        (BitVec.ofNat 64 (nd.start + nd.len + toks.length))

/-- Teams bound to nodes of a slot that satisfy a test are cancelled, resident or saved (R156). -/
def State.cancelBound (s : State) (slot : Nat) (hit : Nat → Bool) : State :=
  let bound := fun (t : Team) => match t.binding with
    | some (k, n) => k == slot && hit n
    | none => false
  ((s.teams.filter (fun e => bound e.2)).foldl (fun s e => s.cancelTeam e.1) s).cancelSaved bound

/-- The lowest lane of a parked path that holds an access to a node of a slot that satisfies a test, with its address. -/
def Path.heldOn (p : Path) (slot : Nat) (hit : Nat → Bool) : Option (Nat × Word64) :=
  (p.park.map (·.kvs)).bind (fun ks => ks.find? (fun e => (kvAddr e.2.toNat).slot == slot && hit (kvAddr e.2.toNat).node))

/-- The paths of a team that hold accesses to such nodes. -/
def Team.heldOn (t : Team) (slot : Nat) (hit : Nat → Bool) : List (Nat × Nat × Word64) :=
  t.paths.filterMap (fun p => (p.2.heldOn slot hit).map (fun e => (p.1, e)))

/-- The accesses that are held on nodes of a slot translate again, now that the nodes are no longer live, and trap (R156, R158). -/
def State.trapHeldOn (s : State) (slot : Nat) (hit : Nat → Bool) : State :=
  let s := s.teams.foldl (fun s e => (e.2.heldOn slot hit).foldl (fun s h => s.trapError e.1 h.1 .kvUnmapped h.2.1 h.2.2) s) s
  s.savedTeams.foldl (fun s t => (t.heldOn slot hit).foldl (fun s h =>
    match s.whereIs t.teamId with
    | .saved t => s.trapSaved t h.1 .kvUnmapped h.2.1 h.2.2
    | _ => s) s) s

/-- Steps 1 to 3 of a prune of the nodes that satisfy a test, and what the accesses that are held on them come to (R156). -/
def State.pruneNodes (s : State) (slot : Nat) (hit : Nat → Bool) (rel : Nat) : State :=
  let k := s.slot slot
  let k' : Slot := { k with
    nodes := k.nodes.map (fun e => if hit e.1 && e.2.state == 1 then (e.1, { e.2 with state := 2 }) else e),
    rel := max k.rel rel }
  (((s.dropKv slot).putSlot slot k').cancelBound slot hit).trapHeldOn slot hit

/-- A prune of a live node's subtree (R156). -/
def State.treePrune (s : State) (slot n rel : Nat) : TreeRes :=
  let k := s.slot slot
  if n = 0 ∨ (k.node n).state ≠ 1 then .trap .treeState
  else .done (s.pruneNodes slot (fun m => (k.node m).anc.getLsbD n && (k.node m).state == 1) rel) 0

/-- The frames that the maps of dead nodes name. -/
def Slot.deadFrames (k : Slot) : List Nat :=
  (k.nodes.filter (fun e => e.2.state == 2)).flatMap (fun e => e.2.map.map (·.frame))

/-- Steps 4 and 5 of a prune (R156): once no lock holds a frame of the dead nodes, their entries go and they are
free. -/
def State.releaseDead (s : State) (slot : Nat) : State :=
  let k := s.slot slot
  if k.deadFrames.any (fun f => s.lockedPa (f * 0x10000) ((f + 1) * 0x10000) false) then s
  else
    let s1 := k.deadFrames.foldl (fun s f => s.unref f) s
    s1.putSlot slot { k with nodes := k.nodes.map (fun e => if e.2.state == 2 then (e.1, Node.blank) else e) }

/-- Steps 3 to 5 of a retirement (R158), once no lock holds a frame of the slot. -/
def State.releaseSlot (s : State) (slot : Nat) : State :=
  let k := s.slot slot
  let frames := k.nodes.flatMap (fun e => e.2.map.map (·.frame))
  if k.state ≠ 2 ∨ frames.any (fun f => s.lockedPa (f * 0x10000) ((f + 1) * 0x10000) false) then s
  else
    let s1 := frames.foldl (fun s f => s.unref f) s
    let s2 := k.mapFrames.foldl (fun s f => s.pushFree f) s1
    s2.putSlot slot { Slot.blank with gen := k.gen, rebuilds := k.rebuilds, rel := k.rel,
                                      nodes := k.nodes.map (fun e => (e.1, Node.blank)) }

/-- The start of a retirement (R158): the slot is retiring, and every team bound to it is cancelled. -/
def State.treeRetire (s : State) (slot rel : Nat) : State :=
  let k := s.slot slot
  ((((s.dropKv slot).putSlot slot { k with state := 2, rbl := 0, image := [], regQueue := none, rel := max k.rel rel }).cancelBound
    slot (fun _ => true)).trapHeldOn slot (fun _ => true)).releaseSlot slot

/-- The trunk's map after a commit of a path: for each plane and block the deepest entry (R153). -/
def commitMap (k : Slot) (path : List Nat) : List MapEnt :=
  path.foldl (fun m n => (k.node n).map.foldl (fun m e => mapPut e m) m) []

/-- The nodes from the trunk to a node. -/
def pathTo (k : Slot) : Nat → Nat → List Nat
  | 0, n => [n]
  | fuel + 1, n => if n = 0 then [0] else pathTo k fuel (k.node n).parent ++ [n]

/-- A saved team's version commits, and a new task begins (R176). -/
def State.commitSaved (s : State) (t : Team) : State × Nat :=
  let pts := (((t.paths.head?).map (·.2.pts))).getD 0
  let r := s.commitLines [] pts t.version
  let q := r.1.takeTask (taskHome t.teamId).1 (taskHome t.teamId).2
  (q.1.tick.modSaved t.teamId (fun t =>
      { (t.begin q.2 s.fresh).modPath t.firstPath (fun p => { p with pts := max p.pts r.2 }) with
        version := [], verId := none, wT := max t.wT r.2 }), r.2)

/-- The team is bound to a non-trunk node of a path of a slot. -/
def Team.boundOn (t : Team) (slot : Nat) (path : List Nat) : Bool :=
  match t.binding with
  | some (k, n) => k == slot && n != 0 && path.contains n
  | none => false

/-- The commit of a version bound to a node of a path would have to wait for a lease (R46). -/
def State.rebindBlocked (s : State) (slot : Nat) (path : List Nat) : Bool :=
  ((s.teams.map (·.2)) ++ s.sched.saved.flatMap (fun e => e.2.2)).any (fun t =>
    t.boundOn slot path && (versionLines t.version).any (fun l => s.lineHeld (l * 64)))

/-- The versions of the tasks bound to non-trunk nodes of a path commit, and the tasks are rebound to the trunk
(R153), saved ones too. -/
def State.rebind (s : State) (slot : Nat) (path : List Nat) : State :=
  let trunk := fun (t : Team) => { t with binding := some (slot, 0) }
  let s := (s.teams.filter (fun e => e.2.boundOn slot path)).foldl (fun s e => (s.commit e.1 e.2.firstPath).modTeam e.1 trunk) s
  (s.sched.saved.flatMap (fun e => e.2.2.filter (fun t => t.boundOn slot path))).foldl
    (fun s t => (s.commitSaved t).1.modSaved t.teamId trunk) s

/-- A commit of a path (R153, R157). -/
def State.treeCommit (s : State) (slot n rel : Nat) : TreeRes :=
  let k := s.slot slot
  if (k.node n).state ≠ 1 then .trap .treeState
  else if n = 0 then .done s 0
  else
    let path := pathTo k 256 n
    if s.rebindBlocked slot path then .wait s
    else
      let new := commitMap k path
      let old := path.flatMap (fun m => (k.node m).map)
      let gone := new.foldl (fun l e => l.erase e) old
      let off := fun (m : Nat) => m != 0 && !path.contains m && (k.node m).state == 1
      let k1 : Slot := { k with
        nodes := k.nodes.map (fun e => if e.1 ≠ 0 ∧ path.contains e.1 then (e.1, Node.blank) else e), rel := max k.rel rel }
      let k2 := k1.setNode 0 { k.node 0 with len := (k.node n).start + (k.node n).len, start := 0, anc := 1 }
      let s1 := s.dropKv slot |>.modKv (fun kv => { kv with slots := AMap.insert slot k2 kv.slots })
      match s1.setMap slot 0 new with
      | none => .wait s
      | some s2 =>
        let s3 := (gone.foldl (fun s e => s.unref e.frame) s2).rebind slot path
        .done ((s3.pruneNodes slot off rel).mirror slot) 0

/-- Number of teams bound to slots of a die (R155). -/
def State.bindings (s : State) (die : Nat) : Nat :=
  ((s.teams.map (·.2) ++ s.sched.saved.flatMap (fun e => e.2.2)).filter
    (fun t => match t.binding with | some (k, _) => k % 2 == die | none => false)).length

end Sys2Proof.Machine
end

