-- ==== Sys2Proof/Machine/Access.lean ====
section
/-!
DEFINITION. One memory access of a path: where its address leads, what stops it, and how it performs (R96 to R103, R111,
R116, R134, R148, R163 to R177, R243 to R246, R31, R43 to R47).
-/

namespace Sys2Proof.Machine

/-- What one access brings: its address, bytes, order (R166), cache hint (R99) and lane. -/
structure Acc where
  kind : AccKind
  addr : Word64
  size : Nat
  ord : Nat
  scope : Nat
  strong : Bool
  hint : Nat
  /-- The lane, or none for the scalar stream. -/
  lane : Option Nat
  /-- Every lane names this address (R338). -/
  uniform : Bool
  /-- One aligned 8-byte element, which a table frame takes (R124). -/
  tableOk : Bool
  deriving DecidableEq, Repr

/-- Space of an address (R96). -/
def spaceOf (a : Word64) : Nat := (field a 60 4).toNat

/-- Address bits [51:0]. -/
def lowAddr (a : Word64) : Nat := (field a 0 52).toNat

/-- Order, scope and strength that R166 refuses. -/
def orderRefused (kind : AccKind) (ord scope : Nat) (strong : Bool) : Bool :=
  match kind with
  | .atomic => !strong
  | .load => (ord != 0 && (ord != 1 || !strong)) || (!strong && scope != 0)
  | .store => (ord != 0 && (ord != 2 || !strong)) || (!strong && scope != 0)
  | _ => false

/-- The access acquires, or releases. -/
def acquires (ord : Nat) : Bool := ord == 1 || ord == 3
def releases (ord : Nat) : Bool := ord == 2 || ord == 3

/-- Number of teams in a neighbourhood, NT (R78). -/
def Kdesc.nt (k : Kdesc) : Nat :=
  if k.pair then (k.nbw + 1) / 2 * (k.nbh + 1) * k.tpc else (k.nbw + 1) * (k.nbh + 1) * k.tpc

/-- Bytes of a team area, TA, and of a lane's private memory, PL (R102, R103). -/
def Kdesc.ta (k : Kdesc) : Nat := 2 ^ (k.calog2 - 14)
def Kdesc.pl (k : Kdesc) : Nat := if 266240 < k.ta then (k.ta - 266240) / (4 * k.lanes) * 4 else 0

/-- First address of a team's area (R102). -/
def Team.area (t : Team) : Nat := t.k.carea.toNat * 0x10000 + 2 ^ (t.k.calog2 - 1) + t.privIdx * t.k.ta

/-- The space-0x0 address of a byte of a lane's private memory (R103). -/
def Team.privateAddr (t : Team) (l a : Nat) : Nat := t.area + 266240 + a / 4 * 4 * t.k.lanes + l * 4 + a % 4

/-- A remote address that no peer serves (R43, R15, R39). -/
def remoteBad (s : State) (node : Nat) : Bool :=
  node == s.fab.fnode.toNat || node == 0xFFF || s.fab.fnode == 0xFFF || !s.fab.routes.contains node || s.dev.svc == 1

/-- Bits that must be zero, window and private limits, and peers (R96, R101, R103, R43): BAD_SPACE. -/
def spaceBad (s : State) (w : Who) (a : Acc) : Bool :=
  let x := a.addr.toNat
  match spaceOf a.addr with
  | 0 => bits 59 52 x != 0
  | 1 => bits 59 52 x != 0
  | 2 => bits 59 52 x != 0
  | 3 => remoteBad s (bits 59 48 x)
  | 4 => bits 59 52 x != 0
  | 5 => false
  | 6 => bits 59 28 x != 0 || decide ((if w.team.binTeam then 1 else w.team.k.nt) ≤ bits 27 22 x)
      || decide (w.team.scrSize < bits 21 0 x + a.size)
  | 7 => a.lane.isNone || bits 59 32 x != 0 || decide (w.team.k.pl < bits 31 0 x + a.size) || a.kind == .atomic
  | _ => true

/-- The first checks of one access (R246, step 2): BAD_SPACE and then MISALIGNED. -/
def firstChecks (s : State) (w : Who) (a : Acc) : Option TrapClass :=
  if spaceBad s w a then some .badSpace
  else if a.addr.toNat % a.size ≠ 0 then some .misaligned
  else none

/-- Where an access leads. -/
inductive Target where
  /-- Device memory: physical address, the space and address that tag an L1 copy, and the leaf. -/
  | dev (pa : Nat) (space va : Nat) (leaf : BitVec 64)
  /-- A read of a discarded page (R134). -/
  | zeros
  /-- The words of lane-private memory, which lie apart: physical and virtual address and leaf of each, or none in a discarded
  page (R103). -/
  | words (ws : List (Option (Nat × Nat × BitVec 64)))
  | host (a : Nat) (va : Nat) (leaf : BitVec 64)
  | remote (node off : Nat)
  | scratch (key off : Nat)
  /-- The scratchpad of a team of the neighbourhood that has ended. -/
  | gone
  deriving DecidableEq, Repr

/-- What the checks of R246 find for one access, after its first checks. -/
inductive Found where
  | at_ (t : Target)
  | err (c : TrapClass)
  | held (h : Hold) (i : Option FaultInfo)
  /-- Its A or D update waits for a lease (R46). -/
  | later
  deriving DecidableEq, Repr

/-- The physical lane whose last-page register serves an access (R121, R337). -/
def Acc.lpr (a : Acc) : Option Nat := a.lane.map (fun l => if a.uniform then 0 else l % 32)

/-- The core that an access issues from. -/
def Acc.core (a : Acc) (w : Who) : Nat := laneCore w (a.lane.getD 0)

/-- A load that an L1 copy serves, so that no lock is tested (R111). -/
def State.l1Serves (s : State) (w : Who) (a : Acc) (space va pa : Nat) (renew : Bool) : Bool :=
  let pts := ((s.path w.key w.pi).map (·.pts)).getD 0
  a.kind == .load && !renew && (s.core (a.core w)).l1.any (fun l =>
    l.tagged w.team.asid space (lineOf va) (lineOf pa) && (l.stable || decide (pts ≤ l.base + l.delta)))

/-- An acquire that renews at the home slice (R109): the exception is tm scope in an unpaired team. -/
def Acc.renew (a : Acc) (w : Who) : Bool := acquires a.ord && !(a.scope == 0 && !w.team.k.pair)

/-- Whether locks stop a thread access to device memory (R237): stores and atomics meet every lock, loads write locks. -/
def State.rangeLocked (s : State) (kind : AccKind) (pa size : Nat) : Bool := s.lockedPa pa (pa + size) (!kind.writes)

/-- Whether locks stop a thread access to a scratchpad (R237). -/
def State.scratchLocked (s : State) (kind : AccKind) (team : BitVec 32) (off size : Nat) : Bool :=
  s.locked (.scratch team) off (off + size) (!kind.writes)

/-- The slot whose rebuild launch a team belongs to (R160). -/
def State.rebuildSlot (s : State) (t : Team) : Option Nat := (s.launch t.launch).bind (·.rebuild)

/-- Step 4 of R246 for device memory: table frames, stable and discarded pages, locks. -/
def afterTranslation (s : State) (w : Who) (a : Acc) (space va pa : Nat) (leaf : BitVec 64) : Found :=
  if a.kind.writes ∧ s.mem.isTable pa ∧ a.tableOk = false then .err .misaligned
  else if a.kind.writes ∧ leafStable leaf then .err .stableWrite
  else if a.kind.writes ∧ leafDisc leaf then .err .discardedWrite
  else if s.rangeLocked a.kind pa a.size ∧ ¬ s.l1Serves w a space va pa (a.renew w) then .held .rangeLocked none
  else if leafDisc leaf then .at_ .zeros
  else if a.kind.writes = false ∧ s.mem.badLines.contains (lineOf pa) then .err .uncorrectable
  else .at_ (.dev pa space va leaf)

/-- The table words that the path's walks still read as they were: each of them may have performed by now, and one that another write
has reached since has (R182). -/
def State.drainTables (s : State) (w : Who) : State :=
  if (((s.path w.key w.pi).map (·.tableOld)).getD []).isEmpty then s
  else s.tick.onPath w (fun p => { p with tableOld := p.tableOld.filter (fun e =>
    Config.lateWrite s.fresh e.1 && (s.mem.stamps (lineOf e.1)).1 == e.2.2) })

/-- Every table write of the path before this point has performed for its later walks (R126, R182). -/
def State.seeTables (s : State) (w : Who) : State := s.onPath w (fun p => { p with tableOld := [] })

/-- A page-table address of a path, followed (R246, steps 3 and 4). -/
def State.followPage (s0 : State) (w : Who) (a : Acc) (space va : Nat) : State × Found :=
  let s := s0.drainTables w
  let r : Xreq := { core := a.core w, asid := w.team.asid, host := space == 4, va := va, kind := a.kind, lpr := a.lpr,
                    old := (((s.path w.key w.pi).map (·.tableOld)).getD []).map (fun e => (e.1, e.2.1)) }
  match s.translate r with
  | (s, .ok pa leaf) =>
    if space = 4 then
      (if a.kind.writes ∧ leafStable leaf then (s, .err .stableWrite)
       else if a.kind.writes ∧ leafDisc leaf then (s, .err .discardedWrite)
       else if s.locked .host pa (pa + a.size) (!a.kind.writes) then (s, .held .rangeLocked none)
       else if leafDisc leaf then (s, .at_ .zeros)
       else if a.kind.writes = false ∧ s.mem.badHost.contains (lineOf pa) then (s, .err .uncorrectable)
       else (s, .at_ (.host pa va leaf)))
    else (s, afterTranslation s w a space va pa leaf)
  | (s, .fault c l e) => (s, .held .pageFault (some (faultInfo a.kind a.addr (a.lane.getD 0) c l e)))
  | (s, .protection) => (s, .err .protection)
  | (s, .uncorrectable) => (s, .err .uncorrectable)
  | (s, .leased) => (s, .later)

/-- The words of a lane-private access, followed one by one: `va` is the address of the first, and the next lies 4 bytes on for
each lane of the team (R103). -/
def State.followWords (s : State) (w : Who) (a : Acc) (va : Nat) : Nat → State × Found
  | 0 => (s, .at_ (.words []))
  | n + 1 =>
    match s.followPage w { a with size := 4, tableOk := false } 7 va with
    | (s1, .at_ t) =>
      let x := match t with
        | .dev pa _ va leaf => some (pa, va, leaf)
        | _ => none
      (match State.followWords s1 w a (va + 4 * w.team.k.lanes) n with
        | (s2, .at_ (.words ws)) => (s2, .at_ (.words (x :: ws)))
        | r => r)
    | r => r

/-- Timestamps of writes of the page engine that the path's next release covers (R110, R426). -/
def State.coverWrite (s : State) (key T : Nat) : State := s.modTeam key (fun t => { t with wT := max t.wT T })

/-- A KV address of a path, followed (R148, R151). A write that needs a copy waits for the page engine. -/
def State.followKv (s : State) (w : Who) (a : Acc) : State × Found :=
  let ka := kvAddr a.addr.toNat
  let pts := ((s.path w.key w.pi).map (·.pts)).getD 0
  let r : KvReq := { addr := ka, size := a.size, write := a.kind.writes, asid := w.team.asid, tree := false,
                     rebuild := s.rebuildSlot w.team }
  match s.kvTranslate r pts with
  | (s, .ok pa) =>
    if a.kind.writes ∧ s.mem.isTable pa ∧ a.tableOk = false then (s, .err .misaligned) else
    let sh := planeShape (s.slot ka.slot) ka.plane ka.pos
    let tr : KvTran :=
      { slot := ka.slot, gen := (s.slot ka.slot).gen, node := ka.node, plane := ka.plane, block := sh.2, frame := frameOf pa }
    let s := s.modCore (a.core w) (fun c => c.cacheKv tr)
    let s := if a.kind.writes then s.coverWrite w.key (s.kv.fillStamp (frameOf pa)) else s
    if a.kind.writes = false ∧ s.mem.badLines.contains (lineOf pa) then (s, .held .kvRebuilding none)
    else if s.rangeLocked a.kind pa a.size ∧ ¬ s.l1Serves w a 5 pa pa (a.renew w) then (s, .held .rangeLocked none)
    else (s, .at_ (.dev pa 5 pa 0))
  | (s, .trap c) => (s, .err c)
  | (s, .rebuilding) => (s, .held .kvRebuilding none)
  | (s, .noFrame d) => (s, .held (.freeFrame d) none)
  | (s, .copy _ f) =>
    let sh := planeShape (s.slot ka.slot) ka.plane ka.pos
    if s.rangeLocked .store (f * 0x10000) 0x10000 then (s, .held .rangeLocked none)
    else (s.askCopy ka.slot ka.node ka.plane sh.2 pts, .held .kvCopy none)
  | (s, .leased) => (s, .later)

/-- The team that a window address reaches (R101): the team with that index of the same neighbourhood, or the team
itself when it started from a bin. -/
def windowKey (s : State) (w : Who) (t : Nat) : Option Nat :=
  if w.team.binTeam || w.team.tidx == t then some w.key
  else (s.teams.find? (fun e => e.2.launch == w.team.launch && e.2.nbh == w.team.nbh && !e.2.binTeam && e.2.tidx == t)).map
    (·.1)

/-- An access followed to its target (R246, steps 3 and 4). -/
def State.follow (s : State) (w : Who) (a : Acc) : State × Found :=
  let x := a.addr.toNat
  match spaceOf a.addr with
  | 3 => (s, .at_ (.remote (bits 59 48 x) (bits 47 0 x)))
  | 5 => s.followKv w a
  | 6 =>
    match windowKey s w (bits 27 22 x) with
    | none => (s, .at_ .gone)
    | some k =>
      let id := ((s.team k).map (·.teamId)).getD 0
      if s.scratchLocked a.kind id (bits 21 0 x) a.size then (s, .held .rangeLocked none)
      else (s, .at_ (.scratch k (bits 21 0 x)))
  | 7 =>
    let va := w.team.privateAddr (a.lane.getD 0) (bits 31 0 x)
    if a.size ≤ 4 then s.followPage w a 7 va else s.followWords w a va (a.size / 4)
  | sp => s.followPage w a sp (lowAddr a.addr)

/-! ## Versions -/

/-- A store that enters the version (R174). -/
def versioned (space ord scope : Nat) (strong : Bool) : Bool :=
  (decide (space ≤ 2) || space == 5) && (!strong || (ord == 0 && decide (scope ≤ 1)) || (ord == 2 && scope == 0))

/-- Speculative lines of a slice (R243). -/
def State.specLines (s : State) (slice : Nat) : Nat :=
  ((s.teams.map (·.2) ++ s.sched.saved.flatMap (fun e => e.2.2)).map
    (fun t => ((versionLines t.version).filter (fun l => homeSlice s.dev (l * 64) == slice)).length)).sum

/-- Version ids in use, each as its die × 4096 + the id, with those of saved teams (R243). -/
def State.versionIds (s : State) : List Nat :=
  (s.teams.map (·.2) ++ s.sched.saved.flatMap (fun e => e.2.2)).filterMap (·.verId)

/-- The lowest version id that is free on a die (R243). -/
def State.freeVersionId (s : State) (die : Nat) : Option Nat :=
  ((List.range 4096).map (fun i => die * 4096 + i)).find? (fun i => !s.versionIds.contains i)

/-- A versioned write can take a version id, if its task has none (R243). -/
def State.hasVersionId (s : State) (key : Nat) : Bool :=
  match (s.team key).bind (·.verId) with
  | some _ => true
  | none => (s.freeVersionId (keyCore key / 192)).isSome

/-- The die that a saved team's version takes its id from: that of the core its identifier names (R242, R243). -/
def Team.savedDie (t : Team) : Nat := (taskHome t.teamId).1 / 192

/-- The version of a resident team. -/
def State.teamVersion (s : State) (key : Nat) : AMap Byte := ((s.team key).map (·.version)).getD []

/-- The team whose version must commit before a new line of a version `own` is speculative (R244): none while the line is, or
while its slice is below its limit, and otherwise the oldest with lines in the slice, by the start of its task. -/
def State.specVictim (s : State) (own : AMap Byte) (line : Nat) : Option Team :=
  let slice := homeSlice s.dev (line * 64)
  if (versionLines own).contains line ∨ s.specLines slice < 2048 then none
  else
    ((s.teams.map (·.2) ++ s.sched.saved.flatMap (fun e => e.2.2)).filter (fun t =>
        (versionLines t.version).any (fun l => homeSlice s.dev (l * 64) == slice))).foldl (fun (b : Option Team) t =>
      match b with
      | none => some t
      | some x => if t.taskBorn < x.taskBorn then some t else some x) none

/-- The commit of a version waits for a lease (R46). -/
def State.versionHeld (s : State) (t : Team) : Bool := (versionLines t.version).any (fun l => s.lineHeld (l * 64))

/-- The commit of that version waits for a lease (R46). -/
def State.roomBlocked (s : State) (own : AMap Byte) (line : Nat) : Bool := (s.specVictim own line).any s.versionHeld

/-- One instruction makes more lines of a slice speculative than the slice has room for, so that it commits several versions (R244), and
the commit of some version there waits for a lease (R46). -/
def State.roomsBlocked (s : State) (key : Nat) (lines : List Nat) : Bool :=
  let own := versionLines (s.teamVersion key)
  let new := (lines.eraseDups.filter (fun l => !own.contains l)).map (fun l => homeSlice s.dev (l * 64))
  new.any (fun slice => let n := (new.filter (fun x => x == slice)).length
    decide (1 < n) && decide (2048 < s.specLines slice + n) &&
      (s.teams.map (·.2) ++ s.savedTeams).any (fun t =>
        (versionLines t.version).any (fun l => homeSlice s.dev (l * 64) == slice) && s.versionHeld t))

/-- Early commit of the oldest version with lines in a slice at its limit, when a new line is needed there (R244). -/
def State.makeSpecRoom (s : State) (own : AMap Byte) (line : Nat) : State :=
  match s.specVictim own line with
  | none => s
  | some v =>
    match s.teams.find? (fun e => e.2.teamId == v.teamId) with
    | some e => s.commitEarly e.1
    | none => (s.commitSaved v).1.modSaved v.teamId (fun t => { t with ecom := true })

/-- Bytes enter a team's version (R175, R243, R244). -/
def State.versionWrite (s : State) (key : Nat) (pa : Nat) (bs : List Byte) : State :=
  let s := s.makeSpecRoom (s.teamVersion key) (lineOf pa)
  let id := s.freeVersionId (keyCore key / 192)
  s.modTeam key (fun t => { t with version := versionPut t.version pa bs, verId := if t.verId.isSome then t.verId else id })

/-- Bytes of an engine enter a saved team's version (R175, R179, R243, R244). -/
def State.versionWriteSaved (s : State) (t : Team) (pa : Nat) (bs : List Byte) : State :=
  let s := s.makeSpecRoom t.version (lineOf pa)
  let id := s.freeVersionId t.savedDie
  s.modSaved t.teamId (fun t => { t with version := versionPut t.version pa bs, verId := if t.verId.isSome then t.verId else id })

/-! ## Performing -/

/-- A fresh number for an access in flight. -/
def State.newId (s : State) : State × Nat := ({ s with eng := { s.eng with nextId := s.eng.nextId + 1 } }, s.eng.nextId)

/-- The remote line that a lease lets this device use (R42, R45). -/
def State.leasedCopy (s : State) (a : Acc) (node off : Nat) : Option (List Byte) :=
  if s.fab.hold || a.scope == 3 || (AMap.find s.mem.l2 (l2Key 3 (lineOf (node * 2 ^ 48 + off)))).isNone then none
  else (s.fab.leased.find? (fun l => l.node == node && l.line == lineOf off && decide (s.fab.ftime.toNat < l.until_))).map
    (fun l => (l.data.drop (off % 64)).take a.size)

/-- An access in flight of this path. -/
def pendOf (s : State) (w : Who) (a : Acc) (id addr rc : Nat) (op : PeerOp) (dest : LoadDest) : PendAccess :=
  { id := id, tkey := w.key, teamId := w.team.teamId, path := w.pi,
    clause := if a.lane.isSome then ((s.path w.key w.pi).bind (·.run)).map (·.id) else none,
    space := spaceOf a.addr, addr := addr, size := a.size, dest := dest, acq := acquires a.ord, strong := a.strong,
    lane := a.lane.getD 0, va := lowAddr a.addr, rc := rc, launch := w.team.launch,
    again := match op with
      | .load _ _ => some op
      | _ => none,
    resend := match op with
      | .load _ _ => none
      | _ => some op }

/-- The clause or path of an access in flight counts it (R193, R294). -/
def State.countPend (s : State) (w : Who) (a : Acc) (id : Nat) (sd : Option Nat) : State :=
  s.onPath w (fun p =>
    if a.lane.isSome then { p with run := p.run.map (fun c => { c with pend := c.pend + 1 }) }
    else { p with pendScalar := p.pendScalar ++ [{ req := id, sd := sd }] })

/-- The scalar register an access in flight will write. -/
def LoadDest.sd : LoadDest → Option Nat
  | .scalar sd _ _ => some sd
  | .lane _ _ _ _ => none
  | .nothing => none

/-- Requests to a remote line are outstanding (R38). -/
def State.lineOutstanding (s : State) (line : Nat) : Bool := s.eng.pend.any (fun p => p.space == 3 && lineOf p.addr == line)

/-- The port of a remote line: the one that carries it, while that is up or its requests are outstanding, and otherwise the lowest
that is up (R38). -/
def State.portOf (s : State) (line : Nat) : Nat :=
  let new := ((List.range 24).find? (fun p => s.fab.ports.getLsbD p)).getD 0
  match AMap.find s.fab.linePort line with
  | some p => if s.fab.ports.getLsbD p || s.lineOutstanding line then p else new
  | none => new

/-- A remote line must move to another port, and its outstanding requests have not been acknowledged (R38). -/
def State.portWaits (s : State) (line : Nat) : Bool := s.lineOutstanding line && !s.fab.ports.getLsbD (s.portOf line)

/-- A request for an access in flight leaves for its peer (R38, R43). -/
def State.request (s : State) (p : PendAccess) (op : PeerOp) : State :=
  let port := s.portOf (lineOf p.addr)
  ({ s with
      fab := { s.fab with linePort := AMap.insert (lineOf p.addr) port s.fab.linePort },
      eng := { s.eng with pend := s.eng.pend ++ [p] } }).emit (.peerRequest p.id port (bits 59 48 p.addr) (bits 47 0 p.addr) op)

/-- A request to a peer leaves, and the access is in flight until REMOTE_COMPLETION (R43, R47). -/
def State.sendRemote (s : State) (w : Who) (a : Acc) (node off : Nat) (op : PeerOp) (dest : LoadDest) : State :=
  let r := s.newId
  (r.1.request (pendOf s w a r.2 (node * 2 ^ 48 + off) 0 op dest) op).countPend w a r.2 dest.sd

/-- A line of host memory that the L2 does not hold. -/
def HostLine.blank : HostLine := { data := none, fills := [] }

/-- A load waits for a line of host memory: it joins the newest fill when that is not marked no-install, or asks for the line
anew (R31, R32). -/
def State.waitHost (s : State) (p : PendAccess) (asid : Nat) : State :=
  let line := lineOf p.addr
  let h := (AMap.find s.mem.hostLines line).getD HostLine.blank
  let put := fun (f : List HostFill) =>
    { s with mem := { s.mem with hostLines := AMap.insert line { h with fills := f } s.mem.hostLines } }
  let new : HostFill := { part := s.mem.partition asid, rc := p.rc, asid := asid, vline := lineOf p.va, old := none, waiters := [p], glob := p.glob }
  match h.fills.getLast? with
  | some f =>
    if f.old.isNone then put (h.fills.dropLast ++ [{ f with waiters := f.waiters ++ [p] }])
    else (put (h.fills ++ [new])).emit (.hostRead line)
  | none => (put [new]).emit (.hostRead line)

/-- A load of a path waits for a line of host memory (R31, R32). -/
def State.askHost (s : State) (w : Who) (a : Acc) (addr : Nat) (leaf : BitVec 64) (dest : LoadDest) : State :=
  let r := s.newId
  (r.1.countPend w a r.2 dest.sd).waitHost
    { pendOf s w a r.2 addr (leafRc leaf) (.load a.size false) dest with glob := leafG leaf } w.team.asid

/-- What a strong access follows: at device scope the writes of the units of the device, and at system scope those of any agent outside
the cores (R167, R172, R178). -/
def State.follows (s : State) (a : Acc) : Nat :=
  if !a.strong then 0 else if a.scope = 3 then s.mem.outT else if a.scope = 2 then s.mem.devT else 0

/-- A load of device memory performs (R109, R175). -/
def State.loadDev (s : State) (w : Who) (a : Acc) (pa space va : Nat) (leaf : BitVec 64) : State × List Byte :=
  let la : LoadArgs :=
    { core := a.core w, key := w.key, path := w.pi, asid := w.team.asid, space := space, va := va,
      pa := pa, size := a.size, renew := a.renew w, fill := l1Policy space a.hint, stable := leafStable leaf,
      sync := s.follows a }
  let s := s.l2Access { pa := pa, asid := w.team.asid, space := space, va := va, hint := a.hint, rc := leafRc leaf, dirty := false, glob := leafG leaf }
  let r := s.loadCommitted la
  (r.1, overlay (((r.1.team w.key).map (·.version)).getD []) pa r.2)

/-- A strong access to host or remote memory follows what was written there and released before (R172, R426). -/
def State.syncOut (s : State) (w : Who) (a : Acc) : State := if a.strong then s.acquireT w.key w.pi s.mem.outT else s

/-- A load performs: its bytes, or nothing yet when they come from a peer or the host. -/
def State.performLoad (s : State) (w : Who) (a : Acc) (t : Target) (dest : LoadDest) : State × Option (List Byte) :=
  match t with
  | .zeros => (s, some (List.replicate a.size 0))
  | .gone => (s.tick, some ((List.range a.size).map (fun i => Config.freeByte s.fresh i)))
  | .scratch k off =>
    ((if acquires a.ord then s.acquireT w.key w.pi (((s.team k).map (fun t => t.scrT off a.size)).getD 0) else s),
     some (((s.team k).map (fun t => t.scr off a.size)).getD []))
  | .dev pa space va leaf =>
    let r := s.loadDev w a pa space va leaf
    (r.1, some r.2)
  | .words ws =>
    let r := ws.foldl (fun (r : State × List Byte) x =>
      match x with
      | none => (r.1, r.2 ++ List.replicate 4 0)
      | some (pa, va, leaf) =>
        let q := r.1.loadDev w { a with size := 4 } pa 7 va leaf
        (q.1, r.2 ++ q.2)) (s, [])
    (r.1, some r.2)
  | .host addr _ leaf =>
    match s.hostPresent (lineOf addr) with
    | some d => (s.syncOut w a, some ((d.drop (addr % 64)).take a.size))
    | none => (s.askHost w a addr leaf dest, none)
  | .remote node off =>
    match s.leasedCopy a node off with
    | some d => (s.syncOut w a, some d)
    | none => (s.sendRemote w a node off (.load a.size (!s.fab.hold && a.scope != 3)) dest, none)

/-- A strong atomic of a path performs after what its scope lets it follow (R167, R172). -/
def State.syncScope (s : State) (w : Who) (a : Acc) : State := s.acquireT w.key w.pi (s.follows a)

/-- Bytes of the team's version that a strong write of the team follows perform before it, and leave the version (R170). -/
def State.sinkVersion (s : State) (w : Who) (a : Acc) (pa n : Nat) : State :=
  let v := ((s.team w.key).map (·.version)).getD []
  let hit := fun (e : Nat × Byte) => decide (pa ≤ e.1) && decide (e.1 < pa + n)
  if v.any hit then
    let s1 := s.storeHome (a.core w) w.key w.pi pa (overlay v pa (s.readPa pa n))
    s1.modTeam w.key (fun t =>
      { t with version := t.version.filter (fun e => !hit e), wT := max t.wT (s1.mem.stamps (lineOf pa)).1 })
  else s

/-- A store to a table frame (R124): strong, unversioned, and seen by the path's own walks when it has performed (R182). -/
def State.storeTable (s : State) (w : Who) (a : Acc) (pa : Nat) (bs : List Byte) : State :=
  let word := pa / 8 * 8
  let stamp := fun (x : State) => (x.mem.stamps (lineOf pa)).1
  let s1 := s.storeHome (a.core w) w.key w.pi pa bs
  (s1.onPath w (fun p =>
    let mine := fun (e : Nat × BitVec 64 × Nat) => lineOf e.1 == lineOf pa && e.2.2 == stamp s
    let old := ((p.tableOld.find? (fun e => e.1 == word && mine e)).map (·.2.1)).getD (s.readPa64 word)
    let kept := p.tableOld.map (fun e => if mine e then (e.1, e.2.1, stamp s1) else e)
    { p with tableOld := AMap.insert word (old, stamp s1) kept })).taint w.key

/-- A store to device memory performs (R110, R174). -/
def State.storeDev (s : State) (w : Who) (a : Acc) (pa space va : Nat) (leaf : BitVec 64) (bs : List Byte) : State :=
  let s := s.l2Access { pa := pa, asid := w.team.asid, space := space, va := va, hint := a.hint, rc := leafRc leaf, dirty := true, glob := leafG leaf }
  if s.mem.isTable pa then s.storeTable w a pa bs
  else if space = 7 then s.storeHome (a.core w) w.key w.pi pa bs
  else if versioned space a.ord a.scope a.strong then s.versionWrite w.key pa bs
  else
    let s := (s.sinkVersion w a pa bs.length).storeHome (a.core w) w.key w.pi pa bs
    if releases a.ord then s else s.taint w.key

/-- A store performs (R110, R174). The release's commit has been made. -/
def State.performStore (s : State) (w : Who) (a : Acc) (t : Target) (bs : List Byte) : State :=
  let pts := ((s.path w.key w.pi).map (·.pts)).getD 0
  match t with
  | .zeros => s
  | .gone => s
  | .scratch k off => s.modTeam k (fun t => t.scrPut off bs pts)
  | .dev pa space va leaf => s.storeDev w a pa space va leaf bs
  | .words ws =>
    (ws.zipIdx).foldl (fun s x =>
      match x.1 with
      | none => s
      | some (pa, va, leaf) => s.storeDev w { a with size := 4 } pa 7 va leaf ((bs.drop (4 * x.2)).take 4)) s
  | .host addr _ _ => ((s.writeHost addr bs).noteOut pts).taint w.key
  | .remote node off =>
    let s := { s with fab := { s.fab with
      leased := s.fab.leased.filter (fun l => !(l.node == node && l.line == lineOf off)) } }
    ((s.sendRemote w a node off (.store bs) .nothing).noteOut pts).taint w.key

/-- The new value of an atomic's word (R310, R342), or none when a compare fails. `n` is the word's bytes. -/
def atomicNew (op : AtomicOp) (n old x c : Nat) : Option Nat :=
  let m := 2 ^ (8 * n)
  let sg := fun v => toSigned (8 * n) v
  match op with
  | .add => some ((old + x) % m)
  | .and => some (old &&& x)
  | .or => some (old ||| x)
  | .xor => some (old ^^^ x)
  | .min => some (if sg old ≤ sg x then old else x)
  | .max => some (if sg old ≤ sg x then x else old)
  | .minu => some (min old x)
  | .maxu => some (max old x)
  | .swap => some x
  | .cas => if old = c then some x else none

/-- The records of the journal from number `i` at byte `pos` on: number, KIND and payload (R258). They end at the end of the
ring, or where no KIND with the next number in sequence stands. -/
def State.journalRecords (s : State) : Nat → Nat → Nat → List (Nat × Nat × List Byte)
  | 0, _, _ => []
  | fuel + 1, i, pos =>
    let hdr := ofBytes (s.readPa (s.dbg.jbase.toNat + pos) 8)
    let len := bits 55 32 hdr
    let kind := bits 63 56 hdr
    if kind = 0 ∨ 5 < kind ∨ bits 31 0 hdr ≠ i ∨ 2 ^ bits 12 8 s.dbg.jctl.toNat < pos + 8 + len then []
    else (i, kind, s.readPa (s.dbg.jbase.toNat + pos + 8) len) :: State.journalRecords s fuel (i + 1) (pos + 8 + len)

/-- The first record of a replay that satisfies a test and has not been taken (R259). -/
def State.nextRecord (s : State) (test : Nat → List Byte → Bool) : Option (Nat × List Byte) :=
  ((s.journalRecords (2 ^ bits 12 8 s.dbg.jctl.toNat / 8) 0 0).find? (fun r => !s.dbg.jtaken.contains r.1 && test r.2.1 r.2.2)).map
    (fun r => (r.1, r.2.2))

/-- A record of a replay is taken. -/
def State.takeRecord (s : State) (i : Nat) : State := { s with dbg := { s.dbg with jtaken := i :: s.dbg.jtaken, jcount := s.dbg.jcount + 1 } }

/-- The payload of a KIND 5 record: physical line, team identifier and order at the home slice (R258). -/
def atomicRecord (line : Nat) (team : BitVec 32) (order : Nat) : List Byte :=
  toBytes 8 line ++ toBytes 4 team.toNat ++ toBytes 4 order

/-- An atomic to a J page must wait for the atomics recorded before it on its line (R259). -/
def State.replayBlocks (s : State) (w : Who) (pa : Nat) (leaf : BitVec 64) : Bool :=
  leafJ leaf && bits 1 0 s.dbg.jctl.toNat == 2 &&
    match s.nextRecord (fun k d => k == 5 && ofBytes (d.take 8) == lineOf pa) with
    | some (_, d) => ofBytes ((d.drop 8).take 4) != w.team.teamId.toNat
    | none => false

/-- The journal's side of an atomic to a J page: recorded, or taken from the replay (R258, R259). -/
def State.journalAtomic (s : State) (w : Who) (pa : Nat) (leaf : BitVec 64) : State :=
  if !leafJ leaf then s
  else if bits 1 0 s.dbg.jctl.toNat = 2 then
    match s.nextRecord (fun k d => k == 5 && ofBytes (d.take 8) == lineOf pa) with
    | some (i, _) => s.takeRecord i
    | none => s
  else s.journal 5 (atomicRecord (lineOf pa) w.team.teamId (s.mem.stamps (lineOf pa)).2)

/-- The atomics of one step, applied in turn (R338): the bytes at the end, whether any wrote, and what each read. -/
def chainAtomics (fs : List (List Byte → Option (List Byte))) (old : List Byte) : List Byte × Bool × List (List Byte) :=
  fs.foldl (fun (r : List Byte × Bool × List (List Byte)) f =>
    match f r.1 with
    | some new => (new, true, r.2.2 ++ [r.1])
    | none => (r.1, r.2.1, r.2.2 ++ [r.1])) (old, false, [])

/-- Atomics perform on whole bytes in one step (R110, R310, R338, R343, R344): each of `fs` gives the new bytes, or none when
it writes nothing. What each read comes back, or nothing yet when a peer holds the bytes. -/
def State.performAtomic (s : State) (w : Who) (a : Acc) (t : Target) (fs : List (List Byte → Option (List Byte)))
    (remoteOp : PeerOp) (dest : LoadDest) : State × Option (List (List Byte)) :=
  match t with
  | .zeros => (s, some (fs.map (fun _ => List.replicate a.size 0)))
  | .gone =>
    (s.tick, some ((List.range fs.length).map (fun k =>
      (List.range a.size).map (fun i => Config.freeByte s.fresh (k * a.size + i)))))
  | .scratch k off =>
    let r := chainAtomics fs (((s.team k).map (fun t => t.scr off a.size)).getD [])
    let s := if acquires a.ord then s.acquireT w.key w.pi (((s.team k).map (fun t => t.scrT off a.size)).getD 0) else s
    let pts := ((s.path w.key w.pi).map (·.pts)).getD 0
    (if r.2.1 then s.modTeam k (fun t => t.scrPut off r.1 pts) else s, some r.2.2)
  | .words ws => (s, some (fs.map (fun _ => List.replicate (4 * ws.length) 0)))
  | .dev pa space va leaf =>
    let s := (s.l2Access { pa := pa, asid := w.team.asid, space := space, va := va, hint := a.hint, rc := leafRc leaf,
                           dirty := true, glob := leafG leaf }).journalAtomic w pa leaf
    let old := overlay (((s.team w.key).map (·.version)).getD []) pa (s.readPa pa a.size)
    let r := chainAtomics fs old
    let s := if r.2.1 then
        (if s.mem.isTable pa then s.storeTable w a pa r.1
         else (s.sinkVersion w a pa a.size).storeHome (a.core w) w.key w.pi pa r.1)
      else s.readAtomic w.key w.pi pa
    ((s.syncScope w a).taint w.key, some r.2.2)
  | .host addr _ _ =>
    let pts := ((s.path w.key w.pi).map (·.pts)).getD 0
    let r := chainAtomics fs (s.readHost addr a.size)
    let s := (s.emit (.rdOwn (lineOf addr))).syncOut w a
    let s := if r.2.1 then { s with mem := { s.mem with host := Tab.setList 0 addr r.1 s.mem.host } } else s
    let lines := AMap.modify (lineOf addr) (fun h => { h with data := none }) s.mem.hostLines
    let s := { s with mem := { s.mem with hostLines := lines, l2 := AMap.erase (l2Key 4 (lineOf addr)) s.mem.l2 } }
    (((s.emit (.dirtyEvict (lineOf addr))).noteOut pts).taint w.key, some r.2.2)
  | .remote node off =>
    let s := { s with fab := { s.fab with
      leased := s.fab.leased.filter (fun l => !(l.node == node && l.line == lineOf off)) } }
    let pts := ((s.path w.key w.pi).map (·.pts)).getD 0
    (((s.sendRemote w a node off remoteOp dest).noteOut pts).taint w.key, none)

/-- The accesses in flight of this path's scalar stream, with those of its lanes for a lane (R163, R164). -/
def State.inFlight (s : State) (w : Who) (lane : Bool) : List PendAccess :=
  s.allPend.filter (fun p =>
    p.tkey == w.key && p.teamId == w.team.teamId && p.path == w.pi && (lane || p.clause.isNone))

/-- A target lies in the line of an access in flight. -/
def PendAccess.meets (p : PendAccess) : Target → Bool
  | .host a _ _ => p.space == 4 && lineOf p.addr == lineOf a
  | .remote node off => p.space == 3 && lineOf p.addr == lineOf (node * 2 ^ 48 + off)
  | _ => false

/-- A write of a path to a peer that has not been acknowledged, by its scalar stream or by a clause (R47). -/
def State.writesOut (s : State) (w : Who) : Bool :=
  (s.inFlight w true).any (fun p => p.space == 3 && p.again.isNone)

/-- The access is a write to a table frame, which performs as a strong store at system scope (R124). -/
def Acc.toTable (a : Acc) (s : State) : Target → Bool
  | .dev pa _ _ _ => a.kind.writes && s.mem.isTable pa
  | _ => false

/-- The access must wait for earlier accesses of its agent that are in flight: a release for each of them, and at system scope for
every write of its path to a peer (R47), any access for an acquire and for an access to its line, and a strong access for a strong
one (R170 to R172). -/
def State.orderWait (s : State) (w : Who) (a : Acc) (t : Target) : Bool :=
  (s.inFlight w a.lane.isSome).any (fun p => releases a.ord || p.acq || (p.strong && (a.strong || a.toTable s t)) || p.meets t)
    || (releases a.ord && a.scope == 3 && s.writesOut w)

/-- A store enters the version of its task when it performs on this target (R124, R174). -/
def Acc.enters (a : Acc) (s : State) (t : Target) : Bool :=
  match t with
  | .dev pa space _ _ => a.kind == .store && versioned space a.ord a.scope a.strong && !s.mem.isTable pa
  | _ => false

/-- The first bytes that a target has in each piece of device memory. -/
def Target.devices : Target → List Nat
  | .dev pa _ _ _ => [pa]
  | .words ws => ws.filterMap (fun x => x.map (·.1))
  | _ => []

/-- The place of a path's write among those that wait (R46). -/
def Acc.turn (a : Acc) (w : Who) : BitVec 32 × Nat × Bool := (w.team.teamId, w.pi, a.lane.isSome)

/-- A line that a target lies in is held at its owner, before the path's own write to it (R46). -/
def State.targetHeld (s : State) (w : Who) (a : Acc) (t : Target) : Bool := t.devices.any (fun pa => s.lineHeldFor (a.turn w) pa)

/-- The places that the writes of one instruction take while the instruction waits, or have no longer once it performs (R46). -/
def State.placeTurns (s : State) (w : Who) (as : List (Acc × Target)) : State :=
  match as with
  | [] => s
  | (a, _) :: _ =>
    s.takeTurns (a.turn w) ((as.filter (fun e => e.1.kind.writes && !e.1.enters s e.2)).flatMap (fun e =>
      (e.2.devices.filter (fun pa => s.lineHeldFor (e.1.turn w) pa)).map lineOf))

/-- The places of a path's writes are given up. -/
def State.dropTurns (s : State) (w : Who) (lane : Bool) : State :=
  { s with fab := { s.fab with held := s.fab.held.filter (fun h => h.turn != some (w.team.teamId, w.pi, lane)) } }

/-- An earlier acquire of the path is in flight: no walk reads before it performs (R182). -/
def State.acquiring (s : State) (w : Who) (lane : Bool) : Bool := (s.inFlight w lane).any (·.acq)

/-- The issuing path waits for a lease with the writes of its instruction (R46). -/
def waitLease (s : State) (w : Who) (as : List (Acc × Target)) : State := (waitFor s w .lease).placeTurns w as

/-- The access must wait before it performs: for earlier accesses in flight (R170 to R172), for the requests to its line on a port
that has failed (R38), for a line that is held at its owner (R46), for a version id (R243), for a release's commit under a lease,
for a full journal (R258), or for a replay's order (R259). -/
def State.mustWait (s : State) (w : Who) (a : Acc) (t : Target) : Option Wait :=
  if s.orderWait w a t then some .fence
  else if releases a.ord ∧ 1 ≤ a.scope ∧ s.commitBlocked w.key then some .commit
  else if a.kind.writes ∧ a.enters s t = false ∧ s.targetHeld w a t then some .lease
  else
    match t with
    | .dev pa _ _ leaf =>
      if a.enters s t ∧ ¬ s.hasVersionId w.key then some .versionId
      else if a.enters s t ∧ s.roomBlocked (s.teamVersion w.key) (lineOf pa) then some .lease
      else if a.kind = .atomic ∧ leafJ leaf ∧ (s.journalFull 16 ∨ s.replayBlocks w pa leaf) then some .timeout
      else none
    | .remote node off => if s.portWaits (lineOf (node * 2 ^ 48 + off)) then some .fence else none
    | _ => none

/-- Atomics of one instruction have no room for all of their records in the journal (R258). -/
def State.atomicsFull (s : State) (as : List (Acc × Target)) : Bool :=
  let n := (as.filter (fun e => e.1.kind == .atomic && (match e.2 with
    | .dev _ _ _ leaf => leafJ leaf
    | _ => false))).length
  n != 0 && s.journalFull (24 * n - 8)

/-- The stores of one instruction have no room in the slices (R46, R244). -/
def State.storesBlocked (s : State) (w : Who) (as : List (Acc × Target)) : Bool :=
  s.roomsBlocked w.key ((as.filter (fun e => e.1.enters s e.2)).flatMap (fun e => e.2.devices.map lineOf))

/-! ## Data that returns -/

/-- A loaded value extended to 64 bits (R309). -/
def extendBytes (b : List Byte) (signed : Bool) : Word64 :=
  BitVec.ofInt 64 (if signed then toSigned (8 * b.length) (ofBytes b) else (ofBytes b : Int))

/-- A lane's registers from `first` take consecutive words of a load. -/
def Team.landWords (t : Team) (l : Nat) : Nat → List Byte → Nat → Team
  | _, _, 0 => t
  | first, b, n + 1 => Team.landWords (t.setV l first (BitVec.ofNat 32 (ofBytes (b.take 4)))) l (first + 1) (b.drop 4) n

/-- A lane takes the bytes of a load (R341). -/
def Team.landLane (t : Team) (l first : Nat) (mode : LoadMode) (b : List Byte) : Team :=
  match mode with
  | .packed => t.landWords l first b (b.length / 4)
  | .zeroExtend => t.setV l first (BitVec.ofNat 32 (ofBytes b))
  | .signExtend => t.setV l first (BitVec.ofInt 32 (toSigned (8 * b.length) (ofBytes b)))
  | .sixBits => t.setV l first (BitVec.ofNat 32 (ofBytes b % 64))
  | .each => t.landWords l first b (b.length / 4)

/-- Lanes of a team take the bytes of a load or atomic: the same ones, or `n` bytes each. -/
def Team.landEach (t : Team) (lanes : List Nat) (first n : Nat) (mode : LoadMode) (b : List Byte) : Team :=
  match mode with
  | .each => (lanes.zipIdx).foldl (fun t l => t.landLane l.1 first .packed ((b.drop (l.2 * n)).take n)) t
  | m => lanes.foldl (fun t l => t.landLane l first m b) t

/-- Lanes of a resident team take the bytes of a load or atomic. -/
def State.landLanes (s : State) (key : Nat) (lanes : List Nat) (first n : Nat) (mode : LoadMode) (b : List Byte) : State :=
  s.modTeam key (fun t => t.landEach lanes first n mode b)

/-- One operation of a clause of a path has finished (R193). -/
def Path.clauseDone (p : Path) (id n : Nat) : Path :=
  let f := fun (c : Clause) => if c.id = id then { c with pend := c.pend - n } else c
  { p with run := p.run.map f, done := p.done.map f }

/-- The path or the clause of an access in flight counts it no longer (R193, R294). -/
def State.finishAccess (s : State) (p : PendAccess) : State :=
  if ((s.team p.tkey).map (·.teamId)) ≠ some p.teamId then s
  else
    s.modTeam p.tkey (fun t => t.landPath p.path (fun q =>
      match p.clause with
      | some c => q.clauseDone c 1
      | none => { q with pendScalar := q.pendScalar.filter (fun x => x.req != p.id) }))

/-- The data of an access in flight enters its registers (R193, R294, R341), and the access ends. A strong one follows what agents
outside the cores have written before (R172, R178). -/
def State.landAccess (s : State) (p : PendAccess) (b : List Byte) : State :=
  if ((s.team p.tkey).map (·.teamId)) ≠ some p.teamId then s
  else
    let s := if p.strong then s.acquireT p.tkey p.path s.mem.outT else s
    (match p.dest with
      | .scalar sd size signed =>
        s.modTeam p.tkey (fun t => t.landPath p.path (fun q => q.setS (BitVec.ofNat 6 sd) (extendBytes (b.take size) signed)))
      | .lane lanes first n mode => s.landLanes p.tkey (lanesOf lanes 1024) first n mode b
      | .nothing => s).finishAccess p

/-! ## Watchpoints -/

/-- A watchpoint matches an access (R254). -/
def watchHit (s : State) (w : Who) (a : Acc) (x : Watch) : Bool :=
  let kindOk := (x.kind == 1 && !a.kind.writes) || (x.kind == 2 && a.kind.writes) || x.kind == 3 || a.kind == .atomic
  let lo := x.base.toNat
  kindOk && (
    if x.space = 0 then
      decide (spaceOf a.addr ≤ 2) && decide (lowAddr a.addr < bits 51 0 lo + x.len)
        && decide (bits 51 0 lo < lowAddr a.addr + a.size)
    else
      spaceOf a.addr == 6 && (windowKey s w (bits 27 22 a.addr.toNat)).any (fun k =>
        ((s.team k).map (·.teamId)) == some x.team)
        && decide (bits 21 0 a.addr.toNat < lo + x.len) && decide (lo < bits 21 0 a.addr.toNat + a.size))

/-- The watchpoints that some accesses match in the attached ASID, with the lanes that match each (R254). -/
def watchMatch (s : State) (w : Who) (as : List Acc) : List (Nat × Mask) :=
  if s.dbg.attached ≠ some (BitVec.ofNat 12 w.team.asid) then []
  else
    s.dbg.watches.filterMap (fun x =>
      let hits := as.filter (fun a => watchHit s w a x.2)
      if hits.isEmpty then none else some (x.1, maskOf (hits.map (fun a => a.lane.getD 0))))

/-- Matches of two parts of one instruction, together. -/
def mergeWatched (a b : List (Nat × Mask)) : List (Nat × Mask) :=
  b.foldl (fun m e => AMap.insert e.1 (e.2 ||| (AMap.find m e.1).getD 0) m) a

end Sys2Proof.Machine
end

