-- ==== Sys2Proof/Machine/RegUse.lean ====
section
/-!
DEFINITION. The vector registers that lane instructions use: element types in registers (R187, R205), register groups (R186 to R190),
those of each instruction (R318 to R370), and the interlock between them (R194, R356).
-/

namespace Sys2Proof.Machine

/-! ## Masks (R185) -/

/-- Lanes in a group (R76). -/
def Kdesc.group (k : Kdesc) : Nat := if k.gw = 0 then 16 else if k.gw = 1 then 32 else 64

/-- A group of a mask is not empty: the group's bit in the summary (R185, R196). -/
def Kdesc.groupBit (k : Kdesc) (m : Mask) (g : Nat) : Bool :=
  decide (g < k.lanes / k.group) && (List.range k.group).any (fun i => m.getLsbD (g * k.group + i))

/-- The summary of a mask: one bit for each group (R185, R196). -/
def Kdesc.summary (k : Kdesc) (m : Mask) : BitVec 64 :=
  BitVec.ofNat 64 ((List.range 64).foldr (fun g n => (if k.groupBit m g then 1 else 0) + 2 * n) 0)

/-- Pass `p`, which takes the physical lanes 32p to 32p + 31, runs for a mask: a group that it serves is not empty (R185). -/
def Kdesc.passRuns (k : Kdesc) (m : Mask) (p : Nat) : Bool :=
  if k.group = 16 then k.groupBit m (2 * p) || k.groupBit m (2 * p + 1)
  else if k.group = 32 then k.groupBit m p else k.groupBit m (p / 2)

/-- The passes that the datapath runs, in order (R185). -/
def Kdesc.passes (k : Kdesc) (m : Mask) : List Nat := (List.range 32).filter (k.passRuns m)

/-! ## Element types in registers (R187, R205) -/

/-- The type occupies a register pair (R187). -/
def is64 (ty : Nat) : Bool := ty == 2 || ty == 3 || ty == 5

/-- Registers of a value of a type. -/
def regsOf (ty : Nat) : Nat := if is64 ty then 2 else 1

/-- Width of a packed element in bits (R205). -/
def elemBits (ty : Nat) : Nat :=
  if is64 ty then 64 else if 8 ≤ ty ∧ ty ≤ 11 then 8 else if ty = 6 ∨ ty = 7 ∨ ty = 12 ∨ ty = 13 then 16 else 32

/-- Packed elements of a register, or one in a pair (R205). -/
def packCount (ty : Nat) : Nat := if is64 ty then 1 else 32 / elemBits ty

/-- Element `e` of a register or pair. -/
def elemAt (ty x e : Nat) : Nat := x / 2 ^ (elemBits ty * e) % 2 ^ elemBits ty

/-- A register or pair of the given elements, element 0 first. -/
def packElems (ty : Nat) (es : List Nat) : Nat := es.foldr (fun e r => e % 2 ^ elemBits ty + 2 ^ elemBits ty * r) 0

/-- A register or pair with one element replaced. -/
def setElem (ty x e v : Nat) : Nat :=
  packElems ty ((List.range (packCount ty)).map (fun i => if i = e then v else elemAt ty x i))

/-- One value in every packed element. -/
def broadcast (ty v : Nat) : Nat := packElems ty (List.replicate (packCount ty) v)

/-- A register or pair of a lane, as a number. -/
def Team.rd (t : Team) (ty l n : Nat) : Nat := if is64 ty then (t.v64 l n).toNat else (t.v l n).toNat

/-- The team with a register or pair of a lane written. -/
def Team.wr (t : Team) (ty l n x : Nat) : Team :=
  if is64 ty then t.setV64 l n (BitVec.ofNat 64 x) else t.setV l n (BitVec.ofNat 32 x)

/-! ## Register groups and index registers (R188, R190) -/

/-- A group of registers that an instruction reads or writes. -/
structure RegGroup where
  first : Nat
  count : Nat
  /-- The first register must be even (R187). -/
  even : Bool
  write : Bool
  deriving DecidableEq, Repr

/-- Two groups have a register in common. -/
def RegGroup.meets (a b : RegGroup) : Bool := decide (a.first < b.first + b.count) && decide (b.first < a.first + a.count)

/-- The group of an operand of a type: `k` registers or pairs. -/
def group (ty : Nat) (n : BitVec 8) (k : Nat) (write : Bool) : RegGroup :=
  { first := n.toNat, count := k * regsOf ty, even := is64 ty, write := write }

/-- A group of `k` 32-bit registers of an instruction whose class has 32-bit types alone: a 64-bit TYPE still needs an even register, which
is checked before the class (R187, R292). -/
def wordsGroup (ty : Nat) (n : BitVec 8) (k : Nat) (write : Bool) : RegGroup := { group 14 n k write with even := is64 ty }

/-- A group breaks R186, R187 or R190. -/
def RegGroup.refused (g : RegGroup) (vcount : Nat) : Bool := decide (vcount < g.first + g.count) || (g.even && g.first % 2 == 1)

/-- BASE, LIMIT and INDEX of an index register (R188). -/
def xBase (x : Word32) : Nat := (field x 16 8).toNat
def xLimit (x : Word32) : Nat := (field x 8 8).toNat
def xIndex (x : Word32) : Nat := (field x 0 8).toNat

/-- The first register that b-operand select 3 names in a lane (R188). -/
def indexed (t : Team) (f : LaneFields) (ty l : Nat) : Nat :=
  let x := t.x l (f.vb.toNat % 8)
  xBase x + xIndex x * regsOf ty

/-- FR of a format register (R212). -/
def fmtFr (fmt : BitVec 32) : Nat := bits 11 8 fmt.toNat

/-! ## The register interlock (R194, R356) -/

/-- The registers of a step of an MLOOP (R358): of A and of B. -/
def stepRegs (fa fb : Nat) (paired : Bool) : Nat × Nat :=
  let n := if fa = 9 ∧ fb = 9 then 2 else 1
  (if paired then 2 * n else n, n)

/-- The registers that a matrix instruction in the sequencer has yet to read or write (R356). -/
def MatOp.groups (m : MatOp) : List RegGroup :=
  match m.kind with
  | .mloop a b steps incA incB scale paired next =>
    let r := stepRegs (bits 3 0 m.fmt.toNat) (bits 7 4 m.fmt.toNat) paired
    ((List.range (steps - next)).flatMap (fun i =>
      [({ first := a + (next + i) * incA, count := r.1, even := false, write := false } : RegGroup),
       { first := b + (next + i) * incB, count := r.2, even := false, write := false }]))
    ++ (match scale with
      | none => []
      | some v => [{ first := v, count := 1, even := false, write := false }])
  | .mrd vd _ _ => [{ first := vd, count := regsOf (fmtFr m.fmt), even := false, write := true }]
  | .mwr va _ _ _ _ _ => [{ first := va, count := 1, even := false, write := false }]
  | .mzero => [] | .mstat _ => [] | .drain _ => []

/-- The operation writes a scalar register of a path. -/
def MatOp.writes (m : MatOp) (pi sd : Nat) : Bool :=
  m.path == pi && (match m.kind with
    | .mstat d => d == sd
    | _ => false)

/-- The vector registers that a load in flight will write. -/
def PendAccess.group (p : PendAccess) : Option RegGroup :=
  match p.dest with
  | .lane _ first n _ => some { first := first, count := (n + 3) / 4, even := false, write := true }
  | _ => none

/-- The registers that loads in flight of a team will write (R194). -/
def State.pendingLoads (s : State) (key : Nat) : List RegGroup :=
  (s.allPend.filter (fun p => p.tkey == key && ((s.team key).map (·.teamId)) == some p.teamId)).filterMap PendAccess.group

/-- The registers of a team with long-latency reads and writes pending (R194, R356). -/
def State.pendingRegs (s : State) (key : Nat) : List RegGroup :=
  s.pendingLoads key ++ (((s.team key).map (·.seq)).getD []).flatMap MatOp.groups

/-- Two uses of registers must not pass each other: one of them writes. -/
def RegGroup.blocks (a b : RegGroup) : Bool := (a.write || b.write) && a.meets b

/-- The instruction waits for a register (R194, R356). -/
def State.interlocked (s : State) (key : Nat) (gs : List RegGroup) : Bool :=
  (s.pendingRegs key).any (fun p => gs.any (fun g => p.blocks g))

/-! ## The registers of each instruction -/

/-- The instruction's address has an index register (R269). -/
def hasIndex (f : LaneFields) : Bool := f.md.getLsbD 3

/-- SCL of an MLOOP (R358). -/
def hasScale (f : LaneFields) : Bool := f.md.getLsbD 4

/-- The index register that an address reads. -/
def indexGroup (f : LaneFields) : List RegGroup := if hasIndex f then [group 14 f.va 1 false] else []

/-- NORET, and the MX bits that an atomic refuses. -/
def noret (f : LaneFields) : Bool := f.md.getLsbD 4

/-- The destination type of VCVT (R291). -/
def cvtDest (f : LaneFields) : Nat := (field f.md 0 4).toNat

/-- A single 32-bit register as a group: a status or pivot register (R364). -/
def wordGroup (n : BitVec 8) (write : Bool) : RegGroup := group 14 n 1 write

/-- The source group of a matrix operand. -/
def qSrc (f : LaneFields) (n : BitVec 8) (k : Nat) : RegGroup := group f.ty.toNat n k false

/-- F1, F2, F3 and TAU of IMM (R364). -/
def qF1 (f : LaneFields) : Nat := (field f.imm 0 3).toNat
def qF2 (f : LaneFields) : Nat := (field f.imm 3 3).toNat
def qF3 (f : LaneFields) : Nat := (field f.imm 6 3).toNat
def qTau (f : LaneFields) : Nat := (field f.imm 9 6).toNat

/-- Shape fields of QLD and QST, in vc (R364). -/
def qvF1 (f : LaneFields) : Nat := (field f.vc 0 3).toNat
def qvF2 (f : LaneFields) : Nat := (field f.vc 3 3).toNat

/-- The b operand of `k` registers or pairs, in the lanes of a mask (R267). -/
def bUses (t : Team) (m : Mask) (f : LaneFields) (ty k : Nat) : List RegGroup :=
  if f.bsel = 0 then [group ty f.vb k false]
  else if f.bsel = 3 then
    ((lanesOf m t.k.lanes).map (fun l =>
      ({ first := indexed t f ty l, count := k * regsOf ty, even := false, write := false } : RegGroup))).eraseDups
  else []

/-- The vector registers that a lane instruction of a clause waits for at issue: those that it reads and writes (R318 to R370), as its
team stands, and the destination of an MRD in the clause's format. The other matrix instructions use theirs from the sequencer (R356). -/
def laneUses (t : Team) (m : Mask) (fmt : BitVec 32) : Instr → List RegGroup
  | .vadd f | .vsub f | .vmul f | .vmulh f | .vdiv f | .vrem f | .vmin f | .vmax f | .vadds f | .vsubs f | .vand f | .vor f | .vxor f
  | .vandn f | .vshl f | .vshr f | .vrol f | .vbfx f | .vsel f | .vfadd f | .vfsub f | .vfmul f | .vfdiv f | .vfmin f | .vfmax f
  | .vshfli f | .vshflx f | .vshflu f | .vshfld f =>
    group f.ty.toNat f.vd 1 true :: group f.ty.toNat f.va 1 false :: bUses t m f f.ty.toNat 1
  | .vmad f | .vfma f =>
    group f.ty.toNat f.vd 1 true :: group f.ty.toNat f.va 1 false :: group f.ty.toNat f.vc 1 false :: bUses t m f f.ty.toNat 1
  | .vabs f | .vneg f | .vnot f | .vclz f | .vpopc f | .vbrev f | .vfsqrt f | .vfrsq f | .vfexp2 f | .vflog2 f | .vfabs f | .vfneg f =>
    [group f.ty.toNat f.vd 1 true, group f.ty.toNat f.va 1 false]
  | .vcvt f => [group (cvtDest f) f.vd 1 true, group f.ty.toNat f.va 1 false]
  | .vmov f => group f.ty.toNat f.vd 1 true :: bUses t m f f.ty.toNat 1
  | .vcmpeq f | .vcmpne f | .vcmplt f | .vcmple f | .vcmpgt f | .vcmpge f | .vfcmpeq f | .vfcmpne f | .vfcmplt f | .vfcmple f
  | .vfcmpgt f | .vfcmpge f => group f.ty.toNat f.va 1 false :: bUses t m f f.ty.toNat 1
  | .vprefix f | .vlaneid f | .vxmov f => [group 0 f.vd 1 true]
  | .vxset f | .vxadd f => bUses t m f 0 1
  | .tnmask f => group 0 f.vd 1 true :: group 0 f.va 1 false :: bUses t m f 0 1
  | .vld f => group f.ty.toNat f.vd 1 true :: indexGroup f
  | .vld2 f => group f.ty.toNat f.vd 2 true :: indexGroup f
  | .vld4 f => group f.ty.toNat f.vd 4 true :: indexGroup f
  | .vst f => bUses t m f f.ty.toNat 1 ++ indexGroup f
  | .vst2 f => bUses t m f f.ty.toNat 2 ++ indexGroup f
  | .vst4 f => bUses t m f f.ty.toNat 4 ++ indexGroup f
  | .vaadd f | .vaand f | .vaor f | .vaxor f | .vamin f | .vamax f | .vaswap f =>
    (if noret f then [] else [group f.ty.toNat f.vd 1 true]) ++ bUses t m f f.ty.toNat 1 ++ indexGroup f
  | .vacas f =>
    (if noret f then [] else [group f.ty.toNat f.vd 1 true]) ++ group f.ty.toNat f.vc 1 false :: bUses t m f f.ty.toNat 1
      ++ indexGroup f
  | .vlaor f | .vlaand f | .vlaxor f => (if noret f then [] else [group 14 f.vd 16 true]) ++ bUses t m f 14 16 ++ indexGroup f
  | .vspill f => [group 14 f.vb 1 false]
  | .mrd f => [group (fmtFr fmt) f.vd 1 true]
  | .vfill f => [group 14 f.vd 1 true]
  | .mloop f | .mloopp f => if hasScale f then [group 14 f.vc 1 false] else []
  | .qld f => group f.ty.toNat f.vd (qvF1 f * qvF2 f) true :: indexGroup f
  | .qst f => group f.ty.toNat f.vb (qvF1 f * qvF2 f) false :: indexGroup f
  | .qmov f | .qtrn f => [group f.ty.toNat f.vd (qF1 f * qF2 f) true, qSrc f f.va (qF1 f * qF2 f)]
  | .qadd f => [group f.ty.toNat f.vd (qF1 f * qF2 f) true, qSrc f f.va (qF1 f * qF2 f), qSrc f f.vb (qF1 f * qF2 f)]
  | .qscl f => group f.ty.toNat f.vd (qF1 f * qF2 f) true :: qSrc f f.va (qF1 f * qF2 f) :: bUses t m f f.ty.toNat 1
  | .qmul f => [group f.ty.toNat f.vd (qF1 f * qF3 f) true, qSrc f f.va (qF1 f * qF2 f), qSrc f f.vb (qF2 f * qF3 f)]
  | .qmad f =>
    [group f.ty.toNat f.vd (qF1 f * qF3 f) true, qSrc f f.va (qF1 f * qF2 f), qSrc f f.vb (qF2 f * qF3 f),
      qSrc f f.vc (qF1 f * qF3 f)]
  | .qchol f => [group f.ty.toNat f.vd (qF1 f * qF1 f) true, qSrc f f.va (qF1 f * qF1 f), wordGroup f.vb true]
  | .qlup f =>
    [group f.ty.toNat f.vd (qF1 f * qF1 f) true, qSrc f f.va (qF1 f * qF1 f), wordGroup f.vb true, wordGroup f.vc true]
  | .qsolc f => [group f.ty.toNat f.vd (qF1 f * qF3 f) true, qSrc f f.va (qF1 f * qF1 f), qSrc f f.vb (qF1 f * qF3 f)]
  | .qsoll f =>
    [group f.ty.toNat f.vd (qF1 f * qF3 f) true, qSrc f f.va (qF1 f * qF1 f), qSrc f f.vb (qF1 f * qF3 f), wordGroup f.vc false]
  | .qdet f => group f.ty.toNat f.vd 1 true :: qSrc f f.va (qF1 f * qF1 f) :: (if f.md.getLsbD 0 then [wordGroup f.vc false] else [])
  | _ => []

/-- The registers that long-latency operations in flight will write (R194): loads, and MRD. -/
def State.pendingWrites (s : State) (key : Nat) : List RegGroup := (s.pendingRegs key).filter (·.write)

/-- An instruction of a clause that has not started uses a register with a pending long-latency write, which an earlier clause of its
team issued: the clause is not eligible (R194). -/
def State.clauseWaitsRegs (s : State) (key : Nat) (t : Team) (c : Clause) : Bool :=
  let pend := s.pendingWrites key
  !pend.isEmpty && c.body.any (fun w => (laneUses t c.mask c.fmt (decodeLane w)).any (fun g => pend.any (fun p => p.meets g)))

end Sys2Proof.Machine
end

