-- ==== Sys2Proof/Machine/Fetch.lean ====
section
/-!
DEFINITION. What is issued next and how its word is fetched: the choices of the scalar unit and the datapath (R86, R87),
the stops and timers tested before an instruction (R251, R253, R254), trials (R256), and instruction fetch (R261, R262).
-/

namespace Sys2Proof.Machine

/-! ## The scalar unit's choice (R86) -/

/-- The numbers from `start + 1` round to `start`, modulo `n`. -/
def rotate (n start : Nat) : List Nat := (List.range n).map (fun i => (start + 1 + i) % n)

/-- The path is one that a debug step holds after its scalar instruction (R255). -/
def State.stepHolds (s : State) (key pi : Nat) : Bool :=
  match s.dbg.stepping with
  | some d => d.issued && s.stepOf key pi
  | none => false

/-- What a path waits for outside its team has come (R86): a version id (R243), or a continuation slot (R198). -/
def State.slotFree (s : State) (key : Nat) (t : Team) (p : Path) : Bool :=
  match p.wait with
  | some .versionId => s.hasVersionId key
  | some .contSlot => ((s.launch t.launch).map (fun l => decide (l.contSlots.length < 2 ^ (t.k.calog2 - 1) / 1088))).getD false
  | _ => true

/-- The lowest-indexed running path of a team: one that is neither stopped nor parked. -/
def Team.lowestRunning (t : Team) : Option Nat :=
  ((t.paths.filter (fun p => p.2.park.isNone && p.2.stop.isNone)).head?).map (·.1)

/-- A team runs: it is not being saved or restored, and neither is any other team of its neighbourhood, which no thread reaches until it
has been restored (R92, R95, R101). -/
def State.awake (s : State) (t : Team) : Bool :=
  decide (t.phase = .running)
    && !s.teams.any (fun e => e.2.launch == t.launch && e.2.nbh == t.nbh && decide (e.2.phase = .restoring))

/-- A path of a restored team may go on: what its save cancelled has been issued again (R95), and the event of a deadline that passed
meanwhile has been taken, by the lowest-indexed running path (R251). -/
def Team.mayGo (t : Team) (pi : Nat) : Bool :=
  !t.replays.any (fun p => p.path == pi) && (!t.dueFirst || t.handler.isSome || t.lowestRunning == some pi)

/-- A path of a team is ready (R86); a team being saved or restored issues nothing. -/
def State.pathReady (s : State) (key pi : Nat) : Bool :=
  match s.team key with
  | none => false
  | some t =>
    s.awake t && t.mayGo pi && !s.stepHolds key pi
      && ((AMap.find t.paths pi).map (fun p => p.ready && s.slotFree key t p)).getD false

/-- The slot and path that the scalar unit of a core issues next (R86). -/
def chooseScalar (s : State) (core : Nat) : Option (Nat × Nat) :=
  if s.dev.stopped then none
  else
    (rotate 16 (s.core core).lastSlot).findSome? (fun slot =>
      ((rotate 8 (Tab.get 7 (s.core core).lastPath slot)).find? (fun pi => s.pathReady (teamKey core slot) pi)).map
        (fun pi => (slot, pi)))

/-! ## Before an instruction -/

/-- Which timers of a team are due: bit 0 the context timer, bit 1 the wall deadline (R251). -/
def timersDue (s : State) (t : Team) : Nat :=
  (if t.tcmp ≠ 0 ∧ t.tcmp.toNat ≤ t.ccyc.toNat then 1 else 0)
    + (if t.tdln ≠ 0 ∧ t.tdln.toNat ≤ s.dev.wall.toNat then 2 else 0)

/-- The address of a lane instruction of a clause (R261). -/
def Clause.laneAddr (c : Clause) : Word64 := c.addr + BitVec.ofNat 64 (12 * (c.pos + 1))

/-- A timer of a team is due, which its lowest-indexed running path takes at its next instruction boundary: not inside an instruction that
has performed (R251, R375), and not in a handler. -/
def State.timerWaits (s : State) (t : Team) (pi : Nat) (p : Path) : Bool :=
  timersDue s t != 0 && t.handler.isNone && t.lowestRunning == some pi && !p.within

/-- The TIMER event of a team (R251): the registers that fired are cleared, and its lowest-indexed running path takes
one event, inside its clause when the datapath runs it. -/
def State.fireTimers (s : State) (key : Nat) : State :=
  match s.team key with
  | none => s
  | some t =>
    let due := timersDue s t
    match t.lowestRunning with
    | none => s
    | some pi =>
      match AMap.find t.paths pi with
      | none => s
      | some p =>
        if due = 0 ∨ p.within ∨ t.handler.isSome ∨ (s.commitBlocked key ∧ s.dbg.attached ≠ some (BitVec.ofNat 12 t.asid)) then s
        else
          let inClause := (s.core (keyCore key)).running == some (keySlot key, pi)
          let c := if inClause then p.run else none
          let s := s.modTeam key (fun t =>
            { t with tcmp := if due % 2 = 1 then 0 else t.tcmp, tdln := if 2 ≤ due then 0 else t.tdln, dueFirst := false })
          s.trapEvent key pi
            { cls := .timer, info := due, epc := p.spc, elc := (c.map Clause.laneAddr).getD 0, va := 0,
              mask := (c.map (·.mask)).getD p.mask, lane := c.isSome }

/-- The comparator that a scalar PC equals in the attached ASID (R254). -/
def State.comparatorHit (s : State) (asid : Nat) (spc : Word64) : Option Nat :=
  if s.dbg.attached = some (BitVec.ofNat 12 asid) then
    (s.dbg.comparators.find? (fun c => c.2 == spc)).map (·.1)
  else none

/-- What happens instead of issuing a path's next scalar instruction: a comparator or a timer (R251, R254). -/
def beforeScalar (s : State) (w : Who) : Option State :=
  if s.timerWaits w.team w.pi w.path then some (s.fireTimers w.key)
  else
    match s.comparatorHit w.team.asid w.path.spc with
    | some i => some (s.stopPath w.key w.pi TrapClass.breakpoint.code i w.path.mask)
    | none => none

/-- A trial counts an instruction issued outside its range, and delays the path after each N of them (R256). An
instruction that is issued again after a wait is not counted again. -/
def State.countTrial (s : State) (w : Who) : State :=
  let ctl := s.dbg.cxctl.toNat
  let spc := w.path.spc.toNat
  if ctl % 2 = 0 ∨ bits 63 52 ctl ≠ w.team.asid ∨ w.path.wait.isSome
      ∨ (s.dbg.cxlo.toNat ≤ spc ∧ spc < s.dbg.cxhi.toNat) then s
  else
    let d := bits 15 8 ctl
    if bits 47 32 ctl ≤ w.path.cxCount then
      { s.onPath w (fun p => { p with cxCount := 0, cxDelay := d }) with
        dbg := { s.dbg with cxdly := s.dbg.cxdly + BitVec.ofNat 64 d } }
    else s.onPath w (fun p => { p with cxCount := p.cxCount + 1 })

/-! ## Fetch -/

/-- A fetch of bytes with execute permission, at a virtual address in space 0x0 (R123, R261, R262). -/
inductive FetchEnd where
  | bytes (b : List Byte)
  | held (i : FaultInfo)
  | trap (c : TrapClass)
  /-- The A update of its leaf waits for a lease (R46). -/
  | later
  deriving DecidableEq, Repr

/-- The bytes of one piece of a fetch, which lies in one page. An address with bits [63:52] set is outside space 0x0
(R96, R299). -/
def State.fetchPiece (s : State) (w : Who) (va n : Nat) : State × FetchEnd :=
  if 2 ^ 52 ≤ va then (s, .trap .badSpace)
  else
  match s.translate { core := w.core, asid := w.team.asid, host := false, va := va % 2 ^ 52, kind := .fetch, lpr := none } with
  | (s, .ok pa leaf) =>
    if leafDisc leaf then (s, .bytes (List.replicate n 0))
    else if s.mem.badLines.contains (lineOf pa) then (s, .trap .uncorrectable)
    else (s.viewTouch (.dev pa), .bytes (s.readPa pa n))
  | (s, .fault c l e) => (s, .held (faultInfo .fetch (BitVec.ofNat 64 va) 0 c l e))
  | (s, .protection) => (s, .trap .protection)
  | (s, .uncorrectable) => (s, .trap .uncorrectable)
  | (s, .leased) => (s, .later)

/-- A fetch of `n` 4-byte words from an address. -/
def State.fetchWords (s : State) (w : Who) : Nat → Nat → State × FetchEnd
  | _, 0 => (s, .bytes [])
  | va, n + 1 =>
    match s.fetchPiece w va 4 with
    | (s1, .bytes b) =>
      match State.fetchWords s1 w (va + 4) n with
      | (s2, .bytes bs) => (s2, .bytes (b ++ bs))
      | r => r
    | r => r

/-- A fetch that did not give its bytes: the path parks, or traps (R262). In a handler a held class is an error (R248). -/
def State.fetchFailed (s : State) (w : Who) : FetchEnd → State
  | .bytes _ => s
  | .held i => if w.team.handler.isSome then trapScalar s w .pageFault i.va
               else s.parkAt w.key w.pi .pageFault 0 false (some i)
  | .trap c => trapScalar s w c w.path.spc
  | .later => waitFor s w .lease

/-! ## The datapath's choice (R87) -/

/-- The clause that a path can start or resume: the one it has started and not stopped, or the head of its queue when its
wait mask is clear, no earlier clause is started and none of its registers has a pending write (R87, R191, R193, R194). A stopped
path starts none, and a started clause of it runs on unless the stop fell inside it (R254). -/
def State.canRun (s : State) (key : Nat) (t : Team) (p : Path) : Bool :=
  p.park.isNone &&
  match p.run with
  | some c => !c.stopped
  | none =>
    match p.queue with
    | c :: _ => p.stop.isNone && p.clauseEligible c && !s.clauseWaitsRegs key t c
    | [] => false

/-- The slot and path whose clause the datapath of a core takes next, that of a paired team on both cores (R87, R88). -/
def chooseClause (s : State) (core : Nat) : Option (Nat × Nat) :=
  if s.dev.stopped then none
  else
    (rotate 16 (s.core core).lastClauseSlot).findSome? (fun slot =>
      match s.team (teamKey core slot) with
      | none => none
      | some t =>
        if !s.awake t || (teamCores core t).any (fun c => (s.core c).running.isSome) then none
        else ((List.range 8).find? (fun pi =>
          t.mayGo pi && ((AMap.find t.paths pi).map (s.canRun (teamKey core slot) t)).getD false)).map (fun pi => (slot, pi)))

/-- The lane instruction at the head of the clause that a core runs. -/
def laneHead (s : State) (core : Nat) : Option (Nat × Nat × BitVec 96) :=
  match (s.core core).running with
  | none => none
  | some (slot, pi) =>
    match (s.path (teamKey core slot) pi).bind (·.run) with
    | none => none
    | some c => (c.body.head?).map (fun x => (slot, pi, x))

end Sys2Proof.Machine
end

