-- ==== Sys2Proof/Machine/Stepping.lean ====
section
/-!
DEFINITION. Path records and the debug step (R252 to R255, R419), and what is issued by each agent that moves (R86, R87,
R54): the instruction, with the state it issues in.
-/

namespace Sys2Proof.Machine

/-! ## Responses -/

/-- The header of a request, with a value for IDX (R252, R419). -/
def requestHeader (r : DebugReq) (idx : Nat) : List Byte :=
  toBytes 8 (r.team.toNat + idx % 256 * 2 ^ 32 + r.path.toNat * 2 ^ 40 + r.asid.toNat * 2 ^ 44 + r.cmd.toNat * 2 ^ 56)
    ++ toBytes 8 r.arg0.toNat

/-- A request completes: RSP, DCODE and DONE are written (R25, R252). -/
def State.respond (s : State) (r : DebugReq) (code idx : Nat) (data : List Byte) : State :=
  { s with dbg := { s.dbg with
      rsp := Tab.setList 0 0 (requestHeader r idx ++ data ++ List.replicate (4080 - data.length) 0) s.dbg.rsp,
      dcode := BitVec.ofNat 8 code, done := true, busy := false } }

/-- A request completes without path records: the echoed IDX stays. -/
def State.respondPlain (s : State) (r : DebugReq) (code : Nat) : State := s.respond r code r.idx.toNat []

/-- A request completes with path records (R419). -/
def State.respondRecords (s : State) (r : DebugReq) (recs : List (List Byte)) : State :=
  s.respond r 0 recs.length recs.flatten

/-! ## STEP (R255) -/

/-- The numbers of the clauses that a path holds. -/
def Path.clauseIds (p : Path) : List Nat := (p.queue ++ p.started).map (·.id)

/-- The resident team with an identifier. -/
def State.findTeam (s : State) (id : BitVec 32) : Option (Nat × Team) := s.teams.find? (fun e => e.2.teamId == id)

/-- The DCODE of a request that names a team: 2 when its ASID is not the one attached, 3 when there is no such team
(R252). -/
def State.debugTeam (s : State) (id : BitVec 32) : Except Nat (Nat × Team) :=
  match s.dbg.attached, s.findTeam id with
  | none, _ => .error 2
  | some _, none => .error 3
  | some a, some (k, t) => if a.toNat = t.asid then .ok (k, t) else .error 2

/-- A path's stop is released: it issues again, and a clause that the stop fell inside runs on (R254). -/
def Path.release (p : Path) : Path :=
  { p with stop := none,
           run := if p.park.isSome then p.run else p.run.map (fun c => { c with stopped := false }) }

/-- STEP begins (R255), or is refused with a DCODE. -/
def State.beginStep (s : State) (r : DebugReq) (byPath : Option (Nat × Nat)) : Except Nat State :=
  match s.debugTeam r.team with
  | .error c => .error c
  | .ok (key, t) =>
    if 8 ≤ r.path.toNat then .error 1
    else
      match AMap.find t.paths r.path.toNat with
      | none => .error 3
      | some p =>
        match p.stop with
        | none => .error 5
        | some st =>
          let d : DebugStep :=
            { req := r, tkey := key, path := r.path.toNat, issued := false, clause := none, watch := none, child := none,
              byPath := byPath, was := st }
          let s := s.modPath key r.path.toNat Path.release
          .ok { s with dbg := { s.dbg with stepping := some d } }

/-- A DCODE of the shared operations as the mailbox gives it: a team of another ASID is none of the attached one's. -/
def mailCode (c : Nat) : Nat := if c = 2 then 3 else c

/-- The STEP of the mailbox that waited for the step in hand begins (R255). -/
def State.beginNext (s : State) : State :=
  match s.dbg.stepNext with
  | none => s
  | some r =>
    let s := { s with dbg := { s.dbg with stepNext := none } }
    match s.beginStep r none with
    | .error c => s.respondPlain r (mailCode c)
    | .ok s => s

/-- A step ends: its answer goes to the mailbox, or to DRES, and then the CRW that asked for it completes (R382), in the path table or in
the block that a handler keeps. -/
def State.endStep (s : State) (d : DebugStep) (code : Nat) (recs : List (List Byte)) : State :=
  let s := { s with dbg := { s.dbg with stepping := none } }
  (match d.byPath with
    | none => if code = 0 then s.respondRecords d.req recs else s.respondPlain d.req code
    | some (k, pi) =>
      { s with dbg := { s.dbg with dres := BitVec.ofNat 8 code } }.modTeam k (fun t => t.landPath pi (fun p =>
        if p.wait = some Wait.stepping then p.next else p))).beginNext

/-- The single stop of a path at the end of a step: the first watchpoint matched, the stop that fell within it, or
SINGLE_STEP (R255, R419). -/
def stepStop (d : DebugStep) (p : Path) : Stop :=
  match d.watch with
  | some (i, m) => { reason := TrapClass.watchpoint.code, info := i, hmask := m }
  | none => p.stop.getD { reason := TrapClass.singleStep.code, info := 0, hmask := p.mask }

/-- The step in hand ends when its instruction has completed, and with it the clause that an LC enqueued (R255). -/
def State.settle (s : State) : State :=
  match s.dbg.stepping with
  | none => s
  | some d =>
    match (s.team d.tkey).filter (fun t => t.teamId == d.req.team) with
    | none => s.endStep d 0 []
    | some t =>
      match AMap.find t.paths d.path with
      | none =>
        if d.issued then s.endStep d 0 [] else s
      | some p =>
        let running := match d.clause with
          | none => false
          | some c => p.clauseIds.contains c
        if p.stop.isNone && (!d.issued || running) then s
        else
          let s := s.modPath d.tkey d.path (fun p => { p with stop := some (stepStop d p) })
          let kid := match d.child with
            | none => []
            | some c => [c]
          let s := kid.foldl (fun s c => s.modPath d.tkey c (fun q =>
            { q with stop := some { reason := TrapClass.singleStep.code, info := 0, hmask := q.mask } })) s
          let t := (s.team d.tkey).getD t
          let recs := (t.paths.filter (fun e => e.1 == d.path || kid.contains e.1)).map (fun e => pathRecord t e.1 e.2)
          s.endStep d 0 recs

/-- A stepped path has issued a scalar instruction: whether it completed, the clause it enqueued and the path it made
(R255). -/
def State.noteStep (before after : State) : State :=
  let key := teamKey before.ctx.core before.ctx.slot
  let pi := before.ctx.path
  match after.dbg.stepping with
  | none => after
  | some d =>
    if d.tkey ≠ key ∨ d.path ≠ pi ∨ d.issued then after
    else
      let put := fun (d : DebugStep) => { after with dbg := { after.dbg with stepping := some d } }
      match before.path key pi, after.path key pi with
      | some p, some q =>
        if q.wait.isSome ∨ q.park.isSome ∨ q.spc = p.spc ∧ q.stop.isSome then after
        else
          let paths := fun (s : State) => ((s.team key).map (·.paths)).getD []
          put { d with
            issued := true,
            clause := if p.nextClause < q.nextClause then some p.nextClause else none,
            child := ((paths after).find? (fun e => (AMap.find (paths before) e.1).isNone)).map (·.1) }
      | _, _ => put { d with issued := true }

/-! ## What each agent issues -/

/-- What a move comes to: an instruction with the state it issues in, something else that takes its place, or nothing
this spec gives. -/
inductive Issue where
  /-- The scalar instruction of the path that the context names. -/
  | scalar (i : Instr) (s : State)
  | run (i : Instr) (s : State)
  | other (s : State)
  /-- An instruction of the base RISC-V set, by its word, of a queue processor (R54). -/
  | base (h : Nat) (w : BitVec 32) (s : State)
  | input (i : Input) (s : State)
  deriving DecidableEq, Repr

/-- The state in which a path's instruction issues: the context names the path. -/
def State.atPath (s : State) (core slot pi : Nat) : State :=
  { s with ctx := { s.ctx with core := core, slot := slot, path := pi } }

/-- The rotating pointers after an issue (R86). -/
def Core.issued (c : Core) (slot pi : Nat) : Core :=
  { c with lastSlot := slot, lastPath := Tab.set 7 slot pi c.lastPath }

/-- The rotating pointers after a path's issue, on each core of its team: both cores of a pair issue it (R86, R88). -/
def State.noteIssue (s : State) (core slot pi : Nat) : State :=
  let s1 := s.modCore core (fun c => c.issued slot pi)
  match s.team (teamKey core slot) with
  | none => s1
  | some t => if t.k.pair then s1.modCore (core + 1) (fun c => c.issued t.oddSlot pi) else s1

/-- A path's next scalar instruction, fetched at its SPC and decoded (R86, R262). -/
def State.issueScalar (s : State) (core slot pi : Nat) : Issue :=
  let s := (s.noteIssue core slot pi).atPath core slot pi
  match issuer s with
  | none => .other s
  | some w =>
    match beforeScalar s w with
    | some s' => .other s'
    | none =>
      match s.fetchPiece w w.path.spc.toNat 4 with
      | (s, .bytes b) => .scalar (decodeScalar (BitVec.ofNat 32 (ofBytes b))) (s.countTrial w)
      | (s, e) => .other (s.fetchFailed w e)

/-- The lane instruction at the head of the clause that a core runs (R87). A HOLD of the path takes effect after the
clause; a timer that is due takes its event first (R251). -/
def State.issueLane (s : State) (core : Nat) : Issue :=
  match laneHead s core with
  | none => .other s
  | some (slot, pi, w) =>
    let s := s.atPath core slot pi
    match s.team (teamKey core slot) with
    | none => .other s
    | some t =>
      if ((AMap.find t.paths pi).map (s.timerWaits t pi)).getD false then .other (s.fireTimers (teamKey core slot))
      else .run (decodeLane w) s

/-- Bytes of the instruction that starts with a 16-bit parcel: 32 bits when its low two bits are ones (R54). -/
def parcelBytes (low : Nat) : Nat := if low % 4 = 3 then 4 else 2

/-- The word that a queue processor fetches: from its local SRAM, from device memory or from host memory (R54). Of a compressed
instruction it has the 16 bits. -/
def State.hartWord (s : State) (h : Nat) : BitVec 32 :=
  let b := s.viewRead h (viewOf s.dev (s.hart h).pc.toNat) 4
  BitVec.ofNat 32 (ofBytes (b.take (parcelBytes (ofBytes (b.take 1)))))

/-- The fetch of a queue processor ends with an error. -/
def State.hartFetchError (s : State) (h : Nat) : Bool :=
  let t := viewOf s.dev (s.hart h).pc.toNat
  s.viewError t 2 || s.viewError t (parcelBytes (ofBytes (s.viewRead h t 1)))

/-- A queue processor's next instruction, of the command extension (R55) or of the base set (R54). An interrupt that is enabled comes
first, also during a SWAIT, which then starts again after it (R59). -/
def State.issueHart (s : State) (h : Nat) : Issue :=
  let s := { s with ctx := { s.ctx with hart := h } }
  if s.dev.dark then .other s
  else
    match (s.hart h).interrupt with
    | some c => .other (s.modHart h (fun k => k.trap true c 0))
    | none =>
      if (s.hart h).swait.isSome then .other s
      else if s.hartFetchError h then .other (s.modHart h (fun k => k.exception 1 k.pc))
      else
        let s := s.viewTouch (viewOf s.dev (s.hart h).pc.toNat)
        match decodeCommand (s.hartWord h) with
        | some i => .run i s
        | none => .base h (s.hartWord h) s

/-- A path's ended clauses that have no operation outstanding (R193). -/
def Path.finished (p : Path) : Bool := p.done.any (fun c => c.pend == 0)

/-- A core's next step when no agent is named: the lane instruction at the head of the running clause, the start of a
clause, the completion of a clause, or a scalar instruction (R86, R87, R193). -/
inductive Pick where
  | lane | start | complete (slot pi : Nat) | scalar (slot pi : Nat) | idle
  deriving DecidableEq, Repr

/-- The choice of a core's other units, when its datapath does not issue. -/
def chooseOther (s : State) (core : Nat) : Pick :=
  let ended := (List.range 16).findSome? (fun slot =>
    match s.team (teamKey core slot) with
    | none => none
    | some t => ((t.paths.find? (fun p => p.2.finished)).map (fun p => (slot, p.1))))
  match ended with
  | some (slot, pi) => .complete slot pi
  | none =>
    if (s.core core).running.isNone && (chooseClause s core).isSome then .start
    else
      match chooseScalar s core with
      | some (slot, pi) => .scalar slot pi
      | none => .idle

/-- The choice of a core when no agent is named. The datapath and the scalar unit take turns, so that a lane instruction that waits
keeps no path from issuing (R86, R203). -/
def choose (s : State) (core : Nat) : Pick :=
  if s.dev.stopped then .idle
  else if (laneHead s core).isNone then chooseOther s core
  else if (s.core core).laneTurn then
    (match chooseOther s core with
     | .idle => .lane
     | p => p)
  else .lane

/-- What a pick comes to, with the turn noted; an idle step only lets time pass. -/
def State.issuePick (s : State) (core : Nat) (p : Pick) : Issue :=
  let u := s.modCore core (fun c => { c with laneTurn := p == .lane })
  match p with
  | .lane => u.issueLane core
  | .start => .run (.clauseStart core) u
  | .complete slot pi => .run (.clauseCompletion core slot pi) u
  | .scalar slot pi => u.issueScalar core slot pi
  | .idle => .other s.passTime

/-- What a move comes to. -/
def State.issueMove (s : State) : Move → Issue
  | .event i => .run i s
  | .scalar core =>
    match chooseScalar s core with
    | some (slot, pi) => s.issueScalar core slot pi
    | none => .other s
  | .lane core => s.issueLane core
  | .pathStep core slot pi => if s.pathReady (teamKey core slot) pi then s.issueScalar core slot pi else .other s
  | .hart h => s.issueHart h
  | .input i => .input i s

/-- What the next step of the machine comes to: the first move of the agenda, or the choice of the core of `ctx`. -/
def State.nextIssue (s : State) : Issue :=
  match s.agenda with
  | m :: rest => { s with agenda := rest }.issueMove m
  | [] => s.issuePick s.ctx.core (choose s s.ctx.core)

/-! ## Placing one instruction -/

/-- The bytes of an instruction word of the table (R261, R55). -/
def wordBytes (nbits w : Nat) : List Byte := toBytes (if 32 < nbits then 12 else 4) w

/-- A descriptor for a team of 32 lanes with every register. -/
def Kdesc.plain : Kdesc :=
  { sentry := 0, lbase := 0, lanes := 32, pair := false, gw := 1, nbh := 0, nbw := 0, tpc := 1, spsl := 1, ejt := 0,
    btimer := 1, regs := 16, scrt := 1, dthr := 0, carea := 0, calog2 := 20, regu := 48, scru := 48, accu := 96, save := 0 }

/-- A team of one path at address 0 with every lane active. -/
def Team.plain : Team :=
  (Team.start 0 Kdesc.plain 0 0 0 1#32 0 0 false).setPath 0 (Path.start 0 (maskBelow 32) resetFmt 0)

/-- A team started on slot 0 of core 0 in full service, with page 0 readable, writable and executable. -/
def State.withTeam (s : State) (t : Team) : State :=
  let leaf : TlbEntry := { asid := 0, host := false, vpn := 0, ps := 0, leaf := 0x7D#64, leafPa := 0, gen := 0 }
  let s := { s with dev := { s.dev with svc := 2 }, ctx := { core := 0, slot := 0, path := 0, hart := 0 } }
  (s.modCore 0 (fun c => { c with tlb := leaf :: c.tlb })).setTeam 0 t

/-- A team whose running clause holds one lane word. -/
def Team.withClause (t : Team) (w : BitVec 96) : Team :=
  let c : Clause := { id := 0, addr := 0, wait := 0, setA := none, setB := none, body := [w], pos := 0, mask := maskBelow 32,
                      fmt := resetFmt, snap := [], dests := [], pend := 0, only := none, stopped := false,
                      watched := [], sent := none }
  t.modPath 0 (fun p => { p with run := some c, nextClause := 1 })

/-- The bytes of a command word where a queue processor fetches (R54). -/
def State.putHartWord (s : State) (h : Nat) (b : List Byte) : State :=
  match viewOf s.dev (s.hart h).pc.toNat with
  | .host a => { s with mem := { s.mem with host := Tab.setList 0 a b s.mem.host } }
  | .sram off => s.modHart h (fun k => { k with sram := Tab.setList 0 off b k.sram })
  | .dev pa => { s with mem := s.mem.put pa b }
  | .bad => s

end Sys2Proof.Machine
end

