-- ==== Sys2Proof/Machine/DebugOps.lean ====
section
/-!
DEFINITION. HOLD, RESUME and STEP (R253 to R255), as the debug mailbox and the control registers of R382 ask for them, and
the status words of the register region (R17, R140).
-/

namespace Sys2Proof.Machine

/-! ## Status words -/

/-- SVCSTAT (R17). -/
def Dev.svcstat (d : Dev) : Nat := d.svc % 4 + d.bstep % 16 * 2 ^ 8 + d.berr % 16 * 2 ^ 12

/-- KVSTAT (R140), with or without its ERR bit. -/
def Kv.stat (k : Kv) (err : Bool) : Nat :=
  k.free0.length % 2 ^ 24 + k.free1.length % 2 ^ 24 * 2 ^ 24 + (if err && k.err then 2 ^ 48 else 0)

/-! ## Debug operations -/

/-- The paths that a request names: one, or every path for 15 (R252). -/
def Team.named (t : Team) (path : Nat) : Except Nat (List Nat) :=
  if path = 15 then .ok (t.paths.map (·.1))
  else if 8 ≤ path then .error 1
  else if (AMap.find t.paths path).isSome then .ok [path]
  else .error 3

/-- HOLD (R253): each named path that is not stopped stops at its next instruction boundary, which is here. -/
def State.holdPaths (s : State) (id : BitVec 32) (path : Nat) : State × Nat :=
  match s.debugTeam id with
  | .error c => (s, c)
  | .ok (key, t) =>
    match t.named path with
    | .error c => (s, c)
    | .ok ps =>
      (ps.foldl (fun s pi =>
        match s.path key pi with
        | some p => if p.stop.isSome then s else s.stopPath key pi 0 0 p.mask
        | none => s) s, 0)

/-- RESUME (R253). -/
def State.resumePaths (s : State) (id : BitVec 32) (path : Nat) : State × Nat :=
  match s.debugTeam id with
  | .error c => (s, c)
  | .ok (key, t) =>
    match t.named path with
    | .error c => (s, c)
    | .ok ps =>
      if ps.all (fun pi => ((s.path key pi).bind (·.stop)).isNone) then (s, 5)
      else (ps.foldl (fun s pi => s.modPath key pi (fun p => if p.stop.isSome then p.release else p)) s, 0)

end Sys2Proof.Machine
end

