-- ==== Sys2Proof/Machine/Bins.lean ====
section
/-!
DEFINITION. The spawn-and-join unit: continuation records (R199 to R201), spawn bins (R82), the return of continuation
lanes (R202), and the end of a path and of a team (R381).
-/

namespace Sys2Proof.Machine

/-! ## Spans of virtual memory -/

/-- The pages of a span: for each part its first offset, its length, and its physical address (none for a discarded
page). -/
abbrev Span := List (Nat × Nat × Option Nat)

/-- How the translation of a span ends. -/
inductive SpanEnd where
  | ok (m : Span)
  | held (h : Hold) (i : Option FaultInfo)
  | err (c : TrapClass)
  /-- An A or D update, or a line that it writes, waits for a lease (R46). -/
  | later
  deriving DecidableEq, Repr

/-- One part of a span, which lies in one page: the translation and the checks of R246, for the access of a lane. -/
def State.spanPart (s : State) (core asid lane : Nat) (kind : AccKind) (va n : Nat) : State × SpanEnd :=
  match s.translate { core := core, asid := asid, host := false, va := va % 2 ^ 52, kind := kind, lpr := none } with
  | (s, .ok pa leaf) =>
    if kind.writes ∧ s.mem.isTable pa then (s, .err .misaligned)
    else if kind.writes ∧ leafStable leaf then (s, .err .stableWrite)
    else if kind.writes ∧ leafDisc leaf then (s, .err .discardedWrite)
    else if s.lockedPa pa (pa + n) (!kind.writes) then (s, .held .rangeLocked none)
    else if leafDisc leaf then (s, .ok [(0, n, none)])
    else if kind.writes ∧ s.rangeLeased pa n then (s, .later)
    else if kind.writes = false ∧ s.mem.badLines.any (fun l => lineOf pa ≤ l && l ≤ lineOf (pa + n - 1)) then
      (s, .err .uncorrectable)
    else (s.viewTouch (.dev pa), .ok [(0, n, some pa)])
  | (s, .fault c l e) => (s, .held .pageFault (some (faultInfo kind (BitVec.ofNat 64 va) lane c l e)))
  | (s, .protection) => (s, .err .protection)
  | (s, .uncorrectable) => (s, .err .uncorrectable)
  | (s, .leased) => (s, .later)

/-- A span of at most one page in length, translated, for the access of a lane, the lowest of those unfinished (R135). -/
def State.span (s : State) (core asid lane : Nat) (kind : AccKind) (va n : Nat) : State × SpanEnd :=
  let first := min n (0x10000 - va % 0x10000)
  match s.spanPart core asid lane kind va first with
  | (s1, .ok m1) =>
    if first = n then (s1, .ok m1)
    else
      match s1.spanPart core asid lane kind (va + first) (n - first) with
      | (s2, .ok m2) => (s2, .ok (m1 ++ m2.map (fun p => (p.1 + first, p.2.1, p.2.2))))
      | r => r
  | r => r

/-- The physical address of a byte of a span. -/
def Span.at (m : Span) (off : Nat) : Option Nat :=
  (m.find? (fun p => decide (p.1 ≤ off) && decide (off < p.1 + p.2.1))).bind (fun p => p.2.2.map (fun pa => pa + (off - p.1)))

/-- Bytes of a span, which lie in one 4-byte unit or one line of it: committed data, or zeros of a discarded page. -/
def State.spanRead (s : State) (m : Span) (off n : Nat) : List Byte :=
  (List.range n).map (fun i => match m.at (off + i) with
    | some pa => (s.readPa pa 1).headD 0
    | none => 0)

/-- Bytes written to a span at the home slices, under a pts: the largest w, and the state after it (R110). -/
def State.spanWrite (s : State) (m : Span) (cores : List Nat) (pts off : Nat) (bs : List Byte) : State × Nat :=
  (bs.zipIdx.foldl (fun (l : List (Nat × List Byte)) b =>
      match m.at (off + b.2) with
      | none => l
      | some pa =>
        match l with
        | (a, x) :: r => if a + x.length = pa then (a, x ++ [b.1]) :: r else (pa, [b.1]) :: l
        | [] => [(pa, [b.1])]) []).foldl
    (fun (r : State × Nat) p => let q := r.1.writeLines cores pts p.1 p.2; (q.1, max r.2 q.2)) (s, 0)

/-! ## Continuation descriptors and records -/

/-- The live set of the continuation descriptor in nine words, or none when the descriptor is refused (R199). -/
def liveSet (b : List Byte) (vcount : Nat) : Option (BitVec 256) :=
  let live := BitVec.ofNat 256 (ofBytes (b.drop 4))
  if ofBytes (b.take 4) ≠ 0xC0F70000 then none
  else if live.toNat / 2 ^ vcount ≠ 0 then none
  else some live

/-- First address of a continuation slot (R200). -/
def contAddr (k : Kdesc) (i : Nat) : Nat := k.carea.toNat * 0x10000 + i * 1088

/-- Number of continuation slots, NC (R200). -/
def Kdesc.nc (k : Kdesc) : Nat := 2 ^ (k.calog2 - 1) / 1088

/-- The predicates of a lane as a byte, bit 0 written 1 (R200). -/
def Team.predByte (t : Team) (l : Nat) : Nat :=
  (List.range 8).foldl (fun a n => a + (if t.p l n then 2 ^ n else 0)) 0

/-- The numbers of the registers in a live set. -/
def liveRegs (live : BitVec 256) : List Nat := (List.range 256).filter (fun n => live.getLsbD n)

/-- The index registers of a lane, as its record holds them (R200). -/
def Team.indexBytes (t : Team) (l : Nat) : List Byte := (List.range 8).flatMap (fun n => toBytes 4 (t.x l n).toNat)

/-- The first 64 bytes of a lane's record (R200). -/
def recordHead (t : Team) (l : Nat) (jpc : BitVec 64) (pteam : BitVec 32) (ppath plane : Nat) (fmt : BitVec 32) :
    List Byte :=
  toBytes 8 jpc.toNat ++ toBytes 8 (t.predByte l * 2 ^ 8 + plane * 2 ^ 16 + ppath * 2 ^ 29 + pteam.toNat * 2 ^ 32)
    ++ t.indexBytes l ++ toBytes 8 fmt.toNat ++ toBytes 8 0

/-- The live registers of a lane, each with its place in the record (R200). -/
def liveParts (t : Team) (l : Nat) (live : BitVec 256) : List (Nat × List Byte) :=
  (liveRegs live).map (fun n => (64 + 4 * n, toBytes 4 (t.v l n).toNat))

/-- What a returning lane writes into its slot: p1 to p7, x0 to x7 and its live registers (R202). -/
def returnParts (t : Team) (l : Nat) (live : BitVec 256) : List (Nat × List Byte) :=
  [(9, toBytes 1 (t.predByte l)), (16, t.indexBytes l)] ++ liveParts t l live

/-- Parts of a lane's record are written, each at its place: the largest w, and the state after it (R110, R200). -/
def State.putRecord (s : State) (m : Span) (core pts : Nat) (parts : List (Nat × List Byte)) : State × Nat :=
  parts.foldl (fun (r : State × Nat) p =>
    let q := r.1.spanWrite m [core] pts p.1 p.2
    (q.1, max r.2 q.2)) (s, 0)

/-- A lane takes its predicates, its index registers and the live registers of a record (R201, R202). -/
def Team.loadRecord (t : Team) (s : State) (m : Span) (l : Nat) (live : BitVec 256) : Team :=
  let pred := ((s.spanRead m 9 1).headD 0)
  let t := (List.range 8).foldl (fun (t : Team) n => t.setP l n (pred.getLsbD n)) t
  let t := (List.range 8).foldl
    (fun (t : Team) n => t.setX l n (BitVec.ofNat 32 (ofBytes (s.spanRead m (16 + 4 * n) 4)))) t
  (liveRegs live).foldl (fun (t : Team) n => t.setV l n (BitVec.ofNat 32 (ofBytes (s.spanRead m (64 + 4 * n) 4)))) t

/-! ## Bins (R82) -/

/-- The key of a bin. -/
structure BinKey where
  launch : Nat
  entry : BitVec 64
  frame : List (BitVec 64)
  asid : Nat
  deriving DecidableEq, Repr

/-- A bin takes lanes under this key: it has not launched and is not full. -/
def Bin.takes (b : Bin) (k : BinKey) (lanes : Nat) : Bool :=
  b.launch == k.launch && b.entry == k.entry && b.frame == k.frame && !b.launched && decide (b.lanes.length < lanes)

/-- The bins of a core, the oldest first, with one more in its place by age. When that leaves more than 32 that have not launched,
the oldest of these launches early (R82). -/
def insertBin (bins : List Bin) (b : Bin) : List Bin :=
  let all := bins.takeWhile (fun x => decide (x.age ≤ b.age)) ++ b :: bins.dropWhile (fun x => decide (x.age ≤ b.age))
  if (all.filter (fun x => !x.launched)).length ≤ 32 then all
  else
    match all.findIdx? (fun x => !x.launched) with
    | none => all
    | some i => all.modify i (fun x => { x with launched := true })

/-- One lane is placed in a bin of a core: the one that matches its key, or a new one. A bin that reaches LANES launches
(R82). -/
def placeLane (bins : List Bin) (k : BinKey) (lanes age : Nat) (l : BinLane) : List Bin :=
  let full := fun (b : Bin) => { b with launched := b.launched || decide (lanes ≤ b.lanes.length) }
  let new : Bin := { launch := k.launch, entry := k.entry, frame := k.frame, lanes := [l], age := age, timer := 0,
                     launched := false, asid := k.asid }
  match bins.findIdx? (fun b => b.takes k lanes) with
  | some i => bins.modify i (fun b => full { b with lanes := b.lanes ++ [l] })
  | none => insertBin bins (full new)

/-- Lanes are placed in bins of a core, in order. -/
def State.binLanes (s : State) (core : Nat) (k : BinKey) (lanes : Nat) (ls : List BinLane) : State :=
  ls.foldl (fun s l => s.tick.modCore core (fun c => { c with bins := placeLane c.bins k lanes s.fresh l })) s

/-- s1 to s4 of a path: the uniform frame (R82, R198). -/
def Path.frame (p : Path) : List (BitVec 64) := [p.s 1, p.s 2, p.s 3, p.s 4]

/-! ## Ejection (R198) -/

/-- How an ejection ends: done, waiting for a slot, held, or trapped. -/
inductive EjectEnd where
  | done (s : State)
  | wait (s : State)
  | held (s : State) (h : Hold) (i : Option FaultInfo)
  | later (s : State)
  | trap (s : State) (c : TrapClass)

/-- The lowest free continuation slot of a launch. -/
def State.freeContSlot (s : State) (launch : Nat) (k : Kdesc) : Option Nat :=
  (s.launch launch).bind (fun l => (List.range (l.contSlots.length + 1)).find?
    (fun i => decide (i < k.nc) && !l.contSlots.contains i))

/-- The records of lanes are written to the lowest free slots, lane by lane (R198, step 3). -/
def State.ejectLanes (s : State) (w : Who) (join : BitVec 64) (live : BitVec 256) : List Nat → EjectEnd
  | [] => .done s
  | l :: ls =>
    match s.freeContSlot w.team.launch w.team.k with
    | none => .wait s
    | some i =>
      match s.span w.core w.team.asid l .store (contAddr w.team.k i) 1088 with
      | (s, .held h f) => .held s h f
      | (s, .later) => .later s
      | (s, .err c) => .trap s c
      | (s, .ok m) =>
        let pts := ((s.path w.key w.pi).map (·.pts)).getD 0
        let head := recordHead w.team l join w.team.teamId w.pi l w.path.fmt
        let r := s.putRecord m (laneCore w l) pts ((0, head) :: liveParts w.team l live)
        let s := r.1.modLaunch w.team.launch (fun h => { h with contSlots := i :: h.contSlots })
        let s := s.onPath w (fun p =>
          { p with pts := max p.pts r.2, ejPart := some (p.ejPart.getD [] ++ [{ lane := l, slot := i, join := join, live := live }]) })
        State.ejectLanes s w join live ls

/-- The last steps of an ejection: the masks and the join counter, and the lanes go into a bin (R198, steps 4 and 5). -/
def State.ejectFinish (s : State) (w : Who) (target : BitVec 64) (ts : List Nat) : State :=
  let part := (((s.path w.key w.pi).bind (·.ejPart)).getD [])
  let s := s.onPath w (fun p =>
    { p.next with mask := p.mask &&& ~~~(maskOf ts), ejm := p.ejm ||| maskOf ts, jcnt := p.jcnt + ts.length,
                  ejSlots := p.ejSlots ++ part, ejPart := none, ejLive := 0 })
  s.binLanes w.core { launch := w.team.launch, entry := target, frame := w.path.frame, asid := w.team.asid }
    w.team.k.lanes (part.map (fun e => .cont e.slot w.team.teamId w.pi e.lane e.live))

/-! ## The return of lanes and the end of a path -/

/-- A continuation lane returns to its parent path: its join counter falls by one. A parent that is not resident has the
return held for it (R202). -/
def State.returnLane (s : State) (pteam : BitVec 32) (ppath rel : Nat) : State :=
  match s.teams.find? (fun e => e.2.teamId == pteam) with
  | some (key, _) =>
    s.modTeam key (fun t => t.landPath ppath (fun p => { p with jcnt := p.jcnt - 1, relT := max p.relT rel }))
  | none =>
    { s with sched := { s.sched with saved := s.sched.saved.map (fun e => (e.1, e.2.1, e.2.2.map (fun t =>
        if t.teamId = pteam then { t with heldReturns := t.heldReturns ++ [(ppath, rel)] } else t))) } }

/-- How the return of continuation lanes ends. -/
inductive ReturnEnd where
  | done (s : State)
  | held (s : State) (h : Hold) (i : Option FaultInfo)
  | later (s : State)
  | trap (s : State) (c : TrapClass)

/-- Continuation lanes write their records back and leave the mask (R202, case 3). The version has been committed. -/
def State.returnLanes (s : State) (w : Who) : List Nat → ReturnEnd
  | [] => .done s
  | l :: ls =>
    match AMap.find w.team.contLanes l with
    | none => State.returnLanes s w ls
    | some c =>
      match s.span w.core w.team.asid l .store (contAddr w.team.k c.slot) 1088 with
      | (s, .held h f) => .held s h f
      | (s, .later) => .later s
      | (s, .err e) => .trap s e
      | (s, .ok m) =>
        let pts := ((s.path w.key w.pi).map (·.pts)).getD 0
        let r := s.putRecord m (laneCore w l) pts (returnParts w.team l c.live)
        let s := r.1.modTeam w.key (fun t =>
          { (t.modPath w.pi (fun p => { p with mask := p.mask &&& ~~~(BitVec.twoPow 1024 l), pts := max p.pts r.2 })) with
            contLanes := AMap.erase l t.contLanes, endedLanes := t.endedLanes ||| BitVec.twoPow 1024 l })
        State.returnLanes (s.returnLane c.pteam c.ppath (max pts r.2)) w ls

/-- A path ends: the ctime of each of its cores passes its pts (R88, R108), and its entry is freed. Lanes that it ejected and has not
reloaded stay out of the barriers of the team (R351). -/
def State.dropPath (s : State) (key pi : Nat) : State :=
  match s.team key with
  | none => s
  | some t =>
    let pts := ((AMap.find t.paths pi).map (·.pts)).getD 0
    let ejm := ((AMap.find t.paths pi).map (·.ejm)).getD 0
    (s.passPts key t pts).modTeam key (fun t => { t with paths := AMap.erase pi t.paths, endedLanes := t.endedLanes ||| ejm })

/-- A team whose last path has ended ends (R381): its version commits as a release at device scope. -/
def State.endTeam (s : State) (key pi : Nat) : State :=
  let s := (s.commitVersion key pi).passWrites key pi
  let pts := ((s.path key pi).map (·.pts)).getD 0
  let launch := ((s.team key).map (·.launch)).getD 0
  (s.modLaunch launch (fun l => { l with rel := max l.rel pts })).removeTeam key

/-- A path ends for good: by END, or because no lane is left (R202, R381). The last path ends the team. -/
def State.endPathAt (s : State) (key pi : Nat) : State :=
  match s.team key with
  | none => s
  | some t =>
    match AMap.find t.paths pi with
    | none => s
    | some p =>
      if t.paths.length ≤ 1 then s.endTeam key pi
      else
        (s.dropPath key pi).modTeam key (fun t =>
          let t := { t with endedLanes := t.endedLanes ||| p.mask }
          match p.parent with
          | none => t
          | some q => t.modPath q (fun k => { k with jcnt := k.jcnt - 1 }))

/-- A path returns to its parent (R202, case 2): its lanes go back, and the parent's pts passes its own (R108). -/
def State.joinParent (s : State) (key pi : Nat) (p : Path) (parent : Nat) : State :=
  (s.dropPath key pi).modTeam key (fun t =>
    t.modPath parent (fun q => { q with mask := q.mask ||| p.mask, jcnt := q.jcnt - 1, pts := max q.pts p.pts }))

end Sys2Proof.Machine
end

