-- ==== Sys2Proof/Machine/Engine.lean ====
section
/-!
DEFINITION. Engine operations: the fields and spans of copy records (R233 to R237), Gorse's registrations and grants
(R237), barrier objects and event queues (R239, R241), and the start of a shoot-down (R127, R128).
-/

namespace Sys2Proof.Machine

/-! ## Fields of a record (R234) -/

/-- Unsigned field [hi:lo] of a mode word. -/
def wf (w : BitVec 64) (hi lo : Nat) : Nat := bits hi lo w.toNat

/-- Signed 32-bit field [lo+31:lo] of a mode word. -/
def ws (w : BitVec 64) (lo : Nat) : Int := toSigned 32 (bits (lo + 31) lo w.toNat)

/-- Width in bytes of an element type (R204). -/
def typeBytes (ty : Nat) : Nat :=
  if ty = 2 ∨ ty = 3 ∨ ty = 5 then 8
  else if ty = 6 ∨ ty = 7 ∨ ty = 12 ∨ ty = 13 then 2
  else if ty = 8 ∨ ty = 9 ∨ ty = 10 ∨ ty = 11 then 1
  else 4

/-- Byte count of the tensor side that has a map, from its base (R237). -/
def tensorSpan (w4 w5 w6 w7 : BitVec 64) : Nat :=
  (wf w6 63 48 - 1) * wf w5 63 32 + (wf w6 47 32 - 1) * wf w5 31 0 + wf w7 63 32 + wf w4 31 0

/-- First offset and length of rows with a signed stride. -/
def rowSpan (rows rowLen : Nat) (stride : Int) : Int × Nat :=
  let last := ((rows - 1 : Nat) : Int) * stride
  (min 0 last, (last.natAbs + rowLen))

/-- A span from an address, by an offset. -/
def spanFrom (a : BitVec 64) (o : Int × Nat) : Nat × Nat := ((((a.toNat : Int) + o.1) % (2 ^ 64 : Int)).toNat, o.2)

/-- B of a record, the bytes that it moves (R235). -/
def recordBytes (mode : Nat) (w4 w5 w6 : BitVec 64) (fmt : BitVec 32) : Nat :=
  let rows := (wf w4 15 8 + 1) * 128 * typeBytes (fmtFr fmt)
  if mode = 0 then wf w4 39 0
  else if mode = 1 then wf w4 63 32 * wf w4 31 0
  else if mode = 2 ∨ mode = 3 then wf w4 31 0 * wf w4 63 48 * wf w4 47 32
  else if mode = 4 ∨ mode = 5 then wf w5 63 32 * wf w5 31 0
  else if mode = 6 then rows
  else (if wf w6 9 9 = 1 then 0 else rows) + (wf w4 15 8 + 1) * (16 * (1 + ceilDiv (wf w6 4 0) 2))

/-- The spans of a record that are known at the kick: source, destination and index list (R236, R237), each with its
address and length. The indexed side of a gather or scatter is none of them. -/
def Copy.sources (c : Copy) : List (Nat × Nat) :=
  if c.mode = 0 then [(c.src.toNat, wf c.w4 39 0)]
  else if c.mode = 1 then [spanFrom c.src (rowSpan (wf c.w4 63 32) (wf c.w4 31 0) (ws c.w5 0))]
  else if c.mode = 2 ∨ c.mode = 3 then
    [(c.src.toNat, if wf c.w7 0 0 = 0 then tensorSpan c.w4 c.w5 c.w6 c.w7 else recordBytes c.mode c.w4 c.w5 c.w6 c.fmt)]
  else if c.mode = 5 then
    [(c.w4.toNat, wf c.w5 63 32 * (if wf c.w6 63 63 = 1 then 8 else 4)), (c.src.toNat, wf c.w5 63 32 * wf c.w5 31 0)]
  else if c.mode = 4 then [(c.w4.toNat, wf c.w5 63 32 * (if wf c.w6 63 63 = 1 then 8 else 4))]
  else []

/-- The destination span of a record known at the kick. -/
def Copy.dests (c : Copy) : List (Nat × Nat) :=
  if c.mode = 0 then [(c.dst.toNat, wf c.w4 39 0)]
  else if c.mode = 1 then [spanFrom c.dst (rowSpan (wf c.w4 63 32) (wf c.w4 31 0) (ws c.w5 32))]
  else if c.mode = 2 ∨ c.mode = 3 then
    [(c.dst.toNat, if wf c.w7 0 0 = 1 then tensorSpan c.w4 c.w5 c.w6 c.w7 else recordBytes c.mode c.w4 c.w5 c.w6 c.fmt)]
  else if c.mode = 4 then [(c.dst.toNat, wf c.w5 63 32 * wf c.w5 31 0)]
  else if c.mode = 6 ∨ (c.mode = 7 ∧ wf c.w6 9 9 = 0) then
    [spanFrom c.dst (rowSpan (wf c.w4 15 8 + 1) (128 * typeBytes (fmtFr c.fmt)) (ws c.w4 32))]
  else []

/-! ## Shoot-downs (R127, R128) -/

/-- A span of virtual memory overlaps the pages of a shoot-down; a count of 0 names every page. -/
def spanHits (a n first count : Nat) : Bool :=
  count == 0 || (decide (bits 51 0 a / 0x10000 < first + count) && decide (first * 0x10000 < bits 51 0 a + n))

/-- A copy has translated an address of the range; a gather's or scatter's indexed side may lie anywhere. -/
def Copy.touches (c : Copy) (first count : Nat) : Bool :=
  c.mode == 4 || c.mode == 5 || (c.sources ++ c.dests).any (fun p => spanHits p.1 p.2 first count)

/-- A shoot-down removes an entry with G = 1 that an engine operation of any ASID may have used on a core (R127, R128). -/
def State.dropsGlobal (s : State) (core asid first count : Nat) : Bool :=
  ((s.core core).tlb ++ s.xl.dieTlb (core / 192)).any (fun e => leafG e.leaf && e.inRange asid first count)

/-- Bytes of one block of a collective, of its source and of its destination (R48). -/
def Coll.block (c : Coll) : Nat := c.count * typeBytes c.ty
def Coll.srcBytes (c : Coll) : Nat := if c.op = 1 ∨ c.op = 3 then c.members * c.block else c.block
def Coll.dstBytes (c : Coll) : Nat := if 2 ≤ c.op then c.members * c.block else c.block

/-- A collective moves bytes of the pages of a shoot-down. -/
def Coll.touches (c : Coll) (first count : Nat) : Bool :=
  spanHits c.src.toNat c.srcBytes first count || spanHits c.dst.toNat c.dstBytes first count

/-- The peers' writes that the owner holds, whose pages a shoot-down covers. -/
def State.heldPeers (s : State) (asid first count : Nat) : List (Nat × Nat) :=
  (s.fab.held.filter (fun h => h.asid == asid && spanHits h.va 1 first count)).filterMap (·.peer)

/-- A shoot-down begins (R128, steps 1 to 3): the generations rise, the entries and L1 lines go, and the engine
operations and accesses that step 4 waits for are noted. -/
def State.beginShoot (s : State) (asid first count : Nat) (who : Option (Nat × Nat)) : State :=
  let engines := (s.eng.copies.filter (fun c => c.packet.isNone && (c.asid == asid || s.dropsGlobal c.core asid first count)
        && c.touches first count)).map (·.id)
    ++ (s.fab.colls.filter (fun c => (c.asid == asid || s.dropsGlobal c.core asid first count) && c.touches first count)).map (·.id)
    ++ (s.allPend.filter (fun p => p.space == 4 && (((s.team p.tkey).map (·.asid)) == some asid || p.glob)
        && spanHits p.va p.size first count)).map (·.id)
  let id := s.xl.nextShoot
  let s := s.sweep asid first count
  let s := { s with xl := { s.xl with
    nextShoot := id + 1,
    shoots := s.xl.shoots ++ [{ id := id, asid := asid, first := first, count := count, issuer := who, engines := engines,
                                begun := true, peers := s.heldPeers asid first count }] } }
  match who with
  | none => s
  | some (k, pi) => s.modPath k pi (fun p => { p with shoots := p.shoots ++ [id] })

/-- A peer's write is held at the owner. -/
def State.holdsPeer (s : State) (x : Nat × Nat) : Bool := s.fab.held.any (fun h => h.peer == some x)

/-- An operation of the engines, or an access in flight, that a shoot-down waits for is still under way. -/
def State.engineBusy (s : State) (id : Nat) : Bool :=
  s.eng.copies.any (fun c => c.id == id) || s.fab.colls.any (fun c => c.id == id) || s.allPend.any (fun p => p.id == id)
    || s.eng.locks.any (fun l => l.owner == .copy id || l.owner == .coll id)

end Sys2Proof.Machine
end

