-- ==== Sys2Proof/Machine/Num.lean ====
section
/-!
DEFINITION. Number formats and exact arithmetic (R204 to R220): decoding to an exact value, arithmetic on exact values, and
one rounding into a destination.
-/

namespace Sys2Proof.Machine

/-! ## Exact values -/

/-- An exact value. `fin` is a magnitude with a sign: `q × 2^e`, or, when `more`, a value strictly between `q × 2^e` and
`(q + 1) × 2^e`, with `q` wide enough that no rounding looks further. A zero keeps its sign. -/
inductive FNum where
  | nan
  | inf (neg : Bool)
  | fin (neg : Bool) (q : Nat) (e : Int) (more : Bool)
  deriving DecidableEq, Repr

/-- Zero with a sign. -/
def FNum.zero (neg : Bool) : FNum := .fin neg 0 0 false

/-- An integer as an exact value. -/
def FNum.ofInt (i : Int) : FNum := .fin (decide (i < 0)) i.natAbs 0 false

/-- The value is finite. -/
def FNum.isFin : FNum → Bool
  | .fin _ _ _ _ => true
  | _ => false

/-- The value is ±0. -/
def FNum.isZero : FNum → Bool
  | .fin _ q _ more => q == 0 && !more
  | _ => false

/-- The sign bit of a value. -/
def FNum.isNeg : FNum → Bool
  | .nan => false
  | .inf n => n
  | .fin n _ _ _ => n

/-- A value times a power of two, which adds no rounding (R216). -/
def FNum.scale (n : Int) : FNum → FNum
  | .fin s q e m => .fin s q (e + n) m
  | v => v

/-- A value with its sign inverted. -/
def FNum.neg : FNum → FNum
  | .nan => .nan
  | .inf n => .inf (!n)
  | .fin s q e m => .fin (!s) q e m

/-- A value with its sign cleared. -/
def FNum.abs : FNum → FNum
  | .nan => .nan
  | .inf _ => .inf false
  | .fin _ q e m => .fin false q e m

/-- Magnitude of an exact value in units of `2^u`, where `u` is at most its exponent. -/
def magAt (q : Nat) (e u : Int) : Nat := q * 2 ^ (e - u).toNat

/-- Signed magnitude in units of `2^u`. -/
def signedAt (neg : Bool) (q : Nat) (e u : Int) : Int := if neg then -(magAt q e u : Int) else (magAt q e u : Int)

/-- The exact sum. An exact zero sum of operands of opposite sign is −0 under RD and +0 otherwise (R207). -/
def FNum.add (rd : Bool) : FNum → FNum → FNum
  | .nan, _ => .nan
  | _, .nan => .nan
  | .inf a, .inf b => if a = b then .inf a else .nan
  | .inf a, .fin _ _ _ _ => .inf a
  | .fin _ _ _ _, .inf b => .inf b
  | .fin s q e _, .fin t r f _ =>
    let u := min e f
    let x := signedAt s q e u + signedAt t r f u
    if x = 0 then (if s = t then .fin s 0 0 false else .fin rd 0 0 false)
    else .fin (decide (x < 0)) x.natAbs u false

/-- The exact product. -/
def FNum.mul : FNum → FNum → FNum
  | .nan, _ => .nan
  | _, .nan => .nan
  | .inf a, .inf b => .inf (a != b)
  | .inf a, .fin t r _ _ => if r = 0 then .nan else .inf (a != t)
  | .fin s q _ _, .inf b => if q = 0 then .nan else .inf (s != b)
  | .fin s q e _, .fin t r f _ => .fin (s != t) (q * r) (e + f) false

/-- The exact product and sum (R219). -/
def FNum.fma (rd : Bool) (a b c : FNum) : FNum := FNum.add rd (FNum.mul a b) c

/-- The quotient, to 128 bits past the divisor's and then whether more follows (R219). -/
def FNum.div : FNum → FNum → FNum
  | .nan, _ => .nan
  | _, .nan => .nan
  | .inf _, .inf _ => .nan
  | .inf a, .fin t _ _ _ => .inf (a != t)
  | .fin s _ _ _, .inf b => .zero (s != b)
  | .fin s q e _, .fin t r f _ =>
    if r = 0 then (if q = 0 then .nan else .inf (s != t))
    else
      let sh := Nat.log2 r + 128
      .fin (s != t) (q * 2 ^ sh / r) (e - f - sh) (decide (q * 2 ^ sh % r ≠ 0))

/-- The largest `r` below `2^n` whose square is at most `x`, above `acc`. -/
def isqrtBits (x : Nat) : Nat → Nat → Nat
  | 0, acc => acc
  | n + 1, acc => isqrtBits x n (if (acc + 2 ^ n) * (acc + 2 ^ n) ≤ x then acc + 2 ^ n else acc)

/-- The integer square root. -/
def isqrt (x : Nat) : Nat := isqrtBits x (Nat.log2 x / 2 + 1) 0

/-- The square root (R219). -/
def FNum.sqrt : FNum → FNum
  | .nan => .nan
  | .inf n => if n then .nan else .inf false
  | .fin s q e _ =>
    if q = 0 then .fin s 0 0 false
    else if s then .nan
    else
      let e' := if e % 2 = 0 then e - 256 else e - 257
      let x := q * 2 ^ (e - e').toNat
      .fin false (isqrt x) (e' / 2) (decide (isqrt x * isqrt x ≠ x))

/-- The reciprocal square root (R219). -/
def FNum.rsqrt : FNum → FNum
  | .nan => .nan
  | .inf n => if n then .nan else .zero false
  | .fin s q e _ =>
    if q = 0 then .inf s
    else if s then .nan
    else
      let x := if e % 2 = 0 then q else q * 2
      let e' := if e % 2 = 0 then e else e - 1
      let sh := 160 + Nat.log2 x
      let r := isqrt (2 ^ (2 * sh) / x)
      .fin false r (-(e' / 2) - sh) (decide (r * r * x ≠ 2 ^ (2 * sh)))

/-! ## exp2 and log2 (R219)

Fixed point with 320 fraction bits. A result that is not a power of two is irrational, so it is never on a boundary; the
error of the series, below 2^-300, reaches no bit that a rounding of an f32 result looks at. -/

/-- Fraction bits of the fixed-point series. -/
def seriesBits : Nat := 320

/-- `2 × Σ z^(2k+1) / (2k+1)` for the fixed-point `z`, which is `ln ((1 + z) / (1 − z))`: `n` terms from `k`, `p` the power
`z^(2k+1)`. -/
def atanhSum (zz : Nat) : Nat → Nat → Nat → Nat → Nat
  | 0, _, _, acc => 2 * acc
  | n + 1, k, p, acc => atanhSum zz n (k + 1) (p * zz / 2 ^ seriesBits) (acc + p / (2 * k + 1))

/-- The logarithm of `(1 + z) / (1 − z)`. -/
def lnRatio (z : Nat) : Nat := atanhSum (z * z / 2 ^ seriesBits) 110 0 z 0

/-- ln 2 in fixed point. -/
def ln2Fixed : Nat := lnRatio (2 ^ seriesBits / 3)

/-- `Σ t^k / k!` in fixed point: `n` terms from `k`, `p` the term. -/
def expSum (t : Nat) : Nat → Nat → Nat → Nat → Nat
  | 0, _, _, acc => acc
  | n + 1, k, p, acc => expSum t n (k + 1) (p * t / 2 ^ seriesBits / (k + 1)) (acc + p)

/-- 2 to a fraction below 1, in fixed point. -/
def exp2Fraction (f : Nat) : Nat := expSum (f * ln2Fixed / 2 ^ seriesBits) 90 0 (2 ^ seriesBits) 0

/-- A power of two beyond every f32 result, or below every one of them. An exponent that large is an integer, so that the power is
exact, or one that small leaves none of its first 32 discarded bits set (R215). -/
def FNum.farPower (up : Bool) : FNum := if up then .fin false 1 4096 false else .fin false 1 (-4096) true

/-- 2 to the power of a value (R219). -/
def FNum.exp2 : FNum → FNum
  | .nan => .nan
  | .inf n => if n then .zero false else .inf false
  | .fin s q e _ =>
    if q = 0 then .fin false 1 0 false
    else if (if s then 12 else 24) < (Nat.log2 q : Int) + e then FNum.farPower (!s)
    else
      let x := if 0 ≤ e + seriesBits then q * 2 ^ (e + seriesBits).toNat else q / 2 ^ (-(e + seriesBits)).toNat
      let i : Int := if s then -(x : Int) else (x : Int)
      let n := i / (2 ^ seriesBits : Nat)
      let f := (i % (2 ^ seriesBits : Nat)).toNat
      if f = 0 then .fin false 1 n false else .fin false (exp2Fraction f) (n - seriesBits) true

/-- The logarithm to base 2 of a value (R219). -/
def FNum.log2 : FNum → FNum
  | .nan => .nan
  | .inf n => if n then .nan else .inf false
  | .fin s q e _ =>
    if q = 0 then .inf true
    else if s then .nan
    else
      let k := Nat.log2 q
      let n : Int := (k : Int) + e
      if q = 2 ^ k then FNum.ofInt n
      else
        let one := 2 ^ seriesBits
        let x := q * one / 2 ^ k
        let f := lnRatio ((x - one) * one / (x + one)) * one / ln2Fixed
        let r : Int := n * (one : Nat) + f
        .fin (decide (r < 0)) r.natAbs (-seriesBits) true

/-! ## Comparison -/

/-- Compares two exact values that are numbers; ±0 are equal (R324). -/
def FNum.cmp : FNum → FNum → Option Ordering
  | .nan, _ => none
  | _, .nan => none
  | .inf a, .inf b => some (if a = b then .eq else if a then .lt else .gt)
  | .inf a, .fin _ _ _ _ => some (if a then .lt else .gt)
  | .fin _ _ _ _, .inf b => some (if b then .gt else .lt)
  | .fin s q e _, .fin t r f _ =>
    let u := min e f
    some (compare (signedAt s q e u) (signedAt t r f u))

/-- The value is a number below another. -/
def FNum.lt (a b : FNum) : Bool := FNum.cmp a b == some .lt

/-! ## Binary formats (R206) -/

/-- A binary format: its width, its precision with the leading bit, and the exponent of its smallest step. -/
structure BinFmt where
  w : Nat
  p : Nat
  ulp : Int
  deriving DecidableEq, Repr

def binF16 : BinFmt := { w := 16, p := 11, ulp := -24 }
def binBf16 : BinFmt := { w := 16, p := 8, ulp := -133 }
def binF32 : BinFmt := { w := 32, p := 24, ulp := -149 }
def binF64 : BinFmt := { w := 64, p := 53, ulp := -1074 }

/-- Code of infinity without its sign. -/
def BinFmt.infCode (f : BinFmt) : Nat := (2 ^ (f.w - f.p) - 1) * 2 ^ (f.p - 1)

/-- The default NaN (R206). -/
def BinFmt.nanCode (f : BinFmt) : Nat := f.infCode + 2 ^ (f.p - 2)

/-- A sign bit placed on a code. -/
def BinFmt.signed (f : BinFmt) (neg : Bool) (code : Nat) : Nat := code + (if neg then 2 ^ (f.w - 1) else 0)

/-- A code of a binary format decoded. -/
def BinFmt.decode (f : BinFmt) (x : Nat) : FNum :=
  let neg := x / 2 ^ (f.w - 1) % 2 == 1
  let frac := x % 2 ^ (f.p - 1)
  let ex := x % 2 ^ (f.w - 1) / 2 ^ (f.p - 1)
  if ex = 2 ^ (f.w - f.p) - 1 then (if frac = 0 then .inf neg else .nan)
  else if ex = 0 then .fin neg frac f.ulp false
  else .fin neg (2 ^ (f.p - 1) + frac) (f.ulp + (ex - 1 : Nat)) false

/-- The code of a magnitude `m × 2^k` of the format, with `m` at most `2^p`; past the largest it is infinity's. -/
def BinFmt.code (f : BinFmt) (m : Nat) (k : Int) : Nat :=
  if m < 2 ^ (f.p - 1) then m
  else
    let (m, k) := if m = 2 ^ f.p then (2 ^ (f.p - 1), k + 1) else (m, k)
    let ex := (k - f.ulp + 1).toNat
    if 2 ^ (f.w - f.p) - 1 ≤ ex then f.infCode else ex * 2 ^ (f.p - 1) + (m - 2 ^ (f.p - 1))

/-! ## Tapered formats (R208 to R210) -/

/-- Length of the regime of a body of `n` bits: the run of bits equal to `one` from the top. -/
def regimeRun (body : Nat) (one : Bool) : Nat → Nat
  | 0 => 0
  | n + 1 => if (body / 2 ^ n % 2 == 1) = one then regimeRun body one n + 1 else 0

/-- Magnitude of a T8 body in units of 2^-12 (R208). -/
def t8Mag (body : Nat) : Nat :=
  if body = 0 then 0
  else
    let one := body / 64 % 2 == 1
    let m := regimeRun body one 7
    let rest := 7 - m - 1
    let k : Int := if one then (m : Int) - 1 else -(m : Int)
    let e := if rest = 0 then 0 else body / 2 ^ (rest - 1) % 2
    let nf := rest - 1
    2 ^ (2 * k + e + 12).toNat * (2 ^ nf + body % 2 ^ nf) / 2 ^ nf

/-- Magnitude of a T6 body in units of 2^-4 (R208). -/
def t6Mag (body : Nat) : Nat :=
  if body = 0 then 0
  else
    let one := body / 16 % 2 == 1
    let m := regimeRun body one 5
    let nf := 5 - m - 1
    let k : Int := if one then (m : Int) - 1 else -(m : Int)
    2 ^ (k + 4).toNat * (2 ^ nf + body % 2 ^ nf) / 2 ^ nf

/-- A tapered format: bits of its body, exponent of its unit, and the magnitudes of its bodies. -/
structure TapFmt where
  n : Nat
  unit : Int
  mag : Nat → Nat

/-- T8 and T6. -/
def tapT8 : TapFmt := { n := 7, unit := -12, mag := t8Mag }
def tapT6 : TapFmt := { n := 5, unit := -4, mag := t6Mag }

/-- A tapered code decoded, NaR as NaN (R211). -/
def TapFmt.decode (f : TapFmt) (x : Nat) : FNum :=
  let neg := x / 2 ^ f.n % 2 == 1
  let body := x % 2 ^ f.n
  if body = 0 then (if neg then .nan else .zero false) else .fin neg (f.mag body) f.unit false

/-- NaR of a tapered format. -/
def TapFmt.nar (f : TapFmt) : Nat := 2 ^ f.n

/-- The largest body whose magnitude is at most `m` units. -/
def TapFmt.below (f : TapFmt) (m : Nat) : Nat :=
  (List.range (2 ^ f.n)).foldl (fun b i => if f.mag i ≤ m then i else b) 0

/-! ## Rounding (R214, R215) -/

/-- Rounding modes (R212). -/
inductive Rm where
  | rne | rz | ru | rd | stochastic
  deriving DecidableEq, Repr

/-- A rounding mode by its code; 5 to 7 are refused by SETFMT (R213). -/
def rmOf (c : Nat) : Rm := if c = 1 then .rz else if c = 2 then .ru else if c = 3 then .rd else if c = 4 then .stochastic else .rne

/-- The two candidates of a rounding: `lo` and `hi` by a number that the destination reads, whether the value is `lo`
exactly, which is nearer, whether `lo` wins a tie, and d of R215. -/
structure Bracket where
  lo : Nat
  hi : Nat
  exact_ : Bool
  near : Ordering
  evenLo : Bool
  d : Nat
  deriving DecidableEq, Repr

/-- The choice between the candidates (R214, R215); `h` is the number that R215 forms of the neighbours. -/
def Bracket.pick (b : Bracket) (rm : Rm) (neg : Bool) (h : Nat) : Nat :=
  if b.exact_ then b.lo
  else
    match rm with
    | .rne => (match b.near with
      | .lt => b.lo
      | .gt => b.hi
      | .eq => if b.evenLo then b.lo else b.hi)
    | .rz => b.lo
    | .ru => if neg then b.lo else b.hi
    | .rd => if neg then b.hi else b.lo
    | .stochastic => if 2 ^ 16 ≤ b.d / 2 ^ 16 + h / 2 ^ 16 % 2 ^ 16 then b.hi else b.lo

/-- Candidates among the multiples of `2^k`: `lo` and `hi` count multiples. -/
def bracketUnit (q : Nat) (e : Int) (more : Bool) (k : Int) : Bracket :=
  if k ≤ e then
    { lo := q * 2 ^ (e - k).toNat, hi := q * 2 ^ (e - k).toNat + 1, exact_ := !more, near := .lt, evenLo := true, d := 0 }
  else
    let s := (k - e).toNat
    let lo := q / 2 ^ s
    let r := q % 2 ^ s
    { lo := lo, hi := lo + 1, exact_ := r == 0 && !more,
      near := if 2 * r = 2 ^ s then (if more then .gt else .eq) else compare (2 * r) (2 ^ s),
      evenLo := lo % 2 == 0, d := r * 2 ^ 32 / 2 ^ s }

/-- Exponent of the step of a binary format at a value, with an unbounded exponent (R214). -/
def BinFmt.step (f : BinFmt) (q : Nat) (e : Int) : Int := max f.ulp ((Nat.log2 q : Int) + e - (f.p : Int) + 1)

/-- The candidates of a rounding into a binary format. -/
def BinFmt.bracket (f : BinFmt) (q : Nat) (e : Int) (more : Bool) : Bracket := bracketUnit q e more (f.step q e)

/-- The candidates of a rounding into a tapered format, by body: a value at most the largest (R217). -/
def TapFmt.bracket (f : TapFmt) (q : Nat) (e : Int) : Bracket :=
  let u := min e f.unit
  let v := magAt q e u
  let up := fun (n : Nat) => magAt n f.unit u
  let b := f.below (v / 2 ^ (f.unit - u).toNat)
  let lo := up (f.mag b)
  let hi := up (f.mag (b + 1))
  if lo = v then { lo := b, hi := b, exact_ := true, near := .lt, evenLo := true, d := 0 }
  else
    { lo := b, hi := b + 1, exact_ := false, near := compare (2 * v) (lo + hi), evenLo := b % 2 == 0,
      d := (v - lo) * 2 ^ 32 / (hi - lo) }

/-- A value rounded into a binary format: its code, with overflow and saturation (R214, R216). -/
def BinFmt.round (f : BinFmt) (rm : Rm) (sat : Bool) (h : Nat) : FNum → Nat
  | .nan => f.nanCode
  | .inf n => f.signed n f.infCode
  | .fin s q e more =>
    if q = 0 ∧ more = false then f.signed s 0
    else
      let c := f.code ((f.bracket q e more).pick rm s h) (f.step q e)
      if c < f.infCode then f.signed s c
      else
        let big := f.infCode - 1
        if sat then f.signed s big
        else
          match rm with
          | .rz => f.signed s big
          | .ru => f.signed s (if s then big else f.infCode)
          | .rd => f.signed s (if s then f.infCode else big)
          | _ => f.signed s f.infCode

/-- d of a value for a binary format (R215). -/
def BinFmt.discard (f : BinFmt) : FNum → Nat
  | .fin _ q e more => if (f.bracket q e more).exact_ then 0 else (f.bracket q e more).d
  | _ => 0

/-- A finite value is above the largest of a tapered format. -/
def TapFmt.over (f : TapFmt) (q : Nat) (e : Int) : Bool :=
  let u := min e f.unit
  decide (magAt (f.mag (2 ^ f.n - 1)) f.unit u < magAt q e u)

/-- EncodeTapered (R217). -/
def TapFmt.encode (f : TapFmt) (rm : Rm) (sat : Bool) (h : Nat) : FNum → Nat
  | .nan => f.nar
  | .inf n => if sat then (if n then f.nar else 0) + (2 ^ f.n - 1) else f.nar
  | .fin s q e _ =>
    if q = 0 then 0
    else if f.over q e then (if sat then (if s then f.nar else 0) + (2 ^ f.n - 1) else f.nar)
    else
      let b := (f.bracket q e).pick rm s h
      if b = 0 then 0 else (if s then f.nar else 0) + b

/-- d of a value for a tapered format (R215). -/
def TapFmt.discard (f : TapFmt) : FNum → Nat
  | .fin _ q e _ => if q = 0 || f.over q e || (f.bracket q e).exact_ then 0 else (f.bracket q e).d
  | _ => 0

/-- A value rounded to an integer, in units of `2^u`, with its sign (R214, R218, R362). -/
def roundInt (u : Int) (rm : Rm) (h : Nat) (s : Bool) (q : Nat) (e : Int) (more : Bool) : Int :=
  let m := (bracketUnit q e more u).pick rm s h
  if s then -(m : Int) else (m : Int)

/-- d of a value for the integers, in units of `2^u`. -/
def discardInt (u : Int) : FNum → Nat
  | .fin _ q e more => if (bracketUnit q e more u).exact_ then 0 else (bracketUnit q e more u).d
  | _ => 0

/-- The number h of R215, from the d of the elements of a segment. -/
def stochasticH (d : Nat → Nat) (i : Nat) : Nat :=
  let a := d ((i + 31) % 32)
  let b := d ((i + 1) % 32) % 2 ^ 32
  ((a ^^^ ((b * 2 ^ 7 + b / 2 ^ 25) % 2 ^ 32) ^^^ i) * 0x7FEB352D) % 2 ^ 32

/-! ## Element types (R204) -/

/-- An integer type: its width and whether it is signed. -/
def intShape (ty : Nat) : Option (Nat × Bool) :=
  match ty with
  | 0 => some (32, true) | 1 => some (32, false) | 2 => some (64, true) | 3 => some (64, false)
  | 10 => some (8, true) | 11 => some (8, false) | 12 => some (16, true) | 13 => some (16, false)
  | 14 => some (32, false)
  | _ => none

/-- A binary floating type. -/
def binShape (ty : Nat) : Option BinFmt :=
  match ty with
  | 4 => some binF32 | 5 => some binF64 | 6 => some binF16 | 7 => some binBf16
  | _ => none

/-- A tapered type. -/
def tapShape (ty : Nat) : Option TapFmt :=
  match ty with
  | 8 => some tapT8 | 9 => some tapT6
  | _ => none

/-- An element decoded to its exact value. -/
def decodeElem (ty x : Nat) : FNum :=
  match binShape ty with
  | some f => f.decode x
  | none =>
    match tapShape ty with
    | some f => f.decode x
    | none =>
      match intShape ty with
      | some (w, true) => .ofInt (toSigned w x)
      | some (w, false) => .ofInt (x % 2 ^ w : Nat)
      | none => .nan

/-- What a conversion reads of `fmt` (R212, R216). -/
structure Conv where
  rm : Rm
  sat : Bool
  dsc : Int
  esc : Int
  deriving DecidableEq, Repr

/-- The conversion fields of a format register (R212). -/
def convOf (fmt : BitVec 32) : Conv :=
  { rm := rmOf (bits 14 12 fmt.toNat), sat := fmt.getLsbD 15, dsc := toSigned 8 (bits 23 16 fmt.toNat),
    esc := toSigned 8 (bits 31 24 fmt.toNat) }

/-- The scales of R216: `acc` marks a source that is an accumulator entry. -/
def Conv.scaled (c : Conv) (acc : Bool) (src dst : Nat) (v : FNum) : FNum :=
  let v := if !acc && (tapShape src).isSome then v.scale c.dsc else v
  if acc || (tapShape dst).isSome then v.scale c.esc else v

/-- A clamp to the range of an integer type. -/
def clampInt (w : Nat) (signed : Bool) (i : Int) : Int :=
  let lo : Int := if signed then -(2 ^ (w - 1) : Nat) else 0
  let hi : Int := if signed then (2 ^ (w - 1) : Nat) - 1 else (2 ^ w : Nat) - 1
  max lo (min hi i)

/-- ToInteger (R218), for a scaled value; `isInt` marks an integer source. -/
def toInteger (c : Conv) (isInt : Bool) (w : Nat) (signed : Bool) (h : Nat) : FNum → Nat
  | .nan => 0
  | .inf n =>
    ofSigned w (clampInt w signed (if n then -(2 ^ w : Nat) else (2 ^ w : Nat)))
  | .fin s q e more =>
    let i := roundInt 0 c.rm h s q e more
    if isInt && !c.sat then ofSigned w i else ofSigned w (clampInt w signed i)

/-- The code of a scaled value in the destination type (R216). `isInt` marks an integer source. -/
def Conv.finish (c : Conv) (isInt : Bool) (dst h : Nat) (v : FNum) : Nat :=
  match binShape dst with
  | some f => f.round c.rm c.sat h v
  | none =>
    match tapShape dst with
    | some f => f.encode c.rm c.sat h v
    | none =>
      match intShape dst with
      | some (w, signed) => toInteger c isInt w signed h v
      | none => 0

/-- d of a scaled value for the destination type (R215). -/
def discardOf (dst : Nat) (v : FNum) : Nat :=
  match binShape dst with
  | some f => f.discard v
  | none =>
    match tapShape dst with
    | some f => f.discard v
    | none => discardInt 0 v

/-- A type is an integer type other than b32. -/
def isIntType (ty : Nat) : Bool := ty != 14 && (intShape ty).isSome

/-- An f32 code widened to f64 (R216). -/
def widenF32 (x : Nat) : Nat := binF64.round .rne false 0 (binF32.decode x)

/-! ## f32 and f64 operations rounded to nearest even (R229, R240) -/

/-- One operation's result in f32 or f64, rounded once to nearest even. -/
def BinFmt.rne (f : BinFmt) (v : FNum) : Nat := f.round .rne false 0 v

/-! ## Accumulator entries (R220) -/

/-- The wide-float entry format. -/
def wideUlp : Int := -16461

/-- A wide-float entry decoded. -/
def decodeWide (x : Nat) : FNum :=
  let neg := x / 2 ^ 95 % 2 == 1
  let ex := x / 2 ^ 80 % 2 ^ 15
  let m := x % 2 ^ 80
  if ex = 0x7FFF then (if m = 0 then .inf neg else .nan)
  else if ex = 0 then .fin neg m wideUlp false
  else if m < 2 ^ 79 then .nan
  else .fin neg m (wideUlp + (ex - 1 : Nat)) false

/-- The default NaN and infinity of the wide-float entry. -/
def wideNan : Nat := 0x7FFFC0000000000000000000
def wideInf (neg : Bool) : Nat := 0x7FFF * 2 ^ 80 + (if neg then 2 ^ 95 else 0)

/-- RoundWide (R223): to the 80-bit significand, nearest even. -/
def roundWide : FNum → Nat
  | .nan => wideNan
  | .inf n => wideInf n
  | .fin s q e more =>
    let sg := if s then 2 ^ 95 else 0
    if q = 0 then sg
    else
      let k := max wideUlp ((Nat.log2 q : Int) + e - 79)
      let m := (bracketUnit q e more k).pick .rne s 0
      let (m, k) := if m = 2 ^ 80 then (2 ^ 79, k + 1) else (m, k)
      if m < 2 ^ 79 then sg + m
      else
        let ex := (k - wideUlp + 1).toNat
        if 0x7FFF ≤ ex then wideInf s else sg + ex * 2 ^ 80 + m

/-- NaR of an exact-mode entry. -/
def exactNar : Nat := 2 ^ 95

/-- An exact-mode entry decoded. -/
def decodeExact (x : Nat) : FNum := if x % 2 ^ 96 = exactNar then .nan else (FNum.ofInt (toSigned 96 x)).scale (-24)

/-- An integer in units of 2^-24 as an exact-mode entry, NaR past its range (R222, R362). -/
def encodeExact (i : Int) : Nat := if ((2 ^ 95 - 1 : Nat) : Int) < i.natAbs then exactNar else ofSigned 96 i

end Sys2Proof.Machine
end

