-- ==== Sys2Proof/Machine/Operands.lean ====
section
/-!
DEFINITION. Lane instructions at issue: their active lanes (R316, R317), register groups and operand forms (R186 to R190, R205,
R265 to R268), the checks of R292 in their order, the register interlock (R194, R356), and how an instruction leaves its clause.
-/

namespace Sys2Proof.Machine

/-! ## The issuing lane instruction -/

/-- A lane instruction that issues: its path, its clause, its fields and its active lanes (R316). -/
structure LaneCtx where
  w : Who
  c : Clause
  f : LaneFields
  lanes : List Nat
  deriving DecidableEq, Repr

/-- The guard of a lane (R317). -/
def guardOf (t : Team) (f : LaneFields) (l : Nat) : Bool := t.p l f.gp.toNat != (f.gn == 1)

/-- The lanes that an instruction runs for: those of the captured mask, or the unfinished ones of a replay, whose guard is
true (R316, R317, R354). They lie in the passes that run (R185; Laws/Lane, activeLane_pass). -/
def activeLanes (t : Team) (c : Clause) (f : LaneFields) : List Nat :=
  (lanesOf (c.only.getD c.mask) t.k.lanes).filter (guardOf t f)

/-- The element type of the instruction. -/
def LaneCtx.ty (x : LaneCtx) : Nat := x.f.ty.toNat

/-- The team before the instruction. -/
def LaneCtx.team (x : LaneCtx) : Team := x.w.team

/-- A scalar register from the clause snapshot (R191). -/
def Clause.scalar (c : Clause) (r : Reg6) : Word64 := if r = 0 then 0 else Tab.get 0 c.snap r.toNat

/-! ## Index registers in bounds (R188) -/

/-- The index register of a lane is out of bounds for a group of `k` registers or pairs (R188, R340). -/
def indexBad (t : Team) (f : LaneFields) (ty k l : Nat) : Bool :=
  let x := t.x l (f.vb.toNat % 8)
  decide (xLimit x ≤ xIndex x) || decide (t.vcount < indexed t f ty l + k * regsOf ty) || (is64 ty && xBase x % 2 == 1)

/-- The first register of the b operand in a lane, for a register operand (R267). -/
def bFirst (t : Team) (f : LaneFields) (ty l : Nat) : Nat := if f.bsel = 3 then indexed t f ty l else f.vb.toNat

/-! ## The b operand (R267, R268) -/

/-- Bits of IMM that must be zero are set, for an immediate of the type (R268). -/
def immRefused (ty : Nat) (imm : BitVec 32) : Bool :=
  if ty = 9 then field imm 6 26 != 0
  else if elemBits ty = 8 then field imm 8 24 != 0
  else if elemBits ty = 16 then field imm 16 16 != 0
  else false

/-- The value of an immediate in a register or pair (R268). -/
def immValue (ty : Nat) (imm : BitVec 32) : Nat :=
  if ty = 2 then (imm.signExtend 64).toNat
  else if ty = 5 then widenF32 imm.toNat
  else if is64 ty ∨ elemBits ty = 32 then imm.toNat
  else broadcast ty (imm.toNat % 2 ^ elemBits ty)

/-- The value that a scalar register gives (R267). -/
def scalarValue (ty : Nat) (s : Word64) : Nat :=
  if is64 ty then s.toNat
  else if elemBits ty = 32 then s.toNat % 2 ^ 32
  else broadcast ty (s.toNat % 2 ^ (if ty = 9 then 6 else elemBits ty))

/-- The fields of a full b operand break R267 or R268; SS and IMM serve nothing else. -/
def bRefused (f : LaneFields) (ty : Nat) : Bool :=
  if f.bsel = 0 then f.ss != 0 || f.imm != 0
  else if f.bsel = 1 then f.vb != 0 || f.imm != 0
  else if f.bsel = 2 then f.vb != 0 || f.ss != 0 || immRefused ty f.imm
  else field f.vb 3 5 != 0 || f.ss != 0 || f.imm != 0

/-- The b operand of a lane: a register or pair as a number (R267). -/
def LaneCtx.b (x : LaneCtx) (ty l : Nat) : Nat :=
  if x.f.bsel = 1 then scalarValue ty (x.c.scalar x.f.ss)
  else if x.f.bsel = 2 then immValue ty x.f.imm
  else x.team.rd ty l (bFirst x.team x.f ty l)

/-! ## The issue checks (R292) -/

/-- What an instruction asks of its word, registers, types and operands. -/
structure LaneSpec where
  /-- A field, MOD bit, operand form or order that traps RESERVED_FIELD. -/
  reserved : Bool
  /-- The types of its class, or none when TYPE must be zero (R289). -/
  types : Option (List Nat)
  /-- A format in `fmt` or MOD that the instruction refuses. -/
  badType : Bool
  groups : List RegGroup
  overlap : Bool
  /-- The lowest active lane whose index register is out of bounds (R188, R249). -/
  bounds : Option Nat
  /-- Groups that index registers name, for the interlock. -/
  viaIndex : List RegGroup
  deriving DecidableEq, Repr

/-- A specification that asks for nothing. -/
def LaneSpec.plain : LaneSpec :=
  { reserved := false, types := none, badType := false, groups := [], overlap := false, bounds := none, viaIndex := [] }

/-- TYPE lies outside the class (R289). -/
def LaneSpec.outside (p : LaneSpec) (ty : Nat) : Bool :=
  match p.types with
  | some l => !l.contains ty
  | none => false

/-- The trap of an instruction at issue, in the order of R292. ILLEGAL_OPCODE is decoding's. -/
def LaneSpec.trap (p : LaneSpec) (x : LaneCtx) : Option TrapClass :=
  if x.f.ty = 15 ∨ (x.f.gp = 0 ∧ x.f.gn = 1) ∨ p.reserved ∨ (p.types.isNone ∧ x.f.ty ≠ 0)
      ∨ p.groups.any (fun g => g.refused x.team.vcount) then some .reservedField
  else if p.outside x.ty ∨ p.badType then some .illegalType
  else if p.overlap then some .operandOverlap
  else if p.bounds.isSome then some .indexBounds
  else none

/-- Type classes (R289). -/
def clsInt : List Nat := [0, 1, 2, 3, 10, 11, 12, 13]
def clsSint : List Nat := [0, 2, 10, 12]
def clsIntb : List Nat := [0, 1, 2, 3, 10, 11, 12, 13, 14]
def clsW : List Nat := [0, 1, 2, 3, 14]
def clsAi : List Nat := [0, 1, 2, 3]
def clsFlt : List Nat := [4, 5, 6, 7]
def clsFt : List Nat := [4, 5, 6, 7, 8, 9]
def clsMw : List Nat := [0, 4, 6, 7, 8, 9, 10, 11]
def clsQf : List Nat := [4, 5]
def clsAll : List Nat := List.range 15
def clsCvt : List Nat := List.range 14
def clsB32 : List Nat := [14]
def clsF32 : List Nat := [4]

/-- MOD bits outside `mask` are set. -/
def modRefused (f : LaneFields) (mask : BitVec 6) : Bool := f.md &&& ~~~mask != 0

/-- No b operand, and SS and IMM unused. -/
def noB (f : LaneFields) : Bool := f.bsel != 0 || f.vb != 0 || f.ss != 0 || f.imm != 0

/-- The groups that a b operand of `k` registers or pairs reads, and those that it names through index registers. -/
def bGroups (x : LaneCtx) (ty k : Nat) : List RegGroup := if x.f.bsel = 0 then [group ty x.f.vb k false] else []

/-- The groups that index registers name for the b operand. -/
def bIndexed (x : LaneCtx) (ty k : Nat) : List RegGroup :=
  if x.f.bsel = 3 then
    (x.lanes.map (fun l => ({ first := indexed x.team x.f ty l, count := k * regsOf ty, even := false, write := false } : RegGroup))).eraseDups
  else []

/-- The lowest active lane in which a b operand of `k` registers or pairs is out of bounds (R188, R249). -/
def bBounds (x : LaneCtx) (ty k : Nat) : Option Nat :=
  if x.f.bsel = 3 then x.lanes.find? (indexBad x.team x.f ty k) else none

/-! ## Issue and completion -/

/-- A trap of a lane instruction, which ends its clause there (R247, R292). -/
def trapLane (s : State) (w : Who) (c : TrapClass) (lane : Nat) (va : Word64) : State := s.trapError w.key w.pi c lane va

/-- The lane in which a check over the whole instruction is reported: its lowest active lane, or the lowest of the captured mask
when none is active (log entry 44). -/
def LaneCtx.firstLane (x : LaneCtx) : Nat := x.lanes.headD (((lanesOf x.c.mask 1024).head?).getD 0)

/-- A lane instruction: its issue checks, its interlock, and then its effect (R246, R292, R194). An instruction that waits
holds the datapath, and issues again. -/
def laneOp (s : State) (f : LaneFields) (spec : LaneCtx → LaneSpec) (body : State → LaneCtx → State) : Outcome :=
  match issuer s with
  | none => .fault .noIssuer
  | some w =>
    match w.path.run with
    | none => .fault .noIssuer
    | some c =>
      let x : LaneCtx := { w := w, c := c, f := f, lanes := activeLanes w.team c f }
      let p := spec x
      match p.trap x with
      | some k => .next (trapLane s w k (if k = .indexBounds then p.bounds.getD x.firstLane else x.firstLane) 0)
      | none => if s.interlocked w.key (p.groups ++ p.viaIndex) then .next s else .next (body s x)

/-- The clause after its head instruction. -/
def Clause.pop (c : Clause) : Clause :=
  { c with body := c.body.tail, pos := c.pos + 1, only := none, stopped := false, watched := [], sent := none }

/-- The head instruction of a path's clause has issued; a clause with none left has ended (R193). -/
def Path.popLane (p : Path) : Path :=
  match p.run with
  | none => p
  | some c => if c.body.length ≤ 1 then { p with run := none, done := p.done ++ [c.pop] } else { p with run := some c.pop }

/-- A lane instruction has issued: its clause goes on, or ends and gives up the datapath (R87). -/
def laneDone (s : State) (w : Who) : State :=
  let s := s.onPath w Path.popLane
  if ((s.path w.key w.pi).bind (·.run)).isNone then s.leaveData w.key else s

/-- The active lanes write a value each, computed from the team before the instruction, and the instruction completes. -/
def LaneCtx.writeLanes (x : LaneCtx) (s : State) (put : Team → Nat → Team) : State :=
  laneDone (s.modTeam x.w.key (fun t => x.lanes.foldl put t)) x.w

/-- The active lanes write vd. -/
def LaneCtx.writeVd (x : LaneCtx) (s : State) (ty : Nat) (g : Nat → Nat) : State :=
  x.writeLanes s (fun t l => t.wr ty l x.f.vd.toNat (g l))

end Sys2Proof.Machine
end

