-- ==== Sys2Proof/Machine/Scalar.lean ====
section
/-!
DEFINITION. The integer instructions of the scalar stream (R294 to R297).
-/

namespace Sys2Proof.Machine

/-! ## Shared operations -/

/-- A register that the instruction reads or writes is marked on the path's scoreboard (R195, R294). -/
def Path.anyMarked (p : Path) (rs : List Reg6) : Bool := rs.any (fun r => p.marked r.toNat)

/-- A scalar instruction after its encoding check and its interlock (R288, R294): a field that must be zero traps
RESERVED_FIELD, and a marked register makes the path wait. -/
def scalarOp (s : State) (reserved : Bool) (rs : List Reg6) (f : Who → State) : Outcome :=
  withIssuer s fun w =>
    if reserved then trapScalar s w .reservedField
    else if w.path.anyMarked rs then waitFor s w (.scoreboard (rs.map (·.toNat)))
    else f w

/-- An instruction `op sd, sa, sb` of the integer group (R295). -/
def intOp (s : State) (sd sa sb : Reg6) (f : Word64 → Word64 → Word64) : Outcome :=
  scalarOp s false [sd, sa, sb] fun w => writeNext s w sd (f (w.path.s sa) (w.path.s sb))

/-- An instruction `op sd, sa` of the integer group, whose sb field must be zero (R295). -/
def intOp1 (s : State) (sd sa sb : Reg6) (f : Word64 → Word64) : Outcome :=
  scalarOp s (sb != 0) [sd, sa] fun w => writeNext s w sd (f (w.path.s sa))

/-- An instruction `op sd, sa, imm` (R296). -/
def immOp (s : State) (sd sa : Reg6) (f : Word64 → Word64) : Outcome :=
  scalarOp s false [sd, sa] fun w => writeNext s w sd (f (w.path.s sa))

/-- A shift by an immediate, which must be 0 to 63 (R296). -/
def shiftImmOp (s : State) (sd sa : Reg6) (imm : BitVec 13) (f : Word64 → Nat → Word64) : Outcome :=
  scalarOp s (decide (64 ≤ imm.toNat)) [sd, sa] fun w => writeNext s w sd (f (w.path.s sa) imm.toNat)

/-- An immediate sign-extended to 64 bits (R264). -/
def simm {n : Nat} (imm : BitVec n) : Word64 := imm.signExtend 64

/-- 1 when a condition holds, else 0. -/
def truth (b : Bool) : Word64 := if b then 1 else 0

/-- The shift amount of a register operand (R295). -/
def shamt (b : Word64) : Nat := b.toNat % 64

/-- Leading zero bits of a word. -/
def leadingZeros {n : Nat} (x : BitVec n) : Nat := ((List.range n).find? (fun i => x.getLsbD (n - 1 - i))).getD n

/-- Trailing zero bits of a word. -/
def trailingZeros {n : Nat} (x : BitVec n) : Nat := ((List.range n).find? (fun i => x.getLsbD i)).getD n

/-- Set bits of a word. -/
def popCount {n : Nat} (x : BitVec n) : Nat := ((List.range n).filter (fun i => x.getLsbD i)).length

/-- The signed quotient, truncated toward zero; a zero divisor gives all ones (R295). -/
def quotSigned {n : Nat} (a b : BitVec n) : BitVec n := if b = 0 then BitVec.allOnes n else a.sdiv b

/-- The unsigned quotient; a zero divisor gives all ones (R295). -/
def quotUnsigned {n : Nat} (a b : BitVec n) : BitVec n := if b = 0 then BitVec.allOnes n else a / b

/-- The signed remainder, with the sign of the dividend; a zero divisor gives the dividend (R295). -/
def remSigned {n : Nat} (a b : BitVec n) : BitVec n := if b = 0 then a else a.srem b

/-- The unsigned remainder; a zero divisor gives the dividend (R295). -/
def remUnsigned {n : Nat} (a b : BitVec n) : BitVec n := if b = 0 then a else a % b

/-- High half of the signed product. -/
def mulHigh {n : Nat} (a b : BitVec n) : BitVec n := BitVec.ofInt n (a.toInt * b.toInt / ((2 ^ n : Nat) : Int))

/-- High half of the unsigned product. -/
def mulHighU {n : Nat} (a b : BitVec n) : BitVec n := BitVec.ofNat n (a.toNat * b.toNat / 2 ^ n)

/-- Bits [m:0] of a word, sign-extended from bit m (R295). -/
def sextFrom (a : Word64) (m : Nat) : Word64 := (a <<< (63 - m)).sshiftRight (63 - m)

/-- The upper immediate of LUI and ADDPC (R297). -/
def upperImm (imm : BitVec 19) : Word64 := (imm ++ 0#13 : BitVec 32).signExtend 64

/-! ## The SR integer group (R295) -/

/-- ADD (R295). -/
def execAdd (sd sa sb : Reg6) (s : State) : Outcome := intOp s sd sa sb fun a b => a + b

/-- SUB (R295). -/
def execSub (sd sa sb : Reg6) (s : State) : Outcome := intOp s sd sa sb fun a b => a - b

/-- AND (R295). -/
def execAnd (sd sa sb : Reg6) (s : State) : Outcome := intOp s sd sa sb fun a b => a &&& b

/-- OR (R295). -/
def execOr (sd sa sb : Reg6) (s : State) : Outcome := intOp s sd sa sb fun a b => a ||| b

/-- XOR (R295). -/
def execXor (sd sa sb : Reg6) (s : State) : Outcome := intOp s sd sa sb fun a b => a ^^^ b

/-- ANDN (R295). -/
def execAndn (sd sa sb : Reg6) (s : State) : Outcome := intOp s sd sa sb fun a b => a &&& ~~~b

/-- SHL (R295). -/
def execShl (sd sa sb : Reg6) (s : State) : Outcome := intOp s sd sa sb fun a b => a <<< shamt b

/-- SHR (R295). -/
def execShr (sd sa sb : Reg6) (s : State) : Outcome := intOp s sd sa sb fun a b => a >>> shamt b

/-- SAR (R295). -/
def execSar (sd sa sb : Reg6) (s : State) : Outcome := intOp s sd sa sb fun a b => a.sshiftRight (shamt b)

/-- ROL (R295). -/
def execRol (sd sa sb : Reg6) (s : State) : Outcome := intOp s sd sa sb fun a b => a.rotateLeft (shamt b)

/-- ROR (R295). -/
def execRor (sd sa sb : Reg6) (s : State) : Outcome := intOp s sd sa sb fun a b => a.rotateRight (shamt b)

/-- SLT (R295). -/
def execSlt (sd sa sb : Reg6) (s : State) : Outcome := intOp s sd sa sb fun a b => truth (a.slt b)

/-- SLTU (R295). -/
def execSltu (sd sa sb : Reg6) (s : State) : Outcome := intOp s sd sa sb fun a b => truth (a.ult b)

/-- SEQ (R295). -/
def execSeq (sd sa sb : Reg6) (s : State) : Outcome := intOp s sd sa sb fun a b => truth (a == b)

/-- MIN (R295). -/
def execMin (sd sa sb : Reg6) (s : State) : Outcome := intOp s sd sa sb fun a b => if a.slt b then a else b

/-- MAX (R295). -/
def execMax (sd sa sb : Reg6) (s : State) : Outcome := intOp s sd sa sb fun a b => if a.slt b then b else a

/-- MINU (R295). -/
def execMinu (sd sa sb : Reg6) (s : State) : Outcome := intOp s sd sa sb fun a b => if a.ult b then a else b

/-- MAXU (R295). -/
def execMaxu (sd sa sb : Reg6) (s : State) : Outcome := intOp s sd sa sb fun a b => if a.ult b then b else a

/-- MUL (R295). -/
def execMul (sd sa sb : Reg6) (s : State) : Outcome := intOp s sd sa sb fun a b => a * b

/-- MULH (R295). -/
def execMulh (sd sa sb : Reg6) (s : State) : Outcome := intOp s sd sa sb fun a b => mulHigh a b

/-- MULHU (R295). -/
def execMulhu (sd sa sb : Reg6) (s : State) : Outcome := intOp s sd sa sb fun a b => mulHighU a b

/-- DIV (R295). -/
def execDiv (sd sa sb : Reg6) (s : State) : Outcome := intOp s sd sa sb fun a b => quotSigned a b

/-- DIVU (R295). -/
def execDivu (sd sa sb : Reg6) (s : State) : Outcome := intOp s sd sa sb fun a b => quotUnsigned a b

/-- REM (R295). -/
def execRem (sd sa sb : Reg6) (s : State) : Outcome := intOp s sd sa sb fun a b => remSigned a b

/-- REMU (R295). -/
def execRemu (sd sa sb : Reg6) (s : State) : Outcome := intOp s sd sa sb fun a b => remUnsigned a b

/-- CLZ, whose sb field must be zero (R295). -/
def execClz (sd sa sb : Reg6) (s : State) : Outcome := intOp1 s sd sa sb fun a => BitVec.ofNat 64 (leadingZeros a)

/-- CTZ, whose sb field must be zero (R295). -/
def execCtz (sd sa sb : Reg6) (s : State) : Outcome := intOp1 s sd sa sb fun a => BitVec.ofNat 64 (trailingZeros a)

/-- POPC, whose sb field must be zero (R295). -/
def execPopc (sd sa sb : Reg6) (s : State) : Outcome := intOp1 s sd sa sb fun a => BitVec.ofNat 64 (popCount a)

/-- SEXT (R295). -/
def execSext (sd sa sb : Reg6) (s : State) : Outcome := intOp s sd sa sb fun a b => sextFrom a (shamt b)

/-! ## The SI group (R296) -/

/-- ADDI (R296). -/
def execAddi (sd sa : Reg6) (imm : BitVec 13) (s : State) : Outcome := immOp s sd sa fun a => a + simm imm

/-- ANDI (R296). -/
def execAndi (sd sa : Reg6) (imm : BitVec 13) (s : State) : Outcome := immOp s sd sa fun a => a &&& simm imm

/-- ORI (R296). -/
def execOri (sd sa : Reg6) (imm : BitVec 13) (s : State) : Outcome := immOp s sd sa fun a => a ||| simm imm

/-- XORI (R296). -/
def execXori (sd sa : Reg6) (imm : BitVec 13) (s : State) : Outcome := immOp s sd sa fun a => a ^^^ simm imm

/-- SLTI (R296). -/
def execSlti (sd sa : Reg6) (imm : BitVec 13) (s : State) : Outcome := immOp s sd sa fun a => truth (a.slt (simm imm))

/-- SLTIU (R296). -/
def execSltiu (sd sa : Reg6) (imm : BitVec 13) (s : State) : Outcome := immOp s sd sa fun a => truth (a.ult (simm imm))

/-- SHLI (R296). -/
def execShli (sd sa : Reg6) (imm : BitVec 13) (s : State) : Outcome :=
  shiftImmOp s sd sa imm fun a n => a <<< n

/-- SHRI (R296). -/
def execShri (sd sa : Reg6) (imm : BitVec 13) (s : State) : Outcome :=
  shiftImmOp s sd sa imm fun a n => a >>> n

/-- SARI (R296). -/
def execSari (sd sa : Reg6) (imm : BitVec 13) (s : State) : Outcome :=
  shiftImmOp s sd sa imm fun a n => a.sshiftRight n

/-! ## Upper immediates (R297) -/

/-- LUI (R297). -/
def execLui (sd : Reg6) (imm : BitVec 19) (s : State) : Outcome :=
  scalarOp s false [sd] fun w => writeNext s w sd (upperImm imm)

/-- ADDPC (R297). -/
def execAddpc (sd : Reg6) (imm : BitVec 19) (s : State) : Outcome :=
  scalarOp s false [sd] fun w => writeNext s w sd (w.path.spc + upperImm imm)

end Sys2Proof.Machine
end

