-- ==== Sys2Proof/Machine/ScalarMem.lean ====
section
/-!
DEFINITION. The memory instructions of the scalar stream: loads, stores, atomics, fences and shoot-downs (R308 to R314).
-/

namespace Sys2Proof.Machine

/-! ## Shared operations -/

/-- The trap class of a held access, which is an error inside a handler (R248). -/
def Hold.trapClass : Hold → Option TrapClass
  | .pageFault => some .pageFault
  | .rangeLocked => some .rangeLocked
  | .kvRebuilding => some .kvRebuilding
  | .freeFrame _ => none
  | .kvCopy => none
  | .tableSpace => none
  | .engineSlot => none
  | .sequencer => none

/-- An access of a path is held: it parks, or inside a handler takes the class as an error (R134, R248, R354). -/
def heldAt (s : State) (w : Who) (h : Hold) (lanes : Mask) (lane : Bool) (i : Option FaultInfo) (va : Word64) : State :=
  match (if w.team.handler.isSome then h.trapClass else none) with
  | some c => s.trapError w.key w.pi c ((lanesOf lanes 1024).headD w.path.firstLane) va
  | none => s.parkAt w.key w.pi h lanes lane i

/-- The KV addresses among those that a parked path holds (R156, R158). -/
def State.noteHeld (s : State) (w : Who) (vas : List (Nat × Word64)) : State :=
  match vas.filter (fun e => spaceOf e.2 == 5) with
  | [] => s
  | ks => s.onPath w (fun p => { p with park := p.park.map (fun k => { k with kvs := ks }) })

/-- After an instruction completes, the lowest watchpoint that its accesses matched stops its path (R246, R254), inside its
clause for a lane instruction; a step in hand notes the first match (R255). -/
def watchStop (s : State) (w : Who) (hits : List (Nat × Mask)) (lane : Bool) : State :=
  match (if !lane && ((s.path w.key w.pi).bind (·.wait)).isSome then [] else hits) with
  | [] => s
  | (i, m) :: _ =>
    match (if s.stepOf w.key w.pi then s.dbg.stepping else none) with
    | some d =>
      if d.watch.isSome then s
      else { s with dbg := { s.dbg with stepping := some { d with watch := some (i, if lane then m else w.path.mask) } } }
    | none =>
      let s := s.stopPath w.key w.pi TrapClass.watchpoint.code i (if lane then m else w.path.mask)
      if lane then
        (s.onPath w (fun p => p.stopClause none)).leaveData w.key
      else s

/-- One access of the scalar stream in the order of R246: the first checks, its target, what it must wait for, the
commit that a release makes, and then `f`. No walk goes before an acquire in flight (R182). -/
def scalarAccess (s : State) (w : Who) (a : Acc) (f : State → Target → State) : State :=
  match firstChecks s w a with
  | some c => trapScalar s w c a.addr
  | none =>
    if s.acquiring w false then waitFor s w .fence
    else
    match s.follow w a with
    | (s1, .err c) => trapScalar s1 w c a.addr
    | (s1, .held h i) => (heldAt s1 w h 0 false i a.addr).noteHeld w [(w.path.firstLane, a.addr)]
    | (s1, .later) => waitLease s1 w []
    | (s1, .at_ t) =>
      match s1.mustWait w a t with
      | some .lease => waitLease s1 w [(a, t)]
      | some r => waitFor s1 w r
      | none =>
        let s2 := (if releases a.ord then s1.release w a.scope else s1).dropTurns w false
        watchStop (f s2 t) w (watchMatch s2 w [a]) false

/-- A path has as many loads and atomics outstanding as it may (R294). -/
def Path.loadsFull (p : Path) : Bool := decide (8 ≤ p.loadsOut)

/-! ## Loads and stores (R308, R309) -/

/-- A scalar access as R308 forms it. -/
def scalarAcc (w : Who) (kind : AccKind) (ord scp : BitVec 2) (st : BitVec 1) (sz : BitVec 2) (off : BitVec 5) (sa : Reg6) :
    Acc :=
  { kind := kind, addr := w.path.s sa + BitVec.ofNat 64 (off.toNat * 2 ^ sz.toNat), size := 2 ^ sz.toNat,
    ord := ord.toNat, scope := scp.toNat, strong := st == 1, hint := 0, lane := none, uniform := false,
    tableOk := sz == 3 }

/-- LD (R309): sd is written when the data returns. -/
def execLd (ord scp : BitVec 2) (st : BitVec 1) (sz : BitVec 2) (sx : BitVec 1) (off : BitVec 5) (sd sa : Reg6)
    (s : State) : Outcome :=
  scalarOp s (orderRefused .load ord.toNat scp.toNat (st == 1) || (sx == 1 && sz == 3)) [sd, sa] fun w =>
    if w.path.loadsFull then waitFor s w .loads
    else
      let a := scalarAcc w .load ord scp st sz off sa
      scalarAccess s w a fun s t =>
        match s.performLoad w a t (.scalar sd.toNat a.size (sx == 1)) with
        | (s, some b) => s.onPath w (fun p => (p.setS sd (extendBytes b (sx == 1))).next)
        | (s, none) => s.onPath w Path.next

/-- ST (R309). -/
def execSt (ord scp : BitVec 2) (st : BitVec 1) (sz : BitVec 2) (sx : BitVec 1) (off : BitVec 5) (sb sa : Reg6)
    (s : State) : Outcome :=
  scalarOp s (orderRefused .store ord.toNat scp.toNat (st == 1) || sx == 1) [sb, sa] fun w =>
    let a := scalarAcc w .store ord scp st sz off sa
    scalarAccess s w a fun s t =>
      (s.performStore w a t (toBytes a.size (w.path.s sb).toNat)).onPath w Path.next

/-! ## Atomics (R310) -/

/-- A scalar atomic (R310): the old value goes to sd, sign-extended for a 32-bit one. AMOCAS compares with sd. -/
def amo (s : State) (op : AtomicOp) (ord scp : BitVec 2) (w32 : BitVec 1) (sd sa sb : Reg6) : Outcome :=
  scalarOp s false [sd, sa, sb] fun w =>
    if w.path.loadsFull then waitFor s w .loads
    else
      let n := if w32 = 1 then 4 else 8
      let x := (w.path.s sb).toNat % 2 ^ (8 * n)
      let c := (w.path.s sd).toNat % 2 ^ (8 * n)
      let a : Acc := { kind := .atomic, addr := w.path.s sa, size := n, ord := ord.toNat, scope := scp.toNat, strong := true,
                       hint := 0, lane := none, uniform := false, tableOk := w32 == 0 }
      scalarAccess s w a fun s t =>
        match s.performAtomic w a t [fun old => (atomicNew op n (ofBytes old) x c).map (toBytes n)] (.atomic op n [(x, c)])
            (.scalar sd.toNat n (w32 == 1)) with
        | (s, some b) => s.onPath w (fun p => (p.setS sd (extendBytes (b.headD []) (w32 == 1))).next)
        | (s, none) => s.onPath w Path.next

/-- AMOADD (R310). -/
def execAmoadd (ord scp : BitVec 2) (w : BitVec 1) (sd sa sb : Reg6) (s : State) : Outcome :=
  amo s .add ord scp w sd sa sb

/-- AMOAND (R310). -/
def execAmoand (ord scp : BitVec 2) (w : BitVec 1) (sd sa sb : Reg6) (s : State) : Outcome :=
  amo s .and ord scp w sd sa sb

/-- AMOOR (R310). -/
def execAmoor (ord scp : BitVec 2) (w : BitVec 1) (sd sa sb : Reg6) (s : State) : Outcome :=
  amo s .or ord scp w sd sa sb

/-- AMOXOR (R310). -/
def execAmoxor (ord scp : BitVec 2) (w : BitVec 1) (sd sa sb : Reg6) (s : State) : Outcome :=
  amo s .xor ord scp w sd sa sb

/-- AMOMIN (R310). -/
def execAmomin (ord scp : BitVec 2) (w : BitVec 1) (sd sa sb : Reg6) (s : State) : Outcome :=
  amo s .min ord scp w sd sa sb

/-- AMOMAX (R310). -/
def execAmomax (ord scp : BitVec 2) (w : BitVec 1) (sd sa sb : Reg6) (s : State) : Outcome :=
  amo s .max ord scp w sd sa sb

/-- AMOMINU (R310). -/
def execAmominu (ord scp : BitVec 2) (w : BitVec 1) (sd sa sb : Reg6) (s : State) : Outcome :=
  amo s .minu ord scp w sd sa sb

/-- AMOMAXU (R310). -/
def execAmomaxu (ord scp : BitVec 2) (w : BitVec 1) (sd sa sb : Reg6) (s : State) : Outcome :=
  amo s .maxu ord scp w sd sa sb

/-- AMOSWAP (R310). -/
def execAmoswap (ord scp : BitVec 2) (w : BitVec 1) (sd sa sb : Reg6) (s : State) : Outcome :=
  amo s .swap ord scp w sd sa sb

/-- AMOCAS (R310). -/
def execAmocas (ord scp : BitVec 2) (w : BitVec 1) (sd sa sb : Reg6) (s : State) : Outcome :=
  amo s .cas ord scp w sd sa sb

/-! ## Fences and shoot-downs (R311 to R314) -/

/-- A release fence of a path: it commits at nb scope or wider (R311). -/
def releaseFence (s : State) (w : Who) (scope : Nat) : State :=
  if 1 ≤ scope ∧ s.commitBlocked w.key then waitFor s w .commit
  else (s.release w scope).onPath w Path.next

/-- What a fence waits for (R311): every clause enqueued before it has ended, and of the accesses that are in flight a release waits for
each and an acquire for the strong ones (log entry 141). -/
def State.fenceWaits (s : State) (w : Who) (release : Bool) : Bool :=
  !w.path.ended || (s.inFlight w true).any (fun p => release || p.strong)

/-- FENCE (R311): it waits until every clause enqueued before it has ended, and for the earlier accesses of the path. -/
def execFence (fn : BitVec 7) (sd sa sb : Reg6) (s : State) : Outcome :=
  scalarOp s (sd != 0 || sa != 0 || sb != 0 || field fn 4 3 != 0 || field fn 0 2 == 0) [] fun w =>
    if s.fenceWaits w (releases (field fn 0 2).toNat) then waitFor s w .fence
    else if releases (field fn 0 2).toNat then releaseFence (s.seeTables w) w (field fn 2 2).toNat
    else (s.seeTables w).onPath w Path.next

/-- TFENCE (R126, R312): every table write of the path has performed at its home slice when it issues, and every later walk reads
what it wrote. -/
def execTfence (fn : BitVec 7) (sd sa sb : Reg6) (s : State) : Outcome :=
  scalarOp s (sd != 0 || sa != 0 || sb != 0 || field fn 4 3 != 0 || field fn 0 2 != 0) [] fun w =>
    if s.fenceWaits w (field fn 2 2 == 3) then waitFor s w .fence
    else if field fn 2 2 = 3 then releaseFence (s.seeTables w) w 3
    else (s.seeTables w).onPath w Path.next

/-- TSHOOT (R127, R313). -/
def execTshoot (sd sa sb : Reg6) (s : State) : Outcome :=
  scalarOp s (sd != 0) [sa, sb] fun w =>
    let a := w.path.s sa
    let n := (w.path.s sb).toNat
    let first := (field a 16 36).toNat
    if 65536 < n ∨ (n ≠ 0 ∧ 2 ^ 36 < first + n) then trapScalar s w .reservedField
    else if (spaceOf a ≠ 0 ∧ spaceOf a ≠ 1 ∧ spaceOf a ≠ 2 ∧ spaceOf a ≠ 4) ∨ field a 52 8 ≠ 0 then
      trapScalar s w .badSpace a
    else if !w.path.ended then waitFor s w .fence
    else if 4 ≤ w.path.shoots.length then waitFor s w .recordSlot
    else ((s.seeTables w).beginShoot w.team.asid first n (some (w.key, w.pi))).onPath w Path.next

/-- TSYNC (R127, R314). -/
def execTsync (sd sa sb : Reg6) (s : State) : Outcome :=
  scalarOp s (sd != 0 || sa != 0 || sb != 0) [] fun w =>
    if w.path.shoots.isEmpty then s.onPath w Path.next else waitFor s w .tsync

end Sys2Proof.Machine
end

