-- ==== Sys2Proof/Machine/LaneMem.lean ====
section
/-!
DEFINITION. The lane memory instructions: loads and stores, word and line atomics, spills and fills (R269, R336 to R345,
R354).
-/

namespace Sys2Proof.Machine

/-! ## Addresses and fields (R269) -/

/-- MX, in MOD. -/
def mxOf (f : LaneFields) : Nat := (field f.md 4 2).toNat

/-- ORD, SCP, ST and HINT. -/
def ordOf (f : LaneFields) : Nat := (field f.imm 0 2).toNat
def scopeOf (f : LaneFields) : Nat := (field f.imm 2 2).toNat
def strongOf (f : LaneFields) : Bool := f.imm.getLsbD 4
def hintOf (f : LaneFields) : Nat := (field f.imm 5 2).toNat

/-- The address of a lane (R269). -/
def LaneCtx.addr (x : LaneCtx) (l : Nat) : Word64 :=
  let base := x.c.scalar x.f.ss + (field x.f.imm 8 24 : BitVec 24).signExtend 64
  if hasIndex x.f then
    let v := x.team.v l x.f.va.toNat
    let i : Word64 := if x.f.md.getLsbD 2 then v.signExtend 64 else v.zeroExtend 64
    base + (i <<< (field x.f.md 0 2).toNat)
  else base

/-- The fields of R269, the b operand of a memory instruction (R267) and the order (R166) are refused. `reads` says that the
instruction takes a b operand. -/
def memRefused (f : LaneFields) (kind : AccKind) (reads : Bool) : Bool :=
  (!hasIndex f && (f.va != 0 || field f.md 0 3 != 0)) || f.imm.getLsbD 7
    || orderRefused kind (ordOf f) (scopeOf f) (strongOf f)
    || f.bsel == 1 || f.bsel == 2 || (!reads && (f.bsel != 0 || f.vb != 0)) || (f.bsel == 3 && field f.vb 3 5 != 0)

/-- The access of a lane of `size` bytes. -/
def LaneCtx.acc (x : LaneCtx) (kind : AccKind) (size : Nat) (tableOk : Bool) (l : Nat) : Acc :=
  { kind := kind, addr := x.addr l, size := size, ord := ordOf x.f, scope := scopeOf x.f, strong := strongOf x.f,
    hint := hintOf x.f, lane := some l, uniform := !hasIndex x.f, tableOk := tableOk }

/-! ## The access of an instruction (R246, R336 to R339, R354) -/

/-- One access with the lanes that it serves: a lane of its own, or every active lane at a uniform address (R338). In
space 0x7 each lane has a byte of its own. -/
structure Share where
  acc : Acc
  lanes : List Nat
  deriving DecidableEq, Repr

/-- The accesses of an instruction, in ascending lanes. -/
def LaneCtx.shares (x : LaneCtx) (acc : Nat → Acc) : List Share :=
  match x.lanes with
  | [] => []
  | l :: ls =>
    if (acc l).uniform && spaceOf (acc l).addr != 7 then [{ acc := acc l, lanes := l :: ls }]
    else (l :: ls).map (fun i => { acc := acc i, lanes := [i] })

/-- Each access followed to its target, in ascending lanes (R246, steps 2 to 4). -/
def State.followShares (s : State) (w : Who) : List Share → State × List (Share × Found)
  | [] => (s, [])
  | h :: hs =>
    let r := match firstChecks s w h.acc with
      | some c => (s, Found.err c)
      | none => s.follow w h.acc
    let q := State.followShares r.1 w hs
    (q.1, (h, r.2) :: q.2)

/-- The accesses that may perform, with their targets. -/
def okShares (fs : List (Share × Found)) : List (Share × Target) :=
  fs.filterMap (fun f => match f.2 with
    | .at_ t => some (f.1, t)
    | _ => none)

/-- The lowest lane with an error. -/
def firstError (fs : List (Share × Found)) : Option (Share × TrapClass) :=
  fs.findSome? (fun f => match f.2 with
    | .err c => some (f.1, c)
    | _ => none)

/-- The lowest lane that is held. -/
def firstHeld (fs : List (Share × Found)) : Option (Share × Hold × Option FaultInfo) :=
  fs.findSome? (fun f => match f.2 with
    | .held h i => some (f.1, h, i)
    | _ => none)

/-- The addresses of held accesses, with their lanes. -/
def heldAddrs (fs : List (Share × Found)) : List (Nat × Word64) :=
  fs.filterMap (fun f => match f.2 with
    | .held _ _ => some (f.1.lanes.headD 0, f.1.acc.addr)
    | _ => none)

/-- The lanes of held accesses. -/
def heldLanes (fs : List (Share × Found)) : Mask :=
  maskOf (fs.flatMap (fun f => match f.2 with
    | .held _ _ => f.1.lanes
    | _ => []))

/-- The watchpoint matches of accesses that perform, lane by lane (R254). -/
def watchShares (s : State) (w : Who) (hs : List Share) : List (Nat × Mask) :=
  watchMatch s w (hs.flatMap (fun h => h.lanes.map (fun l => { h.acc with lane := some l })))

/-- The clause of a path keeps the matches of the lanes that have completed. -/
def Path.keepWatched (p : Path) (m : List (Nat × Mask)) : Path :=
  { p with run := p.run.map (fun c => { c with watched := m }) }

/-- A lane memory instruction after its issue checks: every lane's access is followed, an error of the lowest erring lane
ends the team, one that must wait holds the datapath, keeping its place (R46), as all do while an acquire is in flight (R182), and otherwise the accesses perform in ascending lanes after the
commit that a release makes. Held lanes leave the instruction replayable (R354). -/
def laneAccess (s : State) (x : LaneCtx) (shares : List Share) (ord scope : Nat)
    (perform : State → Acc → Target → List Nat → State) : State :=
  let w := x.w
  if s.acquiring w true then s else
  let r := s.followShares w shares
  let ok := okShares r.2
  let as := ok.map (fun p => (p.1.acc, p.2))
  match firstError r.2 with
  | some (h, c) => trapLane r.1 w c (h.lanes.headD 0) h.acc.addr
  | none =>
    if r.2.any (fun f => f.2 == .later) || as.any (fun p => (r.1.mustWait w p.1 p.2).isSome) || r.1.atomicsFull as
        || r.1.storesBlocked w as then s.placeTurns w as
    else
      let s1 := (if releases ord && !ok.isEmpty then r.1.release w scope else r.1).dropTurns w true
      let hits := mergeWatched x.c.watched (watchShares s1 w (ok.map (·.1)))
      let s2 := ok.foldl (fun s p => perform s p.1.acc p.2 p.1.lanes) s1
      match firstHeld r.2 with
      | some (h, k, i) =>
        (heldAt (s2.onPath w (fun p => p.keepWatched hits)) w k (heldLanes r.2) true i h.acc.addr).noteHeld w (heldAddrs r.2)
      | none => watchStop (laneDone s2 w) w hits true

/-! ## Loads and stores (R340, R341) -/

/-- Bytes of a lane's access in its mode (R340). -/
def moveBytes (f : LaneFields) (k : Nat) : Nat :=
  if mxOf f = 1 then elemBits f.ty.toNat / 8 else 4 * k * regsOf f.ty.toNat

/-- How a load enters its registers (R341). -/
def loadMode (f : LaneFields) : LoadMode :=
  if mxOf f ≠ 1 then .packed
  else if f.ty = 10 ∨ f.ty = 12 then .signExtend
  else if f.ty = 9 then .sixBits
  else .zeroExtend

/-- The access mode is refused (R340): element mode is VLD's and VST's alone, with 8-bit and 16-bit types. -/
def mxRefused (f : LaneFields) (k : Nat) : Bool :=
  decide (2 ≤ mxOf f) || (mxOf f == 1 && (k != 1 || 16 < elemBits f.ty.toNat))

/-- A load of `k` registers or pairs a lane (R340, R341). -/
def vload (k : Nat) (f : LaneFields) (s : State) : Outcome :=
  laneOp s f
    (fun _ => { LaneSpec.plain with
      reserved := memRefused f .load false || mxRefused f k || f.vc != 0,
      types := some clsAll,
      groups := group f.ty.toNat f.vd k true :: indexGroup f })
    (fun s x =>
      let n := moveBytes f k
      laneAccess s x (x.shares (x.acc .load n false)) (ordOf f) (scopeOf f) fun s a t lanes =>
        match s.performLoad x.w a t (.lane (maskOf lanes) f.vd.toNat n (loadMode f)) with
        | (s, some b) => s.landLanes x.w.key lanes f.vd.toNat n (loadMode f) b
        | (s, none) => s)

/-- VLD (R340, R341). -/
def execVld (f : LaneFields) (s : State) : Outcome := vload 1 f s

/-- VLD2 (R340, R341). -/
def execVld2 (f : LaneFields) (s : State) : Outcome := vload 2 f s

/-- VLD4 (R340, R341). -/
def execVld4 (f : LaneFields) (s : State) : Outcome := vload 4 f s

/-- Consecutive registers of a lane, as bytes. -/
def Team.laneBytes (t : Team) (l first n : Nat) : List Byte :=
  (List.range n).flatMap (fun i => toBytes 4 (t.v l (first + i)).toNat)

/-- The bytes that a lane stores (R341). -/
def LaneCtx.storeBytes (x : LaneCtx) (k l : Nat) : List Byte :=
  let first := bFirst x.team x.f x.ty l
  if mxOf x.f = 1 then
    let e := (x.team.v l first).toNat % 2 ^ elemBits x.ty
    toBytes (elemBits x.ty / 8) (if x.ty = 9 then e % 64 else e)
  else x.team.laneBytes l first (k * regsOf x.ty)

/-- A store of `k` registers or pairs a lane (R340, R341). At a uniform address it carries the data of the highest lane. -/
def vstore (k : Nat) (f : LaneFields) (s : State) : Outcome :=
  laneOp s f
    (fun x => { LaneSpec.plain with
      reserved := memRefused f .store true || mxRefused f k || f.vc != 0 || f.vd != 0,
      types := some clsAll,
      groups := bGroups x f.ty.toNat k ++ indexGroup f,
      bounds := bBounds x f.ty.toNat k,
      viaIndex := bIndexed x f.ty.toNat k })
    (fun s x =>
      let tableOk := k == 1 && is64 f.ty.toNat
      laneAccess s x (x.shares (x.acc .store (moveBytes f k) tableOk)) (ordOf f) (scopeOf f) fun s a t lanes =>
        s.performStore x.w a t (x.storeBytes k (lanes.getLastD 0)))

/-- VST (R340, R341). -/
def execVst (f : LaneFields) (s : State) : Outcome := vstore 1 f s

/-- VST2 (R340, R341). -/
def execVst2 (f : LaneFields) (s : State) : Outcome := vstore 2 f s

/-- VST4 (R340, R341). -/
def execVst4 (f : LaneFields) (s : State) : Outcome := vstore 4 f s

/-! ## Word atomics (R342, R343) -/

/-- The fields of an atomic are refused. -/
def atomicRefused (f : LaneFields) : Bool := memRefused f .atomic true || f.md.getLsbD 5 || (noret f && f.vd != 0)

/-- The atomics of the lanes of one access perform as one step, in ascending lanes (R338, R339): `f` gives each lane's, and
the old values go to the registers from vd unless NORET is set. -/
def atomicLanes (s : State) (x : LaneCtx) (a : Acc) (t : Target) (lanes : List Nat)
    (f : Nat → List Byte → Option (List Byte)) (op : PeerOp) : State :=
  let dest : LoadDest := if noret x.f then .nothing else .lane (maskOf lanes) x.f.vd.toNat a.size .each
  match s.performAtomic x.w a t (lanes.map f) op dest with
  | (s, some olds) => if noret x.f then s else s.landLanes x.w.key lanes x.f.vd.toNat a.size .each olds.flatten
  | (s, none) => s

/-- A word atomic (R342, R343). -/
def vatomic (op : AtomicOp) (cls : List Nat) (f : LaneFields) (s : State) : Outcome :=
  let ty := f.ty.toNat
  let n := 4 * regsOf ty
  laneOp s f
    (fun x => { LaneSpec.plain with
      reserved := atomicRefused f || (op != .cas && f.vc != 0),
      types := some cls,
      groups := (if noret f then [] else [group ty f.vd 1 true]) ++ bGroups x ty 1
        ++ (if op = .cas then [group ty f.vc 1 false] else []) ++ indexGroup f,
      bounds := bBounds x ty 1,
      viaIndex := bIndexed x ty 1 })
    (fun s x =>
      laneAccess s x (x.shares (x.acc .atomic n (is64 ty))) (ordOf f) (scopeOf f) fun s a t lanes =>
        atomicLanes s x a t lanes
          (fun l old => (atomicNew op n (ofBytes old) (x.b ty l) (x.team.rd ty l f.vc.toNat)).map (toBytes n))
          (.atomic op n (lanes.map (fun l => (x.b ty l, x.team.rd ty l f.vc.toNat)))))

/-- The signed or unsigned form of a comparison (R342). -/
def minOp (f : LaneFields) : AtomicOp := if f.ty = 0 ∨ f.ty = 2 then .min else .minu
def maxOp (f : LaneFields) : AtomicOp := if f.ty = 0 ∨ f.ty = 2 then .max else .maxu

/-- VAADD (R342). -/
def execVaadd (f : LaneFields) (s : State) : Outcome := vatomic .add clsAi f s

/-- VAAND (R342). -/
def execVaand (f : LaneFields) (s : State) : Outcome := vatomic .and clsW f s

/-- VAOR (R342). -/
def execVaor (f : LaneFields) (s : State) : Outcome := vatomic .or clsW f s

/-- VAXOR (R342). -/
def execVaxor (f : LaneFields) (s : State) : Outcome := vatomic .xor clsW f s

/-- VAMIN (R342). -/
def execVamin (f : LaneFields) (s : State) : Outcome := vatomic (minOp f) clsAi f s

/-- VAMAX (R342). -/
def execVamax (f : LaneFields) (s : State) : Outcome := vatomic (maxOp f) clsAi f s

/-- VASWAP (R342). -/
def execVaswap (f : LaneFields) (s : State) : Outcome := vatomic .swap clsW f s

/-- VACAS (R342). -/
def execVacas (f : LaneFields) (s : State) : Outcome := vatomic .cas clsW f s

/-! ## Line atomics (R344) -/

/-- A line with an operation applied to each byte. -/
def lineNew (op : AtomicOp) (old data : List Byte) : List Byte :=
  old.zipWith (fun a b => match op with
    | .or => a ||| b
    | .and => a &&& b
    | _ => a ^^^ b) data

/-- The data group of a lane of a line atomic. -/
def lineGroup (x : LaneCtx) (l : Nat) : RegGroup :=
  { first := bFirst x.team x.f 14 l, count := 16, even := false, write := false }

/-- The groups of vd and of a lane's data overlap in part (R344). -/
def lineOverlap (x : LaneCtx) : Bool :=
  let vd := group 14 x.f.vd 16 true
  let bad := fun (g : RegGroup) => g.first != vd.first && vd.meets g
  !noret x.f && (if x.f.bsel = 3 then x.lanes.any (fun l => bad (lineGroup x l)) else bad (group 14 x.f.vb 16 false))

/-- A line atomic (R344). -/
def vline (op : AtomicOp) (f : LaneFields) (s : State) : Outcome :=
  laneOp s f
    (fun x => { LaneSpec.plain with
      reserved := atomicRefused f || f.vc != 0,
      types := some clsB32,
      groups := (if noret f then [] else [wordsGroup f.ty.toNat f.vd 16 true])
        ++ (if f.bsel = 0 then [wordsGroup f.ty.toNat f.vb 16 false] else []) ++ indexGroup f,
      overlap := lineOverlap x,
      bounds := bBounds x 14 16,
      viaIndex := bIndexed x 14 16 })
    (fun s x =>
      laneAccess s x (x.shares (x.acc .atomic 64 false)) (ordOf f) (scopeOf f) fun s a t lanes =>
        let data := fun l => x.team.laneBytes l (bFirst x.team f 14 l) 16
        atomicLanes s x a t lanes (fun l old => some (lineNew op old (data l))) (.lineAtomic op (lanes.map data)))

/-- VLAOR (R344). -/
def execVlaor (f : LaneFields) (s : State) : Outcome := vline .or f s

/-- VLAAND (R344). -/
def execVlaand (f : LaneFields) (s : State) : Outcome := vline .and f s

/-- VLAXOR (R344). -/
def execVlaxor (f : LaneFields) (s : State) : Outcome := vline .xor f s

/-! ## Spills (R104, R105, R345) -/

/-- The widths that WCODE names. -/
def spillWidth (code : Nat) : Nat := if code = 0 then 0 else 2 ^ (code + 1)

/-- A signed difference fits a field of a width (R105). -/
def spillFits (code : Nat) (d : BitVec 32) : Bool :=
  if code = 0 then d == 0
  else decide (-(2 ^ (spillWidth code - 1) : Int) ≤ d.toInt) && decide (d.toInt ≤ 2 ^ (spillWidth code - 1) - 1)

/-- WCODE of a spill: the narrowest width that holds every active lane's difference (R105). -/
def spillCode (ds : List (BitVec 32)) : Nat :=
  ((List.range 4).find? (fun c => ds.all (spillFits c))).getD 4

/-- The bytes of a spill record of `n` lanes (R104, R105): `field` gives a lane's difference, or none for an inactive
lane. -/
def spillRecord (n : Nat) (base : BitVec 32) (diff : Nat → Option (BitVec 32)) : List Byte :=
  let code := spillCode ((List.range n).filterMap diff)
  let w := spillWidth code
  let all := (List.range n).foldr (fun l r => ((diff l).map (fun d => d.toNat % 2 ^ w)).getD 0 + 2 ^ w * r) 0
  [BitVec.ofNat 8 (0x80 + code), 0, 0, 0] ++ toBytes 4 base.toNat ++ List.replicate 56 0 ++ toBytes (ceilDiv (n * w) 8) all

/-- The fields of a spill or fill are refused (R345). -/
def spillRefused (f : LaneFields) : Bool :=
  field f.imm 6 26 != 0 || f.ss != 0 || f.va != 0 || f.vc != 0 || f.md != 0 || f.bsel != 0

/-- First address of a spill slot (R104). -/
def Team.spillAddr (t : Team) (k : Nat) : Nat := t.area + k * 4160

/-- The space-0x0 address that a spill reports. -/
def LaneCtx.spillVa (x : LaneCtx) : Nat := x.team.spillAddr (field x.f.imm 0 6).toNat

/-- A spill or fill after its issue checks: the team area, the span, and then `f` (R246, R345, R354). -/
def spillAccess (s : State) (x : LaneCtx) (kind : AccKind) (n : Nat) (f : State → Span → State) : State :=
  let w := x.w
  if w.team.k.ta < 266240 then trapLane s w .badSpace x.firstLane 0
  else
    match s.span w.core w.team.asid x.firstLane kind x.spillVa n with
    | (s1, .err c) => trapLane s1 w c x.firstLane (BitVec.ofNat 64 x.spillVa)
    | (s1, .later) => s1
    | (s1, .held h i) => heldAt s1 w h x.c.mask true i (BitVec.ofNat 64 x.spillVa)
    | (s1, .ok m) => f s1 m

/-- VSPILL (R104, R105, R345). With no active lane the base is a value that nothing states. -/
def execVspill (f : LaneFields) (s : State) : Outcome :=
  laneOp s f
    (fun _ => { LaneSpec.plain with
      reserved := spillRefused f || f.vd != 0, types := some clsB32, groups := [wordsGroup f.ty.toNat f.vb 1 false] })
    (fun s x =>
      let v := fun l => x.team.v l f.vb.toNat
      let base := match x.lanes with
        | l :: _ => v l
        | [] => BitVec.ofNat 32 (ofBytes ((List.range 4).map (fun i => Config.freeByte s.fresh i)))
      let rec_ := spillRecord x.team.k.lanes base
        (fun l => if x.lanes.contains l then some (v l - base) else none)
      spillAccess s x .spill rec_.length fun s m =>
        let pts := ((s.path x.w.key x.w.pi).map (·.pts)).getD 0
        let r := s.spanWrite m (teamCores x.w.core x.w.team) pts 0 rec_
        laneDone (r.1.tick.onPath x.w (fun p => { p with pts := max p.pts r.2 })) x.w)

/-- The register of a lane that a spill record gives (R104, R105). -/
def fillLane (w l : Nat) (base : BitVec 32) (fields : Nat) : BitVec 32 :=
  base + BitVec.ofInt 32 (if w = 0 then 0 else toSigned w (fields / 2 ^ (l * w) % 2 ^ w))

/-- VFILL (R104, R105, R345). The head of the slot gives the number of bytes that follow. -/
def execVfill (f : LaneFields) (s : State) : Outcome :=
  laneOp s f
    (fun _ => { LaneSpec.plain with
      reserved := spillRefused f || f.vb != 0, types := some clsB32, groups := [wordsGroup f.ty.toNat f.vd 1 true] })
    (fun s x =>
      spillAccess s x .fill 64 fun s m =>
        let fmt := ofBytes (s.spanRead m 0 1)
        let base := BitVec.ofNat 32 (ofBytes (s.spanRead m 4 4))
        let w := spillWidth (fmt % 8)
        if fmt / 128 = 0 ∨ bits 6 3 fmt ≠ 0 ∨ 4 < fmt % 8 then trapLane s x.w .reservedField x.firstLane 0
        else
          let n := ceilDiv (x.team.k.lanes * w) 8
          spillAccess s x .fill (64 + n) fun s m =>
            let fields := ofBytes (s.spanRead m 64 n)
            x.writeLanes s (fun t l => t.setV l f.vd.toNat (fillLane w l base fields)))

end Sys2Proof.Machine
end

