-- ==== Sys2Proof/Machine/Tiles.lean ====
section
/-!
DEFINITION. Accumulator tiles: entries (R220, R221), read-out (R224), drain-reduce (R240), and the order of operations on a
tile (R180, R356).
-/

namespace Sys2Proof.Machine

/-! ## Tiles -/

/-- Number of tiles of a team, n (R100). -/
def Kdesc.tileCount (k : Kdesc) : Nat := k.accu / (12 * (k.tpc + k.spsl))

/-- A tile that has been cleared (R357). -/
def Tile.blank : Tile := { mode := .cleared, bad := false, entries := [] }

/-- A tile of a team. -/
def Team.tile (t : Team) (k : Nat) : Tile := (AMap.find t.tiles k).getD Tile.blank

/-- The team with a tile replaced. -/
def Team.setTile (t : Team) (k : Nat) (v : Tile) : Team := { t with tiles := AMap.insert k v t.tiles }

/-- Entry (row, col) of a tile (R227). Rows 128 to 255 of a paired tile lie in the odd-column core (R228). -/
def Tile.entry (t : Tile) (row col : Nat) : Nat := (Tab.get 0 t.entries (row * 128 + col)).toNat

/-- The value of an entry in a mode; an entry of a cleared tile is +0 (R220, R235). -/
def entryValue (m : TileMode) (x : Nat) : FNum :=
  match m with
  | .cleared => .zero false
  | .exact => decodeExact x
  | .wide => decodeWide x

/-- FR names a type that a read-out may give (R224). -/
def frAllowed (fr : Nat) : Bool := decide (fr < 14)

/-- The scaled values of a row of a tile for a read-out (R216, R224). -/
def Tile.rowValue (t : Tile) (fmt : BitVec 32) (row col : Nat) : FNum :=
  (convOf fmt).scaled true 0 (fmtFr fmt) (entryValue t.mode (t.entry row col))

/-- The code of column `col` of a row read out in FR, whose stochastic segments take the columns that satisfy `act` (R215,
R224). -/
def Tile.readOut (t : Tile) (fmt : BitVec 32) (act : Nat → Bool) (row col : Nat) : Nat :=
  let c := convOf fmt
  let fr := fmtFr fmt
  let d := fun i => let k := col / 32 * 32 + i; if act k then discardOf fr (t.rowValue fmt row k) else 0
  c.finish false fr (if c.rm = .stochastic then stochasticH d (col % 32) else 0) (t.rowValue fmt row col)

/-- The codes of a whole row (R235). -/
def Tile.readRow (t : Tile) (fmt : BitVec 32) (row : Nat) : List Nat :=
  (List.range 128).map (fun col => t.readOut fmt (fun _ => true) row col)

/-! ## Drain-reduce (R240) -/

/-- The running state of a row: f32 codes of MAX and SUM, NANC, and the candidates as f32 codes and indices. -/
structure ReduceRow where
  max_ : Nat
  sum : Nat
  nanc : Nat
  cands : List (Nat × Nat)
  deriving DecidableEq, Repr

/-- An f32 operation of R240, rounded once to nearest even. -/
def f32 (v : FNum) : Nat := binF32.rne v

/-- The value of an f32 code. -/
def f32v (c : Nat) : FNum := binF32.decode c

/-- −∞ in f32. -/
def f32NegInf : Nat := 0xFF800000

/-- Bytes of an entry of the completion area (R240). -/
def reduceBytes (k : Nat) : Nat := 16 * (1 + ceilDiv k 2)

/-- An entry of the completion area, read (R240). -/
def ReduceRow.ofBytes (k : Nat) (b : List Byte) : ReduceRow :=
  let w := fun i => Sys2Proof.ofBytes ((b.drop (4 * i)).take 4)
  { max_ := w 0, sum := w 1, nanc := w 2, cands := (List.range k).map (fun n => (w (4 + 2 * n), w (5 + 2 * n))) }

/-- The state that a row starts from without ACC (R240). -/
def ReduceRow.start (k : Nat) : ReduceRow :=
  { max_ := f32NegInf, sum := 0, nanc := 0, cands := List.replicate k (f32NegInf, 0xFFFFFFFF) }

/-- A candidate put in its place: larger values first, equal ones by lower index (R240). -/
def putCand (x i : Nat) : List (Nat × Nat) → List (Nat × Nat)
  | [] => [(x, i)]
  | c :: cs =>
    if FNum.lt (f32v c.1) (f32v x) || (!FNum.lt (f32v x) (f32v c.1) && decide (i < c.2)) then (x, i) :: c :: cs
    else c :: putCand x i cs

/-- One step of the exponential sum: SUM × Exp2(d × SCALE), each operation rounded once. -/
def expScale (sum d scale : Nat) : Nat :=
  f32 (FNum.mul (f32v sum) (f32v (f32 (FNum.exp2 (f32v (f32 (FNum.mul (f32v d) (f32v scale))))))))

/-- The difference of two f32 codes. -/
def f32Sub (a b : Nat) : Nat := f32 (FNum.add false (f32v a) (f32v b).neg)

/-- One column of a drain-reduce: `x` is the f32 code of the converted value (R240). -/
def ReduceRow.take (r : ReduceRow) (k scale x i : Nat) : ReduceRow :=
  if f32v x = .nan then { r with nanc := (r.nanc + 1) % 2 ^ 32 }
  else
    let r := if FNum.lt (f32v r.max_) (f32v x) then
        { r with sum := expScale r.sum (f32Sub r.max_ x) scale, max_ := x } else r
    let e := f32 (FNum.exp2 (f32v (f32 (FNum.mul (f32v (f32Sub x r.max_)) (f32v scale)))))
    { r with sum := f32 (FNum.add false (f32v r.sum) (f32v e)), cands := (putCand x (i % 2 ^ 32) r.cands).take k }

/-- The bytes of an entry of the completion area; the bytes past the last candidate are what nothing states. -/
def ReduceRow.bytes (r : ReduceRow) (k : Nat) (pad : List Byte) : List Byte :=
  let b := toBytes 4 r.max_ ++ toBytes 4 r.sum ++ toBytes 4 r.nanc ++ toBytes 4 0
    ++ r.cands.flatMap (fun c => toBytes 4 c.1 ++ toBytes 4 c.2)
  b ++ pad.take (reduceBytes k - b.length)

/-- A row reduced: `codes` are its converted values in FR (R240). -/
def reduceRow (r : ReduceRow) (fr k scale col0 : Nat) (codes : List Nat) : ReduceRow :=
  codes.zipIdx.foldl (fun r x => r.take k scale (f32 (decodeElem fr x.1)) (col0 + x.2)) r

/-! ## Tile order (R356) -/

/-- The operation is a matrix instruction that has not finished: MZERO finishes at issue, and the tile read of a drain is
none. -/
def MatOp.counts (m : MatOp) : Bool :=
  match m.kind with
  | .drain _ => false
  | .mzero => false
  | _ => true

/-- No earlier operation of the sequencer names this tile: `n` is the position of the operation. -/
def firstOnTile (seq : List MatOp) (n : Nat) : Bool :=
  match seq[n]? with
  | none => false
  | some m => (seq.take n).all (fun x => x.tile != m.tile)

/-- The position of a drain's read in the sequencer. -/
def drainAt (seq : List MatOp) (copy : Nat) : Option Nat := seq.findIdx? (fun m => m.kind == .drain copy)

/-- The sequencer holds as many matrix instructions as it may (R356). -/
def Team.sequencerFull (t : Team) : Bool := decide (4 ≤ (t.seq.filter MatOp.counts).length)

end Sys2Proof.Machine
end

