-- ==== Sys2Proof/Machine/Copies.lean ====
section
/-!
DEFINITION. The copy engine: what an engine's access reaches (R93, R101, R237), the checks of a record (R236), Gorse's
registrations (R237), the kick (R349), the movement of lines (R235, R239), and the end of a record (R179, R239, R241).
-/

namespace Sys2Proof.Machine

/-! ## Windows of engine operations (R101) -/

/-- The window of a team (R101). -/
def Team.window (t : Team) : Window :=
  { launch := t.launch, nbh := t.nbh, tidx := t.tidx, binTeam := t.binTeam, nt := if t.binTeam then 1 else t.k.nt,
    scrSize := t.scrSize }

/-- The identifier of the team at an index of a window, when it has not ended. -/
def State.windowTeam (s : State) (w : Window) (self : BitVec 32) (i : Nat) : Option (BitVec 32) :=
  if w.binTeam || w.tidx == i then some self
  else
    ((s.teams.map (·.2) ++ s.savedTeams).find? (fun t =>
      t.launch == w.launch && t.nbh == w.nbh && !t.binTeam && t.tidx == i)).map (·.teamId)

/-! ## One access of an engine -/

/-- What one access of an engine brings. -/
structure EngReq where
  core : Nat
  asid : Nat
  win : Window
  self : BitVec 32
  rebuild : Option Nat
  write : Bool
  addr : Nat
  size : Nat
  pts : Nat
  deriving DecidableEq, Repr

/-- Where an engine's access leads. -/
inductive EngTarget where
  | dev (pa space : Nat)
  | zeros
  | host (a : Nat)
  | scratch (id : BitVec 32) (off : Nat)
  | gone
  /-- Local SRAM of a queue processor, for a COPY packet (R67). -/
  | sram (h off : Nat)
  deriving DecidableEq, Repr

/-- What an engine's access meets: its target, a class that ends the operation, a fault that pauses it, or a wait. -/
inductive EngFound where
  | at_ (t : EngTarget)
  | err (c : TrapClass)
  | fault (i : FaultInfo)
  | wait
  deriving DecidableEq, Repr

/-- Address bits and window limits that an engine's access breaks (R96, R101, R236). -/
def engineSpaceBad (w : Window) (addr size : Nat) : Bool :=
  match bits 63 60 addr with
  | 0 => bits 59 52 addr != 0
  | 1 => bits 59 52 addr != 0
  | 2 => bits 59 52 addr != 0
  | 4 => bits 59 52 addr != 0
  | 5 => false
  | 6 => bits 59 28 addr != 0 || decide (w.nt ≤ bits 27 22 addr) || decide (w.scrSize < bits 21 0 addr + size)
  | _ => true

/-- The kind of an engine's access. -/
def EngReq.kind (r : EngReq) : AccKind := if r.write then .engineWrite else .engineRead

/-- An engine's access to a page-table space (R134, R237). -/
def State.enginePage (s : State) (r : EngReq) : State × EngFound :=
  let host := bits 63 60 r.addr == 4
  match s.translate { core := r.core, asid := r.asid, host := host, va := bits 51 0 r.addr, kind := r.kind, lpr := none } with
  | (s, .ok pa leaf) =>
    (s, if r.write ∧ leafStable leaf then .err .stableWrite
        else if r.write ∧ leafDisc leaf then .err .discardedWrite
        else if leafDisc leaf then .at_ .zeros
        else if host then .at_ (.host pa)
        else if !r.write ∧ s.mem.badLines.contains (lineOf pa) then .err .uncorrectable
        else .at_ (.dev pa (bits 63 60 r.addr)))
  | (s, .fault c l e) => (s, .fault (faultInfo r.kind (BitVec.ofNat 64 r.addr) 0 c l e))
  | (s, .protection) => (s, .err .protection)
  | (s, .uncorrectable) => (s, .err .uncorrectable)
  | (s, .leased) => (s, .wait)

/-- An engine's access to KV space (R148, R237). -/
def State.engineKv (s : State) (r : EngReq) : State × EngFound :=
  let ka := kvAddr r.addr
  let q : KvReq := { addr := ka, size := r.size, write := r.write, asid := r.asid, tree := false, rebuild := r.rebuild }
  match s.kvTranslate q r.pts with
  | (s, .ok pa) => (s, if !r.write ∧ s.mem.badLines.contains (lineOf pa) then .wait else .at_ (.dev pa 5))
  | (s, .trap c) => (s, .err c)
  | (s, .rebuilding) => (s, .wait)
  | (s, .noFrame _) => (s, .wait)
  | (s, .leased) => (s, .wait)
  | (s, .copy _ _) => (s.askCopy ka.slot ka.node ka.plane (planeShape (s.slot ka.slot) ka.plane ka.pos).2 r.pts, .wait)

/-- An engine's access followed to its target. -/
def State.followEngine (s : State) (r : EngReq) : State × EngFound :=
  if engineSpaceBad r.win r.addr r.size then (s, .err .badSpace)
  else if bits 63 60 r.addr = 5 then s.engineKv r
  else if bits 63 60 r.addr = 6 then
    match s.windowTeam r.win r.self (bits 27 22 r.addr) with
    | none => (s, .at_ .gone)
    | some id => (s, if s.restoring id then .wait else .at_ (.scratch id (bits 21 0 r.addr)))
  else s.enginePage r

/-- The version of a team that has not ended. -/
def State.versionOf (s : State) (id : BitVec 32) : AMap Byte :=
  match s.whereIs id with
  | .resident _ t => t.version
  | .saved t => t.version
  | .ended => []

/-- An engine reads bytes within a line: the team's version over committed data (R175, R179). -/
def State.engineRead (s : State) (self : BitVec 32) (t : EngTarget) (n : Nat) : List Byte :=
  match t with
  | .dev pa _ => overlay (s.versionOf self) pa (s.readPa pa n)
  | .zeros => List.replicate n 0
  | .host a => s.readHost a n
  | .scratch id off => s.poolRead id off n
  | .gone => (List.range n).map (fun i => Config.freeByte s.fresh i)
  | .sram h off => s.viewRead h (.sram off) n

/-- The home slice side of an engine's read: the line is obtained in host bias, and its frame notes the access (R28, R136). -/
def State.engineTouch (s : State) : EngTarget → State
  | .dev pa _ => s.viewTouch (.dev pa)
  | _ => s

/-- An engine's write waits: at its home slice for a lease (R46, R183), and into a version for a version id or for the early commit
that makes room for it (R243, R244). -/
def State.engineHeld (s : State) (self : BitVec 32) (direct : Bool) : EngTarget → Bool
  | .dev pa _ =>
    if direct || s.mem.isTable pa then s.lineHeld pa
    else
      match s.whereIs self with
      | .resident k t => !s.hasVersionId k || s.roomBlocked t.version (lineOf pa)
      | .saved t => (t.verId.isNone && (s.freeVersionId t.savedDie).isNone) || s.roomBlocked t.version (lineOf pa)
      | .ended => s.lineHeld pa
  | _ => false

/-- What a release covers for a KV frame that the page engine filled: the timestamp of the fill (R110, R426). -/
def State.kvFill (s : State) : EngTarget → Nat
  | .dev pa 5 => s.kv.fillStamp (frameOf pa)
  | _ => 0

/-- An engine writes bytes within a line on behalf of a team (R98, R110, R124, R179): into the version of its current task
while it runs, and at the home slice otherwise. The largest w that its release covers comes back. `direct` marks the writes of a
collective, which are not versioned and taint (R52). -/
def State.engineWrite (s : State) (self : BitVec 32) (direct : Bool) (pts : Nat) (t : EngTarget) (bs : List Byte) :
    State × Nat :=
  let home := fun (pa : Nat) => let r := s.writeLines [] pts pa bs; (r.1, max r.2 (s.kvFill t))
  match t with
  | .dev pa _ =>
    if direct ∨ s.mem.isTable pa then let r := home pa; (r.1.taintId self, r.2)
    else
      match s.whereIs self with
      | .resident k _ => (s.versionWrite k pa bs, s.kvFill t)
      | .saved x => (s.versionWriteSaved x pa bs, s.kvFill t)
      | .ended => home pa
  | .zeros => (s, 0)
  | .host a => ((s.writeHost a bs).taintId self, 0)
  | .scratch id off => (s.poolWrite id off bs pts, 0)
  | .gone => (s, 0)
  | .sram h off => (s.viewWrite h (.sram off) bs, 0)

/-! ## Gorse (R237) -/

/-- Two ranges conflict: they overlap and one is a write lock (R237). -/
def LockRange.clash (a b : LockRange) : Bool :=
  a.place == b.place && (a.write || b.write) && decide (a.lo < b.hi) && decide (b.lo < a.hi)

/-- Two registrations of different operations conflict. -/
def LockReg.clash (a b : LockReg) : Bool := a.owner != b.owner && a.ranges.any (fun x => b.ranges.any (fun y => x.clash y))

/-- A lock occupies an entry of the Gorse of this die: a line of its range has its home slice there (R237). -/
def LockRange.onDie (d : Dev) (r : LockRange) (die : Nat) : Bool :=
  match r.place with
  | .scratch _ => false
  | _ => (List.range ((r.hi + 63) / 64 - r.lo / 64)).any (fun i => sliceDie (homeSlice d (r.lo + i * 64)) == die)

/-- Entries of a die's Gorse that some registrations occupy. -/
def gorseUse (d : Dev) (ls : List LockReg) (die : Nat) : Nat :=
  ((ls.flatMap (·.ranges)).filter (fun r => r.onDie d die)).length

/-- The range carries an unexpired lease that this device granted, or a write that waits for one (R46). -/
def State.lockLeased (s : State) (r : LockRange) : Bool := r.place == .device && s.leasedIn r.lo r.hi

/-- A registration can be granted: no held lock and no earlier waiting registration conflicts, every die has room, and no
lease covers its range (R237, R46). -/
def State.grantable (s : State) (earlier : List LockReg) (r : LockReg) : Bool :=
  let held := s.eng.locks.filter (·.granted)
  !held.any (fun l => l.clash r) && !(earlier.filter (fun l => !l.granted)).any (fun l => l.clash r)
    && [0, 1].all (fun d => gorseUse s.dev [r] d == 0 || decide (gorseUse s.dev held d + gorseUse s.dev [r] d ≤ 4096))
    && !r.ranges.any s.lockLeased

/-- The first waiting registration, in order of arrival, that can be granted. -/
def State.nextGrant (s : State) : Option LockReg :=
  (s.eng.locks.zipIdx.find? (fun l => !l.1.granted && s.grantable (s.eng.locks.take l.2) l.1)).map (·.1)

/-- A registration enters Gorse's order of arrival. -/
def State.addLock (s : State) (r : LockReg) : State :=
  { s with eng := { s.eng with locks := s.eng.locks ++ [r], nextLock := s.eng.nextLock + 1 } }

/-- Ranges are registered for an operation, and granted at once when nothing blocks them (R237). -/
def State.register (s : State) (o : LockOwner) (rs : List LockRange) : State :=
  let r : LockReg := { id := s.eng.nextLock, owner := o, ranges := rs, granted := false }
  if rs.isEmpty then s else s.addLock { r with granted := s.grantable s.eng.locks r }

/-- Ranges are registered for an operation that goes on at their grant, which is RANGE_LOCK_GRANT's (R237). -/
def State.registerWait (s : State) (o : LockOwner) (rs : List LockRange) : State :=
  if rs.isEmpty then s else s.addLock { id := s.eng.nextLock, owner := o, ranges := rs, granted := false }

/-- An operation has a registration that waits. -/
def State.lockPending (s : State) (o : LockOwner) : Bool := s.eng.locks.any (fun l => l.owner == o && !l.granted)

/-- An operation holds a lock over a range. -/
def State.holdsLock (s : State) (o : LockOwner) (r : LockRange) : Bool :=
  s.eng.locks.any (fun l => l.owner == o && l.granted && l.ranges.any (fun x =>
    x.place == r.place && (x.write || !r.write) && decide (x.lo ≤ r.lo) && decide (r.hi ≤ x.hi)))

/-- Registrations are released: what they held replays (R237, R354). -/
def State.releaseLocks (s : State) (which : LockReg → Bool) : State :=
  { s with eng := { s.eng with locks := s.eng.locks.filter (fun l => !which l) } }.replayHeld (fun h => h == Hold.rangeLocked)

/-- A range widened to whole lines (R237). -/
def lineRange (write : Bool) (p : LockPlace) (lo n : Nat) : LockRange :=
  { write := write, place := p, lo := lo / 64 * 64, hi := (lo + n + 63) / 64 * 64 }

/-- A range appended to a list, joined with the last one when they touch. -/
def joinRange (rs : List LockRange) (r : LockRange) : List LockRange :=
  match rs.getLast? with
  | some l => if l.place = r.place ∧ l.hi = r.lo ∧ l.write = r.write then rs.dropLast ++ [{ l with hi := r.hi }] else rs ++ [r]
  | none => [r]

/-- The pages of a span from a page number: their physical ranges, joined, for those that translate (R237). -/
def State.pageRuns (s : State) (r : EngReq) (a n : Nat) : Nat → Nat → List LockRange → State × List LockRange
  | 0, _, acc => (s, acc)
  | k + 1, page, acc =>
    let lo := max a (page * 0x10000)
    let hi := min (a + n) ((page + 1) * 0x10000)
    if engineSpaceBad r.win lo 0 then State.pageRuns s r a n k (page + 1) acc
    else match s.enginePage { r with addr := lo } with
    | (s, .at_ (.dev pa _)) => State.pageRuns s r a n k (page + 1) (joinRange acc (lineRange r.write .device pa (hi - lo)))
    | (s, .at_ (.host x)) => State.pageRuns s r a n k (page + 1) (joinRange acc (lineRange r.write .host x (hi - lo)))
    | (s, _) => State.pageRuns s r a n k (page + 1) acc

/-- The locks of a span, from the page of address `from_` on: physical runs, or a scratchpad range (R237). KV space takes
none until the engine reaches it. -/
def State.spanLocks (s : State) (r : EngReq) (a n from_ : Nat) : State × List LockRange :=
  match bits 63 60 a with
  | 5 => (s, [])
  | 6 =>
    match s.windowTeam r.win r.self (bits 27 22 a) with
    | some id => (s, [lineRange r.write (.scratch id) (bits 21 0 a) n])
    | none => (s, [])
  | _ => s.pageRuns r a n ((a + n - 1) / 0x10000 + 1 - from_ / 0x10000) (from_ / 0x10000) []

/-! ## Records (R233, R234, R236) -/

/-- Word `n` of a record. -/
def recWord (b : List Byte) (n : Nat) : BitVec 64 := BitVec.ofNat 64 (ofBytes ((b.drop (8 * n)).take 8))

/-- A record as the engine reads it (R233). -/
def Copy.ofRecord (t : Team) (key pi clause : Nat) (fmt : BitVec 32) (off : Nat) (b : List Byte) : Copy :=
  let w0 := recWord b 0
  let mode := wf w0 63 60
  { id := 0, core := keyCore key, tkey := key, teamId := t.teamId, path := pi, clause := clause, launch := t.launch,
    asid := t.asid, recOff := off, mode := mode, scope := wf w0 59 58, evt := w0.getLsbD 57, tag := field w0 0 32,
    src := recWord b 1, dst := recWord b 2, bar := wf (recWord b 3) 21 0, w4 := recWord b 4, w5 := recWord b 5,
    w6 := recWord b 6, w7 := recWord b 7, fmt := fmt, pts := 0, win := t.window, moved := 0, counted := 0,
    total := recordBytes mode (recWord b 4) (recWord b 5) (recWord b 6) fmt, buffer := none, area := [], pause := none,
    failed := none, packet := none, rel := 0 }

/-- Reserved parts of the mode words, zero counts and ranges (R234, R236). -/
def Copy.modeRefused (c : Copy) (k : Kdesc) : Bool :=
  let rows := wf c.w4 7 0 + wf c.w4 15 8
  let tile := wf c.src 63 4 != 0 || decide (k.tileCount ≤ wf c.src 3 0) || decide ((if k.pair then 255 else 127) < rows)
    || wf c.w4 31 16 != 0
  match c.mode with
  | 0 => wf c.w4 63 40 != 0 || c.w5 != 0 || c.w6 != 0 || c.w7 != 0 || wf c.w4 39 0 == 0
  | 1 => c.w6 != 0 || c.w7 != 0 || wf c.w4 63 32 == 0 || wf c.w4 31 0 == 0
  | 2 => wf c.w7 31 1 != 0 || wf c.w4 63 48 == 0 || wf c.w4 47 32 != 1 || wf c.w4 31 0 == 0 || wf c.w6 47 32 != 1
      || decide (wf c.w6 63 48 ≤ wf c.w6 31 16) || decide (wf c.w6 47 32 ≤ wf c.w6 15 0)
  | 3 => wf c.w7 31 1 != 0 || wf c.w4 63 48 == 0 || wf c.w4 47 32 == 0 || wf c.w4 31 0 == 0
      || decide (wf c.w6 63 48 ≤ wf c.w6 31 16) || decide (wf c.w6 47 32 ≤ wf c.w6 15 0)
  | 4 => wf c.w5 63 32 == 0 || wf c.w5 31 0 == 0 || wf c.w6 62 32 != 0 || c.w7 != 0
  | 5 => wf c.w5 63 32 == 0 || wf c.w5 31 0 == 0 || wf c.w6 62 32 != 0 || c.w7 != 0
  | 6 => tile || c.w5 != 0 || c.w6 != 0 || c.w7 != 0
  | 7 => tile || wf c.w5 31 22 != 0 || wf c.w5 3 0 != 0 || wf c.w6 31 10 != 0 || wf c.w6 7 5 != 0
      || decide (16 < wf c.w6 4 0) || c.w7 != 0
      || !(match f32v (wf c.w5 63 32) with
        | .fin neg q _ _ => !neg && q != 0
        | _ => false)
  | _ => true

/-- A base address that a record may not name (R236). -/
def Copy.spaceRefused (c : Copy) : Bool :=
  let bad := fun (a : BitVec 64) => engineSpaceBad c.win a.toNat 0
  (decide (c.mode < 6) && bad c.src) || bad c.dst || ((c.mode == 4 || c.mode == 5) && bad c.w4)

/-- The bytes that a span names: spaces 0x0, 0x1 and 0x2 name the same ones (R97). -/
def spanKey (a : Nat) : Nat := if bits 63 60 a ≤ 2 then bits 51 0 a else a

/-- The bounding intervals of the source and the destination of modes 0 to 3, by what they name (R236). -/
def Copy.bounds (c : Copy) (dst : Bool) : Int × Nat :=
  let base : Int := (spanKey (if dst then c.dst else c.src).toNat : Nat)
  if c.mode = 1 then
    let o := rowSpan (wf c.w4 63 32) (wf c.w4 31 0) (ws c.w5 (if dst then 32 else 0))
    (base + o.1, o.2)
  else (base, ((if dst then c.dests else c.sources).head?.map (·.2)).getD 0)

/-- Source and destination spans overlap, in modes 0 to 3 (R236). -/
def Copy.spansOverlap (c : Copy) : Bool :=
  let x := c.bounds false
  let y := c.bounds true
  decide (c.mode ≤ 3) && decide (x.1 < y.1 + y.2) && decide (y.1 < x.1 + x.2)

/-- The trap of a record at the kick, in the order of R236's rows. -/
def Copy.trap (c : Copy) (b : List Byte) (k : Kdesc) : Option TrapClass :=
  if wf (recWord b 0) 56 32 ≠ 0 ∨ wf (recWord b 3) 47 22 ≠ 0 ∨ c.bar % 16 ≠ 0 ∨ c.modeRefused k then some .reservedField
  else if c.spaceRefused then some .badSpace
  else if 6 ≤ c.mode ∧ !frAllowed (fmtFr c.fmt) then some .illegalType
  else if c.spansOverlap then some .operandOverlap
  else none

/-! ## The kick (R237, R349) -/

/-- The slot whose rebuild launch an engine operation belongs to (R160). -/
def State.rebuildOf (s : State) (launch : Nat) : Option Nat := (s.launch launch).bind (·.rebuild)

/-- An access of a record. -/
def Copy.req (c : Copy) (s : State) (write : Bool) (addr size : Nat) : EngReq :=
  { core := c.core, asid := c.asid, win := c.win, self := c.teamId, rebuild := s.rebuildOf c.launch, write := write,
    addr := addr, size := size, pts := c.pts }

/-- The first 64 runs of translated pages among some ranges, with every scratchpad range, which is no run (R237). -/
def firstRuns (rs : List LockRange) : List LockRange :=
  let pad := fun (r : LockRange) => match r.place with
    | .scratch _ => true
    | _ => false
  (rs.filter (fun r => !pad r)).take 64 ++ rs.filter pad

/-- The locks that a record registers at the kick: its spans, at most 64 runs of translated pages (R237). -/
def State.kickLocks (s : State) (c : Copy) : State × List LockRange :=
  let go := fun (write : Bool) (r : State × List LockRange) (p : Nat × Nat) =>
    let q := r.1.spanLocks (c.req r.1 write p.1 0) p.1 p.2 p.1
    (q.1, r.2 ++ q.2)
  let r := c.dests.foldl (go true) (c.sources.foldl (go false) (s, []))
  (r.1, firstRuns r.2)

/-- A record enters the engine: it takes a number, and its locks are registered (R237, R238). -/
def State.enterCopy (s : State) (c : Copy) : State :=
  let c : Copy := { c with id := s.eng.nextId }
  let s := { s with eng := { s.eng with nextId := c.id + 1, copies := s.eng.copies ++ [c] } }
  let r := s.kickLocks c
  r.1.register (.copy c.id) r.2

/-- Records of a core's engine that have been kicked and have not completed (R238). -/
def State.recordsOf (s : State) (core : Nat) : Nat := (s.eng.copies.filter (fun c => c.core == core && c.packet.isNone)).length

/-! ## The movement of a record (R235, R239) -/

/-- A record changed. -/
def State.modCopy (s : State) (id : Nat) (f : Copy → Copy) : State :=
  { s with eng := { s.eng with copies := s.eng.copies.map (fun c => if c.id = id then f c else c) } }

/-- A record by its number. -/
def State.copy (s : State) (id : Nat) : Option Copy := s.eng.copies.find? (fun c => c.id == id)

/-- Width of an index in bytes (R234). -/
def Copy.idxWidth (c : Copy) : Nat := if wf c.w6 63 63 = 1 then 8 else 4

/-- The address of an element of the indexed side, for an index (R235). -/
def Copy.element (c : Copy) (i : Nat) : Nat :=
  ((if c.mode = 4 then c.src else c.dst).toNat + i * wf c.w6 31 0) % 2 ^ 64

/-- An access of a record followed to its target: by page tables, or by the queue processors' view for a COPY packet
(R67), whose source in host memory gives the bytes it has even where its read ends with an error (log entry 148). -/
def State.followCopy (s : State) (c : Copy) (write : Bool) (addr n : Nat) : State × EngFound :=
  match c.packet with
  | none => s.followEngine (c.req s write addr n)
  | some (q, _) =>
    match viewOf s.dev addr with
    | .host a => (s, .at_ (.host a))
    | .sram off => (s, .at_ (.sram (q % 8) off))
    | .dev pa => (s, if !write ∧ s.mem.badLines.contains (lineOf pa) then .err .uncorrectable else .at_ (.dev pa 0))
    | .bad => (s, .err .reservedField)

/-- Where an index of the list lies: its address and length, in one piece or, where it straddles a line, two. -/
def Copy.indexPieces (c : Copy) (n : Nat) : List (Nat × Nat) :=
  let a := (c.w4.toNat + n * c.idxWidth) % 2 ^ 64
  let k := min c.idxWidth (64 - a % 64)
  if k = c.idxWidth then [(a, k)] else [(a, k), ((a + k) % 2 ^ 64, c.idxWidth - k)]

/-- Bytes of the index list, read through translation. -/
def State.readPieces (c : Copy) : List (Nat × Nat) → State → State × Except EngFound (List Byte)
  | [], s => (s, .ok [])
  | p :: ps, s =>
    match s.followEngine (c.req s false p.1 p.2) with
    | (s, .at_ t) =>
      match State.readPieces c ps (s.engineTouch t) with
      | (s1, .ok bs) => (s1, .ok (s.engineRead c.teamId t p.2 ++ bs))
      | r => r
    | (s, f) => (s, .error f)

/-- An index of the list (R235). -/
def State.readIndex (s : State) (c : Copy) (n : Nat) : State × Except EngFound Nat :=
  match State.readPieces c (c.indexPieces n) s with
  | (s, .ok bs) => (s, .ok (ofBytes bs))
  | (s, .error f) => (s, .error f)

/-- Indices of a block of 64, or of the whole list, as far as they can be read. -/
def State.indices (s : State) (c : Copy) (first n : Nat) : List Nat :=
  (List.range n).filterMap (fun i => match (s.readIndex c (first + i)).2 with
    | .ok v => some v
    | .error _ => none)

/-- Where the next bytes of a record come from and go to, and how many lie together (R235). `idx` is the index of the
element in hand. -/
def Copy.piece (c : Copy) (idx : Nat) : Nat × Nat × Nat :=
  let m := c.moved
  let at_ := fun (a : BitVec 64) (o : Int) => (((a.toNat : Int) + o) % (2 ^ 64 : Int)).toNat
  if c.mode = 0 then (at_ c.src m, at_ c.dst m, c.total - m)
  else if c.mode = 1 then
    let len := wf c.w4 31 0
    let r : Int := ((m / len : Nat) : Int)
    let o : Int := ((m % len : Nat) : Int)
    (at_ c.src (r * ws c.w5 0 + o), at_ c.dst (r * ws c.w5 32 + o), len - m % len)
  else if c.mode = 2 ∨ c.mode = 3 then
    let b0 := wf c.w4 31 0
    let r1 := m / b0 % wf c.w4 63 48
    let r2 := m / b0 / wf c.w4 63 48
    let map : Int := (((wf c.w6 31 16 + r1) % wf c.w6 63 48 * wf c.w5 63 32
      + (wf c.w6 15 0 + r2) % wf c.w6 47 32 * wf c.w5 31 0 + wf c.w7 63 32 + m % b0 : Nat) : Int)
    if wf c.w7 0 0 = 0 then (at_ c.src map, at_ c.dst m, b0 - m % b0) else (at_ c.src m, at_ c.dst map, b0 - m % b0)
  else
    let len := wf c.w5 31 0
    let e := (c.element idx + m % len) % 2 ^ 64
    if c.mode = 4 then (e, at_ c.dst m, len - m % len) else (at_ c.src m, e, len - m % len)

/-- The span of a record that an address lies in, or the address's own line. -/
def spanOf (spans : List (Nat × Nat)) (a : Nat) : Nat × Nat :=
  (spans.find? (fun p => decide ((a + 2 ^ 64 - p.1) % 2 ^ 64 < p.2))).getD (a, 1)

/-- The lowest address and the extent of a block of elements (R237). -/
def Copy.blockSpan (c : Copy) (is : List Nat) : Nat × Nat :=
  let as := is.map c.element
  let lo := as.foldl min (as.headD 0)
  (lo, as.foldl max 0 + wf c.w5 31 0 - lo)

/-- Of some ranges, the 64 among which one lies; that one alone when it is none of them (R237). -/
def chunkOf (own : LockRange) (rs : List LockRange) : List LockRange :=
  let in_ := fun (x : LockRange) => x.place == own.place && decide (x.lo ≤ own.lo) && decide (own.hi ≤ x.hi)
  match rs.findIdx? in_ with
  | some i => (rs.drop (i / 64 * 64)).take 64
  | none => [own]

/-- The locks to register before the engine touches `n` bytes at an address: none when they are held (R237). `list` marks the
index list. -/
def State.partLocks (s : State) (c : Copy) (write list : Bool) (a n : Nat) (t : EngTarget) : State × List LockRange :=
  let r := c.req s write a n
  let indexed := !list && decide (6 ≤ c.mode) == false && ((c.mode == 4 && !write) || (c.mode == 5 && write))
  let n0 := c.moved / wf c.w5 31 0 / 64 * 64
  let block := fun (_ : Unit) => c.blockSpan (s.indices c n0 (min 64 (wf c.w5 63 32 - n0)))
  let span := if indexed then block () else spanOf (if write then c.dests else c.sources) a
  let runs := fun (own : LockRange) =>
    if s.holdsLock (.copy c.id) own then (s, [])
    else if indexed then
      let q := s.spanLocks r span.1 span.2 span.1
      (q.1, chunkOf own q.2)
    else
      let mine := (s.eng.locks.filter (fun l => l.owner == LockOwner.copy c.id)).flatMap (·.ranges)
      let q := s.spanLocks r span.1 span.2 (span.1 + (a + 2 ^ 64 - span.1) % 2 ^ 64)
      let new := q.2.filter (fun x => !mine.any (fun y => y.place == x.place && decide (y.lo ≤ x.lo) && decide (x.hi ≤ y.hi)))
      let page := { lineRange write own.place own.lo 0 with
        lo := own.lo, hi := own.lo + (min (span.1 + span.2) ((a / 0x10000 + 1) * 0x10000) - a + 63) / 64 * 64 }
      (q.1, if mine.length < 64 ∨ new.isEmpty then [page] else new.take 64)
  match t with
  | .dev pa 5 => (s, if s.holdsLock (.copy c.id) (lineRange write .device pa n) then []
                     else [{ write := write, place := .device, lo := frameOf pa * 0x10000, hi := (frameOf pa + 1) * 0x10000 }])
  | .dev pa _ => runs (lineRange write .device pa n)
  | .host x => runs (lineRange write .host x n)
  | .scratch id off =>
    let own := lineRange write (.scratch id) off n
    if s.holdsLock (.copy c.id) own then (s, [])
    else (s.spanLocks r span.1 span.2 a)
  | .zeros => (s, [])
  | .gone => (s, [])
  | .sram _ _ => (s, [])

/-- A record meets something other than a target (R134, R239): a fault pauses it, a class ends it, and a wait leaves it. -/
def State.stopCopy (s : State) (c : Copy) : EngFound → State
  | .at_ _ => s
  | .wait => s
  | .err k => s.modCopy c.id (fun c => { c with failed := some k })
  | .fault i => s.modCopy c.id (fun c => { c with pause := some i })

/-- Bytes have been written: they are subtracted from CNT, but for those that end the record (R239). -/
def State.noteMoved (s : State) (c : Copy) (n w : Nat) : State :=
  let s := s.modCopy c.id (fun c => { c with moved := c.moved + n, rel := max c.rel w })
  if c.total ≤ c.moved + n ∨ c.packet.isSome then s
  else
    (s.countDown c.teamId c.bar n 0 0).modCopy c.id (fun c => { c with counted := c.counted + n })

/-- A byte of the destination of a gather or scatter lies on both sides, so that nothing states its contents (R236). -/
def Copy.bothSides (c : Copy) (is : List Nat) (a : Nat) : Bool :=
  let len := wf c.w5 31 0
  let n := wf c.w5 63 32
  if c.mode = 4 then is.any (fun i => decide (spanKey (c.element i) ≤ spanKey a) && decide (spanKey a < spanKey (c.element i) + len))
  else decide (spanKey c.src.toNat ≤ spanKey a) && decide (spanKey a < spanKey c.src.toNat + n * len)

/-- The bytes of a piece as they are written (R236). -/
def Copy.written (s : State) (c : Copy) (dst : Nat) (bs : List Byte) : List Byte :=
  if c.mode = 4 ∨ c.mode = 5 then
    let is := if c.mode = 4 then s.indices c 0 (wf c.w5 63 32) else []
    bs.zipIdx.map (fun b => if c.bothSides is (dst + b.2) then Config.freeByte s.fresh b.2 else b.1)
  else bs

/-- Bytes of a line performed at the destination, once they are locked (R237, R239). -/
def State.putPiece (s : State) (c : Copy) (dst : Nat) (bs : List Byte) : State :=
  match s.followCopy c true dst bs.length with
  | (s, .at_ t) =>
    let r := s.partLocks c true false dst bs.length t
    if !r.2.isEmpty then r.1.register (.copy c.id) r.2
    else if s.engineHeld c.teamId false t then s
    else
      let q := s.tick.engineWrite c.teamId false c.pts t (c.written s dst bs)
      q.1.noteMoved c bs.length q.2
  | (s, f) => s.stopCopy c f

/-- A line moves from the source to the destination. -/
def State.movePiece (s : State) (c : Copy) (idx : Nat) : State :=
  let p := c.piece idx
  let n := min p.2.2 (min (64 - p.1 % 64) (64 - p.2.1 % 64))
  match s.followCopy c false p.1 n with
  | (s, .at_ t) =>
    let r := s.partLocks c false false p.1 n t
    if !r.2.isEmpty then r.1.register (.copy c.id) r.2 else (s.engineTouch t).putPiece c p.2.1 (s.engineRead c.teamId t n)
  | (s, f) => s.stopCopy c f

/-! ## Drains (R235, R240) -/

/-- The team of a drain, wherever it is. -/
def Whereabouts.team : Whereabouts → Option Team
  | .resident _ t => some t
  | .saved t => some t
  | .ended => none

/-- The rows of a drain, converted. -/
def Copy.drainRows (c : Copy) (t : Tile) : List (List Nat) :=
  (List.range (wf c.w4 15 8 + 1)).map (fun r => t.readRow c.fmt (wf c.w4 7 0 + r))

/-- The completion-area bytes of a drain-reduce (R240). -/
def Copy.reduceArea (s : State) (c : Copy) (rows : List (List Nat)) : List Byte :=
  let k := wf c.w6 4 0
  let e := reduceBytes k
  let pad := fun r => (List.range e).map (fun i => Config.freeByte s.fresh (r * e + i))
  rows.zipIdx.flatMap (fun r =>
    let start := if wf c.w6 8 8 = 1 then ReduceRow.ofBytes k (s.poolRead c.teamId (wf c.w5 21 0 + r.2 * e) e)
                 else ReduceRow.start k
    (reduceRow start (fmtFr c.fmt) k (wf c.w5 63 32) (wf c.w6 63 32) r.1).bytes k (pad r.2))

/-- The tile read of a drain takes place (R180, R235): its rows, converted, and its completion area. A tile whose team has
ended holds what nothing states. -/
def State.drainRead (s : State) (c : Copy) (t : Option Team) : State :=
  let fr := fmtFr c.fmt
  let rows := match t with
    | some t => c.drainRows (t.tile (wf c.src 3 0))
    | none => (List.range (wf c.w4 15 8 + 1)).map (fun r => (List.range 128).map (fun i =>
        ofBytes ((List.range (typeBytes fr)).map (fun j => Config.freeByte s.fresh ((r * 128 + i) * 8 + j)))))
  let bytes := if c.mode = 7 ∧ wf c.w6 9 9 = 1 then [] else rows.flatMap (fun r => r.flatMap (fun x => toBytes (typeBytes fr) x))
  let area := if c.mode = 7 then c.reduceArea s rows else []
  s.tick.modCopy c.id (fun c => { c with buffer := some bytes, area := area })

/-- The read of a drain waits for its place in tile order, and then leaves the sequencer (R356). -/
def State.drainStart (s : State) (c : Copy) : State :=
  match (s.whereIs c.teamId).team with
  | none => s.drainRead c none
  | some t =>
    match drainAt t.seq c.id with
    | none => s.drainRead c (some t)
    | some n =>
      if firstOnTile t.seq n then (s.drainRead c (some t)).modById c.teamId (fun t => { t with seq := t.seq.eraseIdx n })
      else s

/-- The next bytes of a drain are written: rows first, then the completion area (R235, R240). -/
def State.drainPiece (s : State) (c : Copy) (buf : List Byte) : State :=
  if c.moved < buf.length then
    let rb := 128 * typeBytes (fmtFr c.fmt)
    let r := c.moved / rb
    let dst := (((c.dst.toNat : Int) + (r : Int) * ws c.w4 32 + ((c.moved % rb : Nat) : Int)) % (2 ^ 64 : Int)).toNat
    s.putPiece c dst ((buf.drop c.moved).take (min (rb - c.moved % rb) (64 - dst % 64)))
  else
    let m := c.moved - buf.length
    let off := wf c.w5 21 0 + m
    let bs := (c.area.drop m).take (64 - off % 64)
    (s.poolWrite c.teamId off bs c.pts).noteMoved c bs.length 0

/-- The indices of the block of 64 that index `n` lies in (R237). -/
def Copy.blockOf (c : Copy) (n : Nat) : List Nat := (List.range (min 64 (wf c.w5 63 32 - n / 64 * 64))).map (n / 64 * 64 + ·)

/-- A range lies in one of some others. -/
def LockRange.covered (x : LockRange) (rs : List LockRange) : Bool :=
  rs.any (fun y => y.place == x.place && y.write == x.write && decide (y.lo ≤ x.lo) && decide (x.hi ≤ y.hi))

/-- The locks to register before the engine reads the block of its list that an index lies in, whose bounding span it locks (R237). -/
def State.indexLocks (s : State) (c : Copy) (n : Nat) : State × List LockRange :=
  ((c.blockOf n).flatMap c.indexPieces).foldl (fun (r : State × List LockRange) p =>
    match r.1.followEngine (c.req r.1 false p.1 p.2) with
    | (s, .at_ t) => let q := s.partLocks c false true p.1 p.2 t; (q.1, r.2 ++ q.2.filter (fun x => !x.covered r.2))
    | (s, _) => (s, r.2)) (s, [])

/-- An engine line performs (R239): nothing moves while the record has ended, is paused, or waits for a lock, or while the team is
being restored, since the engine could not count the line down (R93). -/
def State.copyLine (s : State) (c : Copy) : State :=
  if c.failed.isSome ∨ c.pause.isSome ∨ c.total ≤ c.moved ∨ s.lockPending (.copy c.id) ∨ s.restoring c.teamId then s
  else if 6 ≤ c.mode then
    match c.buffer with
    | none => s.drainStart c
    | some buf => s.drainPiece c buf
  else if 4 ≤ c.mode then
    let l := s.indexLocks c (c.moved / wf c.w5 31 0)
    if !l.2.isEmpty then l.1.register (.copy c.id) l.2
    else
      match s.readIndex c (c.moved / wf c.w5 31 0) with
      | (s, .ok i) => s.movePiece c i
      | (s, .error f) => s.stopCopy c f
  else s.movePiece c 0

/-! ## The end of a record (R179, R239, R241) -/

/-- An event-queue entry (R241). -/
def eventWord (kind status trap : Nat) (tag : BitVec 32) : BitVec 64 :=
  BitVec.ofNat 64 (kind * 2 ^ 60 + status * 2 ^ 48 + trap * 2 ^ 40 + tag.toNat)

/-- The event queue of the core that hosts a team has no space (R241). -/
def State.eventFull (s : State) (id : BitVec 32) : Bool :=
  match s.whereIs id with
  | .resident k _ => decide (256 ≤ (s.core (keyCore k)).evq.length)
  | _ => false

/-- An event is posted, behind those of the team that the device still holds: held by the device for a saved team, discarded for an
ended one (R241). -/
def State.postEvent (s : State) (e : EvEntry) : State :=
  match s.whereIs e.teamId with
  | .resident k _ =>
    if s.sched.savedEv.any (fun x => x.teamId == e.teamId) then { s with sched := { s.sched with savedEv := s.sched.savedEv ++ [e] } }
    else s.modCore (keyCore k) (fun c => { c with evq := c.evq ++ [e] })
  | .saved _ => { s with sched := { s.sched with savedEv := s.sched.savedEv ++ [e] } }
  | .ended => s

/-- A completion commits the current version of its team at nb scope or wider, and gives the largest w (R179, R426). -/
def State.completionCommit (s : State) (id : BitVec 32) (pi scope : Nat) : State × Nat :=
  if scope = 0 then (s, 0)
  else
    match s.whereIs id with
    | .resident k t =>
      let p := if (AMap.find t.paths pi).isSome then pi else t.firstPath
      let s := s.commitRelease k p
      (s, ((s.path k p).map (·.pts)).getD 0)
    | .saved t => s.commitSaved t
    | .ended => (s, 0)

/-- The commit of a completion waits for a lease (R46). -/
def State.completionBlocked (s : State) (id : BitVec 32) (scope : Nat) : Bool :=
  decide (1 ≤ scope) && (s.versionOf id).any (fun e => s.lineHeld e.1)

/-- A packet of a queue ends (R68). -/
def State.endPacket (s : State) (q : Nat) (idx : BitVec 32) (outcome trap : Nat) (task : BitVec 32) (rel : Nat) : State :=
  s.modQueue q (fun k => { k with packets := k.packets.map (fun p =>
    if p.idx = idx ∧ p.st = .begun then { p with st := .ended outcome trap task, rel := rel } else p) })

/-- A record ends with a status: the completion release at its scope, the rest of CNT, ERRC for a failure, and the event (R179, R239,
R241). It waits for space in the event queue and for leases. Its locks are released afterwards, by RANGE_LOCK_RELEASE (R237): those of a
COPY packet, which has no barrier object, go with it. -/
def State.endCopy (s : State) (c : Copy) (status trap errs : Nat) : State :=
  match c.packet with
  | some (q, idx) =>
    ({ s with eng := { s.eng with copies := s.eng.copies.filter (fun x => x.id != c.id) } }.endPacket q idx
      (if errs = 0 then 1 else 2) trap 0 c.rel).releaseLocks (fun l => l.owner == LockOwner.copy c.id)
  | none =>
    if s.restoring c.teamId ∨ (c.evt ∧ s.eventFull c.teamId) ∨ s.completionBlocked c.teamId c.scope then s
    else
      let r := s.completionCommit c.teamId c.path c.scope
      let T := max (max c.pts c.rel) r.2
      let s := (r.1.modLaunch c.launch (fun l => { l with rel := max l.rel T })).poolWrite c.teamId (c.recOff + 30) [BitVec.ofNat 8 trap, BitVec.ofNat 8 status] T
      let s := s.countDown c.teamId c.bar (c.total - c.counted) errs T
      let s := if c.evt then
          s.postEvent { teamId := c.teamId, word := eventWord 1 status trap c.tag, scope := c.scope, rel := T } else s
      let s := { s with eng := { s.eng with copies := s.eng.copies.filter (fun x => x.id != c.id) } }
      (s.modById c.teamId (fun t => { t with seq := t.seq.filter (fun m => m.kind != .drain c.id) })).replayHeld
        (fun h => h == Hold.engineSlot)

end Sys2Proof.Machine
end

