-- ==== Sys2Proof/Machine/Collect.lean ====
section
/-!
DEFINITION. Collectives (R48 to R53, R181, R350): records and group entries, the checks of R50, the reductions of R51, and
what the engine reads and writes.
-/

namespace Sys2Proof.Machine

/-! ## Records and groups (R48, R49, R50) -/

/-- A group table entry (R49). -/
def groupWord (s : State) (g : Nat) : Nat := (Tab.get 0 s.fab.fgrp g).toNat

/-- Member count, rank and timeout of a group entry. -/
def groupMembers (e : Nat) : Nat := bits 126 115 e + 1
def groupRank (e : Nat) : Nat := bits 114 103 e
def groupTmo (e : Nat) : Nat := bits 102 96 e

/-- A group entry is invalid (R49). -/
def groupBad (e : Nat) : Bool :=
  bits 127 127 e == 0 || decide (groupMembers e ≤ groupRank e) || groupTmo e == 0 || bits 95 64 e != 0 || bits 5 0 e != 0

/-- The types that an ACCM allows (R51). -/
def collTypes (accm : Nat) : List Nat :=
  if accm = 0 then [0, 1, 2, 3, 10, 11, 12, 13, 4, 5, 6, 7]
  else if accm = 1 then [10, 11, 12, 13, 0, 1, 8, 9, 6]
  else [6, 7, 4, 5]

/-- The trap of a collective record, in the order of R50. -/
def collTrap (s : State) (b : List Byte) (w : Window) : Option TrapClass :=
  let w0 := recWord b 0
  let op := wf w0 63 60
  let red := wf w0 59 56
  let ty := wf w0 55 52
  let accm := wf w0 51 50
  let n := wf (recWord b 3) 39 0
  let bad := fun (a : BitVec 64) => engineSpaceBad w a.toNat 0 || decide (2 < bits 63 60 a.toNat)
  if 3 < op ∨ 2 < red ∨ (2 ≤ op ∧ red ≠ 0) ∨ ty = 15 ∨ accm = 3 ∨ 3 < wf w0 46 44 ∨ wf w0 42 40 ≠ 0
      ∨ wf (recWord b 3) 63 40 ≠ 0 ∨ n = 0 ∨ 2 ^ 36 < n ∨ wf (recWord b 4) 63 22 ≠ 0 ∨ wf (recWord b 4) 3 0 ≠ 0
      ∨ recWord b 6 ≠ 0 ∨ recWord b 7 ≠ 0 ∨ groupBad (groupWord s (wf w0 39 32)) then some .reservedField
  else if bad (recWord b 1) ∨ bad (recWord b 2) then some .badSpace
  else if !(collTypes accm).contains ty then some .illegalType
  else none

/-- Node numbers of a group's members, by rank, as MLIST lists them (R49). -/
def State.memberNodes (s : State) (e : Nat) : List Nat :=
  (List.range (groupMembers e)).map (fun r => ofBytes (s.readPa (bits 63 0 e + 2 * r) 2))

/-- The reads of a member list perform at their home slices (R28, R136). -/
def State.touchMembers (s : State) (e : Nat) : State :=
  (pieces (2 * groupMembers e + 1) (bits 63 0 e) (List.replicate (2 * groupMembers e) 0)).foldl (fun s p => s.viewTouch (.dev p.1)) s

/-- A collective as its record describes it (R48, R49). -/
def Coll.ofRecord (s : State) (t : Team) (key pi off : Nat) (b : List Byte) : Coll :=
  let w0 := recWord b 0
  let g := groupWord s (wf w0 39 32)
  let op := wf w0 63 60
  let n := wf (recWord b 3) 39 0
  { id := 0, core := keyCore key, tkey := key, teamId := t.teamId, path := pi, launch := t.launch, asid := t.asid,
    recOff := off, op := op, red := wf w0 59 56, ty := wf w0 55 52, accm := wf w0 51 50, scope := wf w0 49 48,
    evt := w0.getLsbD 47, rnd := wf w0 46 44, sat := w0.getLsbD 43, tag := field w0 0 32, count := n, dst := recWord b 2,
    src := recWord b 1, bar := wf (recWord b 4) 21 0, members := groupMembers g, rank := groupRank g, win := t.window,
    nodes := s.memberNodes g, blocks := [], fingers := [], arrived := [],
    left := n * typeBytes (wf w0 55 52) * (if 2 ≤ op then groupMembers g else 1), pts := 0, broken := none, rel := 0,
    pause := none }


/-- The fingerprint of a collective (R52). -/
def Coll.finger (c : Coll) : CollFinger :=
  { op := c.op, red := c.red, ty := c.ty, accm := c.accm, count := c.count, members := c.members }

/-- An access of a collective. -/
def Coll.req (c : Coll) (s : State) (write : Bool) (addr size : Nat) : EngReq :=
  { core := c.core, asid := c.asid, win := c.win, self := c.teamId, rebuild := s.rebuildOf c.launch, write := write,
    addr := addr, size := size, pts := c.pts }

/-- A collective by its number, and a change of one. -/
def State.coll (s : State) (id : Nat) : Option Coll := s.fab.colls.find? (fun c => c.id == id)
def State.modColl (s : State) (id : Nat) (f : Coll → Coll) : State :=
  { s with fab := { s.fab with colls := s.fab.colls.map (fun c => if c.id = id then f c else c) } }

/-- Collectives of a core in flight (R350). -/
def State.collsOf (s : State) (core : Nat) : Nat := (s.fab.colls.filter (fun c => c.core == core)).length

/-! ## Reductions (R51) -/

/-- Elements of a list of bytes. -/
def elemsOf (ty : Nat) : Nat → List Byte → List Nat
  | 0, _ => []
  | n + 1, b => ofBytes (b.take (typeBytes ty)) :: elemsOf ty n (b.drop (typeBytes ty))

/-- The conversion that a collective applies: its own RND and SAT, and no scale (R216). -/
def Coll.conv (c : Coll) : Conv := { rm := rmOf c.rnd, sat := c.sat, dsc := 0, esc := 0 }

/-- The code of an element in its bytes: bits [7:6] of a t6 element are no part of it (R205). -/
def elemCode (ty x : Nat) : Nat := if ty = 9 then x % 64 else x

/-- The larger or smaller of two codes, exactly; NaN and NaR propagate (R51). Of two equal values, +0 and −0 among them, the one of
the lower rank stays: R51 does not order them (log entry 112). -/
def pickElem (ty : Nat) (c : Conv) (max_ : Bool) (a b : Nat) : Nat :=
  match decodeElem ty a, decodeElem ty b with
  | .nan, _ => c.finish false ty 0 .nan
  | _, .nan => c.finish false ty 0 .nan
  | x, y => if (if max_ then FNum.lt x y else FNum.lt y x) then elemCode ty b else elemCode ty a

/-- One step of a native sum (R51). -/
def nativeAdd (ty : Nat) (c : Conv) (a b : Nat) : Nat :=
  c.finish (isIntType ty) ty 0 (FNum.add (c.rm == .rd) (decodeElem ty a) (decodeElem ty b))

/-- An exact sum of values, infinities and NaN apart (R51). -/
def exactSum (vs : List FNum) : FNum :=
  if vs.any (fun v => v == .nan) then .nan
  else if vs.contains (.inf false) ∧ vs.contains (.inf true) then .nan
  else if vs.contains (.inf false) then .inf false
  else if vs.contains (.inf true) then .inf true
  else vs.foldl (FNum.add false) (.zero false)

/-- A wide-float sum in rank order (R51). -/
def wideSum (vs : List FNum) : FNum :=
  match vs with
  | [] => .zero false
  | v :: vs => vs.foldl (fun a b => decodeWide (roundWide (FNum.add false a b))) (decodeWide (roundWide v))

/-- One element reduced over the members, in rank order (R51). The final conversion of an exact sum of integers is R218's of an
integer source, which wraps when SAT = 0 (log entry 113). -/
def Coll.reduce (c : Coll) (xs : List Nat) : Nat :=
  let ty := c.ty
  match xs with
  | [] => 0
  | x :: rest =>
    if c.red ≠ 0 then rest.foldl (pickElem ty c.conv (c.red == 1)) (pickElem ty c.conv true x x)
    else if c.accm = 0 then rest.foldl (nativeAdd ty c.conv) x
    else if c.accm = 1 then c.conv.finish (isIntType ty) ty 0 (exactSum (xs.map (decodeElem ty)))
    else c.conv.finish false ty 0 (wideSum (xs.map (decodeElem ty)))

/-- The reduced block of a collective. -/
def Coll.reduced (c : Coll) : List Byte :=
  let rows := (List.range c.members).map (fun r => elemsOf c.ty c.count ((AMap.find c.blocks r).getD []))
  (List.range c.count).flatMap (fun i => toBytes (typeBytes c.ty) (c.reduce (rows.map (fun r => r.getD i 0))))

/-! ## Movement (R52) -/

/-- How a span of a collective's memory resolves: its lines with their targets, or what stops it. -/
inductive CollSpan where
  | lines (ls : List (EngTarget × Nat))
  | lock (r : LockRange)
  | stop (f : EngFound)
  deriving DecidableEq, Repr

/-- The lines of a span, followed in ascending addresses; `n` is the bytes left and the first argument bounds the number of
lines. -/
def State.collLines (s : State) (c : Coll) (write : Bool) : Nat → Nat → Nat → State × CollSpan
  | 0, _, _ => (s, .lines [])
  | _ + 1, _, 0 => (s, .lines [])
  | k + 1, a, n + 1 =>
    let m := min (n + 1) (64 - a % 64)
    match s.followEngine (c.req s write a m) with
    | (s1, .at_ t) =>
      let own := match t with
        | .dev pa _ => some (lineRange write .device pa m)
        | _ => none
      if own.any (fun r => !s1.holdsLock (.coll c.id) r) then (s1, .lock (own.getD (lineRange write .device 0 0)))
      else
        match State.collLines s1 c write k (a + m) (n + 1 - m) with
        | (s2, .lines ls) => (s2, .lines ((t, m) :: ls))
        | r => r
    | (s1, f) => (s1, .stop f)

/-- A span of a collective, resolved. -/
def State.collSpan (s : State) (c : Coll) (write : Bool) (a n : Nat) : State × CollSpan :=
  s.collLines c write (n / 64 + 2) a n

/-- A span that does not resolve: a lock is registered, a fault pauses the collective, and a class ends it as a fault of
this member (R53, R134), with STABLE_WRITE in its record (R116). -/
def State.stopColl (s : State) (c : Coll) : CollSpan → State
  | .lines _ => s
  | .lock r => if s.lockPending (.coll c.id) then s else s.registerWait (.coll c.id) [r]
  | .stop (.fault i) => s.modColl c.id (fun c => { c with pause := some i })
  | .stop (.err k) => s.modColl c.id (fun c => { c with broken := some .memberFault, trap := if k = .stableWrite then k.code else 0 })
  | .stop _ => s

/-- Bytes of resolved lines. -/
def State.collRead (s : State) (c : Coll) (ls : List (EngTarget × Nat)) : List Byte :=
  ls.flatMap (fun l => s.engineRead c.teamId l.1 l.2)

/-- Bytes written to resolved lines, unversioned: they taint the task (R52). -/
def State.collWrite (s : State) (c : Coll) : List (EngTarget × Nat) → List Byte → State
  | [], _ => s
  | l :: ls, b =>
    let r := s.engineWrite c.teamId true c.pts l.1 (b.take l.2)
    State.collWrite ((r.1.taintId c.teamId).modColl c.id (fun c => { c with rel := max c.rel r.2 })) c ls (b.drop l.2)

/-- The collective may move: its locks are granted and it is not paused or ended. -/
def State.collRuns (s : State) (c : Coll) : Bool := c.pause.isNone && c.broken.isNone && !s.lockPending (.coll c.id)

/-- What this member sends to the member of a rank: all of its source, or that member's block of it (R48). -/
def Coll.sentTo (c : Coll) (b : List Byte) (r : Nat) : List Byte :=
  if c.op = 1 ∨ c.op = 3 then (b.drop (r * c.block)).take c.block else b

/-- The messages of this member, to each other member at the node that MLIST gives it (R48, R49). -/
def State.sendBlocks (s : State) (c : Coll) (b : List Byte) : State :=
  ((List.range c.members).filter (fun r => r != c.rank)).foldl
    (fun s r => s.emit (.collective c.id (c.nodes.getD r 0) c.finger (c.sentTo b r))) s

/-- This member reads SRC under its lock, keeps its own block and sends the rest (R52). -/
def State.collSend (s : State) (c : Coll) : State :=
  if !s.collRuns c ∨ (AMap.find c.blocks c.rank).isSome then s
  else
    match s.collSpan c false c.src.toNat c.srcBytes with
    | (s, .lines ls) =>
      let b := s.collRead c ls
      let s := (ls.foldl (fun s l => s.engineTouch l.1) s).modColl c.id (fun x =>
        { x with blocks := AMap.insert c.rank (c.sentTo b c.rank) x.blocks, fingers := c.rank :: x.fingers })
      if s.fab.fnode = 0xFFF then s else s.sendBlocks c b
    | (s, r) => s.stopColl c r

/-- A collective enters its engine: it takes a number, and SRC and DST are registered with Gorse, and once they are
granted it sends (R52). -/
def State.enterColl (s : State) (c : Coll) : State :=
  let c : Coll := { c with id := s.eng.nextId }
  let s := { s with eng := { s.eng with nextId := c.id + 1 }, fab := { s.fab with colls := s.fab.colls ++ [c] } }
  let r := s.spanLocks (c.req s false c.src.toNat 0) c.src.toNat c.srcBytes c.src.toNat
  let q := r.1.spanLocks (c.req r.1 true c.dst.toNat 0) c.dst.toNat c.dstBytes c.dst.toNat
  let s := q.1.register (.coll c.id) (r.2 ++ q.2)
  ((s.coll c.id).map s.collSend).getD s

/-- A block of an all-gather or all-to-all is written at DST, and its bytes are counted down unless they are the last
(R52). -/
def State.collPlace (s : State) (c : Coll) (r : Nat) : State :=
  match AMap.find c.blocks r with
  | none => s
  | some b =>
    if c.op < 2 ∨ c.arrived.contains r ∨ !s.collRuns c ∨ c.left ≤ c.block ∨ s.restoring c.teamId then s
    else
      match s.collSpan c true ((c.dst.toNat + r * c.block) % 2 ^ 64) c.block with
      | (s, .lines ls) =>
        ((s.collWrite c ls b).countDown c.teamId c.bar c.block 0 0).modColl c.id (fun c =>
          { c with arrived := r :: c.arrived, left := c.left - c.block })
      | (s, q) => s.stopColl c q

/-- A collective ends with a status: the release at its scope, the rest of CNT, the event, and its locks (R52, R53,
R181). A write to a stable page leaves its class beside STATUS (R116; log entry 140). -/
def State.endColl (s : State) (c : Coll) (status errs : Nat) : State :=
  if s.restoring c.teamId ∨ (c.evt ∧ s.eventFull c.teamId) ∨ s.completionBlocked c.teamId c.scope then s
  else
    let r := s.completionCommit c.teamId c.path c.scope
    let T := max (max c.pts c.rel) r.2
    let s := (r.1.modLaunch c.launch (fun l => { l with rel := max l.rel T })).poolWrite c.teamId (c.recOff + 40) (toBytes 8 (status + 256 * c.trap)) T
    let s := s.countDown c.teamId c.bar c.left errs T
    let s := if c.evt then
        s.postEvent { teamId := c.teamId, word := eventWord 2 status c.trap c.tag, scope := c.scope, rel := T } else s
    let s := { s with fab := { s.fab with colls := s.fab.colls.filter (fun x => x.id != c.id) } }
    (s.releaseLocks (fun l => l.owner == LockOwner.coll c.id)).replayHeld (fun h => h == Hold.engineSlot)

/-- What a collective's DST still takes at its completion: blocks not yet placed, or the reduced block (R48). -/
def Coll.rest (c : Coll) : List (Nat × List Byte) :=
  if c.op < 2 then [(c.dst.toNat, c.reduced)]
  else ((List.range c.members).filter (fun r => !c.arrived.contains r)).map (fun r =>
    ((c.dst.toNat + r * c.block) % 2 ^ 64, (AMap.find c.blocks r).getD []))

/-- The rest is written, part by part; none when a part does not resolve. -/
def State.collFinish (s : State) (c : Coll) : List (Nat × List Byte) → Except State State
  | [] => .ok s
  | p :: ps =>
    match s.collSpan c true p.1 p.2.length with
    | (s1, .lines ls) => State.collFinish (s1.collWrite c ls p.2) c ps
    | (_, r) => .error (s.stopColl c r)

/-- The lines of a span that translate take free bytes, those under a lease when it has ended (R46, R183): `n` is the bytes left and the
first argument bounds the number of lines. -/
def State.poisonLines (s : State) (c : Coll) : Nat → Nat → Nat → State
  | 0, _, _ => s
  | _ + 1, _, 0 => s
  | k + 1, a, n + 1 =>
    let m := min (n + 1) (64 - a % 64)
    match s.followEngine (c.req s true a m) with
    | (s1, .at_ t) =>
      let bs := (List.range m).map (fun i => Config.freeByte s.fresh i)
      let s2 := match t with
        | .dev pa _ => if s1.lineHeld pa then s1.tick.deviceLine (pa, bs) else s1.tick.collWrite c [(t, m)] bs
        | _ => s1.tick.collWrite c [(t, m)] bs
      State.poisonLines s2 c k (a + m) (n + 1 - m)
    | (s1, _) => State.poisonLines s1 c k (a + m) (n + 1 - m)

/-- The DST of a failed collective holds what nothing states, wherever it translates (R53). -/
def State.collPoison (s : State) (c : Coll) : State := s.poisonLines c (c.dstBytes / 64 + 2) c.dst.toNat c.dstBytes

end Sys2Proof.Machine
end

