-- ==== Sys2Proof/Machine/Launches.lean ====
section
/-!
DEFINITION. Packets and launches: the common header (R63), the body of a LAUNCH packet and its kernel descriptor (R65, R76,
R77), the checks of R78, and the creation of a launch (R60, R84).
-/

namespace Sys2Proof.Machine

/-! ## Fields of a packet -/

/-- Word `n` of a packet or a descriptor. -/
def pw (b : List Byte) (n : Nat) : Nat := ofBytes ((b.drop (8 * n)).take 8)

/-- TYPE, SEQ, BAR, IRQ and CSIG of a packet (R63). -/
def pktType (b : List Byte) : Nat := bits 7 0 (pw b 0)
def pktSeq (b : List Byte) : BitVec 32 := BitVec.ofNat 32 (bits 63 32 (pw b 0))
def pktBar (b : List Byte) : Bool := (pw b 0).testBit 10
def pktIrq (b : List Byte) : Bool := (pw b 0).testBit 11
def pktCsig (b : List Byte) : Nat := pw b 1

/-- A reserved bit of the common header is set, or CSIG is misaligned or names nothing (R63, R66). -/
def headerBad (d : Dev) (b : List Byte) : Bool :=
  bits 15 12 (pw b 0) != 0 || bits 9 8 (pw b 0) != 0 || pktCsig b % 16 != 0 || viewOf d (pktCsig b) == .bad

/-- Number of the queue processor that serves a queue (R54). -/
def server (q : Nat) : Nat := q % 8

/-- EN, PRIO, RT, ASID, MSI-X vector and LOG2SZ of QCTL (R61). -/
def qctlEn (q : Queue) : Bool := q.qctl.getLsbD 0
def qctlPrio (q : Queue) : Nat := bits 2 1 q.qctl.toNat
def qctlRt (q : Queue) : Bool := q.qctl.getLsbD 3
def qctlAsid (q : Queue) : Nat := bits 15 4 q.qctl.toNat
def qctlVector (q : Queue) : Nat := bits 26 16 q.qctl.toNat
def qctlLog (q : Queue) : Nat := bits 31 27 q.qctl.toNat

/-! ## LAUNCH packets and descriptors -/

/-- A LAUNCH packet that its own fields refuse (R63, R65, R78, check 1). `csig` says whether CSIG counts (R162). -/
def launchBad (d : Dev) (csig : Bool) (b : List Byte) : Bool :=
  let gx := bits 23 0 (pw b 4)
  let gy := bits 47 24 (pw b 4)
  let gz := bits 63 48 (pw b 4)
  pktType b != 1 || bits 15 12 (pw b 0) != 0 || bits 9 8 (pw b 0) != 0 || (csig && headerBad d b)
    || bits 63 32 (pw b 5) != 0 || pw b 6 != 0 || pw b 7 != 0
    || gx == 0 || gy == 0 || gz == 0 || decide (2 ^ 32 ≤ gx * gy * gz) || pw b 2 % 64 != 0

/-- A descriptor read from its 64 bytes, with the pool word of the packet unless that is zero (R76, R77). -/
def Kdesc.ofBytes (b : List Byte) (pool : Nat) : Kdesc :=
  let p := if pool = 0 then bits 31 0 (pw b 4) else pool
  { sentry := BitVec.ofNat 64 (pw b 0), lbase := BitVec.ofNat 64 (pw b 1), lanes := bits 10 0 (pw b 2),
    pair := (pw b 2).testBit 13, gw := bits 15 14 (pw b 2), nbh := bits 19 16 (pw b 2), nbw := bits 23 20 (pw b 2),
    tpc := bits 31 24 (pw b 2), spsl := bits 39 32 (pw b 2), ejt := bits 47 40 (pw b 2), btimer := bits 63 48 (pw b 2),
    regs := bits 4 0 (pw b 3), scrt := bits 23 16 (pw b 3), dthr := bits 63 32 (pw b 3),
    carea := BitVec.ofNat 64 (bits 63 16 (pw b 5)), calog2 := bits 5 0 (pw b 5), regu := bits 7 0 p, scru := bits 15 8 p,
    accu := bits 23 16 p, save := bits 31 24 p }

/-- A reserved part of a descriptor is set (R76). -/
def kdescReserved (b : List Byte) : Bool :=
  bits 12 11 (pw b 2) != 0 || bits 15 5 (pw b 3) != 0 || bits 31 24 (pw b 3) != 0 || bits 63 32 (pw b 4) != 0
    || bits 15 6 (pw b 5) != 0 || pw b 6 != 0 || pw b 7 != 0

/-- Lanes that a core runs, and team slots that a launch takes on a core (R78). -/
def Kdesc.coreLanes (k : Kdesc) : Nat := if k.pair then k.lanes / 2 else k.lanes
def Kdesc.slots (k : Kdesc) : Nat := k.tpc + k.spsl

/-- The fields of a descriptor meet R78. -/
def Kdesc.valid (k : Kdesc) : Bool :=
  k.gw != 3 && k.lanes % k.group == 0 && decide (k.slots ≤ 16)
    && decide (1 ≤ k.btimer) && decide (16 ≤ k.calog2) && decide (k.calog2 ≤ 40)
    && decide (16 ≤ k.regu) && decide (k.regu ≤ 192) && decide (k.scru ≤ 128) && decide (k.accu ≤ 144) && k.accu % 12 == 0
    && decide (k.regu + k.scru + k.accu ≤ 192)
    && decide (k.slots * k.coreLanes * k.regs * 64 ≤ k.regu * 0x4000) && decide (k.slots * k.scrt ≤ k.scru)
    && decide (1 ≤ k.nt) && decide (k.nt ≤ 24)
    && (!k.pair || (k.lanes == 1024 && (k.nbw + 1) % 2 == 0)) && decide (k.nbw ≤ 15) && decide (k.nbh ≤ 11)
    && decide (1 ≤ k.lanes) && decide (k.lanes ≤ 1024) && decide (1 ≤ k.tpc) && decide (k.tpc ≤ 16)
    && decide (1 ≤ k.regs) && decide (k.regs ≤ 16) && decide (k.scrt ≤ 128) && decide (k.ejt ≤ 64) && decide (k.spsl ≤ 8)
    && k.sentry.toNat % 4 == 0 && k.lbase.toNat % 4096 == 0

/-- A translation that the dispatcher or the page engine makes outside a core (R78, R162): the walk, the permission and the A
bit. What fails is a class. -/
def State.walkFor (s : State) (asid va : Nat) (kind : AccKind) : State × Except TrapClass (Option Nat) :=
  match walk s asid false (va / 0x10000), s.noteWalk asid (va / 0x10000) with
  | .fault _ _ _, s => (s, .error .pageFault)
  | .uncorrectable, s => (s, .error .uncorrectable)
  | .leaf e pa vpn, s =>
    if !kind.permitted e then (s, .error .protection)
    else if leafDisc e then (s, .ok none)
    else
      let e' := withAD e false
      let s := if e' = e then s else s.writeEntry pa e'
      let s := { s with mem := s.mem.touchPage (leafFrame e) (leafPs e) }
      (s, .ok (some (leafFrame e + (va - vpn * 0x10000))))

/-- Bytes of an address lie outside space 0x0 (R78, R96). -/
def outside0 (a : Nat) : Bool := bits 63 52 a != 0

/-- The A bit of the page of an address waits for a lease on its leaf's line (R46). -/
def State.leafWaits (s : State) (asid va : Nat) (kind : AccKind) : Bool :=
  match walk s asid false (va / 0x10000) with
  | .leaf e pa _ => kind.permitted e && !leafDisc e && withAD e false != e && s.lineHeld pa
  | _ => false

/-- The checks of an image wait for a lease on a leaf that they would change (R46). -/
def State.checkWaits (s : State) (asid : Nat) (b : List Byte) : Bool :=
  s.leafWaits asid (pw b 2) .load ||
    (match (s.walkFor asid (pw b 2) .load).2 with
     | .ok (some a) =>
       let k := Kdesc.ofBytes (s.readPa a 64) 0
       s.leafWaits asid k.sentry.toNat .fetch || s.leafWaits asid k.lbase.toNat .fetch
     | _ => false)

/-- What DISP finds: the descriptor with the launch's size, or the class of the first check that fails (R78). A descriptor on a line
that DRAM has lost cannot be read, which is PROTECTION, as for a walk that fails (log entry 74). -/
def State.checkLaunch (s : State) (asid : Nat) (csig : Bool) (b : List Byte) : State × Except TrapClass Kdesc :=
  if launchBad s.dev csig b then (s, .error .reservedField)
  else if outside0 (pw b 2) then (s, .error .badSpace)
  else
    match s.walkFor asid (pw b 2) .load with
    | (s, .error _) => (s, .error .protection)
    | (s, .ok pa) =>
      let s := match pa with
        | some a => s.viewTouch (.dev a)
        | none => s
      let d := match pa with
        | some a => s.readPa a 64
        | none => List.replicate 64 0
      let k := Kdesc.ofBytes d (bits 31 0 (pw b 5))
      if (match pa with
          | some a => s.mem.badLines.contains (lineOf a)
          | none => false) then (s, .error .protection)
      else if kdescReserved d || !k.valid then (s, .error .reservedField)
      else if outside0 k.sentry.toNat || outside0 k.lbase.toNat || outside0 (k.carea.toNat * 0x10000) then
        (s, .error .badSpace)
      else
        match s.walkFor asid k.sentry.toNat .fetch with
        | (s, .error _) => (s, .error .protection)
        | (s, .ok _) =>
          match s.walkFor asid k.lbase.toNat .fetch with
          | (s, .error _) => (s, .error .protection)
          | (s, .ok _) => (s, .ok k)

/-- The launch that a checked packet describes, of a queue (R60, R65, R84). -/
def newLaunch (q : Nat) (k : Queue) (pkt : Option (BitVec 32)) (b : List Byte) (d : Kdesc) (order : Nat) : Launch :=
  { queue := q, pkt := pkt, asid := qctlAsid k, prio := qctlPrio k, rt := qctlRt k, args := BitVec.ofNat 64 (pw b 3),
    gx := bits 23 0 (pw b 4), gy := bits 47 24 (pw b 4), gz := bits 63 48 (pw b 4), k := d, order := order, begun := false,
    nextNb := 0, returned := [], liveNb := [], failed := none, cancelled := false, contSlots := [], privUsed := [],
    rebuild := none, waitFrom := none, acq := 0, rel := 0 }

/-- A launch is given the lowest free handle (R60): none while the dispatcher holds 4,096. It ends D0 idle (R11). -/
def State.addLaunch (s : State) (l : Launch) : Option (State × Nat) :=
  (AMap.freeBelow s.sched.launches 4096).map (fun h =>
    ({ s with
        dev := s.dev.wake,
        sched := { s.sched with
          launches := AMap.insert h { l with order := s.sched.dispCount } s.sched.launches,
          dispCount := s.sched.dispCount + 1 } }, h))

/-- The packet of a queue with an index, while it has not been reported. -/
def Queue.packet (k : Queue) (idx : BitVec 32) : Option Packet := k.packets.find? (fun p => p.idx == idx)

/-- The queue with a packet changed. -/
def Queue.modPacket (k : Queue) (idx : BitVec 32) (f : Packet → Packet) : Queue :=
  { k with packets := k.packets.map (fun p => if p.idx = idx then f p else p) }

/-- The dispatcher takes no new launch: it holds 4,096, or the switch to full service waits (R16, R60). -/
def State.dispStalls (s : State) : Bool := decide (4096 ≤ s.sched.launches.length) || s.dev.switching

/-- How a packet that has not ended takes a reset or a ring error (R68, R72, R73): a launch or a copy that has begun ends by
itself, and any other packet is cancelled. -/
def Packet.cancelled (p : Packet) : Packet :=
  match p.st with
  | .fetched => { p with st := .ended 3 0 0 }
  | .begun => if pktType p.bytes = 1 ∨ pktType p.bytes = 2 then p else { p with st := .ended 3 0 0 }
  | _ => p

/-- The launches of a queue, but for rebuild launches. -/
def State.launchesOf (s : State) (q : Nat) : List Nat :=
  (s.sched.launches.filter (fun e => e.2.queue == q && e.2.rebuild.isNone)).map (·.1)

/-- Step 2 of a queue reset (R73), which a ring error takes too (R68). A launch that has not begun goes with its packet. -/
def State.cancelQueue (s : State) (q : Nat) : State :=
  let s := { s with sched := { s.sched with launches := s.sched.launches.filter (fun e =>
    !(e.2.queue == q && e.2.rebuild.isNone && !e.2.begun)) } }
  let s := s.modQueue q (fun k => { k with packets := k.packets.map Packet.cancelled, skip := 0 })
  (s.launchesOf q).foldl (fun s h => s.cancelLaunch h) s

/-- The rebuild of a slot's frame fails, or cannot start (R160): FAIL is set, and the accesses parked on the frame meet
UNCORRECTABLE when they replay. -/
def State.failRebuild (s : State) (slot f : Nat) : State :=
  let k := s.slot slot
  (s.putSlot slot { k with fail := true, lost := f :: k.lost, rebuilding := k.rebuilding.filter (fun x => x.2.1 != f) }).replayHeld
    (fun h => h == Hold.kvRebuilding)

/-- What a reset of a queue does to the rebuild launches that it registered (R160, R162). -/
def State.unregisterRebuilds (s : State) (q : Nat) : State :=
  let s := (s.sched.launches.filter (fun e => e.2.queue == q && e.2.rebuild.isSome)).foldl (fun s e => s.cancelLaunch e.1) s
  (s.kv.slots.filter (fun e => e.2.regQueue == some q)).foldl (fun s e =>
    let s := s.putSlot e.1 { s.slot e.1 with rbl := 0, image := [], regQueue := none }
    match (s.slot e.1).rebuilding with
    | some x => s.failRebuild e.1 x.2.1
    | none => s) s

/-- A packet's end is written to its signal (R69): bytes 8 to 15, then VALUE less one. The signal keeps the release time
(R426). -/
def State.writeSignal (s : State) (q a : Nat) (outcome trap : Nat) (task : BitVec 32) (rel : Nat) : State :=
  if a = 0 then s
  else
    let t := viewOf s.dev a
    let t8 := viewOf s.dev (a + 8)
    let v := BitVec.ofNat 64 (ofBytes (s.viewRead (server q) t 8))
    let s := s.viewWrite (server q) t8 (toBytes 8 (outcome + trap * 2 ^ 8 + task.toNat * 2 ^ 32))
    let s := s.viewWrite (server q) t (toBytes 8 (v - 1).toNat)
    { s with sched := { s.sched with sigT := Tab.set 0 a (max (Tab.get 0 s.sched.sigT a) rel) s.sched.sigT } }

/-- The packets at the head of a queue that have been reported leave, and QRD passes them (R61, R68). -/
def retire : List Packet → BitVec 32 → List Packet × BitVec 32
  | [], qrd => ([], qrd)
  | p :: ps, qrd => if p.st = .reported then retire ps (qrd + 1) else (p :: ps, qrd)

/-- The queue after reports: its head packets retire. -/
def Queue.retired (k : Queue) : Queue :=
  let r := retire k.packets k.qrd
  { k with packets := r.1, qrd := r.2 }

/-- An ended packet is reported (R69): its signal, the MSI-X vector of its queue, and QRD. A CSIG that is misaligned
takes no signal (log entry 149). -/
def State.reportPacket (s : State) (q : Nat) (p : Packet) : State :=
  match p.st with
  | .ended o t task =>
    let s := if pktCsig p.bytes % 16 = 0 then s.writeSignal q (pktCsig p.bytes) o t task p.rel else s
    let s := if pktIrq p.bytes then s.emit (.msix (qctlVector (s.queue q))) else s
    s.modQueue q (fun k => { k.modPacket p.idx (fun x => { x with st := .reported }) with rel := max k.rel p.rel }.retired)
  | _ => s

end Sys2Proof.Machine
end

