-- ==== Sys2Proof/Machine/Hart.lean ====
section
/-!
DEFINITION. The queue processors: the command instructions RFETCH, BFX, SWAIT and DISP with their exceptions (R54 to R60),
their ordinary memory accesses (R54), and the illegal-instruction exception (R55).
-/

namespace Sys2Proof.Machine

/-- A meaning applied to the queue processor that `ctx` names. -/
def withHart (s : State) (f : Nat → Hart → State) : Outcome :=
  match AMap.find s.sched.harts s.ctx.hart with
  | none => .fault .noHart
  | some k => .next (f s.ctx.hart k)

/-- A synchronous exception: the instruction has no other effect (R56). -/
def hartRaise (s : State) (h cause : Nat) (tval : Word64) : State := s.modHart h (fun k => k.exception cause tval)

/-- A command instruction completes: rd is written, and the pc goes on. -/
def Hart.complete (k : Hart) (rd : Reg5) (v : Word64) : Hart := { (k.setR rd v) with pc := k.pc + 4, swait := none }.retire

/-- The state with the queue processor's instruction completed. -/
def hartDone (s : State) (h : Nat) (rd : Reg5) (v : Word64) : State := s.modHart h (fun k => k.complete rd v)

/-- A command instruction: illegal in user mode (R55). -/
def commandOp (s : State) (f : Nat → Hart → State) : Outcome :=
  withHart s fun h k => if k.mode = .user then hartRaise s h 2 (BitVec.setWidth 64 (s.hartWord h)) else f h k

/-- The offset of a 64-byte buffer in local SRAM, or none when it is misaligned or outside (R56). -/
def sramBuffer (d : Dev) (a : Word64) : Option Nat :=
  match viewOf d a.toNat with
  | .sram off => if off % 64 = 0 then some off else none
  | _ => none

/-- A queue number that a queue processor may name: in range, and served by it (R56). -/
def queueRefused (h : Nat) (v : Word64) : Bool := decide (1024 ≤ v.toNat) || server v.toNat != h

/-! ## RFETCH (R57) -/

/-- The address of the ring entry of an index (R61). -/
def ringEntry (k : Queue) (idx : BitVec 32) : Nat := (k.qbase.toNat + idx.toNat % 2 ^ qctlLog k * 64) % 2 ^ 64

/-- Write timestamp of the line at a target: what an acquire that reads it passes (R109). -/
def State.viewStamp (s : State) : ViewTarget → Nat
  | .dev pa => (s.mem.stamps (lineOf pa)).1
  | _ => 0

/-- A packet of 64 bytes enters local SRAM, rd takes its header word, and the queue's fetch index moves on (R57). -/
def fetched (s : State) (h q off : Nat) (rd : Reg5) (b : List Byte) (rel : Nat) (inlined : Bool) : State :=
  let s := s.modHart h (fun k => { k with sram := Tab.setList 0 off b k.sram })
  let s := s.modQueue q (fun k =>
    { k with
      packets := k.packets ++ [{ idx := k.fetchIdx, bytes := b, st := .fetched, item := none, rel := 0 }],
      fetchIdx := k.fetchIdx + 1,
      rel := max k.rel rel,
      inline_ := if inlined then none else k.inline_ })
  hartDone s h rd (BitVec.ofNat 64 (pw b 0))

/-- RFETCH (R57). A queue in the error state or in a reset gives nothing (R68, R73). -/
def execRfetch (rd rs1 rs2 : Reg5) (s : State) : Outcome :=
  commandOp s fun h k =>
    let q := (k.r rs1).toNat
    let u := s.queue q
    if queueRefused h (k.r rs1) || !qctlEn u then hartRaise s h 24 (k.r rs1)
    else
      match sramBuffer s.dev (k.r rs2) with
      | none => hartRaise s h 26 (k.r rs2)
      | some off =>
        if u.fetchIdx = u.qwr ∨ u.qerr ≠ 0 ∨ u.rstBusy then hartDone s h rd 0
        else
          match u.inline_.filter (fun i => i.1 == u.fetchIdx) with
          | some i => fetched s h q off rd i.2 0 true
          | none =>
            let t := viewOf s.dev (ringEntry u u.fetchIdx)
            if s.viewError t 64 then
              hartRaise ((s.modQueue q (fun k => { k with qerr := 1 })).cancelQueue q) h 25 (BitVec.ofNat 64 q)
            else fetched (s.viewTouch t) h q off rd (s.viewRead h t 64) (s.viewStamp t) false

/-! ## BFX (R58) -/

/-- A bit field, or QF_FIELD (R58). -/
def bfx (signed : Bool) (rd rs1 rs2 : Reg5) (s : State) : Outcome :=
  commandOp s fun h k =>
    let spec := (k.r rs2).toNat
    let lo := bits 5 0 spec
    let wd := bits 12 6 spec
    if bits 63 13 spec ≠ 0 ∨ wd = 0 ∨ 64 < lo + wd then hartRaise s h 27 (k.r rs2)
    else
      let x := (k.r rs1).toNat / 2 ^ lo % 2 ^ wd
      hartDone s h rd (BitVec.ofNat 64 (if signed then ofSigned 64 (toSigned wd x) else x))

/-- BFXU (R58). -/
def execBfxu (rd rs1 rs2 : Reg5) (s : State) : Outcome := bfx false rd rs1 rs2 s

/-- BFXS (R58). -/
def execBfxs (rd rs1 rs2 : Reg5) (s : State) : Outcome := bfx true rd rs1 rs2 s

/-! ## SWAIT (R59) -/

/-- VALUE c comparand, as signed numbers (R59, R66). -/
def swaitHolds (c : Nat) (v x : Word64) : Bool :=
  if c = 0 then v == x else if c = 1 then v != x else if c = 2 then v.slt x else !v.slt x

/-- One read of the signal by a SWAIT: it completes, faults, or waits (R59). -/
def swaitRead (s : State) (h : Nat) (w : SwaitState) : State :=
  let t := viewOf s.dev w.addr.toNat
  if s.viewError t 8 then hartRaise s h 28 w.addr
  else
    let v := BitVec.ofNat 64 (ofBytes (s.viewRead h t 8))
    let s := s.viewTouch t
    if swaitHolds w.cond.toNat v w.cmp then hartDone s h w.rd v
    else s.modHart h (fun k => { k with swait := some { w with last := v } })

/-- SWAIT (R59). -/
def execSwait (c : BitVec 3) (rd rs1 rs2 : Reg5) (s : State) : Outcome :=
  commandOp s fun h k =>
    let a := k.r rs1
    if 4 ≤ c.toNat then hartRaise s h 2 (BitVec.setWidth 64 (s.hartWord h))
    else if a.toNat % 16 ≠ 0 ∨ viewOf s.dev a.toNat = .bad then hartRaise s h 26 a
    else swaitRead s h { cond := c, rd := rd, addr := a, cmp := k.r rs2, last := 0 }

/-- SWAIT_REREAD (R59): a waiting SWAIT reads VALUE again. -/
def execSwaitReread (h : Nat) (s : State) : Outcome :=
  .next (match (s.hart h).swait with
    | some w => swaitRead s h w
    | none => s)

/-- SWAIT_TIMEOUT (R59): qpwto expires, and rd takes the last value read. -/
def execSwaitTimeout (h : Nat) (s : State) : Outcome :=
  .next (match (s.hart h).swait with
    | some w => if (s.hart h).qpwto = 0 then s else hartDone s h w.rd w.last
    | none => s)

/-! ## DISP (R60, R78) -/

/-- What DISP returns for a packet that it refuses (R60). -/
def dispRefused (c : TrapClass) : Word64 := BitVec.ofNat 64 (2 ^ 63 + c.code)

/-- The packet of a queue that DISP is handed, while it waits to begin. -/
def Queue.undispatched (k : Queue) (idx : BitVec 32) : Option (BitVec 32) :=
  ((k.packet idx).filter (fun p => p.st == .fetched)).map (·.idx)

/-- A packet of this index has been fetched and waits no longer: it has begun or was cancelled, or a reset is cancelling the queue's work
(R68, R73). -/
def Queue.spent (k : Queue) (idx : BitVec 32) : Bool :=
  k.rstBusy || ((k.undispatched idx).isNone && decide ((k.fetchIdx - 1 - idx).toNat < 2 ^ 31))

/-- The launch that a packet of a queue has in the dispatcher. -/
def State.packetLaunch (s : State) (q : Nat) (idx : BitVec 32) : Option Nat :=
  (s.sched.launches.find? (fun e => e.2.queue == q && e.2.pkt == some idx)).map (·.1)

/-- The launch that DISP makes of a checked packet (R60): of a fetched packet, which begins with it; of one whose work has begun or was
cancelled, where it takes a handle and runs nothing, since a launch runs once (R64, R73); or of words that are no packet of the queue,
which begins at once (log entry 116). -/
def dispLaunch (q : Nat) (k : Queue) (b : List Byte) (d : Kdesc) : Launch :=
  let pkt := k.undispatched (pktSeq b)
  { newLaunch q k pkt b d 0 with begun := pkt.isNone || k.rstBusy, cancelled := k.spent (pktSeq b) }

/-- DISP (R60, R78): it stalls while the dispatcher is full, and while a lease holds up the A bit of a page that it checks, and then
creates a launch or reports the class of the first check that fails. A packet that has its launch already keeps that one. -/
def execDisp (rd rs1 rs2 : Reg5) (s : State) : Outcome :=
  commandOp s fun h k =>
    let q := (k.r rs2).toNat
    if queueRefused h (k.r rs2) then hartRaise s h 24 (k.r rs2)
    else
      match sramBuffer s.dev (k.r rs1) with
      | none => hartRaise s h 26 (k.r rs1)
      | some off =>
        let b := Tab.getList 0 k.sram off 64
        let u := s.queue q
        if s.dispStalls || s.checkWaits (qctlAsid u) b then s
        else
          match s.checkLaunch (qctlAsid u) true b with
          | (s, .error c) => hartDone s h rd (dispRefused c)
          | (s, .ok d) =>
            match s.packetLaunch q (pktSeq b) with
            | some n => hartDone s h rd (BitVec.ofNat 64 n)
            | none =>
              match s.addLaunch (dispLaunch q u b d) with
              | none => s
              | some (s, n) => hartDone s h rd (BitVec.ofNat 64 n)

/-! ## Ordinary accesses (R54) -/

/-- The value that a load or an atomic gives a register. -/
def qpValue (size : Nat) (signed : Bool) (b : List Byte) : Word64 :=
  BitVec.ofNat 64 (if signed then ofSigned 64 (toSigned (8 * size) (ofBytes b)) else ofBytes b)

/-- Bytes from an address stay in its target's range (R54). -/
def viewFits (d : Dev) (a n : Nat) : Bool :=
  match viewOf d a with
  | .host x => decide (x + n ≤ 2 ^ 63)
  | .sram off => decide (off + n ≤ 0x40000)
  | .dev pa => decide (pa + n ≤ d.limit)
  | .bad => false

/-- A write to device memory waits at its owner (R46). -/
def State.viewBlocked (s : State) : ViewTarget → Bool
  | .dev pa => s.lineHeld pa
  | _ => false

/-- An ordinary access of a queue processor: done, with what it read; raising an access-fault exception of RISC-V, for an address
that leads nowhere or a read that ends with an error; or waiting for a lease (R46). -/
inductive QpRes where
  | done (s : State) (old : List Byte)
  | fault (cause : Nat)
  | wait

/-- A load of a queue processor (R54). -/
def State.qpLoad (s : State) (h : Nat) (addr : Word64) (size : Nat) : QpRes :=
  let t := viewOf s.dev addr.toNat
  if s.viewError t size then .fault 5 else .done (s.viewTouch t) (s.viewRead h t size)

/-- A store of a queue processor (R54): it faults unless all of its bytes lie in the range of its target. -/
def State.qpStore (s : State) (h : Nat) (addr : Word64) (b : List Byte) : QpRes :=
  let t := viewOf s.dev addr.toNat
  if !viewFits s.dev addr.toNat b.length then .fault 7
  else if s.viewBlocked t || (match t with
      | .dev pa => s.rangeLeased pa b.length
      | _ => false) then .wait
  else .done (s.viewWrite h t b) []

/-- An atomic of a queue processor (R54). -/
def State.qpAmo (s : State) (h : Nat) (addr : Word64) (size : Nat) (op : AtomicOp) (x c : Word64) : QpRes :=
  let t := viewOf s.dev addr.toNat
  let old := s.viewRead h t size
  let m := 2 ^ (8 * size)
  if s.viewError t size then .fault 7
  else if s.viewBlocked t then .wait
  else .done (match atomicNew op size (ofBytes old) (x.toNat % m) (c.toNat % m) with
    | some v => s.viewWrite h t (toBytes size v)
    | none => s.viewTouch t) old

/-- QUEUE_PROCESSOR_ACCESS (R54): an ordinary load, store or atomic. No queue processor runs in D3hot and D3cold (R11). -/
def execQueueProcessorAccess (h : Nat) (a : QpAccess) (s : State) : Outcome :=
  let (r, put) : QpRes × (List Byte → Hart → Hart) := match a.op with
    | .load rd signed => (s.qpLoad h a.addr a.size, fun b k => k.setR rd (qpValue a.size signed b))
    | .store x => (s.qpStore h a.addr (toBytes a.size x.toNat), fun _ k => k)
    | .amo op x c rd => (s.qpAmo h a.addr a.size op x c, fun b k => k.setR rd (qpValue a.size true b))
  .next (if s.dev.dark then s else match r with
    | .done s b => s.modHart h (put b)
    | .fault c => hartRaise s h c a.addr
    | .wait => s)

/-- ILLEGAL_INSTRUCTION (R55): the exception with mcause 2. -/
def execIllegalInstruction (w : BitVec 32) (s : State) : Outcome :=
  withHart s fun h _ => hartRaise s h 2 (BitVec.setWidth 64 w)

end Sys2Proof.Machine
end

