-- ==== Sys2Proof/Machine/Queue.lean ====
section
/-!
DEFINITION. Queues and packets: launch stores (R23, R64), queue control (R61, R62), the packet types (R65 to R68, R71, R162,
R374), completion (R69, R70, R72), queue resets (R73) and the completion of launches (R65).
-/

namespace Sys2Proof.Machine

/-! ## Launch stores and QCTL -/

/-- A launch store that is well formed under R23 and accepted under R64. -/
def launchAccepted (k : Queue) (t : LaunchTlp) : Bool :=
  let w := t.data.toNat
  let count := bits 31 16 w
  t.off == 0 && t.len == 64 && t.tlps == 1 && t.allBe && qctlEn k && !k.rstBusy && BitVec.ofNat 32 (bits 63 32 w) == k.qwr
    && decide (1 ≤ count) && decide ((k.qwr + BitVec.ofNat 32 count - k.qrd).toNat ≤ 2 ^ qctlLog k)

/-- The ring entry of a launch store cannot be written yet: its line is leased to a peer, or a write waits in front (R46). -/
def State.ringHeld (s : State) : ViewTarget → Bool
  | .dev pa => s.lineHeld pa
  | _ => false

/-- LAUNCH_STORE (R22, R23, R64): an accepted store fills the inline slot and its ring entry and then raises QWR; it waits on the link
while the ring entry cannot be written. Any other write to LAUNCH is discarded and counted; a write elsewhere in the page is ignored. -/
def execLaunchStore (q : Nat) (t : LaunchTlp) (s : State) : Outcome :=
  onLink s <|
  let k := s.queue q
  let b := toBytes 64 t.data.toNat
  .next (if 64 ≤ t.off ∨ 1024 ≤ q then s
    else if launchAccepted k t then
      let ring := viewOf s.dev (ringEntry k k.qwr)
      if s.ringHeld ring then s else
      let s := s.viewWrite (server q) ring b
      s.modQueue q (fun k =>
        { k with inline_ := some (k.qwr, b), qwr := k.qwr + BitVec.ofNat 32 (bits 31 16 t.data.toNat), rel := max k.rel s.dev.hostT })
    else s.modQueue q (fun k => { k with ldrop := if k.ldrop = 0xFFFF then 0xFFFF else k.ldrop + 1 }))

/-- A value that leaves QCTL unchanged: LOG2SZ or the vector is out of range (R61). -/
def qctlRefused (v : BitVec 64) : Bool :=
  decide (bits 31 27 v.toNat < 4) || decide (16 < bits 31 27 v.toNat) || decide (1023 < bits 26 16 v.toNat)

/-- QCTL_WRITE (R61, R62): the reserved half reads zero. -/
def execQctlWrite (q : Nat) (v : BitVec 64) (s : State) : Outcome :=
  onLink s <|
  .next (if qctlRefused v ∨ 1024 ≤ q then s
    else s.modQueue q (fun k => { k with qctl := BitVec.setWidth 64 (field v 0 32 : BitVec 32) }))

/-! ## The beginning of a packet (R68) -/

/-- A packet that keeps later ones from beginning until it completes (R68). -/
def Packet.blocks (p : Packet) : Bool := pktType p.bytes == 4 || pktType p.bytes == 5 || pktType p.bytes == 7

/-- A packet may begin after the packets before it (R68). -/
def Packet.mayBegin (p : Packet) (before : List Packet) : Bool :=
  before.all (fun x => x.st != .fetched && (x.st == .reported || !(x.blocks || pktBar p.bytes)))

/-- A packet ends before it begins, with an outcome: a launch that DISP made for it goes. -/
def State.endUnbegun (s : State) (q : Nat) (idx : BitVec 32) (outcome trap : Nat) : State :=
  let s := { s with sched := { s.sched with launches := s.sched.launches.filter (fun e =>
    !(e.2.queue == q && e.2.pkt == some idx && !e.2.begun)) } }
  s.modQueue q (fun k => k.modPacket idx (fun p => { p with st := .ended outcome trap 0, rel := k.rel }))

/-- A packet begins, or goes on, under an event of its type (R68, R71): it waits for the packets before it, is cancelled in the
range of a failed COND, fails when it is malformed, and otherwise does what `run` says. -/
def State.onPacket (s : State) (q : Nat) (idx : Nat) (ty : Nat) (run : State → Queue → Packet → State) : State :=
  let i : BitVec 32 := BitVec.ofNat 32 idx
  let k := s.queue q
  match k.packet i with
  | none => s
  | some p =>
    let t := pktType p.bytes
    if t ≠ ty ∧ 1 ≤ t ∧ t ≤ 7 then s
    else
      match p.st with
      | .begun => if t = ty then run s k p else s
      | .fetched =>
        if !p.mayBegin (k.packets.takeWhile (fun x => x.idx != i)) then s
        else if k.skip ≠ 0 then (s.modQueue q (fun k => { k with skip := k.skip - 1 })).endUnbegun q i 3 0
        else if t = 0 ∨ 7 < t ∨ headerBad s.dev p.bytes then s.endUnbegun q i 2 TrapClass.reservedField.code
        else run s k p
      | _ => s

/-- The packet has begun (R68). -/
def State.markBegun (s : State) (q : Nat) (p : Packet) (item : Option Nat) : State :=
  s.modQueue q (fun k => k.modPacket p.idx (fun x => { x with st := .begun, item := item }))

/-- The packet begins and ends at once. -/
def State.endNow (s : State) (q : Nat) (p : Packet) (outcome trap rel : Nat) : State :=
  (s.markBegun q p none).endPacket q p.idx outcome trap 0 rel

/-- The packet fails with a class (R69). -/
def State.failPacket (s : State) (q : Nat) (p : Packet) (c : TrapClass) : State := s.endUnbegun q p.idx 2 c.code

/-- The queue has synchronised with a signal or a word that it read (R426). -/
def State.passSignal (s : State) (q a : Nat) : State :=
  let t := max (s.viewStamp (viewOf s.dev a)) (Tab.get 0 s.sched.sigT a)
  (s.viewTouch (viewOf s.dev a)).modQueue q (fun k => { k with rel := max k.rel t })

/-- VALUE of a signal (R69). -/
def State.signalValue (s : State) (q a : Nat) : Word64 :=
  BitVec.ofNat 64 (ofBytes (s.viewRead (server q) (viewOf s.dev a) 8))

/-- An address that a packet may not name: misaligned (R66), or leading nowhere in the processors' view (log entry 117). -/
def addrBad (d : Dev) (align a : Nat) : Bool := a % align != 0 || viewOf d a == .bad

/-- Words of a packet from `n` on are zero. -/
def zeroFrom (b : List Byte) (n : Nat) : Bool := (b.drop (8 * n)).all (fun x => x == 0)

/-! ## LAUNCH and COPY -/

/-- The payload of a KIND 1 record: queue number and packet (R258). -/
def launchRecord (q : Nat) (b : List Byte) : List Byte := toBytes 4 q ++ b

/-- LAUNCH_PACKET (R65, R68, R258): the launch that DISP made begins; where it made none, the packet is checked as DISP does. It
waits while a journal that records it is full. -/
def execLaunchPacket (q idx : Nat) (s : State) : Outcome :=
  .next (s.onPacket q idx 1 fun s k p =>
    if p.st = .begun ∨ s.journalFull 68 = true then s
    else
      let begin_ := fun (s : State) (h : Nat) =>
        ((s.modLaunch h (fun l => { l with begun := true, acq := k.rel })).markBegun q p (some h)).journal 1 (launchRecord q p.bytes)
      match s.sched.launches.find? (fun e => e.2.queue == q && e.2.pkt == some p.idx && !e.2.begun) with
      | some e => begin_ s e.1
      | none =>
        if s.dispStalls || s.checkWaits (qctlAsid k) p.bytes then s
        else
          match s.checkLaunch (qctlAsid k) true p.bytes with
          | (s, .error c) => s.failPacket q p c
          | (s, .ok d) =>
            match s.addLaunch (newLaunch q k (some p.idx) p.bytes d 0) with
            | none => s
            | some (s, h) => begin_ s h)

/-- The ranges that a COPY packet locks (R67, R237). -/
def viewLocks (d : Dev) (write : Bool) (a n : Nat) : List LockRange :=
  match viewOf d a with
  | .host x => [lineRange write .host x n]
  | .dev pa => [lineRange write .device pa n]
  | _ => []

/-- The copy that a COPY packet starts (R67). -/
def packetCopy (q : Nat) (idx : BitVec 32) (b : List Byte) : Copy :=
  { id := 0, core := 0, tkey := 0, teamId := 0, path := 0, clause := 0, launch := 0, asid := 0, recOff := 0, mode := 0,
    scope := 0, evt := false, tag := 0, src := BitVec.ofNat 64 (pw b 2), dst := BitVec.ofNat 64 (pw b 3), bar := 0,
    w4 := BitVec.ofNat 64 (pw b 4), w5 := 0, w6 := 0, w7 := 0, fmt := 0, pts := 0,
    win := { launch := 0, nbh := 0, tidx := 0, binTeam := false, nt := 0, scrSize := 0 }, moved := 0, counted := 0,
    total := pw b 4, buffer := none, area := [], pause := none, failed := none, packet := some (q, idx), rel := 0 }

/-- COPY_PACKET (R66, R67): a linear copy in the queue processors' view enters the engine under its range locks; spans that
overlap fail it as they fail a record (R236). -/
def execCopyPacket (q idx : Nat) (s : State) : Outcome :=
  .next (s.onPacket q idx 2 fun s _ p =>
    let b := p.bytes
    let n := pw b 4
    let src := pw b 2
    let dst := pw b 3
    if p.st = .begun then s
    else if n = 0 ∨ 2 ^ 40 ≤ n ∨ !zeroFrom b 5 ∨ !viewFits s.dev src n ∨ !viewFits s.dev dst n then s.failPacket q p .reservedField
    else if src < dst + n ∧ dst < src + n then s.failPacket q p .operandOverlap
    else
      let c : Copy := { packetCopy q p.idx b with id := s.eng.nextId }
      let s := { s with eng := { s.eng with nextId := c.id + 1, copies := s.eng.copies ++ [c] } }
      (s.register (.copy c.id) (viewLocks s.dev false src n ++ viewLocks s.dev true dst n)).markBegun q p (some c.id))

/-! ## SIGNAL, WAIT, COND and BARRIER-AND -/

/-- SIGNAL_PACKET (R66, R67). -/
def execSignalPacket (q idx : Nat) (s : State) : Outcome :=
  .next (s.onPacket q idx 3 fun s k p =>
    let b := p.bytes
    let a := pw b 2
    let op := pw b 4
    let t := viewOf s.dev a
    if addrBad s.dev 16 a ∨ 3 ≤ op ∨ !zeroFrom b 5 then s.failPacket q p .reservedField
    else if s.viewError t 8 then s.failPacket q p .uncorrectable
    else if s.viewBlocked t then s
    else
      let x := BitVec.ofNat 64 (pw b 3)
      let v := s.signalValue q a
      let s := s.viewWrite (server q) t (toBytes 8 (if op = 0 then x else if op = 1 then v + x else v - x).toNat)
      let s := { s with sched := { s.sched with sigT := Tab.set 0 a (max (Tab.get 0 s.sched.sigT a) k.rel) s.sched.sigT } }
      s.endNow q p 1 0 k.rel)

/-- WAIT_PACKET (R66, R67): it completes when VALUE meets CMP against VAL, and waits otherwise. -/
def execWaitPacket (q idx : Nat) (s : State) : Outcome :=
  .next (s.onPacket q idx 4 fun s k p =>
    let b := p.bytes
    let a := pw b 2
    if addrBad s.dev 16 a ∨ bits 31 2 (pw b 4) ≠ 0 ∨ !zeroFrom b 5 then s.failPacket q p .reservedField
    else if s.viewError (viewOf s.dev a) 8 then s.failPacket q p .uncorrectable
    else if swaitHolds (bits 1 0 (pw b 4)) (s.signalValue q a) (BitVec.ofNat 64 (pw b 3)) then
      (s.passSignal q a).endNow q p 1 0 k.rel
    else (s.viewTouch (viewOf s.dev a)).markBegun q p none)

/-- A packet that waits fails with TIMER (R67). -/
def State.timeOut (s : State) (q idx ty : Nat) (tmo : List Byte → Nat) : State :=
  match (s.queue q).packet (BitVec.ofNat 32 idx) with
  | none => s
  | some p =>
    if p.st = .begun ∧ pktType p.bytes = ty ∧ tmo p.bytes ≠ 0 then
      s.endPacket q p.idx 2 TrapClass.timer.code 0 (s.queue q).rel
    else s

/-- WAIT_PACKET_TIMEOUT (R67). -/
def execWaitPacketTimeout (q idx : Nat) (s : State) : Outcome := .next (s.timeOut q idx 4 (fun b => bits 63 32 (pw b 4)))

/-- COND_PACKET (R66, R71): the predicate word is read once; a condition that fails cancels the SKIP packets that follow; a
COND that itself fails cancels none (log entry 150). -/
def execCondPacket (q idx : Nat) (s : State) : Outcome :=
  .next (s.onPacket q idx 5 fun s k p =>
    let b := p.bytes
    let a := pw b 2
    let skip := pw b 4
    let t := viewOf s.dev a
    if addrBad s.dev 4 a ∨ skip = 0 ∨ 2 ^ 16 ≤ skip ∨ !zeroFrom b 5 then s.failPacket q p .reservedField
    else if s.viewError t 4 then s.failPacket q p .uncorrectable
    else
      let v := ofBytes (s.viewRead (server q) t 4)
      let s := (s.passSignal q a).endNow q p 1 0 k.rel
      if (v &&& bits 63 32 (pw b 3)) = bits 31 0 (pw b 3) then s else s.modQueue q (fun k => { k with skip := skip }))

/-- The signals that a BARRIER-AND packet names (R66). -/
def barrierSignals (b : List Byte) : List Nat := ((List.range 5).map (fun i => pw b (2 + i))).filter (fun a => a != 0)

/-- BARRIER_AND_PACKET (R66, R67). -/
def execBarrierAndPacket (q idx : Nat) (s : State) : Outcome :=
  .next (s.onPacket q idx 7 fun s k p =>
    let sigs := barrierSignals p.bytes
    if sigs.any (addrBad s.dev 16) ∨ bits 63 32 (pw p.bytes 7) ≠ 0 then s.failPacket q p .reservedField
    else if sigs.any (fun a => s.viewError (viewOf s.dev a) 8) then s.failPacket q p .uncorrectable
    else if sigs.all (fun a => s.signalValue q a == 0) then (sigs.foldl (fun s a => s.passSignal q a) s).endNow q p 1 0 k.rel
    else (sigs.foldl (fun s a => s.viewTouch (viewOf s.dev a)) s).markBegun q p none)

/-- BARRIER_AND_TIMEOUT (R67). -/
def execBarrierAndTimeout (q idx : Nat) (s : State) : Outcome := .next (s.timeOut q idx 7 (fun b => bits 31 0 (pw b 7)))

/-! ## TREE packets (R66, R162, R374) -/

/-- OP, SLOT, NODE and NODE2 of a TREE packet (R66). -/
def treeOpOf (b : List Byte) : Nat := bits 7 0 (pw b 2)
def treeSlot (b : List Byte) : Nat := bits 19 8 (pw b 2)
def treeNode (b : List Byte) : Nat := bits 27 20 (pw b 2)
def treeNode2 (b : List Byte) : Nat := bits 35 28 (pw b 2)

/-- A TREE packet ends with the queue synchronised with the slot's releases (R159, R426). -/
def State.treeDone (s : State) (q : Nat) (p : Packet) (slot rel : Nat) : State :=
  (s.modQueue q (fun k => { k with rel := max k.rel (s.slot slot).rel })).endNow q p 1 0 rel

/-- A TREE packet of an operation, after the checks of R66 and R373 with the queue's ASID. `node` says whether the operation
takes a node. An event of another operation leaves it, and an undefined OP fails it. -/
def treePacket (s : State) (q idx op : Nat) (node : Bool) (f : State → Queue → Packet → State) : State :=
  s.onPacket q idx 6 fun s k p =>
    let b := p.bytes
    let slot := treeSlot b
    if treeOpOf b ≠ op ∧ treeOpOf b ≤ 5 then s
    else if p.st = .begun then f s k p
    else if s.claimed slot (.packet q p.idx) then s
    else if 5 < treeOpOf b ∨ bits 63 36 (pw b 2) ≠ 0 ∨ !zeroFrom b 4 ∨ (!node ∧ treeNode b ≠ 0) then s.failPacket q p .reservedField
    else
      match treeCheck s slot (qctlAsid k) (op == 0) with
      | some c => s.failPacket q p c
      | none => f s k p

/-- What a tree operation gives its packet. -/
def treeResult (s : State) (q : Nat) (k : Queue) (p : Packet) (r : TreeRes) : State :=
  match r with
  | .trap c => s.failPacket q p c
  | .wait s => (s.claim (treeSlot p.bytes) (.packet q p.idx)).markBegun q p none
  | .done s _ => (s.unclaim (treeSlot p.bytes)).treeDone q p (treeSlot p.bytes) k.rel

/-- TREE_OPEN (R142, R374): NPL and RLOG2 come from ARG, and the slot's ASID from the queue. -/
def execTreeOpen (q idx : Nat) (s : State) : Outcome :=
  .next (treePacket s q idx 0 false fun s k p =>
    let a := pw p.bytes 3
    let npl := bits 7 0 a
    let rlog2 := bits 11 8 a
    if bits 63 12 a ≠ 0 ∨ npl = 0 ∨ 254 < npl ∨ rlog2 < 8 ∨ 14 < rlog2 then s.failPacket q p .reservedField
    else treeResult s q k p (s.treeOpen (treeSlot p.bytes) (qctlAsid k) npl rlog2 k.rel))

/-- TREE_FORK (R144, R374): the child is NODE2. -/
def execTreeFork (q idx : Nat) (s : State) : Outcome :=
  .next (treePacket s q idx 1 true fun s k p =>
    treeResult s q k p (s.treeFork (treeSlot p.bytes) (treeNode p.bytes) (treeNode2 p.bytes) k.rel))

/-- TREE_PRUNE (R156, R374). -/
def execTreePrune (q idx : Nat) (s : State) : Outcome :=
  .next (treePacket s q idx 2 true fun s k p => treeResult s q k p (s.treePrune (treeSlot p.bytes) (treeNode p.bytes) k.rel))

/-- TREE_COMMIT (R153, R157, R374). -/
def execTreeCommit (q idx : Nat) (s : State) : Outcome :=
  .next (treePacket s q idx 3 true fun s k p => treeResult s q k p (s.treeCommit (treeSlot p.bytes) (treeNode p.bytes) k.rel))

/-- TREE_RETIRE (R158, R374): it performs once, and ends when the slot has become free again; `item` keeps its generation. -/
def execTreeRetire (q idx : Nat) (s : State) : Outcome :=
  .next (treePacket s q idx 4 false fun s k p =>
    let slot := treeSlot p.bytes
    match p.item with
    | some gen =>
      if (s.slot slot).state = 2 ∧ (s.slot slot).gen.toNat = gen then s else s.treeDone q p slot k.rel
    | none =>
      let s := s.treeRetire slot k.rel
      if (s.slot slot).state = 2 then s.markBegun q p (some (s.slot slot).gen.toNat) else s.treeDone q p slot k.rel)

/-- The image that ARG names is read and checked as DISP checks a packet, with the write timestamp of its line (R162). -/
def State.readImage (s : State) (asid arg : Nat) : State × Except TrapClass (List Byte × Nat) :=
  if arg % 64 ≠ 0 then (s, .error .reservedField)
  else if outside0 arg then (s, .error .badSpace)
  else
    match s.walkFor asid arg .engineRead with
    | (s, .error c) => (s, .error c)
    | (s, .ok pa) =>
      let s := match pa with
        | some a => s.viewTouch (.dev a)
        | none => s
      let b := match pa with
        | some a => s.readPa a 64
        | none => List.replicate 64 0
      if (match pa with
          | some a => s.mem.badLines.contains (lineOf a)
          | none => false) then (s, .error .uncorrectable)
      else
        match s.checkLaunch asid false b with
        | (s, .error c) => (s, .error c)
        | (s, .ok _) => (s, .ok (b, (pa.map (fun a => (s.mem.stamps (lineOf a)).1)).getD 0))

/-- The read of an image, or its checks, wait for a lease on a leaf that they would change (R46). -/
def State.imageWaits (s : State) (asid arg : Nat) : Bool :=
  s.leafWaits asid arg .engineRead ||
    (match (s.walkFor asid arg .engineRead).2 with
     | .ok (some a) => s.checkWaits asid (s.readPa a 64)
     | _ => false)

/-- REGISTER_REBUILD_LAUNCH (R162): it sets or clears the slot's rebuild launch. -/
def execRegisterRebuildLaunch (q idx : Nat) (s : State) : Outcome :=
  .next (treePacket s q idx 5 false fun s k p =>
    let slot := treeSlot p.bytes
    let arg := pw p.bytes 3
    let put := fun (s : State) (rbl : Nat) (img : List Byte) (o : Option Nat) =>
      s.putSlot slot { s.slot slot with rbl := BitVec.ofNat 64 rbl, image := img, regQueue := o, rel := max (s.slot slot).rel k.rel }
    if treeNode2 p.bytes ≠ 0 then s.failPacket q p .reservedField
    else if arg = 0 then (put s 0 [] none).treeDone q p slot k.rel
    else if s.imageWaits (qctlAsid k) arg then s
    else
      match s.readImage (qctlAsid k) arg with
      | (s, .error c) => s.failPacket q p c
      | (s, .ok b) =>
        (put (s.modQueue q (fun k => { k with rel := max k.rel b.2 })) arg b.1 (some q)).treeDone q p slot (max k.rel b.2))

/-! ## Completion -/

/-- The neighbourhoods of a launch. -/
def Launch.total (l : Launch) : Nat := l.gx * l.gy * l.gz

/-- A saved or resident team, a bin, a copy or a collective of the launch is left, or a write of it that a peer has not acknowledged (R65,
R70). -/
def State.launchBusy (s : State) (h : Nat) : Bool :=
  s.teams.any (fun e => e.2.launch == h) || s.sched.saved.any (fun e => e.2.2.any (fun t => t.launch == h))
    || s.cores.any (fun c => c.2.bins.any (fun b => b.launch == h)) || s.sched.savedBins.any (fun b => b.2.launch == h)
    || s.eng.copies.any (fun c => c.packet.isNone && c.launch == h) || s.fab.colls.any (fun c => c.launch == h)
    || s.eng.pend.any (fun p => p.launch == h && p.resend.isSome)

/-- A launch has completed (R65): every neighbourhood has been placed and has ended, or the launch was cancelled. -/
def State.launchOver (s : State) (h : Nat) (l : Launch) : Bool :=
  l.begun && (l.cancelled || (decide (l.total ≤ l.nextNb) && l.returned.isEmpty && l.liveNb.isEmpty)) && !s.launchBusy h

/-- How a launch's packet ends (R69, R72): outcome, class and task. -/
def Launch.ending (l : Launch) : Nat × Nat × BitVec 32 :=
  match l.failed with
  | some (c, t) => (2, c, t)
  | none => if l.cancelled then (3, TrapClass.cancelled.code, 0) else (1, 0, 0)

/-- A launch leaves the dispatcher, and its packet ends (R65, R69). -/
def State.endLaunch (s : State) (h : Nat) (l : Launch) : State :=
  let s := { s with sched := { s.sched with launches := AMap.erase h s.sched.launches } }
  match l.pkt with
  | none => s
  | some i => s.endPacket l.queue i l.ending.1 l.ending.2.1 l.ending.2.2 (max l.acq l.rel)

/-- LAUNCH_COMPLETION (R60, R65). The end of a rebuild launch is KV_REBUILD_END's. -/
def execLaunchCompletion (handle : Nat) (s : State) : Outcome :=
  .next (match s.launch handle with
    | none => s
    | some l => if s.launchOver handle l ∧ l.rebuild.isNone then s.endLaunch handle l else s)

/-! ## Queue resets (R73) -/

/-- An engine operation whose team or packet is of a queue, a lock that nothing owns any more, or a remote write of a team
that has ended, keeps a reset waiting (R73, step 3), as does a signal on a line that is held (R46). -/
def State.resetWaits (s : State) (q : Nat) : Bool :=
  let mine := fun (h : Nat) => ((s.launch h).map (fun l => l.queue == q && l.rebuild.isNone)).getD false
  s.eng.copies.any (fun c => match c.packet with
      | some (u, _) => u == q
      | none => mine c.launch)
    || s.fab.colls.any (fun c => mine c.launch)
    || s.eng.locks.any (fun l => match l.owner with
      | .copy id => (s.copy id).isNone
      | .coll id => (s.coll id).isNone
      | _ => false)
    || s.eng.pend.any (fun p => mine p.launch && p.resend.isSome)
    || (s.queue q).packets.any (fun p => pktCsig p.bytes != 0 && s.viewBlocked (viewOf s.dev (pktCsig p.bytes)))

/-- PACKET_COMPLETION (R69, R70): an ended packet is reported. The write to a leased line waits (R46), and after a ring error the packets
wait as in a reset (R68). -/
def execPacketCompletion (q idx : Nat) (s : State) : Outcome :=
  .next (match (s.queue q).packet (BitVec.ofNat 32 idx) with
    | none => s
    | some p =>
      if (s.viewBlocked (viewOf s.dev (pktCsig p.bytes)) ∧ pktCsig p.bytes ≠ 0) ∨ ((s.queue q).qerr = 1 ∧ s.resetWaits q) then s
      else s.reportPacket q p)

/-- The end of a packet that has begun, at a reset (R72, R73). -/
def State.resetEnding (s : State) (p : Packet) : PktState :=
  match p.st with
  | .begun =>
    match p.item.bind (fun h => s.launch h) with
    | some l => if pktType p.bytes = 1 then .ended l.ending.1 l.ending.2.1 l.ending.2.2 else .ended 3 0 0
    | none => .ended 3 0 0
  | .fetched => .ended 3 0 0
  | x => x

/-- Steps 4 and 5 of a queue reset (R73). -/
def State.finishReset (s : State) (q : Nat) : State :=
  let s := s.modQueue q (fun k => { k with packets := k.packets.map (fun p => { p with st := s.resetEnding p }) })
  let s := (s.queue q).packets.foldl (fun s p => s.reportPacket q p) s
  let s := { s with sched := { s.sched with
    launches := s.sched.launches.filter (fun e => !(e.2.queue == q && e.2.rebuild.isNone)) } }
  s.modQueue q (fun k =>
    { k with packets := [], qwr := k.qrd, fetchIdx := k.qrd, inline_ := none, ldrop := 0, qerr := 0, rstBusy := false,
             rstDone := true, skip := 0 })

/-- Steps 1 and 2 of a queue reset (R73, R160). DONE of an earlier reset stays (log entry 118). -/
def State.startReset (s : State) (q : Nat) : State :=
  ((s.modQueue q (fun k => { k with rstBusy := true })).cancelQueue q).unregisterRebuilds q

/-- QUEUE_RESET (R73): the reset starts, and finishes once nothing keeps it waiting; while BUSY = 1 the event is the progress
of the reset in hand. -/
def execQueueReset (q : Nat) (s : State) : Outcome :=
  onLink s <|
  .next (if 1024 ≤ q then s
    else
      let s := if (s.queue q).rstBusy then s else s.startReset q
      if s.resetWaits q then s else s.finishReset q)

end Sys2Proof.Machine
end

