-- ==== Sys2Proof/Machine/KvEvents.lean ====
section
/-!
DEFINITION. Events of KV space: the pool (R140), copies on write (R150, R151), rebuilds (R160, R161), and the ends of prunes and
retirements (R156, R158).
-/

namespace Sys2Proof.Machine

/-! ## The pool (R140) -/

/-- KVBASE_WRITE (R140): ignored while a slot is open or retiring, and for a value that is not a multiple of 64 KiB. -/
def execKvbaseWrite (v : BitVec 64) (s : State) : Outcome :=
  onLink s <|
  .next (if s.kv.slots.any (fun e => e.2.state != 0) || v.toNat % 0x10000 != 0 then s
    else s.modKv (fun k => { k with kvbase := v }))

/-- A donation is refused (R140): the frame lies past the limit, is a table frame, or belongs to the pool. -/
def donationRefused (s : State) (f : Nat) : Bool :=
  decide (s.dev.limit ≤ f * 0x10000) || s.mem.isTable (f * 0x10000) || (s.kv.count f).getLsbD 19

/-- KV_DONATE (R140, R148): the frame goes on top of its die's free list, and the writes that wait for a frame of that die
replay. -/
def execKvDonate (v : BitVec 64) (s : State) : Outcome :=
  onLink s <|
  let f := bits 23 0 v.toNat
  .next (if donationRefused s f then s.modKv (fun k => { k with err := true })
    else (s.pushFree f).replayHeld (fun h => h == .freeFrame (dieOfPa (f * 0x10000))))

/-- KV_RECLAIM (R140): the frame on top of a die's free list leaves the pool, if there is one. -/
def execKvReclaim (v : BitVec 64) (s : State) : Outcome :=
  onLink s <|
  .next (match s.popFree (bits 0 0 v.toNat) 0 with
    | none => s.modKv (fun k => { k with reclaimed := none })
    | some (s1, f) => s1.modKv (fun k => { k with reclaimed := some f }))

/-- KVFRD_WRITE (R140): the frame whose count word a read returns. -/
def execKvfrdWrite (v : BitVec 64) (s : State) : Outcome :=
  onLink s <|
  .next (s.modKv (fun k => { k with kvfrd := v.extractLsb' 0 24 }))

/-! ## Copies on write (R150, R151) -/

/-- The frame that a copy would take its data from, by the lookup of R148 made again (R151): the node that names it and the
frame, or none when the write no longer needs a copy, or its node has gone, even if its number has been opened again (R156). -/
def State.copySource (s : State) (c : KvCopy) : Option (Nat × Nat) :=
  let k := s.slot c.slot
  if k.state ≠ 1 ∨ (k.node c.node).state ≠ 1 ∨ (k.node c.node).born ≠ c.born then none
  else (lookupUp k c.plane c.block 256 c.node).filter (fun x => x.1 != c.node || decide (1 < s.kv.refc x.2))

/-- A request leaves the page engine: its locks go, and the writes that wait for a copy replay. -/
def State.dropCopy (s : State) (id : Nat) : State :=
  ((s.modKv (fun k => { k with copies := k.copies.filter (fun x => x.id != id) })).releaseLocks
    (fun l => l.owner == LockOwner.kvCopy id)).replayHeld (fun h => h == Hold.kvCopy)

/-- A copy that is no longer needed gives the frame it took back to the pool. -/
def State.abandonCopy (s : State) (c : KvCopy) : State :=
  (match c.dest with
    | none => s
    | some g => s.pushFree g).dropCopy c.id

/-- The locks of a copy from `f` into `g` (R150). -/
def copyLocks (f g : Nat) : List LockRange :=
  [{ write := false, place := .device, lo := f * 0x10000, hi := (f + 1) * 0x10000 },
   { write := true, place := .device, lo := g * 0x10000, hi := (g + 1) * 0x10000 }]

/-- A copy that an earlier request for the same frame, or the limit of 16 for each die, holds back (R151). -/
def State.copyWaits (s : State) (c : KvCopy) (f : Nat) : Bool :=
  (s.kv.copies.takeWhile (fun x => x.id != c.id)).any (fun x => (s.copySource x).any (fun y => y.2 == f))
    || (!s.eng.locks.any (fun l => l.owner == LockOwner.kvCopy c.id) &&
        decide (16 ≤ (s.kv.copies.filter (fun x => x.slot % 2 == c.slot % 2 && s.eng.locks.any (fun l =>
          l.owner == LockOwner.kvCopy x.id))).length))

/-- KV_COPY (R150, R151): the copy takes a frame and registers a read lock on the frame it copies and a write lock on the one it
fills; once it holds both it copies, and ends. It looks its source up again each time: one that is no longer needed, or whose frame
can never be rebuilt, goes, and one whose frame is being rebuilt waits. -/
def execKvCopy (id : Nat) (s : State) : Outcome :=
  .next (match s.kv.copies.find? (fun c => c.id == id) with
    | none => s
    | some c =>
      match s.copySource c with
      | none => s.abandonCopy c
      | some (m, f) =>
        if s.kv.rb f then (if (s.slot c.slot).lost.contains f then s.abandonCopy c else s)
        else if s.copyWaits c f ∨ s.lockPending (.kvCopy id) = true then s
        else
          match c.dest with
          | none =>
            match s.popFree (c.slot % 2) 0x80001#32 with
            | none => s
            | some (s1, g) =>
              (s1.modKv (fun k => { k with
                copies := k.copies.map (fun x => if x.id = id then { x with dest := some g } else x) })).register (.kvCopy id)
                (copyLocks f g)
          | some g =>
            if !(copyLocks f g).all (fun r => s.holdsLock (.kvCopy id) r) then
              (s.releaseLocks (fun l => l.owner == LockOwner.kvCopy id)).register (.kvCopy id) (copyLocks f g)
            else
              match s.copyOnWrite c m f g with
              | none => s
              | some s1 => s1.dropCopy id)

/-! ## Rebuilds (R160, R161) -/

/-- The slot that has a frame in a map, with the plane and block (R160). -/
def State.frameHolder (s : State) (f : Nat) : Option (Nat × Nat × Nat) :=
  s.kv.slots.findSome? (fun e =>
    if e.2.state = 0 then none
    else (e.2.nodes.flatMap (fun n => n.2.map)).findSome? (fun x =>
      if x.frame = f then some (e.1, x.plane, x.block) else none))

/-- A slot whose maps name `g` wherever they named `f` (R160, step 2). -/
def Slot.replaceFrame (k : Slot) (f g : Nat) : Slot :=
  { k with nodes := k.nodes.map (fun n =>
      (n.1, { n.2 with map := n.2.map.map (fun e => if e.frame = f then { e with frame := g } else e) })) }

/-- NODE of a rebuild record: of the nodes whose map names the frame, the one with the smallest START + LEN, the lowest on a
tie (R161). -/
def Slot.rebuildNode (k : Slot) (g : Nat) : Nat :=
  let ns := k.nodes.filter (fun n => n.2.map.any (fun e => e.frame == g))
  (ns.foldl (fun (b : Option (Nat × Nat)) n =>
    let e := n.2.start + n.2.len
    match b with
    | none => some (n.1, e)
    | some (m, x) => if e < x then some (n.1, e) else some (m, x)) none).elim 0 (·.1)

/-- The bytes of a rebuild record (R161). -/
def rebuildRecord (k : Slot) (slot plane block f g : Nat) : List Byte :=
  let tokens := 2 ^ (16 - k.rlog2)
  let n := k.rebuildNode g
  let nd := k.node n
  let first := block * tokens
  let npos := min tokens (nd.start + nd.len - first)
  toBytes 8 k.rebuilds.toNat ++ toBytes 8 (plane + slot * 2 ^ 8 + k.gen.toNat * 2 ^ 32)
    ++ toBytes 8 (n + npos * 2 ^ 18 + first * 2 ^ 36) ++ toBytes 8 (g * 0x10000) ++ toBytes 8 (f * 0x10000)
    ++ toBytes 8 (pw k.image 3) ++ List.replicate 16 0

/-- Where a slot's rebuild record lies (R140). -/
def State.recordAt (s : State) (slot : Nat) : Nat := s.kv.kvbase.toNat + 0x40000 + slot * 64

/-- Steps 1 and 2 of a rebuild (R160), with the drop of every cached translation of the slot (R149): none when the die has no
free frame, or a line of the frame is leased to a peer (R46). -/
def State.replaceLost (s : State) (slot f : Nat) : Option (State × Nat) :=
  ((s.popFree (slot % 2) (0xA0000#32 + BitVec.ofNat 32 (s.kv.refc f))).filter
    (fun r => !s.leasedIn (r.2 * 0x10000) ((r.2 + 1) * 0x10000))).map (fun r =>
    let s1 := ((r.1.zeroFrame r.2 0).noteFill r.2).modKv (fun k => k.setCount f 0)
    ((s1.dropKv slot).putSlot slot ((s1.slot slot).replaceFrame f r.2), r.2))

/-- Step 3 of a rebuild (R160, R161): the record is filled and the launch is injected. A launch that DISP's checks refuse
has failed. None while the dispatcher takes no launch. -/
def State.injectRebuild (s : State) (slot plane block f g q : Nat) : Option State :=
  let k := { s.slot slot with rebuilds := (s.slot slot).rebuilds + 1 }
  let s := (s.putSlot slot k).deviceWrite (s.recordAt slot) (rebuildRecord k slot plane block f g)
  if s.checkWaits (qctlAsid (s.queue q)) k.image then none
  else
  match s.checkLaunch (qctlAsid (s.queue q)) false k.image with
  | (s, .error _) => some (s.failRebuild slot g)
  | (s, .ok d) =>
    let l := newLaunch q (s.queue q) none k.image d 0
    let l : Launch := { l with rt := true, begun := true, rebuild := some slot, args := BitVec.ofNat 64 (s.recordAt slot) }
    (s.addLaunch l).map (fun r => r.1.putSlot slot { r.1.slot slot with rebuilding := some (f, g, r.2) })

/-- KV_REBUILD_START (R160): a read of a frame has returned an uncorrectable error, and accesses to it park from now on. A second
error in the slot, and a frame or a launch that cannot be had yet, wait for another such event. -/
def execKvRebuildStart (frame : Nat) (s : State) : Outcome :=
  .next (match s.frameHolder frame with
    | none => s
    | some (slot, plane, block) =>
      let k := s.slot slot
      if k.rebuilding.any (fun x => x.2.1 == frame) ∨ k.lost.contains frame = true then s
      else
        let marked := s.modKv (fun kv => kv.setCount frame (kv.count frame ||| 0x20000#32))
        if plane = 255 ∨ k.regQueue.isNone then marked.failRebuild slot frame
        else if k.rebuilding.isSome then marked
        else
          ((marked.replaceLost slot frame).bind (fun r =>
            r.1.injectRebuild slot plane block frame r.2 (k.regQueue.getD 0))).getD marked)

/-- KV_REBUILD_END (R160): a rebuild launch has completed. RB clears and what was parked replays, or the rebuild has failed, as one that
was cancelled has. -/
def execKvRebuildEnd (slot : Nat) (s : State) : Outcome :=
  .next (match s.sched.launches.find? (fun e => e.2.rebuild == some slot && s.launchOver e.1 e.2) with
    | none => s
    | some (h, l) =>
        let s := { s with sched := { s.sched with launches := AMap.erase h s.sched.launches } }
        match (s.slot slot).rebuilding with
        | none => s
        | some (_, g, h') =>
          if h' ≠ h then s
          else if l.failed.isSome ∨ l.cancelled then s.failRebuild slot g
          else
            ((s.modKv (fun kv => kv.setCount g (kv.count g &&& ~~~0x20000#32))).putSlot slot
              { s.slot slot with rebuilding := none }).replayHeld (fun x => x == Hold.kvRebuilding))

/-! ## The end of a prune or a retirement -/

/-- PRUNE_RELEASE (R156, R158): the entries of dead nodes, or of a whole retiring slot, go once no lock holds their
frames. -/
def execPruneRelease (slot : Nat) (s : State) : Outcome :=
  .next (if (s.slot slot).state = 2 then s.releaseSlot slot
    else if (s.slot slot).nodes.any (fun e => e.2.state == 2) then s.releaseDead slot else s)

end Sys2Proof.Machine
end

