-- ==== Sys2Proof/Machine/TransEvents.lean ====
section
/-!
DEFINITION. Events of translation: fault records and the driver's answers (R134, R135), shoot-downs (R127 to R130), the start of
a migration (R132), and Scythe (R137).
-/

namespace Sys2Proof.Machine

/-! ## Fault records (R134, R135) -/

/-- The bytes of a fault record (R135). -/
def faultRecord (i : FaultInfo) (fid : BitVec 32) (asid path : Nat) (task : BitVec 32) : List Byte :=
  toBytes 8 i.epa
    ++ toBytes 8 (i.kind * 2 ^ 4 + i.cause * 2 ^ 8 + i.level * 2 ^ 16 + asid * 2 ^ 20 + fid.toNat * 2 ^ 32)
    ++ toBytes 8 (i.lane + path * 2 ^ 13 + task.toNat * 2 ^ 32) ++ toBytes 8 i.va.toNat

/-- Where a fault waits: at a path of a team, resident or saved, in the block that its handler keeps, in a copy, or in a collective. -/
inductive FaultAt where
  | path (team : BitVec 32) (pi : Nat) | block (team : BitVec 32) (pi : Nat) | copy (id : Nat) | coll (id : Nat)
  deriving DecidableEq, Repr

/-- The fault of a parked path. -/
def Path.fault (p : Path) : Option FaultInfo := (p.park.filter (fun k => k.hold == Hold.pageFault)).bind (·.info)

/-- Faults of a path table. -/
def faultsOf (at_ : Nat → FaultAt) (m : AMap Path) : List (FaultAt × FaultInfo) :=
  m.filterMap (fun e => e.2.fault.map (fun i => (at_ e.1, i)))

/-- Every fault that waits. -/
def State.faults (s : State) : List (FaultAt × FaultInfo) :=
  (s.teams.map (·.2) ++ s.savedTeams).flatMap (fun t => faultsOf (.path t.teamId) t.paths
      ++ faultsOf (.block t.teamId) ((t.handler.map (·.saved)).getD []))
    ++ s.eng.copies.filterMap (fun c => c.pause.map (fun i => (FaultAt.copy c.id, i)))
    ++ s.fab.colls.filterMap (fun c => c.pause.map (fun i => (FaultAt.coll c.id, i)))

/-- A path's fault record changed. -/
def Path.setFault (f : FaultInfo → FaultInfo) (p : Path) : Path :=
  { p with park := p.park.map (fun k => { k with info := k.info.map f }) }

/-- A path of the block that a team's handler keeps, changed. -/
def State.modBlock (s : State) (id : BitVec 32) (pi : Nat) (f : Path → Path) : State :=
  s.modById id (fun t => { t with handler := t.handler.map (fun h => { h with saved := AMap.modify pi f h.saved }) })

/-- A fault takes its identifier. -/
def State.numberFault (s : State) (a : FaultAt) (fid : BitVec 32) : State :=
  let f := fun (i : FaultInfo) => { i with fid := some fid }
  match a with
  | .path k pi => s.modById k (fun t => t.modPath pi (Path.setFault f))
  | .block k pi => s.modBlock k pi (Path.setFault f)
  | .copy id => s.modCopy id (fun c => { c with pause := c.pause.map f })
  | .coll id => s.modColl id (fun c => { c with pause := c.pause.map f })

/-- ASID, path index and task of a fault (R135): path 0 for an engine. -/
def State.faultOwner (s : State) (a : FaultAt) : Nat × Nat × BitVec 32 :=
  let taskOf := fun (id : BitVec 32) => match (s.whereIs id).team with
    | some t => t.taskId
    | none => id
  let asidOf := fun (id : BitVec 32) => ((s.whereIs id).team.map (·.asid)).getD 0
  match a with
  | .path k pi => (asidOf k, pi, taskOf k)
  | .block k pi => (asidOf k, pi, taskOf k)
  | .copy id => (((s.copy id).map (·.asid)).getD 0, 0, ((s.copy id).map (fun c => taskOf c.teamId)).getD 0)
  | .coll id => (((s.coll id).map (·.asid)).getD 0, 0, ((s.coll id).map (fun c => taskOf c.teamId)).getD 0)

/-- FAULT_RECORD_POST (R134, R135, R138): the first fault without a record gets one, while EN = 1 and the ring has space, and
the vector is raised. -/
def execFaultRecordPost (s : State) : Outcome :=
  let log := bits 12 8 s.xl.pfctl.toNat
  .next (match s.faults.find? (fun e => e.2.fid.isNone) with
    | none => s
    | some (a, i) =>
      if !s.xl.pfctl.getLsbD 0 || decide (2 ^ log ≤ (s.xl.pfhead - s.xl.pftail).toNat) then s
      else
        let o := s.faultOwner a
        let fid := s.xl.nextFid
        let s := (s.numberFault a fid).ringPut s.xl.pfbase.toNat log 32 s.xl.pfhead.toNat (faultRecord i fid o.1 o.2.1 o.2.2)
        ({ s with xl := { s.xl with pfhead := s.xl.pfhead + 1, nextFid := fid + 1 } }).emit
          (.deviceEvent (bits 21 16 s.xl.pfctl.toNat)))

/-- The fault with an identifier. -/
def State.findFault (s : State) (fid : BitVec 32) : Option (FaultAt × FaultInfo) := s.faults.find? (fun e => e.2.fid == some fid)

/-- PF_REPLAY (R134, R138): the access replays; an unknown identifier is ignored. -/
def execPfReplay (fid : BitVec 32) (s : State) : Outcome :=
  onLink s <|
  .next (match s.findFault fid with
    | none => s
    | some (.path k pi, _) => s.modById k (fun t => t.modPath pi Path.unpark)
    | some (.block k pi, _) => s.modBlock k pi Path.unpark
    | some (.copy id, _) => s.modCopy id (fun c => { c with pause := none })
    | some (.coll id, _) => s.modColl id (fun c => { c with pause := none }))

/-- PAGE_FAULT is taken as the trap of a parked path, of its team wherever that is (R134, R247). -/
def State.failPath (s : State) (id : BitVec 32) (pi : Nat) (i : FaultInfo) (block : Bool) : State :=
  let open_ := fun (t : Team) => if block then { t with paths := (t.handler.map (·.saved)).getD t.paths } else t
  match s.whereIs id with
  | .resident k _ => (s.modTeam k open_).trapError k pi .pageFault i.lane i.va
  | .saved t => s.trapSaved (open_ t) pi .pageFault i.lane i.va
  | .ended => s

/-- PF_FAIL (R134, R138): the instruction takes PAGE_FAULT as a trap, and an engine operation ends with it. -/
def execPfFail (fid : BitVec 32) (s : State) : Outcome :=
  onLink s <|
  .next (match s.findFault fid with
    | none => s
    | some (.path k pi, i) => s.failPath k pi i false
    | some (.block k pi, i) => s.failPath k pi i true
    | some (.copy id, _) => s.modCopy id (fun c => { c with pause := none, failed := some .pageFault })
    | some (.coll id, _) => s.modColl id (fun c => { c with pause := none, broken := some .memberFault }))

/-! ## Shoot-downs (R128, R130) -/

/-- The shoot-downs that the driver asked for, the oldest first (R130). -/
def Xlate.driverShoots (x : Xlate) : List Shoot :=
  x.shoots.filter (fun h => h.issuer.isNone && (x.mig.bind (·.shoot)) != some h.id)

/-- A driver's shoot-down begins, or waits behind the one that runs (R130). -/
def State.queueShoot (s : State) (asid first count : Nat) : State :=
  if s.xl.driverShoots.isEmpty then s.beginShoot asid first count none
  else
    { s with xl := { s.xl with
        nextShoot := s.xl.nextShoot + 1,
        shoots := s.xl.shoots ++ [{ id := s.xl.nextShoot, asid := asid, first := first, count := count, issuer := none,
                                    engines := [], begun := false }] } }

/-- TSREQ_WRITE (R130, R138): it is rejected for a reserved bit, a count out of range, or eight that wait. -/
def execTsreqWrite (v : BitVec 64) (s : State) : Outcome :=
  onLink s <|
  let va := s.xl.tsva.toNat
  .next (if bits 63 17 v.toNat ≠ 0 ∨ 65536 < v.toNat ∨ bits 15 0 va ≠ 0 ∨ 8 ≤ s.xl.driverShoots.length then
      { s with xl := { s.xl with tsErr := true } }
    else s.queueShoot (bits 63 52 va) (bits 51 16 va) v.toNat)

/-- The next of the driver's shoot-downs begins. It keeps its place. -/
def State.nextDriverShoot (s : State) : State :=
  match s.xl.driverShoots.find? (fun h => !h.begun) with
  | none => s
  | some h =>
    let rest := s.xl.shoots.filter (fun x => x.id != h.id)
    let waiting := s.xl.driverShoots.filter (fun x => x.id != h.id)
    let s := { s with xl := { s.xl with shoots := rest.filter (fun x => !waiting.contains x) } }
    let s := s.beginShoot h.asid h.first h.count none
    { s with xl := { s.xl with shoots := s.xl.shoots ++ waiting } }

/-- A shoot-down leaves the path that began it, wherever that path is (R127). -/
def Path.dropShoot (id : Nat) (p : Path) : Path := { p with shoots := p.shoots.filter (fun x => x != id) }

/-- The team with a change to every path it has, in its table and in the block that a handler keeps. -/
def Team.mapPaths (f : Path → Path) (t : Team) : Team :=
  { t with paths := t.paths.map (fun e => (e.1, f e.2)),
           handler := t.handler.map (fun h => { h with saved := h.saved.map (fun e => (e.1, f e.2)) }) }

/-- The state with a change to every path of every team, resident and saved. -/
def State.mapPaths (s : State) (f : Path → Path) : State :=
  { s with
    teams := s.teams.map (fun e => (e.1, e.2.mapPaths f)),
    sched := { s.sched with saved := s.sched.saved.map (fun e => (e.1, e.2.1, e.2.2.map (Team.mapPaths f))) } }

/-- SHOOTDOWN_COMPLETE (R128, R130): step 4 ends once nothing that it waits for is under way. -/
def execShootdownComplete (id : Nat) (s : State) : Outcome :=
  .next (match s.xl.shoots.find? (fun h => h.id == id) with
    | none => s
    | some h =>
      if !h.begun || h.engines.any s.engineBusy || h.peers.any s.holdsPeer then s
      else
        let driver := s.xl.driverShoots.any (fun x => x.id == id)
        let s := { s with xl := { s.xl with shoots := s.xl.shoots.filter (fun x => x.id != id) } }
        if driver then ({ s with xl := { s.xl with tsDone := s.xl.tsDone + 1 } }).nextDriverShoot
        else s.mapPaths (Path.dropShoot id))

/-! ## Migration (R132) -/

/-- The checks of a migration's first step (R132); a reserved bit that is set fails too (log entry 154). -/
def migrationFails (s : State) (v : BitVec 64) : Bool :=
  let pte := s.xl.migpte.toNat
  let leaf := s.readPa64 pte
  let new := bits 23 0 v.toNat
  bits 63 24 v.toNat != 0 || pte % 8 != 0 || decide (s.dev.limit ≤ pte) || !leafV leaf || leafT leaf || leafPs leaf != 0
    || decide (s.dev.limit ≤ leafFrame leaf) || decide (s.dev.limit ≤ new * 0x10000) || s.mem.isTable (new * 0x10000)

/-- MIGREQ_WRITE (R132, R138): the first step checks the leaf, and the second registers the locks on both frames. -/
def execMigreqWrite (v : BitVec 64) (s : State) : Outcome :=
  onLink s <|
  .next (if s.xl.mig.isSome then { s with xl := { s.xl with migErr := 3 } }
    else if migrationFails s v then { s with xl := { s.xl with migErr := 1 } }
    else
      let leaf := s.readPa64 s.xl.migpte.toNat
      let old := leafFrame leaf / 0x10000
      let new := bits 23 0 v.toNat
      let s := s.viewTouch (.dev s.xl.migpte.toNat)
      let s := { s with xl := { s.xl with
        mig := some { newFrame := new, oldFrame := old, leaf := leaf, lock := s.eng.nextLock, shoot := none } } }
      s.registerWait .migration [lineRange true .device (old * 0x10000) 0x10000, lineRange true .device (new * 0x10000) 0x10000])

/-! ## Scythe (R137) -/

/-- A value that leaves SCCTL unchanged (R138). -/
def scctlRefused (v : BitVec 64) : Bool :=
  let log := bits 12 8 v.toNat
  bits 63 48 v.toNat == 0 || decide (log < 6) || decide (20 < log) || decide (2 ^ log - 1 < bits 47 32 v.toNat)

/-- SCCTL_WRITE (R137, R138): reserved bits read zero. -/
def execScctlWrite (v : BitVec 64) (s : State) : Outcome :=
  onLink s <|
  .next (if scctlRefused v then s
    else { s with xl := { s.xl with scctl := v &&& 0xFFFF_FFFF_0000_1F01#64 } })

/-- Number of frames of the service level (R137). -/
def Dev.frameCount (d : Dev) : Nat := d.limit / 0x10000

/-- SCYTHE_SWEEP_STEP (R137): one frame under the clock hand, while EN = 1 and the ready ring is below its mark. -/
def execScytheSweepStep (s : State) : Outcome :=
  let ctl := s.xl.scctl.toNat
  let log := bits 12 8 ctl
  let hand := s.xl.schand
  let b := s.mem.frameByte hand
  let put := fun (s : State) (x : BitVec 8) => { s with mem := { s.mem with frames := Tab.set 0 hand x s.mem.frames } }
  .next (if ctl % 2 = 0 ∨ bits 47 32 ctl ≤ (s.xl.schead - s.xl.sctail).toNat then s
    else
      let s1 :=
        if b.getLsbD 1 && !b.getLsbD 0 && !b.getLsbD 3 then
          (if b.getLsbD 2 then put s (b &&& 0xFB#8)
           else
             let r := (put s (b ||| 8#8)).ringPut s.xl.scbase.toNat log 4 s.xl.schead.toNat (toBytes 4 hand)
             { r with xl := { r.xl with schead := r.xl.schead + 1 } })
        else s
      { s1 with xl := { s1.xl with schand := (hand + 1) % s1.dev.frameCount } })

/-- SCTAIL_WRITE (R137, R138). -/
def execSctailWrite (v : BitVec 32) (s : State) : Outcome :=
  onLink s <| .next { s with xl := { s.xl with sctail := v } }

end Sys2Proof.Machine
end

