-- ==== Sys2Proof/Machine/EngineEvents.lean ====
section
/-!
DEFINITION. Events of Gorse and the engines (R237, R239, R150), with the steps of a migration that its lock starts (R132).
-/

namespace Sys2Proof.Machine

/-! ## What a lock on a frame does to versions (R30, R132) -/

/-- A team whose version holds lines of a frame. -/
def Team.holdsFrame (t : Team) (f : Nat) : Bool := t.version.any (fun e => frameOf e.1 == f)

/-- An early commit of a version of the frame would have to wait for a lease (R46). -/
def State.frameCommitBlocked (s : State) (f : Nat) : Bool :=
  ((s.teams.map (·.2)) ++ s.savedTeams).any (fun t => t.holdsFrame f && (versionLines t.version).any (fun l => s.lineHeld (l * 64)))

/-- Every version that holds lines of a frame is committed early (R30, R132, R244). -/
def State.commitFrame (s : State) (f : Nat) : State :=
  let s := (s.teams.filter (fun e => e.2.holdsFrame f)).foldl (fun s e => s.commitEarly e.1) s
  (s.savedTeams.filter (fun t => t.holdsFrame f)).foldl
    (fun s t => (s.commitSaved t).1.modSaved t.teamId (fun t => { t with ecom := true })) s

/-! ## Migration (R132) -/

/-- A leaf with its FRAME replaced. -/
def withFrame (leaf : BitVec 64) (f : Nat) : BitVec 64 := (leaf &&& 0xFFFF#64) ||| BitVec.ofNat 64 (f * 0x10000)

/-- Step 5 of a migration (R132): the leaf is rewritten, unless V is now 0. -/
def State.migrateLeaf (s : State) (m : Migration) : State :=
  let pte := s.xl.migpte.toNat
  let leaf := s.readPa64 pte
  if leafV leaf then s.writeEntry pte (withFrame leaf m.newFrame)
  else { s.viewTouch (.dev pte) with xl := { s.xl with migErr := 2 } }

/-- Steps 3 to 6 of a migration (R132), once its locks are held; the page engine's own pts has passed the wts of the lines that it has read
(R109), with MIGPTE and MIGVA as they are now (log entry 153). They wait while a version that they commit must, or the write of the
leaf (R46). -/
def State.migrate (s : State) (m : Migration) : State :=
  if s.frameCommitBlocked m.oldFrame || s.lineHeld s.xl.migpte.toNat then s
  else
    let s := s.commitFrame m.oldFrame
    let s := s.copyFrame m.oldFrame m.newFrame (s.frameStamp m.oldFrame)
    let s := s.migrateLeaf m
    let va := s.xl.migva.toNat
    let s := { s with xl := { s.xl with mig := some { m with shoot := some s.xl.nextShoot } } }
    s.beginShoot (bits 63 52 va) (bits 51 16 va) 1 none

/-- Step 7 of a migration (R132), once its shoot-down has completed. -/
def State.migrateEnd (s : State) : State :=
  ({ s with xl := { s.xl with migDone := s.xl.migDone + 1, mig := none } }).releaseLocks
    (fun l => l.owner == LockOwner.migration)

/-- The progress of a migration whose locks are held. -/
def State.migrateOn (s : State) (m : Migration) : State :=
  match m.shoot with
  | none => s.migrate m
  | some id => if s.xl.shoots.any (fun h => h.id == id) then s else s.migrateEnd

/-! ## Gorse -/

/-- RANGE_LOCK_GRANT (R237): the first waiting registration that can be granted is, and its owner moves on. -/
def execRangeLockGrant (s : State) : Outcome :=
  .next (match s.nextGrant with
    | none => s
    | some r =>
      let locks := s.eng.locks.map (fun l => if l.id = r.id then { l with granted := true } else l)
      let s := { s with eng := { s.eng with locks := locks } }
      match r.owner with
      | .coll id => ((s.coll id).map s.collSend).getD s
      | .migration => (s.xl.mig.map s.migrate).getD s
      | .copy _ => s
      | .flip => s
      | .kvCopy _ => s)

/-- The owner of a registration exists no longer. -/
def State.orphan (s : State) (l : LockReg) : Bool :=
  match l.owner with
  | .copy id => (s.copy id).isNone
  | .coll id => (s.coll id).isNone
  | .flip => !s.dev.flips.any (fun f => f.lock == some l.id)
  | .migration => s.xl.mig.isNone
  | .kvCopy id => !s.kv.copies.any (fun c => c.id == id)

/-- RANGE_LOCK_RELEASE (R237, R132): a lock whose owner has ended is released, and a migration that holds its locks goes on to
its end. A lock is otherwise released by the end of the operation that holds it. -/
def execRangeLockRelease (id : Nat) (s : State) : Outcome :=
  .next (match s.eng.locks.find? (fun l => l.id == id) with
    | none => s
    | some l =>
      if s.orphan l then s.releaseLocks (fun x => x.id == id)
      else if l.owner = .migration ∧ l.granted = true then (s.xl.mig.map s.migrateOn).getD s
      else s)

/-! ## Copies -/

/-- COPY_LINE_WRITE (R239): the next line of a copy performs. -/
def execCopyLineWrite (id : Nat) (s : State) : Outcome :=
  .next (match s.copy id with
    | none => s
    | some c => s.copyLine c)

/-- COPY_COMPLETION (R239): every byte of a copy has been written. -/
def execCopyCompletion (id : Nat) (s : State) : Outcome :=
  .next (match s.copy id with
    | none => s
    | some c => if c.failed.isNone ∧ c.pause.isNone ∧ c.moved = c.total then s.endCopy c 1 0 0 else s)

/-- COPY_FAILURE (R239): a copy that an error has stopped ends. -/
def execCopyFailure (id : Nat) (s : State) : Outcome :=
  .next (match s.copy id with
    | none => s
    | some c =>
      match c.failed with
      | none => s
      | some k => s.endCopy c 2 k.code 1)

end Sys2Proof.Machine
end

