-- ==== Sys2Proof/Machine/Sync.lean ====
section
/-!
DEFINITION. The synchronisation group of the lane instructions (R346 to R353): barrier objects, the kick of engines, lane
barriers and fences, and the events that end their waits.
-/

namespace Sys2Proof.Machine

/-! ## Fields and objects (R346) -/

/-- ORD and SCP of a synchronisation instruction. -/
def syncOrd (f : LaneFields) : Nat := (field f.md 2 2).toNat
def syncScope (f : LaneFields) : Nat := (field f.md 0 2).toNat

/-- The fields of the group are refused: `ords` are the orders allowed, and an instruction without an object uses neither
SS nor IMM. -/
def syncRefused (f : LaneFields) (ords : List Nat) (object : Bool) : Bool :=
  field f.md 4 2 != 0 || !ords.contains (syncOrd f) || f.bsel != 0 || f.vd != 0 || f.va != 0 || f.vb != 0 || f.vc != 0
    || (!object && (f.ss != 0 || f.imm != 0))

/-- The specification of a synchronisation instruction. -/
def syncSpec (f : LaneFields) (ords : List Nat) (object : Bool) (more : Bool := false) : LaneSpec :=
  { LaneSpec.plain with reserved := syncRefused f ords object || more }

/-- The address of the object: IMM is an offset for BWAIT, CPK and COLL. -/
def LaneCtx.object (x : LaneCtx) (off : Bool) : Word64 :=
  x.c.scalar x.f.ss + (if off then x.f.imm.signExtend 64 else 0)

/-- The access of an instruction to its object. -/
def LaneCtx.objectAcc (x : LaneCtx) (kind : AccKind) (off : Bool) (size : Nat) : Acc :=
  { kind := kind, addr := x.object off, size := size, ord := syncOrd x.f, scope := syncScope x.f, strong := true, hint := 0,
    lane := some x.firstLane, uniform := true, tableOk := false }

/-- An instruction that runs once for the path: nothing when no lane is active; then the object's space, its window and its
alignment, and what it does with the team that holds the object (R346). -/
def syncOnce (s : State) (x : LaneCtx) (a : Acc) (f : State → Nat → State) : State :=
  if x.lanes.isEmpty then laneDone s x.w
  else if spaceOf a.addr ≠ 6 then trapLane s x.w .badSpace x.firstLane a.addr
  else
    match firstChecks s x.w a with
    | some c => trapLane s x.w c x.firstLane a.addr
    | none => f s (bits 27 22 a.addr.toNat)

/-- The identifier of the team that a window index of the path names. -/
def Who.windowId (s : State) (w : Who) (i : Nat) : Option (BitVec 32) := s.windowTeam w.team.window w.team.teamId i

/-- Earlier accesses of the path that must have performed before a release, and a lease that its commit waits for. -/
def releaseWaits (s : State) (w : Who) (scope : Nat) : Bool :=
  !(s.inFlight w true).isEmpty || (decide (1 ≤ scope) && s.commitBlocked w.key)

/-! ## Barrier objects (R347, R348) -/

/-- BINIT (R347): CNT and ERRC in one store, after the accesses in flight that a strong store follows (R171, R172). -/
def execBinit (f : LaneFields) (s : State) : Outcome :=
  laneOp s f (fun _ => syncSpec f [0, 2] true) fun s x =>
    let a := x.objectAcc .store false 16
    syncOnce s x a fun s i =>
      if s.orderWait x.w a .gone || (releases (syncOrd f) && releaseWaits s x.w (syncScope f)) then s
      else
        let s := if releases (syncOrd f) then s.release x.w (syncScope f) else s
        let hits := watchMatch s x.w [a]
        let pts := ((s.path x.w.key x.w.pi).map (·.pts)).getD 0
        let s := match x.w.windowId s i with
          | some id => s.poolWrite id (bits 21 0 a.addr.toNat) (toBytes 8 (f.imm.signExtend 64).toNat ++ List.replicate 8 0) pts
          | none => s
        watchStop (laneDone s x.w) x.w hits true

/-- BADD (R347): a strong atomic on CNT. -/
def execBadd (f : LaneFields) (s : State) : Outcome :=
  laneOp s f (fun _ => syncSpec f [0, 1, 2, 3] true) fun s x =>
    let a := x.objectAcc .atomic false 16
    syncOnce s x a fun s i =>
      if s.orderWait x.w a .gone || (releases (syncOrd f) && releaseWaits s x.w (syncScope f)) then s
      else
        let s := if releases (syncOrd f) then s.release x.w (syncScope f) else s
        let hits := watchMatch s x.w [{ a with size := 8 }]
        let off := bits 21 0 a.addr.toNat
        let s := match x.w.windowId s i with
          | some id =>
            let T := (((s.whereIs id).team.map (fun t => t.scrT off 16))).getD 0
            let s := if acquires (syncOrd f) then s.acquireT x.w.key x.w.pi T else s
            let pts := ((s.path x.w.key x.w.pi).map (·.pts)).getD 0
            let cnt := BitVec.ofNat 64 (ofBytes (s.poolRead id off 8)) + f.imm.signExtend 64
            s.poolWrite id off (toBytes 8 cnt.toNat) pts
          | none => s
        watchStop (laneDone s x.w) x.w hits true

/-- CNT of a barrier object is at most zero (R348). -/
def cntDone (b : List Byte) : Bool := decide (toSigned 64 (ofBytes (b.take 8)) ≤ 0)

/-- A clause of a path has one more operation outstanding. -/
def Path.clauseMore (p : Path) (id : Nat) : Path :=
  let f := fun (c : Clause) => if c.id = id then { c with pend := c.pend + 1 } else c
  { p with run := p.run.map f, done := p.done.map f }

/-- A BWAIT reads CNT: it finishes as an acquire when CNT is at most zero, and otherwise goes on waiting (R348, R426). -/
def State.bwaitRead (s : State) (key pi : Nat) (b : PendingBwait) : State :=
  let T := ((s.whereIs b.team).team.map (fun t => t.scrT b.off 16)).getD 0
  if cntDone (s.poolRead b.team b.off 16) then
    s.tick.modTeam key (fun t => t.landPath pi (fun p =>
      { p.clauseDone b.clause 1 with bwaits := p.bwaits.erase b, pts := max p.pts T }))
  else s.tick

/-- BWAIT (R348): it is outstanding until CNT is at most zero. An object of a team that has ended holds what nothing
states. -/
def execBwait (f : LaneFields) (s : State) : Outcome :=
  laneOp s f (fun _ => syncSpec f [1] true) fun s x =>
    let a := x.objectAcc .load true 16
    syncOnce s x a fun s i =>
      if s.orderWait x.w a .gone then s
      else
      let hits := watchMatch s x.w [{ a with size := 8 }]
      let b : PendingBwait := { clause := x.c.id, team := (x.w.windowId s i).getD 0, off := bits 21 0 a.addr.toNat,
                                scope := syncScope f }
      let s := s.onPath x.w (fun p => { p.clauseMore x.c.id with bwaits := p.bwaits ++ [b] })
      watchStop ((laneDone s x.w).bwaitRead x.w.key x.w.pi b) x.w hits true

/-- The BWAITs that a path waits in, with those of its entry in the block that a handler keeps (R248, R348). -/
def Team.bwaits (t : Team) (pi : Nat) : List PendingBwait :=
  ((AMap.find t.paths pi).toList ++ (t.handler.bind (fun h => AMap.find h.saved pi)).toList).flatMap (·.bwaits)

/-- BWAIT_REREAD (R348): every BWAIT that the path waits in reads its object again, while a handler runs too. -/
def execBwaitReread (core slot path : Nat) (s : State) : Outcome :=
  let key := teamKey core slot
  match s.team key with
  | none => .next s
  | some t => .next ((t.bwaits path).foldl (fun s b => s.bwaitRead key path b) s)

/-! ## Kicks (R349, R350) -/

/-- The record of a kick: in the issuing team's own scratchpad (R349). A kick that the device `refuses`, or a record of another
team's window, traps BAD_SPACE before the alignment is looked at (R246). -/
def ownRecord (s : State) (x : LaneCtx) (refuses : Bool) (f : State → List Byte → Nat → State) : State :=
  let a := x.objectAcc .load true 64
  if !x.lanes.isEmpty && (refuses || (!x.w.team.binTeam && bits 27 22 a.addr.toNat != x.w.team.tidx)) then
    trapLane s x.w .badSpace x.firstLane a.addr
  else syncOnce s x a fun s _ => f s (x.w.team.scr (bits 21 0 a.addr.toNat) 64) (bits 21 0 a.addr.toNat)

/-- The clause stops for a slot of an engine, as a parked one does (R349, step 1). -/
def waitSlot (s : State) (x : LaneCtx) (h : Hold) : State := heldAt s x.w h (maskOf x.lanes) true none 0

/-- CPK (R349): slot, kick, release and locks. It waits for the path's earlier accesses, which the engine follows. -/
def execCpk (f : LaneFields) (s : State) : Outcome :=
  laneOp s f (fun _ => syncSpec f [0] true (syncScope f != 0)) fun s x =>
    ownRecord s x false fun s b off =>
      let w := x.w
      let c := Copy.ofRecord w.team w.key w.pi x.c.id x.c.fmt off b
      if 16 ≤ s.recordsOf (keyCore w.key) then waitSlot s x .engineSlot
      else if !(s.inFlight w true).isEmpty then s
      else
        match c.trap b w.team.k with
        | some k => trapLane s w k x.firstLane (x.object true)
        | none =>
          if 1 ≤ c.scope ∧ s.commitBlocked w.key then s
          else
            let s := s.release w c.scope
            let pts := ((s.path w.key w.pi).map (·.pts)).getD 0
            let s := s.modTeam w.key (fun t => t.scrPut (off + 30) [0, 0] pts)
            let id := s.eng.nextId
            let s := s.enterCopy { c with pts := pts }
            let op : MatOp := { tile := wf c.src 3 0, path := w.pi, clause := x.c.id, fmt := x.c.fmt, kind := .drain id }
            laneDone (if 6 ≤ c.mode then s.modTeam w.key (fun t => { t with seq := t.seq ++ [op] }) else s) w

/-- COLL (R50, R181, R350). In reduced service it traps BAD_SPACE (R15). -/
def execColl (f : LaneFields) (s : State) : Outcome :=
  laneOp s f (fun _ => syncSpec f [0] true (syncScope f != 0)) fun s x =>
    ownRecord s x (s.dev.svc == 1) fun s b off =>
      let w := x.w
      if 4 ≤ s.collsOf (keyCore w.key) then waitSlot s x .engineSlot
      else if !(s.inFlight w true).isEmpty then s
      else
        match collTrap s b w.team.window with
        | some k => trapLane s w k x.firstLane (x.object true)
        | none =>
          let c := Coll.ofRecord s w.team w.key w.pi off b
          if 1 ≤ c.scope ∧ s.commitBlocked w.key then s
          else
            let s := s.release w c.scope
            let pts := ((s.path w.key w.pi).map (·.pts)).getD 0
            let s := s.modTeam w.key (fun t => t.scrPut (off + 40) (List.replicate 8 0) pts)
            laneDone ((s.touchMembers (groupWord s (wf (recWord b 0) 39 32))).enterColl { c with pts := pts }) w

/-! ## Lane barriers (R351, R352) -/

/-- The lanes of a team that a barrier counts: those of no ended path and not ejected (R351). -/
def Team.counted (t : Team) : List Nat :=
  let out := t.endedLanes ||| t.paths.foldl (fun m p => m ||| p.2.ejm) 0
    ||| ((t.handler.map (·.saved)).getD []).foldl (fun m p => m ||| p.2.ejm) 0
  (List.range t.k.lanes).filter (fun l => !out.getLsbD l)

/-- Arrivals of the lanes of the captured mask, and the generation that the last of them waits for (R351). -/
def Team.arrive (t : Team) (nb : Bool) (lanes : List Nat) (path clause scope pts : Nat) : Team :=
  let up := fun (m : Tab Nat) => lanes.foldl (fun m l => Tab.set 0 l (Tab.get 0 m l + 1) m) m
  let m := up (if nb then t.nbar else t.vbar)
  let g := lanes.foldl (fun g l => max g (Tab.get 0 m l)) 0
  let t := if nb then { t with nbar := m } else { t with vbar := m }
  let at_ := fun (l : Nat) => 2 * Tab.get 0 m l + (if nb then 1 else 0)
  { t with
    barWait := t.barWait ++ [(path, clause, g, nb, scope)],
    barT := lanes.foldl (fun b l => Tab.set 0 (at_ l) (max (Tab.get 0 b (at_ l)) pts) b) t.barT }

/-- A barrier instruction (R351, R352): its release, and then every lane of the captured mask arrives. -/
def laneBarrier (s : State) (x : LaneCtx) (nb : Bool) : State :=
  let w := x.w
  let lanes := lanesOf x.c.mask w.team.k.lanes
  if lanes.isEmpty then laneDone s w
  else if releaseWaits s w (syncScope x.f) then s
  else
    let s := s.release w (syncScope x.f)
    let pts := ((s.path w.key w.pi).map (·.pts)).getD 0
    laneDone ((s.onPath w (fun p => p.clauseMore x.c.id)).modTeam w.key (fun t =>
      t.arrive nb lanes w.pi x.c.id (syncScope x.f) pts)) w

/-- VBAR (R351): it must be unguarded. -/
def execVbar (f : LaneFields) (s : State) : Outcome :=
  laneOp s f (fun _ => syncSpec f [3] false (f.gp != 0)) fun s x => laneBarrier s x false

/-- VNBAR (R352): its scope is nb or wider. -/
def execVnbar (f : LaneFields) (s : State) : Outcome :=
  laneOp s f (fun _ => syncSpec f [3] false (syncScope f == 0)) fun s x => laneBarrier s x true

/-- A team has arrived at a generation: each of its counted lanes has (R351, R352). -/
def Team.arrived (t : Team) (nb : Bool) (g : Nat) : Bool :=
  t.counted.all (fun l => decide (g ≤ Tab.get 0 (if nb then t.nbar else t.vbar) l))

/-- A generation completes for a team: the lanes that wait for it go on, as an acquire (R351, R426). -/
def Team.generation (t : Team) (nb : Bool) (g T : Nat) : Team :=
  let ends := fun (w : Nat × Nat × Nat × Bool × Nat) => w.2.2.2.1 == nb && decide (w.2.2.1 ≤ g)
  let t := (t.barWait.filter ends).foldl (fun t w =>
    t.landPath w.1 (fun p => { p.clauseDone w.2.1 1 with pts := max p.pts T })) t
  let t := { t with barWait := t.barWait.filter (fun w => !ends w) }
  if nb then { t with nbarGen := g } else { t with vbarGen := g }

/-- The resident teams that a barrier of a team joins: itself, or its neighbourhood (R352). -/
def State.barrierTeams (s : State) (key : Nat) (t : Team) (nb : Bool) : List (Nat × Team) :=
  if nb && !t.binTeam then s.teams.filter (fun e => e.2.launch == t.launch && e.2.nbh == t.nbh && !e.2.binTeam)
  else [(key, t)]

/-- BARRIER_GENERATION_COMPLETE (R351, R352): the next generation of a team, or of its neighbourhood, completes when every
counted lane has arrived and some lane waits in it; a neighbourhood's does not while a team of it is saved. -/
def execBarrierGenerationComplete (core slot : Nat) (nb : Bool) (s : State) : Outcome :=
  let key := teamKey core slot
  match s.team key with
  | none => .next s
  | some t =>
    let g := (if nb then t.nbarGen else t.vbarGen) + 1
    let ts := s.barrierTeams key t nb
    let away := nb && !t.binTeam && s.sched.saved.any (fun e => e.1 == t.launch && e.2.1 == t.nbh && !e.2.2.isEmpty)
    if !away && ts.all (fun e => e.2.arrived nb g) && ts.any (fun e => e.2.barWait.any (fun w => w.2.2.2.1 == nb && decide (g ≤ w.2.2.1)))
    then
      let T := ts.foldl (fun m e => max m (Tab.get 0 e.2.barT (2 * g + (if nb then 1 else 0)))) 0
      .next (ts.foldl (fun s e => s.modTeam e.1 (fun t => t.generation nb g T)) s)
    else .next s

/-! ## VFENCE (R353) -/

/-- VFENCE (R353): a release waits for the lanes' earlier accesses and commits once at nb scope or wider; an acquire holds
the lanes' later accesses, which come after it. -/
def execVfence (f : LaneFields) (s : State) : Outcome :=
  laneOp s f (fun _ => syncSpec f [1, 2, 3] false) fun s x =>
    if x.lanes.isEmpty then laneDone s x.w
    else if releases (syncOrd f) && releaseWaits s x.w (syncScope f) then s
    else if !(s.inFlight x.w true).isEmpty then s
    else laneDone (if releases (syncOrd f) then s.release x.w (syncScope f) else s) x.w

end Sys2Proof.Machine
end

