-- ==== Sys2Proof/Machine/HostLink.lean ====
section
/-!
DEFINITION. Events of the host link: the memory window and the host's accesses (R20, R24, R30), snoops and fills (R31, R32), bias
flips (R29, R30), host measurements (R35), and SPDM (R33, R36).
-/

namespace Sys2Proof.Machine

/-! ## The host's accesses to device memory (R20, R24, R28, R30) -/

/-- WINBASE_WRITE (R24): a value that is not a multiple of the window size is ignored, and with a window of 1 TiB WINBASE stays
zero. -/
def execWinbaseWrite (v : BitVec 64) (s : State) : Outcome :=
  onLink s <|
  .next (if v.toNat % 2 ^ s.dev.winLog2 = 0 ∧ (s.dev.winLog2 < 40 ∨ v = 0) then { s with dev := { s.dev with winbase := v } } else s)

/-- The physical address of a host access. -/
def hostPa (d : Dev) (a : HostAccess) : Nat := if a.viaWindow then d.winbase.toNat + a.addr else a.addr

/-- Number of bytes of a host access. -/
def hostSize (a : HostAccess) : Nat := (a.data.map List.length).getD a.len

/-- The access completes with Unsupported Request (R11, R24): in D3hot and D3cold, past the window, or past the memory of the service
level. -/
def hostUnsupported (d : Dev) (a : HostAccess) : Bool :=
  d.svc == 0 || d.dark || (a.viaWindow && decide (2 ^ d.winLog2 < a.addr + hostSize a)) || decide (d.limit < hostPa d a + hostSize a)
    || (!a.viaWindow && !d.cxl)

/-- A bias flip holds its lock on bytes of a range (R30). -/
def State.flipLocked (s : State) (lo hi : Nat) : Bool :=
  s.eng.locks.any (fun l => l.granted && l.owner == LockOwner.flip && l.ranges.any (fun r =>
    decide (r.lo < hi) && decide (lo < r.hi)))

/-- A host read: committed bytes, or what nothing states for a line that DRAM has lost. -/
def State.hostGet (s : State) (pa n : Nat) : List Byte :=
  if s.mem.badLines.any (fun l => decide (lineOf pa ≤ l) && decide (l * 64 < pa + n)) then
    (List.range n).map (fun i => Config.freeByte s.fresh i)
  else s.readPa pa n

/-- Every frame of a range has been accessed (R136). -/
def State.touchRange (s : State) (pa n : Nat) : State :=
  let m := (List.range ((pa + n - 1) / 0x10000 + 1 - pa / 0x10000)).foldl
    (fun (m : Memory) i => m.touch ((pa / 0x10000 + i) * 0x10000)) s.mem
  { s with mem := m }

/-- The payload of a KIND 3 record: address, length, SM3 digest and contents (R258). -/
def hostRecord (pa : Nat) (bs : List Byte) : List Byte :=
  toBytes 8 pa ++ toBytes 8 bs.length ++ toBytes 32 (Config.sm3 bs).toNat ++ bs

/-- Lines of a write that stay dirty in a host cache: those of frames in host bias (R28). -/
def State.noteCached (s : State) (a : HostAccess) (pa n : Nat) : State :=
  if a.cached then
    let ls := ((List.range ((pa + n - 1) / 64 + 1 - pa / 64)).map (fun i => pa / 64 + i)).filter (fun l => s.mem.hostBias (l * 64))
    { s with mem := { s.mem with hostHeld := s.mem.hostHeld ++ ls.filter (fun l => !s.mem.hostHeld.contains l) } }
  else s

/-- A host access performs at the home slice on committed data (R20, R24, R258). -/
def State.performHost (s : State) (a : HostAccess) : State :=
  let pa := hostPa s.dev a
  match a.data with
  | none => (s.tick.touchRange pa (hostSize a)).emit (.readData (s.hostGet pa (hostSize a)))
  | some bs =>
    (((pieces (bs.length + 1) pa bs).foldl State.hostPut s).noteCached a pa bs.length).journal 3 (hostRecord pa bs)

/-- An access waits at its home slices: a flip has its frame (R30), or a journal that records it is full (R258), or an access to the
same bytes waits in front of it. -/
def State.hostWaits (s : State) (ahead : List HostAccess) (a : HostAccess) : Bool :=
  let pa := hostPa s.dev a
  s.flipLocked pa (pa + hostSize a) ||
    (match a.data with
      | some bs => s.journalFull (48 + bs.length)
      | none => false) ||
    ahead.any (fun b => decide (hostPa s.dev b < pa + hostSize a) && decide (pa < hostPa s.dev b + hostSize b))

/-- A host access performs, or waits behind those that wait. -/
def State.admitHost (s : State) (a : HostAccess) : State :=
  if s.hostWaits s.dev.heldHost a then { s with dev := { s.dev with heldHost := s.dev.heldHost ++ [a] } } else s.performHost a

/-- HOST_MEMORY_ACCESS (R20, R24, R30, R258): it performs, or is held at the home slices while a flip has its frame or a journal is
full. -/
def execHostMemoryAccess (a : HostAccess) (s : State) : Outcome :=
  .next (if hostSize a = 0 ∨ s.dev.bstep = 0 then s
    else if hostUnsupported s.dev a then s.emit .unsupportedRequest
    else s.admitHost a)

/-- The accesses that waited perform, in their order, but for those that still wait (R30, R258). -/
def State.performHeld (s : State) : State :=
  s.dev.heldHost.foldl State.admitHost { s with dev := { s.dev with heldHost := [] } }

/-! ## Snoops and fills (R31, R32) -/

/-- A line of host memory in the L2. -/
def State.hostLine (s : State) (line : Nat) : HostLine := (AMap.find s.mem.hostLines line).getD HostLine.blank

/-- The state with a line of host memory replaced. -/
def State.setHostLine (s : State) (line : Nat) (h : HostLine) : State :=
  { s with mem := { s.mem with hostLines :=
      if h = HostLine.blank then AMap.erase line s.mem.hostLines else AMap.insert line h s.mem.hostLines } }

/-- A line of host memory leaves the L2. -/
def State.dropHost (s : State) (line : Nat) : State :=
  let s := s.setHostLine line { s.hostLine line with data := none }
  { s with mem := { s.mem with l2 := AMap.erase (l2Key 4 line) s.mem.l2 } }

/-- A snoop of a line: the answers for a present line and what it becomes; each outstanding fill is marked no-install, and will bring
the line as it is now (R31, R32). -/
def State.snoop (s : State) (line : Nat) (answer : String) (keep : Bool) : State :=
  let h := s.hostLine line
  if !h.fills.isEmpty then
    (s.setHostLine line { h with fills := h.fills.map (fun f =>
      { f with old := some (f.old.getD (s.readHost (line * 64) 64)) }) }).emit (.snoop "RspIHitI" line)
  else if (s.hostPresent line).isSome then (if keep then s else s.dropHost line).emit (.snoop answer line)
  else s.emit (.snoop "RspIHitI" line)

/-- SNP_DATA (R31). -/
def execSnpData (line : Nat) (s : State) : Outcome := .next (s.snoop line "RspSHitSE" true)

/-- SNP_CUR (R31). -/
def execSnpCur (line : Nat) (s : State) : Outcome := .next (s.snoop line "RspVHitV" true)

/-- SNP_INV (R31, R32): a host agent is about to write the line, and nothing states what. -/
def execSnpInv (line : Nat) (s : State) : Outcome :=
  let s1 := s.snoop line "RspIHitSE" false
  let bs := (List.range 64).map (fun i => Config.freeByte s1.fresh i)
  .next { s1.tick with mem := { s1.mem with host := Tab.setList 0 (line * 64) bs s1.mem.host } }

/-- A fill that is not marked installs its line, where its partition and class let the L2 take it (R31, R112, R114). -/
def State.installHost (s : State) (line : Nat) (f : HostFill) (d : List Byte) : State :=
  let s := if f.rc = 3 then s else s.l2Alloc
    { key := l2Key 4 line, part := f.part, rc := f.rc, asid := f.asid, vline := f.vline, stream := false, dirty := false, glob := f.glob }
  if (AMap.find s.mem.l2 (l2Key 4 line)).isSome then s.setHostLine line { s.hostLine line with data := some d } else s

/-- HOST_FILL_RETURN (R32): the oldest fill of the line returns. The loads that wait on it get the line, which is installed unless the
fill is marked; loads that came after the snoop wait on a fill of their own. -/
def execHostFillReturn (line : Nat) (s : State) : Outcome :=
  .next (let h := s.hostLine line
    match h.fills with
    | [] => s
    | f :: fs =>
      let d := f.old.getD (s.readHost (line * 64) 64)
      let s1 := s.setHostLine line { h with fills := fs }
      let s2 := if f.old.isSome then s1 else s1.installHost line f d
      f.waiters.foldl (fun s p => s.landAccess p ((d.drop (p.addr % 64)).take p.size)) s2)

/-! ## Bias flips (R29, R30) -/

/-- The flip at the head of the list goes to its next frame that is not in the target bias, and registers a lock on it; a
request with no such frame has ended. The first argument bounds the number of requests. -/
def State.nextFlip : Nat → State → State
  | 0, s => s
  | n + 1, s =>
    match s.dev.flips with
    | [] => s
    | f :: fs =>
      match (List.range f.left).find? (fun i => Tab.get false s.mem.bias (f.frame + i) != f.toHost) with
      | none => State.nextFlip n { s with dev := { s.dev with flips := fs, bfDone := s.dev.bfDone + 1 } }
      | some i =>
        let g : BiasFlip := { f with frame := f.frame + i, left := f.left - i, lock := some s.eng.nextLock }
        ({ s with dev := { s.dev with flips := g :: fs } }).register .flip
          [{ write := true, place := .device, lo := g.frame * 0x10000, hi := (g.frame + 1) * 0x10000 }]

/-- A request of BFREQ is out of range or sets a reserved bit (R29). -/
def flipBad (d : Dev) (v : Nat) : Bool :=
  let last := bits 23 0 v + bits 35 24 v + 1
  bits 62 36 v != 0 || decide (0x900000 < last) || (d.svc == 1 && decide (0x180000 < last))

/-- BIAS_FLIP_REQUEST (R29). A request that is bad and finds the queue full too gives code 1 (log entry 114). -/
def execBiasFlipRequest (v : BitVec 64) (s : State) : Outcome :=
  onLink s <|
  .next (if flipBad s.dev v.toNat then { s with dev := { s.dev with bfErr := 1 } }
    else if 16 ≤ s.dev.flips.length then { s with dev := { s.dev with bfErr := 2 } }
    else
      let f : BiasFlip := { toHost := v.getLsbD 63, frame := bits 23 0 v.toNat, left := bits 35 24 v.toNat + 1, lock := none }
      let s1 := { s with dev := { s.dev with flips := s.dev.flips ++ [f] } }
      if s.dev.flips.isEmpty then State.nextFlip 16 s1 else s1)

/-- Step 3 of a flip (R30): to host bias the lines leave the L2 and every L1; to device bias the device asks for each line of
the frame, so that what a host cache holds comes back and no host copy is left. -/
def State.flipLines (s : State) (f : Nat) (toHost : Bool) : State :=
  if toHost then
    { s with
      mem := { s.mem with l2 := s.mem.l2.filter (fun e => decide (2 ^ 54 ≤ e.1) || e.1 / 1024 != f) },
      cores := s.cores.map (fun c => (c.1, { c.2 with l1 := c.2.l1.filter (fun l => l.pline / 1024 != f) })) }
  else
    (List.range 1024).foldl (fun s i => s.emit (.rdOwn (f * 1024 + i)))
      { s with mem := { s.mem with hostHeld := s.mem.hostHeld.filter (fun l => l / 1024 != f) } }

/-- BIAS_FLIP_FRAME (R30): steps 2 to 5 of the frame whose lock has been granted. It waits while a version that it commits must
(R46). -/
def execBiasFlipFrame (s : State) : Outcome :=
  .next (match s.dev.flips with
    | [] => s
    | f :: fs =>
      if !s.eng.locks.any (fun l => some l.id == f.lock && l.granted) || s.frameCommitBlocked f.frame then s
      else
        let s := (s.commitFrame f.frame).flipLines f.frame f.toHost
        let s := { s with mem := { s.mem with bias := Tab.set false f.frame f.toHost s.mem.bias } }
        let s := (s.releaseLocks (fun l => some l.id == f.lock)).performHeld
        let g : BiasFlip := { f with frame := f.frame + 1, left := f.left - 1, lock := none }
        State.nextFlip 16 { s with dev := { s.dev with flips := g :: fs } })

/-! ## Measurements (R34, R35) -/

/-- A measurement register is extended and a record appended, unless the log is full (R34). -/
def Dev.extend (d : Dev) (reg kind ver : Nat) (digest : BitVec 256) : Option Dev :=
  if 4096 ≤ d.log.length then none
  else
    let m := Config.sm3 (toBytes 32 (Tab.get 0 d.meas reg).toNat ++ toBytes 32 digest.toNat)
    some { d with meas := Tab.set 0 reg m d.meas,
                  log := d.log ++ [{ seq := d.log.length, reg := reg, kind := kind, ver := ver, digest := digest }] }

/-- Staging word `n` of MEXT, at offset 0x300 + 8n (R35). -/
def Dev.stage (d : Dev) (n : Nat) : BitVec 64 := Tab.get 0 d.mextStage n

/-- MEXT (R35): IGN for a register or a reserved bit that is refused, FULL for a full log. A write that is taken leaves both as they
are (log entry 115). -/
def execMext (v : BitVec 64) (s : State) : Outcome :=
  onLink s <|
  let d := s.dev
  let reg := bits 2 0 v.toNat
  .next (if (1 ≤ reg ∧ reg ≤ 4) ∨ bits 63 3 v.toNat ≠ 0 ∨ bits 63 16 (d.stage 2).toNat ≠ 0 ∨ d.stage 3 ≠ 0 then
      { s with dev := { d with mextIgn := true } }
    else
      let digest := d.stage 7 ++ d.stage 6 ++ d.stage 5 ++ d.stage 4
      match d.extend (if reg = 0 then 8 else reg) 4 ((d.stage 1).toNat + (d.stage 2).toNat * 2 ^ 64) digest with
      | none => { s with dev := { d with mextFull := true } }
      | some d => { s with dev := d })

/-! ## SPDM (R33, R36) -/

/-- A request and its response enter the transcript, and the response is sent. -/
def State.spdmReply (s : State) (request : List Byte) (kind : String) (response : List Byte) : State :=
  ({ s with dev := { s.dev with transcript := s.dev.transcript ++ [request, response] } }).emit (.spdm kind response)

/-- A response signed with the identity key over the transcript, the request and the response (R36). -/
def State.spdmSigned (s : State) (request : List Byte) (kind : String) (response : List Byte) : State :=
  let digest := Config.sm3 (s.dev.transcript.flatten ++ request ++ response)
  s.spdmReply request kind (response ++ Config.sm2Sign digest)

/-- An ERROR response, which leaves the transcript as it was. -/
def State.spdmError (s : State) (code : String) : State := s.emit (.spdm ("ERROR " ++ code) [])

/-- GET_VERSION (R36): a new exchange begins. -/
def execGetVersion (s : State) : Outcome :=
  onLink s <|
  .next (({ s with dev := { s.dev with transcript := [], spdmAgreed := false } }).spdmReply (Config.spdmBody 0 []) "VERSION"
    (Config.spdmBody 1 []))

/-- GET_CAPABILITIES (R36). -/
def execGetCapabilities (s : State) : Outcome :=
  onLink s <|
  .next (s.spdmReply (Config.spdmBody 2 []) "CAPABILITIES" (Config.spdmBody 3 []))

/-- NEGOTIATE_ALGORITHMS (R36): SM2_P256 and SM3_256, as far as the requester offers them; with neither, an error. -/
def execNegotiateAlgorithms (sm2 sm3 : Bool) (s : State) : Outcome :=
  onLink s <|
  let offer : List Byte := [if sm2 then 1 else 0, if sm3 then 1 else 0]
  .next (if !sm2 && !sm3 then s.spdmError "InvalidRequest"
    else ({ s with dev := { s.dev with spdmAgreed := sm2 && sm3 } }).spdmReply (Config.spdmBody 4 offer) "ALGORITHMS"
      (Config.spdmBody 5 offer))

/-- GET_DIGESTS (R36): the digest of the certificate in slot 0. -/
def execGetDigests (s : State) : Outcome :=
  onLink s <|
  .next (s.spdmReply (Config.spdmBody 6 []) "DIGESTS" (toBytes 32 (Config.sm3 Config.certificate).toNat))

/-- GET_CERTIFICATE (R33): the identity certificate, in slot 0 alone. -/
def execGetCertificate (slot : Nat) (s : State) : Outcome :=
  onLink s <|
  .next (if slot = 0 then s.spdmReply (Config.spdmBody 8 []) "CERTIFICATE" Config.certificate
    else s.spdmError "InvalidRequest")

/-- CHALLENGE (R36): signed, over a transcript that holds the nonce. There is no signature before the algorithms are
agreed. -/
def execChallenge (nonce : BitVec 256) (s : State) : Outcome :=
  onLink s <|
  .next (if s.dev.spdmAgreed then
      s.spdmSigned (Config.spdmBody 10 (toBytes 32 nonce.toNat)) "CHALLENGE_AUTH" (Config.spdmBody 11 [])
    else s.spdmError "UnexpectedRequest")

/-- A record of the measurement log (R34). -/
def LogRecord.bytes (r : LogRecord) : List Byte :=
  toBytes 32 r.digest.toNat ++ toBytes 10 r.ver ++ [BitVec.ofNat 8 r.kind, BitVec.ofNat 8 r.reg] ++ toBytes 4 r.seq

/-- A measurement block: M1 to M8, or the whole log (R36). -/
def Dev.block (d : Dev) (n : Nat) : Option (List Byte) :=
  if 1 ≤ n ∧ n ≤ 8 then some (toBytes 32 (Tab.get 0 d.meas n).toNat)
  else if n = 9 then some (d.log.flatMap LogRecord.bytes)
  else none

/-- GET_MEASUREMENTS (R36): a block, signed where the request asks for it. -/
def execGetMeasurements (block : Nat) (signed : Bool) (nonce : BitVec 256) (s : State) : Outcome :=
  onLink s <|
  let request := Config.spdmBody 12 (toBytes 1 block ++ (if signed then toBytes 32 nonce.toNat else []))
  .next (match s.dev.block block with
    | none => s.spdmError "InvalidRequest"
    | some b =>
      if !signed then s.spdmReply request "MEASUREMENTS" b
      else if s.dev.spdmAgreed then s.spdmSigned request "MEASUREMENTS" b
      else s.spdmError "UnexpectedRequest")

end Sys2Proof.Machine
end

