-- ==== Sys2Proof/Machine/Placement.lean ====
section
/-!
DEFINITION. From launch to team slot: claims and rectangles (R77 to R80), the start of teams (R81, R201), priorities (R84),
pre-emption, save and restore (R89 to R95), vacating by software (R90), and bins (R82, R83).
-/

namespace Sys2Proof.Machine

/-! ## Claims and slots (R77, R80, R83) -/

/-- A slot of a core holds a team (R88). -/
def State.slotTaken (s : State) (core slot : Nat) : Bool := (s.teamsOn core).any (fun e => e.2.slotOn e.1 core == slot)

/-- The lowest free slot of a core. -/
def State.freeOn (s : State) (core : Nat) : Option Nat := (List.range 16).find? (fun slot => !s.slotTaken core slot)

/-- A free slot on each of the cores of a team, one core or a pair (R80, R88). -/
def State.freeSlots (s : State) : List Nat → Option (Nat × Nat)
  | [] => none
  | [c] => (s.freeOn c).map (fun k => (k, 0))
  | c :: d :: _ => (s.freeOn c).bind (fun k => (s.freeOn d).map (fun j => (k, j)))

/-- The launches that hold a claim on a core: by a team, or by a bin that is not empty (R77). -/
def State.claimants (s : State) (core : Nat) : List Nat :=
  ((s.teamsOn core).map (fun e => e.2.launch) ++ (s.core core).bins.map (·.launch)).eraseDups

/-- Units of a launch's claim (R77). -/
def Kdesc.units (k : Kdesc) : Nat := k.regu + k.scru + k.accu

/-- The descriptor of a launch. -/
def State.kdescOf (s : State) (h : Nat) : Kdesc := ((s.launch h).map (·.k)).getD Kdesc.plain

/-- Slots of a core that a launch may not take: those that hold a team, and the spawn slots of other launches (R77, R83). -/
def State.slotsUsed (s : State) (core h : Nat) : Nat :=
  let ts := s.teamsOn core
  let spare := fun (g : Nat) =>
    (s.kdescOf g).spsl - (ts.filter (fun e => e.2.launch == g && e.2.binTeam)).length
  ts.length + (((s.claimants core).filter (fun g => g != h)).map spare).sum

/-- Cores that take no placement: fenced, or being vacated (R80, R89, R90). -/
def State.closed (s : State) (core : Nat) : Bool :=
  (s.core core).fenced || s.sched.vacating.contains core || s.sched.cvCores.contains core

/-- A launch's claim fits on a core beside the claims there (R77, R80). -/
def State.claimFits (s : State) (h : Nat) (k : Kdesc) (cl : List Nat) : Bool :=
  cl.contains h || decide ((cl.map (fun g => (s.kdescOf g).units)).sum + k.units ≤ 192)

/-- A core takes one more neighbourhood of a launch (R80). -/
def State.coreFits (s : State) (h : Nat) (k : Kdesc) (core : Nat) : Bool :=
  !s.closed core && decide (s.slotsUsed core h + k.slots ≤ 16) && s.claimFits h k (s.claimants core)

/-! ## Rectangles (R79, R80) -/

/-- Width and height in cores of what a neighbourhood takes; that of a bin team is one core, or one pair (R95). -/
def Kdesc.shape (k : Kdesc) (bin : Bool) : Nat × Nat :=
  if bin then (if k.pair then (2, 1) else (1, 1)) else (k.nbw + 1, k.nbh + 1)

/-- The cores of a rectangle, row by row (R6). -/
def rectCores (d c w : Nat) (sh : Nat × Nat) : List Nat :=
  (List.range sh.2).flatMap (fun b => (List.range sh.1).map (fun a => d * 192 + (w + b) * 16 + (c + a)))

/-- The candidate rectangles in the order of R80, within the service level (R15). -/
def candidates (d : Dev) (pair : Bool) (sh : Nat × Nat) : List (List Nat) :=
  let dies := if d.svc = 1 then 1 else 2
  let rows := if d.svc = 1 then 6 else 12
  (List.range dies).flatMap (fun die =>
    ((List.range (17 - sh.1)).filter (fun c => !pair || c % 2 == 0)).flatMap (fun c =>
      (List.range (rows + 1 - sh.2)).map (fun w => rectCores die c w sh)))

/-- A launch has a spawn slot free on a core (R83). -/
def State.spareSpawn (s : State) (h : Nat) (k : Kdesc) (core : Nat) : Bool :=
  decide (((s.teamsOn core).filter (fun e => e.2.launch == h && e.2.binTeam)).length < k.spsl)

/-- A rectangle takes a neighbourhood of a launch, or a bin team, which takes a spawn slot (R80, R83, R95). -/
def State.rectFits (s : State) (h : Nat) (k : Kdesc) (bin : Bool) (r : List Nat) : Bool :=
  r.all (fun c => s.coreFits h k c && (!bin || s.spareSpawn h k c))

/-- The first rectangle that fits (R80). -/
def State.findRect (s : State) (h : Nat) (k : Kdesc) (bin : Bool) : Option (List Nat) :=
  (candidates s.dev k.pair (k.shape bin)).find? (s.rectFits h k bin)

/-- The cores of the team with an index in a rectangle (R79). In paired mode a column counts a pair, so that the indices run
from 0 to NT - 1. -/
def Kdesc.teamCoresAt (k : Kdesc) (rect : List Nat) (t : Nat) : List Nat :=
  if k.pair then (rect.drop (2 * (t / k.tpc))).take 2 else (rect.drop (t / k.tpc)).take 1

/-! ## The start of teams (R81, R102, R108, R116, R242) -/

/-- The lowest private-area index that a launch has free (R102). -/
def Launch.freeArea (l : Launch) : Option Nat := (List.range 8192).find? (fun i => !l.privUsed.contains i)

/-- A team enters a core: a kernel boundary when the launch differs from that of the team that started there last (R116). -/
def Core.takesTeam (c : Core) (launch : Nat) : Core :=
  let c := if c.lastLaunch = some launch then c else c.dropStable
  { c with lastLaunch := some launch }

/-- A team is put in a slot of each of its cores (R88), which ends D0 idle (R11). -/
def State.seat (s : State) (cores : List Nat) (slot : Nat × Nat) (t : Team) : State :=
  (cores.foldl (fun (s : State) c => s.modCore c (fun k => k.takesTeam t.launch)) { s with dev := s.dev.wake }).setTeam (teamKey (cores.headD 0) slot.1)
    { t with oddSlot := slot.2 }

/-- The program timestamp that a team starts with: its core's (R81, R108), past what its launch acquired (R426). -/
def State.startPts (s : State) (core : Nat) (l : Launch) : Nat := max (s.core core).ctime l.acq

/-- Neighbourhood coordinates in s2 (R81). -/
def Launch.coords (l : Launch) (n : Nat) : Word64 :=
  BitVec.ofNat 64 (n % l.gx + n / l.gx % l.gy * 2 ^ 24 + n / (l.gx * l.gy) * 2 ^ 48)

/-- The single path of a neighbourhood team at its start (R81). -/
def neighbourPath (l : Launch) (nb t pts : Nat) : Path :=
  ((Path.start l.k.sentry (maskBelow l.k.lanes) resetFmt pts).setS 1 l.args).setS 2 (l.coords nb) |>.setS 3 (BitVec.ofNat 64 t)

/-- The lanes that a bin team starts with (R201). -/
def Team.binLanes (t : Team) : Nat := t.contLanes.length + t.spawned.length

/-- A team with fresh registers that keeps the identifiers and the private area of one that was discarded (R91, R95). -/
def Team.afresh (t : Team) : Team :=
  { Team.start t.launch t.k t.nbh t.tidx t.asid t.teamId t.taskBorn t.privIdx t.binTeam with
    late := false, rebuild := t.rebuild, entry := t.entry, args := t.args, spawned := t.spawned,
    contLanes := t.contLanes,
    endedLanes := if t.binTeam then maskBelow t.k.lanes &&& ~~~(maskBelow t.binLanes) else 0 }

/-- The bytes of a team's lane region that its page tables map for writing, page by page: physical address and length (R103). -/
def State.privateSpans (s : State) (t : Team) : List (Nat × Nat) :=
  let a := t.area + 266240
  let n := t.k.pl * t.k.lanes
  if n = 0 then [] else
  (List.range ((a + n + 0xFFFF) / 0x10000 - a / 0x10000)).filterMap (fun i =>
    let page := a / 0x10000 + i
    match walk s t.asid false page with
    | .leaf e _ vpn =>
      let f := leafFrame e + (page - vpn) * 0x10000
      let lo := max a (page * 0x10000)
      let hi := min (a + n) ((page + 1) * 0x10000)
      if AccKind.store.permitted e && !leafStable e && !leafDisc e && !s.mem.isTable f then some (f + lo % 0x10000, hi - lo) else none
    | _ => none)

/-- Lane-private contents do not outlive their team, and are undefined when one starts (R98): the bytes of its lane region hold free values,
those of a leased line when the lease has ended (R46), and no L1 line holds what was there (log entry 130). -/
def State.blurPrivate (s : State) (t : Team) : State :=
  match s.privateSpans t with
  | [] => s
  | sp =>
    let put := fun (s : State) (q : Nat × List Byte) => if s.lineHeld q.1 then s.deviceLine q else { s with mem := s.mem.put q.1 q.2 }
    let s1 := sp.foldl (fun (s : State) p =>
      (pieces (p.2 + 1) p.1 ((List.range p.2).map (fun i => Config.freeByte s.fresh i))).foldl put s.tick) s
    let kept := fun (l : L1Line) => !sp.any (fun p => decide (p.1 / 64 ≤ l.pline) && decide (l.pline ≤ (p.1 + p.2 - 1) / 64))
    { s1 with cores := s1.cores.map (fun c => (c.1, { c.2 with l1 := c.2.l1.filter kept })) }

/-- A team that starts afresh is put in a slot of each of its cores (R81, R98). -/
def State.seatNew (s : State) (cores : List Nat) (slot : Nat × Nat) (t : Team) : State := (s.blurPrivate t).seat cores slot t

/-! ## Bin teams (R201) -/

/-- A continuation lane loads its record (R201). -/
def State.loadContinuation (s : State) (core asid : Nat) (t : Team) (l : Nat) (c : ContLane) : State × Except SpanEnd (Team × BitVec 32) :=
  match s.span core asid l .load (contAddr t.k c.slot) 1088 with
  | (s, .ok m) =>
    let jpc := BitVec.ofNat 64 (ofBytes (s.spanRead m 0 8))
    let fmt := BitVec.ofNat 32 (ofBytes (s.spanRead m 48 4))
    let t := t.loadRecord s m l c.live
    (s, .ok ({ t with contLanes := AMap.insert l { c with jpc := jpc } t.contLanes }, fmt))
  | (s, e) => (s, .error e)

/-- Continuation lanes load their records in lane order; the `fmt` of the first comes back (R201). -/
def State.loadContinuations (s : State) (core asid : Nat) (t : Team) (fmt : Option (BitVec 32)) :
    List (Nat × ContLane) → State × Except SpanEnd (Team × BitVec 32)
  | [] => (s, .ok (t, fmt.getD resetFmt))
  | (l, c) :: rest =>
    match s.loadContinuation core asid t l c with
    | (s, .ok (t, f)) => State.loadContinuations s core asid t (some (fmt.getD f)) rest
    | (s, .error e) => (s, .error e)

/-- Spawned lanes take their first values (R304). -/
def Team.loadSpawned (t : Team) (ls : List (Nat × BitVec 32)) : Team := ls.foldl (fun t e => t.setV e.1 0 e.2) t

/-- The single path of a bin team (R81, R201): the frame in s1 to s4. -/
def binPath (t : Team) (n pts : Nat) (fmt : BitVec 32) : Path :=
  { Path.start t.entry (maskBelow n) fmt pts with
    sregs := t.args.zipIdx.foldl (fun m e => Tab.set 0 (e.2 + 1) e.1 m) [] }

/-- A bin team that has its slot loads the records of its continuation lanes, and runs (R201). Its path parks while a record's page is
missing or locked, and a record that cannot be read traps the team (R134, R246). -/
def State.loadBinTeam (s : State) (key : Nat) : State :=
  match s.team key with
  | none => s
  | some t =>
    match s.loadContinuations (keyCore key) t.asid t none t.contLanes with
    | (s, .ok (t, fmt)) =>
      s.setTeam key ((t.loadSpawned t.spawned).modPath 0 (fun p => { p with fmt := fmt, wait := none }))
    | (s, .error (.held h i)) => s.parkAt key 0 h 0 false i
    | (s, .error (.err c)) => s.trapError key 0 c 0 0
    | (s, .error .later) => s
    | (s, .error (.ok _)) => s

/-- A bin team starts in a slot (R201). -/
def State.startBinTeam (s : State) (cores : List Nat) (slot : Nat × Nat) (l : Launch) (t : Team) : State :=
  let core := cores.headD 0
  let p : Path := { binPath t t.binLanes (s.startPts core l) resetFmt with wait := some .starting }
  (s.seatNew cores slot (t.setPath 0 p)).loadBinTeam (teamKey core slot.1)

/-- A bin team of a core that has a slot and has not loaded its records, and is not parked (R201). -/
def State.loadingOn (s : State) (core : Nat) : Option Nat :=
  (s.teams.find? (fun e => keyCore e.1 == core && decide (e.2.phase = .running) &&
    (AMap.find e.2.paths 0).any (fun p => p.wait == some .starting && p.park.isNone && p.stop.isNone))).map (·.1)

/-- The lanes of a bin in the order of R201: continuation lanes, then spawned lanes. -/
def binOrder (b : Bin) : List BinLane :=
  b.lanes.filter (fun x => match x with | .cont _ _ _ _ _ => true | .spawned _ => false)
    ++ b.lanes.filter (fun x => match x with | .cont _ _ _ _ _ => false | .spawned _ => true)

/-- The team that a bin starts, before its records are loaded. -/
def binTeam (b : Bin) (h : Nat) (k : Kdesc) (id : BitVec 32) (born area : Nat) (rebuild : Option Nat) : Team :=
  let ls := (binOrder b).zipIdx
  { Team.start h k (2 ^ 32 + id.toNat) 0 b.asid id born area true with
    entry := b.entry, args := b.frame, rebuild := rebuild,
    contLanes := ls.filterMap (fun e => match e.1 with
      | .cont slot pt pp pl live =>
        some (e.2, ({ slot := slot, jpc := 0, pteam := pt, ppath := pp, plane := pl, live := live } : ContLane))
      | .spawned _ => none),
    spawned := ls.filterMap (fun e => match e.1 with
      | .cont _ _ _ _ _ => none
      | .spawned v => some (e.2, v)),
    endedLanes := maskBelow k.lanes &&& ~~~(maskBelow b.lanes.length) }

/-- BIN_TIMER_EXPIRY (R82): a bin whose timer has reached BTIMER launches. -/
def execBinTimerExpiry (core bin : Nat) (s : State) : Outcome :=
  .next (s.modCore core (fun c => { c with bins := c.bins.modify bin (fun b =>
    if (s.kdescOf b.launch).btimer ≤ b.timer then { b with launched := true } else b) }))

/-- The bins of a core that have launched, the oldest first, whose launch has a spawn slot free there (R83). -/
def State.startable (s : State) (core : Nat) (b : Bin) : Bool :=
  b.launched && s.spareSpawn b.launch (s.kdescOf b.launch) core

/-- BIN_TEAM_START (R83, R201): the oldest launched bin whose launch has a free spawn slot starts its team. A team that has started and
whose records were not to be had loads them first. -/
def execBinTeamStart (core : Nat) (s : State) : Outcome :=
  .next (if s.closed core ∨ s.dev.stopped then s
    else
      match s.loadingOn core with
      | some key => s.loadBinTeam key
      | none =>
      match (s.core core).bins.find? (s.startable core) with
      | none => s
      | some b =>
        match s.launch b.launch with
        | none => s
        | some l =>
          let cores := if l.k.pair then [core, core + 1] else [core]
          match s.freeSlots cores, l.freeArea with
          | some slot, some area =>
            let r := s.takeTask core slot.1
            let s1 := r.1.tick.modLaunch b.launch (fun l => { l with privUsed := area :: l.privUsed })
            let s1 := s1.modCore core (fun c => { c with bins := c.bins.erase b })
            s1.startBinTeam cores slot l (binTeam b b.launch l.k r.2 s.fresh area l.rebuild)
          | _, _ => s)

/-! ## What waits (R84) -/

/-- Class of a launch: RT above PRIO 3 to 0 (R84). -/
def Launch.rank (l : Launch) : Nat := if l.rt then 4 else l.prio

/-- A launch has only bins left to place: they were saved on vacated cores, and no neighbourhood of it waits to come with them
(R91, log entry 132). -/
def State.binsOnly (s : State) (h : Nat) (l : Launch) : Bool :=
  l.returned.isEmpty && decide (l.gx * l.gy * l.gz ≤ l.nextNb) && s.sched.savedBins.any (fun b => b.2.launch == h)

/-- The launch has something that waits to be placed: a neighbourhood that returned, one never placed, or saved bins alone (log
entry 151). A launch held in reduced service has none, and a launch not yet placed has none while the switch to full service waits (R15,
R16, R84, R91). -/
def State.waits (s : State) (h : Nat) (l : Launch) : Bool :=
  l.begun && !l.cancelled && (!l.returned.isEmpty || decide (l.nextNb < l.gx * l.gy * l.gz) || s.binsOnly h l)
    && !(s.dev.svc == 1 && decide (5 < l.k.nbh)) && !(s.dev.switching && l.nextNb == 0)

/-- The oldest waiting launch of a class. -/
def State.oldest (s : State) (rank : Nat) : Option (Nat × Launch) :=
  (s.sched.launches.filter (fun e => e.2.rank == rank && s.waits e.1 e.2)).foldl
    (fun (b : Option (Nat × Launch)) e =>
      match b with
      | none => some e
      | some x => if e.2.order < x.2.order then some e else some x) none

/-- The oldest waiting launch of the highest class that has one (R84). -/
def State.firstWaiting (s : State) : Option (Nat × Launch) := [4, 3, 2, 1, 0].findSome? s.oldest

/-- The saved or discarded teams of a neighbourhood. -/
def State.savedOf (s : State) (h nb : Nat) : List Team :=
  (s.sched.saved.filter (fun e => e.1 == h && e.2.1 == nb)).flatMap (fun e => e.2.2)

/-- The neighbourhood that a launch would have placed next starts from a bin (R91). -/
def State.nextIsBin (s : State) (h : Nat) (l : Launch) : Bool :=
  match l.returned with
  | nb :: _ => (s.savedOf h nb).any (·.binTeam)
  | [] => s.binsOnly h l

/-- Private areas are free for what would be placed next (R102). -/
def Launch.areasFree (l : Launch) : Bool :=
  !l.returned.isEmpty || decide (l.gx * l.gy * l.gz ≤ l.nextNb) || decide (l.k.nt ≤ ((List.range 8192).filter (fun i => !l.privUsed.contains i)).length)

/-- The rectangle on which a launch's next neighbourhood fits. -/
def State.nextRect (s : State) (h : Nat) (l : Launch) : Option (List Nat) :=
  if l.areasFree then s.findRect h l.k (s.nextIsBin h l) else none

/-! ## PLACEMENT -/

/-- One new team of a neighbourhood starts (R79, R81): none when no slot is free on all its cores. -/
def State.startTeam (s : State) (h nb : Nat) (l : Launch) (rect : List Nat) (t : Nat) : Option State :=
  let cores := l.k.teamCoresAt rect t
  match s.freeSlots cores, (s.launch h).bind Launch.freeArea with
  | some slot, some area =>
    let core := cores.headD 0
    let r := s.takeTask core slot.1
    let team := { Team.start h l.k nb t l.asid r.2 s.fresh area false with rebuild := l.rebuild }
    let s := r.1.tick.modLaunch h (fun l => { l with privUsed := area :: l.privUsed })
    some (s.seatNew cores slot (team.setPath 0 (neighbourPath l nb t (s.startPts core l))))
  | _, _ => none

/-- A saved or discarded team takes a slot again (R91, R95). -/
def State.reseat (s : State) (l : Launch) (rect : List Nat) (t : Team) : Option State :=
  let cores := if t.binTeam then rect else l.k.teamCoresAt rect t.tidx
  let core := cores.headD 0
  match s.freeSlots cores with
  | none => none
  | some slot =>
    if t.phase = .saved then some (s.seat cores slot { t with phase := .restoring })
    else if t.binTeam then some (s.startBinTeam cores slot l t)
    else some (s.seatNew cores slot (t.setPath 0 (neighbourPath l t.nbh t.tidx (s.startPts core l))))

/-- Bins that were saved on vacated cores return to the cores of a rectangle of their launch, each to its place by age among
the bins there (R82, R83, R91). -/
def State.returnBins (s : State) (h : Nat) (rect : List Nat) : State :=
  let mine := s.sched.savedBins.filter (fun b => b.2.launch == h)
  let s := { s with sched := { s.sched with savedBins := s.sched.savedBins.filter (fun b => b.2.launch != h) } }
  mine.foldl (fun s b => s.modCore ((rect[b.1]?).getD (rect.headD 0)) (fun c => { c with bins := insertBin c.bins b.2 })) s

/-- Steps on an optional state, one after another. -/
def foldSteps {α : Type} (f : State → α → Option State) : Option State → List α → Option State
  | none, _ => none
  | some s, [] => some s
  | some s, x :: xs => foldSteps f (f s x) xs

/-- Neighbourhoods whose teams have all ended while they were saved leave the waiting set. -/
def State.dropEnded (s : State) : State :=
  let s := { s with sched := { s.sched with saved := s.sched.saved.filter (fun e => !e.2.2.isEmpty) } }
  { s with sched := { s.sched with launches := s.sched.launches.map (fun e =>
      let gone := e.2.returned.filter (fun nb => (s.savedOf e.1 nb).isEmpty)
      (e.1, { e.2 with returned := e.2.returned.filter (fun nb => !gone.contains nb),
                       liveNb := e.2.liveNb.filter (fun nb => !gone.contains nb) })) } }

/-- A launch's next neighbourhood is placed on a rectangle (R79, R84, R95). -/
def State.placeNext (s : State) (h : Nat) (l : Launch) (rect : List Nat) : Option State :=
  match l.returned with
  | nb :: rest =>
    let ts := s.savedOf h nb
    let s := { s with sched := { s.sched with saved := s.sched.saved.filter (fun e => !(e.1 == h && e.2.1 == nb)) } }
    (foldSteps (fun s t => s.reseat l rect t) (some s) ts).map (fun s =>
      (s.modLaunch h (fun l => { l with returned := rest, waitFrom := none })).returnBins h rect)
  | [] =>
    if s.binsOnly h l then some ((s.modLaunch h (fun l => { l with waitFrom := none })).returnBins h rect)
    else (foldSteps (fun s t => s.startTeam h l.nextNb l rect t) (some s) (List.range l.k.nt)).map (fun s =>
      (s.modLaunch h (fun l =>
        { l with nextNb := l.nextNb + 1, liveNb := l.nextNb :: l.liveNb, waitFrom := none })).returnBins h rect)

/-- Number of the neighbourhood that a launch would have placed next. -/
def Launch.nextNumber (l : Launch) : Nat := l.returned.headD l.nextNb

/-- The payload of a KIND 2 record: handle, neighbourhood, and the die, column and row of the origin (R258). -/
def placementRecord (h nb : Nat) (rect : List Nat) : List Byte :=
  let c := rect.headD 0
  toBytes 4 h ++ toBytes 4 nb ++ [BitVec.ofNat 8 (c / 192), BitVec.ofNat 8 (c % 16), BitVec.ofNat 8 (c % 192 / 16)]

/-- A replay holds the placement of a neighbourhood: its recorded origin is another (R259). -/
def State.originHeld (s : State) (h nb : Nat) (rect : List Nat) : Bool :=
  s.dbg.replaying && (s.nextRecord (fun k d => k == 2 && d.take 8 == toBytes 4 h ++ toBytes 4 nb)).any
    (fun r => r.2 != placementRecord h nb rect)

/-- The rectangle that a replay's record names for a launch's next neighbourhood, when it fits (R259). -/
def State.recordedRect (s : State) (h : Nat) (l : Launch) : Option (List Nat) :=
  (candidates s.dev l.k.pair (l.k.shape (s.nextIsBin h l))).find? (fun r =>
    s.rectFits h l.k (s.nextIsBin h l) r && !s.originHeld h l.nextNumber r)

/-- The journal's side of a placement: recorded, or taken from the replay (R258, R259). -/
def State.journalPlacement (s : State) (h nb : Nat) (rect : List Nat) : State :=
  if s.dbg.replaying then
    match s.nextRecord (fun k d => k == 2 && d.take 8 == toBytes 4 h ++ toBytes 4 nb) with
    | some (i, _) => s.takeRecord i
    | none => s
  else s.journal 2 (placementRecord h nb rect)

/-- PLACEMENT (R80, R81, R84): the oldest waiting neighbourhood of the highest class is placed on the first rectangle that
fits, or, in a replay, on the one recorded (R259). It waits while a journal that records it is full. -/
def execPlacement (s : State) : Outcome :=
  let s := s.dropEnded
  .next (if s.dev.stopped || s.journalFull 11 then s
    else
      match s.firstWaiting with
      | none => s
      | some (h, l) =>
        match (if s.dbg.replaying then (if l.areasFree then s.recordedRect h l else none) else s.nextRect h l) with
        | none => s
        | some rect =>
          ((s.placeNext h l rect).map (fun t =>
            if s.binsOnly h l then t else t.journalPlacement h l.nextNumber rect)).getD s)

/-! ## Vacating cores (R89, R90, R91) -/

/-- The neighbourhoods with a team on some cores, as launch and number. -/
def State.neighbourhoodsOn (s : State) (cores : List Nat) : List (Nat × Nat) :=
  ((s.teams.filter (fun e => (teamCores (keyCore e.1) e.2).any cores.contains)).map (fun e => (e.2.launch, e.2.nbh))).eraseDups

/-- One pass of the widening of R89: every core of a neighbourhood with a team on the cores, and the partner of every core that
hosts a paired team. -/
def State.widenOnce (s : State) (cores : List Nat) : List Nat :=
  let nbs := s.neighbourhoodsOn cores
  let more := (s.teams.filter (fun e => nbs.contains (e.2.launch, e.2.nbh))).flatMap (fun e => teamCores (keyCore e.1) e.2)
  (cores ++ more).eraseDups

/-- The widening, repeated until a pass adds none; 384 passes suffice (R89). -/
def State.widen (s : State) : Nat → List Nat → List Nat
  | 0, cores => cores
  | n + 1, cores =>
    let w := s.widenOnce cores
    if w.length = cores.length then cores else State.widen s n w

/-- The teams on a core all belong to launches of a class below a rank (R89). -/
def State.allBelow (s : State) (rank core : Nat) : Bool :=
  (s.teamsOn core).all (fun e => ((s.launch e.2.launch).map (fun l => decide (l.rank < rank))).getD true)

/-- The cores that a pre-emption for a launch vacates (R89). -/
def State.victims (s : State) (h : Nat) (l : Launch) : Option (List Nat) :=
  (candidates s.dev l.k.pair (l.k.shape (s.nextIsBin h l))).findSome? (fun r =>
    if r.all (fun c => !s.closed c && s.allBelow l.rank c) then
      let w := s.widen 384 r
      if w.all (fun c => s.allBelow l.rank c) then some w else none
    else none)

/-- A path of the team is parked for a page fault, in its table or in the block that a handler keeps (R134). -/
def Team.hasParked (t : Team) : Bool :=
  (t.paths ++ (t.handler.map (·.saved)).getD []).any (fun p => p.2.park.any (fun k => k.hold == .pageFault))

/-- A team qualifies for discard (R91): the task of a parked path is not discarded (R134). -/
def Team.qualifies (t : Team) : Bool :=
  t.phase == .running && !t.hasParked && t.k.dthr != 0 && t.taskId == t.teamId && !t.taint && decide (t.taskCycles < t.k.dthr * 1024)

/-- A team leaves its cores without ending: its clause stops, and its entries in the event queue are held for it (R92,
R241). -/
def State.unseat (s : State) (key : Nat) : State :=
  match s.team key with
  | none => s
  | some t =>
    let held := (teamCores (keyCore key) t).flatMap (fun c => (s.core c).evq.filter (fun e => e.teamId == t.teamId))
    let s := s.leaveCores key t
    { s with teams := AMap.erase key s.teams, sched := { s.sched with savedEv := s.sched.savedEv ++ held } }

/-- A team joins the saved teams of its neighbourhood. -/
def State.keepTeam (s : State) (t : Team) : State :=
  let mine := fun (e : Nat × Nat × List Team) => e.1 == t.launch && e.2.1 == t.nbh
  let saved := if s.sched.saved.any mine then
      s.sched.saved.map (fun e => if mine e then (e.1, e.2.1, e.2.2 ++ [t]) else e)
    else s.sched.saved ++ [(t.launch, t.nbh, [t])]
  { s with sched := { s.sched with saved := saved } }

/-- The accesses of a team in flight, which a save cancels (R92). -/
def State.accessesOf (s : State) (id : BitVec 32) : List PendAccess := s.allPend.filter (fun p => p.teamId == id)

/-- The accesses of a team in flight are cancelled (R92): a store or an atomic that a peer has not acknowledged is withdrawn, and what
comes back for them is dropped. -/
def State.cancelAccesses (s : State) (id : BitVec 32) : State :=
  let keep := fun (p : PendAccess) => p.teamId != id
  let out := (s.eng.pend.filter (fun p => !keep p && p.resend.isSome)).map (fun p => OutMsg.peerCancel p.id)
  { s with
    eng := { s.eng with pend := s.eng.pend.filter keep },
    mem := { s.mem with hostLines := s.mem.hostLines.map (fun h =>
      (h.1, { h.2 with fills := h.2.fills.map (fun f => { f with waiters := f.waiters.filter keep }) })) },
    out := out.reverse ++ s.out }

/-- A neighbourhood is discarded (R91): the versions of its teams go, and it returns to the waiting set. -/
def State.discardNeighbourhood (s : State) (h nb : Nat) : State :=
  let ts := s.teams.filter (fun e => e.2.launch == h && e.2.nbh == nb)
  let s := ts.foldl (fun s e => (((s.dropCopies e.2.teamId).cancelAccesses e.2.teamId).unseat e.1).keepTeam e.2.afresh) s
  let s := { s with sched := { s.sched with savedEv := s.sched.savedEv.filter (fun e =>
    !ts.any (fun t => t.2.teamId == e.teamId)) } }
  s.modLaunch h (fun l => { l with returned := l.returned ++ [nb] })

/-- The context-save partition drops what other partitions hold in its ways: clean lines of class normal (R115). -/
def State.clearSavePartition (s : State) : State :=
  let reg := (Tab.get 0 s.mem.l2part 15).toNat
  { s with mem := { s.mem with l2 := s.mem.l2.filter (fun e =>
      e.2.part == 15 || e.2.dirty || e.2.rc != 0 || !(bits 15 0 reg).testBit e.2.way
        || !(bits 55 16 reg).testBit (keySlice s.dev e.1 e.2.vline / 8)) } }

/-- A neighbourhood on vacated cores is discarded when every team of it qualifies and none of it has been saved already, and
saved otherwise: its teams stop, and the context-save partition takes its ways (R91, R92, R115). -/
def State.evict (s : State) (n : Nat × Nat) : State :=
  let ts := s.teams.filter (fun e => e.2.launch == n.1 && e.2.nbh == n.2)
  if (s.savedOf n.1 n.2).isEmpty ∧ ts.all (fun e => e.2.qualifies) then s.discardNeighbourhood n.1 n.2
  else
    ts.foldl (fun s e =>
      let s := s.modTeam e.1 (fun t => { t with phase := .saving })
      (teamCores (keyCore e.1) e.2).foldl (fun s c => s.modCore c (fun k => k.leaveClause (e.2.slotOn e.1 c))) s)
      s.clearSavePartition

/-- Place of a core in the rectangle of a launch's teams, for its bins (R91): in paired mode the even core of a pair (R79). -/
def State.binPlace (s : State) (core h : Nat) : Nat :=
  (((s.teamsOn core).find? (fun e => e.2.launch == h && !e.2.binTeam)).map (fun e =>
    e.2.tidx / max 1 e.2.k.tpc * (if e.2.k.pair then 2 else 1))).getD 0

/-- The bins of a core are saved, their timers stopped (R91). -/
def State.saveBins (s : State) (core : Nat) : State :=
  let bs := (s.core core).bins.map (fun b => (s.binPlace core b.launch, b))
  { s.modCore core (fun c => { c with bins := [] }) with sched := { s.sched with savedBins := s.sched.savedBins ++ bs } }

/-- Cores are vacated (R89, R90). -/
def State.vacate (s : State) (cores : List Nat) : State :=
  let nbs := s.neighbourhoodsOn cores
  (nbs.foldl (fun s n => s.evict n) (cores.foldl (fun s c => s.saveBins c) s)).settleVacate

/-- The waiting time at which a class pre-empts, in microseconds (R89). -/
def preemptAfter (rank : Nat) : Option Nat := if rank = 4 then some 0 else if rank = 0 then none else some 100

/-- The neighbourhood that would be placed next of a launch has been waiting from now on when it does not fit, unless it was before (R89). -/
def State.noteWait (s : State) (now h : Nat) (l : Launch) : State :=
  if (l.waitFrom.any (fun x => x.1 == l.nextNumber)) ∨ (s.nextRect h l).isSome then s
  else s.modLaunch h (fun l => { l with waitFrom := some (l.nextNumber, now) })

/-- The oldest neighbourhood of each class that waits and does not fit has been waiting from now on, unless it was before; one that is not
the oldest of its class any more has no waiting time (R89). -/
def State.noteWaits (s : State) (now : Nat) : State :=
  let first := [4, 3, 2, 1, 0].filterMap s.oldest
  let s := { s with sched := { s.sched with launches := s.sched.launches.map (fun e =>
    if first.any (fun x => x.1 == e.1) then e else (e.1, { e.2 with waitFrom := none })) } }
  first.foldl (fun s x => s.noteWait now x.1 x.2) s

/-- PREEMPTION_DECISION (R89, R91), at a time in microseconds: the oldest neighbourhood of the highest waiting class, when it
does not fit and has waited its time, has cores vacated for it, one pre-emption at a time. -/
def execPreemptionDecision (now : Nat) (s : State) : Outcome :=
  let s := s.dropEnded.noteWaits now
  .next (if ¬ s.sched.vacating.isEmpty ∨ s.dev.stopped then s
    else
      match s.firstWaiting with
      | none => s
      | some (h, l) =>
        match preemptAfter l.rank, l.waitFrom with
        | some t, some (nb, t0) =>
          if nb ≠ l.nextNumber ∨ now < t0 + t ∨ (s.nextRect h l).isSome then s
          else
            match s.victims h l with
            | none => s
            | some cores => { s with sched := { s.sched with vacating := cores } }.vacate cores
        | _, _ => s)

/-- A write of CVREQ (R90): a request to vacate and fence, or to unfence. An accepted one leaves ERR as it is (log entry 152). -/
def State.cvRequest (s : State) (v : BitVec 64) : State :=
  let first := bits 8 0 v.toNat
  let cnt := bits 40 32 v.toNat
  if bits 62 41 v.toNat ≠ 0 ∨ bits 31 9 v.toNat ≠ 0 ∨ 383 < first + cnt ∨ s.sched.cvBusy then
    { s with sched := { s.sched with cvErr := true } }
  else
    let cores := (List.range (cnt + 1)).map (fun i => first + i)
    if v.getLsbD 63 then
      let s1 := cores.foldl (fun s c => s.modCore c (fun k => { k with fenced := false })) s
      { s1 with sched := { s1.sched with cvDone := s1.sched.cvDone + 1 } }
    else
      let w := s.widen 384 cores
      { s with sched := { s.sched with cvCores := w, cvBusy := true } }.vacate w

/-- VACATE_AND_FENCE (R90, R91): a write of CVREQ with OP = 0. -/
def execVacateAndFence (v : BitVec 64) (s : State) : Outcome :=
  onLink s <|
  .next (if v.getLsbD 63 then s else s.cvRequest v)

/-- UNFENCE (R90): a write of CVREQ with OP = 1. -/
def execUnfence (v : BitVec 64) (s : State) : Outcome :=
  onLink s <|
  .next (if v.getLsbD 63 then s.cvRequest v else s)

/-! ## Save and restore (R92, R93, R95) -/

/-- An entry of a tile lies in the save set: the tiles follow the scratchpad, from acc0 up (R92). -/
def Kdesc.savesEntry (k : Kdesc) (tile entry : Nat) : Bool :=
  let per := if k.pair then 256 * 128 * 12 else 128 * 128 * 12
  k.save == 0xFF || decide (k.scrt * 0x4000 + tile * per + (entry + 1) * 12 ≤ k.save * 0x4000)

/-- What a restore gives of a team's pool: bytes and entries outside the save set read zero; modes and BAD bits stay (R92). -/
def Team.keepSaved (t : Team) : Team :=
  { t with
    scratch := t.scratch.filter (fun e => decide (e.1 < t.k.savedScratch)),
    tiles := t.tiles.map (fun e => (e.1, { e.2 with entries := e.2.entries.filter (fun x => t.k.savesEntry e.1 x.1) })) }

/-- Bytes of a core's share of the context-save partition (R115). -/
def Memory.saveShare (m : Memory) : Nat :=
  let reg := (Tab.get 0 m.l2part 15).toNat
  let ones := fun (lo n : Nat) => ((List.range n).filter (fun i => reg.testBit (lo + i))).length
  ones 16 40 * 8 * ones 0 16 * 0x8000 / 384

/-- Bytes that a save writes for a team (R92), as the examples of R95 and R413 count them: its vector registers, its save set, and under
4 KiB of path and scalar state (log entry 142). -/
def Team.savedBytes (t : Team) : Nat :=
  t.k.lanes * 64 * t.k.regs + (if t.k.save = 0xFF then (t.k.scru + t.k.accu) * 0x4000 / max 1 t.k.slots else t.k.save * 0x4000)
    + Config.pathTableBytes % 4096

/-- Bytes of the share that the saved teams of a core already fill. -/
def State.shareUsed (s : State) (core : Nat) : Nat := ((s.savedTeams.filter (fun t => t.savedAt == core)).map (·.inShare)).sum

/-- CONTEXT_SAVE (R92, R94): a stopped team's state is written away, to its core's share as far as that goes and to the save area past
it, and it leaves its slot. Its accesses in flight are cancelled, to be issued again; a debug step ends first. -/
def execContextSave (core slot : Nat) (s : State) : Outcome :=
  let key := teamKey core slot
  .next (match s.team key with
    | none => s
    | some t =>
      if t.phase ≠ .saving ∨ (s.dbg.stepping.map (·.req.team)) = some t.teamId then s
      else
        let kept : Team := { t with
          phase := .saved, replays := t.replays ++ s.accessesOf t.teamId, savedAt := core,
          inShare := min t.savedBytes (s.mem.saveShare - s.shareUsed core) }
        (((s.cancelAccesses t.teamId).unseat key).keepTeam kept.keepSaved |>.settleNb t.launch t.nbh).settleVacate)

/-- A path after a restore: what it held replays, but for an access that still waits for the driver's answer (R92, R95, R134). -/
def Path.restored (p : Path) : Path := p.replay (fun h => h != .pageFault)

/-- A path after a restore with the new number of an access that is issued again. -/
def Path.renumber (old new : Nat) (p : Path) : Path :=
  { p with pendScalar := p.pendScalar.map (fun x => if x.req = old then { x with req := new } else x) }

/-- An access that is issued again stays one of those that its team has to issue. -/
def State.keepReplay (s : State) (key : Nat) (p : PendAccess) : State := s.modTeam key (fun t => { t with replays := t.replays ++ [p] })

/-- An access that is issued again is held, or in a handler taken as an error (R134, R248). -/
def State.holdReplay (s : State) (key : Nat) (t : Team) (p : PendAccess) (c : TrapClass) (h : Hold) (i : Option FaultInfo) : State :=
  let va := BitVec.ofNat 64 (p.space * 2 ^ 60 + p.va)
  if t.handler.isSome then s.trapError key p.path c p.lane va
  else (s.keepReplay key p).parkAt key p.path h (BitVec.twoPow 1024 p.lane) false i

/-- An access that a save cancelled is issued again: it translates again, as a replay does (R92, R95, R354). -/
def State.reissue (s : State) (key : Nat) (p : PendAccess) : State :=
  match s.team key with
  | none => s
  | some t =>
    let r := s.newId
    let q : PendAccess := { p with id := r.2, tkey := key }
    let renumber := fun (s : State) => s.modTeam key (fun t => t.landPath p.path (Path.renumber p.id r.2))
    if (AMap.find t.paths p.path).any (fun x => x.park.isSome) then s.keepReplay key p
    else if p.space = 3 then
      match p.again <|> p.resend with
      | some op => (renumber r.1).request q op
      | none => s
    else
      let core := if t.k.pair && decide (512 ≤ p.lane) then keyCore key + 1 else keyCore key
      match r.1.translate { core := core, asid := t.asid, host := true, va := p.va, kind := .load, lpr := none } with
      | (s, .ok a leaf) =>
        if s.locked .host a (a + p.size) true then s.holdReplay key t p .rangeLocked .rangeLocked none
        else if leafDisc leaf then s.landAccess { p with tkey := key } (List.replicate p.size 0)
        else if s.mem.badHost.contains (lineOf a) then s.trapError key p.path .uncorrectable p.lane (BitVec.ofNat 64 (4 * 2 ^ 60 + p.va))
        else (renumber s).waitHost { q with addr := a, rc := leafRc leaf, glob := leafG leaf } t.asid
      | (s, .fault c l e) =>
        s.holdReplay key t p .pageFault .pageFault (some (faultInfo .load (BitVec.ofNat 64 (4 * 2 ^ 60 + p.va)) p.lane c l e))
      | (s, .protection) => s.trapError key p.path .protection p.lane (BitVec.ofNat 64 (4 * 2 ^ 60 + p.va))
      | (s, .uncorrectable) => s.trapError key p.path .uncorrectable p.lane (BitVec.ofNat 64 (4 * 2 ^ 60 + p.va))
      | (s, .leased) => s.keepReplay key p

/-- The accesses that a team has to issue again are issued, as far as they can be. -/
def State.reissueAll (s : State) (key : Nat) : State :=
  let ps := ((s.team key).map (·.replays)).getD []
  ps.foldl (fun s p => s.reissue key p) (s.modTeam key (fun t => { t with replays := [] }))

/-- A team after a restore: its paths replay what they held, and the returns held for it arrive (R95, R202). Each path has passed the
writes of its team, which the L1 of its new core may not hold (R170). -/
def Team.restored (t : Team) : Team :=
  let back := fun (m : AMap Path) => m.map (fun e => (e.1, { e.2.restored with pts := max e.2.pts t.wT }))
  let t : Team := { t with
    phase := .running, paths := back t.paths, handler := t.handler.map (fun h => { h with saved := back h.saved }) }
  { t.heldReturns.foldl (fun (t : Team) r =>
      t.landPath r.1 (fun p => { p with jcnt := p.jcnt - 1, relT := max p.relT r.2 })) t with heldReturns := [] }

/-- CONTEXT_RESTORE (R92, R93, R95, R241, R251): a team placed again takes its state back and runs. Its cancelled accesses are issued
first, its event-queue entries return to its core as far as there is room, and a timer that came due while it was away fires before
anything else issues. What could not be issued again then is tried anew. -/
def execContextRestore (core slot : Nat) (s : State) : Outcome :=
  let key := teamKey core slot
  .next (match s.team key with
    | none => s
    | some t =>
      if t.phase = .running ∧ t.replays ≠ [] then s.reissueAll key
      else if t.phase ≠ .restoring then s
      else
        let due := decide (timersDue s t ≠ 0)
        let s := (s.modTeam key Team.restored).modTeam key (fun t => { t with inShare := 0, dueFirst := due })
        ((s.reissueAll key).refillEvents key).fireTimers key)

end Sys2Proof.Machine
end

