-- ==== Sys2Proof/Machine/Bringup.lean ====
section
/-!
DEFINITION. Bring-up, power, clocks, the management bus and firmware (R5, R9 to R18, R26, R34, R74, R75).
-/

namespace Sys2Proof.Machine

/-! ## Resets -/

/-- The device at the start of bring-up (R11, R14, R425). What lies outside it stays: the host's memory, the link, the fuses, and the
moves to come. -/
def State.restart (s : State) (p : Power) : State :=
  { State.reset with
    ctx := s.ctx, agenda := s.agenda, fresh := s.fresh, out := s.out,
    mem := { Memory.reset with host := s.mem.host },
    dev := { Dev.reset with power := p, fuseDebug := s.dev.fuseDebug, cxl := s.dev.cxl, winLog2 := s.dev.winLog2 } }

/-- POWER_ON (R11, R14): main power arrives where there was none. -/
def execPowerOn (s : State) : Outcome :=
  .next (if s.dev.power = .d3cold ∨ (s.dev.bstep = 0 ∧ s.dev.noLink = false) then s.restart .d0 else s)

/-- FUNCTION_LEVEL_RESET (R14): bring-up starts again. The wall counter counts on from power-on (R250). Without a link none
arrives. -/
def execFunctionLevelReset (s : State) : Outcome :=
  .next (if s.dev.power = .d3cold ∨ s.dev.noLink = true then s
    else { s.restart .d0 with dev := { (s.restart .d0).dev with wall := s.dev.wall } })

/-- MAIN_POWER_LOSS (R11): D3cold, where nothing is retained. -/
def execMainPowerLoss (s : State) : Outcome := .next (s.restart .d3cold)

/-! ## Bring-up (R14 to R16) -/

/-- The configuration record of the fuses (R26). -/
def Dev.fuseRecord (d : Dev) : List Byte :=
  toBytes 32 Config.fusedKeyId.toNat ++ toBytes 4 Config.fusedMinSvn.toNat ++ [if d.fuseDebug then 1 else 0]
    ++ List.replicate 27 0

/-- A firmware image of a header and a body (R74): what is wrong with it, as FWSTAT says it, or its version, digest and entry.
The body is as long as LEN says. -/
def imageCheck (h body : List Byte) : Except (BitVec 4) (Nat × BitVec 256 × Nat) :=
  let digest := Config.sm3 (h.take 64 ++ body)
  let key := BitVec.ofNat 256 (ofBytes ((h.drop 32).take 32))
  if bits 31 0 (pw h 0) ≠ 0x59465731 ∨ 0x800000 < pw h 2 ∨ h.length ≠ 128 ∨ body.length ≠ pw h 2 then .error 3
  else if key ≠ Config.fusedKeyId ∨ Config.sm2Verifies key digest (h.drop 64) = false then .error 3
  else if bits 31 0 (pw h 1) < Config.fusedMinSvn.toNat then .error 4
  else .ok (bits 63 32 (pw h 0), digest, pw h 3)

/-- The measurements of bring-up step 2 (R26, R34, R74): the boot ROM, the accepted image, and the fuses. -/
def Dev.measure (d : Dev) (ver : Nat) (digest : BitVec 256) : Dev :=
  let d := (d.extend 1 0 0 Config.romDigest).getD d
  let d := (d.extend 2 1 ver digest).getD d
  (d.extend 3 2 0 (Config.sm3 d.fuseRecord)).getD d

/-- The check of the image that the module boots from (R14, R74). -/
def bootCheck : Except (BitVec 4) (Nat × BitVec 256 × Nat) :=
  imageCheck (Config.bootImage.take 128) (Config.bootImage.drop 128)

/-- A step of bring-up that has ended well (R14, R16, R40, R74): step 2 checks the signature of the image. Step 4 begins reduced service at once; step 7 is
FULL_SERVICE_SWITCH's. -/
def State.stepDone (s : State) : State :=
  let d := s.dev
  match d.bstep with
  | 0 => { s with dev := { d with bstep := 1 } }
  | 1 =>
    match bootCheck with
    | .ok (ver, digest, _) => { s with dev := { d.measure ver digest with bstep := 2 } }
    | .error _ => { s with dev := { d with berr := 1 } }
  | 2 => { s with dev := { d with bstep := 4, svc := 1, clk0 := 8, clk1 := 8 } }
  | 4 => { s with dev := { d with bstep := 5, switching := true } }
  | 5 =>
    { s with
      dev := { d with bstep := 6 },
      fab := { s.fab with running := true, ports := 0xFFFFFF, routes := (List.range 4095).filter Config.reachable } }
  | _ => s

/-- A step of bring-up that has failed (R14): step 1 leaves no link, and the device does not enumerate. -/
def State.stepFailed (s : State) : State :=
  let fail := fun (e : Nat) => { s with dev := { s.dev with berr := e } }
  match s.dev.bstep with
  | 0 => { s with dev := { s.dev with noLink := true } }
  | 1 => fail 1
  | 2 => fail 2
  | 4 => fail 3
  | 5 => fail 4
  | _ => s

/-- BRING_UP_STEP (R14): the step in hand ends, in D0 and in D0 idle. After a failure no further step runs. -/
def execBringUpStep (ok : Bool) (s : State) : Outcome :=
  .next (if s.dev.berr ≠ 0 ∨ s.dev.noLink ∨ s.dev.dark then s else if ok then s.stepDone else s.stepFailed)

/-- A launch that the switch to full service lets finish (R16): a neighbourhood of it has been placed. One that is held, or
waits with nothing placed, is none. -/
def Launch.resident (l : Launch) : Bool := l.begun && decide (0 < l.nextNb)

/-- FULL_SERVICE_SWITCH (R14, R16): once the fabric's step has ended, no team is resident and the resident launches have
finished, the L2 is written back and full service begins. -/
def execFullServiceSwitch (s : State) : Outcome :=
  .next (if !s.dev.switching || s.dev.dark || !s.teams.isEmpty || s.sched.launches.any (fun l => l.2.resident)
      || !(s.dev.bstep == 6 || s.dev.berr == 4) then s
    else
      { s with
        dev := { s.dev with power := .d0, switching := false, bstep := 7, svc := if s.dev.berr = 4 then 3 else 2,
                            clk0 := 16, clk1 := 16 },
        mem := { s.mem with l2 := [] } })

/-! ## Power states (R11, R12) -/

/-- Work that D3hot waits for (R12): a packet or launch store not finished, a team, a version, a lock, or an acknowledgement. -/
def State.busy (s : State) : Bool :=
  s.sched.queues.any (fun q => !q.2.packets.isEmpty || q.2.qwr != q.2.qrd || q.2.inline_.isSome || q.2.rstBusy)
    || !s.sched.launches.isEmpty || !s.teams.isEmpty || !s.sched.saved.isEmpty || !s.eng.copies.isEmpty || !s.fab.colls.isEmpty
    || !s.eng.locks.isEmpty || !s.eng.pend.isEmpty || s.fab.held.any s.turnStands

/-- What the host link keeps in D3hot (R11): the configuration space with what it shows of the fuses, the service level and its
clocks, and what its own rules clear at power-on or a function-level reset alone: the measurements and their log (R34) and
the wall counter (R250). Every other register is at its reset value. -/
def Dev.asleep (d : Dev) : Dev :=
  { Dev.reset with
    power := .d3hot, bstep := d.bstep, berr := d.berr, svc := d.svc, switching := d.switching, clk0 := d.clk0, clk1 := d.clk1,
    wall := d.wall, winLog2 := d.winLog2, cxl := d.cxl, meas := d.meas, log := d.log, fuseDebug := d.fuseDebug }

/-- What the fabric keeps in D3hot (R11): the ports and routes of the service level. Its time is to be set anew, so the
device is in lease hold. -/
def Fabric.asleep (f : Fabric) (fresh : Nat) : Fabric :=
  { Fabric.reset with running := f.running, ports := f.ports, routes := f.routes, ftime := Config.ftimeAdvance fresh }

/-- D3hot (R11): DRAM is kept, with what the device keeps there, and the configuration space; nothing else is, but the task
counters, which a reset alone clears (R242). The slots, their trees, the count table and the free lists of KV space lie in DRAM
(R140, log entry 28); the KV registers do not. -/
def State.enterD3hot (s : State) : State :=
  { State.reset with
    ctx := s.ctx, agenda := s.agenda, fresh := s.fresh + 1, out := s.out,
    dev := s.dev.asleep, fab := s.fab.asleep s.fresh,
    mem := { Memory.reset with bytes := s.mem.bytes, badLines := s.mem.badLines, bias := s.mem.bias, frames := s.mem.frames,
                               host := s.mem.host },
    kv := { Kv.reset with slots := s.kv.slots, counts := s.kv.counts, free0 := s.kv.free0, free1 := s.kv.free1 },
    cores := s.cores.map (fun c => (c.1, { Core.reset with taskCtr := c.2.taskCtr })) }

/-- A D3hot request in hand completes once nothing is outstanding (R12), unless a stop holds the device in D0 (R13). -/
def State.settlePower (s : State) : State := if s.dev.d3Asked && !s.dev.halted && !s.busy then s.enterD3hot else s

/-- D3HOT_REQUEST (R11, R12): it completes at once when nothing is outstanding, and otherwise stays in hand until every item has
finished or been reported. After a thermal shutdown the device stays in D0 (R13), and so it does after a stop of the bridge (log
entry 94). -/
def execD3hotRequest (s : State) : Outcome :=
  .next (if s.dev.dark || s.dev.halted then s else { s with dev := { s.dev with d3Asked := true } }.settlePower)

/-- D0_REQUEST (R11): the device resumes at the service level it left; a request for D3hot that is still in hand is
withdrawn. -/
def execD0Request (s : State) : Outcome :=
  .next (if s.dev.power = .d3cold then s
    else if s.dev.power = .d3hot then { s with dev := { s.dev with power := .d0 } }
    else { s with dev := { s.dev with d3Asked := false } })

/-- D0_IDLE_ENTRY (R11): no team has been resident for 100 µs. -/
def execD0IdleEntry (s : State) : Outcome :=
  .next (if s.teams.isEmpty && s.dev.power == .d0 && s.dev.svc != 0 then { s with dev := { s.dev with power := .d0idle } } else s)

/-! ## Clocks and limits (R9, R10, R13) -/

/-- The highest core clock of the service level, in steps of 53.125 MHz (R8). -/
def Dev.topClock (d : Dev) : Nat := if d.svc = 1 then 8 else 16

/-- One step down, to no less than 425 MHz (R9). -/
def clockDown (c : Nat) : Nat := max 8 (c - 1)

/-- POWER_WINDOW (R10): the average of a window against the cap. -/
def execPowerWindow (watts : Nat) (s : State) : Outcome :=
  let d := s.dev
  let up := fun (c : Nat) => min d.topClock (c + 1)
  .next { s with dev :=
    if d.pcap < watts then { d with clk0 := clockDown d.clk0, clk1 := clockDown d.clk1, lowWindows := 0 }
    else if watts * 100 < d.pcap * 95 then
      (if d.lowWindows + 1 = 16 then { d with clk0 := up d.clk0, clk1 := up d.clk1, lowWindows := 0 }
       else { d with lowWindows := d.lowWindows + 1 })
    else { d with lowWindows := 0 } }

/-- THERMAL_THROTTLE (R13): one die's core clock goes down a step. -/
def execThermalThrottle (die : Nat) (s : State) : Outcome :=
  let d := s.dev
  .next { s with dev := if die = 0 then { d with clk0 := clockDown d.clk0 } else { d with clk1 := clockDown d.clk1 } }

/-- The device stops issuing, and every resident task is reported as UNCORRECTABLE (R5, R13) before any of the teams ends. With
DMPCTL.EN = 1 one core image is written for each of their ASIDs (R257). A request for D3hot in hand is dropped. -/
def State.stopAll (s : State) : State :=
  let ts := s.teams
  let s := { s with dev := { s.dev with halted := true, d3Asked := false } }
  let s := ts.foldl (fun s e => s.reportTrap e.1 e.2.firstPath .uncorrectable e.2.firstLane 0) s
  let s := (ts.map (fun e => e.2.asid)).eraseDups.foldl (fun s a =>
    s.dumpIf ((ts.filter (fun e => e.2.asid == a)).map (·.2)) a .uncorrectable) s
  ts.foldl (fun s e => s.discardTeam e.1) s

/-- A packet that has been fetched and has not ended fails (R5, R72): one that has begun a launch or a copy ends with it. -/
def Packet.struck (p : Packet) : Packet :=
  match p.st with
  | .fetched => { p with st := .ended 2 TrapClass.uncorrectable.code 0 }
  | .begun => if pktType p.bytes = 1 ∨ pktType p.bytes = 2 then p else { p with st := .ended 2 TrapClass.uncorrectable.code 0 }
  | _ => p

/-- A queue after a fault of the whole device: its packets fail, and where it had one in flight QERR says so (R61, log entry 121). -/
def Queue.struck (k : Queue) : Queue :=
  { k with
    packets := k.packets.map Packet.struck, skip := 0,
    qerr := if k.packets.any (fun p => p.st == .fetched || p.st == .begun) then 2 else k.qerr }

/-- Every item in flight completes as failed (R5, R72): fetched packets, launches that have begun, and the copies of COPY
packets. A launch that has not begun goes with its packet. -/
def State.failAll (s : State) : State :=
  let s := { s with sched := { s.sched with
    queues := s.sched.queues.map (fun (q : Nat × Queue) => (q.1, q.2.struck)),
    launches := s.sched.launches.filter (fun e => e.2.begun) } }
  let s := s.sched.launches.foldl (fun (s : State) (e : Nat × Launch) => (s.failLaunch e.1 TrapClass.uncorrectable.code 0).cancelLaunch e.1) s
  { s with eng := { s.eng with copies := s.eng.copies.map (fun (c : Copy) =>
      if c.packet.isSome then { c with failed := some (c.failed.getD .uncorrectable) } else c) } }

/-- THERMAL_SHUTDOWN (R13): nothing can run on, so what is in flight fails too (R72). -/
def execThermalShutdown (s : State) : Outcome := .next (if s.dev.dark then s else s.stopAll.failAll)

/-- BRIDGE_FLIT_FAILURE (R5): a try of the flit in hand has failed. The flit is retried, 64 times at most, and the failure of its last
retry stops the device. The count is of one flit: `Input.bridgeCarried` ends it. -/
def execBridgeFlitFailure (s : State) : Outcome :=
  let n := s.dev.bridgeRetries
  .next (if s.dev.svc ≤ 1 ∨ s.dev.dark then s
    else if n < 64 then { s with dev := { s.dev with bridgeRetries := n + 1 } }
    else s.stopAll.failAll)

/-- The power cap set, unless it lies outside 600 to 1,800 W (R10, R21). -/
def State.setCap (s : State) (watts : Nat) : State :=
  if 600 ≤ watts ∧ watts ≤ 1800 then { s with dev := { s.dev with pcap := watts } } else s

/-- PCAP_WRITE (R10, R21). -/
def execPcapWrite (v : BitVec 32) (s : State) : Outcome :=
  onLink s <| .next (s.setCap (bits 10 0 v.toNat))

/-- MGMT_BUS_REQUEST (R18): answered from the end of step 1 while main power is present. The cap and SVCSTAT go out as four bytes, the
lowest first (log entry 120). -/
def execMgmtBusRequest (r : MgmtReq) (s : State) : Outcome :=
  .next (if s.dev.bstep = 0 ∨ s.dev.power = .d3cold then s
    else
      match r with
      | .temperatures => s.tick.emit (.mgmt (Config.sensors (2 * s.fresh)))
      | .power => s.tick.emit (.mgmt (Config.sensors (2 * s.fresh + 1)))
      | .readCap => s.emit (.mgmt (toBytes 4 s.dev.pcap))
      | .writeCap watts => s.setCap watts
      | .svcstat => s.emit (.mgmt (toBytes 4 s.dev.svcstat))
      | .certificate => s.emit (.mgmt Config.certificate))

/-! ## Firmware (R74, R75) -/

/-- A firmware image read at an address of device memory (R74, R75). -/
def State.checkImage (s : State) (a : Nat) : Except (BitVec 4) (Nat × BitVec 256 × Nat) :=
  let h := s.readPa a 128
  if 0x800000 < pw h 2 ∨ s.dev.limit < a + 128 + pw h 2 then .error 3 else imageCheck h (s.readPa (a + 128) (pw h 2))

/-- A queue processor restarts at an address. -/
def Hart.restart (h : Hart) (pc : Nat) : Hart := { Hart.reset with pc := BitVec.ofNat 64 pc, sram := h.sram }

/-- RUNTIME_FIRMWARE_LOAD (R75). -/
def execRuntimeFirmwareLoad (v : BitVec 32) (s : State) : Outcome :=
  onLink s <|
  let stat := fun (x : BitVec 4) => { s with dev := { s.dev with fwstat := x } }
  .next (if v.getLsbD 0 = false then s
    else if s.sched.queues.any (fun q => qctlEn q.2) ∨ s.teams.isEmpty = false then stat 6
    else
      match s.checkImage s.dev.fwaddr.toNat with
      | .error e => stat e
      | .ok (ver, digest, entry) =>
        match s.dev.extend 4 3 ver digest with
        | none => stat 5
        | some d =>
          let body := s.dev.fwaddr.toNat + 128
          { s with
            dev := { d with fwstat := 2, fwImage := body },
            sched := { s.sched with harts := s.sched.harts.map (fun h => (h.1, h.2.restart (body + entry))) } })

end Sys2Proof.Machine
end

