-- ==== Sys2Proof/Machine/Control.lean ====
section
/-!
DEFINITION. Branches, jumps, clauses, divergence and the end of a path (R191 to R202, R298 to R304, R381).
-/

namespace Sys2Proof.Machine

/-! ## Branches and jumps (R298, R299) -/

/-- The trap of a branch or jump target, in the order of R299. -/
def targetTrap (t : Word64) : Option TrapClass :=
  if field t 52 12 ≠ 0 then some .badSpace else if field t 0 2 ≠ 0 then some .misaligned else none

/-- The path goes to a target, after its tests; `f` is what else the jump writes (R299). -/
def jumpTo (s : State) (w : Who) (t : Word64) (f : Path → Path := id) : State :=
  match targetTrap t with
  | some c => trapScalar s w c t
  | none => s.onPath w (fun p => (f p).goto t)

/-- An offset in 4-byte units (R264). -/
def wordOff {n : Nat} (off : BitVec n) : Word64 := simm off * 4

/-- A conditional branch (R298). -/
def branch (s : State) (sa sb : Reg6) (off : BitVec 13) (cond : Word64 → Word64 → Bool) : Outcome :=
  scalarOp s false [sa, sb] fun w =>
    if cond (w.path.s sa) (w.path.s sb) then jumpTo s w (w.path.spc + wordOff off) else s.onPath w Path.next

/-- BEQ (R298). -/
def execBeq (sa sb : Reg6) (off : BitVec 13) (s : State) : Outcome := branch s sa sb off fun a b => a == b

/-- BNE (R298). -/
def execBne (sa sb : Reg6) (off : BitVec 13) (s : State) : Outcome := branch s sa sb off fun a b => a != b

/-- BLT (R298). -/
def execBlt (sa sb : Reg6) (off : BitVec 13) (s : State) : Outcome := branch s sa sb off fun a b => a.slt b

/-- BGE (R298). -/
def execBge (sa sb : Reg6) (off : BitVec 13) (s : State) : Outcome := branch s sa sb off fun a b => !a.slt b

/-- BLTU (R298). -/
def execBltu (sa sb : Reg6) (off : BitVec 13) (s : State) : Outcome := branch s sa sb off fun a b => a.ult b

/-- BGEU (R298). -/
def execBgeu (sa sb : Reg6) (off : BitVec 13) (s : State) : Outcome := branch s sa sb off fun a b => !a.ult b

/-- J (R299). -/
def execJ (off : BitVec 25) (s : State) : Outcome :=
  scalarOp s false [] fun w => jumpTo s w (w.path.spc + wordOff off)

/-- CALL saves the return address in s63 (R299). -/
def execCall (off : BitVec 25) (s : State) : Outcome :=
  scalarOp s false [63] fun w => jumpTo s w (w.path.spc + wordOff off) (fun p => p.setS 63 (w.path.spc + 4))

/-- JR reads sa before it writes sd (R299). -/
def execJr (sd sa : Reg6) (imm : BitVec 13) (s : State) : Outcome :=
  scalarOp s false [sd, sa] fun w =>
    jumpTo s w (w.path.s sa + simm imm) (fun p => p.setS sd (w.path.spc + 4))

/-! ## Clauses and flags (R191, R192, R300, R301) -/

/-- The scalar register that a lane instruction writes (R193, R330, R363). -/
def laneScalarDest : Instr → Option Nat
  | .vballot f => some (f.vd.toNat % 64)
  | .mstat f => some (f.vd.toNat % 64)
  | _ => none

/-- Consecutive lane words in bytes. -/
def laneWords : Nat → List Byte → List (BitVec 96)
  | 0, _ => []
  | n + 1, b => BitVec.ofNat 96 (ofBytes (b.take 12)) :: laneWords n (b.drop 12)

/-- The number of lane words that follow a header (R270). -/
def headerCount (b : List Byte) : Nat := bits 13 10 (ofBytes (b.take 4)) + 1

/-- The clause that LC captures: mask, `fmt`, and the snapshot of the registers its instructions name (R191). -/
def captureClause (p : Path) (addr : BitVec 64) (h : Header) (body : List (BitVec 96)) : Clause :=
  { id := p.nextClause, addr := addr, wait := h.wait, setA := h.setA, setB := h.setB, body := body, pos := 0,
    mask := p.mask, fmt := p.fmt,
    snap := body.foldl (fun m x => Tab.set 0 (laneFields x).ss.toNat (p.s (laneFields x).ss) m) [],
    dests := body.filterMap (fun x => laneScalarDest (decodeLane x)), pend := 0, only := none, stopped := false,
    watched := [], sent := none }

/-- LC (R300): it waits while the queue is full, fetches header and body, checks the header (R192), waits for the
snapshot's registers, and appends the clause. -/
def execLc (off : BitVec 25) (s : State) : Outcome :=
  withIssuer s fun w =>
    if 4 ≤ w.path.queue.length then waitFor s w .clauseQueue
    else
      let addr := w.team.k.lbase + BitVec.zeroExtend 64 off * 4
      match s.fetchWords w addr.toNat 3 with
      | (s, .bytes hb) =>
        match s.fetchWords w (addr.toNat + 12) (3 * headerCount hb) with
        | (s, .bytes bb) =>
          match decodeHeader (BitVec.ofNat 96 (ofBytes hb)) with
          | .error .notHeader => trapScalar s w .illegalOpcode
          | .error .reserved => trapScalar s w .reservedField
          | .ok h =>
            let body := laneWords h.count bb
            let ss := body.map (fun x => (laneFields x).ss.toNat)
            if ss.any w.path.marked then waitFor s w (.scoreboard ss)
            else s.onPath w (fun p =>
              { p.next with queue := p.queue ++ [captureClause p addr h body], nextClause := p.nextClause + 1 })
        | (s, e) => s.fetchFailed w e
      | (s, e) => s.fetchFailed w e

/-- WAITF (R301). -/
def execWaitf (sd sa : Reg6) (imm : BitVec 13) (s : State) : Outcome :=
  scalarOp s (sd != 0 || sa != 0 || imm.getLsbD 12 || imm == 0) [] fun w =>
    let m : BitVec 12 := field imm 0 12
    if w.path.flagsClear m then s.onPath w Path.next else waitFor s w (.flags m)

/-! ## Divergence (R197, R198, R302) -/

/-- The lowest free entry of the path table (R196). -/
def Team.freePath (t : Team) : Option Nat := AMap.freeBelow t.paths 8

/-- The path that SPLIT makes of the lanes of T (R197). -/
def Path.child (p : Path) (parent : Nat) (t : Mask) (target join : Word64) : Path :=
  { Path.start target t p.fmt p.pts with rpc := some join, parent := some parent, sregs := p.sregs, tableOld := p.tableOld }

/-- The lanes of an ejecting SPLIT that are still to go are written to slots, and then placed in a bin (R198, steps 3 to 5). -/
def ejectRest (s : State) (w : Who) (ts : List Nat) (live : BitVec 256) (target join : Word64) : State :=
  let left := ts.filter (fun l => !(w.path.ejPart.getD []).any (fun e => e.lane == l))
  match s.ejectLanes w join live left with
  | .done s => s.ejectFinish w target ts
  | .wait s => waitFor s w .contSlot
  | .held s h i => s.parkAt w.key w.pi h 0 false i
  | .later s => waitFor s w .lease
  | .trap s c => trapScalar s w c

/-- An ejecting SPLIT (R198, R199): the descriptor is checked and the version commits, once; one that waits goes on with the live set
that it checked. -/
def ejectSplit (s : State) (w : Who) (ts : List Nat) (target join : Word64) : State :=
  if w.path.ejPart.isSome then ejectRest s w ts w.path.ejLive target join
  else
    match s.fetchWords w (target - 36).toNat 9 with
    | (s, .trap .uncorrectable) => trapScalar s w .uncorrectable
    | (s, .trap _) => trapScalar s w .reservedField
    | (s, .held i) => s.parkAt w.key w.pi .pageFault 0 false (some i)
    | (s, .later) => waitFor s w .lease
    | (s, .bytes b) =>
      match liveSet b w.team.vcount with
      | none => trapScalar s w .reservedField
      | some live =>
        if s.commitBlocked w.key then waitFor s w .commit
        else
          ejectRest ((s.commitRelease w.key w.pi).onPath w (fun p => { p with ejPart := some [], ejLive := live })) w ts live target join

/-- SPLIT (R197, R302). -/
def execSplit (pn : BitVec 3) (toff joff : BitVec 11) (s : State) : Outcome :=
  withIssuer s fun w =>
    let target := w.path.spc + wordOff toff
    let join := w.path.spc + wordOff joff
    if w.team.handler.isSome then trapScalar s w .reservedField
    else if field target 52 12 ≠ 0 then trapScalar s w .badSpace target
    else if field join 52 12 ≠ 0 then trapScalar s w .badSpace join
    else if !w.path.idle || !w.path.pendScalar.isEmpty then waitFor s w .split
    else
      let lanes := lanesOf w.path.mask w.team.k.lanes
      let ts := lanes.filter (fun l => w.team.p l pn.toNat)
      let fs := lanes.filter (fun l => !w.team.p l pn.toNat)
      if ts = [] then s.onPath w Path.next
      else if fs = [] then s.onPath w (fun p => p.goto target)
      else
        if w.path.ejPart.isSome then ejectSplit s w ts target join
        else match w.team.freePath with
        | none => if w.team.k.spsl = 0 then trapScalar s w .reservedField else ejectSplit s w ts target join
        | some c =>
          if ts.length < w.team.k.ejt ∧ w.team.k.spsl ≠ 0 then ejectSplit s w ts target join
          else
            s.modTeam w.key (fun t =>
              (t.modPath w.pi (fun p => { p.next with mask := maskOf fs, jcnt := p.jcnt + 1 })).setPath c
                (w.path.child w.pi (maskOf ts) target join))

/-! ## JOIN and END (R202, R303, R381) -/

/-- Ejected lanes take their records back (R202, case 1), lane by lane. -/
def State.reloadLanes (s : State) (w : Who) : List EjLane → ReturnEnd
  | [] => .done s
  | e :: es =>
    match s.span w.core w.team.asid e.lane .load (contAddr w.team.k e.slot) 1088 with
    | (s, .held h f) => .held s h f
    | (s, .later) => .later s
    | (s, .err c) => .trap s c
    | (s, .ok m) =>
      let s := s.modTeam w.key (fun t =>
        let t := t.loadRecord s m e.lane e.live
        { (t.modPath w.pi (fun p =>
            { p with mask := p.mask ||| BitVec.twoPow 1024 e.lane, ejm := p.ejm &&& ~~~(BitVec.twoPow 1024 e.lane),
                     ejSlots := p.ejSlots.filter (fun x => x.lane != e.lane) })) with
          vbar := Tab.set 0 e.lane t.vbarGen t.vbar, nbar := Tab.set 0 e.lane t.nbarGen t.nbar })
      let s := s.modLaunch w.team.launch (fun l => { l with contSlots := l.contSlots.erase e.slot })
      State.reloadLanes s w es

/-- Continuation lanes return, and then the path goes on, ends, or ends its team (R202, case 3). -/
def returnAll (s : State) (w : Who) (lanes : List Nat) (fin : State → State) : State :=
  if lanes.isEmpty then fin s
  else if s.commitBlocked w.key then waitFor s w .commit
  else
    match (s.commitRelease w.key w.pi).returnLanes w lanes with
    | .done s => fin s
    | .held s h i => s.parkAt w.key w.pi h 0 false i
    | .later s => waitFor s w .lease
    | .trap s c => trapScalar s w c

/-- A path ends here; the end of the last one commits the version, which waits for leases (R46, R381). -/
def endHere (s : State) (w : Who) : State :=
  let last := decide (((s.team w.key).map (fun t => t.paths.length)).getD 0 ≤ 1)
  if last ∧ s.commitBlocked w.key then waitFor s w .commit else s.endPathAt w.key w.pi

/-- JOIN (R202, R303). -/
def execJoin (sd sa sb : Reg6) (s : State) : Outcome :=
  withIssuer s fun w =>
    if sd ≠ 0 ∨ sa ≠ 0 ∨ sb ≠ 0 ∨ w.team.handler.isSome then trapScalar s w .reservedField
    else if !w.path.idle || w.path.jcnt != 0 || !w.path.pendScalar.isEmpty then waitFor s w .join
    else
      let mine := w.path.ejSlots.filter (fun e => e.join == w.path.spc)
      if mine ≠ [] then
        match s.reloadLanes w mine with
        | .done s => s.onPath w (fun p => { p.next with pts := max p.pts p.relT, relT := 0 })
        | .held s h i => s.parkAt w.key w.pi h 0 false i
        | .later s => waitFor s w .lease
        | .trap s c => trapScalar s w c
      else
        match (if w.path.rpc = some w.path.spc then w.path.parent else none) with
        | some q => s.joinParent w.key w.pi w.path q
        | none =>
          let back := (lanesOf w.path.mask w.team.k.lanes).filter (fun l =>
            match AMap.find w.team.contLanes l with
            | some c => c.jpc == w.path.spc
            | none => false)
          returnAll s w back fun s =>
            if ((s.path w.key w.pi).map (·.mask)).getD 0 = 0 then endHere s w else s.onPath w Path.next

/-- END (R381). -/
def execEndPath (sd sa sb : Reg6) (s : State) : Outcome :=
  withIssuer s fun w =>
    if sd ≠ 0 ∨ sa ≠ 0 ∨ sb ≠ 0 ∨ w.team.handler.isSome then trapScalar s w .reservedField
    else if !w.path.idle || w.path.jcnt != 0 || !w.path.pendScalar.isEmpty then waitFor s w .endPath
    else
      let back := (lanesOf w.path.mask w.team.k.lanes).filter (fun l => (AMap.find w.team.contLanes l).isSome)
      returnAll s w back fun s => endHere s w

/-! ## SPAWN (R304) -/

/-- SPAWN (R304): a release at device scope, and then the lanes enter a bin of the core. -/
def execSpawn (sd sa sb : Reg6) (s : State) : Outcome :=
  scalarOp s (sd != 0) ([sa, sb, 1, 2, 3, 4]) fun w =>
    let e := w.path.s sa
    let b := w.path.s sb
    let n := (field b 0 11).toNat
    if w.team.handler.isSome ∨ w.team.k.spsl = 0 then trapScalar s w .reservedField
    else if field b 11 21 ≠ 0 ∨ n = 0 ∨ 1024 < n then trapScalar s w .reservedField
    else if field e 52 12 ≠ 0 then trapScalar s w .badSpace e
    else if field e 0 2 ≠ 0 then trapScalar s w .misaligned e
    else if !(s.inFlight w false).isEmpty then waitFor s w .fence
    else if s.commitBlocked w.key then waitFor s w .commit
    else
      let s := (s.commitRelease w.key w.pi).onPath w Path.next
      s.binLanes w.core { launch := w.team.launch, entry := e, frame := w.path.frame, asid := w.team.asid }
        w.team.k.lanes ((List.range n).map (fun i => .spawned (field b 32 32 + BitVec.ofNat 32 i)))

end Sys2Proof.Machine
end

