-- ==== Sys2Proof/Machine/System.lean ====
section
/-!
DEFINITION. The system instructions of the scalar stream: control registers (R315, R382), the event queue (R305), the format
register (R306), commits (R307), ring slots (R379), and events, handlers and progress (R248, R256, R380).
-/

namespace Sys2Proof.Machine

/-! ## Control registers (R315, R382) -/

/-- The number of a control register. -/
def crNumber (imm : BitVec 13) : Nat := imm.toNat

/-- The handler register that a path reads: zero outside a handler (R248, R315). -/
def Team.handlerReg (t : Team) (f : Handler → Word64) : Word64 := (t.handler.map f).getD 0

/-- The value of a control register other than the counters, or none for a number with nothing to read. -/
def crValue (s : State) (w : Who) (n : Nat) : Option Word64 :=
  let t := w.team
  match n with
  | 0x000 => some (BitVec.setWidth 64 t.taskId)
  | 0x001 => some (BitVec.setWidth 64 t.teamId)
  | 0x002 => some (BitVec.ofNat 64 w.pi)
  | 0x003 => some (BitVec.ofNat 64 w.core)
  | 0x004 => some (BitVec.ofNat 64 w.path.active)
  | 0x005 => some (BitVec.ofNat 64 t.asid)
  | 0x006 => some (BitVec.ofNat 64 ((if t.taint then 1 else 0) + (if t.ecom then 2 else 0) + (if t.late then 4 else 0)))
  | 0x012 => some t.tcmp
  | 0x013 => some t.tdln
  | 0x020 => some t.tvec
  | 0x021 => some (t.handlerReg (·.cause))
  | 0x022 => some (t.handlerReg (·.epc))
  | 0x023 => some (t.handlerReg (·.elc))
  | 0x024 => some (t.handlerReg (·.va))
  | 0x025 => some (t.handlerReg (·.task))
  | 0x100 => some (BitVec.ofNat 64 s.dev.svcstat)
  | 0x101 => some (BitVec.ofNat 64 (s.kv.stat false))
  | 0x108 => some (BitVec.setWidth 64 t.tnasid)
  | 0x143 => some (BitVec.setWidth 64 s.dbg.dres)
  | n => if 0x110 ≤ n ∧ n ≤ 0x11F then some (Tab.get 0 s.dbg.pcnt (n - 0x110)) else none

/-- A privileged register from a team that may not reach it (R382). -/
def crProtected (w : Who) (n : Nat) : Bool := decide (0x100 ≤ n) && decide (n < 0x1000) && w.team.asid != 0

/-- The counters whose reads are journalled: CCYC, WALL and FTIME (R250, R258, R315). -/
def isCounter (n : Nat) : Bool := n == 0x010 || n == 0x011 || n == 0x014

/-- A counter's value. -/
def counterValue (s : State) (key n : Nat) : Word64 :=
  if n = 0x010 then ((s.team key).map (·.ccyc)).getD 0
  else if n = 0x011 then s.dev.wall
  else if s.fabricRuns then s.fab.ftime else 0

/-- Time passes before a counter is read: WALL, fabric time and the team's CCYC go on by an amount that no program
chooses. -/
def State.beforeCounter (s : State) (key : Nat) : State :=
  s.passTime.modTeam key (fun t => { t with ccyc := t.ccyc + 1 + Config.cycleAdvance s.fresh })

/-- The payload of a KIND 4 record: team identifier and value (R258). -/
def counterRecord (team : BitVec 32) (v : Word64) : List Byte := toBytes 4 team.toNat ++ toBytes 8 v.toNat

/-- A read of a counter: recorded in the journal, or returned from it in a replay (R258, R259). -/
def readCounter (s : State) (w : Who) (sd : Reg6) (n : Nat) : State :=
  if s.journalFull 12 then waitFor s w .timeout
  else
    let s := s.beforeCounter w.key
    let v := counterValue s w.key n
    let mode := bits 1 0 s.dbg.jctl.toNat
    if mode = 2 then
      match s.nextRecord (fun k d => k == 4 && ofBytes (d.take 4) == w.team.teamId.toNat) with
      | some (i, d) => writeNext (s.takeRecord i) w sd (BitVec.ofNat 64 (ofBytes ((d.drop 4).take 8)))
      | none => writeNext s w sd v
    else writeNext (s.journal 4 (counterRecord w.team.teamId v)) w sd v

/-- CRR (R315, R382). -/
def execCrr (sd sa : Reg6) (imm : BitVec 13) (s : State) : Outcome :=
  scalarOp s (sa != 0) [sd] fun w =>
    let n := crNumber imm
    if crProtected w n then trapScalar s w .protection
    else if isCounter n then readCounter s w sd n
    else
      match crValue s w n with
      | none => trapScalar s w .reservedField
      | some v => writeNext s w sd v

/-- The path waits at a CRW whose debug step is in hand. -/
def State.stepOfWriter (s : State) (w : Who) : Bool :=
  match s.dbg.stepping with
  | some d => d.byPath == some (w.key, w.pi) && w.path.wait == some .stepping
  | none => false

/-- A CRW to DHOLD, DRESUME or DSTEP has its DCODE (R382). -/
def debugDone (s : State) (w : Who) (code : Nat) : State :=
  { s with dbg := { s.dbg with dres := BitVec.ofNat 8 code } }.onPath w Path.next

/-- A CRW to DHOLD, DRESUME or DSTEP (R382): the issuing team's own paths give DCODE 5, and the rest is as HOLD, RESUME and
STEP. -/
def debugWrite (s : State) (w : Who) (n : Nat) (v : Word64) : State :=
  let team : BitVec 32 := field v 0 32
  let path := (field v 32 4).toNat
  if field v 36 28 ≠ 0 ∨ (8 ≤ path ∧ path ≠ 15) then trapScalar s w .reservedField
  else if team = w.team.teamId then debugDone s w 5
  else if n = 0x140 then
    match s.holdPaths team path with
    | (s, c) => debugDone s w c
  else if n = 0x141 then
    match s.resumePaths team path with
    | (s, c) => debugDone s w c
  else
    let r : DebugReq := { cmd := 7, asid := s.dbg.attached.getD 0, path := field v 32 4, idx := 0, team := team, arg0 := 0,
                          data := [] }
    match s.beginStep r (some (w.key, w.pi)) with
    | .error c => debugDone s w c
    | .ok s1 => if s.dbg.stepping.isSome then waitFor s w .timeout else waitFor s1 w .stepping

/-- A CRW to a register that takes writes (R248, R250, R315, R382). -/
def writeControl (s : State) (w : Who) (n : Nat) (v : Word64) : State :=
  let put := fun (f : Team → Team) => (s.modTeam w.key f).onPath w Path.next
  if n = 0x012 then put (fun t => { t with tcmp := v })
  else if n = 0x013 then put (fun t => { t with tdln := v })
  else if n = 0x020 then
    (if field v 0 2 ≠ 0 then trapScalar s w .reservedField else put (fun t => { t with tvec := v }))
  else if n = 0x022 then
    match w.team.handler with
    | none => trapScalar s w .reservedField
    | some h =>
      if h.cause.getLsbD 16 then trapScalar s w .reservedField
      else put (fun t => { t with handler := t.handler.map (fun h => { h with epc := v }) })
  else if n = 0x108 then
    (if field v 12 52 ≠ 0 then trapScalar s w .reservedField else put (fun t => { t with tnasid := field v 0 12 }))
  else if 0x110 ≤ n ∧ n ≤ 0x11F then
    { s with dbg := { s.dbg with pcnt := Tab.set 0 (n - 0x110) v s.dbg.pcnt } }.onPath w Path.next
  else if 0x140 ≤ n ∧ n ≤ 0x142 then debugWrite s w n v
  else trapScalar s w .reservedField

/-- CRW (R315, R382). -/
def execCrw (sd sa : Reg6) (imm : BitVec 13) (s : State) : Outcome :=
  scalarOp s (sd != 0) [sa] fun w =>
    let n := crNumber imm
    if crProtected w n then trapScalar s w .protection
    else if s.stepOfWriter w then waitFor s w .stepping
    else writeControl s w n (w.path.s sa)

/-! ## Events, formats and commits (R305 to R307) -/

/-- EVPOP (R305): the oldest entry of the issuing team, or 0. It acquires at the scope of its record (R426). -/
def execEvpop (sd sa sb : Reg6) (s : State) : Outcome :=
  scalarOp s (sa != 0 || sb != 0) [sd] fun w =>
    let s := s.refillEvents w.key
    match (s.core w.core).evq.find? (fun e => e.teamId == w.team.teamId) with
    | none => writeNext s w sd 0
    | some e =>
      let s := (s.modCore w.core (fun c => { c with evq := c.evq.erase e })).acquireT w.key w.pi e.rel
      writeNext s w sd e.word

/-- The value of SETFMT is refused (R306). -/
def fmtRefused (v : Word64) : Bool :=
  field v 32 32 != 0 || decide (4 < (field v 12 3).toNat) || field v 0 4 == 15 || field v 4 4 == 15 || field v 8 4 == 15

/-- SETFMT (R306). -/
def execSetfmt (sd sa sb : Reg6) (s : State) : Outcome :=
  scalarOp s (sb != 0) [sd, sa] fun w =>
    let v := w.path.s sa
    if fmtRefused v then trapScalar s w .reservedField
    else s.onPath w (fun p => ({ p with fmt := field v 0 32 }.setS sd (BitVec.setWidth 64 w.path.fmt)).next)

/-- VCOMMIT (R176, R307). -/
def execVcommit (sd sa sb : Reg6) (s : State) : Outcome :=
  scalarOp s (sd != 0 || sa != 0 || sb != 0) [] fun w =>
    if !w.path.idle then waitFor s w .fence
    else if s.commitBlocked w.key then waitFor s w .commit
    else (s.commit w.key w.pi).onPath w Path.next

/-! ## Ring slots (R379) -/

/-- The read of a ring object: one strong 16-byte load, an acquire at nb scope. -/
def ringAcc (a : Word64) : Acc :=
  { kind := .load, addr := a, size := 16, ord := 1, scope := 1, strong := true, hint := 0, lane := none, uniform := false,
    tableOk := false }

/-- RINGADV (R379): it waits until the entry's slot is behind the commit frontier. -/
def execRingadv (sd sa sb : Reg6) (s : State) : Outcome :=
  scalarOp s false [sd, sa, sb] fun w =>
    let a := w.path.s sa
    let n := (w.path.s sb).toNat
    if spaceOf a ≠ 6 then trapScalar s w .badSpace a
    else
      scalarAccess s w (ringAcc a) fun s t =>
        match s.performLoad w (ringAcc a) t .nothing with
        | (s, none) => s
        | (s, some b) =>
          let front := ofBytes (b.take 8)
          let size := ofBytes ((b.drop 8).take 4)
          let win := ofBytes ((b.drop 12).take 4)
          if size = 0 ∨ 2 ^ 24 < size ∨ win = 0 ∨ size < win then trapScalar s w .reservedField
          else if (n + win) % 2 ^ 64 ≤ (front + size) % 2 ^ 64 then writeNext s w sd (BitVec.ofNat 64 (n % size))
          else waitFor s w .ringadv

/-! ## Events of a program (R248, R256, R380) -/

/-- An event that a scalar instruction raises, delivered under R248; it interrupts the clause that the path runs. Its commit waits for
leases. -/
def raiseEvent (s : State) (w : Who) (cls : TrapClass) (info : Nat) : State :=
  let stops := decide (s.dbg.attached = some (BitVec.ofNat 12 w.team.asid))
  if !stops && w.team.handler.isNone && s.commitBlocked w.key then waitFor s w .commit
  else
    s.trapEvent w.key w.pi
      { cls := cls, info := info, epc := w.path.spc + 4, elc := (w.path.run.map Clause.laneAddr).getD 0, va := 0,
        mask := w.path.mask, lane := false }

/-- TRAP (R380). -/
def execTrap (sd sa sb : Reg6) (s : State) : Outcome :=
  scalarOp s (sd != 0 || sb != 0) [sa] fun w => raiseEvent s w .trap (field (w.path.s sa) 0 8).toNat

/-- BRK (R380). -/
def execBrk (sd sa sb : Reg6) (s : State) : Outcome :=
  scalarOp s (sd != 0 || sa != 0 || sb != 0) [] fun w => raiseEvent s w .breakpoint 0xFF

/-- The clauses that a handler has enqueued have completed: it numbers them from the block's next clause on. -/
def Handler.clausesDone (h : Handler) (p : Path) : Bool :=
  let first := ((AMap.find h.saved h.path).map (·.nextClause)).getD 0
  p.ended && p.done.all (fun c => decide (c.id < first))

/-- ERET (R248, R380). -/
def execEret (sd sa sb : Reg6) (s : State) : Outcome :=
  scalarOp s (sd != 0 || sa != 0 || sb != 0) [] fun w =>
    match w.team.handler with
    | none => trapScalar s w .reservedField
    | some h =>
      if field h.epc 0 2 ≠ 0 then trapScalar s w .misaligned h.epc
      else if !h.clausesDone w.path then waitFor s w .fence
      else s.modTeam w.key (fun t => t.leaveHandler h)

/-- PROG (R256, R380): the sa field is a number. -/
def execProg (sd sa sb : Reg6) (s : State) : Outcome :=
  scalarOp s (sd != 0 || sb != 0 || decide (16 ≤ sa.toNat)) [] fun w =>
    let ctl := s.dbg.cxctl.toNat
    let s := if ctl % 2 = 1 ∧ bits 63 52 ctl = w.team.asid then
        { s with dbg := { s.dbg with pcnt := Tab.set 0 sa.toNat (Tab.get 0 s.dbg.pcnt sa.toNat + 1) s.dbg.pcnt } }
      else s
    s.onPath w Path.next

end Sys2Proof.Machine
end

