-- ==== Sys2Proof/Machine/DebugEvents.lean ====
section
/-!
DEFINITION. Timers (R251), the debug mailbox (R25, R26, R252 to R255, R419, R420), causal trials (R256), core dumps (R257), and the
journal's control and replay (R258 to R260).
-/

namespace Sys2Proof.Machine

/-! ## Timers (R251) -/

/-- The TIMER event of a team, when one of its registers, named by a bit of the due set, is due. -/
def State.timerEvent (s : State) (core slot bit : Nat) : State :=
  match s.team (teamKey core slot) with
  | none => s
  | some t => if (timersDue s t).testBit bit then s.fireTimers (teamKey core slot) else s

/-- CONTEXT_TIMER_EXPIRY (R251). -/
def execContextTimerExpiry (core slot : Nat) (s : State) : Outcome := .next (s.timerEvent core slot 0)

/-- WALL_DEADLINE_EXPIRY (R251). -/
def execWallDeadlineExpiry (core slot : Nat) (s : State) : Outcome := .next (s.timerEvent core slot 1)

/-! ## Dumps, trials and the journal -/

/-- DMPSTAT_WRITE (R260): writing 0 clears it. -/
def execDmpstatWrite (v : BitVec 64) (s : State) : Outcome :=
  onLink s <|
  .next (if v = 0 then { s with dbg := { s.dbg with dmpstat := 0 } } else s)

/-- Every path of some, with a trial's count at its start (R256). -/
def freshTrial (m : AMap Path) : AMap Path := m.map (fun e => (e.1, { e.2 with cxCount := 0 }))

/-- A team whose paths count from the start of a trial. -/
def Team.freshTrial (t : Team) : Team :=
  { t with paths := Sys2Proof.Machine.freshTrial t.paths,
           handler := t.handler.map (fun h => { h with saved := Sys2Proof.Machine.freshTrial h.saved }) }

/-- A write of CXCTL that sets EN begins a trial: every path counts from its start (R256). -/
def State.newTrial (s : State) (v : BitVec 64) : State :=
  if v.getLsbD 0 then
    { s with
      teams := s.teams.map (fun e => (e.1, e.2.freshTrial)),
      sched := { s.sched with saved := s.sched.saved.map (fun e => (e.1, e.2.1, e.2.2.map Team.freshTrial)) } }
  else s

/-- CXCTL_WRITE (R256): reserved bits read zero, and CXDLY is cleared when EN is set. -/
def execCxctlWrite (v : BitVec 64) (s : State) : Outcome :=
  onLink s <|
  .next ({ s with dbg := { s.dbg with
    cxctl := v &&& 0xFFF0_FFFF_0000_FF01#64, cxdly := if v.getLsbD 0 then 0 else s.dbg.cxdly } }.newTrial v)

/-- A value that leaves JCTL unchanged (R260). -/
def jctlRefused (v : BitVec 32) : Bool :=
  bits 1 0 v.toNat == 3 || decide (bits 12 8 v.toNat < 12) || decide (30 < bits 12 8 v.toNat)

/-- A write of JCTL (R258 to R260): a change of MODE starts a journal, or a replay, from its first record. -/
def State.writeJctl (s : State) (v : BitVec 32) : State :=
  if jctlRefused v then s
  else
    let new := bits 1 0 v.toNat
    let s1 := { s with dbg := { s.dbg with jctl := v &&& 0x1F03#32 } }
    if new = bits 1 0 s.dbg.jctl.toNat ∨ new = 0 then s1
    else { s1 with dbg := { s1.dbg with jpos := 0, jtaken := [], jcount := 0 } }

/-- JOURNAL_RECORD (R258): a write of JCTL, which starts recording with MODE = 1. -/
def execJournalRecord (v : BitVec 32) (s : State) : Outcome :=
  onLink s <| .next (s.writeJctl v).performHeld

/-- A recorded launch packet enters its queue as an accepted launch store does, with the SEQ that the queue expects (R259,
R64). It waits while the queue has no space. -/
def State.replayLaunch (s : State) (i : Nat) (d : List Byte) : State :=
  let q := ofBytes (d.take 4)
  let k := s.queue q
  let b := d.drop 4
  let w0 := bits 15 0 (pw b 0) + 2 ^ 16 + k.qwr.toNat * 2 ^ 32
  let b := toBytes 8 w0 ++ b.drop 8
  let t : LaunchTlp := { off := 0, len := 64, tlps := 1, allBe := true, data := BitVec.ofNat 512 (ofBytes b) }
  if launchAccepted k t ∧ s.ringHeld (viewOf s.dev (ringEntry k k.qwr)) = false then
    let s := (s.viewWrite (server q) (viewOf s.dev (ringEntry k k.qwr)) b).takeRecord i
    s.modQueue q (fun k => { k with inline_ := some (k.qwr, b), qwr := k.qwr + 1 })
  else s

/-- Recorded host data is checked against its digest and written: a mismatch stops the replay with ERR (R259). -/
def State.replayData (s : State) (i : Nat) (d : List Byte) : State :=
  let bs := (d.drop 48).take (ofBytes ((d.drop 8).take 8))
  if (Config.sm3 bs).toNat ≠ ofBytes ((d.drop 16).take 32) then
    { s with dbg := { s.dbg with jerr := true, jctl := s.dbg.jctl &&& 0x1F00#32 } }
  else (s.takeRecord i).deviceWrite (ofBytes (d.take 8)) bs

/-- A replay takes its next launch or host data, in order (R259). -/
def State.replayNext (s : State) : State :=
  match s.nextRecord (fun k _ => k == 1 || k == 3) with
  | none => s
  | some (i, d) =>
    if (s.nextRecord (fun k _ => k == 1)).any (fun r => r.1 == i) then s.replayLaunch i d else s.replayData i d

/-- JOURNAL_REPLAY (R259, R260): a write of JCTL with MODE = 2 starts a replay, or changes the ring of one that runs; while one runs,
the event is its next launch or host data. -/
def execJournalReplay (v : BitVec 32) (s : State) : Outcome :=
  onLink s <|
  let s1 := if s.dbg.replaying ∧ bits 1 0 v.toNat ≠ 2 then s else (s.writeJctl v).performHeld
  .next (if s1.dbg.replaying then s1.replayNext else s1)

/-! ## The mailbox -/

/-- A request reaches the mailbox: while the host reaches no register none does (R11, R14), and it is ignored while BUSY = 1, and once the
fuse is blown (R25, R26). -/
def State.mailboxShut (s : State) : Bool := s.dev.deaf || s.dbg.busy || !s.dev.fuseDebug

/-- A request is taken by an open mailbox. Commands other than ATTACH
need the ASID of the request to be the one attached (R252, R253). -/
def State.mailbox (s : State) (r : DebugReq) (run : State → State) : State :=
  if s.mailboxShut then s
  else if s.dbg.attached ≠ some r.asid then s.respondPlain r 2
  else run s

/-- ATTACH (R253): one ASID at a time. -/
def execDbgAttach (r : DebugReq) (s : State) : Outcome :=
  .next (if s.mailboxShut then s
    else if s.dbg.attached.any (fun a => a != r.asid) then s.respondPlain r 2
    else ({ s with dbg := { s.dbg with attached := some r.asid } }).respondPlain r 0)

/-- A step that a CRW asked for ends with a code, because the session has. -/
def State.dropStep (s : State) : State :=
  match s.dbg.stepping with
  | none => s
  | some d => s.endStep d 2 []

/-- DETACH (R253). -/
def execDbgDetach (r : DebugReq) (s : State) : Outcome :=
  .next (s.mailbox r fun s =>
    let s := s.dropStep.mapPaths (fun p => if p.stop.isSome then p.release else p)
    ({ s with dbg := { s.dbg with attached := none, comparators := [], watches := [], stops := [] } }).respondPlain r 0)

/-- A list of teams in ascending team identifier. -/
def insertTeam (t : Team) : List Team → List Team
  | [] => [t]
  | x :: xs => if t.teamId.toNat ≤ x.teamId.toNat then t :: x :: xs else x :: insertTeam t xs

/-- The path records of an ASID's resident teams (R253, R419). -/
def State.records (s : State) (asid : Nat) : List (List Byte) :=
  (((s.teams.map (·.2)).filter (fun t => t.asid == asid)).foldr insertTeam []).flatMap
    (fun t => t.paths.map (fun p => pathRecord t p.1 p.2))

/-- LIST (R253). -/
def execDbgList (r : DebugReq) (s : State) : Outcome :=
  .next (s.mailbox r fun s => s.respondRecords r (((s.records r.asid.toNat).drop r.arg0.toNat).take 15))

/-- The team identifier and the path index of a path record, in one key (R253). -/
def recordKey (b : List Byte) : Nat := ofBytes (b.take 4) * 256 + ofBytes ((b.drop 4).take 1)

/-- A path record put in front of the first that belongs after it. -/
def insertRecord (b : List Byte) : List (List Byte) → List (List Byte)
  | [] => [b]
  | a :: as => if recordKey b ≤ recordKey a then b :: a :: as else a :: insertRecord b as

/-- POLL (R253, R419): the fifteen oldest records, in the response in ascending team identifier and path index, and those of one path
oldest first (log entry 144). -/
def execDbgPoll (r : DebugReq) (s : State) : Outcome :=
  .next (s.mailbox r fun s =>
    ({ s with dbg := { s.dbg with stops := s.dbg.stops.drop 15 } }).respondRecords r
      ((s.dbg.stops.take 15).foldr insertRecord []))

/-- HOLD (R253). -/
def execDbgHold (r : DebugReq) (s : State) : Outcome :=
  .next (s.mailbox r fun s =>
    match s.holdPaths r.team r.path.toNat with
    | (s, c) => s.respondPlain r (mailCode c))

/-- RESUME (R253). -/
def execDbgResume (r : DebugReq) (s : State) : Outcome :=
  .next (s.mailbox r fun s =>
    match s.resumePaths r.team r.path.toNat with
    | (s, c) => s.respondPlain r (mailCode c))

/-- STEP (R255): the answer comes when the step ends. It begins when a step that a CRW asked for has ended (R382). -/
def execDbgStep (r : DebugReq) (s : State) : Outcome :=
  .next (s.mailbox r fun s =>
    match s.beginStep r none with
    | .error c => s.respondPlain r (mailCode c)
    | .ok s1 =>
      if s.dbg.stepping.isSome then { s with dbg := { s.dbg with busy := true, stepNext := some r } }
      else { s1 with dbg := { s1.dbg with busy := true } })

/-- SETBP (R253, R254). -/
def execDbgSetbp (r : DebugReq) (s : State) : Outcome :=
  .next (s.mailbox r fun s =>
    if 3 < r.idx.toNat ∨ r.arg0.toNat % 4 ≠ 0 then s.respondPlain r 1
    else ({ s with dbg := { s.dbg with comparators := AMap.insert r.idx.toNat r.arg0 s.dbg.comparators } }).respondPlain r 0)

/-- CLRBP (R253, R254). -/
def execDbgClrbp (r : DebugReq) (s : State) : Outcome :=
  .next (s.mailbox r fun s =>
    if 3 < r.idx.toNat then s.respondPlain r 1
    else ({ s with dbg := { s.dbg with comparators := AMap.erase r.idx.toNat s.dbg.comparators } }).respondPlain r 0)

/-- SETWP (R254, R420). -/
def execDbgSetwp (r : DebugReq) (s : State) : Outcome :=
  .next (s.mailbox r fun s =>
    let w := pw r.data 1
    let len := bits 31 0 w
    if 3 < r.idx.toNat ∨ bits 39 32 w = 0 ∨ 3 < bits 39 32 w ∨ 1 < bits 47 40 w ∨ bits 63 48 w ≠ 0 ∨ pw r.data 2 ≠ 0 then
      s.respondPlain r 1
    else
      let x : Watch := { base := BitVec.ofNat 64 (pw r.data 0), len := if len = 0 then 2 ^ 32 else len, kind := bits 39 32 w,
                         space := bits 47 40 w, team := field r.arg0 0 32 }
      ({ s with dbg := { s.dbg with watches := AMap.insert r.idx.toNat x s.dbg.watches } }).respondPlain r 0)

/-- CLRWP (R253, R254). -/
def execDbgClrwp (r : DebugReq) (s : State) : Outcome :=
  .next (s.mailbox r fun s =>
    if 3 < r.idx.toNat then s.respondPlain r 1
    else ({ s with dbg := { s.dbg with watches := AMap.erase r.idx.toNat s.dbg.watches } }).respondPlain r 0)

/-! ## Registers and memory through the mailbox (R253) -/

/-- The team and path that a request names, or its DCODE. -/
def State.debugPath (s : State) (r : DebugReq) : Except Nat (Nat × Team × Path) :=
  match s.debugTeam r.team with
  | .error c => .error (mailCode c)
  | .ok (key, t) =>
    if 8 ≤ r.path.toNat then .error 1
    else
      match AMap.find t.paths r.path.toNat with
      | none => .error 3
      | some p => .ok (key, t, p)

/-- Registers in a file of a team: vector, predicate, index, scalar. -/
def Team.fileSize (t : Team) (file : Nat) : Nat :=
  if file = 0 then t.vcount else if file = 3 then 64 else 8

/-- The fields of ARG0 name registers of a file. -/
def regsNamed (t : Team) (r : DebugReq) : Bool :=
  let a := r.arg0.toNat
  decide (bits 63 56 a ≤ 3) && decide (bits 15 8 a + bits 7 0 a ≤ t.fileSize (bits 63 56 a))

/-- The bytes of a register: one value of a scalar register, or one for each lane of the team in ascending order. -/
def regBytes (t : Team) (p : Path) (file n : Nat) : List Byte :=
  let lanes := List.range t.k.lanes
  if file = 0 then lanes.flatMap (fun l => toBytes 4 (t.v l n).toNat)
  else if file = 1 then lanes.map (fun l => if t.p l n then 1 else 0)
  else if file = 2 then lanes.flatMap (fun l => toBytes 4 (t.x l n).toNat)
  else toBytes 8 (p.s (BitVec.ofNat 6 n)).toNat

/-- RDREG (R253): the registers in order, as far as the response has room. -/
def execDbgRdreg (r : DebugReq) (s : State) : Outcome :=
  .next (s.mailbox r fun s =>
    match s.debugPath r with
    | .error c => s.respondPlain r c
    | .ok (_, t, p) =>
      if !regsNamed t r then s.respondPlain r 1
      else
        let a := r.arg0.toNat
        let b := (List.range (bits 7 0 a)).flatMap (fun i => regBytes t p (bits 63 56 a) (bits 15 8 a + i))
        s.respond r 0 r.idx.toNat (b.take 4080))

/-- One register takes the bytes that a request gives it; a lane that they do not reach keeps its value. -/
def putReg (t : Team) (pi file n : Nat) (b : List Byte) : Team :=
  let w := if file = 1 then 1 else 4
  let lanes := (List.range t.k.lanes).filter (fun l => decide (w * l + w ≤ b.length))
  let word := fun (l : Nat) => ofBytes ((b.drop (w * l)).take w)
  if file = 0 then lanes.foldl (fun t l => t.setV l n (BitVec.ofNat 32 (word l))) t
  else if file = 1 then lanes.foldl (fun t l => t.setP l n (word l % 2 == 1)) t
  else if file = 2 then lanes.foldl (fun t l => t.setX l n (BitVec.ofNat 32 (word l))) t
  else if b.length < 8 then t
  else t.modPath pi (fun p => p.setS (BitVec.ofNat 6 n) (BitVec.ofNat 64 (ofBytes (b.take 8))))

/-- Bytes that one register takes in a request. -/
def regWidth (t : Team) (file : Nat) : Nat :=
  if file = 3 then 8 else if file = 1 then t.k.lanes else 4 * t.k.lanes

/-- WRREG (R253): as RDREG, from the 4,080 bytes that a request has room for. The path must be stopped. -/
def execDbgWrreg (r : DebugReq) (s : State) : Outcome :=
  .next (s.mailbox r fun s =>
    match s.debugPath r with
    | .error c => s.respondPlain r c
    | .ok (key, t, p) =>
      let a := r.arg0.toNat
      let file := bits 63 56 a
      if !regsNamed t r then s.respondPlain r 1
      else if p.stop.isNone then s.respondPlain r 5
      else
        let d := r.data.take 4080
        let t' := (List.range (bits 7 0 a)).foldl (fun t i =>
          putReg t r.path.toNat file (bits 15 8 a + i) ((d.drop (i * regWidth t file)).take (regWidth t file))) t
        (s.setTeam key t').respondPlain r 0)

/-- Committed bytes within one line that an address of an ASID reaches, for the mailbox: none where it reaches nothing. -/
def State.debugLine (s : State) (r : DebugReq) (addr n : Nat) : State × Option (List Byte) :=
  let asid := r.asid.toNat
  match bits 63 60 addr with
  | 5 =>
    match s.kvTranslate { addr := kvAddr addr, size := n, write := false, asid := asid, tree := false, rebuild := none } 0 with
    | (s, .ok pa) => (s.viewTouch (.dev pa), some (s.readPa pa n))
    | (s, _) => (s, none)
  | 6 =>
    match s.findTeam r.team with
    | none => (s, none)
    | some (_, t) =>
      if t.asid ≠ asid ∨ engineSpaceBad t.window addr n = true then (s, none)
      else (s, (s.windowTeam t.window t.teamId (bits 27 22 addr)).map (fun id => s.poolRead id (bits 21 0 addr) n))
  | sp =>
    if bits 59 52 addr ≠ 0 ∨ ¬ (sp ≤ 2 ∨ sp = 4) then (s, none)
    else
      match walk s asid (sp == 4) (bits 51 0 addr / 0x10000), s.noteWalk asid (bits 51 0 addr / 0x10000) with
      | .leaf e _ vpn, s =>
        let a := leafFrame e + (bits 51 0 addr - vpn * 0x10000)
        let reads := AccKind.permitted .load e && !leafDisc e && sp != 4
        (if reads then s.viewTouch (.dev a) else s, if !AccKind.permitted .load e then none
            else if leafDisc e then some (List.replicate n 0)
            else if sp = 4 then some (s.readHost a n)
            else some (s.readPa a n))
      | _, s => (s, none)

/-- Bytes that a span of an ASID reaches, line by line. -/
def State.debugBytes (s : State) (r : DebugReq) : Nat → Nat → Nat → State × Option (List Byte)
  | 0, _, _ => (s, some [])
  | _ + 1, _, 0 => (s, some [])
  | k + 1, a, n + 1 =>
    let m := min (n + 1) (64 - a % 64)
    match s.debugLine r a m with
    | (s, none) => (s, none)
    | (s, some b) =>
      match State.debugBytes s r k (a + m) (n + 1 - m) with
      | (s, some bs) => (s, some (b ++ bs))
      | x => x

/-- RDMEM (R253): up to 4,064 bytes of the ASID's memory. An address that reaches nothing makes the request malformed. -/
def execDbgRdmem (r : DebugReq) (s : State) : Outcome :=
  .next (s.mailbox r fun s =>
    let n := pw r.data 0
    if 4064 < n then s.respondPlain r 1
    else
      match s.debugBytes r 66 r.arg0.toNat n with
      | (s, none) => s.respondPlain r 1
      | (s, some b) => s.respond r 0 r.idx.toNat b)

/-- DEBUG_UNKNOWN_COMMAND (R253): DCODE 1. -/
def execDebugUnknownCommand (r : DebugReq) (s : State) : Outcome :=
  .next (if s.mailboxShut then s else s.respondPlain r 1)

/-- DEBUG_REQUEST_TIMEOUT (R252, R255): the step in hand ends with DCODE 4, and its path is stopped as it was. A STEP that waits for it has
its own time. -/
def execDebugRequestTimeout (s : State) : Outcome :=
  .next (match s.dbg.stepping with
    | none => s
    | some d => (s.modPath d.tkey d.path (fun p => { p with stop := some d.was })).endStep d 4 [])

end Sys2Proof.Machine
end

