-- ==== Sys2Proof/Machine/FabricEvents.lean ====
section
/-!
DEFINITION. Events of the fabric: its registers and time (R39 to R42), the owner's side of remote space (R44, R46), the requester's
(R43, R45, R47), and collectives (R52, R53).
-/

namespace Sys2Proof.Machine

/-! ## Registers and time -/

/-- FNODE_WRITE (R39). -/
def execFnodeWrite (v : BitVec 32) (s : State) : Outcome :=
  onLink s <|
  .next { s with fab := { s.fab with fnode := v.extractLsb' 0 12 } }

/-- LOCK and HOLD follow the error bound and the uncertainty while fabric time runs (R41, R42). -/
def Fabric.judge (f : Fabric) : Fabric :=
  match f.eps with
  | none => f
  | some e =>
    if !f.running then { f with lock := false, hold := true, goodSyncs := 0 }
    else if 2 * f.ftunc < e then { f with lock := false, hold := true, goodSyncs := 0 }
    else { f with lock := true }

/-- FTUNC_WRITE (R39): a value outside 50 to 10,000 is ignored. -/
def execFtuncWrite (v : BitVec 32) (s : State) : Outcome :=
  onLink s <|
  let u := bits 15 0 v.toNat
  .next (if 50 ≤ u ∧ u ≤ 10000 then { s with fab := ({ s.fab with ftunc := u }).judge } else s)

/-- FABRIC_PORT_FAILURE (R37): the port goes down as a whole. With no port left there is no route. -/
def execFabricPortFailure (port : Nat) (s : State) : Outcome :=
  let ports := s.fab.ports &&& ~~~(BitVec.twoPow 24 port)
  .next { s with fab := { s.fab with ports := ports, routes := if ports = 0 then [] else s.fab.routes } }

/-- This device takes part in the fabric (R39, R15). -/
def State.onFabric (s : State) : Bool := s.fab.fnode != 0xFFF && s.dev.svc == 2 && !s.dev.dark

/-- The clock after an exchange (R41, R42): the new error bound, in half nanoseconds. Hold ends after 16 intervals in a row with a bound
of at most U / 2. -/
def Fabric.sync (f : Fabric) (e : Nat) : Fabric :=
  let good := if e ≤ f.ftunc then f.goodSyncs + 1 else 0
  { f with eps := some e, goodSyncs := good, hold := if 16 ≤ good then false else f.hold }.judge

/-- SYNC_EXCHANGE (R39 to R42): a device that is not on the fabric exchanges nothing. -/
def execSyncExchange (offsetNs variationNs : Nat) (s : State) : Outcome :=
  .next (if s.onFabric then { s with fab := s.fab.sync (2 * offsetNs + variationNs) } else s)

/-! ## The owner (R44, R46) -/

/-- An export entry matches an offset (R44). -/
def exportHits (e : BitVec 128) (off : Nat) : Bool :=
  let o := bits 47 16 off
  e.getLsbD 127 && decide (bits 69 38 e.toNat ≤ o) && decide (o ≤ bits 69 38 e.toNat + bits 31 0 e.toNat)

/-- The export entry of an offset: the lowest index that matches (R44). -/
def Fabric.exported (f : Fabric) (off : Nat) : Option (BitVec 128) :=
  ((List.range 64).map (fun i => Tab.get 0 f.fexp i)).find? (fun e => exportHits e off)

/-- A request writes. -/
def peerWrites : PeerOp → Bool
  | .load _ _ => false
  | .store _ => true
  | .atomic _ _ _ => true
  | .lineAtomic _ _ => true

/-- What the walk of a peer's request is for. -/
def peerKind : PeerOp → AccKind
  | .load _ _ => .load
  | .store _ => .store
  | .atomic _ _ _ => .atomic
  | .lineAtomic _ _ => .atomic

/-- How a peer's address resolves at the owner: device memory with what the access brings to the L2, a discarded page, refused, refused
after a failed translation, or waiting for a lease on the leaf that it would change (R46). -/
inductive OwnerAt where
  | dev (a : L2Access)
  | zeros
  | refused
  | failed
  | later
  deriving DecidableEq, Repr

/-- A peer's address resolved at the owner (R44). That a store to a discarded page fails is the model's choice (log entry 146). -/
def State.ownerAt (s : State) (off : Nat) (op : PeerOp) : State × OwnerAt :=
  match s.fab.exported off with
  | none => (s, .refused)
  | some e =>
    let va := bits 105 70 e.toNat * 0x10000 + off - bits 69 38 e.toNat * 0x10000
    if bits 37 32 e.toNat ≠ 0 ∨ (if peerWrites op then e.getLsbD 125 else e.getLsbD 126) = false then (s, .refused)
    else if 2 ^ 52 ≤ va then (s, .failed)
    else
      let asid := bits 117 106 e.toNat
      match walk s asid false (va / 0x10000), s.noteWalk asid (va / 0x10000) with
      | .fault _ _ _, s => (s, .failed)
      | .uncorrectable, s => (s, .failed)
      | .leaf l pa vpn, s =>
        if !(peerKind op).permitted l then (s, .failed)
        else if leafDisc l then (s, if peerWrites op then .failed else .zeros)
        else
          let l' := withAD l (peerWrites op)
          if l' ≠ l ∧ s.lineHeld pa then (s, .later)
          else
            let s := if l' = l then s else s.writeEntry pa l'
            let s := { s with mem := s.mem.touchPage (leafFrame l) (leafPs l) }
            (s, .dev { pa := leafFrame l + (va - vpn * 0x10000), asid := asid, space := 0, va := va, hint := 0, rc := leafRc l, glob := leafG l,
                       dirty := peerWrites op })

/-- A request performs at the owner's home slice (R43 to R47): the state after it and the reply. A line that DRAM has
lost answers with the bytes it has here (log entry 147). -/
def State.ownerPerform (s : State) (pa : Nat) (op : PeerOp) : State × PeerReply :=
  match op with
  | .load size _ => ({ s with mem := s.mem.touch pa }, .data (s.readPa pa size) none)
  | .store bs => (s.writeOutside pa bs, .ack)
  | .atomic op size xs =>
    let r := chainAtomics (xs.map (fun x old => (atomicNew op size (ofBytes old) x.1 x.2).map (toBytes size))) (s.readPa pa size)
    (if r.2.1 then s.writeOutside pa r.1 else s.viewTouch (.dev pa), .data r.2.2.flatten none)
  | .lineAtomic op data =>
    let r := chainAtomics (data.map (fun d old => some (lineNew op old d))) (s.readPa pa 64)
    (s.writeOutside pa r.1, .data r.2.2.flatten none)

/-- A lock over the line is held or waits, so that no lease is granted (R46). -/
def State.lineLockPending (s : State) (pa : Nat) : Bool :=
  s.eng.locks.any (fun l => l.ranges.any (fun r => r.place == .device && decide (r.lo < lineOf pa * 64 + 64) && decide (lineOf pa * 64 < r.hi)))

/-- A load whose requester asks for a lease (R45): the whole line, with the lease end when one is granted. -/
def State.ownerLease (s : State) (pa off size : Nat) (want : Bool) : State × PeerReply :=
  match s.fab.exported off with
  | none => s.ownerPerform pa (.load size want)
  | some e =>
    if !want || e.getLsbD 124 || !s.fabricRuns || s.lineLockPending pa then s.ownerPerform pa (.load size want)
    else
      let t := s.fab.ftime.toNat + (bits 123 118 e.toNat + 1) * 1000
      let line := lineOf pa
      ({ s with
          mem := s.mem.touch pa,
          fab := { s.fab with tmax := Tab.set 0 line (max t (Tab.get 0 s.fab.tmax line)) s.fab.tmax } },
        .data (s.readPa (line * 64) 64) (some t))

/-- A translation that has failed at the owner is posted to the device-event queue, and its vector raised (R44). -/
def State.postFailure (s : State) (r : PeerReq) : State :=
  let f : PeerFailure := { node := r.node, off := r.off, write := peerWrites r.op }
  ({ s with fab := { s.fab with failures := s.fab.failures ++ [f] } } : State).emit
    (.deviceEvent (bits 21 16 s.xl.pfctl.toNat))

/-- REMOTE_ACCESS_REQUEST (R44, R46): it is refused, held for a lease, or performed under the residency rules of its page. A translation
that fails is posted too. -/
def execRemoteAccessRequest (r : PeerReq) (s : State) : Outcome :=
  .next (if !s.onFabric then s
    else
      match s.ownerAt r.off r.op with
      | (s, .refused) => s.emit (.peerReply r.node r.id .refused)
      | (s, .failed) => (s.postFailure r).emit (.peerReply r.node r.id .refused)
      | (s, .later) => s
      | (s, .zeros) =>
        s.emit (.peerReply r.node r.id (.data (List.replicate (match r.op with
          | .load n _ => n
          | _ => 0) 0) none))
      | (s, .dev a) =>
        match r.op with
        | .load n want =>
          let q := (s.l2Access a).ownerLease a.pa r.off n want
          q.1.emit (.peerReply r.node r.id q.2)
        | op =>
          if s.lineHeld a.pa then
            { s with fab := { s.fab with
                held := s.fab.held ++ [{ line := lineOf a.pa, pa := a.pa, op := op, asid := a.asid, va := a.va, rc := a.rc,
                                         host := false, peer := some (r.node, r.id) }] } }
          else
            let q := (s.l2Access a).ownerPerform a.pa op
            q.1.emit (.peerReply r.node r.id q.2))

/-- What a write that was held brings to the L2: that of a peer's page, and nothing for the host or a unit of the device. -/
def HeldWrite.access (h : HeldWrite) : L2Access :=
  { pa := h.pa, asid := h.asid, space := 0, va := h.va, hint := 0, rc := h.rc, dirty := true }

/-- LEASE_HELD_WRITE (R39, R46): the oldest write held on a line performs, once every lease on it has ended; the place of a path that
still waits is the path's own to use. A device that has left the fabric answers no peer. -/
def execLeaseHeldWrite (line : Nat) (s : State) : Outcome :=
  .next (match s.fab.held.find? (fun h => h.line == line && s.turnStands h) with
    | none => s
    | some h =>
      if s.leaseBlocked h.pa ∨ h.turn.isSome then s
      else
        let s := { s with fab := { s.fab with held := s.fab.held.erase h } }
        match h.peer with
        | none =>
          let q := s.ownerPerform h.pa h.op
          if h.host then { q.1 with dev := { q.1.dev with hostT := max q.1.dev.hostT (q.1.mem.stamps h.line).1 } } else q.1
        | some (node, id) =>
          let q := (s.l2Access h.access).ownerPerform h.pa h.op
          if s.onFabric then q.1.emit (.peerReply node id q.2) else q.1)

/-! ## The requester (R43, R45, R47) -/

/-- A remote access in flight. -/
def State.remote (s : State) (id : Nat) : Option PendAccess := s.eng.pend.find? (fun p => p.id == id && p.space == 3)

/-- A remote access leaves the list of those in flight. -/
def State.dropPend (s : State) (id : Nat) : State :=
  { s with eng := { s.eng with pend := s.eng.pend.filter (fun p => p.id != id) } }

/-- An access in flight ends in a trap of its path (R43, R44). -/
def State.trapAccess (s : State) (p : PendAccess) (c : TrapClass) : State :=
  if ((s.team p.tkey).map (·.teamId)) ≠ some p.teamId then s
  else s.trapError p.tkey p.path c p.lane (BitVec.ofNat 64 (3 * 2 ^ 60 + p.addr))

/-- A remote line enters the L2, where its partition lets the L2 take it (R45, R112). -/
def State.installRemote (s : State) (p : PendAccess) : State :=
  let asid := ((s.team p.tkey).map (·.asid)).getD 0
  s.l2Alloc { key := l2Key 3 (lineOf p.addr), part := s.mem.partition asid, rc := 0, asid := asid, vline := lineOf p.va,
              stream := false, dirty := false }

/-- A line is kept under its lease (R45). -/
def Fabric.keepLine (f : Fabric) (node line : Nat) (data : List Byte) (t : Nat) : Fabric :=
  { f with leased := { node := node, line := line, data := data, until_ := t }
      :: f.leased.filter (fun l => !(l.node == node && l.line == line)) }

/-- REMOTE_COMPLETION (R43 to R47): the reply to an access of this device. -/
def execRemoteCompletion (id : Nat) (reply : PeerReply) (s : State) : Outcome :=
  .next (match s.remote id with
    | none => s
    | some p =>
      let s := s.dropPend id
      match reply with
      | .refused => s.trapAccess p .protection
      | .ack => s.finishAccess p
      | .data b none => s.landAccess p b
      | .data b (some t) =>
        let s := s.installRemote p
        ({ s with fab := s.fab.keepLine (bits 59 48 p.addr) (lineOf (bits 47 0 p.addr)) b t }).landAccess p
          ((b.drop (p.addr % 64)).take p.size))

/-- REMOTE_TIMEOUT (R43): an access has had no completion within FTMO. -/
def execRemoteTimeout (id : Nat) (s : State) : Outcome :=
  .next (match s.remote id with
    | none => s
    | some p => (s.dropPend id).trapAccess p .uncorrectable)

/-! ## Collectives (R52, R53) -/

/-- COLLECTIVE_ARRIVAL (R52): a member's fingerprint, or its block for this member. -/
def execCollectiveArrival (id : Nat) (m : CollMsg) (s : State) : Outcome :=
  .next (match s.coll id with
    | none => s
    | some c =>
      match m with
      | .finger rank fp =>
        if c.members ≤ rank then s
        else
          s.modColl id (fun c =>
            { c with fingers := if c.fingers.contains rank then c.fingers else rank :: c.fingers,
                     broken := if fp = c.finger then c.broken else some (c.broken.getD .mismatch) })
      | .block rank data =>
        if c.members ≤ rank ∨ data.length ≠ c.block ∨ (AMap.find c.blocks rank).isSome then s
        else
          let s := s.modColl id (fun c => { c with blocks := AMap.insert rank data c.blocks })
          match s.coll id with
          | none => s
          | some c => s.collPlace c rank)

/-- Every member has shown its fingerprint and every block is here. -/
def Coll.complete (c : Coll) : Bool :=
  (List.range c.members).all (fun r => c.fingers.contains r && (AMap.find c.blocks r).isSome)

/-- COLLECTIVE_COMPLETION (R48, R52): the rest of DST is written and the collective ends with STATUS 1. A collective that has
not sent its own block sends it. -/
def execCollectiveCompletion (id : Nat) (s : State) : Outcome :=
  .next (match s.coll id with
    | none => s
    | some c =>
      if !s.collRuns c then s
      else if (AMap.find c.blocks c.rank).isNone then s.collSend c
      else if !c.complete then s
      else
        match s.collFinish c c.rest with
        | .error s1 => s1
        | .ok s1 =>
          match s1.coll id with
          | none => s1
          | some c => s1.endColl c 1 0)

/-- A collective ends in failure (R53): DST is undefined and the barrier counts down. -/
def State.failColl (s : State) (c : Coll) (status : Nat) : State :=
  let s := s.collPoison c
  match s.coll c.id with
  | none => s
  | some c => s.endColl c status 1

/-- COLLECTIVE_FAILURE (R53): a mismatch of fingerprints, a lost member, or a fault at a member. -/
def execCollectiveFailure (id : Nat) (why : CollFail) (s : State) : Outcome :=
  .next (match s.coll id with
    | none => s
    | some c =>
      match why with
      | .mismatch => if c.broken = some .mismatch then s.failColl c 2 else s
      | .memberLost => s.failColl c 3
      | .memberFault => s.failColl c 4)

/-- COLLECTIVE_ARRIVAL_TIMEOUT (R53): a member has not arrived within TMO. -/
def execCollectiveArrivalTimeout (id : Nat) (s : State) : Outcome :=
  .next (match s.coll id with
    | none => s
    | some c => if (List.range c.members).all (fun r => c.fingers.contains r) then s else s.failColl c 3)

end Sys2Proof.Machine
end

