-- ==== Sys2Proof/Machine/Issue.lean ====
section
/-!
DEFINITION. The core's own events: its tick, the start and the completion of a clause, and the trap of a word that encodes
nothing (R3, R86, R87, R108, R193, R250, R256).
-/

namespace Sys2Proof.Machine

/-- Core cycles of a tick (R108). -/
def tickCycles : Nat := 64

/-- A path after a tick: its timestamp, and what is left of a trial's delay (R108, R256). -/
def Path.tick (p : Path) : Path := { p with pts := p.pts + 1, cxDelay := p.cxDelay - tickCycles }

/-- Every path of a table after a tick. -/
def tickPaths (m : AMap Path) : AMap Path := m.map (fun e => (e.1, e.2.tick))

/-- A resident team after a tick: its paths, and its cycle count, which a save stops (R108, R250). -/
def Team.tick (t : Team) : Team :=
  { t with
    paths := tickPaths t.paths,
    handler := t.handler.map (fun h => { h with saved := tickPaths h.saved }),
    ccyc := if t.phase = .running then t.ccyc + BitVec.ofNat 64 tickCycles else t.ccyc,
    taskCycles := if t.phase = .running then t.taskCycles + tickCycles else t.taskCycles }

/-- A bin's timer after a tick, in units of 64 core cycles (R82). -/
def Bin.tick (b : Bin) : Bin := { b with timer := b.timer + 1 }

/-- Path-cycles that a trial counts in a tick of a core (R256). -/
def State.trialCycles (s : State) (core : Nat) : Nat :=
  let ctl := s.dbg.cxctl.toNat
  if ctl % 2 = 0 then 0
  else
    ((s.teams.filter (fun e => keyCore e.1 == core && e.2.asid == bits 63 52 ctl)).map
      (fun e => e.2.paths.length * tickCycles)).sum

/-- CTIME_TICK (R108): 64 core cycles of a core, whose clock runs in D0 alone (R11). -/
def execCtimeTick (core : Nat) (s : State) : Outcome :=
  if s.dev.power ≠ .d0 then .next s.passTime else
  let n := s.trialCycles core
  let s := s.passTime.modCore core (fun c => { c with ctime := c.ctime + 1, bins := c.bins.map Bin.tick })
  .next { s with
    teams := s.teams.map (fun e => if keyCore e.1 = core then (e.1, e.2.tick) else e),
    dbg := { s.dbg with cxpth := s.dbg.cxpth + BitVec.ofNat 64 n } }

/-- A path's next clause starts, unless it goes on with one that it has started (R87, R193). -/
def Path.startClause (p : Path) : Path :=
  match p.run, p.queue with
  | some _, _ => p
  | none, [] => p
  | none, c :: cs => { p with run := some c, queue := cs }

/-- CLAUSE_START (R87, R88): a datapath that runs no clause takes the next eligible one; that of a paired team occupies both of its
cores. -/
def execClauseStart (core : Nat) (s : State) : Outcome :=
  if (s.core core).running.isSome then .next s
  else
    match chooseClause s core with
    | none => .next s
    | some (slot, pi) =>
      .next ((s.runClause (teamKey core slot) pi).modPath (teamKey core slot) pi Path.startClause)

/-- A path without its first ended clause that has no operation outstanding (R193). -/
def Path.completeClause (p : Path) : Path :=
  match p.done.findIdx? (fun c => c.pend == 0) with
  | none => p
  | some n => { p with done := p.done.eraseIdx n }

/-- CLAUSE_COMPLETION (R193): an ended clause whose long-latency operations have finished lowers the outstanding counts of its
flags. -/
def execClauseCompletion (core slot path : Nat) (s : State) : Outcome :=
  .next (s.modPath (teamKey core slot) path Path.completeClause)

/-- The lowest lane that the clause at hand runs for: the lane of a trap of a whole lane instruction (log entry 44). -/
def Path.clauseLane (p : Path) : Nat :=
  ((lanesOf ((p.run.map (fun c => c.only.getD c.mask)).getD p.mask) 1024).head?).getD 0

/-- UNASSIGNED_ENCODING (R3, R245, R289): a word that encodes no assigned instruction traps when a path reaches it. The check is of
the whole word, so that its report names the lowest lane of the path or of the clause (R249, log entry 44). -/
def execUnassignedEncoding (w : EncWord) (s : State) : Outcome :=
  withIssuer s fun x =>
    match w with
    | .scalar _ => trapScalar s x .illegalOpcode
    | .lane _ => trapLane s x .illegalOpcode x.path.clauseLane 0

end Sys2Proof.Machine
end

