-- ==== Sys2Proof/Machine/LaneInt.lean ====
section
/-!
DEFINITION. Integer lane arithmetic, bits, shifts, moves, selection and compares (R318 to R324).
-/

namespace Sys2Proof.Machine

/-! ## Shared operations -/

/-- The specification of an instruction on vd, va and, where it has them, b and vc: `mods` are the MOD bits it defines. -/
def arithSpec (types : List Nat) (useB useC : Bool) (mods : BitVec 6) (x : LaneCtx) : LaneSpec :=
  let ty := x.ty
  { LaneSpec.plain with
    reserved := modRefused x.f mods || (!useC && x.f.vc != 0) || (if useB then bRefused x.f ty else noB x.f),
    types := some types,
    groups := [group ty x.f.vd 1 true, group ty x.f.va 1 false] ++ (if useC then [group ty x.f.vc 1 false] else [])
      ++ (if useB then bGroups x ty 1 else []),
    bounds := if useB then bBounds x ty 1 else none,
    viaIndex := if useB then bIndexed x ty 1 else [] }

/-- An element-by-element operation on registers (R316). -/
def mapElems (ty : Nat) (g : Nat → Nat → Nat → Nat) (a b c : Nat) : Nat :=
  packElems ty ((List.range (packCount ty)).map (fun e => g (elemAt ty a e) (elemAt ty b e) (elemAt ty c e)))

/-- Whether a type is signed (R204). -/
def isSigned (ty : Nat) : Bool :=
  match intShape ty with
  | some (_, s) => s
  | none => false

/-- An element as an integer, by the signedness of its type. -/
def intOf (ty x : Nat) : Int := if isSigned ty then toSigned (elemBits ty) x else (x % 2 ^ elemBits ty : Nat)

/-- An integer as an element: the low w bits. -/
def intCode (ty : Nat) (i : Int) : Nat := ofSigned (elemBits ty) i

/-- An integer instruction `op.T vd, va, b` (R318): `g` is the exact result. -/
def intLane (s : State) (f : LaneFields) (types : List Nat) (g : Nat → Int → Int → Int) : Outcome :=
  laneOp s f (arithSpec types true false 0) fun s x =>
    let ty := x.ty
    x.writeVd s ty (fun l =>
      mapElems ty (fun a b _ => intCode ty (g ty (intOf ty a) (intOf ty b))) (x.team.rd ty l x.f.va.toNat) (x.b ty l) 0)

/-- A bit instruction `op.T vd, va, b` (R320): `g` takes the width and the element codes. -/
def bitLane (s : State) (f : LaneFields) (types : List Nat) (g : Nat → Nat → Nat → Nat) : Outcome :=
  laneOp s f (arithSpec types true false 0) fun s x =>
    let ty := x.ty
    x.writeVd s ty (fun l => mapElems ty (fun a b _ => g ty a b) (x.team.rd ty l x.f.va.toNat) (x.b ty l) 0)

/-- A one-operand instruction `op.T vd, va` (R318, R320). -/
def unaryLane (s : State) (f : LaneFields) (types : List Nat) (g : Nat → Nat → Nat) : Outcome :=
  laneOp s f (arithSpec types false false 0) fun s x =>
    let ty := x.ty
    x.writeVd s ty (fun l => mapElems ty (fun a _ _ => g ty a) (x.team.rd ty l x.f.va.toNat) 0 0)

/-! ## Integer arithmetic (R318, R319) -/

/-- VADD (R318). -/
def execVadd (f : LaneFields) (s : State) : Outcome := intLane s f clsInt fun _ a b => a + b

/-- VSUB (R318). -/
def execVsub (f : LaneFields) (s : State) : Outcome := intLane s f clsInt fun _ a b => a - b

/-- VMUL (R318). -/
def execVmul (f : LaneFields) (s : State) : Outcome := intLane s f clsInt fun _ a b => a * b

/-- VMULH (R318). -/
def execVmulh (f : LaneFields) (s : State) : Outcome := intLane s f clsInt fun ty a b => a * b / (2 ^ elemBits ty : Nat)

/-- VMAD (R318). -/
def execVmad (f : LaneFields) (s : State) : Outcome :=
  laneOp s f (arithSpec clsInt true true 0) fun s x =>
    let ty := x.ty
    x.writeVd s ty (fun l =>
      mapElems ty (fun a b c => intCode ty (intOf ty a * intOf ty b + intOf ty c)) (x.team.rd ty l x.f.va.toNat) (x.b ty l)
        (x.team.rd ty l x.f.vc.toNat))

/-- VDIV (R318, R319): a zero divisor gives all ones. -/
def execVdiv (f : LaneFields) (s : State) : Outcome :=
  intLane s f clsInt fun _ a b => if b = 0 then -1 else Int.tdiv a b

/-- VREM (R318, R319): a zero divisor gives va. -/
def execVrem (f : LaneFields) (s : State) : Outcome :=
  intLane s f clsInt fun _ a b => if b = 0 then a else Int.tmod a b

/-- VMIN (R318). -/
def execVmin (f : LaneFields) (s : State) : Outcome := intLane s f clsInt fun _ a b => min a b

/-- VMAX (R318). -/
def execVmax (f : LaneFields) (s : State) : Outcome := intLane s f clsInt fun _ a b => max a b

/-- VABS (R318, R319). -/
def execVabs (f : LaneFields) (s : State) : Outcome := unaryLane s f clsSint fun ty a => intCode ty (intOf ty a).natAbs

/-- VNEG (R318, R319). -/
def execVneg (f : LaneFields) (s : State) : Outcome := unaryLane s f clsSint fun ty a => intCode ty (-(intOf ty a))

/-- VADDS (R318, R319). -/
def execVadds (f : LaneFields) (s : State) : Outcome :=
  intLane s f clsInt fun ty a b => clampInt (elemBits ty) (isSigned ty) (a + b)

/-- VSUBS (R318, R319). -/
def execVsubs (f : LaneFields) (s : State) : Outcome :=
  intLane s f clsInt fun ty a b => clampInt (elemBits ty) (isSigned ty) (a - b)

/-! ## Bits and shifts (R320, R321) -/

/-- VAND (R320). -/
def execVand (f : LaneFields) (s : State) : Outcome := bitLane s f clsIntb fun _ a b => a &&& b

/-- VOR (R320). -/
def execVor (f : LaneFields) (s : State) : Outcome := bitLane s f clsIntb fun _ a b => a ||| b

/-- VXOR (R320). -/
def execVxor (f : LaneFields) (s : State) : Outcome := bitLane s f clsIntb fun _ a b => a ^^^ b

/-- An element with every bit inverted. -/
def notElem (ty a : Nat) : Nat := 2 ^ elemBits ty - 1 - a

/-- VNOT (R320). -/
def execVnot (f : LaneFields) (s : State) : Outcome := unaryLane s f clsIntb notElem

/-- VANDN (R320). -/
def execVandn (f : LaneFields) (s : State) : Outcome := bitLane s f clsIntb fun ty a b => a &&& notElem ty b

/-- VSHL (R320). -/
def execVshl (f : LaneFields) (s : State) : Outcome := bitLane s f clsIntb fun ty a b => a * 2 ^ (b % elemBits ty)

/-- VSHR (R320): filled with the sign bit for i types. -/
def execVshr (f : LaneFields) (s : State) : Outcome :=
  bitLane s f clsIntb fun ty a b => intCode ty (intOf ty a / (2 ^ (b % elemBits ty) : Nat))

/-- VROL (R320). -/
def execVrol (f : LaneFields) (s : State) : Outcome :=
  bitLane s f clsIntb fun ty a b =>
    let n := b % elemBits ty
    a * 2 ^ n % 2 ^ elemBits ty + a / 2 ^ (elemBits ty - n)

/-- Bits of an element, the highest first. -/
def elemBitList (ty a : Nat) : List Nat := (List.range (elemBits ty)).map (fun i => a / 2 ^ (elemBits ty - 1 - i) % 2)

/-- VCLZ (R320). -/
def execVclz (f : LaneFields) (s : State) : Outcome :=
  unaryLane s f clsW fun ty a => ((elemBitList ty a).findIdx? (· == 1)).getD (elemBits ty)

/-- VPOPC (R320). -/
def execVpopc (f : LaneFields) (s : State) : Outcome := unaryLane s f clsW fun ty a => (elemBitList ty a).sum

/-- VBREV (R320). -/
def execVbrev (f : LaneFields) (s : State) : Outcome :=
  unaryLane s f clsW fun ty a => (elemBitList ty a).foldr (fun b r => b + 2 * r) 0

/-- The bit field of R321. -/
def bitField (ty a b : Nat) : Nat :=
  let lo := b % 64
  let width := b / 64 % 128
  if width = 0 ∨ elemBits ty < lo + width then 0
  else
    let v := a / 2 ^ lo % 2 ^ width
    if isSigned ty then intCode ty (toSigned width v) else v

/-- VBFX (R321). -/
def execVbfx (f : LaneFields) (s : State) : Outcome := bitLane s f clsW bitField

/-! ## Moves and selection (R322) -/

/-- VMOV (R322). -/
def execVmov (f : LaneFields) (s : State) : Outcome :=
  laneOp s f
    (fun x => { arithSpec clsAll true false 0 x with
      reserved := modRefused x.f 0 || x.f.va != 0 || x.f.vc != 0 || bRefused x.f x.ty,
      groups := group x.ty x.f.vd 1 true :: bGroups x x.ty 1 })
    fun s x => x.writeVd s x.ty (fun l => x.b x.ty l)

/-- VSEL (R322): the predicate is named in vc. -/
def execVsel (f : LaneFields) (s : State) : Outcome :=
  laneOp s f
    (fun x => { arithSpec clsAll true false 0 x with
      reserved := modRefused x.f 0 || field x.f.vc 3 5 != 0 || bRefused x.f x.ty })
    fun s x =>
      x.writeVd s x.ty (fun l => if x.team.p l (x.f.vc.toNat % 8) then x.team.rd x.ty l x.f.va.toNat else x.b x.ty l)

/-! ## Compares (R323, R324) -/

/-- The specification of a compare: E and C in MOD, the predicate in vd (R323). -/
def compareSpec (types : List Nat) (x : LaneCtx) : LaneSpec :=
  let ty := x.ty
  { arithSpec types true false 0x0F x with
    reserved := modRefused x.f 0x0F || field x.f.md 2 2 == 3 || (ty != 15 && decide (packCount ty ≤ (field x.f.md 0 2).toNat))
      || field x.f.vd 3 5 != 0 || x.f.vc != 0 || bRefused x.f ty,
    groups := group ty x.f.va 1 false :: bGroups x ty 1 }

/-- The predicate that a compare writes (R324). -/
def combine (c : Nat) (old new : Bool) : Bool := if c = 0 then new else if c = 1 then old && new else old || new

/-- A compare of element E by a test on element codes (R324). -/
def compareLane (s : State) (f : LaneFields) (types : List Nat) (g : Nat → Nat → Nat → Bool) : Outcome :=
  laneOp s f (compareSpec types) fun s x =>
    let ty := x.ty
    let e := (field x.f.md 0 2).toNat
    let pd := x.f.vd.toNat % 8
    x.writeLanes s (fun t l =>
      t.setP l pd (combine (field x.f.md 2 2).toNat (x.team.p l pd)
        (g ty (elemAt ty (x.team.rd ty l x.f.va.toNat) e) (elemAt ty (x.b ty l) e))))

/-- An integer compare. -/
def intCompare (s : State) (f : LaneFields) (g : Int → Int → Bool) : Outcome :=
  compareLane s f clsInt fun ty a b => g (intOf ty a) (intOf ty b)

/-- VCMPEQ (R323). -/
def execVcmpeq (f : LaneFields) (s : State) : Outcome := intCompare s f fun a b => decide (a = b)

/-- VCMPNE (R323). -/
def execVcmpne (f : LaneFields) (s : State) : Outcome := intCompare s f fun a b => decide (a ≠ b)

/-- VCMPLT (R323). -/
def execVcmplt (f : LaneFields) (s : State) : Outcome := intCompare s f fun a b => decide (a < b)

/-- VCMPLE (R323). -/
def execVcmple (f : LaneFields) (s : State) : Outcome := intCompare s f fun a b => decide (a ≤ b)

/-- VCMPGT (R323). -/
def execVcmpgt (f : LaneFields) (s : State) : Outcome := intCompare s f fun a b => decide (b < a)

/-- VCMPGE (R323). -/
def execVcmpge (f : LaneFields) (s : State) : Outcome := intCompare s f fun a b => decide (b ≤ a)

end Sys2Proof.Machine
end

