-- ==== Sys2Proof/Machine/LaneFloat.lean ====
section
/-!
DEFINITION. Floating lane arithmetic, compares and conversion (R323 to R328), with the stochastic segments of R215.
-/

namespace Sys2Proof.Machine

/-! ## Segments (R215) -/

/-- The number h of R215 for one element of an active lane: `v` gives the exact result of a lane, and `disc` its d. A lane
that is not active contributes 0. -/
def laneH (rm : Rm) (lanes : List Nat) (disc : FNum → Nat) (v : Nat → FNum) (l : Nat) : Nat :=
  if rm = .stochastic then
    stochasticH (fun i => if lanes.contains (l / 32 * 32 + i) then disc (v (l / 32 * 32 + i)) else 0) (l % 32)
  else 0

/-- A floating result rounded under RM and SAT (R325). -/
def roundFloat (ty : Nat) (c : Conv) (h : Nat) (v : FNum) : Nat :=
  match binShape ty with
  | some b => b.round c.rm c.sat h v
  | none => 0

/-- The element that a floating instruction computes exactly, from the decoded elements (R316). -/
def exactElem (x : LaneCtx) (ty : Nat) (g : FNum → FNum → FNum → FNum) (useB useC : Bool) (e l : Nat) : FNum :=
  g (decodeElem ty (elemAt ty (x.team.rd ty l x.f.va.toNat) e))
    (if useB then decodeElem ty (elemAt ty (x.b ty l) e) else .zero false)
    (if useC then decodeElem ty (elemAt ty (x.team.rd ty l x.f.vc.toNat) e) else .zero false)

/-- A floating instruction: the exact result of each element, rounded once (R325). `g` takes whether RM is RD. -/
def floatLane (s : State) (f : LaneFields) (types : List Nat) (useB useC : Bool) (g : Bool → FNum → FNum → FNum → FNum) :
    Outcome :=
  laneOp s f (arithSpec types useB useC 0) fun s x =>
    let ty := x.ty
    let c := convOf x.c.fmt
    let v := fun (e l : Nat) => exactElem x ty (g (decide (c.rm = .rd))) useB useC e l
    x.writeVd s ty (fun l => packElems ty ((List.range (packCount ty)).map (fun e =>
      roundFloat ty c (laneH c.rm x.lanes (discardOf ty) (v e) l) (v e l))))

/-! ## Arithmetic (R325, R219) -/

/-- VFADD (R325). -/
def execVfadd (f : LaneFields) (s : State) : Outcome := floatLane s f clsFlt true false fun rd a b _ => FNum.add rd a b

/-- VFSUB (R325). -/
def execVfsub (f : LaneFields) (s : State) : Outcome := floatLane s f clsFlt true false fun rd a b _ => FNum.add rd a b.neg

/-- VFMUL (R325). -/
def execVfmul (f : LaneFields) (s : State) : Outcome := floatLane s f clsFlt true false fun _ a b _ => FNum.mul a b

/-- VFMA (R325). -/
def execVfma (f : LaneFields) (s : State) : Outcome := floatLane s f clsFlt true true FNum.fma

/-- VFDIV (R325). -/
def execVfdiv (f : LaneFields) (s : State) : Outcome := floatLane s f clsFlt true false fun _ a b _ => FNum.div a b

/-- VFSQRT (R325). -/
def execVfsqrt (f : LaneFields) (s : State) : Outcome := floatLane s f clsFlt false false fun _ a _ _ => FNum.sqrt a

/-- VFRSQ (R325). -/
def execVfrsq (f : LaneFields) (s : State) : Outcome := floatLane s f clsF32 false false fun _ a _ _ => FNum.rsqrt a

/-- VFEXP2 (R325). -/
def execVfexp2 (f : LaneFields) (s : State) : Outcome := floatLane s f clsF32 false false fun _ a _ _ => FNum.exp2 a

/-- VFLOG2 (R325). -/
def execVflog2 (f : LaneFields) (s : State) : Outcome := floatLane s f clsF32 false false fun _ a _ _ => FNum.log2 a

/-! ## Minimum, maximum, sign (R326) -/

/-- The smaller of two numbers, with −0 below +0. -/
def FNum.below (a b : FNum) : Bool := FNum.lt a b || (a.isZero && b.isZero && a.isNeg && !b.isNeg)

/-- VFMIN and VFMAX on two decoded values (R326). -/
def FNum.choose (smaller : Bool) (a b : FNum) : FNum :=
  match a, b with
  | .nan, b => b
  | a, .nan => a
  | a, b => if FNum.below a b = smaller then a else b

/-- A result that is exact in its type, so that neither RM nor SAT acts on it. -/
def exactLane (s : State) (f : LaneFields) (useB : Bool) (g : FNum → FNum → FNum) : Outcome :=
  laneOp s f (arithSpec clsFlt useB false 0) fun s x =>
    let ty := x.ty
    x.writeVd s ty (fun l => packElems ty ((List.range (packCount ty)).map (fun e =>
      roundFloat ty { rm := .rne, sat := false, dsc := 0, esc := 0 } 0 (exactElem x ty (fun a b _ => g a b) useB false e l))))

/-- VFMIN (R326). -/
def execVfmin (f : LaneFields) (s : State) : Outcome := exactLane s f true (FNum.choose true)

/-- VFMAX (R326). -/
def execVfmax (f : LaneFields) (s : State) : Outcome :=
  exactLane s f true fun a b =>
    match a, b with
    | .nan, b => b
    | a, .nan => a
    | a, b => if FNum.below a b then b else a

/-- VFABS (R326). -/
def execVfabs (f : LaneFields) (s : State) : Outcome := exactLane s f false fun a _ => a.abs

/-- VFNEG (R326). -/
def execVfneg (f : LaneFields) (s : State) : Outcome := exactLane s f false fun a _ => a.neg

/-! ## Compares (R323, R324) -/

/-- A floating compare by a test on the order of the decoded values; none when either is NaN or NaR. -/
def floatCompare (s : State) (f : LaneFields) (g : Option Ordering → Bool) : Outcome :=
  compareLane s f clsFt fun ty a b => g (FNum.cmp (decodeElem ty a) (decodeElem ty b))

/-- VFCMPEQ (R323). -/
def execVfcmpeq (f : LaneFields) (s : State) : Outcome := floatCompare s f fun o => o == some .eq

/-- VFCMPNE (R323): true when either operand is NaN. -/
def execVfcmpne (f : LaneFields) (s : State) : Outcome := floatCompare s f fun o => o != some .eq

/-- VFCMPLT (R323). -/
def execVfcmplt (f : LaneFields) (s : State) : Outcome := floatCompare s f fun o => o == some .lt

/-- VFCMPLE (R323). -/
def execVfcmple (f : LaneFields) (s : State) : Outcome := floatCompare s f fun o => o == some .lt || o == some .eq

/-- VFCMPGT (R323). -/
def execVfcmpgt (f : LaneFields) (s : State) : Outcome := floatCompare s f fun o => o == some .gt

/-- VFCMPGE (R323). -/
def execVfcmpge (f : LaneFields) (s : State) : Outcome := floatCompare s f fun o => o == some .gt || o == some .eq

/-! ## Conversion (R327, R328) -/

/-- Source and destination types lie in one width class (R327). -/
def sameClass (src dst : Nat) : Bool := elemBits src == elemBits dst

/-- The specification of VCVT (R291, R327). -/
def cvtSpec (x : LaneCtx) : LaneSpec :=
  let src := x.ty
  let dst := cvtDest x.f
  let se := (field x.f.imm 0 2).toNat
  let de := (field x.f.imm 2 2).toNat
  let known := src != 15 && dst != 15
  { LaneSpec.plain with
    reserved := field x.f.md 4 2 != 0 || dst == 15 || x.f.bsel != 0 || x.f.vb != 0 || x.f.vc != 0 || x.f.ss != 0
      || field x.f.imm 4 28 != 0
      || (known && (if sameClass src dst then se != 0 || de != 0 else decide (packCount src ≤ se) || decide (packCount dst ≤ de))),
    types := some clsCvt,
    badType := dst == 14,
    groups := [group dst x.f.vd 1 true, group src x.f.va 1 false] }

/-- VCVT (R327, R328): whole registers of one width class, or one element. -/
def execVcvt (f : LaneFields) (s : State) : Outcome :=
  laneOp s f cvtSpec fun s x =>
    let src := x.ty
    let dst := cvtDest x.f
    let se := (field x.f.imm 0 2).toNat
    let de := (field x.f.imm 2 2).toNat
    let c := convOf x.c.fmt
    let v := fun (e l : Nat) => c.scaled false src dst (decodeElem src (elemAt src (x.team.rd src l x.f.va.toNat) e))
    let code := fun (e l : Nat) => c.finish (isIntType src) dst (laneH c.rm x.lanes (discardOf dst) (v e) l) (v e l)
    x.writeVd s dst (fun l =>
      if sameClass src dst then packElems dst ((List.range (packCount dst)).map (fun e => code e l))
      else setElem dst (x.team.rd dst l x.f.vd.toNat) de (code se l))

end Sys2Proof.Machine
end

