-- ==== Sys2Proof/Machine/Tree.lean ====
section
/-!
DEFINITION. The tree instructions (R372 to R377) over the operations of Kv.lean, and TNMASK's bits (R154, R378).
-/

namespace Sys2Proof.Machine

/-! ## Handles and common checks (R372, R373) -/

/-- KM1, SLOT and NODE of a handle (R372). -/
def hKm1 (h : Word64) : Nat := (field h 20 12).toNat
def hSlot (h : Word64) : Nat := (field h 8 12).toNat
def hNode (h : Word64) : Nat := (field h 0 8).toNat

/-- Bits of a handle that must be zero are set: `km1` and `node` say whether the instruction uses those fields. -/
def handleRefused (h : Word64) (km1 node : Bool) : Bool :=
  field h 32 32 != 0 || (!km1 && hKm1 h != 0) || (!node && hNode h != 0)

/-- A tree instruction after its encoding check and its interlock (R248, R288, R294): in a handler it traps. -/
def treeOp (s : State) (reserved : Bool) (rs : List Reg6) (f : Who → State) : Outcome :=
  scalarOp s reserved rs fun w => if w.team.handler.isSome then trapScalar s w .reservedField else f w

/-- The claim of a path's tree instruction (R159). -/
def Who.claim (w : Who) : TreeClaim := .path w.team.teamId w.pi

/-- The checked state of the slot that an operation acts on is held for it; an unbind of a team without a binding acts on none (R159). -/
def State.claimFor (s : State) (slot : Option Nat) (w : Who) : State :=
  match slot with
  | none => s
  | some k => s.claim k w.claim

/-- The slot that an operation acted on is held no longer. -/
def State.claimDone (s : State) (slot : Option Nat) : State :=
  match slot with
  | none => s
  | some k => s.unclaim k

/-- A changing operation (R159, R374): its checks come first and hold the slot, its release commits the version, it performs, and it
acquires. `op` performs it under the path's pts. -/
def treeChange (s : State) (w : Who) (slot : Option Nat) (op : State → Nat → TreeRes) (fin : State → Word64 → State) : State :=
  match op s w.path.pts with
  | .trap c => trapScalar s w c
  | .wait s1 => waitFor (s1.claimFor slot w) w .tree
  | .done _ _ =>
    if !(s.inFlight w false).isEmpty then waitFor (s.claimFor slot w) w .fence
    else if s.commitBlocked w.key then waitFor (s.claimFor slot w) w .commit
    else
      let rel := (slot.map (fun k => (s.slot k).rel)).getD 0
      let s1 := s.commitRelease w.key w.pi
      match op s1 (((s1.path w.key w.pi).map (·.pts)).getD 0) with
      | .done s2 v => fin ((s2.claimDone slot).acquireT w.key w.pi rel) v
      | _ => waitFor (s.claimFor slot w) w .tree

/-- The common checks of a path's operation; one that passed them and waits at the slot that is held for it makes them no second time
(R159, R373). -/
def pathCheck (s : State) (w : Who) (slot : Nat) (opening : Bool) : Option TrapClass :=
  if (s.slot slot).claim = some w.claim ∧ s.claimStands w.claim then none else treeCheck s slot w.team.asid opening

/-- A tree instruction on an open slot, once no operation holds it, after the checks of R373 (R159). -/
def onSlot (s : State) (w : Who) (h : Word64) (km1 node : Bool) (f : State) : State :=
  if handleRefused h km1 node then trapScalar s w .reservedField
  else if s.claimed (hSlot h) w.claim then waitFor s w .tree
  else
    match pathCheck s w (hSlot h) false with
    | some c => trapScalar s w c
    | none => f

/-- The operation ends and the path continues at next. -/
def treeNext (w : Who) (s : State) (_ : Word64) : State := s.onPath w Path.next

/-- The issuing team's binding is of this slot, at a node that satisfies a test. -/
def Team.boundAt (t : Team) (slot : Nat) (hit : Nat → Bool) : Bool :=
  match t.binding with
  | some (k, n) => k == slot && hit n
  | none => false

/-! ## The changing instructions (R374) -/

/-- TNOPEN (R142, R374): for the path's ASID, or for TNASID in ASID 0. -/
def execTnopen (sd sa sb : Reg6) (s : State) : Outcome :=
  treeOp s false [sd, sa, sb] fun w =>
    let h := w.path.s sa
    let b := w.path.s sb
    let npl := (field b 0 8).toNat
    let rlog2 := (field b 8 4).toNat
    let asid := if w.team.asid = 0 then w.team.tnasid.toNat else w.team.asid
    if handleRefused h false false then trapScalar s w .reservedField
    else if s.claimed (hSlot h) w.claim then waitFor s w .tree
    else
      match pathCheck s w (hSlot h) true with
      | some c => trapScalar s w c
      | none =>
        if field b 12 52 ≠ 0 ∨ npl = 0 ∨ 254 < npl ∨ rlog2 < 8 ∨ 14 < rlog2 then trapScalar s w .reservedField
        else treeChange s w (some (hSlot h)) (fun s rel => s.treeOpen (hSlot h) asid npl rlog2 rel) (fun s v => writeNext s w sd v)

/-- TNFORK (R144, R150, R374). -/
def execTnfork (sd sa sb : Reg6) (s : State) : Outcome :=
  treeOp s (sd != 0) [sa, sb] fun w =>
    let h := w.path.s sa
    let b := w.path.s sb
    onSlot s w h false true
      (if field b 8 56 ≠ 0 then trapScalar s w .reservedField
       else treeChange s w (some (hSlot h)) (fun s rel => s.treeFork (hSlot h) (hNode h) (field b 0 8).toNat rel) (treeNext w))

/-- The read of one token identifier of a TNAPPEND, a weak load (R374). -/
def tokenAcc (a : Word64) (i : Nat) : Acc :=
  { kind := .load, addr := a + BitVec.ofNat 64 (4 * i), size := 4, ord := 0, scope := 0, strong := false, hint := 0,
    lane := none, uniform := false, tableOk := false }

/-- How the reads of a TNAPPEND end. -/
inductive TokensEnd where
  | tokens (s : State) (ts : List (BitVec 32))
  | trap (s : State) (c : TrapClass) (va : Word64)
  | held (s : State) (h : Hold) (i : Option FaultInfo) (va : Word64)
  | wait (r : Wait)

/-- The token identifiers of a TNAPPEND, from the address upward (R374). -/
def readTokens (w : Who) (a : Word64) : Nat → Nat → State → TokensEnd
  | _, 0, s => .tokens s []
  | i, n + 1, s =>
    let x := tokenAcc a i
    match firstChecks s w x with
    | some c => .trap s c x.addr
    | none =>
      match s.follow w x with
      | (s1, .err c) => .trap s1 c x.addr
      | (_, .later) => .wait .lease
      | (s1, .held h f) => .held s1 h f x.addr
      | (s1, .at_ t) =>
        match s1.mustWait w x t with
        | some r => .wait r
        | none =>
          match s1.performLoad w x t .nothing with
          | (_, none) => .wait .loads
          | (s2, some b) =>
            match readTokens w a (i + 1) n s2 with
            | .tokens s3 ts => .tokens s3 (BitVec.ofNat 32 (ofBytes b) :: ts)
            | e => e

/-- TNAPPEND (R144, R145, R374): the identifiers are read before the operation performs. -/
def execTnappend (sd sa sb : Reg6) (s : State) : Outcome :=
  treeOp s false [sd, sa, sb] fun w =>
    let h := w.path.s sa
    let b := w.path.s sb
    let n := hKm1 h + 1
    onSlot s w h true true
      (if spaceOf b ≠ 0 ∧ spaceOf b ≠ 6 then trapScalar s w .badSpace b
       else if b.toNat % 4 ≠ 0 then trapScalar s w .misaligned b
       else if !appendCheck s (hSlot h) (hNode h) n then trapScalar s w .treeState
       else if s.acquiring w false then waitFor s w .fence
       else
         match readTokens w b 0 n s with
         | .trap s1 c va => trapScalar s1 w c va
         | .held s1 k i va => heldAt s1 w k 0 false i va
         | .wait r => waitFor s w r
         | .tokens s1 ts =>
           watchStop
             (treeChange s1 w (some (hSlot h)) (fun s rel => s.treeAppend (hSlot h) (hNode h) ts rel rel)
               (fun s v => writeNext s w sd v))
             w (watchMatch s1 w ((List.range n).map (tokenAcc b))) false)

/-- TNPRUNE (R156, R374). -/
def execTnprune (sd sa sb : Reg6) (s : State) : Outcome :=
  treeOp s (sd != 0 || sb != 0) [sa] fun w =>
    let h := w.path.s sa
    let k := s.slot (hSlot h)
    onSlot s w h false true
      (if w.team.boundAt (hSlot h) (fun n => (k.node n).anc.getLsbD (hNode h)) then trapScalar s w .treeState
       else treeChange s w (some (hSlot h)) (fun s rel => s.treePrune (hSlot h) (hNode h) rel) (treeNext w))

/-- A commit of a node's path would prune this node: it is live and neither the trunk nor on the path (R157). -/
def commitPrunes (k : Slot) (n m : Nat) : Bool := n != 0 && m != 0 && !(pathTo k 256 n).contains m && (k.node m).state == 1

/-- TNCOMMIT (R153, R374). -/
def execTncommit (sd sa sb : Reg6) (s : State) : Outcome :=
  treeOp s (sd != 0 || sb != 0) [sa] fun w =>
    let h := w.path.s sa
    let k := s.slot (hSlot h)
    onSlot s w h false true
      (if w.team.boundAt (hSlot h) (commitPrunes k (hNode h)) then trapScalar s w .treeState
       else treeChange s w (some (hSlot h)) (fun s rel => s.treeCommit (hSlot h) (hNode h) rel) (treeNext w))

/-- TNRETIRE (R158, R374, R375): it performs once, and completes when the slot has become free again. -/
def execTnretire (sd sa sb : Reg6) (s : State) : Outcome :=
  treeOp s (sd != 0 || sb != 0) [sa] fun w =>
    let h := w.path.s sa
    let slot := hSlot h
    match w.path.wait with
    | some (.retiring gen) =>
      let k := s.slot slot
      if k.state = 2 ∧ k.gen = gen then s else s.onPath w Path.next
    | _ =>
      onSlot s w h false false
        (if w.team.boundAt slot (fun _ => true) then trapScalar s w .treeState
         else treeChange s w (some slot) (fun s rel => .done (s.treeRetire slot rel) 0) fun s _ =>
           let k := s.slot slot
           if k.state = 2 then waitFor s w (.retiring k.gen) else s.onPath w Path.next)

/-- The binding of a team is set at the home Bracken (R155): none when its table is full. -/
def State.treeBind (s : State) (w : Who) (slot n rel : Nat) : TreeRes :=
  if ((s.slot slot).node n).state ≠ 1 then .trap .treeState
  else
    let same := w.team.boundAt slot (fun _ => true) || (match w.team.binding with
      | some (k, _) => k % 2 == slot % 2
      | none => false)
    if !same && decide (16384 ≤ s.bindings (slot % 2)) then .wait s
    else
      let s := s.modTeam w.key (fun t => { t with binding := some (slot, n) })
      .done (s.modKv (fun k => { k with slots := AMap.modify slot (fun x => { x with rel := max x.rel rel }) k.slots })) 0

/-- TNBIND (R155, R374): with bit 63 alone it unbinds, with no check of a slot, behind the operations on the slot that the team is bound
to (R159). -/
def execTnbind (sd sa sb : Reg6) (s : State) : Outcome :=
  treeOp s (sd != 0 || sb != 0) [sa] fun w =>
    let h := w.path.s sa
    if h.getLsbD 63 then
      (if field h 0 63 ≠ 0 then trapScalar s w .reservedField
       else
         let slot := w.team.binding.map (·.1)
         if slot.any (fun k => s.claimed k w.claim) then waitFor s w .tree
         else treeChange s w slot (fun s _ => .done (s.modTeam w.key (fun t => { t with binding := none })) 0) (treeNext w))
    else
      onSlot s w h false true
        (treeChange s w (some (hSlot h)) (fun s rel => s.treeBind w (hSlot h) (hNode h) rel) (treeNext w))

/-! ## The reading instructions (R374, R377) -/

/-- TNSTAT's value (R377): a slot that is free or retiring reads zero but for SST. -/
def statWord (k : Slot) (n : Nat) : Word64 :=
  let nd := k.node n
  if k.state ≠ 1 then BitVec.ofNat 64 (k.state % 4 * 2 ^ 60)
  else BitVec.ofNat 64 (nd.parent + nd.start * 2 ^ 18 + nd.len * 2 ^ 36 + k.state % 4 * 2 ^ 60 + nd.state % 4 * 2 ^ 62)

/-- TNSTAT (R373, R377): a team of ASID 0 reads a slot in any state. -/
def execTnstat (sd sa sb : Reg6) (s : State) : Outcome :=
  treeOp s (sb != 0) [sd, sa] fun w =>
    let h := w.path.s sa
    if handleRefused h false true then trapScalar s w .reservedField
    else if s.claimed (hSlot h) w.claim then waitFor s w .tree
    else
      match treeCheck s (hSlot h) w.team.asid (decide (w.team.asid = 0)) with
      | some c => trapScalar s w c
      | none => writeNext (s.acquireT w.key w.pi (s.slot (hSlot h)).rel) w sd (statWord (s.slot (hSlot h)) (hNode h))

/-- The plane-255 address of a token identifier (R147, R374). -/
def tokenAddr (slot node pos : Nat) : Word64 :=
  BitVec.ofNat 64 (5 * 2 ^ 60 + 255 * 2 ^ 52 + slot * 2 ^ 40 + node * 2 ^ 32 + pos * 2 ^ 14)

/-- TNTOK (R374): a strong acquire load at device scope of the token plane. -/
def execTntok (sd sa sb : Reg6) (s : State) : Outcome :=
  treeOp s false [sd, sa, sb] fun w =>
    let h := w.path.s sa
    let b := w.path.s sb
    onSlot s w h false true
      (if field b 18 46 ≠ 0 then trapScalar s w .reservedField
       else
         let a : Acc := { kind := .load, addr := tokenAddr (hSlot h) (hNode h) b.toNat, size := 4, ord := 1, scope := 2,
                          strong := true, hint := 0, lane := none, uniform := false, tableOk := false }
         scalarAccess s w a fun s t =>
           match s.performLoad w a t .nothing with
           | (s, none) => s
           | (s, some d) =>
             writeNext (s.acquireT w.key w.pi (s.slot (hSlot h)).rel) w sd (BitVec.ofNat 64 (ofBytes d)))

/-! ## TNMASK (R154, R378) -/

/-- The key column of a number in flat order: its node and position (R154). -/
def flatColumn (k : Slot) (col : Nat) : Option (Nat × Nat) :=
  let trunk := (k.node 0).len
  if col < trunk then some (0, col)
  else
    let rest := k.nodes.filter (fun e => e.1 != 0 && e.2.state == 1)
    (rest.foldl (fun (r : Nat × Option (Nat × Nat)) e =>
      match r.2 with
      | some c => (r.1, some c)
      | none => if col < r.1 + e.2.len then (r.1, some (e.1, e.2.start + (col - r.1))) else (r.1 + e.2.len, none))
      (trunk, none)).2

/-- One mask bit: the query at position `j` of node `q` sees the column (R154). -/
def maskBit (k : Slot) (q j win col : Nat) : Bool :=
  match flatColumn k col with
  | none => false
  | some (n, pos) => (k.node q).anc.getLsbD n && decide (pos ≤ j) && (win == 0 || n != 0 || decide (j - pos < win))

/-- The 32 mask bits of a query's row from a first column (R378). -/
def maskWord (k : Slot) (q j win c0 : Nat) : Word32 :=
  let nd := k.node q
  if nd.state ≠ 1 ∨ nd.start + nd.len ≤ j then 0
  else BitVec.ofNat 32 ((List.range 32).foldl (fun a i => a + (if maskBit k q j win (c0 + i) then 2 ^ i else 0)) 0)

end Sys2Proof.Machine
end

