-- ==== Sys2Proof/Machine/LanePerm.lean ====
section
/-!
DEFINITION. Ballots, prefix counts, shuffles, lane numbers, predicates, index-register moves (R329 to R335) and TNMASK (R378).
-/

namespace Sys2Proof.Machine

/-! ## Predicates (R329) -/

/-- The specification of an instruction on predicates or index registers: no type, no b operand. -/
def noTypeSpec (mods : BitVec 6) (reserved : LaneFields → Bool) (x : LaneCtx) : LaneSpec :=
  { LaneSpec.plain with reserved := modRefused x.f mods || reserved x.f }

/-- A predicate operation (R329). -/
def predLane (s : State) (f : LaneFields) (g : Bool → Bool → Bool) : Outcome :=
  laneOp s f
    (noTypeSpec 0 fun f => field f.vd 3 5 != 0 || field f.va 3 5 != 0 || field f.vb 3 5 != 0 || f.bsel != 0 || f.vc != 0
      || f.ss != 0 || f.imm != 0)
    fun s x => x.writeLanes s (fun t l =>
      t.setP l x.f.vd.toNat (g (x.team.p l x.f.va.toNat) (x.team.p l x.f.vb.toNat)))

/-- VPAND (R329). -/
def execVpand (f : LaneFields) (s : State) : Outcome := predLane s f fun a b => a && b

/-- VPOR (R329). -/
def execVpor (f : LaneFields) (s : State) : Outcome := predLane s f fun a b => a || b

/-- VPXOR (R329). -/
def execVpxor (f : LaneFields) (s : State) : Outcome := predLane s f fun a b => a != b

/-- VPANDN (R329). -/
def execVpandn (f : LaneFields) (s : State) : Outcome := predLane s f fun a b => a && !b

/-! ## Ballot and prefix count (R330, R331) -/

/-- t(l) of R330: the lane is active and its predicate true. -/
def LaneCtx.vote (x : LaneCtx) (l : Nat) : Bool := x.lanes.contains l && x.team.p l (x.f.va.toNat % 8)

/-- A clause's scalar destination is written: its mark on the scoreboard goes, one of its entries for the register (R195). -/
def Path.landScalar (p : Path) (clause : Nat) (sd : Reg6) (v : Word64) : Path :=
  let clear := fun (c : Clause) => if c.id = clause then { c with dests := c.dests.erase sd.toNat } else c
  { p.setS sd v with run := p.run.map clear, done := p.done.map clear }

/-- An earlier MSTAT of the path has still to write a scalar register (R195). -/
def LaneCtx.statPending (x : LaneCtx) (sd : Nat) : Bool := x.team.seq.any (fun m => m.writes x.w.pi sd)

/-- VBALLOT (R330): the scalar destination lands when the instruction completes, after an earlier MSTAT's write to the same register
(R195). -/
def execVballot (f : LaneFields) (s : State) : Outcome :=
  laneOp s f
    (noTypeSpec 1 fun f => field f.vd 6 2 != 0 || field f.va 3 5 != 0 || f.bsel != 0 || f.vb != 0 || f.vc != 0 || f.ss != 0
      || (if f.md.getLsbD 0 then f.imm != 0 else field f.imm 4 28 != 0))
    fun s x =>
      let w := 64 * x.f.imm.toNat
      let v := if x.f.md.getLsbD 0 then (x.lanes.filter x.vote).length
        else (List.range 64).foldl (fun a k => a + (if x.vote (w + k) then 2 ^ k else 0)) 0
      if x.statPending (field x.f.vd 0 6 : Reg6).toNat then s
      else laneDone (s.onPath x.w (fun p => p.landScalar x.c.id (field x.f.vd 0 6) (BitVec.ofNat 64 v))) x.w

/-- VPREFIX (R331). -/
def execVprefix (f : LaneFields) (s : State) : Outcome :=
  laneOp s f
    (fun x => { noTypeSpec 1 (fun f => field f.va 3 5 != 0 || f.bsel != 0 || f.vb != 0 || f.vc != 0 || f.ss != 0
        || f.imm != 0) x with groups := [group 0 x.f.vd 1 true] })
    fun s x => x.writeVd s 0 (fun l =>
      (x.lanes.filter (fun m => x.vote m && (decide (m < l) || (x.f.md.getLsbD 0 && m == l)))).length)

/-! ## Shuffles (R332, R333) -/

/-- A shuffle: `src` gives the source lane from the lane, the control value and the segment size (R332). -/
def shuffle (s : State) (f : LaneFields) (src : Nat → Nat → Nat → Nat) : Outcome :=
  laneOp s f
    (fun x =>
      let g := (field x.f.md 0 4).toNat
      { arithSpec clsW true false 0x0F x with
        reserved := modRefused x.f 0x0F || g == 0 || decide (10 < g) || x.f.vc != 0 || bRefused x.f x.ty })
    fun s x =>
      let ty := x.ty
      let seg := 2 ^ (field x.f.md 0 4).toNat
      x.writeVd s ty (fun l =>
        let m := src l (x.b ty l % 2 ^ 32) seg
        if m < x.team.k.lanes then x.team.rd ty m x.f.va.toNat else 0)

/-- VSHFLI (R332). -/
def execVshfli (f : LaneFields) (s : State) : Outcome := shuffle s f fun l k seg => l - l % seg + k % seg

/-- VSHFLX (R332). -/
def execVshflx (f : LaneFields) (s : State) : Outcome := shuffle s f fun l k seg => l - l % seg + (l % seg ^^^ k % seg)

/-- VSHFLU (R332). -/
def execVshflu (f : LaneFields) (s : State) : Outcome :=
  shuffle s f fun l k seg => if k < seg ∧ k ≤ l % seg then l - k else l

/-- VSHFLD (R332). -/
def execVshfld (f : LaneFields) (s : State) : Outcome :=
  shuffle s f fun l k seg => if k < seg ∧ l % seg + k < seg then l + k else l

/-! ## Lane number and index registers (R334, R335) -/

/-- VLANEID (R334). -/
def execVlaneid (f : LaneFields) (s : State) : Outcome :=
  laneOp s f
    (fun x => { noTypeSpec 0 (fun f => f.va != 0 || f.bsel != 0 || f.vb != 0 || f.vc != 0 || f.ss != 0 || f.imm != 0) x with
      groups := [group 0 x.f.vd 1 true] })
    fun s x => x.writeVd s 0 id

/-- The specification of VXSET and VXADD: a 32-bit b operand from a register, a scalar or an immediate (R335). -/
def indexSpec (reserved : LaneFields → Bool) (x : LaneCtx) : LaneSpec :=
  { noTypeSpec 0 (fun f => reserved f || f.bsel == 3 || field f.vd 3 5 != 0 || f.vc != 0 || bRefused f 0) x with
    groups := bGroups x 0 1 }

/-- VXSET (R335). -/
def execVxset (f : LaneFields) (s : State) : Outcome :=
  laneOp s f (indexSpec fun f => f.va != 0) fun s x =>
    x.writeLanes s (fun t l => t.setX l (x.f.vd.toNat % 8) (BitVec.ofNat 32 (x.b 0 l)))

/-- An index register with INDEX advanced (R335). -/
def xAdvance (v : Word32) (n : Nat) : Word32 :=
  BitVec.ofNat 32 (v.toNat / 2 ^ 8 * 2 ^ 8 + (xIndex v + n % 256) % 256)

/-- VXADD (R335). -/
def execVxadd (f : LaneFields) (s : State) : Outcome :=
  laneOp s f (indexSpec fun f => field f.va 3 5 != 0) fun s x =>
    x.writeLanes s (fun t l => t.setX l (x.f.vd.toNat % 8) (xAdvance (x.team.x l (x.f.va.toNat % 8)) (x.b 0 l)))

/-- VXMOV (R335). -/
def execVxmov (f : LaneFields) (s : State) : Outcome :=
  laneOp s f
    (fun x => { noTypeSpec 0 (fun f => field f.va 3 5 != 0 || f.bsel != 0 || f.vb != 0 || f.vc != 0 || f.ss != 0
        || f.imm != 0) x with groups := [group 0 x.f.vd 1 true] })
    fun s x => x.writeVd s 0 (fun l => (x.team.x l (x.f.va.toNat % 8)).toNat)

/-! ## TNMASK (R378) -/

/-- TNMASK (R378): the slot and window come from SS, the query of a lane from va, and the first column from b. -/
def execTnmask (f : LaneFields) (s : State) : Outcome :=
  laneOp s f
    (fun x =>
      let v := x.c.scalar x.f.ss
      { noTypeSpec 0 (fun f => f.vc != 0 || f.bsel == 1 || f.bsel == 3
          || (if f.bsel = 0 then f.imm != 0 else f.vb != 0)
          || field v 12 20 != 0 || field v 50 14 != 0) x with
        groups := [group 0 x.f.vd 1 true, group 0 x.f.va 1 false] ++ bGroups x 0 1 })
    fun s x =>
      let v := x.c.scalar x.f.ss
      let slot := (field v 0 12).toNat
      match treeCheck s slot x.team.asid false with
      | some c => trapLane s x.w c x.firstLane 0
      | none =>
        let k := s.slot slot
        x.writeVd s 0 (fun l =>
          let q := x.team.v l x.f.va.toNat
          (maskWord k (field q 0 8).toNat (field q 8 18).toNat (field v 32 18).toNat (x.b 0 l)).toNat)

end Sys2Proof.Machine
end

