-- ==== Sys2Proof/Machine/Matrix.lean ====
section
/-!
DEFINITION. The matrix instructions and the sequencer that runs them (R88, R221 to R228, R355 to R363).
-/

namespace Sys2Proof.Machine

/-! ## Fields and modes (R221, R355) -/

/-- TILE, MOD[29:26]. -/
def tileOf (f : LaneFields) : Nat := (field f.md 0 4).toNat

/-- The mode of a pair of operand formats, or none where R221 allows none. -/
def pairMode (fa fb : Nat) : Option TileMode :=
  let ex := fun t => decide (8 ≤ t) && decide (t ≤ 11)
  let wd := fun t => t == 6 || t == 7
  if ex fa && ex fb then some .exact else if wd fa && wd fb then some .wide else none

/-- FA and FB of a format register (R212). -/
def fmtFa (fmt : BitVec 32) : Nat := bits 3 0 fmt.toNat
def fmtFb (fmt : BitVec 32) : Nat := bits 7 4 fmt.toNat

/-- The mode record after an operation, from the record before it (R221, R357, R358, R362). -/
def MatOp.modeAfter (m : MatOp) (r : TileMode) : TileMode :=
  match m.kind with
  | .mzero => .cleared
  | .mloop _ _ _ _ _ _ _ _ => (pairMode (fmtFa m.fmt) (fmtFb m.fmt)).getD r
  | .mwr _ _ _ wide _ _ => if r = .cleared then (if wide then .wide else .exact) else r
  | .mrd _ _ _ => r
  | .mstat _ => r
  | .drain _ => r

/-- The mode record of a tile as an instruction finds it at issue: after every operation issued before it (R358). -/
def Team.record (t : Team) (k : Nat) : TileMode :=
  (t.seq.filter (fun m => m.tile == k)).foldl (fun r m => m.modeAfter r) (t.tile k).mode

/-- The fields of a matrix instruction that are refused: its tile, and BSEL. `used` are the registers and bits that the
instruction does not use (R355). -/
def matRefused (x : LaneCtx) (unused : Bool) : Bool :=
  decide (x.team.k.tileCount ≤ tileOf x.f) || x.f.bsel != 0 || unused

/-- The specification of a matrix instruction whose TYPE is zero. -/
def matSpec (unused : LaneFields → Bool) (x : LaneCtx) : LaneSpec :=
  { LaneSpec.plain with reserved := matRefused x (unused x.f) }

/-- A matrix instruction enters the sequencer of its team; `long` marks one that its clause waits for (R193, R356). -/
def enterSequencer (s : State) (x : LaneCtx) (k : MatKind) (long : Bool) : State :=
  let op : MatOp := { tile := tileOf x.f, path := x.w.pi, clause := x.c.id, fmt := x.c.fmt, kind := k }
  let s := if long then s.onPath x.w (fun p => p.clauseMore x.c.id) else s
  laneDone (s.modTeam x.w.key (fun t => { t with seq := t.seq ++ [op] })) x.w

/-- A matrix instruction that takes one of the four places of the sequencer, or stops its clause until one is free (R356). -/
def sequence (s : State) (x : LaneCtx) (k : MatKind) : State :=
  if x.team.sequencerFull then waitSlot s x .sequencer else enterSequencer s x k true

/-! ## MZERO and MSTAT (R357, R363) -/

/-- MZERO (R357): it finishes at issue, and the clear takes its place in tile order. -/
def execMzero (f : LaneFields) (s : State) : Outcome :=
  laneOp s f
    (matSpec fun f => f.gp != 0 || field f.md 4 2 != 0 || f.vd != 0 || f.va != 0 || f.vb != 0 || f.vc != 0 || f.ss != 0
      || f.imm != 0)
    fun s x => enterSequencer s x .mzero false

/-- MSTAT (R363). -/
def execMstat (f : LaneFields) (s : State) : Outcome :=
  laneOp s f
    (matSpec fun f => f.gp != 0 || field f.md 4 2 != 0 || field f.vd 6 2 != 0 || f.va != 0 || f.vb != 0 || f.vc != 0
      || f.ss != 0 || f.imm != 0)
    fun s x => sequence s x (.mstat (f.vd.toNat % 64))

/-! ## MLOOP and MLOOPP (R358, R359) -/

/-- STEPS, INCA and INCB. -/
def loopSteps (f : LaneFields) : Nat := (field f.imm 0 8).toNat + 1
def loopIncA (f : LaneFields) : Nat := (field f.imm 8 8).toNat
def loopIncB (f : LaneFields) : Nat := (field f.imm 16 8).toNat

/-- ScaleByte(s) of a scale register (R358). -/
def Team.scaleByte (t : Team) (v s : Nat) : Int := toSigned 8 ((t.v (s / 4) v).toNat / 2 ^ (8 * (s % 4)))

/-- The word, team and registers of an MLOOP are refused (R355, R358). -/
def loopRefused (x : LaneCtx) (paired : Bool) : Bool :=
  let f := x.f
  let r := stepRegs (fmtFa x.c.fmt) (fmtFb x.c.fmt) paired
  let n := loopSteps f - 1
  f.gp != 0 || f.md.getLsbD 5 || f.vd != 0 || f.ss != 0 || field f.imm 24 8 != 0 || (!hasScale f && f.vc != 0)
    || x.team.k.lanes != 1024 || x.team.k.pair != paired
    || decide (x.team.vcount < f.va.toNat + n * loopIncA f + r.1) || decide (x.team.vcount < f.vb.toNat + n * loopIncB f + r.2)
    || (hasScale f && decide (x.team.vcount ≤ f.vc.toNat))

/-- A scale byte of an exact pair lies outside 0 to 16 (R358). -/
def scaleRefused (x : LaneCtx) : Bool :=
  hasScale x.f && pairMode (fmtFa x.c.fmt) (fmtFb x.c.fmt) == some .exact
    && (List.range (loopSteps x.f)).any (fun i =>
      decide (x.team.scaleByte x.f.vc.toNat i < 0) || decide (16 < x.team.scaleByte x.f.vc.toNat i))

/-- The pair of formats has no mode, or one other than the tile's record (R221, R358). -/
def loopModeRefused (x : LaneCtx) : Bool :=
  match pairMode (fmtFa x.c.fmt) (fmtFb x.c.fmt) with
  | none => true
  | some m => x.team.record (tileOf x.f) != .cleared && x.team.record (tileOf x.f) != m

/-- FA or FB is a format of exact mode, which reduced service refuses (R15). -/
def exactWork (x : LaneCtx) : Bool :=
  let ex := fun t => decide (8 ≤ t) && decide (t ≤ 11)
  ex (fmtFa x.c.fmt) || ex (fmtFb x.c.fmt)

/-- An MLOOP of either form (R358). The bytes of the scale register are checked once its pending writes have landed, and so
is the mode after them. -/
def loopOp (paired : Bool) (f : LaneFields) (s : State) : Outcome :=
  laneOp s f
    (fun x => { matSpec (fun _ => loopRefused x paired) x with
      viaIndex := if hasScale f && pairMode (fmtFa x.c.fmt) (fmtFb x.c.fmt) == some .exact then [group 14 f.vc 1 false] else [] })
    fun s x =>
      if scaleRefused x then trapLane s x.w .reservedField x.firstLane 0
      else if loopModeRefused x || (s.dev.svc == 1 && exactWork x) then trapLane s x.w .illegalType x.firstLane 0
      else if x.lanes.isEmpty then laneDone s x.w
      else
        sequence s x (.mloop f.va.toNat f.vb.toNat (loopSteps f) (loopIncA f) (loopIncB f)
          (if hasScale f then some f.vc.toNat else none) paired 0)

/-- MLOOP (R358). -/
def execMloop (f : LaneFields) (s : State) : Outcome := loopOp false f s

/-- MLOOPP (R358). -/
def execMloopp (f : LaneFields) (s : State) : Outcome := loopOp true f s

/-! ## MRD and MWR (R360 to R362) -/

/-- Rows of the accumulator of a team: those of both cores when it is paired (R228). -/
def Team.tileRows (t : Team) : Nat := if t.k.pair then 256 else 128

/-- The first row of a block (R360). -/
def LaneCtx.row0 (x : LaneCtx) : Nat :=
  (x.c.scalar x.f.ss + (field x.f.imm 0 9 : BitVec 9).zeroExtend 64).toNat

/-- The block of a type passes the last row (R360). -/
def blockRefused (x : LaneCtx) (ty : Nat) : Bool := decide (x.team.tileRows < x.row0 + 8 * packCount ty)

/-- MRD (R361). -/
def execMrd (f : LaneFields) (s : State) : Outcome :=
  laneOp s f
    (fun x =>
      let fr := fmtFr x.c.fmt
      { matSpec (fun f => field f.md 4 2 != 0 || f.va != 0 || f.vb != 0 || f.vc != 0 || field f.imm 9 23 != 0
          || (group fr f.vd 1 true).refused x.team.vcount || blockRefused x fr) x with
        badType := !frAllowed fr || x.team.record (tileOf f) == .cleared })
    fun s x => sequence s x (.mrd f.vd.toNat x.row0 (maskOf x.lanes))

/-- MWR (R362): WM is MOD[30] and ADD is MOD[31]. In reduced service no cleared tile enters exact mode (R15). -/
def execMwr (f : LaneFields) (s : State) : Outcome :=
  laneOp s f
    (fun x =>
      let wm : TileMode := if f.md.getLsbD 4 then .wide else .exact
      { matSpec (fun f => f.vd != 0 || f.vb != 0 || f.vc != 0 || field f.imm 9 23 != 0
          || (wordsGroup f.ty.toNat f.va 1 false).refused x.team.vcount || blockRefused x f.ty.toNat) x with
        types := some clsMw,
        badType := if x.team.record (tileOf f) = .cleared then s.dev.svc == 1 && wm == .exact
          else x.team.record (tileOf f) != wm })
    fun s x => sequence s x (.mwr f.va.toNat x.row0 f.ty.toNat (f.md.getLsbD 4) (f.md.getLsbD 5) (maskOf x.lanes))

/-! ## A step of the engine (R222, R223, R226, R228, R359) -/

/-- The K-range of a step (R226). -/
def stepK (fa fb : Nat) : Nat := if elemBits fa = 16 then 16 else if fa = 9 ∧ fb = 9 then 64 else 32

/-- A(i, k) of a step whose first A register is `a` (R226, R228). -/
def Team.fragA (t : Team) (paired : Bool) (fa a i k : Nat) : FNum :=
  let n := packCount fa
  let kk := k % 32
  if paired then
    decodeElem fa (elemAt fa (t.v (512 * (i / 128) + i % 64 * 8 + kk / n) (a + 2 * (k / 32) + i % 128 / 64)).toNat (kk % n))
  else decodeElem fa (elemAt fa (t.v (i * 8 + kk / n) (a + k / 32)).toNat (kk % n))

/-- B(k, j) of a step whose first B register is `b` (R226, R228). -/
def Team.fragB (t : Team) (paired : Bool) (fb b k j : Nat) : FNum :=
  let n := packCount fb
  let kk := k % 32
  if paired then
    decodeElem fb (elemAt fb (t.v (512 * (kk / (4 * n)) + j * 4 + kk % (4 * n) / n) (b + k / 32)).toNat (kk % n))
  else decodeElem fb (elemAt fb (t.v (j * 8 + kk / n) (b + k / 32)).toNat (kk % n))

/-- One product added to an exact entry; none is NaR (R222). -/
def addExact (e : Int) (acc : Option Int) (a b : FNum) : Option Int :=
  match acc, FNum.mul a b with
  | some t, .fin s q x _ =>
    let u := t + signedAt s q (x + e) (-24)
    if ((2 ^ 95 - 1 : Nat) : Int) < u.natAbs then none else some u
  | _, _ => none

/-- An exact entry after the products of a step (R222). -/
def stepExact (e : Int) (ps : List (FNum × FNum)) (x : Nat) : Nat :=
  let acc : Option Int := if x % 2 ^ 96 = exactNar then none else some (toSigned 96 x)
  match ps.foldl (fun t p => addExact e t p.1 p.2) acc with
  | none => exactNar
  | some v => ofSigned 96 v

/-- A wide-float entry after the products of a step: one exact sum, rounded once (R223). -/
def stepWide (e : Int) (ps : List (FNum × FNum)) (x : Nat) : Nat :=
  roundWide (ps.foldl (fun v p => FNum.add false v ((FNum.mul p.1 p.2).scale e)) (decodeWide x))

/-- A tile with the given value at each entry, in a mode; BAD is set by an entry that is NaR, NaN or infinite (R363). -/
def Tile.fill (t : Tile) (rows : Nat) (m : TileMode) (v : Nat → Nat → Nat) : Tile :=
  let new := (List.range (rows * 128)).map (fun i => (i, v (i / 128) (i % 128)))
  { mode := m, bad := t.bad || new.any (fun e => !(entryValue m e.2).isFin),
    entries := new.filterMap (fun e => if e.2 % 2 ^ 96 = 0 then none else some (e.1, BitVec.ofNat 96 e.2)) }

/-- A step on a tile: the A and B registers and the scale exponent (R222, R223, R359). -/
def Team.loopStep (t : Team) (tile : Nat) (fmt : BitVec 32) (paired : Bool) (a b : Nat) (e : Int) : Team :=
  let fa := fmtFa fmt
  let fb := fmtFb fmt
  let old := t.tile tile
  let ps := fun i j => (List.range (stepK fa fb)).map (fun k => (t.fragA paired fa a i k, t.fragB paired fb b k j))
  match pairMode fa fb with
  | some .wide => t.setTile tile (old.fill t.tileRows .wide (fun i j => stepWide e (ps i j) (old.entry i j)))
  | _ => t.setTile tile (old.fill t.tileRows .exact (fun i j => stepExact e (ps i j) (old.entry i j)))

/-! ## The other operations of the sequencer -/

/-- The entry of element `e` of lane `l` in a block (R360). -/
def blockEntry (n row0 l e : Nat) : Nat × Nat := (row0 + (l * n + e) / 128, (l * n + e) % 128)

/-- A lane exists and takes part (R360). -/
def Team.takes (t : Team) (lanes : Mask) (l : Nat) : Bool := decide (l < t.k.lanes) && lanes.getLsbD l

/-- MRD performs (R361): the read-out of each active lane's entries. -/
def Team.readBlock (t : Team) (tile : Nat) (fmt : BitVec 32) (vd row0 : Nat) (lanes : Mask) : Team :=
  let fr := fmtFr fmt
  let n := packCount fr
  let ls := lanesOf lanes t.k.lanes
  let act := fun row col => decide (row0 ≤ row) && t.takes lanes (((row - row0) * 128 + col) / n)
  let v := fun l => packElems fr ((List.range n).map (fun e =>
    let q := blockEntry n row0 l e
    (t.tile tile).readOut fmt (act q.1) q.1 q.2))
  ls.foldl (fun u l => u.wr fr l vd (v l)) t

/-- The value that MWR gives an entry: in the tile's mode, from the source value and the old entry (R362). -/
def writeEntry (m : TileMode) (add : Bool) (rm : Rm) (h : Nat) (v : FNum) (old : Nat) : Nat :=
  match m with
  | .wide =>
    let y := roundWide v
    if add then roundWide (FNum.add false (decodeWide old) (decodeWide y)) else y
  | _ =>
    match v with
    | .fin s q e more =>
      let y := roundInt (-24) rm h s q e more
      if add then (if old % 2 ^ 96 = exactNar then exactNar else encodeExact (toSigned 96 old + y)) else encodeExact y
    | _ => exactNar

/-- MWR performs (R362): each active lane's elements go into the block. -/
def Team.writeBlock (t : Team) (tile : Nat) (fmt : BitVec 32) (va row0 ty : Nat) (wide add : Bool) (lanes : Mask) : Team :=
  let n := packCount ty
  let old := t.tile tile
  let m : TileMode := if old.mode = .cleared then (if wide then .wide else .exact) else old.mode
  let c := convOf fmt
  let src := fun l e =>
    let v := decodeElem ty (elemAt ty (t.v l va).toNat e)
    if ty = 8 ∨ ty = 9 then v.scale c.dsc else v
  let h := fun l e => if c.rm = .stochastic then
      stochasticH (fun i => if t.takes lanes (l / 32 * 32 + i) then discardInt (-24) (src (l / 32 * 32 + i) e) else 0) (l % 32)
    else 0
  let val := fun row col =>
    let q := (row - row0) * 128 + col
    if row0 ≤ row ∧ t.takes lanes (q / n) then
      writeEntry m add c.rm (h (q / n) (q % n)) (src (q / n) (q % n)) (old.entry row col)
    else old.entry row col
  t.setTile tile (old.fill t.tileRows m val)

/-- MODE of MSTAT (R363). -/
def TileMode.code : TileMode → Nat
  | .cleared => 0 | .exact => 1 | .wide => 2

/-- The word that MSTAT writes (R363). -/
def Team.tileStatus (t : Team) (tile : Nat) : BitVec 64 :=
  BitVec.ofNat 64 ((t.tile tile).mode.code + (if (t.tile tile).bad then 4 else 0) + (if t.k.pair then 8 else 0)
    + t.k.tileCount % 256 * 2 ^ 8)

/-! ## The sequencer (R227, R356) -/

/-- The registers that the next part of an operation reads or writes: one step of an MLOOP, or the whole operation. -/
def MatOp.now (m : MatOp) : List RegGroup :=
  match m.kind with
  | .mloop a b _ incA incB scale paired next => { m with kind := .mloop a b (next + 1) incA incB scale paired next }.groups
  | _ => m.groups

/-- The operation is the next step of an MLOOP of this form. -/
def MatOp.isLoop (m : MatOp) (paired : Bool) : Bool :=
  match m.kind with
  | .mloop _ _ _ _ _ _ p _ => p == paired
  | _ => false

/-- An MSTAT at a position comes after another that writes its scalar register: their writes land in clause order (R195). -/
def statWaits (seq : List MatOp) (n : Nat) (m : MatOp) : Bool :=
  match m.kind with
  | .mstat sd => (seq.take n).any (fun o => o.writes m.path sd)
  | _ => false

/-- The operation at a position of a team's sequencer can begin: it is the first on its tile, the team runs, no register
it names has an earlier read or write pending (R92, R194, R356), and no earlier write to its scalar register has still to land (R195). -/
def State.matReady (s : State) (key : Nat) (t : Team) (n : Nat) : Bool :=
  match t.seq[n]? with
  | none => false
  | some m =>
    t.phase == .running && firstOnTile t.seq n && !statWaits t.seq n m
      && (match m.kind with
        | .drain _ => false
        | _ => true)
      && !(s.pendingLoads key ++ (t.seq.take n).flatMap MatOp.groups).any (fun p => m.now.any (fun g => p.blocks g))

/-- An operation of the sequencer has ended: its place is free, and its clause counts it no longer (R193, R356). -/
def State.matDone (s : State) (key n : Nat) (m : MatOp) : State :=
  let s := s.modTeam key (fun t => { t with seq := t.seq.eraseIdx n })
  if m.counts then (s.modTeam key (fun t => t.landPath m.path (fun p => p.clauseDone m.clause 1))).replayHeld (fun h => h == Hold.sequencer)
  else s

/-- The operation at a position begins and ends: one step of an MLOOP, or the whole of another operation. -/
def State.matRun (s : State) (key n : Nat) (t : Team) (m : MatOp) : State :=
  match m.kind with
  | .mzero => (s.setTeam key (t.setTile m.tile Tile.blank)).matDone key n m
  | .mloop a b steps incA incB scale paired next =>
    let e : Int := match scale with
      | some v => t.scaleByte v next
      | none => 0
    let t' := t.loopStep m.tile m.fmt paired (a + next * incA) (b + next * incB) e
    if next + 1 < steps then
      let m' : MatOp := { m with kind := .mloop a b steps incA incB scale paired (next + 1) }
      s.setTeam key { t' with seq := t'.seq.set n m' }
    else (s.setTeam key t').matDone key n m
  | .mrd vd row0 lanes => (s.setTeam key (t.readBlock m.tile m.fmt vd row0 lanes)).matDone key n m
  | .mwr va row0 ty wide add lanes => (s.setTeam key (t.writeBlock m.tile m.fmt va row0 ty wide add lanes)).matDone key n m
  | .mstat sd =>
    (s.setTeam key (t.landPath m.path (fun p => p.landScalar m.clause (BitVec.ofNat 6 sd) (t.tileStatus m.tile)))).matDone key n m
  | .drain _ => s

/-- The slots of a core, starting after one. -/
def slotsAfter (slot : Nat) : List Nat := (List.range 16).map (fun i => (slot + 1 + i) % 16)

/-- The first operation of a slot that can begin and satisfies a test: its position, team and operation. -/
def State.slotReady (s : State) (core slot : Nat) (which : MatOp → Bool) : Option (Nat × Team × MatOp) :=
  match s.team (teamKey core slot) with
  | none => none
  | some t =>
    (List.range t.seq.length).findSome? (fun n =>
      match t.seq[n]? with
      | some m => if which m && s.matReady (teamKey core slot) t n then some (n, t, m) else none
      | none => none)

/-- A paired step that a core of a pair has proposed waits to be agreed (R88). -/
def State.pairWaits (s : State) (core : Nat) : Bool :=
  !(s.core (core - core % 2)).pairPending.isEmpty || !(s.core (core - core % 2 + 1)).pairPending.isEmpty

/-- The first operation that can begin and satisfies a test, in the order of slots after one. -/
def State.nextReady (s : State) (core last : Nat) (which : MatOp → Bool) : Option (Nat × Nat × Team × MatOp) :=
  (slotsAfter last).findSome? (fun slot => (s.slotReady core slot which).map (fun r => (slot, r)))

/-- The engine of a core starts the next step of the unpaired MLOOPs, from the slot after the one that it served last; a step waits while
an agreed paired step has not started (R88, R227). -/
def State.nextStep (s : State) (core : Nat) : State :=
  match s.nextReady core (s.core core).lastMatSlot (fun m => m.isLoop false && !s.pairWaits core) with
  | none => s
  | some (slot, n, t, m) => (s.modCore core (fun c => { c with lastMatSlot := slot })).matRun (teamKey core slot) n t m

/-- A sequencer of the core runs an operation that is no step of the engine (R356). -/
def State.nextOther (s : State) (core : Nat) : State :=
  match s.nextReady core (s.core core).lastMatOp (fun m => !m.isLoop true && !m.isLoop false) with
  | none => s
  | some (slot, n, t, m) => (s.modCore core (fun c => { c with lastMatOp := slot })).matRun (teamKey core slot) n t m

/-- MATRIX_STEP (R227, R356): a core's sequencers go on: one MRD, MWR, MSTAT or MZERO runs, and the engine starts the next step of the
unpaired MLOOPs. -/
def execMatrixStep (core : Nat) (s : State) : Outcome := .next ((s.nextOther core).nextStep core)

/-- The paired step of a slot of a core that is ready: its team is kept at the even-column core (R88). -/
def State.pairReady (s : State) (core slot : Nat) : Option (Nat × Nat × Team × MatOp) :=
  let even := core - core % 2
  let key := if core = even then some (teamKey core slot)
    else ((s.teams.find? (fun e => keyCore e.1 == even && e.2.k.pair && e.2.oddSlot == slot)).map (·.1))
  key.bind (fun k => (s.slotReady even (keySlot k) (fun m => m.isLoop true)).map (fun r => (slot, r)))

/-- The paired step that a core proposes: the one that it has pending, or the first that is ready by its rotating pointer. -/
def State.proposal (s : State) (core : Nat) : Option (Nat × Nat × Team × MatOp) :=
  ((s.core core).pairPending ++ slotsAfter (s.core core).lastMatSlot).findSome? (s.pairReady core)

/-- A core after a paired step has started on both engines: the slot that its engine served, and what it proposes and was not
agreed. -/
def Core.paired (c : Core) (served : Nat) (own : Option Nat) : Core :=
  { c with lastMatSlot := served, pairPending := (own.filter (fun k => k != served)).toList }

/-- PAIRED_STEP_START (R88, R227, R228): the agreed step starts on both engines of the pair. A proposal that lost before is agreed
first, and otherwise that of the lower core; the other core's stays pending. -/
def execPairedStepStart (core : Nat) (s : State) : Outcome :=
  let e := s.proposal core
  let o := s.proposal (core + 1)
  let oddFirst := (s.core core).pairPending.isEmpty && !(s.core (core + 1)).pairPending.isEmpty
  match (if oddFirst then o.or e else e.or o) with
  | none => .next s
  | some (_, n, t, m) =>
    let key := ((s.teams.find? (fun x => x.2.teamId == t.teamId)).map (·.1)).getD 0
    let s := s.modCore core (fun c => c.paired (keySlot key) (e.map (·.1)))
    let s := s.modCore (core + 1) (fun c => c.paired t.oddSlot (o.map (·.1)))
    .next (s.matRun key n t m)

end Sys2Proof.Machine
end

