-- ==== Sys2Proof/Machine/Registers.lean ====
section
/-!
DEFINITION. Writes of device registers (R21, R39, R61, R75, R90, R112, R113, R138, R140, R256, R260), of the launch pages (R22,
R23) and of the debug mailbox (R25). A register whose write has an event of its own goes to that event's meaning.
-/

namespace Sys2Proof.Machine

/-! ## L2 partitions and the frame table -/

/-- L2PART_WRITE (R112): partition 15 is written only while no team is resident. -/
def execL2partWrite (n : Nat) (v : BitVec 64) (s : State) : Outcome :=
  onLink s <|
  let x := v &&& 0x00FF_FFFF_FFFF_FFFF#64
  .next (if 16 ≤ n ∨ (n = 15 ∧ s.teams.isEmpty = false) then s
    else { s with mem := { s.mem with l2part := Tab.set 0 n x s.mem.l2part } })

/-- L2ASID_WRITE (R113): a word that names partition 15 is ignored as a whole. -/
def execL2asidWrite (n : Nat) (v : BitVec 64) (s : State) : Outcome :=
  onLink s <|
  .next (if 256 ≤ n ∨ (List.range 16).any (fun i => bits (4 * i + 3) (4 * i) v.toNat == 15) then s
    else { s with mem := { s.mem with l2asid := Tab.set 0 n v s.mem.l2asid } })

/-- FTWR_WRITE (R136, R138): the byte of a frame, whose reserved half stays zero. -/
def execFtwrWrite (v : BitVec 64) (s : State) : Outcome :=
  onLink s <|
  let f := bits 23 0 v.toNat
  let b : BitVec 8 := BitVec.ofNat 8 (bits 27 24 v.toNat)
  .next (if 0x900000 ≤ f then s else { s with mem := { s.mem with frames := Tab.set 0 f b s.mem.frames } })

/-- FTRD_WRITE (R138): the frame whose byte a read returns. -/
def execFtrdWrite (v : BitVec 64) (s : State) : Outcome :=
  onLink s <|
  .next { s with xl := { s.xl with ftrd := v.extractLsb' 0 24 } }

/-! ## The groups of registers -/

/-- Half of a 128-bit entry of a table of the fabric replaced. -/
def putHalf (m : Tab (BitVec 128)) (i half : Nat) (v : BitVec 64) : Tab (BitVec 128) :=
  let e := Tab.get 0 m i
  Tab.set 0 i (if half = 0 then e.extractLsb' 64 64 ++ v else v ++ e.extractLsb' 0 64) m

/-- Registers of the host link and of firmware (R21, R35, R75). A value of FWADDR that is not 4 KiB aligned is ignored (log entry
119). -/
def regHost (off : Nat) (v : BitVec 64) (s : State) : Outcome :=
  let d := s.dev
  match off with
  | 0x110 => execPcapWrite (v.extractLsb' 0 32) s
  | 0x200 => execBiasFlipRequest v s
  | 0x208 => .next { s with dev := { d with bfErr := d.bfErr &&& ~~~(v.extractLsb' 0 2) } }
  | 0x300 => execMext v s
  | 0x340 =>
    .next { s with dev := { d with mextIgn := d.mextIgn && !v.getLsbD 33, mextFull := d.mextFull && !v.getLsbD 32 } }
  | 0x400 => execWinbaseWrite v s
  | 0x600 => .next (if v.toNat % 4096 = 0 then { s with dev := { d with fwaddr := v } } else s)
  | 0x608 => execRuntimeFirmwareLoad (v.extractLsb' 0 32) s
  | n =>
    .next (if 0x308 ≤ n ∧ n ≤ 0x338 ∧ n % 8 = 0 then
        { s with dev := { d with mextStage := Tab.set 0 ((n - 0x300) / 8) v d.mextStage } } else s)

/-- Registers of the fabric and of placement (R39, R90). -/
def regFabric (off : Nat) (v : BitVec 64) (s : State) : Outcome :=
  match off with
  | 0x500 => execFnodeWrite (v.extractLsb' 0 32) s
  | 0x510 => execFtuncWrite (v.extractLsb' 0 32) s
  | 0x520 => .next { s with fab := { s.fab with ftmo := v.extractLsb' 0 16 } }
  | 0x700 => if v.getLsbD 63 then execUnfence v s else execVacateAndFence v s
  | 0x708 => .next { s with sched := { s.sched with cvErr := s.sched.cvErr && !v.getLsbD 1 } }
  | n =>
    .next (if n % 8 ≠ 0 then s
      else if 0x800 ≤ n ∧ n < 0xC00 then
        { s with fab := { s.fab with fexp := putHalf s.fab.fexp ((n - 0x800) / 16) (n / 8 % 2) v } }
      else if 0x1000 ≤ n ∧ n < 0x2000 then
        { s with fab := { s.fab with fgrp := putHalf s.fab.fgrp ((n - 0x1000) / 16) (n / 8 % 2) v } }
      else s)

/-- A ring size of PFCTL or TRCTL that leaves the register unchanged (R138, R260). -/
def ringRefused (v : BitVec 64) : Bool := decide (bits 12 8 v.toNat < 6) || decide (16 < bits 12 8 v.toNat)

/-- Registers of translation (R138). -/
def regXlate (off : Nat) (v : BitVec 64) (s : State) : Outcome :=
  let x := s.xl
  match off with
  | 0xC00 => .next (if v.toNat % 0x8000 = 0 ∧ s.teams.isEmpty = true then { s with xl := { x with atbase := v } } else s)
  | 0xC08 => execFtwrWrite v s
  | 0xC10 => execFtrdWrite v s
  | 0xC20 => .next (if v.toNat % 4096 = 0 ∧ x.pfctl.getLsbD 0 = false then { s with xl := { x with pfbase := v } } else s)
  | 0xC28 => .next (if ringRefused v then s else { s with xl := { x with pfctl := v.extractLsb' 0 32 &&& 0x003F1F01#32 } })
  | 0xC30 => .next { s with xl := { x with pftail := v.extractLsb' 0 32 } }
  | 0xC38 =>
    if bits 63 62 v.toNat = 0 then execPfReplay (v.extractLsb' 0 32) s
    else if bits 63 62 v.toNat = 1 then execPfFail (v.extractLsb' 0 32) s
    else .next s
  | 0xC40 => .next { s with xl := { x with tsva := v } }
  | 0xC48 => execTsreqWrite v s
  | 0xC50 => .next { s with xl := { x with tsErr := x.tsErr && !v.getLsbD 1 } }
  | 0xC58 => .next (if v.toNat % 8 = 0 then { s with xl := { x with migpte := v } } else s)
  | 0xC60 => .next { s with xl := { x with migva := v } }
  | 0xC68 => execMigreqWrite v s
  | 0xC70 => .next { s with xl := { x with migErr := x.migErr &&& ~~~(v.extractLsb' 2 2) } }
  | 0xC80 => .next (if v.toNat % 4096 = 0 ∧ x.scctl.getLsbD 0 = false then { s with xl := { x with scbase := v } } else s)
  | 0xC88 => execScctlWrite v s
  | 0xC94 => execSctailWrite (v.extractLsb' 0 32) s
  | _ => .next s

/-- Registers of KV space (R140). -/
def regKv (off : Nat) (v : BitVec 64) (s : State) : Outcome :=
  match off with
  | 0xD00 => execKvbaseWrite v s
  | 0xD08 => .next (s.modKv (fun k => { k with kvctl := v &&& 0x0000_FFFF_FF3F_0001#64 }))
  | 0xD10 => execKvDonate v s
  | 0xD18 => execKvReclaim v s
  | 0xD20 => .next (s.modKv (fun k => { k with err := k.err && !v.getLsbD 48 }))
  | 0xD28 => execKvfrdWrite v s
  | _ => .next s

/-- Registers of traps, dumps, the journal and trials (R256, R260). -/
def regDebug (off : Nat) (v : BitVec 64) (s : State) : Outcome :=
  let b := s.dbg
  match off with
  | 0xE00 => .next (if v.toNat % 4096 = 0 ∧ b.trctl.getLsbD 0 = false then { s with dbg := { b with trbase := v } } else s)
  | 0xE08 =>
    .next (if ringRefused v then s
      else ({ s with dbg := { b with trctl := v.extractLsb' 0 32 &&& 0x1F01#32 } }).flushAll)
  | 0xE10 => .next ({ s with dbg := { b with trtail := v.extractLsb' 0 32 } }).flushAll
  | 0xE18 => .next (if v.toNat % 0x10000 = 0 then { s with dbg := { b with dmpbase := v } } else s)
  | 0xE20 => .next { s with dbg := { b with dmpsize := v.extractLsb' 0 32 } }
  | 0xE24 => .next { s with dbg := { b with dmpctl := v.extractLsb' 0 32 &&& 1#32 } }
  | 0xE28 => execDmpstatWrite v s
  | 0xE30 => .next (if v.toNat % 4096 = 0 ∧ bits 1 0 b.jctl.toNat = 0 then { s with dbg := { b with jbase := v } } else s)
  | 0xE38 => if bits 1 0 v.toNat = 2 then execJournalReplay (v.extractLsb' 0 32) s else execJournalRecord (v.extractLsb' 0 32) s
  | 0xE3C => .next { s with dbg := { b with jerr := b.jerr && !v.getLsbD 0 } }
  | 0xE40 => .next { s with dbg := { b with cxlo := v } }
  | 0xE48 => .next { s with dbg := { b with cxhi := v } }
  | 0xE50 => execCxctlWrite v s
  | n =>
    .next (if 0xE80 ≤ n ∧ n < 0xF00 ∧ n % 8 = 0 then { s with dbg := { b with pcnt := Tab.set 0 ((n - 0xE80) / 8) v b.pcnt } }
      else s)

/-- A queue's control block (R61): an 0x800-byte block for each queue. A value of QBASE that is not 4 KiB aligned is ignored (log entry
119). -/
def regQueue (q off : Nat) (v : BitVec 64) (s : State) : Outcome :=
  match off with
  | 0x00 =>
    .next (if v.toNat % 4096 = 0 ∧ qctlEn (s.queue q) = false then s.modQueue q (fun k => { k with qbase := v }) else s)
  | 0x08 => execQctlWrite q v s
  | 0x18 =>
    let s1 := if v.getLsbD 2 then s.modQueue q (fun k => { k with rstDone := false }) else s
    if v.getLsbD 0 ∧ (s.queue q).rstBusy = false then execQueueReset q s1 else .next s1
  | _ => .next s

/-- A launch page (R22, R23): a store of eight bytes to LAUNCH is no launch store. -/
def regLaunchPage (q off : Nat) (v : BitVec 64) (s : State) : Outcome :=
  execLaunchStore q { off := off, len := 8, tlps := 1, allBe := true, data := BitVec.setWidth 512 v } s

/-! ## The mailbox (R25) -/

/-- The request in REQ (R252). -/
def Debug.request (d : Debug) : DebugReq :=
  let b := Tab.getList 0 d.req 0 0x1000
  let h := pw b 0
  { cmd := BitVec.ofNat 8 (bits 63 56 h), asid := BitVec.ofNat 12 (bits 55 44 h), path := BitVec.ofNat 4 (bits 43 40 h),
    idx := BitVec.ofNat 8 (bits 39 32 h), team := BitVec.ofNat 32 (bits 31 0 h), arg0 := BitVec.ofNat 64 (pw b 1),
    data := b.drop 16 }

/-- A request is run (R253). -/
def runRequest (r : DebugReq) (s : State) : Outcome :=
  match r.cmd.toNat with
  | 0x01 => execDbgAttach r s
  | 0x02 => execDbgDetach r s
  | 0x03 => execDbgList r s
  | 0x04 => execDbgPoll r s
  | 0x05 => execDbgHold r s
  | 0x06 => execDbgResume r s
  | 0x07 => execDbgStep r s
  | 0x08 => execDbgSetbp r s
  | 0x09 => execDbgClrbp r s
  | 0x0A => execDbgSetwp r s
  | 0x0B => execDbgClrwp r s
  | 0x0C => execDbgRdreg r s
  | 0x0D => execDbgWrreg r s
  | 0x0E => execDbgRdmem r s
  | _ => execDebugUnknownCommand r s

/-- Bytes written to the mailbox from an offset on (R25, R26): those of REQ, unless BUSY = 1; DONE is cleared by a one; and a byte of
DBELL submits the request that REQ then holds, unless BUSY = 1. A request leaves DONE as it is (log entry 145). -/
def State.mailboxPut (s : State) (off : Nat) (b : List Byte) : State :=
  let hits := fun (lo n : Nat) => decide (off < lo + n) && decide (lo < off + b.length)
  if s.dev.fuseDebug = false then s
  else
    let s := if s.dbg.busy then s
      else { s with dbg := { s.dbg with req := Tab.setList 0 off (b.take (0x1000 - off)) s.dbg.req } }
    let s := if hits 0x2008 1 && (b.getD (0x2008 - off) 0).getLsbD 1 then { s with dbg := { s.dbg with done := false } } else s
    if hits 0x2000 4 && !s.dbg.busy then
      (match runRequest s.dbg.request s with
       | .next t => t
       | _ => s)
    else s

/-- A write of the mailbox of eight bytes (R25, R26). -/
def regMailbox (off : Nat) (v : BitVec 64) (s : State) : Outcome := .next (s.mailboxPut off (toBytes 8 v.toNat))

/-! ## REGISTER_WRITE -/

/-- REGISTER_WRITE (R21): the register at an offset of the first BAR, or, from 0x100_0000 on, of the mailbox. What is not
listed, or read-only, ignores the write. In D3hot and D3cold no register is reached (R11), nor
before the link is up (R14). -/
def execRegisterWrite (off : Nat) (v : BitVec 64) (s : State) : Outcome :=
  if s.dev.deaf then .next s
  else if off < 0x500 ∨ (0x600 ≤ off ∧ off < 0x700) then regHost off v s
  else if off < 0xC00 ∨ (0x1000 ≤ off ∧ off < 0x2000) then regFabric off v s
  else if off < 0xD00 then regXlate off v s
  else if off < 0xE00 then regKv off v s
  else if off < 0xF00 then regDebug off v s
  else if 0x2000 ≤ off ∧ off < 0x2080 ∧ off % 8 = 0 then execL2partWrite ((off - 0x2000) / 8) v s
  else if 0x3000 ≤ off ∧ off < 0x3800 ∧ off % 8 = 0 then execL2asidWrite ((off - 0x3000) / 8) v s
  else if 0x100000 ≤ off ∧ off < 0x300000 then regQueue ((off - 0x100000) / 0x800) (off % 0x800) v s
  else if 0x400000 ≤ off ∧ off < 0x800000 then regLaunchPage ((off - 0x400000) / 0x1000) (off % 0x1000) v s
  else if 0x1000000 ≤ off then regMailbox (off - 0x1000000) v s
  else .next s

end Sys2Proof.Machine
end

