-- ==== Sys2Proof/Machine/SmallMat.lean ====
section
/-!
DEFINITION. The small-matrix instructions (R190, R229 to R231, R364 to R371).
-/

namespace Sys2Proof.Machine

/-! ## Operands (R190, R364) -/

/-- A matrix of element codes, by rows. -/
abbrev QMat := List (List Nat)

/-- Element (i, j) of a matrix. -/
def QMat.at_ (m : QMat) (i j : Nat) : Nat := (m.getD i []).getD j 0

/-- The matrix of `r` rows and `c` columns with the given elements. -/
def QMat.make (r c : Nat) (g : Nat → Nat → Nat) : QMat := (List.range r).map (fun i => (List.range c).map (g i))

/-- A matrix with one element replaced. -/
def QMat.put (m : QMat) (i j v : Nat) : QMat := m.set i ((m.getD i []).set j v)

/-- A matrix operand of a lane (R190). -/
def Team.qmat (t : Team) (ty l : Nat) (n : BitVec 8) (r c : Nat) : QMat :=
  QMat.make r c (fun i j => t.rd ty l (n.toNat + regsOf ty * (i * c + j)))

/-- A lane's matrix operand written, element by element (R190). -/
def Team.putQmat (t : Team) (ty l : Nat) (n : BitVec 8) (m : QMat) : Team :=
  m.flatten.zipIdx.foldl (fun t e => t.wr ty l (n.toNat + regsOf ty * e.2) e.1) t

/-- A shape field is refused: 1 to 6 when it is used, and 0 when it is not (R364). -/
def shapeBad (used : Bool) (n : Nat) : Bool := if used then n == 0 || decide (6 < n) else n != 0

/-- The shape fields of IMM are refused. -/
def qRefused (f : LaneFields) (u1 u2 u3 tau : Bool) : Bool :=
  shapeBad u1 (qF1 f) || shapeBad u2 (qF2 f) || shapeBad u3 (qF3 f) || (!tau && qTau f != 0) || field f.imm 15 17 != 0

/-- Two groups are the same registers. -/
def RegGroup.same (a b : RegGroup) : Bool := a.first == b.first && a.count == b.count

/-- OPERAND_OVERLAP of R364: a destination shares with a source that is not identical to it, or with another destination. -/
def shareRefused (ds ss : List RegGroup) : Bool :=
  ds.zipIdx.any (fun d => ss.any (fun g => d.1.meets g && !d.1.same g)
    || ds.zipIdx.any (fun e => d.2 != e.2 && d.1.meets e.1))

/-- The specification of a small-matrix instruction: what it refuses, and its destination and source groups. `alone` are
destinations that share with nothing (R368). -/
def qSpec (bad : Bool) (ds ss alone : List RegGroup) : LaneSpec :=
  { LaneSpec.plain with
    reserved := bad, types := some clsQf, groups := ds ++ alone ++ ss,
    overlap := shareRefused (ds ++ alone) ss || alone.any (fun d => ss.any (fun g => d.meets g)) }

/-- The specification of QLD or QST: its matrix, and the index register of its address (R269, R366). -/
def qMoveSpec (f : LaneFields) (bad : Bool) (g : RegGroup) : LaneSpec :=
  { LaneSpec.plain with reserved := bad, types := some clsQf, groups := g :: indexGroup f }

/-- The fields that an instruction without memory operands leaves unused: SS, and BSEL. -/
def qPlain (f : LaneFields) : Bool := f.bsel != 0 || f.ss != 0

/-! ## Arithmetic (R229, R364): each operation rounds once to nearest even -/

/-- The format of TYPE. -/
def qFmt (ty : Nat) : BinFmt := if ty = 5 then binF64 else binF32

def qAdd (F : BinFmt) (a b : Nat) : Nat := F.rne (FNum.add false (F.decode a) (F.decode b))
def qSub (F : BinFmt) (a b : Nat) : Nat := F.rne (FNum.add false (F.decode a) (F.decode b).neg)
def qMulE (F : BinFmt) (a b : Nat) : Nat := F.rne (FNum.mul (F.decode a) (F.decode b))
def qDiv (F : BinFmt) (a b : Nat) : Nat := F.rne (FNum.div (F.decode a) (F.decode b))
def qSqrt (F : BinFmt) (a : Nat) : Nat := F.rne (FNum.sqrt (F.decode a))

/-- FMA(a, b, c). -/
def qFma (F : BinFmt) (a b c : Nat) : Nat := F.rne (FNum.fma false (F.decode a) (F.decode b) (F.decode c))

/-- FMA(−a, b, c). -/
def qFnma (F : BinFmt) (a b c : Nat) : Nat := F.rne (FNum.fma false (F.decode a).neg (F.decode b) (F.decode c))

/-- The element chain of QMUL, or of QMAD from C (R367). -/
def qChain (F : BinFmt) (a b : QMat) (n i j : Nat) (start : Option Nat) : Nat :=
  let d := match start with
    | some c => qFma F (a.at_ i 0) (b.at_ 0 j) c
    | none => qMulE F (a.at_ i 0) (b.at_ 0 j)
  (List.range (n - 1)).foldl (fun d k => qFma F (a.at_ i (k + 1)) (b.at_ (k + 1) j) d) d

/-! ## Factorisations (R230, R231, R368) -/

/-- A factorisation in hand: the factor, the rows' order, the first tiny column, and the failing column with its status
bits. -/
structure QFac where
  m : QMat
  order : List Nat
  tiny : Option Nat
  fail : Option (Nat × Nat)
  deriving DecidableEq, Repr

/-- Fail(j): column j and every later one become the default NaN (R231). -/
def QFac.failAt (q : QFac) (F : BinFmt) (j bits : Nat) : QFac :=
  { q with m := q.m.map (fun r => r.zipIdx.map (fun e => if j ≤ e.2 then F.nanCode else e.1)), fail := some (j, bits) }

/-- A value is NaN or infinite. -/
def special (F : BinFmt) (x : Nat) : Bool := !(F.decode x).isFin

/-- The lowest column with a NaN or infinite element among those that satisfy `reads` (R230). -/
def nanColumn (F : BinFmt) (a : QMat) (n : Nat) (reads : Nat → Nat → Bool) : Option Nat :=
  (List.range n).find? (fun j => (List.range n).any (fun i => reads i j && special F (a.at_ i j)))

/-- A magnitude is at most 2^-tau times the largest of a list (R230). -/
def tinyOf (F : BinFmt) (tau : Nat) (d : Nat) (col : List Nat) : Bool :=
  let big := col.foldl (fun m x => if FNum.lt m (F.decode x).abs then (F.decode x).abs else m) (.zero false)
  !FNum.lt (big.scale (-(tau : Int))) (F.decode d).abs

/-- A tiny column is noted, the first alone. -/
def QFac.note (q : QFac) (j : Nat) (tiny : Bool) : QFac :=
  { q with tiny := if q.tiny.isNone && tiny then some j else q.tiny }

/-- Column j of QCHOL (R230). -/
def cholColumn (F : BinFmt) (a : QMat) (n tau : Nat) (nan : Option Nat) (q : QFac) (j : Nat) : QFac :=
  if q.fail.isSome then q
  else if nan = some j then q.failAt F j 0
  else
    let d := (List.range j).foldl (fun d k => qFnma F (q.m.at_ j k) (q.m.at_ j k) d) (a.at_ j j)
    if ¬ FNum.lt (.zero false) (F.decode d) then q.failAt F j (4 + (if (F.decode d).isZero then 1 else 0))
    else
      let q := q.note j (tinyOf F tau d ((List.range (n - j)).map (fun i => a.at_ (j + i) j)))
      let q := { q with m := q.m.put j j (qSqrt F d) }
      (List.range (n - 1 - j)).foldl (fun q i' =>
        let i := j + 1 + i'
        let t := (List.range j).foldl (fun t k => qFnma F (q.m.at_ i k) (q.m.at_ j k) t) (a.at_ i j)
        { q with m := q.m.put i j (qDiv F t (q.m.at_ j j)) }) q

/-- QCHOL's factorisation (R230, R368). -/
def cholesky (F : BinFmt) (a : QMat) (n tau : Nat) : QFac × Bool :=
  let nan := nanColumn F a n (fun i j => decide (j ≤ i))
  ((List.range n).foldl (cholColumn F a n tau nan) { m := QMat.make n n (fun _ _ => 0), order := [], tiny := none, fail := none },
   nan.isSome)

/-- The pivot row of a column: the largest magnitude, the lowest row on a tie, a NaN above every number (R230). -/
def pivotRow (F : BinFmt) (m : QMat) (n j : Nat) : Nat :=
  (List.range (n - j)).foldl (fun p i' =>
    let a := F.decode (m.at_ p j)
    let b := F.decode (m.at_ (j + i') j)
    if a = .nan then p else if b = .nan ∨ FNum.lt a.abs b.abs then j + i' else p) j

/-- A list with two places exchanged. -/
def exchange {α : Type} (l : List α) (i j : Nat) : List α :=
  match l[i]?, l[j]? with
  | some a, some b => (l.set i b).set j a
  | _, _ => l

/-- Column j of QLUP (R230). -/
def lupColumn (F : BinFmt) (a : QMat) (n tau : Nat) (nan : Option Nat) (q : QFac) (j : Nat) : QFac :=
  if q.fail.isSome then q
  else if nan = some j then q.failAt F j 0
  else
    let p := pivotRow F q.m n j
    let q := { q with m := exchange q.m j p, order := exchange q.order j p }
    let u := q.m.at_ j j
    if F.decode u = .nan ∨ (F.decode u).isZero then q.failAt F j 1
    else
      let q := q.note j (tinyOf F tau u ((List.range n).map (fun i => a.at_ i j)))
      (List.range (n - 1 - j)).foldl (fun q i' =>
        let i := j + 1 + i'
        let l := qDiv F (q.m.at_ i j) u
        let q := { q with m := q.m.put i j l }
        (List.range (n - 1 - j)).foldl (fun q c' =>
          let c := j + 1 + c'
          { q with m := q.m.put i c (qFnma F l (q.m.at_ j c) (q.m.at_ i c)) }) q) q

/-- QLUP's factorisation (R230, R368). -/
def luFactor (F : BinFmt) (a : QMat) (n tau : Nat) : QFac × Bool :=
  let nan := nanColumn F a n (fun _ _ => true)
  ((List.range n).foldl (lupColumn F a n tau nan) { m := a, order := List.range n, tiny := none, fail := none }, nan.isSome)

/-- The status word (R231). -/
def QFac.status (q : QFac × Bool) : Nat :=
  let col := match q.1.fail with
    | some (j, _) => j
    | none => q.1.tiny.getD 0
  col * 2 ^ 8 + (if q.2 then 8 else 0) + (if q.1.tiny.isSome then 2 else 0) + ((q.1.fail.map (·.2)).getD 0)

/-- The predicate of a status word (R231). -/
def statusGood (s : Nat) : Bool := s % 2 == 0 && s / 4 % 2 == 0 && s / 8 % 2 == 0

/-- The pivot word of a row order (R368). -/
def pivotWord (order : List Nat) : Nat :=
  (List.range 6).foldl (fun w i => w + order.getD i i * 2 ^ (3 * i)) 0

/-- The ROW fields 0 to n − 1 of a pivot word. -/
def pivotRows (w n : Nat) : List Nat := (List.range n).map (fun i => w / 2 ^ (3 * i) % 8)

/-- The fields are a permutation of 0 to n − 1 (R369, R370). -/
def isOrder (rows : List Nat) (n : Nat) : Bool := (List.range n).all (fun i => rows.contains i)

/-- The permutation is odd: it has an odd number of inversions (R370). -/
def oddOrder (rows : List Nat) : Bool :=
  ((rows.zipIdx.map (fun e => (rows.drop (e.2 + 1)).countP (fun x => decide (x < e.1)))).sum) % 2 == 1

/-! ## Solves and determinants (R369, R370) -/

/-- Forward substitution on a column: `g` gives the value of a component from its accumulated sum. -/
def forwardSolve (F : BinFmt) (l : Nat → Nat → Nat) (b : List Nat) (g : Nat → Nat → Nat) : List Nat :=
  b.zipIdx.foldl (fun y e =>
    y ++ [g e.2 ((List.range e.2).foldl (fun t k => qFnma F (l e.2 k) (y.getD k 0) t) e.1)]) []

/-- Backward substitution on a column: component i is (y(i) − Σ u(i, k) x(k)) ÷ d(i), k ascending from i + 1. -/
def backSolve (F : BinFmt) (u : Nat → Nat → Nat) (y : List Nat) (n : Nat) : List Nat :=
  (List.range n).foldl (fun (x : List Nat) i' =>
    let i := n - 1 - i'
    let t := (List.range (n - 1 - i)).foldl (fun t k' => qFnma F (u i (i + 1 + k')) (x.getD k' 0) t) (y.getD i 0)
    qDiv F t (u i i) :: x) []

/-- The columns of a solution, as a matrix. -/
def ofColumns (n c : Nat) (col : Nat → List Nat) : QMat :=
  let cs := (List.range c).map col
  QMat.make n c (fun i j => (cs.getD j []).getD i 0)

/-- QSOLC's solution (R369). -/
def cholSolve (F : BinFmt) (l b : QMat) (n c : Nat) : QMat :=
  ofColumns n c (fun j =>
    let y := forwardSolve F (fun i k => l.at_ i k) ((List.range n).map (fun i => b.at_ i j)) (fun i t => qDiv F t (l.at_ i i))
    backSolve F (fun i k => l.at_ k i) y n)

/-- QSOLL's solution (R369). -/
def luSolve (F : BinFmt) (m b : QMat) (n c : Nat) (rows : List Nat) : QMat :=
  if isOrder rows n then
    ofColumns n c (fun j =>
      let y := forwardSolve F (fun i k => m.at_ i k) (rows.map (fun r => b.at_ r j)) (fun _ t => t)
      backSolve F (fun i k => m.at_ i k) y n)
  else QMat.make n c (fun _ _ => F.nanCode)

/-- The code of ±1. -/
def qOne (F : BinFmt) (neg : Bool) : Nat := F.rne (FNum.ofInt (if neg then -1 else 1))

/-- The product of a factor's diagonal, from a start. -/
def diagonal (F : BinFmt) (m : QMat) (n start : Nat) : Nat :=
  (List.range n).foldl (fun d i => qMulE F d (m.at_ i i)) start

/-! ## Loads and stores (R366) -/

/-- The accesses of some lanes: one for each element of their group, in order. -/
structure QShare where
  accs : List Acc
  lanes : List Nat
  deriving DecidableEq, Repr

/-- The address of the first element. -/
def QShare.addr (h : QShare) : Word64 :=
  match h.accs with
  | [] => 0
  | a :: _ => a.addr

/-- The element accesses of a lane (R366). None is allowed on a table frame (R124). -/
def LaneCtx.elements (x : LaneCtx) (kind : AccKind) (l : Nat) : List Acc :=
  let n := 4 * regsOf x.ty
  (List.range (qvF1 x.f * qvF2 x.f)).map (fun i =>
    let a := x.acc kind n false l
    { a with addr := a.addr + BitVec.ofNat 64 (i * n) })

/-- The accesses of an instruction, in ascending lanes (R338). -/
def LaneCtx.qShares (x : LaneCtx) (kind : AccKind) : List QShare :=
  match x.lanes with
  | [] => []
  | l :: ls =>
    if !hasIndex x.f && spaceOf (x.addr l) != 7 then [{ accs := x.elements kind l, lanes := l :: ls }]
    else (l :: ls).map (fun i => { accs := x.elements kind i, lanes := [i] })

/-- The first checks of a lane's elements: BAD_SPACE of any, and then MISALIGNED (R246, R366). -/
def elementChecks (s : State) (w : Who) (as : List Acc) : Option TrapClass :=
  let cs := as.filterMap (firstChecks s w)
  if cs.contains .badSpace then some .badSpace else cs.head?

/-- Where the elements of some lanes lead: all of them to targets, or an error, or a hold of one of them. -/
inductive QFound where
  | ok (ts : List (Acc × Target))
  | err (c : TrapClass) (va : Word64)
  | held (h : Hold) (i : Option FaultInfo)
  /-- The A or D update of an element waits for a lease (R46). -/
  | later
  deriving DecidableEq, Repr

/-- The elements of some lanes followed in turn (R246, steps 3 and 4). -/
def State.followElements (s : State) (w : Who) : List Acc → State × QFound
  | [] => (s, .ok [])
  | a :: as =>
    let r := s.follow w a
    let q := State.followElements r.1 w as
    (q.1, match r.2, q.2 with
      | .err c, _ => .err c a.addr
      | _, .err c v => .err c v
      | .later, _ => .later
      | _, .later => .later
      | .held h i, _ => .held h i
      | _, .held h i => .held h i
      | .at_ t, .ok ts => .ok ((a, t) :: ts))

/-- Every lane's elements followed, in ascending lanes. -/
def State.followQ (s : State) (w : Who) : List QShare → State × List (QShare × QFound)
  | [] => (s, [])
  | h :: hs =>
    let r := match elementChecks s w h.accs with
      | some c => (s, QFound.err c h.addr)
      | none => s.followElements w h.accs
    let q := State.followQ r.1 w hs
    (q.1, (h, r.2) :: q.2)

/-- Accesses of the clause, numbered from `n`, that have not come back. -/
def State.clauseWaits (s : State) (w : Who) (clause n : Nat) : Bool :=
  (s.inFlight w true).any (fun p => p.clause == some clause && decide (n ≤ p.id))

/-- A QLD or QST has issued every access: its clause goes on when none of them is in flight, and otherwise holds the datapath
(R366). -/
def finishQ (s : State) (x : LaneCtx) (first : Nat) (hits : List (Nat × Mask)) : State :=
  if s.clauseWaits x.w x.c.id first then
    s.onPath x.w (fun p => { p with run := p.run.map (fun c => { c with sent := some first, only := none, watched := hits }) })
  else watchStop (laneDone s x.w) x.w hits true

/-- What the lanes of a QLD or QST meet. -/
def qResults (fs : List (QShare × QFound)) :
    List (QShare × List (Acc × Target)) × List (QShare × TrapClass × Word64) × List (QShare × Hold × Option FaultInfo) :=
  (fs.filterMap (fun f => match f.2 with
    | .ok ts => some (f.1, ts)
    | _ => none),
   fs.filterMap (fun f => match f.2 with
    | .err c v => some (f.1, c, v)
    | _ => none),
   fs.filterMap (fun f => match f.2 with
    | .held h i => some (f.1, h, i)
    | _ => none))

/-- QLD or QST after its issue checks (R246, R354, R366). As with the other lane memory instructions, none issues while an acquire is in
flight (R182), and one that must wait keeps its place (R46). -/
def qAccess (s : State) (x : LaneCtx) (kind : AccKind) (perform : State → Acc → Target → Nat → List Nat → State) : State :=
  let w := x.w
  let first := x.c.sent.getD s.eng.nextId
  if x.c.sent.isSome && x.c.only.isNone then finishQ s x first x.c.watched
  else if s.acquiring w true then s
  else
    let r := s.followQ w (x.qShares kind)
    let (ok, errs, held) := qResults r.2
    match errs with
    | (h, c, v) :: _ => trapLane r.1 w c (h.lanes.headD 0) v
    | [] =>
      let as := ok.flatMap (·.2)
      if r.2.any (fun f => f.2 == .later) || as.any (fun e => (r.1.mustWait w e.1 e.2).isSome) || r.1.storesBlocked w as then
        s.placeTurns w as
      else
        let s1 := (if releases (ordOf x.f) && !ok.isEmpty then r.1.release w (scopeOf x.f) else r.1).dropTurns w true
        let hits := mergeWatched x.c.watched (watchMatch s1 w (ok.flatMap (fun p => p.2.flatMap (fun e =>
          p.1.lanes.map (fun l => { e.1 with lane := some l })))))
        let s2 := ok.foldl (fun s p => p.2.zipIdx.foldl (fun s e => perform s e.1.1 e.1.2 e.2 p.1.lanes) s) s1
        match held with
        | (h, k, i) :: _ =>
          let s3 := s2.onPath w (fun p => { p with run := p.run.map (fun c => { c with sent := some first, watched := hits }) })
          (heldAt s3 w k (maskOf (held.flatMap (fun e => e.1.lanes))) true i h.addr).noteHeld w
            (held.map (fun e => (e.1.lanes.headD 0, e.1.addr)))
        | [] => finishQ s2 x first hits

/-- QLD (R366). -/
def execQld (f : LaneFields) (s : State) : Outcome :=
  laneOp s f
    (fun _ =>
      qMoveSpec f (memRefused f .load false || mxOf f != 0 || shapeBad true (qvF1 f) || shapeBad true (qvF2 f) || field f.vc 6 2 != 0)
        (group f.ty.toNat f.vd (qvF1 f * qvF2 f) true))
    fun s x =>
      qAccess s x .load fun s a t i lanes =>
        let first := f.vd.toNat + i * regsOf x.ty
        match s.performLoad x.w a t (.lane (maskOf lanes) first a.size .packed) with
        | (s, some b) => s.landLanes x.w.key lanes first a.size .packed b
        | (s, none) => s

/-- QST (R366). At a uniform address it carries the data of the highest lane (R338). -/
def execQst (f : LaneFields) (s : State) : Outcome :=
  laneOp s f
    (fun _ =>
      qMoveSpec f (memRefused f .store true || f.bsel != 0 || mxOf f != 0 || f.vd != 0 || shapeBad true (qvF1 f)
          || shapeBad true (qvF2 f) || field f.vc 6 2 != 0)
        (group f.ty.toNat f.vb (qvF1 f * qvF2 f) false))
    fun s x =>
      qAccess s x .store fun s a t i lanes =>
        s.performStore x.w a t (x.team.laneBytes (lanes.getLastD 0) (f.vb.toNat + i * regsOf x.ty) (regsOf x.ty))

/-! ## The instructions (R365) -/

/-- An instruction that writes a matrix in each active lane. -/
def qOp (s : State) (f : LaneFields) (bad : Bool) (dn : Nat) (ss : List RegGroup) (g : LaneCtx → Nat → QMat) : Outcome :=
  laneOp s f (fun _ => qSpec (qPlain f || bad) [group f.ty.toNat f.vd dn true] ss [])
    fun s x => x.writeLanes s (fun t l => t.putQmat x.ty l f.vd (g x l))

/-- A matrix operand in a register field. -/
def LaneCtx.q (x : LaneCtx) (l : Nat) (n : BitVec 8) (r c : Nat) : QMat := x.team.qmat x.ty l n r c

/-- QMOV: the bits are copied. -/
def execQmov (f : LaneFields) (s : State) : Outcome :=
  qOp s f (qRefused f true true false false || f.md != 0 || f.vb != 0 || f.vc != 0) (qF1 f * qF2 f) [qSrc f f.va (qF1 f * qF2 f)]
    fun x l => x.q l f.va (qF1 f) (qF2 f)

/-- QTRN: the bits are copied. -/
def execQtrn (f : LaneFields) (s : State) : Outcome :=
  qOp s f (qRefused f true true false false || f.md != 0 || f.vb != 0 || f.vc != 0) (qF1 f * qF2 f) [qSrc f f.va (qF1 f * qF2 f)]
    fun x l => QMat.make (qF2 f) (qF1 f) (fun i j => (x.q l f.va (qF1 f) (qF2 f)).at_ j i)

/-- QADD. -/
def execQadd (f : LaneFields) (s : State) : Outcome :=
  qOp s f (qRefused f true true false false || field f.md 1 5 != 0 || f.vc != 0) (qF1 f * qF2 f)
    [qSrc f f.va (qF1 f * qF2 f), qSrc f f.vb (qF1 f * qF2 f)]
    fun x l =>
      let F := qFmt x.ty
      let a := x.q l f.va (qF1 f) (qF2 f)
      let b := x.q l f.vb (qF1 f) (qF2 f)
      QMat.make (qF1 f) (qF2 f) (fun i j =>
        if f.md.getLsbD 0 then qSub F (a.at_ i j) (b.at_ i j) else qAdd F (a.at_ i j) (b.at_ i j))

/-- QSCL: b is a register or pair of the lane, or a scalar register (R365). -/
def execQscl (f : LaneFields) (s : State) : Outcome :=
  let n := qF1 f * qF2 f
  let bad := qRefused f true true false false || f.md != 0 || f.vc != 0 || decide (1 < f.bsel.toNat)
    || (if f.bsel = 1 then f.vb != 0 else f.ss != 0)
  laneOp s f
    (fun _ => qSpec bad [group f.ty.toNat f.vd n true]
      (qSrc f f.va n :: (if f.bsel = 0 then [qSrc f f.vb 1] else [])) [])
    fun s x => x.writeLanes s (fun t l =>
      let a := x.q l f.va (qF1 f) (qF2 f)
      let b := if f.bsel = 1 then (x.c.scalar f.ss).toNat % 2 ^ (qFmt x.ty).w else x.team.rd x.ty l f.vb.toNat
      t.putQmat x.ty l f.vd (QMat.make (qF1 f) (qF2 f) (fun i j => qMulE (qFmt x.ty) b (a.at_ i j))))

/-- QMUL (R367). -/
def execQmul (f : LaneFields) (s : State) : Outcome :=
  qOp s f (qRefused f true true true false || f.md != 0 || f.vc != 0) (qF1 f * qF3 f)
    [qSrc f f.va (qF1 f * qF2 f), qSrc f f.vb (qF2 f * qF3 f)]
    fun x l =>
      let a := x.q l f.va (qF1 f) (qF2 f)
      let b := x.q l f.vb (qF2 f) (qF3 f)
      QMat.make (qF1 f) (qF3 f) (fun i j => qChain (qFmt x.ty) a b (qF2 f) i j none)

/-- QMAD (R367). -/
def execQmad (f : LaneFields) (s : State) : Outcome :=
  qOp s f (qRefused f true true true false || f.md != 0) (qF1 f * qF3 f)
    [qSrc f f.va (qF1 f * qF2 f), qSrc f f.vb (qF2 f * qF3 f), qSrc f f.vc (qF1 f * qF3 f)]
    fun x l =>
      let a := x.q l f.va (qF1 f) (qF2 f)
      let b := x.q l f.vb (qF2 f) (qF3 f)
      let c := x.q l f.vc (qF1 f) (qF3 f)
      QMat.make (qF1 f) (qF3 f) (fun i j => qChain (qFmt x.ty) a b (qF2 f) i j (some (c.at_ i j)))

/-- The lane writes of a factorisation: the factor, the status word, the predicate, and for QLUP the pivot word (R368). -/
def Team.putFactor (t : Team) (f : LaneFields) (l : Nat) (q : QFac × Bool) (pivot : Bool) : Team :=
  let st := QFac.status q
  let t := (t.putQmat f.ty.toNat l f.vd q.1.m).setV l f.vb.toNat (BitVec.ofNat 32 st)
  let t := if pivot then t.setV l f.vc.toNat (BitVec.ofNat 32 (pivotWord q.1.order)) else t
  t.setP l (field f.md 0 3 : BitVec 3).toNat (statusGood st)

/-- QCHOL (R230, R231, R368). -/
def execQchol (f : LaneFields) (s : State) : Outcome :=
  let n := qF1 f
  laneOp s f
    (fun _ => qSpec (qPlain f || qRefused f true false false true || field f.md 3 3 != 0 || f.vc != 0)
      [group f.ty.toNat f.vd (n * n) true] [qSrc f f.va (n * n)] [wordGroup f.vb true])
    fun s x => x.writeLanes s (fun t l =>
      t.putFactor f l (cholesky (qFmt x.ty) (x.q l f.va n n) n (qTau f)) false)

/-- QLUP (R230, R231, R368). -/
def execQlup (f : LaneFields) (s : State) : Outcome :=
  let n := qF1 f
  laneOp s f
    (fun _ => qSpec (qPlain f || qRefused f true false false true || field f.md 3 3 != 0)
      [group f.ty.toNat f.vd (n * n) true] [qSrc f f.va (n * n)] [wordGroup f.vb true, wordGroup f.vc true])
    fun s x => x.writeLanes s (fun t l =>
      t.putFactor f l (luFactor (qFmt x.ty) (x.q l f.va n n) n (qTau f)) true)

/-- QSOLC (R369). -/
def execQsolc (f : LaneFields) (s : State) : Outcome :=
  let n := qF1 f
  qOp s f (qRefused f true false true false || f.md != 0 || f.vc != 0) (n * qF3 f)
    [qSrc f f.va (n * n), qSrc f f.vb (n * qF3 f)]
    fun x l => cholSolve (qFmt x.ty) (x.q l f.va n n) (x.q l f.vb n (qF3 f)) n (qF3 f)

/-- QSOLL (R369). -/
def execQsoll (f : LaneFields) (s : State) : Outcome :=
  let n := qF1 f
  qOp s f (qRefused f true false true false || f.md != 0) (n * qF3 f)
    [qSrc f f.va (n * n), qSrc f f.vb (n * qF3 f), wordGroup f.vc false]
    fun x l =>
      luSolve (qFmt x.ty) (x.q l f.va n n) (x.q l f.vb n (qF3 f)) n (qF3 f) (pivotRows (x.team.v l f.vc.toNat).toNat n)

/-- The determinant of a factor (R370). -/
def determinant (F : BinFmt) (m : QMat) (n : Nat) (lu : Bool) (rows : List Nat) : Nat :=
  if lu then (if isOrder rows n then diagonal F m n (qOne F (oddOrder rows)) else F.nanCode)
  else
    let d := diagonal F m n (qOne F false)
    qMulE F d d

/-- QDET (R370). -/
def execQdet (f : LaneFields) (s : State) : Outcome :=
  let n := qF1 f
  let lu := f.md.getLsbD 0
  laneOp s f
    (fun _ => qSpec (qPlain f || qRefused f true false false false || field f.md 1 5 != 0 || f.vb != 0 || (!lu && f.vc != 0))
      [group f.ty.toNat f.vd 1 true] (qSrc f f.va (n * n) :: (if lu then [wordGroup f.vc false] else [])) [])
    fun s x => x.writeVd s x.ty (fun l =>
      determinant (qFmt x.ty) (x.q l f.va n n) n lu (pivotRows (x.team.v l f.vc.toNat).toNat n))

end Sys2Proof.Machine
end

