-- ==== Sys2Proof/Machine/Dispatch.lean ====
section
/-!
DEFINITION. The meaning of each instruction and event, one arm for each row of the table of operations and events.
-/

namespace Sys2Proof.Machine

/-- What an instruction or event does. -/
def exec (i : Instr) (s : State) : Host.Outcome State Fault Refusal :=
  match i with
  | .powerOn => Sys2Proof.Machine.execPowerOn s
  | .functionLevelReset => Sys2Proof.Machine.execFunctionLevelReset s
  | .bringUpStep ok => Sys2Proof.Machine.execBringUpStep ok s
  | .fullServiceSwitch => Sys2Proof.Machine.execFullServiceSwitch s
  | .mainPowerLoss => Sys2Proof.Machine.execMainPowerLoss s
  | .d3hotRequest => Sys2Proof.Machine.execD3hotRequest s
  | .d0Request => Sys2Proof.Machine.execD0Request s
  | .d0IdleEntry => Sys2Proof.Machine.execD0IdleEntry s
  | .powerWindow watts => Sys2Proof.Machine.execPowerWindow watts s
  | .thermalThrottle die => Sys2Proof.Machine.execThermalThrottle die s
  | .thermalShutdown => Sys2Proof.Machine.execThermalShutdown s
  | .bridgeFlitFailure => Sys2Proof.Machine.execBridgeFlitFailure s
  | .mgmtBusRequest r => Sys2Proof.Machine.execMgmtBusRequest r s
  | .pcapWrite v => Sys2Proof.Machine.execPcapWrite v s
  | .winbaseWrite v => Sys2Proof.Machine.execWinbaseWrite v s
  | .hostMemoryAccess a => Sys2Proof.Machine.execHostMemoryAccess a s
  | .snpData line => Sys2Proof.Machine.execSnpData line s
  | .snpCur line => Sys2Proof.Machine.execSnpCur line s
  | .snpInv line => Sys2Proof.Machine.execSnpInv line s
  | .hostFillReturn line => Sys2Proof.Machine.execHostFillReturn line s
  | .biasFlipRequest v => Sys2Proof.Machine.execBiasFlipRequest v s
  | .biasFlipFrame => Sys2Proof.Machine.execBiasFlipFrame s
  | .mext v => Sys2Proof.Machine.execMext v s
  | .getVersion => Sys2Proof.Machine.execGetVersion s
  | .getCapabilities => Sys2Proof.Machine.execGetCapabilities s
  | .negotiateAlgorithms sm2 sm3 => Sys2Proof.Machine.execNegotiateAlgorithms sm2 sm3 s
  | .getDigests => Sys2Proof.Machine.execGetDigests s
  | .getCertificate slot => Sys2Proof.Machine.execGetCertificate slot s
  | .challenge nonce => Sys2Proof.Machine.execChallenge nonce s
  | .getMeasurements block signed nonce => Sys2Proof.Machine.execGetMeasurements block signed nonce s
  | .fnodeWrite v => Sys2Proof.Machine.execFnodeWrite v s
  | .ftuncWrite v => Sys2Proof.Machine.execFtuncWrite v s
  | .fabricPortFailure port => Sys2Proof.Machine.execFabricPortFailure port s
  | .syncExchange offsetNs variationNs => Sys2Proof.Machine.execSyncExchange offsetNs variationNs s
  | .remoteAccessRequest r => Sys2Proof.Machine.execRemoteAccessRequest r s
  | .leaseHeldWrite line => Sys2Proof.Machine.execLeaseHeldWrite line s
  | .remoteCompletion id reply => Sys2Proof.Machine.execRemoteCompletion id reply s
  | .remoteTimeout id => Sys2Proof.Machine.execRemoteTimeout id s
  | .collectiveArrival id m => Sys2Proof.Machine.execCollectiveArrival id m s
  | .collectiveCompletion id => Sys2Proof.Machine.execCollectiveCompletion id s
  | .collectiveFailure id why => Sys2Proof.Machine.execCollectiveFailure id why s
  | .collectiveArrivalTimeout id => Sys2Proof.Machine.execCollectiveArrivalTimeout id s
  | .launchStore q t => Sys2Proof.Machine.execLaunchStore q t s
  | .rfetch rd rs1 rs2 => Sys2Proof.Machine.execRfetch rd rs1 rs2 s
  | .bfxu rd rs1 rs2 => Sys2Proof.Machine.execBfxu rd rs1 rs2 s
  | .bfxs rd rs1 rs2 => Sys2Proof.Machine.execBfxs rd rs1 rs2 s
  | .swait c rd rs1 rs2 => Sys2Proof.Machine.execSwait c rd rs1 rs2 s
  | .swaitReread h => Sys2Proof.Machine.execSwaitReread h s
  | .swaitTimeout h => Sys2Proof.Machine.execSwaitTimeout h s
  | .disp rd rs1 rs2 => Sys2Proof.Machine.execDisp rd rs1 rs2 s
  | .qctlWrite q v => Sys2Proof.Machine.execQctlWrite q v s
  | .queueReset q => Sys2Proof.Machine.execQueueReset q s
  | .launchPacket q idx => Sys2Proof.Machine.execLaunchPacket q idx s
  | .copyPacket q idx => Sys2Proof.Machine.execCopyPacket q idx s
  | .signalPacket q idx => Sys2Proof.Machine.execSignalPacket q idx s
  | .waitPacket q idx => Sys2Proof.Machine.execWaitPacket q idx s
  | .waitPacketTimeout q idx => Sys2Proof.Machine.execWaitPacketTimeout q idx s
  | .condPacket q idx => Sys2Proof.Machine.execCondPacket q idx s
  | .barrierAndPacket q idx => Sys2Proof.Machine.execBarrierAndPacket q idx s
  | .barrierAndTimeout q idx => Sys2Proof.Machine.execBarrierAndTimeout q idx s
  | .treeOpen q idx => Sys2Proof.Machine.execTreeOpen q idx s
  | .treeFork q idx => Sys2Proof.Machine.execTreeFork q idx s
  | .treePrune q idx => Sys2Proof.Machine.execTreePrune q idx s
  | .treeCommit q idx => Sys2Proof.Machine.execTreeCommit q idx s
  | .treeRetire q idx => Sys2Proof.Machine.execTreeRetire q idx s
  | .registerRebuildLaunch q idx => Sys2Proof.Machine.execRegisterRebuildLaunch q idx s
  | .packetCompletion q idx => Sys2Proof.Machine.execPacketCompletion q idx s
  | .launchCompletion handle => Sys2Proof.Machine.execLaunchCompletion handle s
  | .runtimeFirmwareLoad v => Sys2Proof.Machine.execRuntimeFirmwareLoad v s
  | .placement => Sys2Proof.Machine.execPlacement s
  | .preemptionDecision now => Sys2Proof.Machine.execPreemptionDecision now s
  | .contextSave core slot => Sys2Proof.Machine.execContextSave core slot s
  | .contextRestore core slot => Sys2Proof.Machine.execContextRestore core slot s
  | .vacateAndFence v => Sys2Proof.Machine.execVacateAndFence v s
  | .unfence v => Sys2Proof.Machine.execUnfence v s
  | .binTimerExpiry core bin => Sys2Proof.Machine.execBinTimerExpiry core bin s
  | .binTeamStart core => Sys2Proof.Machine.execBinTeamStart core s
  | .ctimeTick core => Sys2Proof.Machine.execCtimeTick core s
  | .clauseStart core => Sys2Proof.Machine.execClauseStart core s
  | .clauseCompletion core slot path => Sys2Proof.Machine.execClauseCompletion core slot path s
  | .pairedStepStart core => Sys2Proof.Machine.execPairedStepStart core s
  | .matrixStep core => Sys2Proof.Machine.execMatrixStep core s
  | .l2partWrite n v => Sys2Proof.Machine.execL2partWrite n v s
  | .l2asidWrite n v => Sys2Proof.Machine.execL2asidWrite n v s
  | .ftwrWrite v => Sys2Proof.Machine.execFtwrWrite v s
  | .ftrdWrite v => Sys2Proof.Machine.execFtrdWrite v s
  | .pfReplay fid => Sys2Proof.Machine.execPfReplay fid s
  | .pfFail fid => Sys2Proof.Machine.execPfFail fid s
  | .faultRecordPost => Sys2Proof.Machine.execFaultRecordPost s
  | .tsreqWrite v => Sys2Proof.Machine.execTsreqWrite v s
  | .shootdownComplete id => Sys2Proof.Machine.execShootdownComplete id s
  | .migreqWrite v => Sys2Proof.Machine.execMigreqWrite v s
  | .scctlWrite v => Sys2Proof.Machine.execScctlWrite v s
  | .scytheSweepStep => Sys2Proof.Machine.execScytheSweepStep s
  | .sctailWrite v => Sys2Proof.Machine.execSctailWrite v s
  | .kvbaseWrite v => Sys2Proof.Machine.execKvbaseWrite v s
  | .kvDonate v => Sys2Proof.Machine.execKvDonate v s
  | .kvReclaim v => Sys2Proof.Machine.execKvReclaim v s
  | .kvfrdWrite v => Sys2Proof.Machine.execKvfrdWrite v s
  | .kvCopy id => Sys2Proof.Machine.execKvCopy id s
  | .kvRebuildStart frame => Sys2Proof.Machine.execKvRebuildStart frame s
  | .kvRebuildEnd slot => Sys2Proof.Machine.execKvRebuildEnd slot s
  | .pruneRelease slot => Sys2Proof.Machine.execPruneRelease slot s
  | .rangeLockGrant => Sys2Proof.Machine.execRangeLockGrant s
  | .rangeLockRelease id => Sys2Proof.Machine.execRangeLockRelease id s
  | .copyLineWrite id => Sys2Proof.Machine.execCopyLineWrite id s
  | .copyCompletion id => Sys2Proof.Machine.execCopyCompletion id s
  | .copyFailure id => Sys2Proof.Machine.execCopyFailure id s
  | .contextTimerExpiry core slot => Sys2Proof.Machine.execContextTimerExpiry core slot s
  | .wallDeadlineExpiry core slot => Sys2Proof.Machine.execWallDeadlineExpiry core slot s
  | .dmpstatWrite v => Sys2Proof.Machine.execDmpstatWrite v s
  | .journalRecord v => Sys2Proof.Machine.execJournalRecord v s
  | .journalReplay v => Sys2Proof.Machine.execJournalReplay v s
  | .cxctlWrite v => Sys2Proof.Machine.execCxctlWrite v s
  | .dbgAttach r => Sys2Proof.Machine.execDbgAttach r s
  | .dbgDetach r => Sys2Proof.Machine.execDbgDetach r s
  | .dbgList r => Sys2Proof.Machine.execDbgList r s
  | .dbgPoll r => Sys2Proof.Machine.execDbgPoll r s
  | .dbgHold r => Sys2Proof.Machine.execDbgHold r s
  | .dbgResume r => Sys2Proof.Machine.execDbgResume r s
  | .dbgStep r => Sys2Proof.Machine.execDbgStep r s
  | .dbgSetbp r => Sys2Proof.Machine.execDbgSetbp r s
  | .dbgClrbp r => Sys2Proof.Machine.execDbgClrbp r s
  | .dbgSetwp r => Sys2Proof.Machine.execDbgSetwp r s
  | .dbgClrwp r => Sys2Proof.Machine.execDbgClrwp r s
  | .dbgRdreg r => Sys2Proof.Machine.execDbgRdreg r s
  | .dbgWrreg r => Sys2Proof.Machine.execDbgWrreg r s
  | .dbgRdmem r => Sys2Proof.Machine.execDbgRdmem r s
  | .registerWrite off v => Sys2Proof.Machine.execRegisterWrite off v s
  | .add sd sa sb => Sys2Proof.Machine.execAdd sd sa sb s
  | .sub sd sa sb => Sys2Proof.Machine.execSub sd sa sb s
  | .and sd sa sb => Sys2Proof.Machine.execAnd sd sa sb s
  | .or sd sa sb => Sys2Proof.Machine.execOr sd sa sb s
  | .xor sd sa sb => Sys2Proof.Machine.execXor sd sa sb s
  | .andn sd sa sb => Sys2Proof.Machine.execAndn sd sa sb s
  | .shl sd sa sb => Sys2Proof.Machine.execShl sd sa sb s
  | .shr sd sa sb => Sys2Proof.Machine.execShr sd sa sb s
  | .sar sd sa sb => Sys2Proof.Machine.execSar sd sa sb s
  | .rol sd sa sb => Sys2Proof.Machine.execRol sd sa sb s
  | .ror sd sa sb => Sys2Proof.Machine.execRor sd sa sb s
  | .slt sd sa sb => Sys2Proof.Machine.execSlt sd sa sb s
  | .sltu sd sa sb => Sys2Proof.Machine.execSltu sd sa sb s
  | .seq sd sa sb => Sys2Proof.Machine.execSeq sd sa sb s
  | .min sd sa sb => Sys2Proof.Machine.execMin sd sa sb s
  | .max sd sa sb => Sys2Proof.Machine.execMax sd sa sb s
  | .minu sd sa sb => Sys2Proof.Machine.execMinu sd sa sb s
  | .maxu sd sa sb => Sys2Proof.Machine.execMaxu sd sa sb s
  | .mul sd sa sb => Sys2Proof.Machine.execMul sd sa sb s
  | .mulh sd sa sb => Sys2Proof.Machine.execMulh sd sa sb s
  | .mulhu sd sa sb => Sys2Proof.Machine.execMulhu sd sa sb s
  | .div sd sa sb => Sys2Proof.Machine.execDiv sd sa sb s
  | .divu sd sa sb => Sys2Proof.Machine.execDivu sd sa sb s
  | .rem sd sa sb => Sys2Proof.Machine.execRem sd sa sb s
  | .remu sd sa sb => Sys2Proof.Machine.execRemu sd sa sb s
  | .clz sd sa sb => Sys2Proof.Machine.execClz sd sa sb s
  | .ctz sd sa sb => Sys2Proof.Machine.execCtz sd sa sb s
  | .popc sd sa sb => Sys2Proof.Machine.execPopc sd sa sb s
  | .sext sd sa sb => Sys2Proof.Machine.execSext sd sa sb s
  | .addi sd sa imm => Sys2Proof.Machine.execAddi sd sa imm s
  | .andi sd sa imm => Sys2Proof.Machine.execAndi sd sa imm s
  | .ori sd sa imm => Sys2Proof.Machine.execOri sd sa imm s
  | .xori sd sa imm => Sys2Proof.Machine.execXori sd sa imm s
  | .shli sd sa imm => Sys2Proof.Machine.execShli sd sa imm s
  | .shri sd sa imm => Sys2Proof.Machine.execShri sd sa imm s
  | .sari sd sa imm => Sys2Proof.Machine.execSari sd sa imm s
  | .slti sd sa imm => Sys2Proof.Machine.execSlti sd sa imm s
  | .sltiu sd sa imm => Sys2Proof.Machine.execSltiu sd sa imm s
  | .lui sd imm => Sys2Proof.Machine.execLui sd imm s
  | .addpc sd imm => Sys2Proof.Machine.execAddpc sd imm s
  | .beq sa sb off => Sys2Proof.Machine.execBeq sa sb off s
  | .bne sa sb off => Sys2Proof.Machine.execBne sa sb off s
  | .blt sa sb off => Sys2Proof.Machine.execBlt sa sb off s
  | .bge sa sb off => Sys2Proof.Machine.execBge sa sb off s
  | .bltu sa sb off => Sys2Proof.Machine.execBltu sa sb off s
  | .bgeu sa sb off => Sys2Proof.Machine.execBgeu sa sb off s
  | .j off => Sys2Proof.Machine.execJ off s
  | .call off => Sys2Proof.Machine.execCall off s
  | .lc off => Sys2Proof.Machine.execLc off s
  | .split pn toff joff => Sys2Proof.Machine.execSplit pn toff joff s
  | .jr sd sa imm => Sys2Proof.Machine.execJr sd sa imm s
  | .waitf sd sa imm => Sys2Proof.Machine.execWaitf sd sa imm s
  | .ld ord scp st sz sx off sd sa => Sys2Proof.Machine.execLd ord scp st sz sx off sd sa s
  | .st ord scp st sz sx off sb sa => Sys2Proof.Machine.execSt ord scp st sz sx off sb sa s
  | .amoadd ord scp w sd sa sb => Sys2Proof.Machine.execAmoadd ord scp w sd sa sb s
  | .amoand ord scp w sd sa sb => Sys2Proof.Machine.execAmoand ord scp w sd sa sb s
  | .amoor ord scp w sd sa sb => Sys2Proof.Machine.execAmoor ord scp w sd sa sb s
  | .amoxor ord scp w sd sa sb => Sys2Proof.Machine.execAmoxor ord scp w sd sa sb s
  | .amomin ord scp w sd sa sb => Sys2Proof.Machine.execAmomin ord scp w sd sa sb s
  | .amomax ord scp w sd sa sb => Sys2Proof.Machine.execAmomax ord scp w sd sa sb s
  | .amominu ord scp w sd sa sb => Sys2Proof.Machine.execAmominu ord scp w sd sa sb s
  | .amomaxu ord scp w sd sa sb => Sys2Proof.Machine.execAmomaxu ord scp w sd sa sb s
  | .amoswap ord scp w sd sa sb => Sys2Proof.Machine.execAmoswap ord scp w sd sa sb s
  | .amocas ord scp w sd sa sb => Sys2Proof.Machine.execAmocas ord scp w sd sa sb s
  | .fence fn sd sa sb => Sys2Proof.Machine.execFence fn sd sa sb s
  | .tfence fn sd sa sb => Sys2Proof.Machine.execTfence fn sd sa sb s
  | .tshoot sd sa sb => Sys2Proof.Machine.execTshoot sd sa sb s
  | .tsync sd sa sb => Sys2Proof.Machine.execTsync sd sa sb s
  | .crr sd sa imm => Sys2Proof.Machine.execCrr sd sa imm s
  | .crw sd sa imm => Sys2Proof.Machine.execCrw sd sa imm s
  | .join sd sa sb => Sys2Proof.Machine.execJoin sd sa sb s
  | .spawn sd sa sb => Sys2Proof.Machine.execSpawn sd sa sb s
  | .evpop sd sa sb => Sys2Proof.Machine.execEvpop sd sa sb s
  | .setfmt sd sa sb => Sys2Proof.Machine.execSetfmt sd sa sb s
  | .vcommit sd sa sb => Sys2Proof.Machine.execVcommit sd sa sb s
  | .ringadv sd sa sb => Sys2Proof.Machine.execRingadv sd sa sb s
  | .endPath sd sa sb => Sys2Proof.Machine.execEndPath sd sa sb s
  | .trap sd sa sb => Sys2Proof.Machine.execTrap sd sa sb s
  | .eret sd sa sb => Sys2Proof.Machine.execEret sd sa sb s
  | .brk sd sa sb => Sys2Proof.Machine.execBrk sd sa sb s
  | .prog sd sa sb => Sys2Proof.Machine.execProg sd sa sb s
  | .tnopen sd sa sb => Sys2Proof.Machine.execTnopen sd sa sb s
  | .tnfork sd sa sb => Sys2Proof.Machine.execTnfork sd sa sb s
  | .tnappend sd sa sb => Sys2Proof.Machine.execTnappend sd sa sb s
  | .tnprune sd sa sb => Sys2Proof.Machine.execTnprune sd sa sb s
  | .tncommit sd sa sb => Sys2Proof.Machine.execTncommit sd sa sb s
  | .tnretire sd sa sb => Sys2Proof.Machine.execTnretire sd sa sb s
  | .tnbind sd sa sb => Sys2Proof.Machine.execTnbind sd sa sb s
  | .tnstat sd sa sb => Sys2Proof.Machine.execTnstat sd sa sb s
  | .tntok sd sa sb => Sys2Proof.Machine.execTntok sd sa sb s
  | .vadd f => Sys2Proof.Machine.execVadd f s
  | .vsub f => Sys2Proof.Machine.execVsub f s
  | .vmul f => Sys2Proof.Machine.execVmul f s
  | .vmulh f => Sys2Proof.Machine.execVmulh f s
  | .vmad f => Sys2Proof.Machine.execVmad f s
  | .vdiv f => Sys2Proof.Machine.execVdiv f s
  | .vrem f => Sys2Proof.Machine.execVrem f s
  | .vmin f => Sys2Proof.Machine.execVmin f s
  | .vmax f => Sys2Proof.Machine.execVmax f s
  | .vabs f => Sys2Proof.Machine.execVabs f s
  | .vneg f => Sys2Proof.Machine.execVneg f s
  | .vadds f => Sys2Proof.Machine.execVadds f s
  | .vsubs f => Sys2Proof.Machine.execVsubs f s
  | .vand f => Sys2Proof.Machine.execVand f s
  | .vor f => Sys2Proof.Machine.execVor f s
  | .vxor f => Sys2Proof.Machine.execVxor f s
  | .vnot f => Sys2Proof.Machine.execVnot f s
  | .vandn f => Sys2Proof.Machine.execVandn f s
  | .vshl f => Sys2Proof.Machine.execVshl f s
  | .vshr f => Sys2Proof.Machine.execVshr f s
  | .vrol f => Sys2Proof.Machine.execVrol f s
  | .vclz f => Sys2Proof.Machine.execVclz f s
  | .vpopc f => Sys2Proof.Machine.execVpopc f s
  | .vbrev f => Sys2Proof.Machine.execVbrev f s
  | .vbfx f => Sys2Proof.Machine.execVbfx f s
  | .vmov f => Sys2Proof.Machine.execVmov f s
  | .vsel f => Sys2Proof.Machine.execVsel f s
  | .vcmpeq f => Sys2Proof.Machine.execVcmpeq f s
  | .vcmpne f => Sys2Proof.Machine.execVcmpne f s
  | .vcmplt f => Sys2Proof.Machine.execVcmplt f s
  | .vcmple f => Sys2Proof.Machine.execVcmple f s
  | .vcmpgt f => Sys2Proof.Machine.execVcmpgt f s
  | .vcmpge f => Sys2Proof.Machine.execVcmpge f s
  | .vfadd f => Sys2Proof.Machine.execVfadd f s
  | .vfsub f => Sys2Proof.Machine.execVfsub f s
  | .vfmul f => Sys2Proof.Machine.execVfmul f s
  | .vfma f => Sys2Proof.Machine.execVfma f s
  | .vfmin f => Sys2Proof.Machine.execVfmin f s
  | .vfmax f => Sys2Proof.Machine.execVfmax f s
  | .vfabs f => Sys2Proof.Machine.execVfabs f s
  | .vfneg f => Sys2Proof.Machine.execVfneg f s
  | .vfdiv f => Sys2Proof.Machine.execVfdiv f s
  | .vfsqrt f => Sys2Proof.Machine.execVfsqrt f s
  | .vfrsq f => Sys2Proof.Machine.execVfrsq f s
  | .vfexp2 f => Sys2Proof.Machine.execVfexp2 f s
  | .vflog2 f => Sys2Proof.Machine.execVflog2 f s
  | .vfcmpeq f => Sys2Proof.Machine.execVfcmpeq f s
  | .vfcmpne f => Sys2Proof.Machine.execVfcmpne f s
  | .vfcmplt f => Sys2Proof.Machine.execVfcmplt f s
  | .vfcmple f => Sys2Proof.Machine.execVfcmple f s
  | .vfcmpgt f => Sys2Proof.Machine.execVfcmpgt f s
  | .vfcmpge f => Sys2Proof.Machine.execVfcmpge f s
  | .vcvt f => Sys2Proof.Machine.execVcvt f s
  | .vld f => Sys2Proof.Machine.execVld f s
  | .vst f => Sys2Proof.Machine.execVst f s
  | .vld2 f => Sys2Proof.Machine.execVld2 f s
  | .vst2 f => Sys2Proof.Machine.execVst2 f s
  | .vld4 f => Sys2Proof.Machine.execVld4 f s
  | .vst4 f => Sys2Proof.Machine.execVst4 f s
  | .vaadd f => Sys2Proof.Machine.execVaadd f s
  | .vaand f => Sys2Proof.Machine.execVaand f s
  | .vaor f => Sys2Proof.Machine.execVaor f s
  | .vaxor f => Sys2Proof.Machine.execVaxor f s
  | .vamin f => Sys2Proof.Machine.execVamin f s
  | .vamax f => Sys2Proof.Machine.execVamax f s
  | .vaswap f => Sys2Proof.Machine.execVaswap f s
  | .vacas f => Sys2Proof.Machine.execVacas f s
  | .vlaor f => Sys2Proof.Machine.execVlaor f s
  | .vlaand f => Sys2Proof.Machine.execVlaand f s
  | .vlaxor f => Sys2Proof.Machine.execVlaxor f s
  | .vspill f => Sys2Proof.Machine.execVspill f s
  | .vfill f => Sys2Proof.Machine.execVfill f s
  | .bwait f => Sys2Proof.Machine.execBwait f s
  | .bwaitReread core slot path => Sys2Proof.Machine.execBwaitReread core slot path s
  | .cpk f => Sys2Proof.Machine.execCpk f s
  | .coll f => Sys2Proof.Machine.execColl f s
  | .vbar f => Sys2Proof.Machine.execVbar f s
  | .vnbar f => Sys2Proof.Machine.execVnbar f s
  | .barrierGenerationComplete core slot nb => Sys2Proof.Machine.execBarrierGenerationComplete core slot nb s
  | .vfence f => Sys2Proof.Machine.execVfence f s
  | .binit f => Sys2Proof.Machine.execBinit f s
  | .badd f => Sys2Proof.Machine.execBadd f s
  | .mzero f => Sys2Proof.Machine.execMzero f s
  | .mloop f => Sys2Proof.Machine.execMloop f s
  | .mloopp f => Sys2Proof.Machine.execMloopp f s
  | .mrd f => Sys2Proof.Machine.execMrd f s
  | .mwr f => Sys2Proof.Machine.execMwr f s
  | .mstat f => Sys2Proof.Machine.execMstat f s
  | .qld f => Sys2Proof.Machine.execQld f s
  | .qst f => Sys2Proof.Machine.execQst f s
  | .qmov f => Sys2Proof.Machine.execQmov f s
  | .qtrn f => Sys2Proof.Machine.execQtrn f s
  | .qadd f => Sys2Proof.Machine.execQadd f s
  | .qscl f => Sys2Proof.Machine.execQscl f s
  | .qmul f => Sys2Proof.Machine.execQmul f s
  | .qmad f => Sys2Proof.Machine.execQmad f s
  | .qchol f => Sys2Proof.Machine.execQchol f s
  | .qlup f => Sys2Proof.Machine.execQlup f s
  | .qsolc f => Sys2Proof.Machine.execQsolc f s
  | .qsoll f => Sys2Proof.Machine.execQsoll f s
  | .qdet f => Sys2Proof.Machine.execQdet f s
  | .vballot f => Sys2Proof.Machine.execVballot f s
  | .vprefix f => Sys2Proof.Machine.execVprefix f s
  | .vshfli f => Sys2Proof.Machine.execVshfli f s
  | .vshflx f => Sys2Proof.Machine.execVshflx f s
  | .vshflu f => Sys2Proof.Machine.execVshflu f s
  | .vshfld f => Sys2Proof.Machine.execVshfld f s
  | .vlaneid f => Sys2Proof.Machine.execVlaneid f s
  | .vpand f => Sys2Proof.Machine.execVpand f s
  | .vpor f => Sys2Proof.Machine.execVpor f s
  | .vpxor f => Sys2Proof.Machine.execVpxor f s
  | .vpandn f => Sys2Proof.Machine.execVpandn f s
  | .vxset f => Sys2Proof.Machine.execVxset f s
  | .vxadd f => Sys2Proof.Machine.execVxadd f s
  | .vxmov f => Sys2Proof.Machine.execVxmov f s
  | .tnmask f => Sys2Proof.Machine.execTnmask f s
  | .unassignedEncoding w => Sys2Proof.Machine.execUnassignedEncoding w s
  | .queueProcessorAccess h a => Sys2Proof.Machine.execQueueProcessorAccess h a s
  | .illegalInstruction w => Sys2Proof.Machine.execIllegalInstruction w s
  | .debugUnknownCommand r => Sys2Proof.Machine.execDebugUnknownCommand r s
  | .debugRequestTimeout => Sys2Proof.Machine.execDebugRequestTimeout s

end Sys2Proof.Machine
end

