-- ==== Sys2Proof/Machine/Outside.lean ====
section
/-!
DEFINITION. What the outside does beyond the events of the table: reads of registers (R17, R21, R22, R25, R26, R29, R35, R39, R61,
R75, R90, R112, R113, R138, R140, R256, R260), a new window size (R21), the debug fuse (R26), errors of host memory (R56, R59) and
interrupt lines (R54, R59); and what every step ends with.
-/

namespace Sys2Proof.Machine

/-! ## Reads of registers

The value of the 64 bits at an offset that is a multiple of 8, where the spec gives one: a register of 32 bits is its half. A field
that only takes writes, and an offset that holds nothing, have none. -/

/-- Two registers of 32 bits. -/
def halves (lo hi : Nat) : Option Nat := some (lo % 2 ^ 32 + hi % 2 ^ 32 * 2 ^ 32)

/-- BFSTAT (R29). -/
def Dev.bfstat (d : Dev) : Nat := d.bfErr.toNat + d.flips.length * 2 ^ 8 + d.bfDone.toNat * 2 ^ 32

/-- MEXTST (R35). -/
def Dev.mextst (d : Dev) : Nat := d.log.length + (if d.mextFull then 2 ^ 32 else 0) + (if d.mextIgn then 2 ^ 33 else 0)

/-- FSTAT (R39). -/
def Fabric.fstat (f : Fabric) : Nat := f.ports.toNat + (if f.lock then 2 ^ 30 else 0) + (if f.hold then 2 ^ 31 else 0)

/-- CVSTAT (R90). -/
def Sched.cvstat (s : Sched) : Nat := (if s.cvBusy then 1 else 0) + (if s.cvErr then 2 else 0) + s.cvDone.toNat * 2 ^ 32

/-- FTRD (R138): the frame and its byte. -/
def State.ftrd (s : State) : Option Nat :=
  let f := s.xl.ftrd.toNat
  if f < 0x900000 then some (f + (Tab.get 0 s.mem.frames f).toNat * 2 ^ 24) else none

/-- TSSTAT (R138): BUSY stands while a shoot-down of the driver is pending. -/
def Xlate.tsstat (x : Xlate) : Nat :=
  let n := x.driverShoots.length
  (if n = 0 then 0 else 1) + (if x.tsErr then 2 else 0) + n * 2 ^ 4 + x.tsDone.toNat * 2 ^ 32

/-- MIGSTAT (R138). -/
def Xlate.migstat (x : Xlate) : Nat := (if x.mig.isSome then 1 else 0) + x.migErr.toNat * 2 ^ 2 + x.migDone.toNat * 2 ^ 32

/-- KVRECL (R140): the frame that the last reclaim took back. -/
def Kv.kvrecl (k : Kv) : Nat :=
  match k.reclaimed with
  | some f => 2 ^ 31 + f % 2 ^ 24
  | none => 0

/-- KVFRD (R140): the frame and its count word. -/
def Kv.kvfrdRead (k : Kv) : Option Nat :=
  let f := k.kvfrd.toNat
  if f < 0x900000 then some (f + (Tab.get 0 k.counts f).toNat * 2 ^ 32) else none

/-- Registers of the host link, of the fabric and of placement (R17, R21, R29, R35, R39, R75, R90). -/
def readHostReg (s : State) (off : Nat) : Option Nat :=
  let d := s.dev
  match off with
  | 0x000 => some (Config.devidLow.toNat + 0x5932 * 2 ^ 48)
  | 0x100 => halves d.svcstat 0
  | 0x110 => halves d.pcap 0
  | 0x208 => some d.bfstat
  | 0x340 => some d.mextst
  | 0x400 => some d.winbase.toNat
  | 0x500 => halves s.fab.fnode.toNat 0
  | 0x508 => some (counterValue s 0 0x014).toNat
  | 0x510 => halves s.fab.ftunc 0
  | 0x518 => halves s.fab.fstat 0
  | 0x520 => halves s.fab.ftmo.toNat 0
  | 0x600 => some d.fwaddr.toNat
  | 0x608 => halves 0 d.fwstat.toNat
  | 0x708 => some s.sched.cvstat
  | n => if 0x308 ≤ n ∧ n ≤ 0x338 then some (Tab.get 0 d.mextStage ((n - 0x300) / 8)).toNat else none

/-- Half of a 128-bit entry of a table of the fabric. -/
def readHalf (m : Tab (BitVec 128)) (i half : Nat) : Nat := (Tab.get 0 m i).toNat / 2 ^ (64 * half) % 2 ^ 64

/-- Registers of translation and of KV space (R138, R140). -/
def readXlate (s : State) (off : Nat) : Option Nat :=
  let x := s.xl
  match off with
  | 0xC00 => some x.atbase.toNat
  | 0xC10 => s.ftrd
  | 0xC20 => some x.pfbase.toNat
  | 0xC28 => halves x.pfctl.toNat x.pfhead.toNat
  | 0xC30 => halves x.pftail.toNat 0
  | 0xC40 => some x.tsva.toNat
  | 0xC50 => some x.tsstat
  | 0xC58 => some x.migpte.toNat
  | 0xC60 => some x.migva.toNat
  | 0xC70 => some x.migstat
  | 0xC80 => some x.scbase.toNat
  | 0xC88 => some x.scctl.toNat
  | 0xC90 => halves x.schead.toNat x.sctail.toNat
  | 0xD00 => some s.kv.kvbase.toNat
  | 0xD08 => some s.kv.kvctl.toNat
  | 0xD18 => some s.kv.kvrecl
  | 0xD20 => some (s.kv.stat true)
  | 0xD28 => s.kv.kvfrdRead
  | _ => none

/-- Registers of traps, dumps, the journal and trials (R256, R260). -/
def readDebugReg (s : State) (off : Nat) : Option Nat :=
  let b := s.dbg
  match off with
  | 0xE00 => some b.trbase.toNat
  | 0xE08 => halves b.trctl.toNat b.trhead.toNat
  | 0xE10 => halves b.trtail.toNat 0
  | 0xE18 => some b.dmpbase.toNat
  | 0xE20 => halves b.dmpsize.toNat b.dmpctl.toNat
  | 0xE28 => some b.dmpstat.toNat
  | 0xE30 => some b.jbase.toNat
  | 0xE38 => halves b.jctl.toNat (b.jcount.toNat * 2 + (if b.jerr then 1 else 0))
  | 0xE40 => some b.cxlo.toNat
  | 0xE48 => some b.cxhi.toNat
  | 0xE50 => some b.cxctl.toNat
  | 0xE58 => some b.cxdly.toNat
  | 0xE60 => some b.cxpth.toNat
  | n => if 0xE80 ≤ n ∧ n < 0xF00 then some (Tab.get 0 b.pcnt ((n - 0xE80) / 8)).toNat else none

/-- A queue's control block (R61). -/
def readQueue (k : Queue) (off : Nat) : Option Nat :=
  match off with
  | 0x00 => some k.qbase.toNat
  | 0x08 => some k.qctl.toNat
  | 0x10 => halves k.qwr.toNat k.qrd.toNat
  | 0x18 => halves ((if k.rstBusy then 2 else 0) + (if k.rstDone then 4 else 0)) k.qerr.toNat
  | _ => none

/-- The mailbox (R25, R26): zero throughout once the fuse is blown. -/
def readMailbox (s : State) (off : Nat) : Option Nat :=
  if s.dev.fuseDebug = false then some 0
  else if off < 0x1000 then some (ofBytes (Tab.getList 0 s.dbg.req off 8))
  else if off < 0x2000 then some (ofBytes (Tab.getList 0 s.dbg.rsp (off - 0x1000) 8))
  else if off = 0x2008 then
    halves ((if s.dbg.busy then 1 else 0) + (if s.dbg.done then 2 else 0) + s.dbg.dcode.toNat * 2 ^ 8) 0
  else none

/-- The 64 bits at an offset of the register regions, numbered as REGISTER_WRITE numbers them: the first BAR (R21), with the launch
pages (R22), and from 0x100_0000 on the mailbox. -/
def State.regRead (s : State) (off : Nat) : Option Nat :=
  if 0x1000000 ≤ off then readMailbox s (off - 0x1000000)
  else if 0x400000 ≤ off then (if off % 0x1000 = 0x40 then halves (s.queue ((off - 0x400000) / 0x1000)).ldrop.toNat 0 else some 0)
  else if 0x300000 ≤ off then some 0
  else if 0x100000 ≤ off then readQueue (s.queue ((off - 0x100000) / 0x800)) (off % 0x800)
  else if 0x800 ≤ off ∧ off < 0xC00 then some (readHalf s.fab.fexp ((off - 0x800) / 16) (off / 8 % 2))
  else if 0x1000 ≤ off ∧ off < 0x2000 then some (readHalf s.fab.fgrp ((off - 0x1000) / 16) (off / 8 % 2))
  else if 0x2000 ≤ off ∧ off < 0x2080 then some (Tab.get 0 s.mem.l2part ((off - 0x2000) / 8)).toNat
  else if 0x3000 ≤ off ∧ off < 0x3800 then some (Tab.get 0 s.mem.l2asid ((off - 0x3000) / 8)).toNat
  else if off < 0x800 then readHostReg s off
  else if off < 0xE00 then readXlate s off
  else readDebugReg s off

/-- A byte of the register regions; one that the spec gives no value is free. -/
def State.regByte (s : State) (off : Nat) : Byte :=
  match s.regRead (off / 8 * 8) with
  | some v => BitVec.ofNat 8 (v / 2 ^ (8 * (off % 8)))
  | none => Config.freeByte s.fresh off

/-- A host read of registers: its bytes go out, and time has passed. In D3hot and D3cold no register is reached (R11), and before the
link is up nothing answers (R14). -/
def State.hostRead (s : State) (off size : Nat) : State :=
  let s := s.passTime
  if s.dev.bstep = 0 then s
  else if s.dev.dark then s.emit .unsupportedRequest
  else s.tick.emit (.readData ((List.range size).map (fun i => s.regByte (off + i))))

/-! ## Other inputs -/

/-- WINBASE under another window size (R21, R24): it stays a multiple of the size, and zero for a window of 1 TiB. -/
def Dev.resize (d : Dev) (log2 : Nat) : Dev :=
  { d with
    winLog2 := log2,
    winbase := if log2 = 40 then 0 else BitVec.ofNat 64 (d.winbase.toNat / 2 ^ log2 * 2 ^ log2) }

/-- What the outside does. -/
def State.takeInput (s : State) : Input → State
  | .hostRead off size => s.hostRead off size
  | .mailboxWrite off b => if s.dev.deaf then s else s.mailboxPut off b
  | .windowSize n => if 30 ≤ n ∧ n ≤ 40 then { s with dev := s.dev.resize n } else s
  | .blowFuse => { s with dev := { s.dev with fuseDebug := false } }
  | .hostLine l bad =>
    let rest := s.mem.badHost.filter (fun x => x != l)
    { s with mem := { s.mem with badHost := if bad then l :: rest else rest } }
  | .interrupts h lines => if h < 8 then s.modHart h (fun k => { k with irq := lines }) else s
  | .bridgeCarried => { s with dev := { s.dev with bridgeRetries := 0 } }

/-! ## The end of a step -/

/-- What every step ends with: a debug step in hand may end (R255), trap reports whose teams' accesses have performed enter their
ring (R247, R249), and a request for D3hot completes once nothing is outstanding (R12). -/
def State.afterStep (s : State) : State := s.settle.flushAll.settlePower

end Sys2Proof.Machine
end

