-- ==== Sys2Proof/Machine/RiscvFloat.lean ====
section
/-!
DEFINITION. Floating-point arithmetic of the queue processors (R54): F and D of RISC-V, which the spec names in RV64GC and does not
repeat (log entry 9). A result comes with its flags, as fflags has them.
-/

namespace Sys2Proof.Machine

/-- The flags of fflags: invalid, division by zero, overflow, underflow, inexact. -/
def flagNV : Nat := 16
def flagDZ : Nat := 8
def flagOF : Nat := 4
def flagUF : Nat := 2
def flagNX : Nat := 1

/-- The choice between the candidates of a rounding in a mode of frm: nearest even, toward zero, down, up, nearest with ties away. -/
def Bracket.rvPick (b : Bracket) (rm : Nat) (neg : Bool) : Nat :=
  match rm with
  | 0 => b.pick .rne neg 0
  | 1 => b.pick .rz neg 0
  | 2 => b.pick .rd neg 0
  | 3 => b.pick .ru neg 0
  | _ => if b.exact_ || b.near == .lt then b.lo else b.hi

/-- A value past the largest of a format becomes the largest in this mode, and infinity otherwise. -/
def rvHoldsBig (rm : Nat) (neg : Bool) : Bool := rm == 1 || (rm == 2 && !neg) || (rm == 3 && neg)

/-- A value rounded into a format, with overflow, underflow and inexact. Underflow is found after rounding. -/
def BinFmt.rvRound (f : BinFmt) (rm : Nat) : FNum → Nat × Nat
  | .nan => (f.nanCode, 0)
  | .inf n => (f.signed n f.infCode, 0)
  | .fin s q e more =>
    if q = 0 ∧ more = false then (f.signed s 0, 0)
    else
      let b := f.bracket q e more
      let c := f.code (b.rvPick rm s) (f.step q e)
      let free : Int := (Nat.log2 q : Int) + e - (f.p : Int) + 1
      let tiny := (bracketUnit q e more free).rvPick rm s * 2 ^ (free - (f.ulp - f.p)).toNat
        < 2 ^ (f.p - 1) * 2 ^ f.p
      if c < f.infCode then
        (f.signed s c, if b.exact_ then 0 else flagNX + (if free < f.ulp && tiny then flagUF else 0))
      else (f.signed s (if rvHoldsBig rm s then f.infCode - 1 else f.infCode), flagOF + flagNX)

/-- A code is a NaN, and one that signals. -/
def BinFmt.isNan (f : BinFmt) (x : Nat) : Bool := decide (f.infCode < x % 2 ^ (f.w - 1))
def BinFmt.isSnan (f : BinFmt) (x : Nat) : Bool := f.isNan x && !x.testBit (f.p - 2)

/-- An operation on codes: its exact value rounded. A signalling operand, or a NaN from operands that are none, is invalid. -/
def BinFmt.rvOp (f : BinFmt) (rm : Nat) (xs : List Nat) (v : FNum) : Nat × Nat :=
  let r := f.rvRound rm v
  (r.1, r.2 + (if xs.any f.isSnan || (v == .nan && !xs.any f.isNan) then flagNV else 0))

/-- The sum, the product, the quotient and the square root. -/
def BinFmt.rvAdd (f : BinFmt) (rm a b : Nat) : Nat × Nat := f.rvOp rm [a, b] (FNum.add (rm == 2) (f.decode a) (f.decode b))
def BinFmt.rvMul (f : BinFmt) (rm a b : Nat) : Nat × Nat := f.rvOp rm [a, b] (FNum.mul (f.decode a) (f.decode b))
def BinFmt.rvSqrt (f : BinFmt) (rm a : Nat) : Nat × Nat := f.rvOp rm [a] (FNum.sqrt (f.decode a))

def BinFmt.rvDiv (f : BinFmt) (rm a b : Nat) : Nat × Nat :=
  let x := f.decode a
  let y := f.decode b
  let r := f.rvOp rm [a, b] (FNum.div x y)
  (r.1, r.2 + (if x.isFin && !x.isZero && y.isZero then flagDZ else 0))

/-- A code with its sign inverted. -/
def BinFmt.flip (f : BinFmt) (x : Nat) : Nat := x ^^^ 2 ^ (f.w - 1)

/-- The fused product and sum: infinity times zero is invalid with any addend. -/
def BinFmt.rvFma (f : BinFmt) (rm a b c : Nat) : Nat × Nat :=
  let p := FNum.mul (f.decode a) (f.decode b)
  let r := f.rvOp rm [a, b, c] (FNum.add (rm == 2) p (f.decode c))
  let bad := p == .nan && !f.isNan a && !f.isNan b
  (r.1, r.2 ||| (if bad then flagNV else 0))

/-- The lesser or the greater of two codes: −0 is below +0, and a NaN gives way. -/
def BinFmt.rvMin (f : BinFmt) (max_ : Bool) (a b : Nat) : Nat × Nat :=
  let nv := if f.isSnan a || f.isSnan b then flagNV else 0
  let x := f.decode a
  let y := f.decode b
  let less := FNum.lt x y || (x.isZero && y.isZero && x.isNeg && !y.isNeg)
  (if f.isNan a && f.isNan b then f.nanCode else if f.isNan a then b else if f.isNan b then a
   else if less != max_ then a else b, nv)

/-- FLE (0), FLT (1) and FEQ (2). A NaN is invalid for the first two, and a signalling one for all. -/
def BinFmt.rvCmp (f : BinFmt) (op a b : Nat) : Nat × Nat :=
  let o := FNum.cmp (f.decode a) (f.decode b)
  let nan := f.isNan a || f.isNan b
  let nv := if f.isSnan a || f.isSnan b || (nan && op != 2) then flagNV else 0
  let eq := o == some .eq
  let lt := o == some .lt
  (if (if op = 2 then eq else if op = 1 then lt else lt || eq) then 1 else 0, nv)

/-- The class mask of FCLASS. -/
def BinFmt.rvClass (f : BinFmt) (x : Nat) : Nat :=
  let neg := x.testBit (f.w - 1)
  let m := x % 2 ^ (f.w - 1)
  if f.isSnan x then 2 ^ 8 else if f.isNan x then 2 ^ 9
  else
    let k := if m = f.infCode then 0 else if 2 ^ (f.p - 1) ≤ m then 1 else if m ≠ 0 then 2 else 3
    2 ^ (if neg then k else 7 - k)

/-- A value as an integer of `w` bits: one out of range, and a NaN, gives the nearest bound and is invalid. -/
def rvToInt (rm w : Nat) (signed : Bool) (v : FNum) : Int × Nat :=
  let lo : Int := if signed then -((2 ^ (w - 1) : Nat) : Int) else 0
  let hi : Int := if signed then ((2 ^ (w - 1) : Nat) : Int) - 1 else ((2 ^ w : Nat) : Int) - 1
  match v with
  | .nan => (hi, flagNV)
  | .inf n => (if n then lo else hi, flagNV)
  | .fin s q e more =>
    if q ≠ 0 ∧ 70 < (Nat.log2 q : Int) + e then (if s then lo else hi, flagNV)
    else
      let b := bracketUnit q e more 0
      let m : Int := (b.rvPick rm s : Nat)
      let i := if s then -m else m
      if i < lo then (lo, flagNV) else if hi < i then (hi, flagNV) else (i, if b.exact_ then 0 else flagNX)

/-- A register as an operand of a format: an f32 must be boxed in ones. -/
def rvUnbox (double : Bool) (v : BitVec 64) : Nat :=
  if double then v.toNat else if v.toNat / 2 ^ 32 = 2 ^ 32 - 1 then v.toNat % 2 ^ 32 else binF32.nanCode

/-- A result as a register holds it. -/
def rvBox (double : Bool) (x : Nat) : BitVec 64 := BitVec.ofNat 64 (if double then x else (2 ^ 32 - 1) * 2 ^ 32 + x % 2 ^ 32)

/-- The format of an operation. -/
def rvFmt (double : Bool) : BinFmt := if double then binF64 else binF32

end Sys2Proof.Machine
end

