-- ==== Sys2Proof/Machine/Riscv.lean ====
section
/-!
DEFINITION. The base instructions of the queue processors (R54): RV64GC with machine, supervisor and user modes. The spec names the
instruction set and does not repeat it; its meaning here is that of the RISC-V specifications, with what they leave to an
implementation fixed as log entry 9 says: addresses are those of the view of R54 and are not translated (satp holds Bare alone),
there is no physical memory protection, and a misaligned load or store completes.
-/

namespace Sys2Proof.Machine

/-! ## Fields of a word -/

/-- The register fields of a word, and the function fields. -/
def rdOf (w : BitVec 32) : Reg5 := field w 7 5
def rs1Of (w : BitVec 32) : Reg5 := field w 15 5
def rs2Of (w : BitVec 32) : Reg5 := field w 20 5
def rs3Of (w : BitVec 32) : Reg5 := field w 27 5
def f3Of (w : BitVec 32) : Nat := (field w 12 3).toNat
def f7Of (w : BitVec 32) : Nat := (field w 25 7).toNat

/-- A number of `n` bits, sign-extended. -/
def sext (n v : Nat) : Word64 := BitVec.ofInt 64 (toSigned n v)

/-- The immediates of the formats I, S, B, U and J. -/
def immI (w : BitVec 32) : Word64 := sext 12 (bits 31 20 w.toNat)
def immS (w : BitVec 32) : Word64 := sext 12 (bits 31 25 w.toNat * 32 + bits 11 7 w.toNat)
def immB (w : BitVec 32) : Word64 :=
  let x := w.toNat
  sext 13 (bits 31 31 x * 4096 + bits 7 7 x * 2048 + bits 30 25 x * 32 + bits 11 8 x * 2)
def immU (w : BitVec 32) : Word64 := sext 32 (bits 31 12 w.toNat * 4096)
def immJ (w : BitVec 32) : Word64 :=
  let x := w.toNat
  sext 21 (bits 31 31 x * 2 ^ 20 + bits 19 12 x * 4096 + bits 20 20 x * 2048 + bits 30 21 x * 2)

/-! ## Compressed instructions -/

/-- Words of the formats R, I, S, B, U and J from their fields; an immediate may be any number. -/
def encR (op f3 f7 rd rs1 rs2 : Nat) : Nat := op + rd * 2 ^ 7 + f3 * 2 ^ 12 + rs1 * 2 ^ 15 + rs2 * 2 ^ 20 + f7 * 2 ^ 25
def encI (op f3 rd rs1 imm : Nat) : Nat := op + rd * 2 ^ 7 + f3 * 2 ^ 12 + rs1 * 2 ^ 15 + imm % 4096 * 2 ^ 20
def encS (op f3 rs1 rs2 imm : Nat) : Nat :=
  op + imm % 32 * 2 ^ 7 + f3 * 2 ^ 12 + rs1 * 2 ^ 15 + rs2 * 2 ^ 20 + imm / 32 % 128 * 2 ^ 25
def encB (f3 rs1 imm : Nat) : Nat :=
  0x63 + bits 11 11 imm * 2 ^ 7 + bits 4 1 imm * 2 ^ 8 + f3 * 2 ^ 12 + rs1 * 2 ^ 15 + bits 10 5 imm * 2 ^ 25 + bits 12 12 imm * 2 ^ 31
def encJ (imm : Nat) : Nat :=
  0x6F + bits 19 12 imm * 2 ^ 12 + bits 11 11 imm * 2 ^ 20 + bits 10 1 imm * 2 ^ 21 + bits 20 20 imm * 2 ^ 31

/-- A number of `n` bits, sign-extended to 32. -/
def sx (n v : Nat) : Nat := ofSigned 32 (toSigned n v)

/-- Quadrant 0: accesses by a register of x8 to x15, and ADDI4SPN. -/
def expand0 (c : Nat) : Option Nat :=
  let rd := 8 + bits 4 2 c
  let rs := 8 + bits 9 7 c
  let d := bits 12 10 c * 8 + bits 6 5 c * 64
  let w := bits 12 10 c * 8 + bits 6 6 c * 4 + bits 5 5 c * 64
  let sp := bits 12 11 c * 16 + bits 10 7 c * 64 + bits 6 6 c * 4 + bits 5 5 c * 8
  match bits 15 13 c with
  | 0 => if sp = 0 then none else some (encI 0x13 0 rd 2 sp)
  | 1 => some (encI 0x07 3 rd rs d)
  | 2 => some (encI 0x03 2 rd rs w)
  | 3 => some (encI 0x03 3 rd rs d)
  | 5 => some (encS 0x27 3 rs rd d)
  | 6 => some (encS 0x23 2 rs rd w)
  | 7 => some (encS 0x23 3 rs rd d)
  | _ => none

/-- The arithmetic of quadrant 1. -/
def expandArith (c : Nat) : Option Nat :=
  let rd := 8 + bits 9 7 c
  let rs := 8 + bits 4 2 c
  let sh := bits 12 12 c * 32 + bits 6 2 c
  match bits 11 10 c with
  | 0 => some (encI 0x13 5 rd rd sh)
  | 1 => some (encI 0x13 5 rd rd (sh + 0x400))
  | 2 => some (encI 0x13 7 rd rd (sx 6 sh))
  | _ =>
    match bits 12 12 c, bits 6 5 c with
    | 0, 0 => some (encR 0x33 0 32 rd rd rs)
    | 0, 1 => some (encR 0x33 4 0 rd rd rs)
    | 0, 2 => some (encR 0x33 6 0 rd rd rs)
    | 0, _ => some (encR 0x33 7 0 rd rd rs)
    | _, 0 => some (encR 0x3B 0 32 rd rd rs)
    | _, 1 => some (encR 0x3B 0 0 rd rd rs)
    | _, _ => none

/-- Quadrant 1: immediates, arithmetic, jumps and branches. -/
def expand1 (c : Nat) : Option Nat :=
  let rd := bits 11 7 c
  let imm := bits 12 12 c * 32 + bits 6 2 c
  let sp := bits 12 12 c * 512 + bits 6 6 c * 16 + bits 5 5 c * 64 + bits 4 3 c * 128 + bits 2 2 c * 32
  let j := bits 12 12 c * 2048 + bits 11 11 c * 16 + bits 10 9 c * 256 + bits 8 8 c * 1024 + bits 7 7 c * 64 + bits 6 6 c * 128
    + bits 5 3 c * 2 + bits 2 2 c * 32
  let b := bits 12 12 c * 256 + bits 11 10 c * 8 + bits 6 5 c * 64 + bits 4 3 c * 2 + bits 2 2 c * 32
  match bits 15 13 c with
  | 0 => some (encI 0x13 0 rd rd (sx 6 imm))
  | 1 => if rd = 0 then none else some (encI 0x1B 0 rd rd (sx 6 imm))
  | 2 => some (encI 0x13 0 rd 0 (sx 6 imm))
  | 3 =>
    if rd = 2 then (if sp = 0 then none else some (encI 0x13 0 2 2 (sx 10 sp)))
    else if imm = 0 then none else some (0x37 + rd * 2 ^ 7 + sx 6 imm % 2 ^ 20 * 2 ^ 12)
  | 4 => expandArith c
  | 5 => some (encJ (sx 12 j))
  | 6 => some (encB 0 (8 + bits 9 7 c) (sx 9 b))
  | _ => some (encB 1 (8 + bits 9 7 c) (sx 9 b))

/-- Quadrant 2: accesses by the stack pointer, shifts, moves and jumps by a register. -/
def expand2 (c : Nat) : Option Nat :=
  let rd := bits 11 7 c
  let rs := bits 6 2 c
  let ld := bits 12 12 c * 32 + bits 6 5 c * 8 + bits 4 2 c * 64
  let lw := bits 12 12 c * 32 + bits 6 4 c * 4 + bits 3 2 c * 64
  let sd := bits 12 10 c * 8 + bits 9 7 c * 64
  let sw := bits 12 9 c * 4 + bits 8 7 c * 64
  match bits 15 13 c with
  | 0 => some (encI 0x13 1 rd rd (bits 12 12 c * 32 + rs))
  | 1 => some (encI 0x07 3 rd 2 ld)
  | 2 => if rd = 0 then none else some (encI 0x03 2 rd 2 lw)
  | 3 => if rd = 0 then none else some (encI 0x03 3 rd 2 ld)
  | 4 =>
    if bits 12 12 c = 0 then
      (if rs ≠ 0 then some (encR 0x33 0 0 rd 0 rs) else if rd = 0 then none else some (encI 0x67 0 0 rd 0))
    else if rs ≠ 0 then some (encR 0x33 0 0 rd rd rs)
    else if rd = 0 then some 0x00100073
    else some (encI 0x67 0 1 rd 0)
  | 5 => some (encS 0x27 3 2 rs sd)
  | 6 => some (encS 0x23 2 2 rs sw)
  | _ => some (encS 0x23 3 2 rs sd)

/-- The 32-bit instruction of a word: of a compressed one its expansion, or none for a reserved one. -/
def expandWord (w : BitVec 32) : Option (BitVec 32) :=
  match w.toNat % 4 with
  | 0 => (expand0 w.toNat).map (BitVec.ofNat 32)
  | 1 => (expand1 w.toNat).map (BitVec.ofNat 32)
  | 2 => (expand2 w.toNat).map (BitVec.ofNat 32)
  | _ => some w

/-! ## Integer instructions -/

/-- The result of a 32-bit operation in a register. -/
def word32 (x : BitVec 64) : Word64 := sext 32 (x.toNat % 2 ^ 32)

/-- OP and OP-IMM: the operation of funct3, with `alt` for SUB, SRA and SRAI. -/
def aluOp (f3 : Nat) (alt : Bool) (a b : Word64) : Word64 :=
  match f3 with
  | 0 => if alt then a - b else a + b
  | 1 => a <<< (b.toNat % 64)
  | 2 => if a.slt b then 1 else 0
  | 3 => if a.ult b then 1 else 0
  | 4 => a ^^^ b
  | 5 => if alt then a.sshiftRight (b.toNat % 64) else a >>> (b.toNat % 64)
  | 6 => a ||| b
  | _ => a &&& b

/-- OP-32 and OP-IMM-32, or none for a reserved funct3. -/
def aluOp32 (f3 : Nat) (alt : Bool) (a b : Word64) : Option Word64 :=
  let x := BitVec.setWidth 32 a
  let n := b.toNat % 32
  match f3 with
  | 0 => some (word32 (if alt then a - b else a + b))
  | 1 => some (BitVec.signExtend 64 (x <<< n))
  | 5 => some (BitVec.signExtend 64 (if alt then x.sshiftRight n else x >>> n))
  | _ => none

/-- Quotient and remainder toward zero of `w`-bit numbers: by zero they are all ones and the dividend. -/
def rvQuot (w : Nat) (signed : Bool) (a b : Nat) : Nat :=
  if b % 2 ^ w = 0 then 2 ^ w - 1
  else if signed then ofSigned w (Int.tdiv (toSigned w a) (toSigned w b)) else a % 2 ^ w / (b % 2 ^ w)
def rvRem (w : Nat) (signed : Bool) (a b : Nat) : Nat :=
  if b % 2 ^ w = 0 then a % 2 ^ w
  else if signed then ofSigned w (Int.tmod (toSigned w a) (toSigned w b)) else a % 2 ^ w % (b % 2 ^ w)

/-- M: multiplication and division. -/
def mulOp (f3 : Nat) (a b : Word64) : Word64 :=
  let hi := fun (i : Int) => BitVec.ofInt 64 (i / ((2 ^ 64 : Nat) : Int))
  match f3 with
  | 0 => a * b
  | 1 => hi (a.toInt * b.toInt)
  | 2 => hi (a.toInt * b.toNat)
  | 3 => BitVec.ofNat 64 (a.toNat * b.toNat / 2 ^ 64)
  | 4 => BitVec.ofNat 64 (rvQuot 64 true a.toNat b.toNat)
  | 5 => BitVec.ofNat 64 (rvQuot 64 false a.toNat b.toNat)
  | 6 => BitVec.ofNat 64 (rvRem 64 true a.toNat b.toNat)
  | _ => BitVec.ofNat 64 (rvRem 64 false a.toNat b.toNat)

/-- M on 32-bit words. -/
def mulOp32 (f3 : Nat) (a b : Word64) : Option Word64 :=
  match f3 with
  | 0 => some (word32 (a * b))
  | 4 => some (sext 32 (rvQuot 32 true a.toNat b.toNat))
  | 5 => some (sext 32 (rvQuot 32 false a.toNat b.toNat))
  | 6 => some (sext 32 (rvRem 32 true a.toNat b.toNat))
  | 7 => some (sext 32 (rvRem 32 false a.toNat b.toNat))
  | _ => none

/-- The condition of a branch. -/
def branchTaken (f3 : Nat) (a b : Word64) : Option Bool :=
  match f3 with
  | 0 => some (a == b)
  | 1 => some (a != b)
  | 4 => some (a.slt b)
  | 5 => some (!a.slt b)
  | 6 => some (a.ult b)
  | 7 => some (!a.ult b)
  | _ => none

/-- The value that an instruction of OP, OP-IMM and their 32-bit forms gives rd. -/
def integerValue (k : Hart) (w : BitVec 32) : Option Word64 :=
  let a := k.r (rs1Of w)
  let b := k.r (rs2Of w)
  let f3 := f3Of w
  let f7 := f7Of w
  let sh := f7 / 2
  match (field w 0 7).toNat with
  | 0x13 =>
    if f3 = 1 then (if sh = 0 then some (aluOp 1 false a (immI w)) else none)
    else if f3 = 5 then
      (if sh = 0 then some (aluOp 5 false a (immI w)) else if sh = 16 then some (aluOp 5 true a (immI w)) else none)
    else some (aluOp f3 false a (immI w))
  | 0x1B =>
    if f3 = 0 then aluOp32 0 false a (immI w)
    else if f7 = 0 then aluOp32 f3 false a (immI w)
    else if f7 = 32 ∧ f3 = 5 then aluOp32 5 true a (immI w) else none
  | 0x33 =>
    if f7 = 1 then some (mulOp f3 a b)
    else if f7 = 0 then some (aluOp f3 false a b)
    else if f7 = 32 ∧ (f3 = 0 ∨ f3 = 5) then some (aluOp f3 true a b) else none
  | 0x3B =>
    if f7 = 1 then mulOp32 f3 a b
    else if f7 = 0 then aluOp32 f3 false a b
    else if f7 = 32 ∧ (f3 = 0 ∨ f3 = 5) then aluOp32 f3 true a b else none
  | 0x37 => some (immU w)
  | 0x17 => some (k.pc + immU w)
  | _ => none

/-- The instruction has written rd and goes on at a pc. -/
def Hart.goTo (k : Hart) (rd : Reg5) (v pc : Word64) : Hart := ({ (k.setR rd v) with pc := pc }).retire

/-- A jump or a branch, by the length of its instruction. -/
def jumpHart (k : Hart) (w : BitVec 32) (len : Word64) : Option Hart :=
  match (field w 0 7).toNat with
  | 0x6F => some (k.goTo (rdOf w) (k.pc + len) (k.pc + immJ w))
  | 0x67 => if f3Of w = 0 then some (k.goTo (rdOf w) (k.pc + len) ((k.r (rs1Of w) + immI w) &&& ~~~1#64)) else none
  | 0x63 =>
    (branchTaken (f3Of w) (k.r (rs1Of w)) (k.r (rs2Of w))).map (fun c => k.goTo 0 0 (k.pc + (if c then immB w else len)))
  | _ => none

/-! ## Control and status registers -/

/-- Bits of mstatus that software writes. -/
def mstatusMask : Word64 := 0x7E79AA#64

/-- mstatus and sstatus as they are read: SD sums up FS, and the register widths are 64 bits. -/
def Hart.readMstatus (k : Hart) : Word64 :=
  k.mstatus ||| 0xA00000000#64 ||| (if bits 14 13 k.mstatus.toNat = 3 then 0x8000000000000000#64 else 0)
def sstatusMask : Word64 := 0x80000003000DE762#64

/-- mstatus written through a mask: MPP keeps its value where the new one names no mode. -/
def Hart.putMstatus (k : Hart) (mask v : Word64) : Hart :=
  let m := mask &&& mstatusMask
  let x := (k.mstatus &&& ~~~m) ||| (v &&& m)
  { k with mstatus := if bits 12 11 x.toNat = 2 then putBits x 11 2 (bits 12 11 k.mstatus.toNat) else x }

/-- Bits of each register, by number, that hold what software writes; none for a register that is not of this kind. -/
def csrMask (n : Nat) : Option Word64 :=
  match n with
  | 0x105 | 0x140 | 0x142 | 0x143 | 0x340 | 0xB00 | 0xB02 => some (BitVec.allOnes 64)
  | 0x141 => some (~~~1#64)
  | 0x106 | 0x306 => some 0xFFFFFFFF#64
  | 0x10A | 0x30A => some 1#64
  | 0x302 => some 0x1F00B3FF#64
  | 0x303 => some 0x222#64
  | 0x304 => some 0xAAA#64
  | 0x320 => some 0xFFFFFFFD#64
  | _ => none

/-- Registers that read zero and hold nothing: identification without a value, events and counters that count nothing, and the
protection entries that do not exist. -/
def csrZero (n : Nat) : Bool :=
  (decide (0xF11 ≤ n) && decide (n ≤ 0xF13)) || n == 0xF15 || (decide (0x323 ≤ n) && decide (n ≤ 0x33F))
    || (decide (0x3A0 ≤ n) && decide (n ≤ 0x3EF)) || (decide (0xB03 ≤ n) && decide (n ≤ 0xB1F))
    || (decide (0xC03 ≤ n) && decide (n ≤ 0xC1F)) || n == 0x180

/-- The floating-point unit is off. -/
def Hart.floatOff (k : Hart) : Bool := bits 14 13 k.mstatus.toNat == 0

/-- A counter is read below machine mode where mcounteren or scounteren does not let it be. -/
def Hart.counterBarred (k : Hart) (n : Nat) : Bool :=
  decide (0xC00 ≤ n) && decide (n ≤ 0xC1F)
    && ((k.mode != .machine && !(Tab.get 0 k.csr 0x306).toNat.testBit (n - 0xC00))
      || (k.mode == .user && !(Tab.get 0 k.csr 0x106).toNat.testBit (n - 0xC00)))

/-- An access to a control and status register is illegal: its mode, a write of a read-only one, the floating-point registers while
the unit is off, and satp in supervisor mode under TVM. -/
def Hart.csrBarred (k : Hart) (n : Nat) (writes : Bool) : Bool :=
  decide (k.mode.code < bits 9 8 n) || (writes && bits 11 10 n == 3) || (decide (1 ≤ n) && decide (n ≤ 3) && k.floatOff)
    || (n == 0x180 && k.mode == .supervisor && k.mstatus.getLsbD 20) || k.counterBarred n

/-- The value of a control and status register, or none for a number that names none. -/
def State.csrRead (s : State) (h : Nat) (n : Nat) : Option Word64 :=
  let k := s.hart h
  let c := fun (n : Nat) => Tab.get 0 k.csr n
  match n with
  | 0x001 => some (c 3 &&& 0x1F#64)
  | 0x002 => some (c 3 >>> 5)
  | 0x003 => some (c 3)
  | 0x100 => some (k.readMstatus &&& sstatusMask)
  | 0x104 => some (c 0x304 &&& c 0x303)
  | 0x144 => some (BitVec.ofNat 64 k.mip &&& c 0x303)
  | 0x300 => some k.readMstatus
  | 0x301 => some 0x800000000014112D#64
  | 0x305 => some k.mtvec
  | 0x341 => some k.mepc
  | 0x342 => some k.mcause
  | 0x343 => some k.mtval
  | 0x344 => some (BitVec.ofNat 64 k.mip)
  | 0x7C0 => some k.qpwto
  | 0xC00 => some (c 0xB00)
  | 0xC01 => some s.dev.wall
  | 0xC02 => some (c 0xB02)
  | 0xF14 => some (BitVec.ofNat 64 h)
  | n => if csrZero n then some 0 else (csrMask n).map (fun _ => c n)

/-- A control and status register written. -/
def Hart.csrWrite (k : Hart) (n : Nat) (v : Word64) : Hart :=
  let c := fun (n : Nat) => Tab.get 0 k.csr n
  let put := fun (n : Nat) (v : Word64) => { k with csr := Tab.set 0 n v k.csr }
  let dirty := fun (k : Hart) => { k with mstatus := k.mstatus ||| 0x6000#64 }
  let merge := fun (n : Nat) (m : Word64) => put n ((c n &&& ~~~m) ||| (v &&& m))
  match n with
  | 0x001 => dirty (put 3 ((c 3 &&& 0xE0#64) ||| (v &&& 0x1F#64)))
  | 0x002 => dirty (put 3 ((c 3 &&& 0x1F#64) ||| ((v &&& 7#64) <<< 5)))
  | 0x003 => dirty (put 3 (v &&& 0xFF#64))
  | 0x100 => k.putMstatus sstatusMask v
  | 0x104 => merge 0x304 (c 0x303)
  | 0x144 => merge 0x344 (c 0x303 &&& 2#64)
  | 0x300 => k.putMstatus mstatusMask v
  | 0x305 => { k with mtvec := if v.getLsbD 1 then k.mtvec else v }
  | 0x341 => { k with mepc := v &&& ~~~1#64 }
  | 0x342 => { k with mcause := v }
  | 0x343 => { k with mtval := v }
  | 0x344 => merge 0x344 0x222#64
  | 0x7C0 => { k with qpwto := v }
  | n =>
    match csrMask n with
    | some m => put n (v &&& m)
    | none => k

/-- Cycles pass, which mcycle counts unless mcountinhibit stops it. -/
def Hart.passCycles (k : Hart) (n : Word64) : Hart :=
  if (Tab.get 0 k.csr 0x320).getLsbD 0 then k else { k with csr := Tab.set 0 0xB00 (Tab.get 0 k.csr 0xB00 + n) k.csr }

/-- CSRRW, CSRRS, CSRRC and their immediate forms; `x` is the register's value or the immediate, and `src` its field. A set or a clear of the pending
interrupts acts on the bits that software owns. -/
def csrOp (s : State) (h : Nat) (w : BitVec 32) (pc : Word64) : Option State :=
  let f3 := f3Of w
  let n := bits 31 20 w.toNat
  let src := (rs1Of w).toNat
  let writes := f3 % 4 == 1 || src != 0
  let s := if n = 0xB00 ∨ n = 0xC00 ∨ n = 0xC01 then
      s.passTime.modHart h (fun k => k.passCycles (1 + Config.cycleAdvance s.fresh))
    else s
  let k := s.hart h
  if f3 % 4 = 0 ∨ k.csrBarred n writes then none
  else
    (s.csrRead h n).map (fun old =>
      let x := if 4 ≤ f3 then BitVec.ofNat 64 src else k.r (rs1Of w)
      let own := if n = 0x344 ∨ n = 0x144 then Tab.get 0 k.csr 0x344 else old
      let v := if f3 % 4 = 1 then x else if f3 % 4 = 2 then own ||| x else own &&& ~~~x
      s.modHart h (fun k =>
        let k1 := (if writes then k.csrWrite n v else k).goTo (rdOf w) old pc
        if writes && n == 0xB02 then { k1 with csr := Tab.set 0 0xB02 v k1.csr } else k1))

/-! ## Accesses -/

/-- What an access comes to: its instruction completes with the hart that `put` makes, takes its exception, or stays. -/
def afterAccess (s : State) (h : Nat) (addr : Word64) (r : QpRes) (put : List Byte → Hart → Hart) : State :=
  match r with
  | .done s b => s.modHart h (put b)
  | .fault c => hartRaise s h c addr
  | .wait => s

/-- A floating-point register written; FS is dirty. -/
def Hart.setF (k : Hart) (n : Reg5) (v : Word64) : Hart :=
  { k with f := Tab.set 0 n.toNat v k.f, mstatus := k.mstatus ||| 0x6000#64 }

/-- A floating-point register. -/
def Hart.fr (k : Hart) (n : Reg5) : Word64 := Tab.get 0 k.f n.toNat

/-- A load or a store of the integer or of the floating-point registers. -/
def accessOp (s : State) (h : Nat) (w : BitVec 32) (pc : Word64) : Option State :=
  let k := s.hart h
  let f3 := f3Of w
  let n := 2 ^ (f3 % 4)
  let load := k.r (rs1Of w) + immI w
  let store := k.r (rs1Of w) + immS w
  match (field w 0 7).toNat with
  | 0x03 =>
    if f3 = 7 then none
    else some (afterAccess s h load (s.qpLoad h load n) (fun b k => k.goTo (rdOf w) (qpValue n (decide (f3 < 4)) b) pc))
  | 0x23 => if 4 ≤ f3 then none else some (afterAccess s h store (s.qpStore h store (toBytes n (k.r (rs2Of w)).toNat)) (fun _ k => k.goTo 0 0 pc))
  | 0x07 =>
    if k.floatOff || (f3 != 2 && f3 != 3) then none
    else some (afterAccess s h load (s.qpLoad h load n) (fun b k => (k.setF (rdOf w) (rvBox (f3 == 3) (ofBytes b))).goTo 0 0 pc))
  | 0x27 =>
    if k.floatOff || (f3 != 2 && f3 != 3) then none
    else some (afterAccess s h store (s.qpStore h store (toBytes n (k.fr (rs2Of w)).toNat)) (fun _ k => k.goTo 0 0 pc))
  | _ => none

/-- The operation of an AMO. -/
def amoOp (f5 : Nat) : Option AtomicOp :=
  match f5 with
  | 0x00 => some .add | 0x01 => some .swap | 0x04 => some .xor | 0x08 => some .or | 0x0C => some .and
  | 0x10 => some .min | 0x14 => some .max | 0x18 => some .minu | 0x1C => some .maxu
  | _ => none

/-- A store-conditional finds its reservation as the load-reserve left it: nothing has written its line since. -/
def State.reserved (s : State) (h : Nat) (addr : Word64) (n : Nat) : Bool :=
  match (s.hart h).resv with
  | none => false
  | some r =>
    let t := viewOf s.dev addr.toNat
    r.addr == addr.toNat && r.data.length == n && s.viewRead h t n == r.data && s.viewStamp t == r.wts

/-- A: the atomics, LR and SC. A misaligned address is an exception. -/
def atomicOp (s : State) (h : Nat) (w : BitVec 32) (pc : Word64) : Option State :=
  let k := s.hart h
  let f5 := bits 31 27 w.toNat
  let n := 2 ^ (f3Of w)
  let a := k.r (rs1Of w)
  let x := k.r (rs2Of w)
  let rd := rdOf w
  if f3Of w ≠ 2 ∧ f3Of w ≠ 3 then none
  else if f5 = 0x02 then
    (if rs2Of w ≠ 0 then none
     else if a.toNat % n ≠ 0 then some (hartRaise s h 4 a)
     else some (afterAccess s h a (s.qpLoad h a n) (fun b k =>
       ({ k with resv := some { addr := a.toNat, data := b, wts := s.viewStamp (viewOf s.dev a.toNat) } }).goTo rd (qpValue n true b) pc)))
  else if f5 = 0x03 then
    (if a.toNat % n ≠ 0 then some (hartRaise s h 6 a)
     else if s.reserved h a n then
       some (afterAccess s h a (s.qpStore h a (toBytes n x.toNat)) (fun _ k => { k with resv := none }.goTo rd 0 pc))
     else if viewOf s.dev a.toNat = .bad then some (hartRaise s h 7 a)
     else some (s.modHart h (fun k => { k with resv := none }.goTo rd 1 pc)))
  else
    (amoOp f5).map (fun op =>
      if a.toNat % n ≠ 0 then hartRaise s h 6 a
      else afterAccess s h a (s.qpAmo h a n op x 0) (fun b k => k.goTo rd (qpValue n true b) pc))

/-! ## Floating point -/

/-- The rounding mode of an instruction: its own, or that of frm; none where it names no mode. -/
def rvMode (k : Hart) (f3 : Nat) : Option Nat :=
  let m := if f3 = 7 then bits 7 5 (Tab.get 0 k.csr 3).toNat else f3
  if m ≤ 4 then some m else none

/-- Flags of an operation gather in fflags, and FS is dirty. -/
def Hart.raiseFlags (k : Hart) (flags : Nat) : Hart :=
  if flags = 0 then k
  else { k with csr := Tab.set 0 3 (Tab.get 0 k.csr 3 ||| BitVec.ofNat 64 flags) k.csr, mstatus := k.mstatus ||| 0x6000#64 }

/-- A floating-point result, and an integer one, with their flags. -/
def Hart.putFloat (k : Hart) (w : BitVec 32) (double : Bool) (r : Nat × Nat) (pc : Word64) : Hart :=
  ((k.setF (rdOf w) (rvBox double r.1)).raiseFlags r.2).goTo 0 0 pc
def Hart.putInt (k : Hart) (w : BitVec 32) (v : Word64) (flags : Nat) (pc : Word64) : Hart :=
  (k.raiseFlags flags).goTo (rdOf w) v pc

/-- Sign injection. -/
def signInject (double : Bool) (f3 a b : Nat) : Option Nat :=
  let sb := if double then 63 else 31
  let mag := a % 2 ^ sb
  let sign := fun (c : Bool) => mag + (if c then 2 ^ sb else 0)
  match f3 with
  | 0 => some (sign (b.testBit sb))
  | 1 => some (sign (!b.testBit sb))
  | 2 => some (sign (a.testBit sb != b.testBit sb))
  | _ => none

/-- An integer register as the source of a conversion: W, WU, L or LU. -/
def intSource (code : Nat) (v : Word64) : Int :=
  match code with
  | 0 => toSigned 32 (v.toNat % 2 ^ 32)
  | 1 => ((v.toNat % 2 ^ 32 : Nat) : Int)
  | 2 => v.toInt
  | _ => (v.toNat : Int)

/-- A converted integer as its register holds it: 32-bit ones are sign-extended. -/
def intResult (code : Nat) (i : Int) : Word64 := if code ≤ 1 then sext 32 (ofSigned 32 i) else BitVec.ofInt 64 i

/-- The operations of OP-FP. -/
def floatOp (k : Hart) (w : BitVec 32) (pc : Word64) : Option Hart :=
  let fmt := bits 26 25 w.toNat
  let f5 := bits 31 27 w.toNat
  let d := fmt == 1
  let F := rvFmt d
  let f3 := f3Of w
  let code := (rs2Of w).toNat
  let a := rvUnbox d (k.fr (rs1Of w))
  let b := rvUnbox d (k.fr (rs2Of w))
  let rounded := fun (g : Nat → Nat × Nat) => (rvMode k f3).map (fun m => k.putFloat w d (g m) pc)
  if 1 < fmt then none
  else
    match f5 with
    | 0x00 => rounded (fun m => F.rvAdd m a b)
    | 0x01 => rounded (fun m => F.rvAdd m a (if F.isNan b then b else F.flip b))
    | 0x02 => rounded (fun m => F.rvMul m a b)
    | 0x03 => rounded (fun m => F.rvDiv m a b)
    | 0x0B => if code ≠ 0 then none else rounded (fun m => F.rvSqrt m a)
    | 0x04 => (signInject d f3 a b).map (fun r => k.putFloat w d (r, 0) pc)
    | 0x05 => if 1 < f3 then none else some (k.putFloat w d (F.rvMin (f3 == 1) a b) pc)
    | 0x08 =>
      if code = fmt ∨ 1 < code then none
      else
        let S := rvFmt (!d)
        let x := rvUnbox (!d) (k.fr (rs1Of w))
        (rvMode k f3).map (fun m =>
          let r := F.rvRound m (S.decode x)
          k.putFloat w d (r.1, r.2 + (if S.isSnan x then flagNV else 0)) pc)
    | 0x14 =>
      if 2 < f3 then none
      else
        let r := F.rvCmp f3 a b
        some (k.putInt w (BitVec.ofNat 64 r.1) r.2 pc)
    | 0x18 =>
      if 3 < code then none
      else (rvMode k f3).map (fun m =>
        let r := rvToInt m (if code ≤ 1 then 32 else 64) (code % 2 == 0) (F.decode a)
        k.putInt w (intResult code r.1) r.2 pc)
    | 0x1A => if 3 < code then none else rounded (fun m => F.rvRound m (FNum.ofInt (intSource code (k.r (rs1Of w)))))
    | 0x1C =>
      if code ≠ 0 then none
      else if f3 = 0 then some (k.putInt w (if d then k.fr (rs1Of w) else word32 (k.fr (rs1Of w))) 0 pc)
      else if f3 = 1 then some (k.putInt w (BitVec.ofNat 64 (F.rvClass a)) 0 pc)
      else none
    | 0x1E => if code ≠ 0 ∨ f3 ≠ 0 then none else some (k.putFloat w d ((k.r (rs1Of w)).toNat, 0) pc)
    | _ => none

/-- FMADD, FMSUB, FNMSUB and FNMADD. -/
def fusedOp (k : Hart) (w : BitVec 32) (pc : Word64) : Option Hart :=
  let d := bits 26 25 w.toNat == 1
  let F := rvFmt d
  let g := fun (n : Reg5) => rvUnbox d (k.fr n)
  let op := (field w 0 7).toNat
  let turn := fun (c : Bool) (x : Nat) => if c && !F.isNan x then F.flip x else x
  if 1 < bits 26 25 w.toNat then none
  else
    (rvMode k (f3Of w)).map (fun m =>
      k.putFloat w d (F.rvFma m (turn (op == 0x4B || op == 0x4F) (g (rs1Of w))) (g (rs2Of w))
        (turn (op == 0x47 || op == 0x4F) (g (rs3Of w)))) pc)

/-! ## System instructions -/

/-- The mode that a code of MPP or SPP names. -/
def modeOf (c : Nat) : HartMode := if c = 0 then .user else if c = 1 then .supervisor else .machine

/-- MRET: MIE := MPIE, MPIE := 1, the mode of MPP, MPP := user, and MPRV cleared where that is not machine mode. -/
def Hart.mret (k : Hart) : Hart :=
  let st := k.mstatus
  let m : HartMode := modeOf (bits 12 11 st.toNat)
  let st1 := putBits (putBits (putBits st 3 1 (bits 7 7 st.toNat)) 7 1 1) 11 2 0
  ({ k with mstatus := if m = HartMode.machine then st1 else putBits st1 17 1 0, mode := m, pc := k.mepc }).retire

/-- SRET: SIE := SPIE, SPIE := 1, the mode of SPP, SPP := user, and MPRV cleared. -/
def Hart.sret (k : Hart) : Hart :=
  let st := k.mstatus
  let st1 := putBits (putBits (putBits (putBits st 1 1 (bits 5 5 st.toNat)) 5 1 1) 8 1 0) 17 1 0
  ({ k with mstatus := st1, mode := modeOf (bits 8 8 st.toNat), pc := Tab.get 0 k.csr 0x141 }).retire

/-- ECALL, EBREAK, the returns, WFI, which may end at once, and SFENCE.VMA, which has nothing to fence. -/
def systemOp (s : State) (h : Nat) (w : BitVec 32) (pc : Word64) : Option State :=
  let k := s.hart h
  let set := fun (f : Hart → Hart) => some (s.modHart h f)
  if f3Of w ≠ 0 then csrOp s h w pc
  else if w = 0x00000073#32 then set (fun k => k.exception (8 + k.mode.code) 0)
  else if w = 0x00100073#32 then set (fun k => k.exception 3 k.pc)
  else if w = 0x30200073#32 ∧ k.mode = .machine then set Hart.mret
  else if w = 0x10200073#32 ∧ k.mode ≠ .user ∧ !(k.mode == .supervisor && k.mstatus.getLsbD 22) then set Hart.sret
  else if w = 0x10500073#32 ∧ !(k.mode != .machine && k.mstatus.getLsbD 21) then set (fun k => k.goTo 0 0 pc)
  else if f7Of w = 9 ∧ rdOf w = 0 ∧ k.mode ≠ .user ∧ !(k.mode == .supervisor && k.mstatus.getLsbD 20) then
    set (fun k => k.goTo 0 0 pc)
  else none

/-- The state after a base instruction of 32 bits, or none for an illegal one. -/
def baseOp (s : State) (h : Nat) (w : BitVec 32) (len : Nat) : Option State :=
  let k := s.hart h
  let pc := k.pc + BitVec.ofNat 64 len
  let put := fun (o : Option Hart) => o.map (fun k => s.modHart h (fun _ => k))
  match (field w 0 7).toNat with
  | 0x6F | 0x67 | 0x63 => put (jumpHart k w (BitVec.ofNat 64 len))
  | 0x03 | 0x23 | 0x07 | 0x27 => accessOp s h w pc
  | 0x2F => atomicOp s h w pc
  | 0x0F => if 1 < f3Of w then none else put (some (k.goTo 0 0 pc))
  | 0x43 | 0x47 | 0x4B | 0x4F => if k.floatOff then none else put (fusedOp k w pc)
  | 0x53 => if k.floatOff then none else put (floatOp k w pc)
  | 0x73 => systemOp s h w pc
  | _ => put ((integerValue k w).map (fun v => k.goTo (rdOf w) v pc))

/-- A queue processor executes a word of the base set, as it was fetched (R54): an illegal one takes the exception of R55. -/
def State.runBase (s : State) (h : Nat) (w : BitVec 32) : State :=
  match (expandWord w).bind (fun x => baseOp s h x (parcelBytes w.toNat)) with
  | some t => t
  | none => hartRaise s h 2 (BitVec.setWidth 64 w)

end Sys2Proof.Machine
end

