-- ==== Sys2Proof/Machine/Step.lean ====
section
/-!
DEFINITION. One step of the machine: the agent whose turn it is issues one instruction or event, and `exec` gives its
effect. `withFetchWord` places one instruction where the next step takes it.
-/

namespace Sys2Proof.Machine

/-- An outcome with its next state changed. -/
def afterNext (f : State → State) : Outcome → Outcome
  | .next s => .next (f s)
  | .fault r => .fault r
  | .refused r => .refused r

/-- What an issue gives: the effect of its instruction or input, and then what every step ends with. -/
def runIssue : Issue → Outcome
  | .scalar i s => afterNext (fun t => (s.noteStep t).afterStep) (exec i s)
  | .run i s => afterNext State.afterStep (exec i s)
  | .other s => .next s.afterStep
  | .base h w s => .next (s.runBase h w).afterStep
  | .input i s => .next (s.takeInput i).afterStep

/-- One step. -/
def step (s : State) : Outcome := runIssue s.nextIssue

/-- The state with one instruction placed where the next step takes it: a lane word as the rest of a running clause, a
command word at the pc of queue processor 0, a scalar word at the SPC of a team's path. -/
def State.withFetchWord (s : State) (nbits w : Nat) : State :=
  let b := wordBytes nbits w
  if 32 < nbits then
    let s := (s.withTeam (Team.plain.withClause (BitVec.ofNat 96 w))).modCore 0 (fun c => { c with running := some (0, 0) })
    { s with agenda := [.lane 0] }
  else
    match decodeTableWord nbits w with
    | some (.rfetch _ _ _) | some (.bfxu _ _ _) | some (.bfxs _ _ _) | some (.swait _ _ _ _) | some (.disp _ _ _) =>
      { (s.putHartWord 0 b).modHart 0 (fun h => { h with swait := none, csr := Tab.set 0 0x304 0 h.csr }) with agenda := [.hart 0] }
    | _ =>
      let s := s.withTeam Team.plain
      { s with mem := s.mem.put 0 b, agenda := [.pathStep 0 0 0] }

end Sys2Proof.Machine
end

