-- ==== Sys2Proof/Safety.lean ====
section
/-!
DEFINITION. What a safe state and a safe run are, in the terms that statements use: the canonical form of the tables that
hold memory and the register files, what differs between two states, and the conditions under which instructions issue.
-/

namespace Sys2Proof.Machine

/-- Memory is in its canonical form: device bytes, host bytes, timestamps and frame table bytes. -/
def Memory.wf (m : Memory) : Bool :=
  Tab.wf 0 m.bytes && Tab.wf 0 m.host && Tab.wf (0, 0) m.ts && Tab.wf 0 m.frames

/-- A run of `n` steps from a state meets no fault and no refusal. -/
def safeFor : Nat → State → Prop
  | 0, _ => True
  | n + 1, s => ∃ t, step s = .next t ∧ safeFor n t

/-! ## What differs between two states -/

/-- Nothing differs but the team at a key. -/
def onlyTeam (s t : State) (key : Nat) : Prop :=
  { t with teams := s.teams } = s ∧ ∀ k, k ≠ key → t.team k = s.team k

/-- Nothing differs but the issuing path. -/
def onlyPath (s t : State) (w : Who) : Prop :=
  onlyTeam s t w.key ∧ ∃ b, t.team w.key = some b ∧ { b with paths := w.team.paths } = w.team ∧
    ∀ j, j ≠ w.pi → AMap.find b.paths j = AMap.find w.team.paths j

/-- The issuing path becomes `q`, and nothing else differs. -/
def pathBecomes (s t : State) (w : Who) (q : Path) : Prop := onlyPath s t w ∧ t.path w.key w.pi = some q

/-- The issuing path goes on at `pc` with `sd` holding `v`, where s0 takes no value, and nothing else differs. -/
def regWritten (s t : State) (w : Who) (sd : Reg6) (v pc : Word64) : Prop :=
  ∃ q, pathBecomes s t w q ∧ { q with sregs := w.path.sregs } = { w.path with spc := pc, wait := none } ∧
    ∀ r, q.s r = if r = sd ∧ r ≠ 0 then v else w.path.s r

/-! ## When an instruction issues -/

/-- The path that issues, none of whose registers `rs` an access or a clause has yet to write. -/
def scalarReady (s : State) (w : Who) (rs : List Reg6) : Prop :=
  issuer s = some w ∧ (∀ r ∈ rs, w.path.marked r.toNat = false) ∧ Tab.wf 0 w.path.sregs = true

/-! ## Memory before and after -/

/-- A byte of committed device memory. -/
def byteAt (s : State) (x : Nat) : Byte := Tab.get 0 s.mem.bytes x

/-- Committed memory holds `bs` from `pa` on, and every other byte is as before. -/
def bytesStored (s t : State) (pa : Nat) (bs : List Byte) : Prop :=
  ∀ x, byteAt t x = if pa ≤ x ∧ x < pa + bs.length then bs.getD (x - pa) 0 else byteAt s x

/-- Every byte of a version has entered committed memory, and every other byte is as before (R176). -/
def versionPerformed (s t : State) (v : AMap Byte) : Prop :=
  ∀ x, byteAt t x = (AMap.find v x).getD (byteAt s x)

/-- A version no longer holds the `n` bytes from `pa` on, and holds the others as before (R170). -/
def versionLess (v v' : AMap Byte) (pa n : Nat) : Prop :=
  ∀ x, AMap.find v' x = if pa ≤ x ∧ x < pa + n then none else AMap.find v x

/-- Memory, as loads and stores see it, is as before: device memory and host memory. -/
def memoryKept (s t : State) : Prop := t.mem.bytes = s.mem.bytes ∧ t.mem.host = s.mem.host

/-! ## One access -/

/-- An access passes the checks of R246 and leads to `tg`, with nothing to wait for and no watchpoint that could match: `s1` is
the state after its translation. -/
def reaches (s : State) (w : Who) (a : Acc) (tg : Target) (s1 : State) : Prop :=
  firstChecks s w a = none ∧ s.follow w a = (s1, .at_ tg) ∧ s1.mustWait w a tg = none ∧
    s.dbg.attached ≠ some (BitVec.ofNat 12 w.team.asid)

/-- The bytes that a load of the path finds: its version over the committed bytes of one line, when no L1 copy serves it; the
bytes of a scratchpad; zeros on a discarded page (R175, R100, R134). -/
def loadFinds (s : State) (w : Who) (a : Acc) : Target → Option (List Byte)
  | .dev pa space va _ =>
    if s.l1Serves w a space va pa (a.renew w) || decide (64 < pa % 64 + a.size) then none
    else some ((List.range a.size).map (fun i => (AMap.find w.team.version (pa + i)).getD (byteAt s (pa + i))))
  | .scratch k off => (s.team k).map (fun t => (List.range a.size).map (fun i => Tab.get 0 t.scratch (off + i)))
  | .zeros => some (List.replicate a.size 0)
  | _ => none

/-! ## Lane instructions -/

/-- A lane instruction that issues from the head of the issuing path's clause: `x` is its path, its clause, its fields and its
active lanes, no check of R292 fails, and no register it names is pending. -/
def laneReady (s : State) (f : LaneFields) (spec : LaneCtx → LaneSpec) (x : LaneCtx) : Prop :=
  issuer s = some x.w ∧ x.w.path.run = some x.c ∧ x.f = f ∧ x.lanes = activeLanes x.w.team x.c f ∧
    (spec x).trap x = none ∧ s.interlocked x.w.key ((spec x).groups ++ (spec x).viaIndex) = false

/-- The issuing team becomes `b` with its clause past the head instruction, a core whose clause ended picks another, and
nothing else differs. -/
def laneCompletes (s t : State) (x : LaneCtx) (b : Team) : Prop :=
  { t with teams := s.teams, cores := s.cores } = s ∧ (∀ k, k ≠ x.w.key → t.team k = s.team k) ∧
    t.team x.w.key = some (b.modPath x.w.pi Path.popLane) ∧
    ∀ c, { t.core c with running := (s.core c).running, lastClauseSlot := (s.core c).lastClauseSlot } = s.core c

/-- In some lanes the `cnt` registers from `vd` hold a value's 32-bit parts, the lowest first; every other vector register and
everything else of the team is as before. -/
def lanesHold (b tm : Team) (lanes : List Nat) (vd cnt : Nat) (val : Nat → Nat) : Prop :=
  { b with vregs := tm.vregs } = tm ∧ ∀ l n, n < 256 →
    b.v l n = if l ∈ lanes ∧ vd ≤ n ∧ n < vd + cnt then .ofNat 32 (val l / 2 ^ (32 * (n - vd))) else tm.v l n

/-- In some lanes a predicate holds a value, where p0 takes none; everything else of the team is as before. -/
def lanesPredicate (b tm : Team) (lanes : List Nat) (pd : Nat) (val : Nat → Bool) : Prop :=
  { b with pregs := tm.pregs } = tm ∧ ∀ l n, n < 8 →
    b.p l n = if l ∈ lanes ∧ n = pd ∧ n ≠ 0 then val l else tm.p l n

end Sys2Proof.Machine
end

