-- ==== Sys2Proof/Certificates/Slice0/Obligations.lean ====
section
/-!
DEFINITION. The statements for the provers. Each says what an instruction, an event or the machine does in the words of a
rule of the spec; the tables name the instructions that one statement covers.
-/

namespace Sys2Proof

open Sys2Proof.Machine

/-! ## The scalar stream -/

/-- The value of a condition. -/
def oneIf (b : Bool) : Word64 := if b then 1#64 else 0#64

/-- Sums, bit operations and shifts. -/
def scalarLogic : List ((Reg6 → Reg6 → Reg6 → Instr) × (Word64 → Word64 → Word64)) :=
  [(.add, fun a b => .ofNat 64 (a.toNat + b.toNat)),
   (.sub, fun a b => .ofInt 64 (a.toNat - b.toNat)),
   (.and, fun a b => .ofNat 64 (a.toNat &&& b.toNat)),
   (.or, fun a b => .ofNat 64 (a.toNat ||| b.toNat)),
   (.xor, fun a b => .ofNat 64 (a.toNat ^^^ b.toNat)),
   (.andn, fun a b => .ofNat 64 (a.toNat &&& (2 ^ 64 - 1 - b.toNat))),
   (.shl, fun a b => .ofNat 64 (a.toNat * 2 ^ (b.toNat % 64))),
   (.shr, fun a b => .ofNat 64 (a.toNat / 2 ^ (b.toNat % 64))),
   (.sar, fun a b => .ofInt 64 (a.toInt / ((2 ^ (b.toNat % 64) : Nat) : Int)))]

/-- Rotates, comparisons and extremes. -/
def scalarOrder : List ((Reg6 → Reg6 → Reg6 → Instr) × (Word64 → Word64 → Word64)) :=
  [(.rol, fun a b => .ofNat 64 (a.toNat * 2 ^ (b.toNat % 64) + a.toNat / 2 ^ (64 - b.toNat % 64))),
   (.ror, fun a b => .ofNat 64 (a.toNat / 2 ^ (b.toNat % 64) + a.toNat * 2 ^ (64 - b.toNat % 64))),
   (.slt, fun a b => oneIf (decide (a.toInt < b.toInt))),
   (.sltu, fun a b => oneIf (decide (a.toNat < b.toNat))),
   (.seq, fun a b => oneIf (decide (a.toNat = b.toNat))),
   (.min, fun a b => .ofInt 64 (min a.toInt b.toInt)),
   (.max, fun a b => .ofInt 64 (max a.toInt b.toInt)),
   (.minu, fun a b => .ofNat 64 (min a.toNat b.toNat)),
   (.maxu, fun a b => .ofNat 64 (max a.toNat b.toNat))]

/-- Products, quotients, remainders and the sign extension. -/
def scalarProducts : List ((Reg6 → Reg6 → Reg6 → Instr) × (Word64 → Word64 → Word64)) :=
  [(.mul, fun a b => .ofNat 64 (a.toNat * b.toNat)),
   (.mulh, fun a b => .ofInt 64 (a.toInt * b.toInt / ((2 ^ 64 : Nat) : Int))),
   (.mulhu, fun a b => .ofNat 64 (a.toNat * b.toNat / 2 ^ 64)),
   (.div, fun a b => if b = 0 then .ofInt 64 (-1) else .ofInt 64 (a.toInt.tdiv b.toInt)),
   (.divu, fun a b => if b = 0 then .ofInt 64 (-1) else .ofNat 64 (a.toNat / b.toNat)),
   (.rem, fun a b => if b = 0 then a else .ofInt 64 (a.toInt.tmod b.toInt)),
   (.remu, fun a b => if b = 0 then a else .ofNat 64 (a.toNat % b.toNat)),
   (.sext, fun a b => .ofInt 64 (Int.bmod (a.toNat : Int) (2 ^ (b.toNat % 64 + 1))))]

/-- The two-operand integer instructions (R295) with their results, over the integers. -/
def scalarTwo : List ((Reg6 → Reg6 → Reg6 → Instr) × (Word64 → Word64 → Word64)) := scalarLogic ++ scalarOrder ++ scalarProducts

/-- R295: a two-operand integer instruction writes its result to sd and goes on at next; nothing else changes. A write to s0
is discarded. -/
def Says.ScalarTwoOperand : Prop :=
  ∀ e ∈ scalarTwo, ∀ (s : State) (w : Who) (sd sa sb : Reg6), scalarReady s w [sd, sa, sb] →
    ∃ t, exec (e.1 sd sa sb) s = .next t ∧
      regWritten s t w sd (e.2 (w.path.s sa) (w.path.s sb)) (w.path.spc + 4)

/-- R295: CLZ, CTZ and POPC count the leading zero, trailing zero and set bits of sa; a nonzero sb field traps
RESERVED_FIELD. -/
def Says.ScalarBitCounts : Prop :=
  (∀ (s : State) (w : Who) (sd sa : Reg6), scalarReady s w [sd, sa] →
    let a := (w.path.s sa).toNat
    (∃ t n, exec (.clz sd sa 0) s = .next t ∧ regWritten s t w sd (.ofNat 64 n) (w.path.spc + 4) ∧
      n ≤ 64 ∧ a < 2 ^ (64 - n) ∧ (n < 64 → 2 ^ (63 - n) ≤ a)) ∧
    (∃ t n, exec (.ctz sd sa 0) s = .next t ∧ regWritten s t w sd (.ofNat 64 n) (w.path.spc + 4) ∧
      n ≤ 64 ∧ a % 2 ^ n = 0 ∧ (n < 64 → a / 2 ^ n % 2 = 1)) ∧
    (∃ t, exec (.popc sd sa 0) s = .next t ∧
      regWritten s t w sd (.ofNat 64 ((List.range 64).map (fun i => a / 2 ^ i % 2)).sum) (w.path.spc + 4))) ∧
  ∀ (s : State) (w : Who) (sd sa sb : Reg6), issuer s = some w → sb ≠ 0 →
    ∀ i ∈ [Instr.clz sd sa sb, Instr.ctz sd sa sb, Instr.popc sd sa sb],
      exec i s = .next (trapScalar s w .reservedField)

/-- The instructions with a 13-bit immediate (R296) and their results. -/
def scalarImm : List ((Reg6 → Reg6 → BitVec 13 → Instr) × (Word64 → BitVec 13 → Word64)) :=
  [(.addi, fun a i => .ofInt 64 (a.toInt + i.toInt)),
   (.andi, fun a i => a &&& .ofInt 64 i.toInt),
   (.ori, fun a i => a ||| .ofInt 64 i.toInt),
   (.xori, fun a i => a ^^^ .ofInt 64 i.toInt),
   (.slti, fun a i => oneIf (decide (a.toInt < i.toInt))),
   (.sltiu, fun a i => oneIf (decide (a.toNat < (BitVec.ofInt 64 i.toInt).toNat)))]

/-- The shifts by an immediate (R296) and their results. -/
def scalarShiftImm : List ((Reg6 → Reg6 → BitVec 13 → Instr) × (Word64 → Nat → Word64)) :=
  [(.shli, fun a n => .ofNat 64 (a.toNat * 2 ^ n)),
   (.shri, fun a n => .ofNat 64 (a.toNat / 2 ^ n)),
   (.sari, fun a n => .ofInt 64 (a.toInt / ((2 ^ n : Nat) : Int)))]

/-- R296: an immediate instruction writes its result to sd and goes on at next; a shift amount above 63 traps
RESERVED_FIELD. -/
def Says.ScalarImmediate : Prop :=
  (∀ e ∈ scalarImm, ∀ (s : State) (w : Who) (sd sa : Reg6) (imm : BitVec 13), scalarReady s w [sd, sa] →
    ∃ t, exec (e.1 sd sa imm) s = .next t ∧ regWritten s t w sd (e.2 (w.path.s sa) imm) (w.path.spc + 4)) ∧
  (∀ e ∈ scalarShiftImm, ∀ (s : State) (w : Who) (sd sa : Reg6) (imm : BitVec 13), scalarReady s w [sd, sa] →
    imm.toNat ≤ 63 →
    ∃ t, exec (e.1 sd sa imm) s = .next t ∧ regWritten s t w sd (e.2 (w.path.s sa) imm.toNat) (w.path.spc + 4)) ∧
  ∀ e ∈ scalarShiftImm, ∀ (s : State) (w : Who) (sd sa : Reg6) (imm : BitVec 13), issuer s = some w → 63 < imm.toNat →
    exec (e.1 sd sa imm) s = .next (trapScalar s w .reservedField)

/-- R297: LUI writes imm19 × 2^13, sign-extended from bit 31, and ADDPC adds that to the address of the instruction. -/
def Says.ScalarUpperImmediate : Prop :=
  ∀ (s : State) (w : Who) (sd : Reg6) (imm : BitVec 19), scalarReady s w [sd] →
    (∃ t, exec (.lui sd imm) s = .next t ∧
      regWritten s t w sd (.ofInt 64 (imm.toInt * 2 ^ 13)) (w.path.spc + 4)) ∧
    (∃ t, exec (.addpc sd imm) s = .next t ∧
      regWritten s t w sd (w.path.spc + .ofInt 64 (imm.toInt * 2 ^ 13)) (w.path.spc + 4))

/-- The conditional branches (R298) with their conditions. -/
def branches : List ((Reg6 → Reg6 → BitVec 13 → Instr) × (Word64 → Word64 → Bool)) :=
  [(.beq, fun a b => decide (a.toNat = b.toNat)), (.bne, fun a b => decide (a.toNat ≠ b.toNat)),
   (.blt, fun a b => decide (a.toInt < b.toInt)), (.bge, fun a b => decide (b.toInt ≤ a.toInt)),
   (.bltu, fun a b => decide (a.toNat < b.toNat)), (.bgeu, fun a b => decide (b.toNat ≤ a.toNat))]

/-- A target that passes the tests of R299. -/
def goodTarget (t : Word64) : Bool := decide (t.toNat < 2 ^ 52) && decide (t.toNat % 4 = 0)

/-- R298, R299: a branch whose condition holds goes to PC + off × 4, and one whose condition fails goes to next; a taken
branch to an address with a bit of [63:52] set traps BAD_SPACE. Nothing but the path's program counter changes. -/
def Says.Branches : Prop :=
  ∀ e ∈ branches, ∀ (s : State) (w : Who) (sa sb : Reg6) (off : BitVec 13), scalarReady s w [sa, sb] →
    let target := w.path.spc + .ofInt 64 (off.toInt * 4)
    let taken := e.2 (w.path.s sa) (w.path.s sb)
    (taken = false → ∃ t, exec (e.1 sa sb off) s = .next t ∧
      pathBecomes s t w { w.path with spc := w.path.spc + 4, wait := none }) ∧
    (taken = true → goodTarget target = true → ∃ t, exec (e.1 sa sb off) s = .next t ∧
      pathBecomes s t w { w.path with spc := target, wait := none }) ∧
    (taken = true → 2 ^ 52 ≤ target.toNat → exec (e.1 sa sb off) s = .next (trapScalar s w .badSpace target))

/-- R299: J goes to PC + off × 4. CALL goes there with s63 := PC + 4. JR goes to sa + imm, read before it writes
sd := PC + 4. A target outside space 0x0 traps BAD_SPACE, and a misaligned one of JR traps MISALIGNED. -/
def Says.Jumps : Prop :=
  (∀ (s : State) (w : Who) (off : BitVec 25), scalarReady s w [63] →
    let target := w.path.spc + .ofInt 64 (off.toInt * 4)
    (goodTarget target = true →
      (∃ t, exec (.j off) s = .next t ∧ pathBecomes s t w { w.path with spc := target, wait := none }) ∧
      (∃ t, exec (.call off) s = .next t ∧ regWritten s t w 63 (w.path.spc + 4) target)) ∧
    (2 ^ 52 ≤ target.toNat → ∀ i ∈ [Instr.j off, Instr.call off],
      exec i s = .next (trapScalar s w .badSpace target))) ∧
  ∀ (s : State) (w : Who) (sd sa : Reg6) (imm : BitVec 13), scalarReady s w [sd, sa] →
    let target := w.path.s sa + .ofInt 64 imm.toInt
    (goodTarget target = true →
      ∃ t, exec (.jr sd sa imm) s = .next t ∧ regWritten s t w sd (w.path.spc + 4) target) ∧
    (2 ^ 52 ≤ target.toNat → exec (.jr sd sa imm) s = .next (trapScalar s w .badSpace target)) ∧
    (target.toNat < 2 ^ 52 → target.toNat % 4 ≠ 0 →
      exec (.jr sd sa imm) s = .next (trapScalar s w .misaligned target))

/-- R300, R191: LC appends the clause at LBASE + off × 4 to a queue of at most three others, with the path's mask and `fmt` and
the value of each scalar register that its instructions name. A full queue makes the path wait. Beyond the fetch of the clause,
nothing else changes. Where the rules leave room it follows log entries 45 and 55, the model's reading. -/
def Says.EnqueueClause : Prop :=
  ∀ (s : State) (w : Who) (off : BitVec 25), issuer s = some w →
    let addr := w.team.k.lbase + BitVec.ofNat 64 off.toNat * 4
    (4 ≤ w.path.queue.length → ∃ t, exec (.lc off) s = .next t ∧
      pathBecomes s t w { w.path with wait := some .clauseQueue }) ∧
    (∀ s1 s2 hb bb h, w.path.queue.length ≤ 3 →
      s.fetchWords w addr.toNat 3 = (s1, .bytes hb) →
      s1.fetchWords w (addr.toNat + 12) (3 * headerCount hb) = (s2, .bytes bb) →
      decodeHeader (BitVec.ofNat 96 (ofBytes hb)) = .ok h →
      (∀ x ∈ laneWords h.count bb, w.path.marked (laneFields x).ss.toNat = false) →
      ∃ t q c, exec (.lc off) s = .next t ∧ s2.teams = s.teams ∧ pathBecomes s2 t w q ∧
        q = { w.path with spc := w.path.spc + 4, wait := none, nextClause := w.path.nextClause + 1,
                          queue := w.path.queue ++ [c] } ∧
        c.id = w.path.nextClause ∧ c.addr = addr ∧ c.wait = h.wait ∧ c.setA = h.setA ∧ c.setB = h.setB ∧
        c.mask = w.path.mask ∧ c.fmt = w.path.fmt ∧ c.body = laneWords h.count bb ∧ c.pos = 0 ∧ c.pend = 0 ∧
        ∀ x ∈ c.body, c.scalar (laneFields x).ss = w.path.s (laneFields x).ss)

/-- R301: WAITF completes when every flag it names is clear and waits while one is not. A field that must be zero, or an empty
mask, traps RESERVED_FIELD. Where the rules leave room it follows log entry 45, the model's reading. -/
def Says.WaitFlags : Prop :=
  ∀ (s : State) (w : Who) (imm : BitVec 13), issuer s = some w →
    (imm.toNat < 2 ^ 12 → imm ≠ 0 →
      ((∀ n < 12, imm.getLsbD n = true → w.path.queued n = 0 ∧ w.path.outstanding n = 0) →
        ∃ t, exec (.waitf 0 0 imm) s = .next t ∧
          pathBecomes s t w { w.path with spc := w.path.spc + 4, wait := none }) ∧
      (∀ n < 12, imm.getLsbD n = true → (w.path.queued n ≠ 0 ∨ w.path.outstanding n ≠ 0) →
        ∃ t m, exec (.waitf 0 0 imm) s = .next t ∧ pathBecomes s t w { w.path with wait := some (.flags m) })) ∧
    ∀ sd sa, (sd ≠ 0 ∨ sa ≠ 0 ∨ 2 ^ 12 ≤ imm.toNat ∨ imm = 0) →
      exec (.waitf sd sa imm) s = .next (trapScalar s w .reservedField)

/-! ## Divergence and the end of a path -/

/-- A path whose clauses have completed, with no lane away and no access in flight. -/
def settled (p : Path) : Prop := p.idle = true ∧ p.jcnt = 0 ∧ p.pendScalar = []

/-- R197, R198, R199, R302: SPLIT with the active lanes T, where the predicate is true, and F. Without T the path goes to next,
and without F to the target. Otherwise, while the path table has a free entry and T is not below EJT, the lowest free entry
becomes a path of T at the target, and the path keeps F, its join counter one higher. A full table without spawn slots traps
RESERVED_FIELD. With spawn slots, a full table or a T below EJT ejects T: the descriptor before the target is checked, the
version commits, each lane takes a slot and enters the target's bin, and the path keeps F, its join counter |T| higher; while no
slot is free it waits. Where the rules leave room it follows log entries 42, 48 and 49, the model's reading. -/
def Says.Split : Prop :=
  ∀ (s : State) (w : Who) (pn : BitVec 3) (toff joff : BitVec 11), issuer s = some w → w.team.handler = none →
    w.path.idle = true → w.path.pendScalar = [] → w.path.ejPart = none →
    let target := w.path.spc + .ofInt 64 (toff.toInt * 4)
    let join := w.path.spc + .ofInt 64 (joff.toInt * 4)
    let lanes := (List.range w.team.k.lanes).filter (fun l => w.path.mask.getLsbD l)
    let T := lanes.filter (fun l => w.team.p l pn.toNat)
    let F := lanes.filter (fun l => !w.team.p l pn.toNat)
    target.toNat < 2 ^ 52 → join.toNat < 2 ^ 52 →
    (T = [] → ∃ t, exec (.split pn toff joff) s = .next t ∧
      pathBecomes s t w { w.path with spc := w.path.spc + 4, wait := none }) ∧
    (T ≠ [] → F = [] → ∃ t, exec (.split pn toff joff) s = .next t ∧
      pathBecomes s t w { w.path with spc := target, wait := none }) ∧
    (∀ c, T ≠ [] → F ≠ [] → AMap.freeBelow w.team.paths 8 = some c → w.team.k.ejt ≤ T.length →
      ∃ t b q r, exec (.split pn toff joff) s = .next t ∧ onlyTeam s t w.key ∧ t.team w.key = some b ∧
        { b with paths := w.team.paths } = w.team ∧
        (∀ j, j ≠ w.pi → j ≠ c → AMap.find b.paths j = AMap.find w.team.paths j) ∧
        AMap.find b.paths w.pi = some q ∧
        q = { w.path with spc := w.path.spc + 4, wait := none, mask := q.mask, jcnt := w.path.jcnt + 1 } ∧
        AMap.find b.paths c = some r ∧ r.spc = target ∧ r.rpc = some join ∧ r.parent = some w.pi ∧
        r.fmt = w.path.fmt ∧ r.sregs = w.path.sregs ∧ r.pts = w.path.pts ∧ r.queue = [] ∧ r.jcnt = 0 ∧
        (∀ l, l < 1024 → (q.mask.getLsbD l = decide (l ∈ F) ∧ r.mask.getLsbD l = decide (l ∈ T)))) ∧
    (T ≠ [] → F ≠ [] → AMap.freeBelow w.team.paths 8 = none → w.team.k.spsl = 0 →
      exec (.split pn toff joff) s = .next (trapScalar s w .reservedField)) ∧
    (T ≠ [] → F ≠ [] → w.team.k.spsl ≠ 0 → AMap.freeBelow w.team.paths 8 = none ∨ T.length < w.team.k.ejt →
      ∀ s1 b, s.fetchWords w (target - 36).toNat 9 = (s1, .bytes b) →
      let live : BitVec 256 := .ofNat 256 (ofBytes ((b.drop 4).take 32))
      let s2 := (s1.commitRelease w.key w.pi).onPath w (fun p => { p with ejPart := some [], ejLive := live })
      (ofBytes (b.take 4) ≠ 0xC0F70000 ∨ 2 ^ w.team.vcount ≤ ofBytes ((b.drop 4).take 32) →
        exec (.split pn toff joff) s = .next (trapScalar s1 w .reservedField)) ∧
      (ofBytes (b.take 4) = 0xC0F70000 → ofBytes ((b.drop 4).take 32) < 2 ^ w.team.vcount → s1.commitBlocked w.key = false →
        (s1.freeContSlot w.team.launch w.team.k = none → s1.mem.wf = true → ∃ t q, exec (.split pn toff joff) s = .next t ∧
          versionPerformed s1 t w.team.version ∧ t.path w.key w.pi = some q ∧ q.wait = some .contSlot ∧
          q.spc = w.path.spc ∧ q.mask = w.path.mask) ∧
        (∀ s3, s2.ejectLanes w join live T = .done s3 →
          ∃ t q es, exec (.split pn toff joff) s = .next t ∧ memoryKept s3 t ∧ t.path w.key w.pi = some q ∧
            q.spc = w.path.spc + 4 ∧ q.wait = none ∧ q.jcnt = w.path.jcnt + T.length ∧ q.ejPart = none ∧
            q.sregs = w.path.sregs ∧ q.ejSlots = w.path.ejSlots ++ es ∧ es.map (·.lane) = T ∧
            (∀ e ∈ es, e.join = join ∧ e.live = live ∧ ∃ x ∈ (t.core w.core).bins,
              BinLane.cont e.slot w.team.teamId w.pi e.lane live ∈ x.lanes ∧ x.launch = w.team.launch ∧ x.entry = target ∧
              x.frame = [w.path.s 1, w.path.s 2, w.path.s 3, w.path.s 4]) ∧
            ∀ l, l < 1024 → (q.mask.getLsbD l = (w.path.mask.getLsbD l && decide (l ∉ T)) ∧
              q.ejm.getLsbD l = (w.path.ejm.getLsbD l || decide (l ∈ T))))))

/-- R198, R200: the record of an ejected lane holds the join point at bytes 0 to 7; the predicates, lane, path and team in bytes
8 to 15; its index registers from byte 16; the format register at byte 48; and each live vn at byte 64 + 4n. Its slot is taken,
and no other byte of memory changes. Where the rules leave room it follows log entry 49, the model's reading. -/
def Says.EjectedRecord : Prop :=
  ∀ (s s1 : State) (w : Who) (join : BitVec 64) (live : BitVec 256) (l i pa : Nat) (p : Path),
    s.freeContSlot w.team.launch w.team.k = some i → s.path w.key w.pi = some p → l < 1024 → w.pi < 8 → w.team.asid < 4096 →
    s.span w.core w.team.asid l .store (contAddr w.team.k i) 1088 = (s1, .ok [(0, 1088, some pa)]) → s1.mem.wf = true →
    pa % 64 = 0 →
    ∃ t q, s.ejectLanes w join live [l] = .done t ∧ t.path w.key w.pi = some q ∧
      q.ejPart = some (p.ejPart.getD [] ++ [{ lane := l, slot := i, join := join, live := live }]) ∧
      (∀ L, s.launch w.team.launch = some L → ∃ L', t.launch w.team.launch = some L' ∧ L'.contSlots = i :: L.contSlots) ∧
      (let word := fun (at_ n : Nat) => ofBytes ((List.range n).map (fun k => byteAt t (pa + at_ + k)))
       word 0 8 = join.toNat ∧
       word 8 8 = ((List.range 8).map (fun n => if w.team.p l n = true then 2 ^ (8 + n) else 0)).sum + l * 2 ^ 16 + w.pi * 2 ^ 29 +
         w.team.teamId.toNat * 2 ^ 32 ∧
       (∀ n, n < 8 → word (16 + 4 * n) 4 = (w.team.x l n).toNat) ∧ word 48 4 = w.path.fmt.toNat ∧
       ∀ n, n < 256 → live.getLsbD n = true → word (64 + 4 * n) 4 = (w.team.v l n).toNat) ∧
      ∀ x, x < pa ∨ pa + 1088 ≤ x → byteAt t x = byteAt s1 x

/-- R202, R303, R351, R381: a settled path reloads the lane that it ejected for this join point. One with a join point ends at
it: its lanes go to its parent, whose join counter falls by one. In a bin team the continuation lanes whose join point it is
leave. Else the path goes on. At END a path with a parent ends and its parent's join counter falls by one; END of a team's last
path ends the team, and its version performs. A path that is not settled waits. Where the rules leave room it follows log
entries 42 and 47, the model's reading. -/
def Says.JoinAndEnd : Prop :=
  ∀ (s : State) (w : Who), issuer s = some w → w.team.handler = none →
    (¬ settled w.path → ∃ t, exec (.join 0 0 0) s = .next t ∧ pathBecomes s t w { w.path with wait := some .join }) ∧
    (¬ settled w.path → ∃ t, exec (.endPath 0 0 0) s = .next t ∧
      pathBecomes s t w { w.path with wait := some .endPath }) ∧
    (∀ q p, settled w.path → w.path.ejSlots = [] → w.path.rpc = some w.path.spc → w.path.parent = some q → q ≠ w.pi →
      AMap.find w.team.paths q = some p → AMap.rising w.team.paths = true →
      ∃ t b, exec (.join 0 0 0) s = .next t ∧ t.team w.key = some b ∧ memoryKept s t ∧
        (∀ k, k ≠ w.key → t.team k = s.team k) ∧ AMap.find b.paths w.pi = none ∧
        b.endedLanes = w.team.endedLanes ||| w.path.ejm ∧
        AMap.find b.paths q = some { p with mask := p.mask ||| w.path.mask, jcnt := p.jcnt - 1,
                                            pts := max p.pts w.path.pts }) ∧
    (∀ e s1 m, settled w.path → w.path.ejSlots.filter (fun e => e.join == w.path.spc) = [e] →
      s.span w.core w.team.asid e.lane .load (contAddr w.team.k e.slot) 1088 = (s1, .ok m) →
      Tab.wf 0 w.team.vregs = true → Tab.wf false w.team.pregs = true → Tab.wf 0 w.team.xregs = true →
      ∃ t b q, exec (.join 0 0 0) s = .next t ∧ memoryKept s1 t ∧ t.team w.key = some b ∧ AMap.find b.paths w.pi = some q ∧
        q.spc = w.path.spc + 4 ∧ q.wait = none ∧ q.mask = w.path.mask ||| BitVec.twoPow 1024 e.lane ∧
        q.ejm = w.path.ejm &&& ~~~(BitVec.twoPow 1024 e.lane) ∧
        q.ejSlots = w.path.ejSlots.filter (fun x => x.lane != e.lane) ∧ q.pts = max w.path.pts w.path.relT ∧
        (∀ l n, n < 256 → b.v l n = if l = e.lane ∧ e.live.getLsbD n = true
          then .ofNat 32 (ofBytes (s1.spanRead m (64 + 4 * n) 4)) else w.team.v l n) ∧
        (∀ n, n < 8 → b.x e.lane n = .ofNat 32 (ofBytes (s1.spanRead m (16 + 4 * n) 4))) ∧
        ∀ n, n < 8 → n ≠ 0 → b.p e.lane n = ((s1.spanRead m 9 1).headD 0).getLsbD n) ∧
    (let back := (List.range w.team.k.lanes).filter (fun l => w.path.mask.getLsbD l &&
        ((AMap.find w.team.contLanes l).map (fun c => c.jpc == w.path.spc)).getD false)
     ∀ s1, settled w.path → w.path.ejSlots = [] → w.path.rpc ≠ some w.path.spc → back ≠ [] → s.commitBlocked w.key = false →
      (s.commitRelease w.key w.pi).returnLanes w back = .done s1 →
      (∃ l, l < 1024 ∧ w.path.mask.getLsbD l = true ∧ l ∉ back) →
      ∃ t b q, exec (.join 0 0 0) s = .next t ∧ memoryKept s1 t ∧ t.team w.key = some b ∧ AMap.find b.paths w.pi = some q ∧
        q.spc = w.path.spc + 4 ∧ q.wait = none ∧
        (∀ l, l < 1024 → (q.mask.getLsbD l = (w.path.mask.getLsbD l && decide (l ∉ back)) ∧
          b.endedLanes.getLsbD l = (w.team.endedLanes.getLsbD l || decide (l ∈ back)))) ∧
        (AMap.rising w.team.contLanes = true → ∀ l ∈ back, AMap.find b.contLanes l = none)) ∧
    (settled w.path → w.path.ejSlots = [] → w.path.rpc ≠ some w.path.spc → w.team.contLanes = [] → w.path.mask ≠ 0 →
      ∃ t, exec (.join 0 0 0) s = .next t ∧
        pathBecomes s t w { w.path with spc := w.path.spc + 4, wait := none }) ∧
    (∀ q p, settled w.path → w.path.parent = some q → q ≠ w.pi → AMap.find w.team.paths q = some p →
      AMap.rising w.team.paths = true → w.team.contLanes = [] →
      ∃ t b, exec (.endPath 0 0 0) s = .next t ∧ t.team w.key = some b ∧ memoryKept s t ∧
        (∀ k, k ≠ w.key → t.team k = s.team k) ∧ AMap.find b.paths w.pi = none ∧
        AMap.find b.paths q = some { p with jcnt := p.jcnt - 1 } ∧
        b.endedLanes = w.team.endedLanes ||| w.path.ejm ||| w.path.mask) ∧
    (settled w.path → w.team.paths = [(w.pi, w.path)] → w.team.contLanes = [] → s.commitBlocked w.key = false →
      s.mem.wf = true → AMap.rising s.teams = true →
      ∃ t, exec (.endPath 0 0 0) s = .next t ∧ t.team w.key = none ∧ (∀ k, k ≠ w.key → t.team k = s.team k) ∧
        versionPerformed s t w.team.version)

/-- R304: SPAWN commits the version as a release at device scope and places n lanes, with the values sb[63:32] onwards, in the
bin of the core that the launch, the entry and s1 to s4 key. A count of 0 or above 1024, a reserved bit or a launch without
spawn slots traps RESERVED_FIELD. Where the rules leave room it follows log entries 42 and 50, the model's reading. -/
def Says.Spawn : Prop :=
  ∀ (s : State) (w : Who) (sa sb : Reg6), scalarReady s w [sa, sb, 1, 2, 3, 4] → w.team.handler = none →
    let e := w.path.s sa
    let b := w.path.s sb
    let n := b.toNat % 2 ^ 11
    (w.team.k.spsl ≠ 0 → b.toNat / 2 ^ 11 % 2 ^ 21 = 0 → 1 ≤ n → n ≤ 1024 → e.toNat < 2 ^ 52 → e.toNat % 4 = 0 →
      s.inFlight w false = [] → s.commitBlocked w.key = false → s.mem.wf = true →
      ∃ t q, exec (.spawn 0 sa sb) s = .next t ∧ versionPerformed s t w.team.version ∧
        (∃ b', t.team w.key = some b' ∧ b'.version = [] ∧ b'.vregs = w.team.vregs ∧ b'.scratch = w.team.scratch) ∧
        t.path w.key w.pi = some q ∧ q.spc = w.path.spc + 4 ∧ q.sregs = w.path.sregs ∧ q.mask = w.path.mask ∧
        (∀ i < n, ∃ x ∈ (t.core w.core).bins, BinLane.spawned (BitVec.ofNat 32 (b.toNat / 2 ^ 32 + i)) ∈ x.lanes ∧
          x.launch = w.team.launch ∧ x.entry = e ∧ x.frame = [w.path.s 1, w.path.s 2, w.path.s 3, w.path.s 4])) ∧
    ((w.team.k.spsl = 0 ∨ b.toNat / 2 ^ 11 % 2 ^ 21 ≠ 0 ∨ n = 0 ∨ 1024 < n) →
      exec (.spawn 0 sa sb) s = .next (trapScalar s w .reservedField))

/-! ## Scalar memory -/

/-- A value of some bytes in a register: sign-extended or zero-extended (R309). -/
def extended (b : List Byte) (signed : Bool) : Word64 :=
  .ofInt 64 (if signed then toSigned (8 * b.length) (ofBytes b) else (ofBytes b : Int))

/-- R309: LD of an access that device memory or a scratchpad answers puts the extended value in sd and goes on at next; no byte
of memory changes. An order that R166 refuses, or a sign-extended 8-byte load, traps RESERVED_FIELD. Where the rules leave room
it follows log entry 15, the model's reading. -/
def Says.ScalarLoad : Prop :=
  ∀ (s : State) (w : Who) (ord scp : BitVec 2) (st : BitVec 1) (sz : BitVec 2) (sx : BitVec 1) (off : BitVec 5) (sd sa : Reg6),
    let bad := orderRefused .load ord.toNat scp.toNat (st == 1) || (sx == 1 && sz == 3)
    (∀ s1 tg b, scalarReady s w [sd, sa] → bad = false → w.path.loadsOut < 8 →
      let a := scalarAcc w .load ord scp st sz off sa
      a.addr = w.path.s sa + .ofNat 64 (off.toNat * 2 ^ sz.toNat) ∧
      (reaches s w a tg s1 → loadFinds s1 w a tg = some b →
        ∃ t q, exec (.ld ord scp st sz sx off sd sa) s = .next t ∧ memoryKept s1 t ∧
          t.path w.key w.pi = some q ∧
          { q with sregs := w.path.sregs, pts := w.path.pts, tableOld := w.path.tableOld } =
            { w.path with spc := w.path.spc + 4, wait := none } ∧ w.path.pts ≤ q.pts ∧
          (∀ r, q.s r = if r = sd ∧ r ≠ 0 then extended b (sx == 1) else w.path.s r) ∧
          (∀ k, k ≠ w.key → t.team k = s.team k))) ∧
    (issuer s = some w → bad = true → exec (.ld ord scp st sz sx off sd sa) s = .next (trapScalar s w .reservedField))

/-- R309, R174 to R176: ST to device memory enters the task's version when it is a versioned write. Otherwise, and on a table
frame, it performs at the home slice and taints the task, and the version no longer holds the bytes it stored there; a release
at nb scope or wider performs the version before it, in a new task. The bytes it stores are sb's lowest, at sa + off × size;
every other byte stays. Where the rules leave room it follows log entries 15, 18, 42 and 43, the model's reading. -/
def Says.ScalarStore : Prop :=
  ∀ (s s1 : State) (w : Who) (ord scp : BitVec 2) (st : BitVec 1) (sz : BitVec 2) (off : BitVec 5) (sb sa : Reg6)
    (pa space va : Nat) (leaf : BitVec 64), scalarReady s w [sb, sa] →
    orderRefused .store ord.toNat scp.toNat (st == 1) = false → s1.mem.wf = true → space ≠ 7 →
    let a := scalarAcc w .store ord scp st sz off sa
    let bs := toBytes (2 ^ sz.toNat) (w.path.s sb).toNat
    let vers := versioned space ord.toNat scp.toNat (st == 1)
    reaches s w a (.dev pa space va leaf) s1 →
    (vers = true → s1.mem.isTable pa = false → s1.specLines (homeSlice s1.dev (lineOf pa * 64)) < 2048 →
      ∃ t b q, exec (.st ord scp st sz 0 off sb sa) s = .next t ∧ memoryKept s1 t ∧ t.team w.key = some b ∧
        (∀ x, AMap.find b.version x =
          if pa ≤ x ∧ x < pa + bs.length then some (bs.getD (x - pa) 0) else AMap.find w.team.version x) ∧
        b.taint = w.team.taint ∧ t.path w.key w.pi = some q ∧ q.spc = w.path.spc + 4 ∧ q.sregs = w.path.sregs) ∧
    (vers = false ∨ s1.mem.isTable pa = true → releases ord.toNat = false →
      ∃ t b q, exec (.st ord scp st sz 0 off sb sa) s = .next t ∧ bytesStored s1 t pa bs ∧
        t.mem.host = s1.mem.host ∧ t.team w.key = some b ∧
        (if s1.mem.isTable pa = true then b.version = w.team.version else versionLess w.team.version b.version pa bs.length) ∧
        b.taint = true ∧ t.path w.key w.pi = some q ∧ q.spc = w.path.spc + 4 ∧ q.sregs = w.path.sregs) ∧
    (releases ord.toNat = true → 1 ≤ scp.toNat → s1.mem.isTable pa = false →
      ∃ t b q, exec (.st ord scp st sz 0 off sb sa) s = .next t ∧
        (∀ x, byteAt t x = if pa ≤ x ∧ x < pa + bs.length then bs.getD (x - pa) 0
          else (AMap.find w.team.version x).getD (byteAt s1 x)) ∧
        t.mem.host = s1.mem.host ∧ t.team w.key = some b ∧ b.version = [] ∧ b.taint = false ∧
        t.path w.key w.pi = some q ∧ q.spc = w.path.spc + 4 ∧ q.sregs = w.path.sregs)

/-- Memory after an access of some order and scope: a release at nb scope or wider has performed the version (R176), and otherwise
it is as before. -/
def releasedMemory (s t : State) (w : Who) (ord scope : Nat) : Prop :=
  if releases ord = true ∧ 1 ≤ scope then versionPerformed s t w.team.version ∧ t.mem.host = s.mem.host else memoryKept s t

/-- R309, R100, R176: ST to a scratchpad writes its bytes there, and no other byte of any scratchpad; memory stays, but for the
version that a release at nb scope or wider performs. Where the rules leave room it follows log entry 15, the model's reading.
-/
def Says.ScalarStoreScratchpad : Prop :=
  ∀ (s s1 : State) (w : Who) (ord scp : BitVec 2) (st : BitVec 1) (sz : BitVec 2) (off : BitVec 5) (sb sa : Reg6)
    (k o : Nat) (tm : Team), scalarReady s w [sb, sa] →
    orderRefused .store ord.toNat scp.toNat (st == 1) = false → s.mem.wf = true →
    let a := scalarAcc w .store ord scp st sz off sa
    let bs := toBytes (2 ^ sz.toNat) (w.path.s sb).toNat
    reaches s w a (.scratch k o) s1 → s.team k = some tm → Tab.wf 0 tm.scratch = true →
    ∃ t b q, exec (.st ord scp st sz 0 off sb sa) s = .next t ∧ releasedMemory s t w ord.toNat scp.toNat ∧ t.team k = some b ∧
      (∀ x, Tab.get 0 b.scratch x = if o ≤ x ∧ x < o + bs.length then bs.getD (x - o) 0 else Tab.get 0 tm.scratch x) ∧
      (∀ j, j ≠ k → j ≠ w.key → t.team j = s.team j) ∧
      t.path w.key w.pi = some q ∧ q.spc = w.path.spc + 4 ∧ q.sregs = w.path.sregs

/-- The atomics of the scalar stream (R310): the new value of an n-byte word from the old one, the operand and sd's value, or none
where AMOCAS compares unequal and writes nothing. -/
def scalarAtomics : List ((BitVec 2 → BitVec 2 → BitVec 1 → Reg6 → Reg6 → Reg6 → Instr) × (Nat → Nat → Nat → Nat → Option Nat)) :=
  [(.amoadd, fun n old x _ => some ((old + x) % 2 ^ (8 * n))), (.amoand, fun _ old x _ => some (old &&& x)),
   (.amoor, fun _ old x _ => some (old ||| x)), (.amoxor, fun _ old x _ => some (old ^^^ x)),
   (.amomin, fun n old x _ => some (if toSigned (8 * n) x < toSigned (8 * n) old then x else old)),
   (.amomax, fun n old x _ => some (if toSigned (8 * n) old < toSigned (8 * n) x then x else old)),
   (.amominu, fun _ old x _ => some (if x < old then x else old)), (.amomaxu, fun _ old x _ => some (if old < x then x else old)),
   (.amoswap, fun _ _ x _ => some x), (.amocas, fun _ old x c => if old = c then some x else none)]

/-- R310, R174, R170, R175: a scalar atomic on device memory reads the old word into sd, sign-extended for a 32-bit word, writes
the new one at the same address, and taints the task. The old word is what the path would load there: its version over the
committed bytes. A write leaves the version without those bytes, but on a table frame; an AMOCAS that compares unequal writes
nothing and leaves memory and the version as they are. A release at nb scope or wider performs the whole version before it; no
other byte changes. Where the rules leave room it follows log entries 15, 16, 18 and 122, the model's reading. -/
def Says.ScalarAtomic : Prop :=
  ∀ e ∈ scalarAtomics, ∀ (s s1 : State) (w : Who) (ord scp : BitVec 2) (w32 : BitVec 1) (sd sa sb : Reg6)
    (pa space va : Nat) (leaf : BitVec 64), scalarReady s w [sd, sa, sb] → w.path.loadsOut < 8 →
    let n := if w32 = 1 then 4 else 8
    let a : Acc := { kind := .atomic, addr := w.path.s sa, size := n, ord := ord.toNat, scope := scp.toNat, strong := true,
                     hint := 0, lane := none, uniform := false, tableOk := w32 == 0 }
    reaches s w a (.dev pa space va leaf) s1 → leafJ leaf = false → s1.mem.wf = true →
    let rel : Prop := releases ord.toNat = true ∧ 1 ≤ scp.toNat
    let old := (List.range n).map (fun i => (AMap.find w.team.version (pa + i)).getD (byteAt s1 (pa + i)))
    let new := e.2 n (ofBytes old) ((w.path.s sb).toNat % 2 ^ (8 * n)) ((w.path.s sd).toNat % 2 ^ (8 * n))
    let kept := fun x => if rel then (AMap.find w.team.version x).getD (byteAt s1 x) else byteAt s1 x
    ∃ t b q, exec (e.1 ord scp w32 sd sa sb) s = .next t ∧ t.mem.host = s1.mem.host ∧
      (∀ x, byteAt t x = match new with
        | some v => if pa ≤ x ∧ x < pa + n then (toBytes n v).getD (x - pa) 0 else kept x
        | none => kept x) ∧
      t.team w.key = some b ∧ b.taint = true ∧ (rel → b.version = []) ∧
      (¬ rel → if new.isSome = true ∧ s1.mem.isTable pa = false then versionLess w.team.version b.version pa n
        else b.version = w.team.version) ∧ t.path w.key w.pi = some q ∧
      q.spc = w.path.spc + 4 ∧ ∀ r, q.s r = if r = sd ∧ r ≠ 0 then extended old (w32 == 1) else w.path.s r

/-! ## Fences, commits and shoot-downs -/

/-- The task's version has performed, a new untainted task with LATE has begun, and the issuing path goes on at next with its
registers (R176, R307). -/
def committed (s t : State) (w : Who) : Prop :=
  versionPerformed s t w.team.version ∧ t.mem.host = s.mem.host ∧
    ∃ b q, t.team w.key = some b ∧ b.version = [] ∧ b.verId = none ∧ b.taint = false ∧ b.late = true ∧
      b.ecom = w.team.ecom ∧ b.vregs = w.team.vregs ∧ b.scratch = w.team.scratch ∧
      t.path w.key w.pi = some q ∧ q.spc = w.path.spc + 4 ∧ q.wait = none ∧ q.sregs = w.path.sregs ∧ q.mask = w.path.mask ∧
      w.path.pts ≤ q.pts

/-- R311, R312, R307: once every clause of the path has ended, and the strong accesses that it has in flight, or for a release
all of them, have performed, FENCE and TFENCE complete. A release at nb scope or wider, a TFENCE at sy scope, and VCOMMIT commit
the version. The other forms go on at next, and a release at tm scope takes the timestamps of its team's writes (R426). After a
fence the path's walks read every table write before it (R126). Before that they wait. Where the rules leave room it follows log
entries 18, 42, 45, 127 and 141, the model's reading. -/
def Says.FencesAndCommit : Prop :=
  ∀ (s : State) (w : Who) (fn : BitVec 7), issuer s = some w → fn.toNat < 16 →
    let ord := fn.toNat % 4
    let scp := fn.toNat / 4
    let waits := fun release : Prop => w.path.ended = false ∨ ∃ p ∈ s.inFlight w true, release ∨ p.strong = true
    ((ord = 1 → ¬ waits False → ∃ t, exec (.fence fn 0 0 0) s = .next t ∧
        pathBecomes s t w { w.path with spc := w.path.spc + 4, wait := none, tableOld := [] }) ∧
      (2 ≤ ord → scp = 0 → ¬ waits True → ∃ t, exec (.fence fn 0 0 0) s = .next t ∧
        pathBecomes s t w { w.path with spc := w.path.spc + 4, wait := none, tableOld := [],
                                        pts := max w.path.pts w.team.wT }) ∧
      (2 ≤ ord → 1 ≤ scp → ¬ waits True → s.commitBlocked w.key = false → s.mem.wf = true →
        ∃ t, exec (.fence fn 0 0 0) s = .next t ∧ committed s t w) ∧
      (ord = 0 → scp ≠ 3 → ¬ waits False → ∃ t, exec (.tfence fn 0 0 0) s = .next t ∧
        pathBecomes s t w { w.path with spc := w.path.spc + 4, wait := none, tableOld := [] }) ∧
      (ord = 0 → scp = 3 → ¬ waits True → s.commitBlocked w.key = false → s.mem.wf = true →
        ∃ t, exec (.tfence fn 0 0 0) s = .next t ∧ committed s t w)) ∧
    ((ord ≠ 0 → waits (2 ≤ ord) → ∃ t, exec (.fence fn 0 0 0) s = .next t ∧
        pathBecomes s t w { w.path with wait := some .fence }) ∧
      (ord = 0 → waits (scp = 3) → ∃ t, exec (.tfence fn 0 0 0) s = .next t ∧ pathBecomes s t w { w.path with wait := some .fence })) ∧
    (w.path.idle = true → s.commitBlocked w.key = false → s.mem.wf = true →
      ∃ t, exec (.vcommit 0 0 0) s = .next t ∧ committed s t w) ∧
    (w.path.idle = false →
      ∃ t, exec (.vcommit 0 0 0) s = .next t ∧ pathBecomes s t w { w.path with wait := some .fence })

/-- R127, R128, R313, R314: TSHOOT drops every TLB entry of the range from every core and both dies, and the path holds the
shoot-down until it completes; memory and registers stay. TSYNC completes when the path holds none, and waits otherwise. Where
the rules leave room it follows log entries 23 and 127, the model's reading. -/
def Says.ShootDowns : Prop :=
  (∀ (s : State) (w : Who) (sa sb : Reg6), scalarReady s w [sa, sb] →
    let a := w.path.s sa
    let n := (w.path.s sb).toNat
    let first := a.toNat / 2 ^ 16 % 2 ^ 36
    n ≤ 65536 → (n = 0 ∨ first + n ≤ 2 ^ 36) → a.toNat / 2 ^ 60 ∈ [0, 1, 2, 4] → a.toNat / 2 ^ 52 % 2 ^ 8 = 0 →
    w.path.ended = true → w.path.shoots.length < 4 →
    ∃ t q, exec (.tshoot 0 sa sb) s = .next t ∧ memoryKept s t ∧ t.path w.key w.pi = some q ∧
      q = { w.path with spc := w.path.spc + 4, wait := none, tableOld := [],
                        shoots := w.path.shoots ++ [s.xl.nextShoot] } ∧
      (∀ c, ∀ e ∈ (t.core c).tlb, e.inRange w.team.asid first n = false) ∧
      (∀ e ∈ t.xl.dieTlb0, e.inRange w.team.asid first n = false) ∧
      (∀ e ∈ t.xl.dieTlb1, e.inRange w.team.asid first n = false) ∧
      ∃ h ∈ t.xl.shoots, h.id = s.xl.nextShoot ∧ h.issuer = some (w.key, w.pi) ∧ h.asid = w.team.asid) ∧
  ∀ (s : State) (w : Who), issuer s = some w →
    (w.path.shoots = [] → ∃ t, exec (.tsync 0 0 0) s = .next t ∧
      pathBecomes s t w { w.path with spc := w.path.spc + 4, wait := none }) ∧
    (w.path.shoots ≠ [] → ∃ t, exec (.tsync 0 0 0) s = .next t ∧ pathBecomes s t w { w.path with wait := some .tsync })

/-! ## System instructions -/

/-- The control registers that R315 and R382 let a path read, but for the counters, with their values. -/
def controlReads (s : State) (w : Who) : List (Nat × Word64) :=
  [(0x000, BitVec.setWidth 64 w.team.taskId), (0x001, BitVec.setWidth 64 w.team.teamId), (0x002, .ofNat 64 w.pi),
   (0x003, .ofNat 64 w.core), (0x004, .ofNat 64 ((List.range 1024).filter (fun l => w.path.mask.getLsbD l)).length),
   (0x005, .ofNat 64 w.team.asid),
   (0x006, .ofNat 64 (w.team.taint.toNat + 2 * w.team.ecom.toNat + 4 * w.team.late.toNat)),
   (0x012, w.team.tcmp), (0x013, w.team.tdln), (0x020, w.team.tvec)] ++
  (match w.team.handler with
   | none => [(0x021, 0), (0x022, 0), (0x023, 0), (0x024, 0), (0x025, 0)]
   | some h => [(0x021, h.cause), (0x022, h.epc), (0x023, h.elc), (0x024, h.va), (0x025, h.task)]) ++
  (if w.team.asid = 0 then
    [(0x108, BitVec.setWidth 64 w.team.tnasid), (0x143, BitVec.setWidth 64 s.dbg.dres)] ++
      (List.range 16).map (fun k => (0x110 + k, Tab.get 0 s.dbg.pcnt k))
   else [])

/-- R315, R382: CRR copies a control register to sd. A privileged number traps PROTECTION outside ASID 0, and a number from
0x1000 on traps RESERVED_FIELD. Where the rules leave room it follows log entry 73, the model's reading. -/
def Says.ControlRead : Prop :=
  ∀ (s : State) (w : Who) (sd : Reg6), scalarReady s w [sd] →
    (∀ e ∈ controlReads s w, ∃ t, exec (.crr sd 0 (.ofNat 13 e.1)) s = .next t ∧
      regWritten s t w sd e.2 (w.path.spc + 4)) ∧
    (∀ n, 0x100 ≤ n → n < 0x1000 → w.team.asid ≠ 0 →
      exec (.crr sd 0 (.ofNat 13 n)) s = .next (trapScalar s w .protection)) ∧
    (∀ n, 0x1000 ≤ n → n < 0x2000 → exec (.crr sd 0 (.ofNat 13 n)) s = .next (trapScalar s w .reservedField)) ∧
    (s.dbg.jctl = 0 → ∀ n ∈ [0x010, 0x011, 0x014], ∃ t q v, exec (.crr sd 0 (.ofNat 13 n)) s = .next t ∧
      memoryKept s t ∧ t.path w.key w.pi = some q ∧ q.spc = w.path.spc + 4 ∧
      (∀ r, q.s r = if r = sd ∧ r ≠ 0 then v else w.path.s r) ∧
      (n = 0x011 → v = t.dev.wall) ∧ (n = 0x014 → s.fabricRuns = false → v = 0))

/-- R315, R248, R250, R382: CRW sets TCMP, TDLN and TVEC of the team, its TNASID and the progress counters, and TEPC in the
handler of an event that a scalar instruction raised; a TVEC that is not a multiple of 4, a TNASID with a reserved bit, a TEPC
outside such a handler and a read-only register trap RESERVED_FIELD. Where the rules leave room it follows log entry 73, the
model's reading. -/
def Says.ControlWrite : Prop :=
  ∀ (s : State) (w : Who) (sa : Reg6), scalarReady s w [sa] → s.dbg.stepping = none →
    let v := w.path.s sa
    let q : Path := { w.path with spc := w.path.spc + 4, wait := none }
    let goesOn := fun (t : State) (b : Team) =>
      t.team w.key = some { b with paths := AMap.insert w.pi q w.team.paths } ∧ onlyTeam s t w.key
    (∃ t, exec (.crw 0 sa 0x012) s = .next t ∧ goesOn t { w.team with tcmp := v }) ∧
    (∃ t, exec (.crw 0 sa 0x013) s = .next t ∧ goesOn t { w.team with tdln := v }) ∧
    (v.toNat % 4 = 0 → ∃ t, exec (.crw 0 sa 0x020) s = .next t ∧ goesOn t { w.team with tvec := v }) ∧
    (v.toNat % 4 ≠ 0 → exec (.crw 0 sa 0x020) s = .next (trapScalar s w .reservedField)) ∧
    (w.team.asid = 0 → v.toNat < 4096 →
      ∃ t, exec (.crw 0 sa 0x108) s = .next t ∧ goesOn t { w.team with tnasid := .ofNat 12 v.toNat }) ∧
    (w.team.asid = 0 → 4096 ≤ v.toNat → exec (.crw 0 sa 0x108) s = .next (trapScalar s w .reservedField)) ∧
    (∀ k < 16, w.team.asid = 0 → Tab.wf 0 s.dbg.pcnt = true → ∃ t, exec (.crw 0 sa (.ofNat 13 (0x110 + k))) s = .next t ∧
      t.teams = (s.modPath w.key w.pi Path.next).teams ∧ t.mem = s.mem ∧
      ∀ j, Tab.get 0 t.dbg.pcnt j = if j = k then v else Tab.get 0 s.dbg.pcnt j) ∧
    (∀ h, w.team.handler = some h → h.cause.getLsbD 16 = false →
      ∃ t, exec (.crw 0 sa 0x022) s = .next t ∧ goesOn t { w.team with handler := some { h with epc := v } }) ∧
    (w.team.handler = none ∨ (∃ h, w.team.handler = some h ∧ h.cause.getLsbD 16 = true) →
      exec (.crw 0 sa 0x022) s = .next (trapScalar s w .reservedField)) ∧
    (∀ n ∈ [0x000, 0x001, 0x002, 0x003, 0x004, 0x005, 0x006, 0x010, 0x011, 0x014, 0x021, 0x023, 0x024, 0x025],
      exec (.crw 0 sa (.ofNat 13 n)) s = .next (trapScalar s w .reservedField))

/-- R382, R252, R253, R255: a CRW of DHOLD stops a running path of a team of the attached ASID, one of DRESUME lets a stopped
path go on, and one of DSTEP makes a stopped path issue while the writer waits; DRES takes DCODE 0. A path in the other state
gives DCODE 5, one that does not exist 3, a team of an ASID that is not attached 2, and the writer's own team 5, with no other
effect. A path number from 8 to 14, or a reserved bit, traps RESERVED_FIELD. Where the rules leave room it follows log entry
100, the model's reading. -/
def Says.DebugByPath : Prop :=
  ∀ (s : State) (w : Who) (sa : Reg6), scalarReady s w [sa] → w.team.asid = 0 → s.dbg.stepping = none →
    let v := (w.path.s sa).toNat
    let own : Path := { w.path with spc := w.path.spc + 4, wait := none }
    let answers := fun (n : BitVec 13) (c : BitVec 8) => ∃ t, exec (.crw 0 sa n) s = .next t ∧ t.path w.key w.pi = some own ∧
      { t with teams := s.teams, dbg := { t.dbg with dres := s.dbg.dres } } = s ∧ t.dbg.dres = c ∧
      ∀ k, k ≠ w.key → t.team k = s.team k
    (2 ^ 36 ≤ v ∨ (8 ≤ v / 2 ^ 32 ∧ v / 2 ^ 32 < 15) → ∀ n ∈ [0x140#13, 0x141#13, 0x142#13],
      exec (.crw 0 sa n) s = .next (trapScalar s w .reservedField)) ∧
    (∀ id : BitVec 32, ∀ pi, v = id.toNat + pi * 2 ^ 32 → pi < 8 →
      (id = w.team.teamId → ∀ n ∈ [0x140#13, 0x141#13, 0x142#13], answers n 5) ∧
      (id ≠ w.team.teamId → s.dbg.attached = none → ∀ n ∈ [0x140#13, 0x141#13, 0x142#13], answers n 2) ∧
      (∀ a k tm, id ≠ w.team.teamId → s.dbg.attached = some a → s.findTeam id = some (k, tm) → s.team k = some tm → k ≠ w.key →
        (a.toNat ≠ tm.asid → ∀ n ∈ [0x140#13, 0x141#13, 0x142#13], answers n 2) ∧
        (a.toNat = tm.asid → AMap.find tm.paths pi = none → ∀ n ∈ [0x140#13, 0x141#13, 0x142#13], answers n 3) ∧
        (∀ p, a.toNat = tm.asid → AMap.find tm.paths pi = some p →
          (p.stop = none →
            (∃ t, exec (.crw 0 sa 0x140) s = .next t ∧ t.dbg.dres = 0 ∧ t.path w.key w.pi = some own ∧ t.mem = s.mem ∧
              t.path k pi = some { p with stop := some { reason := 0, info := 0, hmask := p.mask } }) ∧
            answers 0x141 5 ∧ answers 0x142 5) ∧
          (∀ st, p.stop = some st →
            (∃ t q, exec (.crw 0 sa 0x141) s = .next t ∧ t.dbg.dres = 0 ∧ t.path w.key w.pi = some own ∧ t.mem = s.mem ∧
              t.path k pi = some q ∧ { q with run := p.run } = { p with stop := none }) ∧
            ∃ t q d, exec (.crw 0 sa 0x142) s = .next t ∧ t.mem = s.mem ∧
              t.path w.key w.pi = some { w.path with wait := some .stepping } ∧ t.path k pi = some q ∧
              { q with run := p.run } = { p with stop := none } ∧ t.dbg.stepping = some d ∧ d.tkey = k ∧ d.path = pi ∧
              d.issued = false ∧ d.byPath = some (w.key, w.pi)))))

/-- The event queue of the issuing core once the entries that the device holds for the team have come back, as far as its 256
entries go (R241). -/
def eventQueue (s : State) (w : Who) : List EvEntry :=
  (s.core w.core).evq ++
    (s.sched.savedEv.filter (fun e => e.teamId == w.team.teamId)).take (256 - (s.core w.core).evq.length)

/-- R305, R306, R256, R380: EVPOP takes the oldest entry of its team from the core's event queue, or reads 0. SETFMT puts the
format register in sd and takes sa's low half, and refuses a reserved value. PROG adds 1 to a progress counter of a trial of its
ASID and does nothing else. Where the rules leave room it follows log entry 108, the model's reading. -/
def Says.EventsFormatsProgress : Prop :=
  (∀ (s : State) (w : Who) (sd : Reg6), scalarReady s w [sd] → w.slot < 16 →
    ((∀ e ∈ eventQueue s w, e.teamId ≠ w.team.teamId) →
      ∃ t, exec (.evpop sd 0 0) s = .next t ∧ regWritten s t w sd 0 (w.path.spc + 4)) ∧
    (∀ pre e post, eventQueue s w = pre ++ e :: post → (∀ x ∈ pre, x.teamId ≠ w.team.teamId) →
      e.teamId = w.team.teamId → ∃ t q, exec (.evpop sd 0 0) s = .next t ∧ memoryKept s t ∧
        (t.core w.core).evq = pre ++ post ∧ t.path w.key w.pi = some q ∧ q.spc = w.path.spc + 4 ∧
        q.pts = max w.path.pts e.rel ∧ ∀ r, q.s r = if r = sd ∧ r ≠ 0 then e.word else w.path.s r)) ∧
  (∀ (s : State) (w : Who) (sd sa : Reg6), scalarReady s w [sd, sa] →
    let v := (w.path.s sa).toNat
    let bad : Prop := 2 ^ 32 ≤ v ∨ 4 < v / 2 ^ 12 % 8 ∨ v % 16 = 15 ∨ v / 16 % 16 = 15 ∨ v / 256 % 16 = 15
    (¬ bad → ∃ t q, exec (.setfmt sd sa 0) s = .next t ∧ pathBecomes s t w q ∧ q.fmt = .ofNat 32 v ∧
      { q with sregs := w.path.sregs, fmt := w.path.fmt } = { w.path with spc := w.path.spc + 4, wait := none } ∧
      ∀ r, q.s r = if r = sd ∧ r ≠ 0 then .ofNat 64 w.path.fmt.toNat else w.path.s r) ∧
    (bad → exec (.setfmt sd sa 0) s = .next (trapScalar s w .reservedField))) ∧
  ∀ (s : State) (w : Who) (k : Reg6), issuer s = some w →
    (k.toNat < 16 → Tab.wf 0 s.dbg.pcnt = true →
      ∃ t, exec (.prog 0 k 0) s = .next t ∧ t.teams = (s.modPath w.key w.pi Path.next).teams ∧ t.mem = s.mem ∧
        ∀ j, Tab.get 0 t.dbg.pcnt j =
          if j = k.toNat ∧ s.dbg.cxctl.toNat % 2 = 1 ∧ s.dbg.cxctl.toNat / 2 ^ 52 = w.team.asid
          then Tab.get 0 s.dbg.pcnt j + 1 else Tab.get 0 s.dbg.pcnt j) ∧
    (16 ≤ k.toNat → exec (.prog 0 k 0) s = .next (trapScalar s w .reservedField))

/-- R248, R380: with TVEC set, outside a handler and a debug session, TRAP and BRK commit the version and enter the handler: the
path table becomes the block, the path goes on at TVEC with its registers and its flags, TCAUSE holds the class and INFO, TEPC
is the next instruction, TELC the lane instruction that the event interrupts, or 0, and TTASK names the task that committed.
Where the rules leave room it follows log entries 42 and 56, the model's reading. -/
def Says.HandlerEntry : Prop :=
  ∀ (s : State) (w : Who) (sa : Reg6), scalarReady s w [sa] → w.team.handler = none → w.team.tvec ≠ 0 →
    s.dbg.attached ≠ some (.ofNat 12 w.team.asid) → s.commitBlocked w.key = false → s.mem.wf = true →
    ∀ i cls info, (i, cls, info) ∈ [(Instr.trap 0 sa 0, 0x7F, (w.path.s sa).toNat % 256), (Instr.brk 0 0 0, 0x30, 0xFF)] →
      ∃ t b h q, exec i s = .next t ∧ versionPerformed s t w.team.version ∧ t.team w.key = some b ∧ b.version = [] ∧
        b.handler = some h ∧ h.cause = .ofNat 64 (cls + info * 256) ∧ h.epc = w.path.spc + 4 ∧ h.va = 0 ∧
        h.elc = (match w.path.run with
          | none => 0
          | some c => c.addr + BitVec.ofNat 64 (12 * (c.pos + 1))) ∧
        (w.path.kept = [] → ∀ n < 12,
          ((w.path.queued n ≠ 0 ∨ w.path.outstanding n ≠ 0) ↔ (q.queued n ≠ 0 ∨ q.outstanding n ≠ 0))) ∧
        h.task = BitVec.setWidth 64 w.team.taskId ∧ h.path = w.pi ∧ b.paths = [(w.pi, q)] ∧ q.spc = w.team.tvec ∧
        q.sregs = w.path.sregs ∧ q.fmt = w.path.fmt ∧ q.mask = w.path.mask ∧ q.parent = none ∧ q.jcnt = 0 ∧
        b.vregs = w.team.vregs ∧ b.pregs = w.team.pregs ∧ b.scratch = w.team.scratch ∧
        ∀ j, j ≠ w.pi → AMap.find h.saved j = AMap.find w.team.paths j

/-- R248, R380: ERET brings the block back: the path that took the event goes on at TEPC, the other paths are as they were, and
lane registers keep what the handler wrote. Outside a handler ERET traps RESERVED_FIELD, and a TEPC that is not a multiple of 4
traps MISALIGNED. Where the rules leave room it follows log entry 56, the model's reading. -/
def Says.HandlerReturn : Prop :=
  ∀ (s : State) (w : Who), issuer s = some w →
    (∀ h p, w.team.handler = some h → h.epc.toNat % 4 = 0 → h.clausesDone w.path = true →
      AMap.find h.saved h.path = some p →
      ∃ t b, exec (.eret 0 0 0) s = .next t ∧ onlyTeam s t w.key ∧ t.team w.key = some b ∧ b.handler = none ∧
        { b with handler := w.team.handler, paths := w.team.paths } = w.team ∧
        AMap.find b.paths h.path = some { p with spc := h.epc, wait := none } ∧
        ∀ j, j ≠ h.path → AMap.find b.paths j = AMap.find h.saved j) ∧
    (∀ h, w.team.handler = some h → h.epc.toNat % 4 ≠ 0 →
      exec (.eret 0 0 0) s = .next (trapScalar s w .misaligned h.epc)) ∧
    (w.team.handler = none → exec (.eret 0 0 0) s = .next (trapScalar s w .reservedField))

/-- R247, R249, R72: an error trap discards the version: committed memory keeps every byte, the launch fails with the class and
the task of its first failure, and the team is gone. With TRCTL.EN = 1 and space in the ring a report enters it; here reports
and dumps are off, and the team has no copy in hand, whose record and barrier R239 would cancel. Where the rules leave room it
follows log entry 44, the model's reading. -/
def Says.ErrorTrap : Prop :=
  ∀ (s : State) (w : Who) (cls : TrapClass) (va : Word64), issuer s = some w → cls ≠ .cancelled →
    s.dbg.trctl.toNat % 2 = 0 → s.dbg.dmpctl.toNat % 2 = 0 → AMap.rising s.teams = true →
    (∀ c ∈ s.eng.copies, c.packet.isSome = true ∨ c.teamId ≠ w.team.teamId) →
    let t := trapScalar s w cls va
    memoryKept s t ∧ t.team w.key = none ∧ (∀ k, k ≠ w.key → t.team k = s.team k) ∧
      ∀ l, s.launch w.team.launch = some l → ∃ l', t.launch w.team.launch = some l' ∧
        l'.failed = some (l.failed.getD (cls.code, w.team.taskId))

/-- R249, R247: with TRCTL.EN = 1, no access of the team in flight and no report before it, the report of an error trap enters
the trap report ring at TRHEAD, which rises by one, while the ring has space: its class, TAINT, ECOM, LATE and task, its lane,
path, ASID and team, the path's SPC and the faulting address. No other byte of memory changes. A full ring makes the report
wait. Where the rules leave room it follows log entry 44, the model's reading. -/
def Says.TrapReports : Prop :=
  ∀ (s : State) (w : Who) (cls : TrapClass) (va : Word64), issuer s = some w → cls ≠ .cancelled →
    s.dbg.trctl.toNat % 2 = 1 → s.dbg.dmpctl.toNat % 2 = 0 → s.dbg.trWait = [] → s.teamInFlight w.team.teamId = false →
    (∀ c ∈ s.eng.copies, c.packet.isSome = true ∨ c.teamId ≠ w.team.teamId) → s.mem.wf = true →
    let size := 2 ^ (s.dbg.trctl.toNat / 2 ^ 8 % 2 ^ 5)
    let entry := s.dbg.trbase.toNat + s.dbg.trhead.toNat % size * 32
    let t := trapScalar s w cls va
    ((s.dbg.trhead - s.dbg.trtail).toNat < size → s.rangeLeased entry 32 = false →
      (let word := fun (k : Nat) => ofBytes ((List.range 8).map (fun i => byteAt t (entry + 8 * k + i)))
       word 0 = (cls.code + w.team.taint.toNat * 2 ^ 16 + w.team.ecom.toNat * 2 ^ 17 + w.team.late.toNat * 2 ^ 18 +
         w.team.taskId.toNat * 2 ^ 32) % 2 ^ 64 ∧
       word 1 = (w.path.firstLane * 2 ^ 7 + w.pi * 2 ^ 17 + w.team.asid * 2 ^ 20 + w.team.teamId.toNat * 2 ^ 32) % 2 ^ 64 ∧
       word 2 = w.path.spc.toNat ∧ word 3 = va.toNat) ∧
      (∀ x, x < entry ∨ entry + 32 ≤ x → byteAt t x = byteAt s x) ∧ t.dbg.trhead = s.dbg.trhead + 1 ∧ t.dbg.trWait = []) ∧
    (size ≤ (s.dbg.trhead - s.dbg.trtail).toNat →
      memoryKept s t ∧ t.dbg.trhead = s.dbg.trhead ∧ t.dbg.trWait.map (·.1) = [w.team.teamId])

/-- R257: with DMPCTL.EN = 1 an error trap writes an ELF64 little-endian core image for e_machine 0x5932 at DMPBASE, up to
DMPSIZE; for a sole team of its ASID the header after the note's names its scratchpad's window address and its team. DMPSTAT
takes its DONE bit, memory outside the image's room stays, and every team of the ASID ends while the others stay. Reports are
off here, no copy is in hand, and the launches have the ASIDs of their teams. Where the rules leave room it follows log entries
44 and 104, the model's reading. -/
def Says.CoreImage : Prop :=
  ∀ (s : State) (w : Who) (cls : TrapClass) (va : Word64), issuer s = some w → cls ≠ .cancelled →
    s.dbg.trctl.toNat % 2 = 0 → s.dbg.dmpctl.toNat % 2 = 1 → s.eng.copies = [] → s.mem.wf = true → AMap.rising s.teams = true →
    AMap.rising s.sched.launches = true →
    (∀ k tm, s.team k = some tm → (tm.teamId = w.team.teamId → k = w.key) ∧ ∀ l, s.launch tm.launch = some l → l.asid = tm.asid) →
    1 ≤ s.dbg.dmpsize.toNat → s.rangeLeased s.dbg.dmpbase.toNat (s.dbg.dmpsize.toNat * 0x10000) = false →
    let t := trapScalar s w cls va
    let at_ := fun (off n : Nat) => ofBytes ((List.range n).map (fun i => byteAt t (s.dbg.dmpbase.toNat + off + i)))
    at_ 0 4 = 0x464C457F ∧ at_ 4 2 = 0x0102 ∧ at_ 16 2 = 4 ∧ at_ 18 2 = 0x5932 ∧ t.dbg.dmpstat.toNat / 2 ^ 33 % 2 = 1 ∧
      (s.teams = [(w.key, w.team)] → s.sched.saved = [] → at_ 120 4 = 1 ∧ at_ 136 8 = (6 * 2 ^ 60 + w.team.tidx * 2 ^ 22) % 2 ^ 64 ∧
        at_ 144 8 = w.team.teamId.toNat) ∧
      (∀ x, x < s.dbg.dmpbase.toNat ∨ s.dbg.dmpbase.toNat + s.dbg.dmpsize.toNat * 0x10000 ≤ x → byteAt t x = byteAt s x) ∧
      ∀ k tm, s.team k = some tm → t.team k = if tm.asid = w.team.asid then none else some tm

/-- R379: RINGADV reads the ring object at sa and completes with n mod SIZE in sd when n + WIN is at most FRONT + SIZE;
otherwise it waits. An object whose SIZE or WIN is out of range traps RESERVED_FIELD. Sums that pass 2^64 are the model's
reading and are left out here. Where the rules leave room it follows log entries 45 and 72, the model's reading. -/
def Says.RingAdvance : Prop :=
  ∀ (s s1 : State) (w : Who) (sd sa sb : Reg6) (k o : Nat) (tm : Team), scalarReady s w [sd, sa, sb] →
    spaceOf (w.path.s sa) = 6 → reaches s w (ringAcc (w.path.s sa)) (.scratch k o) s1 → s.team k = some tm →
    let n := (w.path.s sb).toNat
    let front := ofBytes ((List.range 8).map (fun i => Tab.get 0 tm.scratch (o + i)))
    let size := ofBytes ((List.range 4).map (fun i => Tab.get 0 tm.scratch (o + 8 + i)))
    let win := ofBytes ((List.range 4).map (fun i => Tab.get 0 tm.scratch (o + 12 + i)))
    (size = 0 ∨ 2 ^ 24 < size ∨ win = 0 ∨ size < win →
      ∃ s2 b q, exec (.ringadv sd sa sb) s = .next (trapScalar s2 w .reservedField) ∧ memoryKept s s2 ∧
        (∀ k, k ≠ w.key → s2.team k = s.team k) ∧ s2.team w.key = some b ∧ { b with paths := w.team.paths } = w.team ∧
        s2.path w.key w.pi = some q ∧ { q with pts := w.path.pts } = w.path ∧ s2.dbg = s.dbg ∧ s2.sched = s.sched) ∧
    (n + win < 2 ^ 64 → front + size < 2 ^ 64 →
    (1 ≤ size → size ≤ 2 ^ 24 → 1 ≤ win → win ≤ size → n + win ≤ front + size →
      ∃ t q, exec (.ringadv sd sa sb) s = .next t ∧ memoryKept s t ∧ t.path w.key w.pi = some q ∧
        q.spc = w.path.spc + 4 ∧ ∀ r, q.s r = if r = sd ∧ r ≠ 0 then .ofNat 64 (n % size) else w.path.s r) ∧
    (1 ≤ size → size ≤ 2 ^ 24 → 1 ≤ win → win ≤ size → front + size < n + win →
      ∃ t q, exec (.ringadv sd sa sb) s = .next t ∧ memoryKept s t ∧ t.path w.key w.pi = some q ∧
        q.spc = w.path.spc ∧ q.wait = some .ringadv ∧ q.sregs = w.path.sregs))

/-! ## Token trees -/

/-- A tree instruction can perform: outside a handler, with KVCTL.EN set, and with nothing for its release to wait for. -/
def treeReady (s : State) (w : Who) : Prop :=
  w.team.handler = none ∧ s.kv.kvctl.toNat % 2 = 1 ∧ s.inFlight w false = [] ∧ s.commitBlocked w.key = false

/-- The slot is open, and the team may reach it (R373). -/
def slotOpenTo (s : State) (w : Who) (slot : Nat) : Prop :=
  (s.slot slot).state = 1 ∧ ((s.slot slot).asid = w.team.asid ∨ w.team.asid = 0)

/-- The slot is open to the team, and no operation that has passed its checks holds it (R159, R373). -/
def slotReached (s : State) (w : Who) (slot : Nat) : Prop := slotOpenTo s w slot ∧ s.claimed slot w.claim = false

/-- A handle of a slot, a node and a count (R372). -/
def handleOf (h : Word64) (slot node km1 : Nat) : Prop :=
  h.toNat = node + slot * 2 ^ 8 + km1 * 2 ^ 20 ∧ node < 256 ∧ slot < 4096 ∧ km1 < 4096

/-- The issuing path goes on at next with `sd` holding `v`. -/
def goesOnWith (t : State) (w : Who) (sd : Reg6) (v : Word64) : Prop :=
  ∃ q, t.path w.key w.pi = some q ∧ q.spc = w.path.spc + 4 ∧ q.wait = none ∧ q.mask = w.path.mask ∧
    ∀ r, q.s r = if r = sd ∧ r ≠ 0 then v else w.path.s r

/-- R142, R144, R374: TNOPEN opens a free slot with the next generation and a live, empty trunk, and returns that generation.
TNFORK makes a free node live, empty, starting where its parent ends, with its parent's ancestors and itself. TNAPPEND makes a
live node without live children longer by the identifiers it reads, and returns the new end; the node's other fields, the other
nodes and the other slots stay. Where the rules leave room it follows log entries 15, 35 and 134, the model's reading. -/
def Says.TreeGrowth : Prop :=
  (∀ (s : State) (w : Who) (sd sa sb : Reg6) (slot : Nat), scalarReady s w [sd, sa, sb] → treeReady s w →
    handleOf (w.path.s sa) slot 0 0 → (s.slot slot).state = 0 → s.claimed slot w.claim = false →
    (s.dev.svc = 1 → slot % 2 = 0) →
    let npl := (w.path.s sb).toNat % 256
    let rlog2 := (w.path.s sb).toNat / 256
    1 ≤ npl → npl ≤ 254 → 8 ≤ rlog2 → rlog2 ≤ 14 →
    ∃ t, exec (.tnopen sd sa sb) s = .next t ∧ goesOnWith t w sd (.ofNat 64 ((s.slot slot).gen + 1).toNat) ∧
      (t.slot slot).state = 1 ∧ (t.slot slot).gen = (s.slot slot).gen + 1 ∧ (t.slot slot).npl = npl ∧
      (t.slot slot).rlog2 = rlog2 ∧
      (t.slot slot).asid = (if w.team.asid = 0 then w.team.tnasid.toNat else w.team.asid) ∧
      ((t.slot slot).node 0).state = 1 ∧ ((t.slot slot).node 0).len = 0 ∧
      (∀ n, n ≠ 0 → ((t.slot slot).node n).state = 0) ∧ ∀ j, j ≠ slot → t.slot j = s.slot j) ∧
  (∀ (s : State) (w : Who) (sa sb : Reg6) (slot p : Nat), scalarReady s w [sa, sb] → treeReady s w →
    handleOf (w.path.s sa) slot p 0 → slotReached s w slot → s.kv.free (slot % 2) ≠ [] →
    let c := (w.path.s sb).toNat
    1 ≤ c → c < 256 → ((s.slot slot).node c).state = 0 → ((s.slot slot).node p).state = 1 →
    ∃ t, exec (.tnfork 0 sa sb) s = .next t ∧ goesOnWith t w 0 0 ∧
      ((t.slot slot).node c).state = 1 ∧ ((t.slot slot).node c).len = 0 ∧ ((t.slot slot).node c).parent = p ∧
      ((t.slot slot).node c).start = ((s.slot slot).node p).start + ((s.slot slot).node p).len ∧
      ((t.slot slot).node c).anc = ((s.slot slot).node p).anc ||| BitVec.twoPow 256 c ∧
      (∀ n, n ≠ c → (t.slot slot).node n = (s.slot slot).node n) ∧ ∀ j, j ≠ slot → t.slot j = s.slot j) ∧
  (∀ (s s1 s2 s3 : State) (w : Who) (sd sa sb : Reg6) (slot n km1 : Nat) (ts : List (BitVec 32)) (v2 v3 : Word64),
    scalarReady s w [sd, sa, sb] → treeReady s w → handleOf (w.path.s sa) slot n km1 → slotReached s w slot →
    (w.path.s sb).toNat / 2 ^ 60 ∈ [0, 6] → (w.path.s sb).toNat % 4 = 0 → appendCheck s slot n (km1 + 1) = true →
    s.dbg.attached ≠ some (.ofNat 12 w.team.asid) →
    readTokens w (w.path.s sb) 0 (km1 + 1) s = .tokens s1 ts → s1.inFlight w false = [] → s1.commitBlocked w.key = false →
    s1.treeAppend slot n ts w.path.pts w.path.pts = .done s2 v2 →
    (∀ p, (s1.commitRelease w.key w.pi).path w.key w.pi = some p →
      (s1.commitRelease w.key w.pi).treeAppend slot n ts p.pts p.pts = .done s3 v3) →
    let nd := (s.slot slot).node n
    ∃ t, exec (.tnappend sd sa sb) s = .next t ∧ goesOnWith t w sd v3 ∧ t.kv = (s3.unclaim slot).kv ∧ t.mem = s3.mem ∧
      v3 = .ofNat 64 (nd.start + nd.len + ts.length) ∧ ts.length = km1 + 1 ∧
      ((t.slot slot).node n).len = nd.len + (km1 + 1) ∧ ((t.slot slot).node n).start = nd.start ∧
      ((t.slot slot).node n).state = nd.state ∧ ((t.slot slot).node n).parent = nd.parent ∧ ((t.slot slot).node n).anc = nd.anc ∧
      (∀ m, m ≠ n → (t.slot slot).node m = (s.slot slot).node m) ∧ ∀ j, j ≠ slot → t.slot j = s.slot j)

/-- The addresses of the 64-byte entries of a slot, its nodes and their map blocks in the KV region (R140, R142, R143, R146). -/
def slotImage (s : State) (slot : Nat) : List Nat :=
  (s.kv.kvbase.toNat + slot * 64) :: (s.slot slot).nodes.flatMap (fun e =>
    (s.kv.kvbase.toNat + 0x80000 + slot * 0x4000 + e.1 * 64) :: e.2.blocks)

/-- R144, R145, R374: TNAPPEND of identifiers that one block takes, whose frame the node's map names and no other node shares,
returns START + LEN afterwards; LEN grows by their number, and identifier i stands at position START + LEN + i of plane 255. The
node's other fields, the other nodes and the other slots stay. The frame holds nothing of the slot's image. Where the rules
leave room it follows log entries 15, 35 and 134, the model's reading. -/
def Says.TokensAppended : Prop :=
  ∀ (s s1 : State) (w : Who) (sd sa sb : Reg6) (slot n km1 f : Nat) (ts : List (BitVec 32)),
    scalarReady s w [sd, sa, sb] → treeReady s w → handleOf (w.path.s sa) slot n km1 → slotReached s w slot →
    (w.path.s sb).toNat / 2 ^ 60 ∈ [0, 6] → (w.path.s sb).toNat % 4 = 0 → s.dbg.attached ≠ some (.ofNat 12 w.team.asid) →
    let nd := (s.slot slot).node n
    nd.state = 1 → (s.slot slot).liveChild n = false → nd.start + nd.len + (km1 + 1) ≤ 2 ^ 18 - 1 →
    (nd.start + nd.len) / 2 ^ 14 = (nd.start + nd.len + km1) / 2 ^ 14 →
    mapFind nd.map 255 ((nd.start + nd.len) / 2 ^ 14) = some f → s.kv.refc f ≤ 1 → s.kv.rb f = false →
    (∀ a ∈ slotImage s slot, a + 64 ≤ f * 0x10000 ∨ (f + 1) * 0x10000 ≤ a) →
    readTokens w (w.path.s sb) 0 (km1 + 1) s = .tokens s1 ts → s1.mem.wf = true → s1.fab.held = [] →
    (∀ i ≤ km1, s1.leaseBlocked (f * 0x10000 + (nd.start + nd.len + i) % 2 ^ 14 * 4) = false) →
    s1.inFlight w false = [] → s1.commitBlocked w.key = false →
    ∃ t, exec (.tnappend sd sa sb) s = .next t ∧ goesOnWith t w sd (.ofNat 64 (nd.start + nd.len + (km1 + 1))) ∧
      ((t.slot slot).node n).len = nd.len + (km1 + 1) ∧
      { (t.slot slot).node n with len := nd.len } = nd ∧
      (∀ m, m ≠ n → (t.slot slot).node m = (s.slot slot).node m) ∧ (∀ j, j ≠ slot → t.slot j = s.slot j) ∧
      ts.length = km1 + 1 ∧ ∀ i ≤ km1, t.readPa (f * 0x10000 + (nd.start + nd.len + i) % 2 ^ 14 * 4) 4 = toBytes 4 (ts.getD i 0).toNat

/-- R156, R157, R153, R374: TNPRUNE makes the live nodes below a node dead, itself among them. TNCOMMIT makes the trunk end
where the node ended, frees the other nodes of its path and makes every other live node dead. TNRETIRE frees a slot whose frames
no lock holds; it keeps its generation. Here no path holds an access on a node that these end; one that does traps KV_UNMAPPED
(HeldAccessesOfNodes). Where the rules leave room it follows log entries 28, 33, 34 and 134, the model's reading. -/
def Says.TreeEnds : Prop :=
  (∀ (s : State) (w : Who) (sa : Reg6) (slot n : Nat), scalarReady s w [sa] → treeReady s w →
    handleOf (w.path.s sa) slot n 0 → slotReached s w slot → n ≠ 0 → ((s.slot slot).node n).state = 1 →
    w.team.binding = none → AMap.rising s.teams = true →
    (∀ tm ∈ s.teams.map (·.2) ++ s.savedTeams,
      tm.heldOn slot (fun m => ((s.slot slot).node m).anc.getLsbD n && ((s.slot slot).node m).state == 1) = []) →
    ∃ t, exec (.tnprune 0 sa 0) s = .next t ∧ goesOnWith t w 0 0 ∧
      (∀ m, ((t.slot slot).node m).state =
        if ((s.slot slot).node m).state = 1 ∧ ((s.slot slot).node m).anc.getLsbD n = true then 2
        else ((s.slot slot).node m).state) ∧
      (∀ j, j ≠ slot → t.slot j = s.slot j) ∧
      ∀ k tm m, s.team k = some tm → tm.binding = some (slot, m) → ((s.slot slot).node m).state = 1 →
        ((s.slot slot).node m).anc.getLsbD n = true → t.team k = none) ∧
  (∀ (s : State) (w : Who) (sa : Reg6) (slot n : Nat), scalarReady s w [sa] → treeReady s w →
    handleOf (w.path.s sa) slot n 0 → slotReached s w slot → n ≠ 0 → ((s.slot slot).node n).state = 1 →
    w.team.binding = none → s.kv.free (slot % 2) ≠ [] →
    let path := pathTo (s.slot slot) 256 n
    s.rebindBlocked slot path = false →
    (∀ tm ∈ s.teams.map (·.2) ++ s.savedTeams, tm.heldOn slot (commitPrunes (s.slot slot) n) = []) →
    ∃ t, exec (.tncommit 0 sa 0) s = .next t ∧ goesOnWith t w 0 0 ∧
      ((t.slot slot).node 0).len = ((s.slot slot).node n).start + ((s.slot slot).node n).len ∧
      ((t.slot slot).node 0).start = 0 ∧
      ∀ m, m ≠ 0 → ((t.slot slot).node m).state =
        if m ∈ path then 0 else if ((s.slot slot).node m).state = 1 then 2 else ((s.slot slot).node m).state) ∧
  ∀ (s : State) (w : Who) (sa : Reg6) (slot : Nat), scalarReady s w [sa] → treeReady s w →
    (∀ g, w.path.wait ≠ some (.retiring g)) →
    handleOf (w.path.s sa) slot 0 0 → slotReached s w slot → w.team.binding = none → s.eng.locks = [] →
    (∀ tm ∈ s.teams.map (·.2) ++ s.savedTeams, tm.heldOn slot (fun _ => true) = []) →
    ∃ t, exec (.tnretire 0 sa 0) s = .next t ∧ goesOnWith t w 0 0 ∧ (t.slot slot).state = 0 ∧
      (t.slot slot).gen = (s.slot slot).gen ∧ (t.slot slot).mapFrames = [] ∧ ∀ j, j ≠ slot → t.slot j = s.slot j

/-- R156, R158: an access that a path holds on a node of a subtree that TNPRUNE makes dead, or of a slot that TNRETIRE retires,
traps KV_UNMAPPED, and its team is gone. Reports and dumps are off here, and the holder is another team with no copy in hand.
Where the rules leave room it follows log entries 33, 34 and 134, the model's reading. -/
def Says.HeldAccessesOfNodes : Prop :=
  ∀ (s : State) (w : Who) (sa : Reg6) (slot n k : Nat) (tm : Team), scalarReady s w [sa] → treeReady s w →
    slotReached s w slot → w.team.binding = none → AMap.rising s.teams = true → s.dbg.dmpctl.toNat % 2 = 0 →
    s.dbg.trctl.toNat % 2 = 0 → s.eng.copies = [] → k ≠ w.key → s.team k = some tm →
    (handleOf (w.path.s sa) slot n 0 → n ≠ 0 → ((s.slot slot).node n).state = 1 →
      tm.heldOn slot (fun m => ((s.slot slot).node m).anc.getLsbD n && ((s.slot slot).node m).state == 1) ≠ [] →
      ∃ t, exec (.tnprune 0 sa 0) s = .next t ∧ t.team k = none) ∧
    (handleOf (w.path.s sa) slot 0 0 → (∀ g, w.path.wait ≠ some (.retiring g)) → tm.heldOn slot (fun _ => true) ≠ [] →
      ∃ t, exec (.tnretire 0 sa 0) s = .next t ∧ t.team k = none)

/-- R155, R374, R377: TNBIND binds the team to a live node, and with bit 63 alone unbinds it. TNSTAT reads the node's state,
length, start and parent and the slot's state. TNTOK reads a token identifier from plane 255. Where the rules leave room it
follows log entries 35 and 36, the model's reading. -/
def Says.TreeReads : Prop :=
  (∀ (s : State) (w : Who) (sa : Reg6) (slot n : Nat), scalarReady s w [sa] → treeReady s w →
    handleOf (w.path.s sa) slot n 0 → slotReached s w slot → ((s.slot slot).node n).state = 1 →
    s.bindings (slot % 2) < 16384 →
    ∃ t b, exec (.tnbind 0 sa 0) s = .next t ∧ goesOnWith t w 0 0 ∧ t.team w.key = some b ∧ b.binding = some (slot, n)) ∧
  (∀ (s : State) (w : Who) (sa : Reg6), scalarReady s w [sa] → w.team.handler = none → s.inFlight w false = [] →
    s.commitBlocked w.key = false → (w.path.s sa).toNat = 2 ^ 63 →
    (∀ k n, w.team.binding = some (k, n) → s.claimed k w.claim = false) →
    ∃ t b, exec (.tnbind 0 sa 0) s = .next t ∧ goesOnWith t w 0 0 ∧ t.team w.key = some b ∧ b.binding = none) ∧
  (∀ (s : State) (w : Who) (sd sa : Reg6) (slot n : Nat), scalarReady s w [sd, sa] →
    w.team.handler = none → s.kv.kvctl.toNat % 2 = 1 → handleOf (w.path.s sa) slot n 0 → slotReached s w slot →
    let k := s.slot slot
    ((k.node n).parent < 2 ^ 8 ∧ (k.node n).start < 2 ^ 18 ∧ (k.node n).len < 2 ^ 18 ∧ (k.node n).state < 4) →
    ∃ t v, exec (.tnstat sd sa 0) s = .next t ∧ goesOnWith t w sd v ∧ memoryKept s t ∧ t.kv = s.kv ∧
      v.toNat % 2 ^ 18 = (k.node n).parent ∧ v.toNat / 2 ^ 18 % 2 ^ 18 = (k.node n).start ∧
      v.toNat / 2 ^ 36 % 2 ^ 24 = (k.node n).len ∧ v.toNat / 2 ^ 60 % 4 = 1 ∧ v.toNat / 2 ^ 62 = (k.node n).state) ∧
  (∀ (s s1 : State) (w : Who) (sd sa sb : Reg6) (slot n : Nat) (tg : Target) (b : List Byte),
    scalarReady s w [sd, sa, sb] → w.team.handler = none → s.kv.kvctl.toNat % 2 = 1 →
    handleOf (w.path.s sa) slot n 0 → slotReached s w slot →
    let pos := (w.path.s sb).toNat
    let a : Acc := { kind := .load, addr := .ofNat 64 (5 * 2 ^ 60 + 255 * 2 ^ 52 + slot * 2 ^ 40 + n * 2 ^ 32 + pos * 2 ^ 14),
                     size := 4, ord := 1, scope := 2, strong := true, hint := 0, lane := none, uniform := false,
                     tableOk := false }
    pos < 2 ^ 18 → reaches s w a tg s1 → loadFinds s1 w a tg = some b →
    ∃ t, exec (.tntok sd sa sb) s = .next t ∧ memoryKept s1 t ∧ goesOnWith t w sd (.ofNat 64 (ofBytes b)))

/-- R374, R380, R248: in a handler, the tree instructions, SPLIT, JOIN, SPAWN and END trap RESERVED_FIELD. Where the rules leave
room it follows log entry 35, the model's reading. -/
def Says.HandlerRefusals : Prop :=
  ∀ (s : State) (w : Who) (sa : Reg6) (pn : BitVec 3) (t j : BitVec 11), scalarReady s w [sa, 0, 1, 2, 3, 4] →
    w.team.handler.isSome = true →
    ∀ i ∈ [Instr.tnopen 0 sa 0, .tnfork 0 sa 0, .tnappend 0 sa 0, .tnprune 0 sa 0, .tncommit 0 sa 0, .tnretire 0 sa 0,
      .tnbind 0 sa 0, .tnstat 0 sa 0, .tntok 0 sa 0, .split pn t j, .join 0 0 0, .spawn 0 sa 0, .endPath 0 0 0],
      exec i s = .next (trapScalar s w .reservedField)

/-! ## Lane arithmetic -/

/-- An element of a register or pair as an integer, by its type: i8, i16, i32 and i64 are signed (R204). -/
def elemInt (ty x e : Nat) : Int :=
  if ty = 0 ∨ ty = 2 ∨ ty = 10 ∨ ty = 12 then toSigned (elemBits ty) (elemAt ty x e) else (elemAt ty x e : Nat)

/-- A register or pair whose elements are computed one by one, modulo 2 to the element's width. -/
def eachElem (ty : Nat) (g : Nat → Int) : Nat :=
  packElems ty ((List.range (packCount ty)).map (fun e => (g e % ((2 ^ elemBits ty : Nat) : Int)).toNat))

/-- The integer limits of a type. -/
def lowest (ty : Nat) : Int := if ty = 0 ∨ ty = 2 ∨ ty = 10 ∨ ty = 12 then -(2 ^ (elemBits ty - 1) : Nat) else 0
def highest (ty : Nat) : Int :=
  if ty = 0 ∨ ty = 2 ∨ ty = 10 ∨ ty = 12 then (2 ^ (elemBits ty - 1) : Nat) - 1 else (2 ^ elemBits ty : Nat) - 1

/-- The integer types, with b32, and the 32-bit and 64-bit ones (R289). -/
def intTypes : List Nat := [0, 1, 2, 3, 10, 11, 12, 13]
def bitTypes : List Nat := intTypes ++ [14]
def wideTypes : List Nat := [0, 1, 2, 3, 14]

/-- The two-operand integer lane instructions (R318) with their types and the exact result of an element. -/
def laneTwo : List ((LaneFields → Instr) × (Nat → Int → Int → Int)) :=
  [(.vadd, fun _ a b => a + b), (.vsub, fun _ a b => a - b), (.vmul, fun _ a b => a * b),
   (.vmulh, fun ty a b => a * b / ((2 ^ elemBits ty : Nat) : Int)),
   (.vdiv, fun _ a b => if b = 0 then -1 else a.tdiv b), (.vrem, fun _ a b => if b = 0 then a else a.tmod b),
   (.vmin, fun _ a b => if a ≤ b then a else b), (.vmax, fun _ a b => if a ≤ b then b else a),
   (.vadds, fun ty a b => max (lowest ty) (min (highest ty) (a + b))),
   (.vsubs, fun ty a b => max (lowest ty) (min (highest ty) (a - b)))]

/-- R316, R318, R319: an integer lane instruction writes each element of vd in the active lanes, from the elements of va, b and,
for VMAD, vc before it; no other register changes, and the clause goes on. -/
def Says.LaneInteger : Prop :=
  (∀ e ∈ laneTwo, ∀ (s : State) (f : LaneFields) (x : LaneCtx), laneReady s f (arithSpec intTypes true false 0) x →
    Tab.wf 0 x.w.team.vregs = true → ∃ t b, exec (e.1 f) s = .next t ∧ laneCompletes s t x b ∧
      lanesHold b x.w.team x.lanes f.vd.toNat (regsOf x.ty) (fun l => eachElem x.ty (fun i =>
        e.2 x.ty (elemInt x.ty (x.w.team.rd x.ty l f.va.toNat) i) (elemInt x.ty (x.b x.ty l) i)))) ∧
  (∀ e ∈ [(Instr.vabs, fun a : Int => if a < 0 then -a else a), (Instr.vneg, fun a : Int => -a)],
    ∀ (s : State) (f : LaneFields) (x : LaneCtx), laneReady s f (arithSpec [0, 2, 10, 12] false false 0) x →
    Tab.wf 0 x.w.team.vregs = true → ∃ t b, exec (e.1 f) s = .next t ∧ laneCompletes s t x b ∧
      lanesHold b x.w.team x.lanes f.vd.toNat (regsOf x.ty) (fun l => eachElem x.ty (fun i =>
        e.2 (elemInt x.ty (x.w.team.rd x.ty l f.va.toNat) i)))) ∧
  ∀ (s : State) (f : LaneFields) (x : LaneCtx), laneReady s f (arithSpec intTypes true true 0) x →
    Tab.wf 0 x.w.team.vregs = true → ∃ t b, exec (.vmad f) s = .next t ∧ laneCompletes s t x b ∧
      lanesHold b x.w.team x.lanes f.vd.toNat (regsOf x.ty) (fun l => eachElem x.ty (fun i =>
        elemInt x.ty (x.w.team.rd x.ty l f.va.toNat) i * elemInt x.ty (x.b x.ty l) i +
          elemInt x.ty (x.w.team.rd x.ty l f.vc.toNat) i))

/-- The two-operand bit instructions (R320, R321) with their types and the result of an element, from the element's codes. -/
def laneBitTwo : List ((LaneFields → Instr) × List Nat × (Nat → Nat → Nat → Int)) :=
  [(.vand, bitTypes, fun _ a b => ((a &&& b : Nat) : Int)), (.vor, bitTypes, fun _ a b => ((a ||| b : Nat) : Int)),
   (.vxor, bitTypes, fun _ a b => ((a ^^^ b : Nat) : Int)),
   (.vandn, bitTypes, fun ty a b => ((a &&& (2 ^ elemBits ty - 1 - b) : Nat) : Int)),
   (.vshl, bitTypes, fun ty a b => ((a * 2 ^ (b % elemBits ty) : Nat) : Int)),
   (.vshr, bitTypes, fun ty a b =>
     (if ty = 0 ∨ ty = 2 ∨ ty = 10 ∨ ty = 12 then toSigned (elemBits ty) a else (a : Int)) / ((2 ^ (b % elemBits ty) : Nat) : Int)),
   (.vrol, bitTypes, fun ty a b =>
     ((a * 2 ^ (b % elemBits ty) + a / 2 ^ (elemBits ty - b % elemBits ty) : Nat) : Int)),
   (.vbfx, wideTypes, fun ty a b =>
     if b / 64 % 128 = 0 ∨ elemBits ty < b % 64 + b / 64 % 128 then 0
     else if ty = 0 ∨ ty = 2 then toSigned (b / 64 % 128) (a / 2 ^ (b % 64))
     else ((a / 2 ^ (b % 64) % 2 ^ (b / 64 % 128) : Nat) : Int))]

/-- The one-operand bit instructions (R320) in the same way. -/
def laneBitOne : List ((LaneFields → Instr) × List Nat × (Nat → Nat → Nat)) :=
  [(.vnot, bitTypes, fun ty a => 2 ^ elemBits ty - 1 - a),
   (.vclz, wideTypes, fun ty a => if a = 0 then elemBits ty else elemBits ty - 1 - Nat.log2 a),
   (.vpopc, wideTypes, fun ty a => ((List.range (elemBits ty)).map (fun i => a / 2 ^ i % 2)).sum),
   (.vbrev, wideTypes, fun ty a => ((List.range (elemBits ty)).map (fun i => a / 2 ^ i % 2 * 2 ^ (elemBits ty - 1 - i))).sum)]

/-- R320, R321: a bit instruction writes each element of vd in the active lanes from the elements of va and b; no other
register changes. -/
def Says.LaneBits : Prop :=
  (∀ e ∈ laneBitTwo, ∀ (s : State) (f : LaneFields) (x : LaneCtx), laneReady s f (arithSpec e.2.1 true false 0) x →
    Tab.wf 0 x.w.team.vregs = true → ∃ t b, exec (e.1 f) s = .next t ∧ laneCompletes s t x b ∧
      lanesHold b x.w.team x.lanes f.vd.toNat (regsOf x.ty) (fun l => eachElem x.ty (fun i =>
        e.2.2 x.ty (elemAt x.ty (x.w.team.rd x.ty l f.va.toNat) i) (elemAt x.ty (x.b x.ty l) i)))) ∧
  ∀ e ∈ laneBitOne, ∀ (s : State) (f : LaneFields) (x : LaneCtx), laneReady s f (arithSpec e.2.1 false false 0) x →
    Tab.wf 0 x.w.team.vregs = true → ∃ t b, exec (e.1 f) s = .next t ∧ laneCompletes s t x b ∧
      lanesHold b x.w.team x.lanes f.vd.toNat (regsOf x.ty) (fun l => eachElem x.ty (fun i =>
        (e.2.2 x.ty (elemAt x.ty (x.w.team.rd x.ty l f.va.toNat) i) : Int)))

/-- What VMOV and VSEL ask of their words (R322). -/
def movSpec (x : LaneCtx) : LaneSpec :=
  { arithSpec clsAll true false 0 x with
    reserved := modRefused x.f 0 || x.f.va != 0 || x.f.vc != 0 || bRefused x.f x.ty,
    groups := group x.ty x.f.vd 1 true :: bGroups x x.ty 1 }
def selSpec (x : LaneCtx) : LaneSpec :=
  { arithSpec clsAll true false 0 x with
    reserved := modRefused x.f 0 || field x.f.vc 3 5 != 0 || bRefused x.f x.ty }

/-- R322: VMOV copies b to vd, and VSEL takes va where the predicate in vc is true and b elsewhere, in the active lanes. -/
def Says.LaneMoves : Prop :=
  (∀ (s : State) (f : LaneFields) (x : LaneCtx), laneReady s f movSpec x → Tab.wf 0 x.w.team.vregs = true →
    ∃ t b, exec (.vmov f) s = .next t ∧ laneCompletes s t x b ∧
      lanesHold b x.w.team x.lanes f.vd.toNat (regsOf x.ty) (x.b x.ty)) ∧
  ∀ (s : State) (f : LaneFields) (x : LaneCtx), laneReady s f selSpec x → Tab.wf 0 x.w.team.vregs = true →
    ∃ t b, exec (.vsel f) s = .next t ∧ laneCompletes s t x b ∧
      lanesHold b x.w.team x.lanes f.vd.toNat (regsOf x.ty) (fun l =>
        if x.w.team.p l (f.vc.toNat % 8) = true then x.w.team.rd x.ty l f.va.toNat else x.b x.ty l)

/-- The integer compares (R323) with their tests. -/
def intCompares : List ((LaneFields → Instr) × (Int → Int → Bool)) :=
  [(.vcmpeq, fun a b => decide (a = b)), (.vcmpne, fun a b => decide (a ≠ b)), (.vcmplt, fun a b => decide (a < b)),
   (.vcmple, fun a b => decide (a ≤ b)), (.vcmpgt, fun a b => decide (a > b)), (.vcmpge, fun a b => decide (a ≥ b))]

/-- The floating compares (R323) with their tests on the order of two numbers; a NaN has none. -/
def floatCompares : List ((LaneFields → Instr) × (Option Ordering → Bool)) :=
  [(.vfcmpeq, fun o => o = some .eq), (.vfcmpne, fun o => o ≠ some .eq), (.vfcmplt, fun o => o = some .lt),
   (.vfcmple, fun o => o = some .lt ∨ o = some .eq), (.vfcmpgt, fun o => o = some .gt),
   (.vfcmpge, fun o => o = some .gt ∨ o = some .eq)]

/-- The predicate after a compare, by C: the test, or the old value AND or OR the test (R324). -/
def combined (c : Nat) (old new : Bool) : Bool :=
  match c with
  | 0 => new
  | 1 => old && new
  | _ => old || new

/-- R323, R324: a compare writes its predicate in the active lanes from element E of va and b, as C says; p0 takes nothing, and
no other register changes. -/
def Says.LaneCompares : Prop :=
  (∀ e ∈ intCompares, ∀ (s : State) (f : LaneFields) (x : LaneCtx), laneReady s f (compareSpec intTypes) x →
    Tab.wf false x.w.team.pregs = true →
    let i := f.md.toNat % 4
    ∃ t b, exec (e.1 f) s = .next t ∧ laneCompletes s t x b ∧
      lanesPredicate b x.w.team x.lanes (f.vd.toNat % 8) (fun l =>
        combined (f.md.toNat / 4 % 4) (x.w.team.p l (f.vd.toNat % 8))
          (e.2 (elemInt x.ty (x.w.team.rd x.ty l f.va.toNat) i) (elemInt x.ty (x.b x.ty l) i)))) ∧
  ∀ e ∈ floatCompares, ∀ (s : State) (f : LaneFields) (x : LaneCtx), laneReady s f (compareSpec clsFt) x →
    Tab.wf false x.w.team.pregs = true →
    let i := f.md.toNat % 4
    ∃ t b, exec (e.1 f) s = .next t ∧ laneCompletes s t x b ∧
      lanesPredicate b x.w.team x.lanes (f.vd.toNat % 8) (fun l =>
        combined (f.md.toNat / 4 % 4) (x.w.team.p l (f.vd.toNat % 8))
          (e.2 (FNum.cmp (decodeElem x.ty (elemAt x.ty (x.w.team.rd x.ty l f.va.toNat) i))
            (decodeElem x.ty (elemAt x.ty (x.b x.ty l) i)))))

/-- The floating instructions that round (R325): their types, whether they read b and vc, and the exact result of an element,
given whether RM is RD. -/
def laneRounded : List ((LaneFields → Instr) × List Nat × Bool × Bool × (Bool → FNum → FNum → FNum → FNum)) :=
  [(.vfadd, [4, 5, 6, 7], true, false, fun rd a b _ => FNum.add rd a b),
   (.vfsub, [4, 5, 6, 7], true, false, fun rd a b _ => FNum.add rd a b.neg),
   (.vfmul, [4, 5, 6, 7], true, false, fun _ a b _ => FNum.mul a b),
   (.vfma, [4, 5, 6, 7], true, true, fun rd a b c => FNum.add rd (FNum.mul a b) c),
   (.vfdiv, [4, 5, 6, 7], true, false, fun _ a b _ => FNum.div a b),
   (.vfsqrt, [4, 5, 6, 7], false, false, fun _ a _ _ => FNum.sqrt a),
   (.vfrsq, [4], false, false, fun _ a _ _ => FNum.rsqrt a),
   (.vfexp2, [4], false, false, fun _ a _ _ => FNum.exp2 a),
   (.vflog2, [4], false, false, fun _ a _ _ => FNum.log2 a)]

/-- The exact operands of an element. -/
def operandA (x : LaneCtx) (e l : Nat) : FNum := decodeElem x.ty (elemAt x.ty (x.w.team.rd x.ty l x.f.va.toNat) e)
def operandB (x : LaneCtx) (e l : Nat) : FNum := decodeElem x.ty (elemAt x.ty (x.b x.ty l) e)
def operandC (x : LaneCtx) (e l : Nat) : FNum := decodeElem x.ty (elemAt x.ty (x.w.team.rd x.ty l x.f.vc.toNat) e)

/-- R325, R214: a floating instruction rounds the exact result of each element once, in RM and SAT of the clause's `fmt`, and
writes vd in the active lanes; no other register changes. Here RM is not stochastic. Where the rules leave room it follows log
entry 71, the model's reading. -/
def Says.LaneFloat : Prop :=
  ∀ e ∈ laneRounded, ∀ (s : State) (f : LaneFields) (x : LaneCtx),
    laneReady s f (arithSpec e.2.1 e.2.2.1 e.2.2.2.1 0) x → Tab.wf 0 x.w.team.vregs = true →
    let c := convOf x.c.fmt
    c.rm ≠ .stochastic → ∃ t b, exec (e.1 f) s = .next t ∧ laneCompletes s t x b ∧
      lanesHold b x.w.team x.lanes f.vd.toNat (regsOf x.ty) (fun l =>
        packElems x.ty ((List.range (packCount x.ty)).map (fun i => roundFloat x.ty c 0
          (e.2.2.2.2 (decide (c.rm = .rd)) (operandA x i l)
            (if e.2.2.1 then operandB x i l else .zero false) (if e.2.2.2.1 then operandC x i l else .zero false)))))

/-- R326, R327, R328: VFMIN and VFMAX take the number when one operand is NaN and order −0 below +0, VFABS and VFNEG act on the
sign, and none of them rounds. VCVT converts whole registers of one width class, or one element, with the scales of R216. -/
def Says.LaneFloatExact : Prop :=
  (∀ e ∈ [(Instr.vfmin, true), (Instr.vfmax, false)], ∀ (s : State) (f : LaneFields) (x : LaneCtx),
    laneReady s f (arithSpec [4, 5, 6, 7] true false 0) x → Tab.wf 0 x.w.team.vregs = true →
    let pick := fun (a b : FNum) =>
      if a = .nan then b else if b = .nan then a
      else if (FNum.lt a b || (a.isZero && b.isZero && a.isNeg && !b.isNeg)) = e.2 then a else b
    ∃ t b, exec (e.1 f) s = .next t ∧ laneCompletes s t x b ∧
      lanesHold b x.w.team x.lanes f.vd.toNat (regsOf x.ty) (fun l =>
        packElems x.ty ((List.range (packCount x.ty)).map (fun i =>
          roundFloat x.ty (convOf 0) 0 (pick (operandA x i l) (operandB x i l)))))) ∧
  (∀ e ∈ [(Instr.vfabs, FNum.abs), (Instr.vfneg, FNum.neg)], ∀ (s : State) (f : LaneFields) (x : LaneCtx),
    laneReady s f (arithSpec [4, 5, 6, 7] false false 0) x → Tab.wf 0 x.w.team.vregs = true →
    ∃ t b, exec (e.1 f) s = .next t ∧ laneCompletes s t x b ∧
      lanesHold b x.w.team x.lanes f.vd.toNat (regsOf x.ty) (fun l =>
        packElems x.ty ((List.range (packCount x.ty)).map (fun i =>
          roundFloat x.ty (convOf 0) 0 (e.2 (operandA x i l)))))) ∧
  ∀ (s : State) (f : LaneFields) (x : LaneCtx), laneReady s f cvtSpec x → Tab.wf 0 x.w.team.vregs = true →
    let c := convOf x.c.fmt
    let dst := f.md.toNat % 16
    let code := fun (i l : Nat) => c.finish (isIntType x.ty) dst 0 (c.scaled false x.ty dst (operandA x i l))
    c.rm ≠ .stochastic → ∃ t b, exec (.vcvt f) s = .next t ∧ laneCompletes s t x b ∧
      lanesHold b x.w.team x.lanes f.vd.toNat (regsOf dst) (fun l =>
        if elemBits x.ty = elemBits dst then packElems dst ((List.range (packCount dst)).map (fun i => code i l))
        else setElem dst (x.w.team.rd dst l f.vd.toNat) (f.imm.toNat / 4 % 4) (code (f.imm.toNat % 4) l))
/-! ## Predicates, ballots, shuffles and index registers -/

/-- What the predicate instructions ask of their words (R329). -/
def predSpec : LaneCtx → LaneSpec :=
  noTypeSpec 0 fun f => field f.vd 3 5 != 0 || field f.va 3 5 != 0 || field f.vb 3 5 != 0 || f.bsel != 0 || f.vc != 0
    || f.ss != 0 || f.imm != 0

/-- What VBALLOT asks of its word (R330). -/
def ballotSpec : LaneCtx → LaneSpec :=
  noTypeSpec 1 fun f => field f.vd 6 2 != 0 || field f.va 3 5 != 0 || f.bsel != 0 || f.vb != 0 || f.vc != 0 || f.ss != 0
    || (if f.md.getLsbD 0 then f.imm != 0 else field f.imm 4 28 != 0)

/-- What VPREFIX asks of its word (R331). -/
def prefixSpec (x : LaneCtx) : LaneSpec :=
  { noTypeSpec 1 (fun f => field f.va 3 5 != 0 || f.bsel != 0 || f.vb != 0 || f.vc != 0 || f.ss != 0
      || f.imm != 0) x with groups := [group 0 x.f.vd 1 true] }

/-- R329, R330, R331: VPAND, VPOR, VPXOR and VPANDN write a predicate in the active lanes. With t(l) the lanes that are active and
whose predicate is true, VBALLOT writes 64 of them, from 64 × IMM on, or their number, to a scalar register, and VPREFIX gives
each active lane the number of them below it, or up to it. Nothing else of the team changes. -/
def Says.LanePredicates : Prop :=
  (∀ e ∈ [(Instr.vpand, fun a b : Bool => a && b), (Instr.vpor, fun a b => a || b), (Instr.vpxor, fun a b => a != b),
      (Instr.vpandn, fun a b => a && !b)],
    ∀ (s : State) (f : LaneFields) (x : LaneCtx), laneReady s f predSpec x → Tab.wf false x.w.team.pregs = true →
    ∃ t b, exec (e.1 f) s = .next t ∧ laneCompletes s t x b ∧
      lanesPredicate b x.w.team x.lanes f.vd.toNat
        (fun l => e.2 (x.w.team.p l f.va.toNat) (x.w.team.p l f.vb.toNat))) ∧
  (∀ (s : State) (f : LaneFields) (x : LaneCtx), laneReady s f ballotSpec x → Tab.wf 0 x.w.path.sregs = true →
    AMap.find x.w.team.paths x.w.pi = some x.w.path →
    let votes := x.lanes.filter (fun l => x.w.team.p l (f.va.toNat % 8))
    ∃ t b q v, exec (.vballot f) s = .next t ∧ laneCompletes s t x b ∧ { b with paths := x.w.team.paths } = x.w.team ∧
      AMap.find b.paths x.w.pi = some q ∧ (∀ j, j ≠ x.w.pi → AMap.find b.paths j = AMap.find x.w.team.paths j) ∧
      { q with sregs := x.w.path.sregs, run := x.w.path.run, done := x.w.path.done } = x.w.path ∧
      (∀ r : Reg6, q.s r = if r.toNat = f.vd.toNat ∧ r ≠ 0 then v else x.w.path.s r) ∧
      (f.md.toNat % 2 = 1 → v = .ofNat 64 votes.length) ∧
      (f.md.toNat % 2 = 0 → ∀ k, k < 64 → v.getLsbD k = decide (64 * f.imm.toNat + k ∈ votes))) ∧
  ∀ (s : State) (f : LaneFields) (x : LaneCtx), laneReady s f prefixSpec x → Tab.wf 0 x.w.team.vregs = true →
    let votes := x.lanes.filter (fun l => x.w.team.p l (f.va.toNat % 8))
    ∃ t b, exec (.vprefix f) s = .next t ∧ laneCompletes s t x b ∧
      lanesHold b x.w.team x.lanes f.vd.toNat 1 (fun l =>
        (votes.filter (fun m => decide (m < l) || (decide (f.md.toNat % 2 = 1) && decide (m = l)))).length)

/-- What the shuffles ask of their words (R332). -/
def shuffleSpec (x : LaneCtx) : LaneSpec :=
  let g := (field x.f.md 0 4).toNat
  { arithSpec clsW true false 0x0F x with
    reserved := modRefused x.f 0x0F || g == 0 || decide (10 < g) || x.f.vc != 0 || bRefused x.f x.ty }

/-- The shuffles (R332): the source lane of lane l under the control value k in segments of g lanes. -/
def shuffles : List ((LaneFields → Instr) × (Nat → Nat → Nat → Nat)) :=
  [(.vshfli, fun l k g => l / g * g + k % g), (.vshflx, fun l k g => l / g * g + (l % g ^^^ k % g)),
   (.vshflu, fun l k g => if k ≤ l % g then l - k else l), (.vshfld, fun l k g => if l % g + k < g then l + k else l)]

/-- R332, R333: a shuffle copies va of its source lane to vd of each active lane, reading every lane before it writes any; a
source lane from LANES on gives zeros. -/
def Says.LaneShuffles : Prop :=
  ∀ e ∈ shuffles, ∀ (s : State) (f : LaneFields) (x : LaneCtx), laneReady s f shuffleSpec x →
    Tab.wf 0 x.w.team.vregs = true → ∃ t b, exec (e.1 f) s = .next t ∧ laneCompletes s t x b ∧
      lanesHold b x.w.team x.lanes f.vd.toNat (regsOf x.ty) (fun l =>
        let m := e.2 l (x.b x.ty l % 2 ^ 32) (2 ^ (f.md.toNat % 16))
        if m < x.w.team.k.lanes then x.w.team.rd x.ty m f.va.toNat else 0)

/-- What VLANEID and VXMOV ask of their words (R334, R335). -/
def laneIdSpec (x : LaneCtx) : LaneSpec :=
  { noTypeSpec 0 (fun f => f.va != 0 || f.bsel != 0 || f.vb != 0 || f.vc != 0 || f.ss != 0 || f.imm != 0) x with
    groups := [group 0 x.f.vd 1 true] }
def xmovSpec (x : LaneCtx) : LaneSpec :=
  { noTypeSpec 0 (fun f => field f.va 3 5 != 0 || f.bsel != 0 || f.vb != 0 || f.vc != 0 || f.ss != 0 || f.imm != 0) x with
    groups := [group 0 x.f.vd 1 true] }

/-- In some lanes an index register holds a value; everything else of the team is as before. -/
def lanesIndex (b tm : Team) (lanes : List Nat) (xd : Nat) (val : Nat → Nat) : Prop :=
  { b with xregs := tm.xregs } = tm ∧ ∀ l n, n < 8 →
    b.x l n = if l ∈ lanes ∧ n = xd then .ofNat 32 (val l) else tm.x l n

/-- R334, R335: VLANEID writes the lane number. VXSET writes b to an index register, VXADD copies one with b added to its INDEX
modulo 256, and VXMOV reads one, each in the active lanes; nothing else of the team changes. -/
def Says.LaneIndexRegisters : Prop :=
  (∀ (s : State) (f : LaneFields) (x : LaneCtx), laneReady s f laneIdSpec x → Tab.wf 0 x.w.team.vregs = true →
    ∃ t b, exec (.vlaneid f) s = .next t ∧ laneCompletes s t x b ∧ lanesHold b x.w.team x.lanes f.vd.toNat 1 id) ∧
  (∀ (s : State) (f : LaneFields) (x : LaneCtx), laneReady s f xmovSpec x → Tab.wf 0 x.w.team.vregs = true →
    ∃ t b, exec (.vxmov f) s = .next t ∧ laneCompletes s t x b ∧
      lanesHold b x.w.team x.lanes f.vd.toNat 1 (fun l => (x.w.team.x l (f.va.toNat % 8)).toNat)) ∧
  (∀ (s : State) (f : LaneFields) (x : LaneCtx), laneReady s f (indexSpec fun f => f.va != 0) x →
    Tab.wf 0 x.w.team.xregs = true → ∃ t b, exec (.vxset f) s = .next t ∧ laneCompletes s t x b ∧
      lanesIndex b x.w.team x.lanes (f.vd.toNat % 8) (x.b 0)) ∧
  ∀ (s : State) (f : LaneFields) (x : LaneCtx), laneReady s f (indexSpec fun f => field f.va 3 5 != 0) x →
    Tab.wf 0 x.w.team.xregs = true → ∃ t b, exec (.vxadd f) s = .next t ∧ laneCompletes s t x b ∧
      lanesIndex b x.w.team x.lanes (f.vd.toNat % 8) (fun l =>
        let v := (x.w.team.x l (f.va.toNat % 8)).toNat
        v / 2 ^ 8 * 2 ^ 8 + (v + x.b 0 l) % 2 ^ 8)

/-- What TNMASK asks of its word and of its scalar (R378). -/
def tnmaskSpec (x : LaneCtx) : LaneSpec :=
  let v := x.c.scalar x.f.ss
  { noTypeSpec 0 (fun f => f.vc != 0 || f.bsel == 1 || f.bsel == 3
      || (if f.bsel = 0 then f.imm != 0 else f.vb != 0)
      || field v 12 20 != 0 || field v 50 14 != 0) x with
    groups := [group 0 x.f.vd 1 true, group 0 x.f.va 1 false] ++ bGroups x 0 1 }

/-- The key columns of a slot in flat order (R154): the trunk's positions, and then those of each live node by number. -/
def flatOrder (k : Slot) : List (Nat × Nat) :=
  (List.range (k.node 0).len).map (fun p => (0, p)) ++
    (k.nodes.filter (fun e => e.1 != 0 && e.2.state == 1)).flatMap
      (fun e => (List.range e.2.len).map (fun i => (e.1, e.2.start + i)))

/-- R378, R154: bit i of vd is set when column c0 + i exists in flat order, its node is an ancestor of the lane's query node, its
position is not past the query's, and a window W, unless 0, reaches it or its node is not the trunk. A query of a node that is
not live or past its end gives zeros. -/
def Says.TreeMask : Prop :=
  ∀ (s : State) (f : LaneFields) (x : LaneCtx), laneReady s f tnmaskSpec x → Tab.wf 0 x.w.team.vregs = true →
    let v := (x.c.scalar f.ss).toNat
    let slot := v % 2 ^ 12
    let win := v / 2 ^ 32 % 2 ^ 18
    s.kv.kvctl.toNat % 2 = 1 → slotOpenTo s x.w slot →
    ∃ t b m, exec (.tnmask f) s = .next t ∧ laneCompletes s t x b ∧ lanesHold b x.w.team x.lanes f.vd.toNat 1 m ∧
      ∀ l ∈ x.lanes,
        let q := (x.w.team.v l f.va.toNat).toNat % 2 ^ 8
        let j := (x.w.team.v l f.va.toNat).toNat / 2 ^ 8 % 2 ^ 18
        let nd := (s.slot slot).node q
        (nd.state ≠ 1 ∨ nd.start + nd.len ≤ j → m l = 0) ∧
        (nd.state = 1 → j < nd.start + nd.len → ∀ i < 32, (m l).testBit i =
          match (flatOrder (s.slot slot))[x.b 0 l + i]? with
          | none => false
          | some (n, pos) => nd.anc.getLsbD n && decide (pos ≤ j) && (decide (win = 0) || decide (n ≠ 0) || decide (j < pos + win)))

/-! ## Lane memory -/

/-- The lane that the trap report of a check of a whole lane instruction names: its lowest active lane, or the lowest of the
captured mask when none is active (R249; the model's choice). -/
def wholeLane (x : LaneCtx) : Nat := x.lanes.headD (((List.range 1024).find? (fun l => x.c.mask.getLsbD l)).getD 0)

/-- The order of R292, and its rule that guards and active lanes do not matter: what the word asks traps RESERVED_FIELD before
its type, a type before an overlap, and an overlap before an index register out of bounds, which names the lowest such lane. The
others name the lowest active lane, or the lowest of the captured mask when none is active (the model's choice). Where the rules
leave room it follows log entry 44, the model's reading. -/
def Says.LaneTrapOrder : Prop :=
  ∀ (s : State) (w : Who) (c : Clause) (f : LaneFields), issuer s = some w → w.path.run = some c →
    let x : LaneCtx := { w := w, c := c, f := f, lanes := activeLanes w.team c f }
    let first := wholeLane x
    (∀ e ∈ laneTwo, let p := arithSpec intTypes true false 0 x
      (f.ty = 15 ∨ (f.gp = 0 ∧ f.gn = 1) ∨ f.md ≠ 0 ∨ f.vc ≠ 0 →
        exec (e.1 f) s = .next (s.trapError w.key w.pi .reservedField first 0)) ∧
      ((p.trap x ≠ some .reservedField) → f.ty.toNat ∉ intTypes →
        exec (e.1 f) s = .next (s.trapError w.key w.pi .illegalType first 0)) ∧
      (p.trap x ≠ some .reservedField → f.ty.toNat ∈ intTypes → f.bsel = 3 →
        ∀ pre l post, x.lanes = pre ++ l :: post → (∀ m ∈ pre, indexBad w.team f f.ty.toNat 1 m = false) →
          indexBad w.team f f.ty.toNat 1 l = true →
          exec (e.1 f) s = .next (s.trapError w.key w.pi .indexBounds l 0))) ∧
    ∀ e ∈ [Instr.vlaor, Instr.vlaand, Instr.vlaxor],
      f.ty = 14 → f.bsel = 0 → f.gp = 0 → f.gn = 0 → f.md = 0 → f.va = 0 → f.vc = 0 → f.imm = 16 →
      f.vd.toNat + 16 ≤ w.team.vcount → f.vb.toNat + 16 ≤ w.team.vcount → f.vd ≠ f.vb →
      f.vd.toNat < f.vb.toNat + 16 → f.vb.toNat < f.vd.toNat + 16 →
      exec (e f) s = .next (s.trapError w.key w.pi .operandOverlap first 0)

/-- What the loads and stores of `k` registers or pairs ask of their words (R340). -/
def loadSpec (k : Nat) (x : LaneCtx) : LaneSpec :=
  { LaneSpec.plain with
    reserved := memRefused x.f .load false || mxRefused x.f k || x.f.vc != 0,
    types := some clsAll,
    groups := group x.f.ty.toNat x.f.vd k true :: indexGroup x.f }
def storeSpec (k : Nat) (x : LaneCtx) : LaneSpec :=
  { LaneSpec.plain with
    reserved := memRefused x.f .store true || mxRefused x.f k || x.f.vc != 0 || x.f.vd != 0,
    types := some clsAll,
    groups := bGroups x x.f.ty.toNat k ++ indexGroup x.f,
    bounds := bBounds x x.f.ty.toNat k,
    viaIndex := bIndexed x x.f.ty.toNat k }

/-- The registers from vd after a load of some bytes, as one number: the bytes, or an 8-bit or 16-bit element extended (R341). -/
def loadedValue (f : LaneFields) (b : List Byte) : Nat :=
  if f.md.toNat / 16 ≠ 1 then ofBytes b
  else if f.ty = 10 ∨ f.ty = 12 then (BitVec.ofInt 32 (toSigned (8 * b.length) (ofBytes b))).toNat
  else if f.ty = 9 then ofBytes b % 64
  else ofBytes b

/-- How many registers a load writes. -/
def loadedRegs (f : LaneFields) (k : Nat) : Nat := if f.md.toNat / 16 = 1 then 1 else k * regsOf f.ty.toNat

/-- The team after a memory instruction of its lanes: the registers and the clause are as said, and the rest of the team's
lanes, scratchpad and identity is as before. -/
def clauseWentOn (c tm : Team) (pi : Nat) (p : Path) : Prop :=
  c.pregs = tm.pregs ∧ c.xregs = tm.xregs ∧ c.teamId = tm.teamId ∧ c.k = tm.k ∧
    ∃ q, AMap.find c.paths pi = some q ∧ q.run = p.popLane.run ∧ q.sregs = p.sregs ∧ q.mask = p.mask ∧ p.pts ≤ q.pts

/-- R336, R340, R341: VLD, VLD2 and VLD4 put the bytes that their lanes find in consecutive registers of the active lanes, or
one element extended. First all lanes at one address, of any space that answers at once; then lanes at addresses of their own in
scratchpads. No byte of memory changes. Where the rules leave room it follows log entries 15 and 130, the model's reading. -/
def Says.LaneLoad : Prop :=
  ∀ e ∈ [(Instr.vld, 1), (Instr.vld2, 2), (Instr.vld4, 4)], ∀ (s : State) (f : LaneFields) (x : LaneCtx),
    laneReady s f (loadSpec e.2) x → Tab.wf 0 x.w.team.vregs = true → x.w.team.k.regs ≤ 16 → x.c.watched = [] →
    let n := moveBytes f e.2
    (∀ h s1 tg b, x.shares (x.acc .load n false) = [h] → reaches s x.w h.acc tg s1 → loadFinds s1 x.w h.acc tg = some b →
      ∃ t c, exec (e.1 f) s = .next t ∧ memoryKept s1 t ∧ t.team x.w.key = some c ∧
        clauseWentOn c x.w.team x.w.pi x.w.path ∧ c.version = x.w.team.version ∧ c.scratch = x.w.team.scratch ∧
        (∀ k, k ≠ x.w.key → t.team k = s.team k) ∧
        lanesHold { c with paths := x.w.team.paths } x.w.team x.lanes f.vd.toNat (loadedRegs f e.2)
          (fun _ => loadedValue f b)) ∧
    (∀ (kk oo : Nat → Nat), f.md.toNat / 8 % 2 = 1 → f.imm.toNat % 4 = 0 → x.lanes ≠ [] →
      (∀ l ∈ x.lanes, reaches s x.w (x.acc .load n false l) (.scratch (kk l) (oo l)) s ∧ (s.team (kk l)).isSome = true) →
      ∃ t c, exec (e.1 f) s = .next t ∧ memoryKept s t ∧ t.team x.w.key = some c ∧
        clauseWentOn c x.w.team x.w.pi x.w.path ∧ (∀ k, k ≠ x.w.key → t.team k = s.team k) ∧
        lanesHold { c with paths := x.w.team.paths } x.w.team x.lanes f.vd.toNat (loadedRegs f e.2) (fun l =>
          loadedValue f ((List.range n).map (fun i =>
            Tab.get 0 (((s.team (kk l)).map (·.scratch)).getD []) (oo l + i)))))

/-- R336, R340, R341, R174, R175: VST, VST2 and VST4 store the registers, or element 0, of their active lanes. All lanes at one
address store the data of the highest one: into the version for a versioned write, at the home slice otherwise, after the
version for a release. A version no longer holds the bytes stored at the home slice. Lanes at addresses of their own in
scratchpads store in ascending order. Every other byte stays. Where the rules leave room it follows log entries 15, 18, 43 and
130, the model's reading. -/
def Says.LaneStore : Prop :=
  ∀ e ∈ [(Instr.vst, 1), (Instr.vst2, 2), (Instr.vst4, 4)], ∀ (s : State) (f : LaneFields) (x : LaneCtx),
    laneReady s f (storeSpec e.2) x → x.c.watched = [] →
    let n := moveBytes f e.2
    let acc := x.acc .store n (decide (e.2 = 1) && is64 f.ty.toNat)
    (∀ h s1 pa space va leaf l, x.shares acc = [h] → x.lanes.getLast? = some l →
      reaches s x.w h.acc (.dev pa space va leaf) s1 → s1.mem.wf = true →
      let bs := x.storeBytes e.2 l
      let vers := versioned space (ordOf f) (scopeOf f) (strongOf f)
      (vers = true → s1.mem.isTable pa = false → s1.specLines (homeSlice s1.dev (lineOf pa * 64)) < 2048 →
        ∃ t c, exec (e.1 f) s = .next t ∧ memoryKept s1 t ∧ t.team x.w.key = some c ∧
          clauseWentOn c x.w.team x.w.pi x.w.path ∧ c.vregs = x.w.team.vregs ∧ c.scratch = x.w.team.scratch ∧
          c.taint = x.w.team.taint ∧
          ∀ y, AMap.find c.version y =
            if pa ≤ y ∧ y < pa + bs.length then some (bs.getD (y - pa) 0) else AMap.find x.w.team.version y) ∧
      (vers = false ∨ s1.mem.isTable pa = true → releases (ordOf f) = false →
        ∃ t c, exec (e.1 f) s = .next t ∧ t.mem.host = s1.mem.host ∧ t.team x.w.key = some c ∧
          bytesStored s1 t pa bs ∧
          clauseWentOn c x.w.team x.w.pi x.w.path ∧ c.vregs = x.w.team.vregs ∧ c.scratch = x.w.team.scratch ∧
          (if space = 7 ∨ s1.mem.isTable pa = true then c.version = x.w.team.version
            else versionLess x.w.team.version c.version pa bs.length) ∧
          c.taint = (x.w.team.taint || decide (space ≠ 7) || s1.mem.isTable pa)) ∧
      (releases (ordOf f) = true → 1 ≤ scopeOf f → s1.mem.isTable pa = false →
        ∃ t c, exec (e.1 f) s = .next t ∧ t.mem.host = s1.mem.host ∧ t.team x.w.key = some c ∧
          clauseWentOn c x.w.team x.w.pi x.w.path ∧ c.vregs = x.w.team.vregs ∧
          c.scratch = x.w.team.scratch ∧ c.version = [] ∧ c.taint = false ∧
          ∀ y, byteAt t y = if pa ≤ y ∧ y < pa + bs.length then bs.getD (y - pa) 0
            else (AMap.find x.w.team.version y).getD (byteAt s1 y))) ∧
    (∀ (kk oo : Nat → Nat), f.md.toNat / 8 % 2 = 1 → f.imm.toNat % 4 = 0 → x.lanes ≠ [] →
      (∀ l ∈ x.lanes, reaches s x.w (acc l) (.scratch (kk l) (oo l)) s ∧
        ∃ tm, s.team (kk l) = some tm ∧ Tab.wf 0 tm.scratch = true) → s.mem.wf = true →
      ∃ t, exec (e.1 f) s = .next t ∧ releasedMemory s t x.w (ordOf f) (scopeOf f) ∧
        ∀ k tm, s.team k = some tm → ∃ c, t.team k = some c ∧ c.vregs = tm.vregs ∧
          (k ≠ x.w.key → c.version = tm.version) ∧
          ∀ y, Tab.get 0 c.scratch y =
            match x.lanes.reverse.find? (fun l => decide (kk l = k ∧ oo l ≤ y ∧ y < oo l + n)) with
            | some l => (x.storeBytes e.2 l).getD (y - oo l) 0
            | none => Tab.get 0 tm.scratch y)

/-- The word atomics of the lanes (R342) with their types and the new value from the type, the old value, the operand and vc. -/
def laneAtomics : List ((LaneFields → Instr) × AtomicOp × List Nat × (Nat → Nat → Nat → Nat → Nat)) :=
  let sg := fun ty v => if ty = 0 ∨ ty = 2 then toSigned (elemBits ty) v else (v : Int)
  [(.vaadd, .add, clsAi, fun ty old x _ => (old + x) % 2 ^ elemBits ty), (.vaand, .and, clsW, fun _ old x _ => old &&& x),
   (.vaor, .or, clsW, fun _ old x _ => old ||| x), (.vaxor, .xor, clsW, fun _ old x _ => old ^^^ x),
   (.vamin, .min, clsAi, fun ty old x _ => if sg ty x < sg ty old then x else old),
   (.vamax, .max, clsAi, fun ty old x _ => if sg ty old < sg ty x then x else old),
   (.vaswap, .swap, clsW, fun _ _ x _ => x), (.vacas, .cas, clsW, fun _ old x c => if old = c then x else old)]

/-- What an atomic of the lanes asks of its word (R342, R343). -/
def atomicSpec (cas : Bool) (cls : List Nat) (x : LaneCtx) : LaneSpec :=
  let ty := x.f.ty.toNat
  { LaneSpec.plain with
    reserved := atomicRefused x.f || (!cas && x.f.vc != 0),
    types := some cls,
    groups := (if noret x.f then [] else [group ty x.f.vd 1 true]) ++ bGroups x ty 1
      ++ (if cas then [group ty x.f.vc 1 false] else []) ++ indexGroup x.f,
    bounds := bBounds x ty 1,
    viaIndex := bIndexed x ty 1 }
def lineAtomicSpec (x : LaneCtx) : LaneSpec :=
  { LaneSpec.plain with
    reserved := atomicRefused x.f || x.f.vc != 0,
    types := some clsB32,
    groups := (if noret x.f then [] else [wordsGroup x.f.ty.toNat x.f.vd 16 true])
      ++ (if x.f.bsel = 0 then [wordsGroup x.f.ty.toNat x.f.vb 16 false] else []) ++ indexGroup x.f,
    overlap := lineOverlap x,
    bounds := bBounds x 14 16,
    viaIndex := bIndexed x 14 16 }

/-- What is read and left when lanes apply an operation in ascending order: the value before each lane, and the last one. -/
def inTurn (g : Nat → Nat → Nat) : List Nat → Nat → (Nat → Nat) × Nat
  | [], v => (fun _ => v, v)
  | l :: ls, v => ((fun m => if m = l then v else (inTurn g ls (g l v)).1 m), (inTurn g ls (g l v)).2)

/-- In some lanes the `cnt` registers from `vd` hold a value's 32-bit parts; every other vector register is as before. -/
def lanesRead (c tm : Team) (lanes : List Nat) (vd cnt : Nat) (val : Nat → Nat) : Prop :=
  ∀ l n, n < 256 → c.v l n = if l ∈ lanes ∧ vd ≤ n ∧ n < vd + cnt then .ofNat 32 (val l / 2 ^ (32 * (n - vd))) else tm.v l n

/-- The bytes that a task of the path would load: its version over the committed ones (R175). -/
def ownBytes (s : State) (w : Who) (pa n : Nat) : List Byte :=
  (List.range n).map (fun i => (AMap.find w.team.version (pa + i)).getD (byteAt s (pa + i)))

/-- After an atomic of lanes on device memory: where it wrote, the new bytes are in memory and the version no longer holds those bytes,
but on a table frame; a release at nb scope or wider has performed the whole version before; no other byte has changed (R170, R175,
R176). -/
def atomicLeft (s t : State) (w : Who) (c : Team) (f : LaneFields) (pa : Nat) (bs : List Byte) (wrote : Prop) : Prop :=
  let rel : Prop := releases (ordOf f) = true ∧ 1 ≤ scopeOf f
  let kept := fun x => if rel then (AMap.find w.team.version x).getD (byteAt s x) else byteAt s x
  (∀ x, (wrote → byteAt t x = if pa ≤ x ∧ x < pa + bs.length then bs.getD (x - pa) 0 else kept x) ∧
    (¬ wrote → byteAt t x = kept x)) ∧
  t.mem.host = s.mem.host ∧ (rel → c.version = []) ∧
  (¬ rel → (wrote ∧ s.mem.isTable pa = false → versionLess w.team.version c.version pa bs.length) ∧
    (¬ wrote ∨ s.mem.isTable pa = true → c.version = w.team.version))

/-- R339, R342, R343, R344, R338: the lanes' atomics on one word, or on one line byte by byte, of device memory perform one
after another in ascending lanes: each reads what the one before left, which goes to its vd unless NORET is set, and the last
value stays in memory; a VACAS none of whose lanes compares equal writes nothing. A release performs the version before it.
Every other byte stays, and the task is tainted. Where the rules leave room it follows log entries 15, 16 and 59, the model's
reading. -/
def Says.LaneAtomic : Prop :=
  (∀ e ∈ laneAtomics, ∀ (s s1 : State) (f : LaneFields) (x : LaneCtx) (h : Share) (pa space va : Nat) (leaf : BitVec 64),
    laneReady s f (atomicSpec (decide (e.2.1 = .cas)) e.2.2.1) x → Tab.wf 0 x.w.team.vregs = true → x.c.watched = [] →
    x.shares (x.acc .atomic (4 * regsOf x.ty) (is64 x.ty)) = [h] → reaches s x.w h.acc (.dev pa space va leaf) s1 →
    leafJ leaf = false → s1.mem.wf = true →
    let n := 4 * regsOf x.ty
    let r := inTurn (fun l old => e.2.2.2 x.ty old (x.b x.ty l) (x.w.team.rd x.ty l f.vc.toNat)) x.lanes
      (ofBytes (ownBytes s1 x.w pa n))
    ∃ t c, exec (e.1 f) s = .next t ∧ t.team x.w.key = some c ∧ atomicLeft s1 t x.w c f pa (toBytes n r.2)
        (e.2.1 = .cas → ∃ l ∈ x.lanes, r.1 l = x.w.team.rd x.ty l f.vc.toNat) ∧
      clauseWentOn c x.w.team x.w.pi x.w.path ∧ c.taint = true ∧ c.scratch = x.w.team.scratch ∧
      lanesRead c x.w.team (if f.md.toNat / 16 % 2 = 1 then [] else x.lanes) f.vd.toNat (regsOf x.ty) r.1) ∧
  ∀ e ∈ [(Instr.vlaor, fun a b : Nat => a ||| b), (Instr.vlaand, fun a b => a &&& b), (Instr.vlaxor, fun a b => a ^^^ b)],
    ∀ (s s1 : State) (f : LaneFields) (x : LaneCtx) (h : Share) (pa space va : Nat) (leaf : BitVec 64),
    laneReady s f lineAtomicSpec x → Tab.wf 0 x.w.team.vregs = true → x.w.team.k.regs ≤ 16 → x.c.watched = [] →
    x.shares (x.acc .atomic 64 false) = [h] → reaches s x.w h.acc (.dev pa space va leaf) s1 →
    leafJ leaf = false → s1.mem.wf = true →
    let r := inTurn (fun l old => e.2 old (ofBytes (x.w.team.laneBytes l (bFirst x.w.team f 14 l) 16))) x.lanes
      (ofBytes (ownBytes s1 x.w pa 64))
    ∃ t c, exec (e.1 f) s = .next t ∧ t.team x.w.key = some c ∧ atomicLeft s1 t x.w c f pa (toBytes 64 r.2) True ∧
      clauseWentOn c x.w.team x.w.pi x.w.path ∧ c.taint = true ∧ c.scratch = x.w.team.scratch ∧
      lanesRead c x.w.team (if f.md.toNat / 16 % 2 = 1 then [] else x.lanes) f.vd.toNat 16 r.1

/-- What VSPILL and VFILL ask of their words (R345). -/
def vspillSpec (x : LaneCtx) : LaneSpec :=
  { LaneSpec.plain with
    reserved := spillRefused x.f || x.f.vd != 0, types := some clsB32, groups := [wordsGroup x.f.ty.toNat x.f.vb 1 false] }
def vfillSpec (x : LaneCtx) : LaneSpec :=
  { LaneSpec.plain with
    reserved := spillRefused x.f || x.f.vb != 0, types := some clsB32, groups := [wordsGroup x.f.ty.toNat x.f.vd 1 true] }

/-- The fields of a spill record of some lanes, w bits each (R105). -/
def spillFields (w : Nat) (lanes : Nat) (value : Nat → Nat) : Nat :=
  ((List.range lanes).map (fun l => value l * 2 ^ (w * l))).sum

/-- R104, R105, R345: VSPILL writes to its slot the format byte, the base, which is the lowest active lane's value, and a signed
difference of the narrowest width that fits for each lane, 0 for an inactive one. VFILL of a slot so written gives each active
lane the base plus its difference. A slot that lies in one page is named here; every other byte stays. Where the rules leave
room it follows log entry 60, the model's reading. -/
def Says.LaneSpills : Prop :=
  (∀ (s s1 : State) (f : LaneFields) (x : LaneCtx) (pa l0 wc : Nat) (ls : List Nat),
    laneReady s f vspillSpec x → 266240 ≤ x.w.team.k.ta → x.lanes = l0 :: ls → wc ≤ 4 →
    let w := if wc = 0 then 0 else 2 ^ (wc + 1)
    let v := fun l => x.w.team.v l f.vb.toNat
    let d := fun l => v l - v l0
    let fits := fun (c : Nat) => ∀ l ∈ x.lanes,
      if c = 0 then d l = 0 else -(2 ^ (2 ^ (c + 1) - 1) : Int) ≤ (d l).toInt ∧ (d l).toInt < 2 ^ (2 ^ (c + 1) - 1)
    let n := 64 + (x.w.team.k.lanes * w + 7) / 8
    (∀ c, c < wc → ¬ fits c) → fits wc →
    s.span x.w.core x.w.team.asid x.firstLane .spill (x.w.team.area + f.imm.toNat % 64 * 4160) n = (s1, .ok [(0, n, some pa)]) →
    s1.mem.wf = true →
    ∃ t c, exec (.vspill f) s = .next t ∧ t.mem.host = s1.mem.host ∧ t.team x.w.key = some c ∧
      clauseWentOn c x.w.team x.w.pi x.w.path ∧ c.vregs = x.w.team.vregs ∧ c.version = x.w.team.version ∧
      c.taint = x.w.team.taint ∧
      bytesStored s1 t pa ([.ofNat 8 (0x80 + wc), 0, 0, 0] ++ toBytes 4 (v l0).toNat ++ List.replicate 56 0 ++
        toBytes (n - 64) (spillFields w x.w.team.k.lanes
          (fun l => if l ∈ x.lanes then (d l).toNat % 2 ^ w else 0)))) ∧
  ∀ (s s1 s2 : State) (f : LaneFields) (x : LaneCtx) (pa wc : Nat),
    laneReady s f vfillSpec x → 266240 ≤ x.w.team.k.ta → Tab.wf 0 x.w.team.vregs = true → wc ≤ 4 →
    let w := if wc = 0 then 0 else 2 ^ (wc + 1)
    let n := 64 + (x.w.team.k.lanes * w + 7) / 8
    let a := x.w.team.area + f.imm.toNat % 64 * 4160
    let base := ofBytes ((List.range 4).map (fun i => byteAt s2 (pa + 4 + i)))
    let fields := ofBytes ((List.range (n - 64)).map (fun i => byteAt s2 (pa + 64 + i)))
    s.span x.w.core x.w.team.asid x.firstLane .fill a 64 = (s1, .ok [(0, 64, some pa)]) →
    s1.span x.w.core x.w.team.asid x.firstLane .fill a n = (s2, .ok [(0, n, some pa)]) →
    byteAt s1 pa = .ofNat 8 (0x80 + wc) → memoryKept s1 s2 →
    ∃ t c, exec (.vfill f) s = .next t ∧ memoryKept s2 t ∧ t.team x.w.key = some c ∧
      clauseWentOn c x.w.team x.w.pi x.w.path ∧ c.version = x.w.team.version ∧ c.scratch = x.w.team.scratch ∧
      lanesHold { c with paths := x.w.team.paths } x.w.team x.lanes f.vd.toNat 1 (fun l =>
        (BitVec.ofNat 32 base + BitVec.ofInt 32 (if w = 0 then 0 else toSigned w (fields / 2 ^ (w * l) % 2 ^ w))).toNat)

/-! ## Synchronisation -/

/-- An instruction's object in the issuing team's own scratchpad, at offset `off`, which no watchpoint can match (R346). -/
def ownObject (s : State) (x : LaneCtx) (a : Acc) (off : Nat) : Prop :=
  x.lanes ≠ [] ∧ spaceOf a.addr = 6 ∧ firstChecks s x.w a = none ∧ off = a.addr.toNat % 2 ^ 22 ∧
    (x.w.team.binTeam = true ∨ x.w.team.tidx = a.addr.toNat / 2 ^ 22 % 2 ^ 6) ∧
    s.whereIs x.w.team.teamId = .resident x.w.key x.w.team ∧ Tab.wf 0 x.w.team.scratch = true ∧ x.c.watched = [] ∧
    s.dbg.attached ≠ some (.ofNat 12 x.w.team.asid)

/-- After a release at nb scope or wider the version has performed, in a new untainted task; otherwise memory and the version
are as before (R176). -/
def releasedAs (s t : State) (w : Who) (c : Team) (ord scope : Nat) : Prop :=
  if releases ord = true ∧ 1 ≤ scope then versionPerformed s t w.team.version ∧ t.mem.host = s.mem.host ∧ c.version = [] ∧
      c.taint = false
  else memoryKept s t ∧ c.version = w.team.version ∧ c.taint = w.team.taint

/-- Bytes of a scratchpad from `off` on are replaced, and the others stay. -/
def scratchStored (c tm : Team) (off : Nat) (bs : List Byte) : Prop :=
  ∀ y, Tab.get 0 c.scratch y = if off ≤ y ∧ y < off + bs.length then bs.getD (y - off) 0 else Tab.get 0 tm.scratch y

/-- CNT of a barrier object (R239). -/
def countAt (tm : Team) (off : Nat) : Int := toSigned 64 (ofBytes ((List.range 8).map (fun i => Tab.get 0 tm.scratch (off + i))))

/-- R346, R347: BINIT writes CNT from IMM and ERRC 0, and BADD adds IMM to CNT, after the release that ORD asks for; nothing
else of the scratchpad changes. Without an active lane an instruction of the group that names an object does nothing. Where the
rules leave room it follows log entries 15 and 18, the model's reading. -/
def Says.BarrierObjects : Prop :=
  (∀ (s : State) (f : LaneFields) (x : LaneCtx) (off : Nat), laneReady s f (fun _ => syncSpec f [0, 2] true) x →
    ownObject s x (x.objectAcc .store false 16) off → s.mem.wf = true →
    s.orderWait x.w (x.objectAcc .store false 16) .gone = false →
    (releases (syncOrd f) = true → releaseWaits s x.w (syncScope f) = false) →
    ∃ t c, exec (.binit f) s = .next t ∧ t.team x.w.key = some c ∧ clauseWentOn c x.w.team x.w.pi x.w.path ∧
      c.vregs = x.w.team.vregs ∧ releasedAs s t x.w c (syncOrd f) (syncScope f) ∧
      scratchStored c x.w.team off (toBytes 8 (BitVec.ofInt 64 f.imm.toInt).toNat ++ List.replicate 8 0)) ∧
  (∀ (s : State) (f : LaneFields) (x : LaneCtx) (off : Nat), laneReady s f (fun _ => syncSpec f [0, 1, 2, 3] true) x →
    ownObject s x (x.objectAcc .atomic false 16) off → s.mem.wf = true →
    s.orderWait x.w (x.objectAcc .atomic false 16) .gone = false →
    (releases (syncOrd f) = true → releaseWaits s x.w (syncScope f) = false) →
    ∃ t c, exec (.badd f) s = .next t ∧ t.team x.w.key = some c ∧ clauseWentOn c x.w.team x.w.pi x.w.path ∧
      c.vregs = x.w.team.vregs ∧ releasedAs s t x.w c (syncOrd f) (syncScope f) ∧
      scratchStored c x.w.team off (toBytes 8 (BitVec.ofInt 64 (countAt x.w.team off + f.imm.toInt)).toNat)) ∧
  ∀ i ords, (i, ords) ∈ [(Instr.binit, [0, 2]), (Instr.badd, [0, 1, 2, 3]), (Instr.bwait, [1])] →
    ∀ (s : State) (f : LaneFields) (x : LaneCtx), laneReady s f (fun _ => syncSpec f ords true) x → x.lanes = [] →
      (∃ t, exec (i f) s = .next t ∧ laneCompletes s t x x.w.team)

/-- R348: BWAIT finishes at once when CNT of its object is at most zero, and is outstanding otherwise; a reread ends it once CNT
has fallen to zero, while a handler runs too. No register and no byte of memory changes. Where the rules leave room it follows
log entry 15, the model's reading. -/
def Says.BarrierWait : Prop :=
  (∀ (s : State) (f : LaneFields) (x : LaneCtx) (off : Nat), laneReady s f (fun _ => syncSpec f [1] true) x →
    ownObject s x (x.objectAcc .load true 16) off → s.orderWait x.w (x.objectAcc .load true 16) .gone = false →
    (countAt x.w.team off ≤ 0 → ∃ t c q, exec (.bwait f) s = .next t ∧ memoryKept s t ∧ t.team x.w.key = some c ∧
      clauseWentOn c x.w.team x.w.pi x.w.path ∧ c.vregs = x.w.team.vregs ∧ c.scratch = x.w.team.scratch ∧
      t.path x.w.key x.w.pi = some q ∧ q.bwaits.length = x.w.path.bwaits.length) ∧
    (0 < countAt x.w.team off → ∃ t c q, exec (.bwait f) s = .next t ∧ memoryKept s t ∧ t.team x.w.key = some c ∧
      { c with paths := x.w.team.paths } = x.w.team ∧ t.path x.w.key x.w.pi = some q ∧ q.sregs = x.w.path.sregs ∧
      q.bwaits = x.w.path.bwaits ++
        [{ clause := x.c.id, team := x.w.team.teamId, off := off, scope := f.md.toNat % 4 }])) ∧
  (∀ (s : State) (core slot path k : Nat) (p : Path) (b : PendingBwait) (own tm : Team),
    s.team (core * 16 + slot) = some own → own.handler = none → AMap.find own.paths path = some p → p.bwaits = [b] →
    s.whereIs b.team = .resident k tm →
    (countAt tm b.off ≤ 0 → ∃ t q, exec (.bwaitReread core slot path) s = .next t ∧ memoryKept s t ∧
      t.path (core * 16 + slot) path = some q ∧ q.bwaits = [] ∧ q.sregs = p.sregs ∧ q.spc = p.spc ∧ p.pts ≤ q.pts) ∧
    (0 < countAt tm b.off → ∃ t, exec (.bwaitReread core slot path) s = .next t ∧ t.teams = s.teams ∧ memoryKept s t)) ∧
  ∀ (s : State) (core slot path k : Nat) (p : Path) (b : PendingBwait) (own tm : Team) (h : Handler),
    s.team (core * 16 + slot) = some own → own.handler = some h → AMap.find h.saved path = some p → p.bwaits = [b] →
    (∀ q, AMap.find own.paths path = some q → q.bwaits = []) → s.whereIs b.team = .resident k tm → countAt tm b.off ≤ 0 →
    ∃ t c h' q, exec (.bwaitReread core slot path) s = .next t ∧ memoryKept s t ∧ t.team (core * 16 + slot) = some c ∧
      c.handler = some h' ∧ AMap.find h'.saved path = some q ∧ q.bwaits = [] ∧ q.spc = p.spc

/-- The lanes that a barrier counts: those with no ended path that no path has ejected (R351). -/
def countedLanes (tm : Team) : List Nat :=
  (List.range tm.k.lanes).filter (fun l => !tm.endedLanes.getLsbD l && tm.paths.all (fun p => !p.2.ejm.getLsbD l))

/-- R351, R352: VBAR and VNBAR count an arrival of each lane of the captured mask, after the release at SCP, and the clause's
lanes wait for the largest generation. A generation of a team completes, by BARRIER_GENERATION_COMPLETE, when every counted lane
has arrived at it and some lane waits, and those that wait for it go on. Where the rules leave room it follows log entries 18
and 61, the model's reading. -/
def Says.LaneBarriers : Prop :=
  (∀ (s : State) (f : LaneFields) (x : LaneCtx),
    let lanes := (List.range x.w.team.k.lanes).filter (fun l => x.c.mask.getLsbD l)
    let scope := f.md.toNat % 4
    lanes ≠ [] → releaseWaits s x.w scope = false → s.mem.wf = true →
    (laneReady s f (fun _ => syncSpec f [3] false (f.gp != 0)) x → Tab.wf 0 x.w.team.vbar = true →
      ∃ t c, exec (.vbar f) s = .next t ∧ t.team x.w.key = some c ∧ releasedAs s t x.w c 3 scope ∧
        c.vregs = x.w.team.vregs ∧ c.scratch = x.w.team.scratch ∧ c.nbar = x.w.team.nbar ∧
        (∀ l, Tab.get 0 c.vbar l = Tab.get 0 x.w.team.vbar l + if l ∈ lanes then 1 else 0) ∧
        ∃ g, c.barWait = x.w.team.barWait ++ [(x.w.pi, x.c.id, g, false, scope)] ∧
          (∀ l ∈ lanes, Tab.get 0 c.vbar l ≤ g) ∧ ∃ l ∈ lanes, Tab.get 0 c.vbar l = g) ∧
    (laneReady s f (fun _ => syncSpec f [3] false (syncScope f == 0)) x → Tab.wf 0 x.w.team.nbar = true →
      ∃ t c, exec (.vnbar f) s = .next t ∧ t.team x.w.key = some c ∧ releasedAs s t x.w c 3 scope ∧
        c.vregs = x.w.team.vregs ∧ c.scratch = x.w.team.scratch ∧ c.vbar = x.w.team.vbar ∧
        (∀ l, Tab.get 0 c.nbar l = Tab.get 0 x.w.team.nbar l + if l ∈ lanes then 1 else 0) ∧
        ∃ g, c.barWait = x.w.team.barWait ++ [(x.w.pi, x.c.id, g, true, scope)] ∧
          (∀ l ∈ lanes, Tab.get 0 c.nbar l ≤ g) ∧ ∃ l ∈ lanes, Tab.get 0 c.nbar l = g)) ∧
  ∀ (s : State) (core slot : Nat) (tm : Team), s.team (core * 16 + slot) = some tm → tm.handler = none →
    let g := tm.vbarGen + 1
    let arrived := (countedLanes tm).all (fun l => decide (g ≤ Tab.get 0 tm.vbar l))
    let waits := tm.barWait.any (fun w => !w.2.2.2.1 && decide (g ≤ w.2.2.1))
    (arrived = true → waits = true → ∃ t c, exec (.barrierGenerationComplete core slot false) s = .next t ∧
      memoryKept s t ∧ t.team (core * 16 + slot) = some c ∧ (∀ k, k ≠ core * 16 + slot → t.team k = s.team k) ∧
      c.vbarGen = g ∧ c.barWait = tm.barWait.filter (fun w => w.2.2.2.1 || decide (g < w.2.2.1)) ∧
      c.vregs = tm.vregs ∧ c.scratch = tm.scratch ∧ c.vbar = tm.vbar ∧ c.version = tm.version) ∧
    (arrived = false ∨ waits = false → exec (.barrierGenerationComplete core slot false) s = .next s)

/-- R353: VFENCE completes, once the path has no access in flight, as a release, which commits the version at nb scope or wider,
or as an acquire; with accesses in flight it holds the clause. Without an active lane it does nothing. Where the rules leave
room it follows log entries 15 and 18, the model's reading. -/
def Says.LaneFence : Prop :=
  ∀ (s : State) (f : LaneFields) (x : LaneCtx), laneReady s f (fun _ => syncSpec f [1, 2, 3] false) x →
    let ord := f.md.toNat / 4 % 4
    let scope := f.md.toNat % 4
    (x.lanes = [] → ∃ t, exec (.vfence f) s = .next t ∧ laneCompletes s t x x.w.team) ∧
    (x.lanes ≠ [] → s.inFlight x.w true ≠ [] → exec (.vfence f) s = .next s) ∧
    (x.lanes ≠ [] → s.inFlight x.w true = [] → ord = 1 →
      ∃ t, exec (.vfence f) s = .next t ∧ laneCompletes s t x x.w.team) ∧
    (x.lanes ≠ [] → s.inFlight x.w true = [] → ord ≠ 1 → scope = 0 →
      ∃ t, exec (.vfence f) s = .next t ∧
        laneCompletes s t x (x.w.team.modPath x.w.pi (fun p => { p with pts := max p.pts x.w.team.wT }))) ∧
    (x.lanes ≠ [] → s.inFlight x.w true = [] → ord ≠ 1 → 1 ≤ scope → s.commitBlocked x.w.key = false → s.mem.wf = true →
      ∃ t c, exec (.vfence f) s = .next t ∧ t.team x.w.key = some c ∧ versionPerformed s t x.w.team.version ∧
        t.mem.host = s.mem.host ∧ clauseWentOn c x.w.team x.w.pi x.w.path ∧ c.version = [] ∧ c.taint = false ∧
        c.vregs = x.w.team.vregs ∧ c.scratch = x.w.team.scratch)

/-- R349, R350, R238: CPK of a record that passes the checks of R236 enters it in the copy engine, with its status bytes
cleared, and the clause goes on; with sixteen records in the engine the clause stops for a slot. COLL does the same with a
collective, of which a core holds four; a group entry of one member needs no peer. The record's scope here is tm, so that
nothing commits. Where the rules leave room it follows log entries 44, 62, 64 and 67, the model's reading. -/
def Says.EngineKicks : Prop :=
  (∀ (s : State) (f : LaneFields) (x : LaneCtx) (off : Nat),
    laneReady s f (fun _ => syncSpec f [0] true (syncScope f != 0)) x → ownObject s x (x.objectAcc .load true 64) off →
    let b := (List.range 64).map (fun i => Tab.get 0 x.w.team.scratch (off + i))
    let c := Copy.ofRecord x.w.team x.w.key x.w.pi x.c.id x.c.fmt off b
    (16 ≤ s.recordsOf (x.w.key / 16) → ∃ t q, exec (.cpk f) s = .next t ∧ memoryKept s t ∧ t.eng.copies = s.eng.copies ∧
      t.path x.w.key x.w.pi = some q ∧ q.park.isSome = true) ∧
    (s.recordsOf (x.w.key / 16) < 16 → s.inFlight x.w true = [] → c.trap b x.w.team.k = none → c.scope = 0 → c.mode < 6 →
      ∃ t tm p, exec (.cpk f) s = .next t ∧
        t.eng.copies = s.eng.copies ++ [{ c with id := s.eng.nextId, pts := p }] ∧ t.team x.w.key = some tm ∧
        clauseWentOn tm x.w.team x.w.pi x.w.path ∧ tm.vregs = x.w.team.vregs ∧ tm.version = x.w.team.version ∧
        scratchStored tm x.w.team (off + 30) [0, 0])) ∧
  ∀ (s : State) (f : LaneFields) (x : LaneCtx) (off : Nat),
    laneReady s f (fun _ => syncSpec f [0] true (syncScope f != 0)) x → ownObject s x (x.objectAcc .load true 64) off →
    let b := (List.range 64).map (fun i => Tab.get 0 x.w.team.scratch (off + i))
    let c := Coll.ofRecord s x.w.team x.w.key x.w.pi off b
    (s.dev.svc = 1 → exec (.coll f) s = .next (s.trapError x.w.key x.w.pi .badSpace (x.lanes.headD 0) (x.object true))) ∧
    (s.dev.svc ≠ 1 → 4 ≤ s.collsOf (x.w.key / 16) → ∃ t q, exec (.coll f) s = .next t ∧ memoryKept s t ∧
      t.fab.colls = s.fab.colls ∧ t.path x.w.key x.w.pi = some q ∧ q.park.isSome = true) ∧
    (s.dev.svc ≠ 1 → s.collsOf (x.w.key / 16) < 4 → s.inFlight x.w true = [] → collTrap s b x.w.team.window = none →
      c.scope = 0 → s.fab.fnode = 0xFFF → ∃ t tm, exec (.coll f) s = .next t ∧
        (∃ e ∈ t.fab.colls, e.id = s.eng.nextId ∧ e.teamId = x.w.team.teamId ∧ e.op = c.op ∧ e.red = c.red ∧ e.ty = c.ty ∧
          e.count = c.count ∧ e.src = c.src ∧ e.dst = c.dst ∧ e.bar = c.bar ∧ e.members = c.members ∧ e.rank = c.rank) ∧
        t.team x.w.key = some tm ∧ clauseWentOn tm x.w.team x.w.pi x.w.path ∧ tm.vregs = x.w.team.vregs ∧
        scratchStored tm x.w.team (off + 40) (List.replicate 8 0))

/-! ## Small matrices -/

/-- A matrix of elements by rows as one number, in the registers or pairs of R190. -/
def rowMajor (ty r c : Nat) (g : Nat → Nat → Nat) : Nat :=
  ((List.range (r * c)).map (fun e => g (e / c) (e % c) % 2 ^ (32 * regsOf ty))).foldr (fun v t => v + 2 ^ (32 * regsOf ty) * t) 0

/-- Element (i, j) of a matrix operand with `c` columns (R190). -/
def elemOf (x : LaneCtx) (l : Nat) (n : BitVec 8) (c i j : Nat) : Nat :=
  x.w.team.rd x.ty l (n.toNat + regsOf x.ty * (i * c + j))

/-- What the instructions that write a matrix ask of their words (R364, R365). -/
def qopSpec (bad : Bool) (f : LaneFields) (dn : Nat) (ss : List RegGroup) (_ : LaneCtx) : LaneSpec :=
  qSpec (qPlain f || bad) [group f.ty.toNat f.vd dn true] ss []
def copySpec (f : LaneFields) : LaneCtx → LaneSpec :=
  qopSpec (qRefused f true true false false || f.md != 0 || f.vb != 0 || f.vc != 0) f (qF1 f * qF2 f) [qSrc f f.va (qF1 f * qF2 f)]
def qaddSpec (f : LaneFields) : LaneCtx → LaneSpec :=
  qopSpec (qRefused f true true false false || field f.md 1 5 != 0 || f.vc != 0) f (qF1 f * qF2 f)
    [qSrc f f.va (qF1 f * qF2 f), qSrc f f.vb (qF1 f * qF2 f)]
def qsclSpec (f : LaneFields) (_ : LaneCtx) : LaneSpec :=
  qSpec (qRefused f true true false false || f.md != 0 || f.vc != 0 || decide (1 < f.bsel.toNat)
      || (if f.bsel = 1 then f.vb != 0 else f.ss != 0))
    [group f.ty.toNat f.vd (qF1 f * qF2 f) true]
    (qSrc f f.va (qF1 f * qF2 f) :: (if f.bsel = 0 then [qSrc f f.vb 1] else [])) []
def qmulSpec (f : LaneFields) : LaneCtx → LaneSpec :=
  qopSpec (qRefused f true true true false || f.md != 0 || f.vc != 0) f (qF1 f * qF3 f)
    [qSrc f f.va (qF1 f * qF2 f), qSrc f f.vb (qF2 f * qF3 f)]
def qmadSpec (f : LaneFields) : LaneCtx → LaneSpec :=
  qopSpec (qRefused f true true true false || f.md != 0) f (qF1 f * qF3 f)
    [qSrc f f.va (qF1 f * qF2 f), qSrc f f.vb (qF2 f * qF3 f), qSrc f f.vc (qF1 f * qF3 f)]

/-- A chain of fused steps over k, each rounded once to nearest even (R367). -/
def chained (F : BinFmt) (a b : Nat → Nat) : Nat → Nat → Nat
  | 0, d => d
  | n + 1, d => chained F (fun k => a (k + 1)) (fun k => b (k + 1)) n (F.rne (FNum.fma false (F.decode (a 0)) (F.decode (b 0)) (F.decode d)))

/-- R364, R365, R367: the small-matrix moves and products write vd by rows in the active lanes, from operands read before, and
nothing else: QMOV copies, QTRN transposes, QADD adds or subtracts element by element, QSCL multiplies by one number, and QMUL and
QMAD sum each product in ascending k, one rounding a step. -/
def Says.MatrixArithmetic : Prop :=
  ∀ (s : State) (f : LaneFields) (x : LaneCtx), Tab.wf 0 x.w.team.vregs = true → x.w.team.k.regs ≤ 16 →
    let F := qFmt x.ty
    let (r, c, n) := (qF1 f, qF2 f, qF3 f)
    let writes := fun (i : Instr) (rows cols : Nat) (g : Nat → Nat → Nat → Nat) =>
      ∃ t b, exec i s = .next t ∧ laneCompletes s t x b ∧
        lanesHold b x.w.team x.lanes f.vd.toNat (rows * cols * regsOf x.ty) (fun l => rowMajor x.ty rows cols (g l))
    (laneReady s f (copySpec f) x → writes (.qmov f) r c (fun l i j => elemOf x l f.va c i j)) ∧
    (laneReady s f (copySpec f) x → writes (.qtrn f) c r (fun l i j => elemOf x l f.va c j i)) ∧
    (laneReady s f (qaddSpec f) x → writes (.qadd f) r c (fun l i j =>
      let b := F.decode (elemOf x l f.vb c i j)
      F.rne (FNum.add false (F.decode (elemOf x l f.va c i j)) (if f.md.toNat % 2 = 1 then b.neg else b)))) ∧
    (laneReady s f (qsclSpec f) x → writes (.qscl f) r c (fun l i j =>
      let b := if f.bsel = 1 then (x.c.scalar f.ss).toNat % 2 ^ (32 * regsOf x.ty) else x.w.team.rd x.ty l f.vb.toNat
      F.rne (FNum.mul (F.decode b) (F.decode (elemOf x l f.va c i j))))) ∧
    (laneReady s f (qmulSpec f) x → writes (.qmul f) r n (fun l i j =>
      chained F (fun k => elemOf x l f.va c i (k + 1)) (fun k => elemOf x l f.vb n (k + 1) j) (c - 1)
        (F.rne (FNum.mul (F.decode (elemOf x l f.va c i 0)) (F.decode (elemOf x l f.vb n 0 j)))))) ∧
    (laneReady s f (qmadSpec f) x → writes (.qmad f) r n (fun l i j =>
      chained F (fun k => elemOf x l f.va c i k) (fun k => elemOf x l f.vb n k j) c (elemOf x l f.vc n i j)))

/-- What the factorisations, solves and determinants ask of their words (R368, R369, R370). -/
def qcholSpec (f : LaneFields) (_ : LaneCtx) : LaneSpec :=
  qSpec (qPlain f || qRefused f true false false true || field f.md 3 3 != 0 || f.vc != 0)
    [group f.ty.toNat f.vd (qF1 f * qF1 f) true] [qSrc f f.va (qF1 f * qF1 f)] [wordGroup f.vb true]
def qlupSpec (f : LaneFields) (_ : LaneCtx) : LaneSpec :=
  qSpec (qPlain f || qRefused f true false false true || field f.md 3 3 != 0)
    [group f.ty.toNat f.vd (qF1 f * qF1 f) true] [qSrc f f.va (qF1 f * qF1 f)] [wordGroup f.vb true, wordGroup f.vc true]
def qsolcSpec (f : LaneFields) : LaneCtx → LaneSpec :=
  qopSpec (qRefused f true false true false || f.md != 0 || f.vc != 0) f (qF1 f * qF3 f)
    [qSrc f f.va (qF1 f * qF1 f), qSrc f f.vb (qF1 f * qF3 f)]
def qsollSpec (f : LaneFields) : LaneCtx → LaneSpec :=
  qopSpec (qRefused f true false true false || f.md != 0) f (qF1 f * qF3 f)
    [qSrc f f.va (qF1 f * qF1 f), qSrc f f.vb (qF1 f * qF3 f), wordGroup f.vc false]
def qdetSpec (f : LaneFields) (_ : LaneCtx) : LaneSpec :=
  qSpec (qPlain f || qRefused f true false false false || field f.md 1 5 != 0 || f.vb != 0 || (!f.md.getLsbD 0 && f.vc != 0))
    [group f.ty.toNat f.vd 1 true]
    (qSrc f f.va (qF1 f * qF1 f) :: (if f.md.getLsbD 0 then [wordGroup f.vc false] else [])) []

/-- A chain of fused steps that subtract, over k from 0 on, each rounded once to nearest even: FMA(−a(k), b(k), t). -/
def chainedDown (F : BinFmt) (a b : Nat → Nat) : Nat → Nat → Nat
  | 0, t => t
  | n + 1, t => F.rne (FNum.fma false (F.decode (a n)).neg (F.decode (b n)) (F.decode (chainedDown F a b n t)))

/-- A quotient, rounded once to nearest even. -/
def quotient (F : BinFmt) (a b : Nat) : Nat := F.rne (FNum.div (F.decode a) (F.decode b))

/-- A product of n numbers in ascending order from a start, each step rounded once (R370). -/
def productFrom (F : BinFmt) (g : Nat → Nat) : Nat → Nat → Nat
  | 0, d => d
  | n + 1, d => F.rne (FNum.mul (F.decode (productFrom F g n d)) (F.decode (g n)))

/-- The largest magnitude among n numbers: CMax of R230. -/
def largest (F : BinFmt) (g : Nat → Nat) : Nat → FNum
  | 0 => .zero false
  | n + 1 => if FNum.lt (largest F g n) (F.decode (g n)).abs then (F.decode (g n)).abs else largest F g n

/-- The place that row i takes its numbers from when rows j and p are exchanged. -/
def exchanged (j p i : Nat) : Nat := if i = j then p else if i = p then j else i

/-- R230: the rows of QLUP before column j, in the places to which the exchanges of rows k and p k for k < j bring them. -/
def rowsBefore (p : Nat → Nat) : Nat → Nat → Nat
  | 0, i => i
  | j + 1, i => rowsBefore p j (exchanged j (p j) i)

/-- R230: the matrix of QLUP before column j, when the pivot row of each column k is row p k. -/
def matrixBefore (F : BinFmt) (a : Nat → Nat → Nat) (p : Nat → Nat) : Nat → Nat → Nat → Nat
  | 0, i, k => a i k
  | j + 1, i, k =>
    let w := fun i k => matrixBefore F a p j (exchanged j (p j) i) k
    if i ≤ j ∨ k < j then w i k
    else if k = j then quotient F (w i j) (w j j)
    else F.rne (FNum.fma false (F.decode (quotient F (w i j) (w j j))).neg (F.decode (w j k)) (F.decode (w i k)))

/-- R230: of two pivot candidates the second has the larger magnitude; a NaN counts as larger than every number. -/
def outranked (F : BinFmt) (a b : Nat) : Prop :=
  F.decode a ≠ .nan ∧ (F.decode b = .nan ∨ FNum.lt (F.decode a).abs (F.decode b).abs = true)

/-- R230: row p is the pivot row of column j: the largest of the rows from j on, and the lowest of the largest. -/
def isPivotRow (F : BinFmt) (u : Nat → Nat → Nat) (n j p : Nat) : Prop :=
  j ≤ p ∧ p < n ∧ ∀ i, j ≤ i → i < n → ¬ outranked F (u p j) (u i j) ∧ (i < p → outranked F (u i j) (u p j))

/-- R230: a column that is read has a NaN or infinite element. -/
def specialColumn (F : BinFmt) (a : Nat → Nat → Nat) (reads : Nat → Nat → Prop) (n j : Nat) : Prop :=
  j < n ∧ ∃ i, i < n ∧ reads i j ∧ (F.decode (a i j)).isFin = false

/-- R230: column c is the lowest that has one. -/
def firstSpecial (F : BinFmt) (a : Nat → Nat → Nat) (reads : Nat → Nat → Prop) (n c : Nat) : Prop :=
  specialColumn F a reads n c ∧ ∀ j < c, ¬ specialColumn F a reads n j

/-- R231: what a factorisation of order n tells: it fails at column `c`, or nowhere when c is n; `cause` holds its bits 2 and 0,
`nan` says that it read a NaN or an infinity, and `tiny` which columns before c had a tiny pivot. The fields are COL, NAN, NPD,
TINY and ZERO, and the rest is zero. -/
def statusHolds (v : Nat) (n c cause : Nat) (nan : Prop) (tiny : Nat → Prop) : Prop :=
  v / 2 ^ 11 = 0 ∧ v / 2 ^ 4 % 2 ^ 4 = 0 ∧
  (c < n → v / 2 ^ 8 % 8 = c) ∧
  (c = n → (∀ j < n, tiny j → (∀ i < j, ¬ tiny i) → v / 2 ^ 8 % 8 = j) ∧ ((∀ j < n, ¬ tiny j) → v / 2 ^ 8 % 8 = 0)) ∧
  (v / 2 ^ 3 % 2 = 1 ↔ nan) ∧ v / 2 ^ 2 % 2 = cause / 4 % 2 ∧ (v / 2 % 2 = 1 ↔ ∃ j < c, tiny j) ∧ v % 2 = cause % 2

/-- R230, R231, R368: the factor that QCHOL gives: columns 0 to c − 1 of L with zeros above the diagonal, and the default NaN from
the failing column c on. A column fails for a NaN or infinity that it or a lower row of it has, or for d that is not above 0. -/
def choleskyOf (F : BinFmt) (a : Nat → Nat → Nat) (n tau : Nat) (l : Nat → Nat → Nat) (status : Nat) : Prop :=
  let d := fun j => chainedDown F (l j) (l j) j (a j j)
  let above := fun j => FNum.lt (.zero false) (F.decode (d j)) = true
  let reads := fun i j => j ≤ i
  let tiny := fun j => FNum.lt ((largest F (fun i => a (j + i) j) (n - j)).scale (-(tau : Int))) (F.decode (d j)).abs = false
  ∃ c cause, c ≤ n ∧
    (∀ j < c, ¬ specialColumn F a reads n j ∧ above j) ∧
    ((c = n ∧ cause = 0) ∨ (specialColumn F a reads n c ∧ cause = 0) ∨
      (c < n ∧ ¬ specialColumn F a reads n c ∧ ¬ above c ∧ cause = if (F.decode (d c)).isZero then 5 else 4)) ∧
    statusHolds status n c cause (∃ j, specialColumn F a reads n j) tiny ∧
    ∀ i j, i < n → j < n → l i j =
      if c ≤ j then F.nanCode
      else if i < j then 0
      else if i = j then F.rne (FNum.sqrt (F.decode (d j)))
      else quotient F (chainedDown F (l i) (l j) j (a i j)) (l j j)

/-- R230, R231, R368: the factor that QLUP gives in its rows' final order, with that order: columns 0 to c − 1 computed in place,
and the default NaN from the failing column c on. A column fails for a NaN or infinity in it, or for a pivot that is zero or NaN. -/
def lupOf (F : BinFmt) (a : Nat → Nat → Nat) (n tau : Nat) (m : Nat → Nat → Nat) (row : Nat → Nat) (status : Nat) : Prop :=
  ∃ (p : Nat → Nat) (c cause : Nat), c ≤ n ∧
    let u := matrixBefore F a p
    let pivot := fun j => u j (p j) j
    let bad := fun j => F.decode (pivot j) = .nan ∨ (F.decode (pivot j)).isZero = true
    let reads := fun _ _ => True
    let tiny := fun j => FNum.lt ((largest F (fun i => a i j) n).scale (-(tau : Int))) (F.decode (pivot j)).abs = false
    (∀ j < c, ¬ specialColumn F a reads n j ∧ isPivotRow F (u j) n j (p j) ∧ ¬ bad j) ∧
    ((c = n ∧ cause = 0) ∨ (specialColumn F a reads n c ∧ p c = c ∧ cause = 0) ∨
      (c < n ∧ ¬ specialColumn F a reads n c ∧ isPivotRow F (u c) n c (p c) ∧ bad c ∧ cause = 1)) ∧
    statusHolds status n c cause (∃ j, specialColumn F a reads n j) tiny ∧
    (∀ i < 6, row i = if n ≤ i then i else if c < n then rowsBefore p (c + 1) i else rowsBefore p n i) ∧
    ∀ i j, i < n → j < n → m i j =
      if c ≤ j then F.nanCode else if c < n then u c (exchanged c (p c) i) j else u n i j

/-- R369: y solves L y = b by rows, from the first; `diag` divides by the diagonal. -/
def solvedDown (F : BinFmt) (l : Nat → Nat → Nat) (n : Nat) (diag : Bool) (b y : Nat → Nat) : Prop :=
  ∀ i < n, y i = if diag then quotient F (chainedDown F (l i) y i (b i)) (l i i) else chainedDown F (l i) y i (b i)

/-- R369: x solves U x = y by rows, from the last. -/
def solvedUp (F : BinFmt) (u : Nat → Nat → Nat) (n : Nat) (y x : Nat → Nat) : Prop :=
  ∀ i < n, x i =
    quotient F (chainedDown F (fun k => u i (i + 1 + k)) (fun k => x (i + 1 + k)) (n - 1 - i) (y i)) (u i i)

/-- The default NaN of a type (R206). -/
def defaultNan (ty : Nat) : Nat := if ty = 5 then 0x7FF8000000000000 else 0x7FC00000

/-- R230, R231, R368, R369, R370: QCHOL and QLUP write the factor of va to vd, the status word to vb, QLUP the row order to vc, and
the predicate that MOD names is true when the status has neither a failure nor a NaN. QSOLC and QSOLL write the solutions, and QDET
the determinant, each by the chains of its rule. Only these registers of the active lanes change. A singular matrix, or one with a
NaN or an infinity, gives the default NaN from its failing column on, and a row order that is no permutation gives it everywhere. -/
def Says.MatrixSolvers : Prop :=
  ∀ (s : State) (f : LaneFields) (x : LaneCtx), Tab.wf 0 x.w.team.vregs = true → Tab.wf false x.w.team.pregs = true →
    x.w.team.k.regs ≤ 16 →
    let F := qFmt x.ty
    let n := qF1 f
    let size := n * n * regsOf x.ty
    let holds := fun (b : Team) (l : Nat) (m : Nat → Nat → Nat) =>
      ∀ k, f.vd.toNat ≤ k → k < f.vd.toNat + size →
        b.v l k = .ofNat 32 (rowMajor x.ty n n m / 2 ^ (32 * (k - f.vd.toNat)))
    let predicate := fun (b : Team) (l v : Nat) => 0 < f.md.toNat % 8 →
      (b.p l (f.md.toNat % 8) = true ↔ v % 2 = 0 ∧ v / 2 ^ 2 % 2 = 0 ∧ v / 2 ^ 3 % 2 = 0)
    let frame := fun (b : Team) (pivot : Bool) =>
      { b with vregs := x.w.team.vregs, pregs := x.w.team.pregs } = x.w.team ∧
      (∀ l k, k < 256 → (l ∉ x.lanes ∨ ((k < f.vd.toNat ∨ f.vd.toNat + size ≤ k) ∧ k ≠ f.vb.toNat ∧
        (pivot = true → k ≠ f.vc.toNat))) → b.v l k = x.w.team.v l k) ∧
      (∀ l k, k < 8 → (l ∉ x.lanes ∨ k ≠ f.md.toNat % 8 ∨ k = 0) → b.p l k = x.w.team.p l k)
    let rows := fun l i => (x.w.team.v l f.vc.toNat).toNat / 2 ^ (3 * i) % 8
    let permutes := fun l => ∀ k < n, ∃ i < n, rows l i = k
    F.nanCode = defaultNan x.ty ∧
    (laneReady s f (qcholSpec f) x → ∃ t b, exec (.qchol f) s = .next t ∧ laneCompletes s t x b ∧ frame b false ∧
      ∀ l ∈ x.lanes, ∃ m, choleskyOf F (elemOf x l f.va n) n (qTau f) m (b.v l f.vb.toNat).toNat ∧ holds b l m ∧
        predicate b l (b.v l f.vb.toNat).toNat) ∧
    (laneReady s f (qlupSpec f) x → ∃ t b, exec (.qlup f) s = .next t ∧ laneCompletes s t x b ∧ frame b true ∧
      ∀ l ∈ x.lanes, ∃ m row, lupOf F (elemOf x l f.va n) n (qTau f) m row (b.v l f.vb.toNat).toNat ∧ holds b l m ∧
        (b.v l f.vc.toNat).toNat / 2 ^ 18 = 0 ∧ (∀ i < 6, (b.v l f.vc.toNat).toNat / 2 ^ (3 * i) % 8 = row i) ∧
        predicate b l (b.v l f.vb.toNat).toNat) ∧
    (laneReady s f (qsolcSpec f) x → ∃ t b, exec (.qsolc f) s = .next t ∧ laneCompletes s t x b ∧
      ∃ (m y : Nat → Nat → Nat → Nat), lanesHold b x.w.team x.lanes f.vd.toNat (n * qF3 f * regsOf x.ty)
          (fun l => rowMajor x.ty n (qF3 f) (fun i j => m l j i)) ∧
        ∀ l ∈ x.lanes, ∀ j < qF3 f, solvedDown F (elemOf x l f.va n) n true (fun i => elemOf x l f.vb (qF3 f) i j) (y l j) ∧
          solvedUp F (fun i k => elemOf x l f.va n k i) n (y l j) (m l j)) ∧
    (laneReady s f (qsollSpec f) x → ∃ t b, exec (.qsoll f) s = .next t ∧ laneCompletes s t x b ∧
      ∃ (m y : Nat → Nat → Nat → Nat), lanesHold b x.w.team x.lanes f.vd.toNat (n * qF3 f * regsOf x.ty)
          (fun l => rowMajor x.ty n (qF3 f) (fun i j => m l j i)) ∧
        ∀ l ∈ x.lanes, ∀ j < qF3 f,
          (permutes l → solvedDown F (elemOf x l f.va n) n false (fun i => elemOf x l f.vb (qF3 f) (rows l i) j) (y l j) ∧
            solvedUp F (elemOf x l f.va n) n (y l j) (m l j)) ∧
          (¬ permutes l → ∀ i < n, m l j i = defaultNan x.ty)) ∧
    (laneReady s f (qdetSpec f) x → ∃ t b, exec (.qdet f) s = .next t ∧ laneCompletes s t x b ∧
      ∃ g, lanesHold b x.w.team x.lanes f.vd.toNat (regsOf x.ty) g ∧ ∀ l ∈ x.lanes,
        let inversions := ((List.range n).map (fun j => (List.range j).countP (fun i => decide (rows l j < rows l i)))).sum
        let diag := fun i => elemOf x l f.va n i i
        (f.md.toNat % 2 = 0 → g l = F.rne (FNum.mul (F.decode (productFrom F diag n (F.rne (FNum.ofInt 1))))
          (F.decode (productFrom F diag n (F.rne (FNum.ofInt 1)))))) ∧
        (f.md.toNat % 2 = 1 → permutes l →
          g l = productFrom F diag n (F.rne (FNum.ofInt (if inversions % 2 = 1 then -1 else 1)))) ∧
        (f.md.toNat % 2 = 1 → ¬ permutes l → g l = defaultNan x.ty))

/-- What QLD and QST ask of their words (R366). -/
def qldSpec (f : LaneFields) (_ : LaneCtx) : LaneSpec :=
  { LaneSpec.plain with
    reserved := memRefused f .load false || mxOf f != 0 || shapeBad true (qvF1 f) || shapeBad true (qvF2 f) || field f.vc 6 2 != 0,
    types := some clsQf, groups := group f.ty.toNat f.vd (qvF1 f * qvF2 f) true :: indexGroup f }
def qstSpec (f : LaneFields) (_ : LaneCtx) : LaneSpec :=
  { LaneSpec.plain with
    reserved := memRefused f .store true || f.bsel != 0 || mxOf f != 0 || f.vd != 0 || shapeBad true (qvF1 f)
      || shapeBad true (qvF2 f) || field f.vc 6 2 != 0,
    types := some clsQf, groups := group f.ty.toNat f.vb (qvF1 f * qvF2 f) false :: indexGroup f }

/-- R366: QLD and QST move each active lane's matrix, element by element from its address on, between scratchpads and consecutive
registers; the lanes' addresses here are their own, and the highest lane's store of a byte stays. -/
def Says.MatrixMemory : Prop :=
  ∀ (s : State) (f : LaneFields) (x : LaneCtx) (kk oo : Nat → Nat), Tab.wf 0 x.w.team.vregs = true → x.w.team.k.regs ≤ 16 →
    f.md.toNat / 8 % 2 = 1 → f.imm.toNat % 4 = 0 → x.lanes ≠ [] → x.c.sent = none → x.c.watched = [] →
    s.inFlight x.w true = [] →
    let n := 4 * regsOf x.ty
    let size := f.vc.toNat % 8 * (f.vc.toNat / 8 % 8) * n
    let leads := fun (kind : AccKind) => ∀ l ∈ x.lanes,
      (∃ tm, s.team (kk l) = some tm ∧ Tab.wf 0 tm.scratch = true) ∧
      ∀ i a, (x.elements kind l)[i]? = some a → a.addr = x.addr l + .ofNat 64 (i * n) ∧
        reaches s x.w a (.scratch (kk l) (oo l + i * n)) s
    (laneReady s f (qldSpec f) x → leads .load →
      ∃ t c, exec (.qld f) s = .next t ∧ memoryKept s t ∧ t.team x.w.key = some c ∧
        clauseWentOn c x.w.team x.w.pi x.w.path ∧ (∀ k, k ≠ x.w.key → t.team k = s.team k) ∧
        lanesHold { c with paths := x.w.team.paths } x.w.team x.lanes f.vd.toNat (size / 4) (fun l => ofBytes ((List.range size).map (fun i =>
          Tab.get 0 (((s.team (kk l)).map (·.scratch)).getD []) (oo l + i))))) ∧
    (laneReady s f (qstSpec f) x → leads .store → s.mem.wf = true →
      ∃ t, exec (.qst f) s = .next t ∧ releasedMemory s t x.w (ordOf f) (scopeOf f) ∧
        ∀ k tm, s.team k = some tm → ∃ c, t.team k = some c ∧ c.vregs = tm.vregs ∧ (k ≠ x.w.key → c.version = tm.version) ∧
          ∀ y, Tab.get 0 c.scratch y =
            match x.lanes.reverse.find? (fun l => decide (kk l = k ∧ oo l ≤ y ∧ y < oo l + size)) with
            | some l => (x.w.team.laneBytes l f.vb.toNat (size / 4)).getD (y - oo l) 0
            | none => Tab.get 0 tm.scratch y)

/-! ## Matrices -/

/-- What the matrix instructions ask of their words (R355, R357, R358, R360 to R363). -/
def mzeroSpec (x : LaneCtx) : LaneSpec :=
  matSpec (fun f => f.gp != 0 || field f.md 4 2 != 0 || f.vd != 0 || f.va != 0 || f.vb != 0 || f.vc != 0 || f.ss != 0
    || f.imm != 0) x
def mstatSpec (x : LaneCtx) : LaneSpec :=
  matSpec (fun f => f.gp != 0 || field f.md 4 2 != 0 || field f.vd 6 2 != 0 || f.va != 0 || f.vb != 0 || f.vc != 0
    || f.ss != 0 || f.imm != 0) x
def loopSpec (paired : Bool) (x : LaneCtx) : LaneSpec :=
  { matSpec (fun _ => loopRefused x paired) x with
    viaIndex := if hasScale x.f && pairMode (fmtFa x.c.fmt) (fmtFb x.c.fmt) == some .exact then [group 14 x.f.vc 1 false] else [] }
def mrdSpec (x : LaneCtx) : LaneSpec :=
  let fr := fmtFr x.c.fmt
  { matSpec (fun f => field f.md 4 2 != 0 || f.va != 0 || f.vb != 0 || f.vc != 0 || field f.imm 9 23 != 0
      || (group fr f.vd 1 true).refused x.team.vcount || blockRefused x fr) x with
    badType := !frAllowed fr || x.team.record (tileOf x.f) == .cleared }
def mwrSpec (svc : Nat) (x : LaneCtx) : LaneSpec :=
  let wm : TileMode := if x.f.md.getLsbD 4 then .wide else .exact
  { matSpec (fun f => f.vd != 0 || f.vb != 0 || f.vc != 0 || field f.imm 9 23 != 0
      || (wordsGroup f.ty.toNat f.va 1 false).refused x.team.vcount || blockRefused x f.ty.toNat) x with
    types := some clsMw,
    badType := if x.team.record (tileOf x.f) = .cleared then svc == 1 && wm == .exact
      else x.team.record (tileOf x.f) != wm }

/-- The instruction enters its team's sequencer: nothing else of the team changes but its clause, which goes on (R356). -/
def enters (s t : State) (x : LaneCtx) (k : MatKind) : Prop :=
  memoryKept s t ∧ (∀ j, j ≠ x.w.key → t.team j = s.team j) ∧ ∃ c q, t.team x.w.key = some c ∧
    { c with seq := x.w.team.seq, paths := x.w.team.paths } = x.w.team ∧
    c.seq = x.w.team.seq ++
      [{ tile := x.f.md.toNat % 16, path := x.w.pi, clause := x.c.id, fmt := x.c.fmt, kind := k }] ∧
    AMap.find c.paths x.w.pi = some q ∧ q.sregs = x.w.path.sregs ∧ q.spc = x.w.path.spc ∧ q.park = x.w.path.park

/-- The first row of the block of an MRD or MWR (R360). -/
def firstRow (x : LaneCtx) : Nat := ((x.c.scalar x.f.ss).toNat + x.f.imm.toNat % 2 ^ 9) % 2 ^ 64

/-- R355 to R363, R356: with fewer than four instructions in the sequencer, MSTAT, MLOOP, MLOOPP, MRD and MWR take a place in it
with their operands, and MZERO enters it whatever it holds; with four, the clause of each of the five stops. An MLOOP whose
formats have no mode, or not that of its tile, traps ILLEGAL_TYPE, and a scale byte outside 0 to 16 of an exact pair traps
RESERVED_FIELD. Where the rules leave room it follows log entries 44 and 68, the model's reading. -/
def Says.MatrixIssue : Prop :=
  ∀ (s : State) (f : LaneFields) (x : LaneCtx),
    (laneReady s f mzeroSpec x → ∃ t, exec (.mzero f) s = .next t ∧ enters s t x .mzero) ∧
    (x.w.team.sequencerFull = false →
      (laneReady s f mstatSpec x → ∃ t, exec (.mstat f) s = .next t ∧ enters s t x (.mstat (f.vd.toNat % 64))) ∧
      (laneReady s f mrdSpec x → ∃ t m, exec (.mrd f) s = .next t ∧ enters s t x (.mrd f.vd.toNat (firstRow x) m) ∧
        ∀ l < 1024, m.getLsbD l = decide (l ∈ x.lanes)) ∧
      (laneReady s f (mwrSpec s.dev.svc) x → ∃ t m, exec (.mwr f) s = .next t ∧
        enters s t x (.mwr f.va.toNat (firstRow x) f.ty.toNat (decide (f.md.toNat / 16 % 2 = 1)) (decide (f.md.toNat / 32 = 1)) m) ∧
        ∀ l < 1024, m.getLsbD l = decide (l ∈ x.lanes))) ∧
    (∀ i paired, (i, paired) ∈ [(Instr.mloop, false), (Instr.mloopp, true)] → laneReady s f (loopSpec paired) x →
      (scaleRefused x = true → exec (i f) s = .next (s.trapError x.w.key x.w.pi .reservedField (wholeLane x) 0)) ∧
      (scaleRefused x = false → loopModeRefused x = true →
        exec (i f) s = .next (s.trapError x.w.key x.w.pi .illegalType (wholeLane x) 0)) ∧
      (scaleRefused x = false → loopModeRefused x = false → (s.dev.svc ≠ 1 ∨ exactWork x = false) → x.lanes ≠ [] →
        x.w.team.sequencerFull = false →
        ∃ t, exec (i f) s = .next t ∧ enters s t x (.mloop f.va.toNat f.vb.toNat (f.imm.toNat % 2 ^ 8 + 1)
          (f.imm.toNat / 2 ^ 8 % 2 ^ 8) (f.imm.toNat / 2 ^ 16 % 2 ^ 8)
          (if f.md.toNat / 16 % 2 = 1 then some f.vc.toNat else none) paired 0))) ∧
    (x.w.team.sequencerFull = true → ∀ i spec, (i, spec) ∈ [(Instr.mstat, mstatSpec), (Instr.mrd, mrdSpec),
        (Instr.mwr, mwrSpec s.dev.svc), (Instr.mloop, loopSpec false), (Instr.mloopp, loopSpec true)] → laneReady s f spec x →
      (i ∈ [Instr.mloop, Instr.mloopp] → scaleRefused x = false ∧ loopModeRefused x = false ∧
        (s.dev.svc ≠ 1 ∨ exactWork x = false) ∧ x.lanes ≠ []) →
      ∃ t q, exec (i f) s = .next t ∧ memoryKept s t ∧ t.path x.w.key x.w.pi = some q ∧ q.park.isSome = true ∧
        ∃ c, t.team x.w.key = some c ∧ c.seq = x.w.team.seq ∧ c.tiles = x.w.team.tiles)

/-- One team, at a slot of a core that no other team shares, whose sequencer holds one operation that nothing blocks. -/
def loneOperation (s : State) (core slot : Nat) (tm : Team) (m : MatOp) : Prop :=
  slot < 16 ∧ s.team (core * 16 + slot) = some tm ∧ (∀ j < 16, j ≠ slot → s.team (core * 16 + j) = none) ∧ tm.seq = [m] ∧
    tm.phase = .running ∧ s.pendingLoads (core * 16 + slot) = [] ∧ (s.core (core - core % 2)).pairPending = [] ∧
    (s.core (core - core % 2 + 1)).pairPending = [] ∧ AMap.rising s.teams = true ∧
    ∀ k t, s.team k = some t → t.teamId = tm.teamId → k = core * 16 + slot

/-- The team at a slot becomes `c`, but for what its paths count and hold, and memory and the other teams are as before. -/
def teamBecomes (s t : State) (key : Nat) (c : Team) : Prop :=
  memoryKept s t ∧ (∀ j, j ≠ key → (t.team j).isSome = (s.team j).isSome) ∧
    ∃ b, t.team key = some b ∧ { b with paths := c.paths, handler := c.handler } = c

/-- The tile has a mode and the given entries in some rows. -/
def tileHolds (b : Team) (k : Nat) (mode : TileMode) (rows : Nat) (v : Nat → Nat → Nat) : Prop :=
  (b.tile k).mode = mode ∧ ∀ i j, i < rows → j < 128 → (b.tile k).entry i j = v i j

/-- R222, R223, R227, R357, R358, R359, R361, R362, R363: an operation alone in a sequencer runs when MATRIX_STEP, or for a
paired step PAIRED_STEP_START, starts it. MZERO clears its tile. A step of an MLOOP adds the products of A and B to each entry,
exactly or with one rounding, and a further step follows until STEPS are done. MRD reads a block out into vd of its lanes, MWR
writes one from va, and MSTAT writes the tile's status to a scalar register. Where the rules leave room it follows log entry 68,
the model's reading. -/
def Says.MatrixSteps : Prop :=
  ∀ (s : State) (core slot : Nat) (tm : Team) (m : MatOp), loneOperation s core slot tm m →
    let key := core * 16 + slot
    let others := fun (b : Team) => ∀ k, k ≠ m.tile → b.tile k = tm.tile k
    (m.kind = .mzero → ∃ t b, exec (.matrixStep core) s = .next t ∧ teamBecomes s t key b ∧ b.seq = [] ∧
      tileHolds b m.tile .cleared 256 (fun _ _ => 0) ∧ (b.tile m.tile).bad = false ∧ others b ∧ b.vregs = tm.vregs) ∧
    (∀ a0 b0 steps ia ib sc paired n, m.kind = .mloop a0 b0 steps ia ib sc paired n →
      (paired = true → core % 2 = 0) → (paired = false ∨ tm.k.pair = true) →
      let fa := m.fmt.toNat % 16
      let fb := m.fmt.toNat / 16 % 16
      let e : Int := match sc with
        | some v => toSigned 8 ((tm.v (n / 4) v).toNat / 2 ^ (8 * (n % 4)))
        | none => 0
      let rows := if tm.k.pair then 256 else 128
      let ps := fun i j => (List.range (stepK fa fb)).map (fun k =>
        (tm.fragA paired fa (a0 + n * ia) i k, tm.fragB paired fb (b0 + n * ib) k j))
      ∃ t b, exec (if paired then .pairedStepStart core else .matrixStep core) s = .next t ∧ teamBecomes s t key b ∧
        b.seq = (if n + 1 < steps then [{ m with kind := .mloop a0 b0 steps ia ib sc paired (n + 1) }] else []) ∧
        others b ∧ b.vregs = tm.vregs ∧
        (pairMode fa fb = some .exact → tileHolds b m.tile .exact rows (fun i j =>
          stepExact e (ps i j) ((tm.tile m.tile).entry i j))) ∧
        (pairMode fa fb = some .wide → tileHolds b m.tile .wide rows (fun i j =>
          stepWide e (ps i j) ((tm.tile m.tile).entry i j)))) ∧
    (∀ vd row0 lanes, m.kind = .mrd vd row0 lanes → Tab.wf 0 tm.vregs = true → vd + regsOf (fmtFr m.fmt) ≤ 256 →
      let fr := fmtFr m.fmt
      let n := packCount fr
      ∃ t b, exec (.matrixStep core) s = .next t ∧ teamBecomes s t key b ∧ b.seq = [] ∧ b.tiles = tm.tiles ∧
        (∀ l k, k < 256 → l < 1024 → b.v l k =
          if l < tm.k.lanes ∧ lanes.getLsbD l = true ∧ vd ≤ k ∧ k < vd + regsOf fr then
            .ofNat 32 (packElems fr ((List.range n).map (fun e => (tm.tile m.tile).readOut m.fmt
              (fun col => decide (row0 ≤ row0 + (l * n + e) / 128) && tm.takes lanes
                (((row0 + (l * n + e) / 128 - row0) * 128 + col) / n))
              (row0 + (l * n + e) / 128) ((l * n + e) % 128))) / 2 ^ (32 * (k - vd)))
          else tm.v l k)) ∧
    (∀ va row0 ty wide add lanes, m.kind = .mwr va row0 ty wide add lanes → (convOf m.fmt).rm ≠ .stochastic →
      let n := packCount ty
      let old := tm.tile m.tile
      let mode : TileMode := if old.mode = .cleared then (if wide then .wide else .exact) else old.mode
      ∃ t b, exec (.matrixStep core) s = .next t ∧ teamBecomes s t key b ∧ b.seq = [] ∧ others b ∧ b.vregs = tm.vregs ∧
        tileHolds b m.tile mode (if tm.k.pair then 256 else 128) (fun i j =>
          let q := (i - row0) * 128 + j
          if row0 ≤ i ∧ q / n < tm.k.lanes ∧ lanes.getLsbD (q / n) = true then
            let v := decodeElem ty (elemAt ty (tm.v (q / n) va).toNat (q % n))
            Machine.writeEntry mode add (convOf m.fmt).rm 0 (if ty = 8 ∨ ty = 9 then v.scale (convOf m.fmt).dsc else v)
              (old.entry i j)
          else old.entry i j)) ∧
    (∀ sd p, m.kind = .mstat sd → sd < 64 → AMap.find tm.paths m.path = some p → Tab.wf 0 p.sregs = true →
      ∃ t b q, exec (.matrixStep core) s = .next t ∧ t.team key = some b ∧ memoryKept s t ∧ b.seq = [] ∧ b.tiles = tm.tiles ∧
        b.vregs = tm.vregs ∧ AMap.find b.paths m.path = some q ∧
        ∀ r, q.s r = if r.toNat = sd ∧ r ≠ 0 then .ofNat 64 ((match (tm.tile m.tile).mode with
            | .cleared => 0
            | .exact => 1
            | .wide => 2) + (if (tm.tile m.tile).bad then 4 else 0) + (if tm.k.pair then 8 else 0) +
            tm.k.tileCount % 256 * 2 ^ 8)
          else p.s r)

/-! ## Cores: clauses and ticks -/

/-- The only team of a core, with one path. -/
def lonePath (s : State) (core slot : Nat) (tm : Team) (pi : Nat) (p : Path) : Prop :=
  slot < 16 ∧ pi < 8 ∧ s.team (core * 16 + slot) = some tm ∧ (∀ j < 16, j ≠ slot → s.team (core * 16 + j) = none) ∧
    tm.paths = [(pi, p)] ∧ tm.phase = .running ∧ s.dev.stopped = false

/-- R87, R193: CLAUSE_START takes the head of a path's queue on an idle datapath when the flags of its wait mask have nothing
outstanding, its own flags have room and no register that it uses awaits a write (R194). The clause of a paired team runs on the
datapaths of both cores. Otherwise, and while such a datapath runs a clause, it does nothing. CLAUSE_COMPLETION removes an ended
clause with nothing outstanding from its path, which lowers its flags. Nothing else changes. Where the rules leave room it
follows log entries 7 and 46, the model's reading. -/
def Says.ClauseEvents : Prop :=
  (∀ (s : State) (core slot pi : Nat) (tm : Team) (p : Path) (c : Clause) (cs : List Clause),
    lonePath s core slot tm pi p → p.run = none → p.park = none → p.stop = none → p.queue = c :: cs →
    (∀ e ∈ s.teams, e.2.launch = tm.launch → e.2.nbh = tm.nbh → e.2.phase ≠ .restoring) → tm.replays = [] → tm.dueFirst = false →
    let idle := (s.core core).running = none ∧ (tm.k.pair = true → (s.core (core + 1)).running = none)
    let free := (∀ n < 12, (c.wait.getLsbD n = true → p.outstanding n = 0) ∧ (c.names n = true → p.outstanding n < 63)) ∧
      s.clauseWaitsRegs (core * 16 + slot) tm c = false
    (free → idle → ∃ t q, exec (.clauseStart core) s = .next t ∧ memoryKept s t ∧
      (t.core core).running = some (slot, pi) ∧ (tm.k.pair = true → (t.core (core + 1)).running = some (tm.oddSlot, pi)) ∧ t.path (core * 16 + slot) pi = some q ∧
      q = { p with run := some c, queue := cs } ∧ (∀ k, k ≠ core * 16 + slot → t.team k = s.team k)) ∧
    (¬ free ∨ ¬ idle → exec (.clauseStart core) s = .next s)) ∧
  ∀ (s : State) (core slot path : Nat) (p : Path), s.path (core * 16 + slot) path = some p →
    (∀ pre c post, p.done = pre ++ c :: post → c.pend = 0 → (∀ d ∈ pre, d.pend ≠ 0) →
      ∃ t, exec (.clauseCompletion core slot path) s = .next t ∧ { t with teams := s.teams } = s ∧
        t.path (core * 16 + slot) path = some { p with done := pre ++ post } ∧
        (∀ k, k ≠ core * 16 + slot → t.team k = s.team k)) ∧
    ((∀ d ∈ p.done, d.pend ≠ 0) → ∃ t, exec (.clauseCompletion core slot path) s = .next t ∧
      t.path (core * 16 + slot) path = some p ∧ ∀ k, k ≠ core * 16 + slot → t.team k = s.team k)

/-- R11, R108, R250: CTIME_TICK in D0 advances the core's time by one, the timestamp of each path of the core by one, and CCYC
of its running teams by 64; teams of other cores, memory and every register stay. In another power state no team and no core's
time changes. A word that encodes nothing traps ILLEGAL_OPCODE (R3, R245), and the report names the lowest lane of the path or
of the clause. Where the rules leave room it follows log entries 6 and 44, the model's reading. -/
def Says.TickAndUnassigned : Prop :=
  (∀ (s : State) (core : Nat), ∃ t, exec (.ctimeTick core) s = .next t ∧ memoryKept s t ∧
    (s.dev.power ≠ .d0 → t.teams = s.teams ∧ t.cores = s.cores) ∧
    (s.dev.power = .d0 → (t.core core).ctime = (s.core core).ctime + 1 ∧
    ∀ k tm, s.team k = some tm →
      (k / 16 ≠ core → t.team k = some tm) ∧
      (k / 16 = core → ∃ b, t.team k = some b ∧ b.vregs = tm.vregs ∧ b.pregs = tm.pregs ∧ b.scratch = tm.scratch ∧
        b.version = tm.version ∧ b.ccyc = (if tm.phase = .running then tm.ccyc + 64 else tm.ccyc) ∧
        ∀ j p, AMap.find tm.paths j = some p → ∃ q, AMap.find b.paths j = some q ∧ q.pts = p.pts + 1 ∧ q.spc = p.spc ∧
          q.sregs = p.sregs))) ∧
  (∀ (s : State) (w : Who) (x : BitVec 32), issuer s = some w →
    exec (.unassignedEncoding (.scalar x)) s = .next (trapScalar s w .illegalOpcode)) ∧
  ∀ (s : State) (w : Who) (x : BitVec 96), issuer s = some w →
    exec (.unassignedEncoding (.lane x)) s = .next (s.trapError w.key w.pi .illegalOpcode
      (((List.range 1024).find? (fun l =>
        ((w.path.run.map (fun c => c.only.getD c.mask)).getD w.path.mask).getLsbD l)).getD 0) 0)

/-! ## Queue processors -/

/-- The queue processor that issues, in machine or supervisor mode. -/
def hartReady (s : State) (h : Nat) (k : Hart) : Prop :=
  s.ctx.hart = h ∧ AMap.find s.sched.harts h = some k ∧ k.mode ≠ .user ∧ Tab.wf 0 k.x = true ∧ Tab.wf 0 k.csr = true

/-- Nothing of the queue processors' part of the state differs but queue processor `h`, which becomes `k`. -/
def hartBecomes (s t : State) (h : Nat) (k : Hart) : Prop :=
  { t with sched := s.sched } = s ∧ { t.sched with harts := s.sched.harts } = s.sched ∧ t.hart h = k ∧
    ∀ j, j ≠ h → t.hart j = s.hart j

/-- The queue processor goes on at next with `rd` holding `v`, where x0 takes no value, and minstret counts the instruction unless
mcountinhibit stops it. -/
def hartWrote (k k' : Hart) (rd : Reg5) (v : Word64) : Prop :=
  { k' with x := k.x, csr := k.csr } = { k with pc := k.pc + 4, swait := none } ∧
    (∀ r, k'.r r = if r = rd ∧ r ≠ 0 then v else k.r r) ∧
    ∀ n, Tab.get 0 k'.csr n =
      if n = 0xB02 ∧ (Tab.get 0 k.csr 0x320).getLsbD 2 = false then Tab.get 0 k.csr n + 1 else Tab.get 0 k.csr n

/-- The queue processor has taken an exception into machine mode: mepc is the instruction, mcause and mtval name it, and it goes on
at the base of mtvec, with its registers (R56). The bits of mstatus are those of RISC-V. -/
def raisedToMachine (k k' : Hart) (cause : Nat) (tval : Word64) : Prop :=
  { k' with mepc := k.mepc, mcause := k.mcause, mtval := k.mtval, mstatus := k.mstatus, mode := k.mode, pc := k.pc,
            swait := k.swait } = k ∧
    k'.mepc = k.pc ∧ k'.mcause = .ofNat 64 cause ∧ k'.mtval = tval ∧ k'.mode = .machine ∧
    k'.pc.toNat = k.mtvec.toNat / 4 * 4 ∧ k'.mstatus.getLsbD 3 = false ∧ k'.mstatus.getLsbD 7 = k.mstatus.getLsbD 3 ∧
    k'.mstatus.toNat / 2 ^ 11 % 4 = k.mode.code ∧
    ∀ n, n ≠ 3 → n ≠ 7 → n ≠ 11 → n ≠ 12 → k'.mstatus.getLsbD n = k.mstatus.getLsbD n

/-- The same into supervisor mode: sepc, scause and stval, at the base of stvec. -/
def raisedToSupervisor (k k' : Hart) (cause : Nat) (tval : Word64) : Prop :=
  { k' with csr := k.csr, mstatus := k.mstatus, mode := k.mode, pc := k.pc, swait := k.swait } = k ∧
    k'.mode = .supervisor ∧ k'.pc.toNat = (Tab.get 0 k.csr 0x105).toNat / 4 * 4 ∧
    (∀ n, Tab.get 0 k'.csr n = if n = 0x141 then k.pc else if n = 0x142 then .ofNat 64 cause else if n = 0x143 then tval
      else Tab.get 0 k.csr n) ∧
    k'.mstatus.getLsbD 1 = false ∧ k'.mstatus.getLsbD 5 = k.mstatus.getLsbD 1 ∧
    k'.mstatus.getLsbD 8 = decide (k.mode = .supervisor) ∧
    ∀ n, n ≠ 1 → n ≠ 5 → n ≠ 8 → k'.mstatus.getLsbD n = k.mstatus.getLsbD n

/-- The queue processor has taken an exception (R56), which medeleg may give to supervisor mode as RISC-V says. -/
def hartRaised (k k' : Hart) (cause : Nat) (tval : Word64) : Prop :=
  if k.mode ≠ .machine ∧ (Tab.get 0 k.csr 0x302).toNat.testBit cause = true then raisedToSupervisor k k' cause tval
  else raisedToMachine k k' cause tval

/-- R55, R56, R58: BFXU and BFXS take a field of rs1; a field specification that is not valid raises exception 27 with rs2. In
user mode each command instruction raises an illegal-instruction exception, as a word that encodes nothing does. Where the rules
leave room it follows log entry 10, the model's reading. -/
def Says.CommandFields : Prop :=
  (∀ (s : State) (h : Nat) (k : Hart) (rd rs1 rs2 : Reg5), hartReady s h k →
    let spec := (k.r rs2).toNat
    let lo := spec % 2 ^ 6
    let wd := spec / 2 ^ 6 % 2 ^ 7
    let x := (k.r rs1).toNat / 2 ^ lo % 2 ^ wd
    (spec < 2 ^ 13 → 1 ≤ wd → lo + wd ≤ 64 →
      (∃ t k', exec (.bfxu rd rs1 rs2) s = .next t ∧ hartBecomes s t h k' ∧ hartWrote k k' rd (.ofNat 64 x)) ∧
      (∃ t k', exec (.bfxs rd rs1 rs2) s = .next t ∧ hartBecomes s t h k' ∧ hartWrote k k' rd (.ofInt 64 (toSigned wd x)))) ∧
    (2 ^ 13 ≤ spec ∨ wd = 0 ∨ 64 < lo + wd → ∀ i ∈ [Instr.bfxu rd rs1 rs2, Instr.bfxs rd rs1 rs2],
      ∃ t k', exec i s = .next t ∧ hartBecomes s t h k' ∧ hartRaised k k' 27 (k.r rs2))) ∧
  (∀ (s : State) (h : Nat) (k : Hart) (c : BitVec 3) (rd rs1 rs2 : Reg5), s.ctx.hart = h →
    AMap.find s.sched.harts h = some k → k.mode = .user → Tab.wf 0 k.csr = true →
    ∀ i ∈ [Instr.rfetch rd rs1 rs2, Instr.bfxu rd rs1 rs2, Instr.bfxs rd rs1 rs2, Instr.swait c rd rs1 rs2,
        Instr.disp rd rs1 rs2],
      ∃ t k', exec i s = .next t ∧ hartBecomes s t h k' ∧ hartRaised k k' 2 (BitVec.setWidth 64 (s.hartWord h))) ∧
  ∀ (s : State) (h : Nat) (k : Hart) (x : BitVec 32), s.ctx.hart = h → AMap.find s.sched.harts h = some k →
    Tab.wf 0 k.csr = true → ∃ t k', exec (.illegalInstruction x) s = .next t ∧ hartBecomes s t h k' ∧ hartRaised k k' 2 (BitVec.setWidth 64 x)

/-- An address of a queue processor's local SRAM (R54). -/
def sramAddr (v : Word64) (off : Nat) : Prop := v.toNat = 2 ^ 62 + off ∧ off < 2 ^ 18

/-- R56, R57, R60, R64: RFETCH of an enabled queue that this queue processor serves moves the next packet to local SRAM, from
the inline slot that holds its index or else from the ring, and its header to rd, or gives 0 when the ring holds none. A ring
read that ends with an error raises exception 25 and puts the queue in the error state. DISP of a packet that passes the checks
of R78 creates a launch and gives its handle, that of the launch where the packet has one, and the class of a check that fails
with bit 63 set. A queue of another server raises exception 24 in both, a queue that is not enabled in RFETCH, and a buffer that
is misaligned or outside local SRAM exception 26. Where the rules leave room it follows log entries 10, 74, 75, 116 and 138, the
model's reading. -/
def Says.FetchAndDispatch : Prop :=
  ∀ (s : State) (h : Nat) (k : Hart) (rd ra rb : Reg5), hartReady s h k →
    (∀ q off, (k.r ra).toNat = q → q < 1024 → q % 8 = h → (s.queue q).qctl.toNat % 2 = 1 → sramAddr (k.r rb) off → off % 64 = 0 →
      let u := s.queue q
      let arrives := fun (t : State) (b : List Byte) =>
        memoryKept s t ∧ t.teams = s.teams ∧
          (∀ r, (t.hart h).r r = if r = rd ∧ r ≠ 0 then .ofNat 64 (ofBytes (b.take 8)) else k.r r) ∧
          (t.hart h).pc = k.pc + 4 ∧
          (∀ y, Tab.get 0 (t.hart h).sram y = if off ≤ y ∧ y < off + 64 then b.getD (y - off) 0 else Tab.get 0 k.sram y) ∧
          (t.queue q).fetchIdx = u.fetchIdx + 1 ∧
          ∃ p, (t.queue q).packets = u.packets ++ [p] ∧ p.bytes = b ∧ p.idx = u.fetchIdx ∧ p.st = .fetched
      (u.fetchIdx = u.qwr → ∃ t k', exec (.rfetch rd ra rb) s = .next t ∧ hartBecomes s t h k' ∧ hartWrote k k' rd 0) ∧
      (u.fetchIdx ≠ u.qwr → u.qerr = 0 → u.rstBusy = false → Tab.wf 0 k.sram = true →
        (∀ b, u.inline_ = some (u.fetchIdx, b) → b.length = 64 →
          ∃ t, exec (.rfetch rd ra rb) s = .next t ∧ arrives t b ∧ (t.queue q).inline_ = none) ∧
        (∀ a, (∀ i, u.inline_ = some i → i.1 ≠ u.fetchIdx) →
          (u.qbase.toNat + u.fetchIdx.toNat % 2 ^ (u.qctl.toNat / 2 ^ 27 % 2 ^ 5) * 64) % 2 ^ 64 = a → a < 2 ^ 62 →
          a + 64 ≤ s.dev.limit →
          ((∀ i < 64, s.mem.badLines.contains ((a + i) / 64) = false) →
            ∃ t, exec (.rfetch rd ra rb) s = .next t ∧ arrives t ((List.range 64).map (fun i => byteAt s (a + i))) ∧
              (t.queue q).inline_ = u.inline_) ∧
          (s.mem.badLines.contains (a / 64) = true →
            ∃ t, exec (.rfetch rd ra rb) s = .next t ∧ hartRaised k (t.hart h) 25 (k.r ra) ∧
              (t.queue q).qerr = 1 ∧ (t.queue q).fetchIdx = u.fetchIdx)))) ∧
    (∀ q off, (k.r rb).toNat = q → q < 1024 → q % 8 = h → sramAddr (k.r ra) off → off % 64 = 0 → s.dispStalls = false →
      let b := (List.range 64).map (fun i => Tab.get 0 k.sram (off + i))
      let seq : BitVec 32 := .ofNat 32 (ofBytes ((b.drop 4).take 4))
      let u := s.queue q
      let asid := u.qctl.toNat / 2 ^ 4 % 2 ^ 12
      s.checkWaits asid b = false →
      (∀ s1 c, s.checkLaunch asid true b = (s1, .error c) → ∃ t k', exec (.disp rd ra rb) s = .next t ∧
        hartBecomes s1 t h k' ∧ hartWrote k k' rd (.ofNat 64 (2 ^ 63 + c.code))) ∧
      (∀ s1 d, s.checkLaunch asid true b = (s1, .ok d) →
        (∀ pre n l post, s1.sched.launches = pre ++ (n, l) :: post → l.queue = q → l.pkt = some seq →
          (∀ e ∈ pre, e.2.queue ≠ q ∨ e.2.pkt ≠ some seq) →
          ∃ t k', exec (.disp rd ra rb) s = .next t ∧ hartBecomes s1 t h k' ∧ hartWrote k k' rd (.ofNat 64 n)) ∧
        (∀ n, (∀ e ∈ s1.sched.launches, e.2.queue ≠ q ∨ e.2.pkt ≠ some seq) → AMap.freeBelow s1.sched.launches 4096 = some n →
          ∃ t l, exec (.disp rd ra rb) s = .next t ∧ memoryKept s1 t ∧ t.launch n = some l ∧ l.k = d ∧ l.queue = q ∧
            l.asid = asid ∧ l.args = .ofNat 64 (ofBytes ((b.drop 24).take 8)) ∧
            ((∃ p ∈ u.packets, p.idx = seq) → (∀ p ∈ u.packets, p.idx = seq → p.st = .fetched) →
              l.pkt = some seq ∧ l.begun = u.rstBusy ∧ l.cancelled = u.rstBusy) ∧
            ((∀ p ∈ u.packets, p.idx = seq → p.st ≠ .fetched) → u.rstBusy = false →
              l.pkt = none ∧ l.begun = true ∧ l.cancelled = decide ((u.fetchIdx - 1 - seq).toNat < 2 ^ 31)) ∧
            (∀ m, m ≠ n → t.launch m = s1.launch m) ∧
            (∀ r, (t.hart h).r r = if r = rd ∧ r ≠ 0 then .ofNat 64 n else k.r r) ∧ (t.hart h).pc = k.pc + 4))) ∧
    (1024 ≤ (k.r ra).toNat ∨ (k.r ra).toNat % 8 ≠ h →
      (∃ t k', exec (.rfetch rd ra rb) s = .next t ∧ hartBecomes s t h k' ∧ hartRaised k k' 24 (k.r ra)) ∧
      (∃ t k', exec (.disp rd rb ra) s = .next t ∧ hartBecomes s t h k' ∧ hartRaised k k' 24 (k.r ra))) ∧
    ((s.queue (k.r ra).toNat).qctl.toNat % 2 = 0 →
      ∃ t k', exec (.rfetch rd ra rb) s = .next t ∧ hartBecomes s t h k' ∧ hartRaised k k' 24 (k.r ra)) ∧
    ((k.r ra).toNat < 1024 → (k.r ra).toNat % 8 = h → (∀ off, sramAddr (k.r rb) off → off % 64 ≠ 0) →
      ((s.queue (k.r ra).toNat).qctl.toNat % 2 = 1 →
        ∃ t k', exec (.rfetch rd ra rb) s = .next t ∧ hartBecomes s t h k' ∧ hartRaised k k' 26 (k.r rb)) ∧
      (∃ t k', exec (.disp rd rb ra) s = .next t ∧ hartBecomes s t h k' ∧ hartRaised k k' 26 (k.r rb)))

/-- R54, R59: words of the base set that a queue processor executes: ADD and BEQ as RISC-V has them, and CSRRW of qpwto, which
only machine mode may name; in another mode the word is illegal and takes exception 2. Where the rules leave room it follows log
entries 9 and 10, the model's reading. -/
def Says.BaseInstructions : Prop :=
  ∀ (s : State) (h : Nat) (k : Hart) (w : BitVec 32), AMap.find s.sched.harts h = some k →
    let becomes := fun (k' : Hart) => s.runBase h w = s.modHart h (fun _ => k')
    (field w 0 7 = 0x33 → f3Of w = 0 → f7Of w = 0 →
      becomes (k.goTo (rdOf w) (k.r (rs1Of w) + k.r (rs2Of w)) (k.pc + 4))) ∧
    (field w 0 7 = 0x63 → f3Of w = 0 →
      becomes (k.goTo 0 0 (k.pc + (if k.r (rs1Of w) = k.r (rs2Of w) then immB w else 4)))) ∧
    (field w 0 7 = 0x73 → f3Of w = 1 → field w 20 12 = 0x7C0 → k.mode = .machine →
      becomes ({ k with qpwto := k.r (rs1Of w) }.goTo (rdOf w) k.qpwto (k.pc + 4))) ∧
    (field w 0 7 = 0x73 → f3Of w = 1 → field w 20 12 = 0x7C0 → k.mode ≠ .machine →
      becomes (k.exception 2 (BitVec.setWidth 64 w)))

/-- R59: SWAIT gives VALUE once the comparison holds and waits with the last value read otherwise; a reread goes on with it, and
a timeout gives that value. Condition codes from 4 on are illegal, and an address that is not a multiple of 16 or lies past
device memory raises exception 26. Where the rules leave room it follows log entry 10, the model's reading. -/
def Says.SignalWait : Prop :=
  ∀ (s : State) (h : Nat) (k : Hart) (c : BitVec 3) (rd ra rb : Reg5) (off : Nat), hartReady s h k →
    let a := k.r ra
    let v : Word64 := .ofNat 64 (ofBytes ((List.range 8).map (fun i => byteAt s (off + i))))
    let holds := fun (x : Word64) =>
      if c.toNat = 0 then v = x else if c.toNat = 1 then v ≠ x else if c.toNat = 2 then v.toInt < x.toInt else x.toInt ≤ v.toInt
    (4 ≤ c.toNat → ∃ t k', exec (.swait c rd ra rb) s = .next t ∧ hartBecomes s t h k' ∧
      hartRaised k k' 2 (BitVec.setWidth 64 (s.hartWord h))) ∧
    (c.toNat < 4 → a.toNat % 16 ≠ 0 ∨ (s.dev.limit ≤ a.toNat ∧ a.toNat < 2 ^ 62) → ∃ t k', exec (.swait c rd ra rb) s = .next t ∧ hartBecomes s t h k' ∧
      hartRaised k k' 26 a) ∧
    (c.toNat < 4 → a.toNat = off → off % 16 = 0 → off + 8 ≤ s.dev.limit → off < 2 ^ 62 →
      s.mem.badLines.contains (off / 64) = false →
      (holds (k.r rb) → ∃ t k', exec (.swait c rd ra rb) s = .next t ∧ memoryKept s t ∧ t.hart h = k' ∧ hartWrote k k' rd v ∧
        t.teams = s.teams) ∧
      (¬ holds (k.r rb) → ∃ t, exec (.swait c rd ra rb) s = .next t ∧ memoryKept s t ∧
        t.hart h = { k with swait := some { cond := c, rd := rd, addr := a, cmp := k.r rb, last := v } }) ∧
      (∀ x last, k.swait = some { cond := c, rd := rd, addr := a, cmp := x, last := last } →
        (holds x → ∃ t k', exec (.swaitReread h) s = .next t ∧ memoryKept s t ∧ t.hart h = k' ∧ hartWrote k k' rd v) ∧
        (¬ holds x → ∃ t, exec (.swaitReread h) s = .next t ∧ memoryKept s t ∧
          t.hart h = { k with swait := some { cond := c, rd := rd, addr := a, cmp := x, last := v } }) ∧
        (k.qpwto ≠ 0 → ∃ t k', exec (.swaitTimeout h) s = .next t ∧ hartBecomes s t h k' ∧ hartWrote k k' rd last) ∧
        (k.qpwto = 0 → exec (.swaitTimeout h) s = .next s)))

/-- R54: an ordinary load, store or atomic of a queue processor reads or writes committed device memory at the address's low
bits; one that leads nowhere raises the access-fault exception of RISC-V, the model's choice. Where the rules leave room it
follows log entries 10 and 76, the model's reading. -/
def Says.QueueProcessorAccess : Prop :=
  ∀ (s : State) (h : Nat) (k : Hart) (a : Word64) (n : Nat), AMap.find s.sched.harts h = some k → Tab.wf 0 k.x = true →
    Tab.wf 0 k.csr = true →
    n ∈ [1, 2, 4, 8] → a.toNat % n = 0 → s.dev.dark = false →
    (a.toNat + n ≤ s.dev.limit → s.mem.badLines.contains (a.toNat / 64) = false → s.mem.wf = true →
      let old := ofBytes ((List.range n).map (fun i => byteAt s (a.toNat + i)))
      (∀ rd sg, ∃ t, exec (.queueProcessorAccess h { addr := a, size := n, op := .load rd sg }) s = .next t ∧ memoryKept s t ∧
        t.teams = s.teams ∧ ∀ r, (t.hart h).r r =
          if r = rd ∧ r ≠ 0 then (if sg = true then .ofInt 64 (toSigned (8 * n) old) else .ofNat 64 old) else k.r r) ∧
      (∀ x, s.lineHeld a.toNat = false →
        ∃ t, exec (.queueProcessorAccess h { addr := a, size := n, op := .store x }) s = .next t ∧
          bytesStored s t a.toNat (toBytes n x.toNat) ∧ t.mem.host = s.mem.host ∧ t.teams = s.teams ∧ t.hart h = k) ∧
      (∀ x rd, s.lineHeld a.toNat = false →
        ∃ t, exec (.queueProcessorAccess h { addr := a, size := n, op := .amo .add x 0 rd }) s = .next t ∧
          bytesStored s t a.toNat (toBytes n (old + x.toNat)) ∧ t.mem.host = s.mem.host ∧
          ∀ r, (t.hart h).r r = if r = rd ∧ r ≠ 0 then .ofInt 64 (toSigned (8 * n) old) else k.r r)) ∧
    (s.dev.limit ≤ a.toNat → a.toNat < 2 ^ 62 →
      (∀ rd sg, ∃ t k', exec (.queueProcessorAccess h { addr := a, size := n, op := .load rd sg }) s = .next t ∧
        hartBecomes s t h k' ∧ hartRaised k k' 5 a) ∧
      (∀ x, ∃ t k', exec (.queueProcessorAccess h { addr := a, size := n, op := .store x }) s = .next t ∧
        hartBecomes s t h k' ∧ hartRaised k k' 7 a))

/-! ## Queues and packets -/

/-- Word `n` of a packet. -/
def word (b : List Byte) (n : Nat) : Nat := ofBytes ((b.drop (8 * n)).take 8)

/-- Only queue `q` of the queues differs, and memory, teams and launches are as before. -/
def onlyQueue (s t : State) (q : Nat) : Prop := { t with sched := s.sched } = s ∧ ∀ j, j ≠ q → t.queue j = s.queue j

/-- R61, R64, R73: QCTL_WRITE keeps the low half of a value whose LOG2SZ and vector are in range. A launch store of the expected
index and a count that the ring has room for writes its 64 bytes to the ring entry and the inline slot and raises QWR, and waits
while the line of the entry cannot be written; any other write to LAUNCH is counted in LDROP. A reset of a queue with no packets
and no launches sets its indices to QRD and clears it. In D3hot and D3cold, and before the link is up, none of the three has an
effect (R11, R14). Where the rules leave room it follows log entries 78, 79, 80, 118, 119 and 137, the model's reading. -/
def Says.QueueControl : Prop :=
  (∀ (s : State) (q : Nat) (v : BitVec 64) (x : LaunchTlp), s.dev.dark = true ∨ s.dev.bstep = 0 →
    ∀ i ∈ [Instr.qctlWrite q v, Instr.launchStore q x, Instr.queueReset q], exec i s = .next s) ∧
  (∀ (s : State) (q : Nat) (v : BitVec 64), q < 1024 → s.dev.deaf = false →
    let n := v.toNat % 2 ^ 32
    let good : Prop := 4 ≤ n / 2 ^ 27 ∧ n / 2 ^ 27 ≤ 16 ∧ n / 2 ^ 16 % 2 ^ 11 ≤ 1023
    (good → ∃ t, exec (.qctlWrite q v) s = .next t ∧ onlyQueue s t q ∧ t.queue q = { s.queue q with qctl := .ofNat 64 n }) ∧
    (¬ good → exec (.qctlWrite q v) s = .next s)) ∧
  (∀ (s : State) (q a : Nat) (x : LaunchTlp), q < 1024 → x.off < 64 → s.dev.deaf = false →
    let k := s.queue q
    let count := x.data.toNat / 2 ^ 16 % 2 ^ 16
    let size := 2 ^ (k.qctl.toNat / 2 ^ 27 % 2 ^ 5)
    let used := (k.qwr - k.qrd).toNat
    let accepted : Prop := x.off = 0 ∧ x.len = 64 ∧ x.tlps = 1 ∧ x.allBe = true ∧ k.qctl.toNat % 2 = 1 ∧ k.rstBusy = false ∧
      x.data.toNat / 2 ^ 32 % 2 ^ 32 = k.qwr.toNat ∧ 1 ≤ count ∧ used + count ≤ size
    used ≤ size → size ≤ 2 ^ 16 →
    (accepted → (k.qbase.toNat + k.qwr.toNat % size * 64) % 2 ^ 64 = a → a + 64 ≤ s.dev.limit → s.lineHeld a = true →
      exec (.launchStore q x) s = .next s) ∧
    (accepted → (k.qbase.toNat + k.qwr.toNat % size * 64) % 2 ^ 64 = a → a + 64 ≤ s.dev.limit → s.lineHeld a = false →
      s.mem.wf = true →
      ∃ t, exec (.launchStore q x) s = .next t ∧ bytesStored s t a (toBytes 64 x.data.toNat) ∧ t.mem.host = s.mem.host ∧
        t.teams = s.teams ∧ (∀ j, j ≠ q → t.queue j = s.queue j) ∧
        t.queue q = { k with inline_ := some (k.qwr, toBytes 64 x.data.toNat), qwr := k.qwr + .ofNat 32 count,
                             rel := max k.rel s.dev.hostT }) ∧
    (¬ accepted → ∃ t, exec (.launchStore q x) s = .next t ∧ onlyQueue s t q ∧
      t.queue q = { k with ldrop := .ofNat 16 (min 65535 (k.ldrop.toNat + 1)) })) ∧
  ∀ (s : State) (q : Nat), q < 1024 → s.dev.deaf = false → (s.queue q).rstBusy = false → (s.queue q).packets = [] →
    (∀ e ∈ s.sched.launches, e.2.queue ≠ q) → (∀ e ∈ s.kv.slots, e.2.regQueue ≠ some q) → s.eng.copies = [] →
    s.fab.colls = [] → s.eng.locks = [] → s.eng.pend = [] →
    ∃ t, exec (.queueReset q) s = .next t ∧ memoryKept s t ∧ t.teams = s.teams ∧ (∀ j, j ≠ q → t.queue j = s.queue j) ∧
      t.queue q = { s.queue q with
        packets := [], qwr := (s.queue q).qrd, fetchIdx := (s.queue q).qrd, inline_ := none, ldrop := 0, qerr := 0,
        rstBusy := false, rstDone := true, skip := 0 }

/-- The one packet of a queue, which is well formed and may begin (R63, R68). -/
def onePacket (s : State) (q idx ty : Nat) (p : Packet) : Prop :=
  (s.queue q).packets = [p] ∧ p.idx = .ofNat 32 idx ∧ p.st = .fetched ∧ (s.queue q).skip = 0 ∧
    word p.bytes 0 % 2 ^ 8 = ty ∧ headerBad s.dev p.bytes = false

/-- The one packet of a queue is in a state, with its bytes and index. -/
def packetIs (t : State) (q : Nat) (p : Packet) (st : PktState) : Prop :=
  ∃ p', (t.queue q).packets = [p'] ∧ p'.bytes = p.bytes ∧ p'.idx = p.idx ∧ p'.st = st

/-- An address of device memory that a queue processor's unit of `n` bytes can read and write. -/
def deviceWord (s : State) (a n : Nat) : Prop :=
  a + n ≤ s.dev.limit ∧ (∀ l ∈ s.mem.badLines, l < lineOf a ∨ lineOf (a + n - 1) < l) ∧ s.lineHeld a = false

/-- VALUE of a signal in device memory. -/
def valueAt (s : State) (a : Nat) : Word64 := .ofNat 64 (ofBytes ((List.range 8).map (fun i => byteAt s (a + i))))

/-- Whether a value meets a condition against a comparand, as signed numbers (R59, R66). -/
def meetsCondition (c : Nat) (v x : Word64) : Prop :=
  if c = 0 then v = x else if c = 1 then v ≠ x else if c = 2 then v.toInt < x.toInt else x.toInt ≤ v.toInt

/-- R66, R67, R71: SIGNAL sets, adds to or subtracts from VALUE and ends; WAIT ends when VALUE meets its condition and waits
otherwise, until its timeout ends it with TIMER; COND cancels the SKIP packets that follow when its masked word differs;
BARRIER-AND ends when every signal that it names is 0 and waits otherwise, until its timeout. A reserved bit or value of the
header or of the body, and a misaligned target or completion signal, end each of the four with RESERVED_FIELD and no other
effect. Where the rules leave room it follows log entries 77 and 117, the model's reading. -/
def Says.SignalPackets : Prop :=
  ∀ (s : State) (q idx : Nat) (p : Packet),
    let w := word p.bytes
    (∀ a, onePacket s q idx 3 p → w 2 = a → a % 16 = 0 → deviceWord s a 8 → w 4 < 3 → w 5 = 0 → w 6 = 0 → w 7 = 0 →
      s.mem.wf = true → p.bytes.length = 64 →
      let x : Word64 := .ofNat 64 (w 3)
      ∃ t, exec (.signalPacket q idx) s = .next t ∧ packetIs t q p (.ended 1 0 0) ∧ t.mem.host = s.mem.host ∧
        t.teams = s.teams ∧
        bytesStored s t a (toBytes 8 (if w 4 = 0 then x else if w 4 = 1 then valueAt s a + x else valueAt s a - x).toNat)) ∧
    (p.bytes.length = 64 →
      let refused := fun (i : Instr) =>
        ∃ t, exec i s = .next t ∧ memoryKept s t ∧ t.teams = s.teams ∧ packetIs t q p (.ended 2 TrapClass.reservedField.code 0)
      let rest : Prop := w 5 ≠ 0 ∨ w 6 ≠ 0 ∨ w 7 ≠ 0
      (onePacket s q idx 3 p → w 2 % 16 ≠ 0 ∨ 3 ≤ w 4 ∨ rest → refused (.signalPacket q idx)) ∧
      (onePacket s q idx 4 p → w 2 % 16 ≠ 0 ∨ w 4 / 4 % 2 ^ 30 ≠ 0 ∨ rest → refused (.waitPacket q idx)) ∧
      (onePacket s q idx 5 p → w 2 % 4 ≠ 0 ∨ w 4 = 0 ∨ 2 ^ 16 ≤ w 4 ∨ rest → refused (.condPacket q idx)) ∧
      (onePacket s q idx 7 p → (∃ i < 5, w (2 + i) % 16 ≠ 0) ∨ w 7 / 2 ^ 32 ≠ 0 → refused (.barrierAndPacket q idx)) ∧
      ((s.queue q).packets = [p] → p.idx = .ofNat 32 idx → p.st = .fetched → (s.queue q).skip = 0 →
        w 0 / 2 ^ 8 % 4 ≠ 0 ∨ w 0 / 2 ^ 12 % 16 ≠ 0 ∨ w 1 % 16 ≠ 0 →
        ∀ e ∈ [(3, Instr.signalPacket q idx), (4, .waitPacket q idx), (5, .condPacket q idx), (7, .barrierAndPacket q idx)],
          w 0 % 2 ^ 8 = e.1 → refused e.2)) ∧
    (∀ a, onePacket s q idx 4 p → w 2 = a → a % 16 = 0 → deviceWord s a 8 → w 4 / 4 % 2 ^ 30 = 0 → w 5 = 0 → w 6 = 0 → w 7 = 0 →
      p.bytes.length = 64 →
      (meetsCondition (w 4 % 4) (valueAt s a) (.ofNat 64 (w 3)) →
        ∃ t, exec (.waitPacket q idx) s = .next t ∧ memoryKept s t ∧ packetIs t q p (.ended 1 0 0)) ∧
      (¬ meetsCondition (w 4 % 4) (valueAt s a) (.ofNat 64 (w 3)) →
        ∃ t, exec (.waitPacket q idx) s = .next t ∧ memoryKept s t ∧ packetIs t q p .begun)) ∧
    ((s.queue q).packets = [p] → p.idx = .ofNat 32 idx → p.st = .begun →
      (w 0 % 2 ^ 8 = 4 → w 4 / 2 ^ 32 % 2 ^ 32 ≠ 0 → ∃ t, exec (.waitPacketTimeout q idx) s = .next t ∧ onlyQueue s t q ∧
        packetIs t q p (.ended 2 TrapClass.timer.code 0)) ∧
      (w 0 % 2 ^ 8 = 7 → w 7 % 2 ^ 32 ≠ 0 → ∃ t, exec (.barrierAndTimeout q idx) s = .next t ∧ onlyQueue s t q ∧
        packetIs t q p (.ended 2 TrapClass.timer.code 0))) ∧
    (∀ a, onePacket s q idx 5 p → w 2 = a → a % 4 = 0 → deviceWord s a 4 → 1 ≤ w 4 → w 4 < 2 ^ 16 → w 5 = 0 → w 6 = 0 → w 7 = 0 →
      p.bytes.length = 64 →
      let v := ofBytes ((List.range 4).map (fun i => byteAt s (a + i)))
      ∃ t, exec (.condPacket q idx) s = .next t ∧ memoryKept s t ∧ packetIs t q p (.ended 1 0 0) ∧
        (t.queue q).skip = if (v &&& w 3 / 2 ^ 32) = w 3 % 2 ^ 32 then 0 else w 4) ∧
    (onePacket s q idx 7 p → w 7 / 2 ^ 32 = 0 →
      (∀ i < 5, w (2 + i) ≠ 0 → w (2 + i) % 16 = 0 ∧ deviceWord s (w (2 + i)) 8) →
      ((∀ i < 5, w (2 + i) ≠ 0 → valueAt s (w (2 + i)) = 0) →
        ∃ t, exec (.barrierAndPacket q idx) s = .next t ∧ memoryKept s t ∧ packetIs t q p (.ended 1 0 0)) ∧
      (∀ i < 5, w (2 + i) ≠ 0 → valueAt s (w (2 + i)) ≠ 0 →
        ∃ t, exec (.barrierAndPacket q idx) s = .next t ∧ memoryKept s t ∧ packetIs t q p .begun))

/-- R65, R67, R69, R68: a LAUNCH packet begins the launch that DISP made for it, or makes one; a COPY packet enters its copy in
the engine. A launch with no work left ends, with its packet. A report writes the outcome to bytes 8 to 15 of the packet's
signal and takes 1 from VALUE, and QRD passes the packet; after a ring error it waits for the queue's copies, as in a reset
(R68, R73). Where the rules leave room it follows log entries 75, 77, 117 and 119, the model's reading. -/
def Says.LaunchAndCompletion : Prop :=
  (∀ (s : State) (q idx n : Nat) (p : Packet) (l : Launch), onePacket s q idx 1 p → s.dbg.jctl = 0 →
    s.sched.launches = [(n, l)] → l.queue = q → l.pkt = some p.idx → l.begun = false →
    ∃ t, exec (.launchPacket q idx) s = .next t ∧ memoryKept s t ∧ t.teams = s.teams ∧ packetIs t q p .begun ∧
      t.launch n = some { l with begun := true, acq := (s.queue q).rel }) ∧
  (∀ (s s1 : State) (q idx n : Nat) (p : Packet) (d : Kdesc), onePacket s q idx 1 p → s.dbg.jctl = 0 → s.sched.launches = [] →
    s.dev.switching = false → s.checkWaits ((s.queue q).qctl.toNat / 2 ^ 4 % 2 ^ 12) p.bytes = false →
    s.checkLaunch ((s.queue q).qctl.toNat / 2 ^ 4 % 2 ^ 12) true p.bytes = (s1, .ok d) →
    AMap.freeBelow s1.sched.launches 4096 = some n →
    ∃ t l, exec (.launchPacket q idx) s = .next t ∧ memoryKept s1 t ∧ packetIs t q p .begun ∧ t.launch n = some l ∧
      l.k = d ∧ l.queue = q ∧ l.begun = true ∧ l.pkt = some p.idx) ∧
  (∀ (s : State) (q idx : Nat) (p : Packet), onePacket s q idx 2 p → p.bytes.length = 64 →
    let w := word p.bytes
    1 ≤ w 4 → w 2 + w 4 ≤ s.dev.limit → w 3 + w 4 ≤ s.dev.limit → w 4 < 2 ^ 40 → w 5 = 0 → w 6 = 0 → w 7 = 0 →
    (w 2 + w 4 ≤ w 3 ∨ w 3 + w 4 ≤ w 2 →
      ∃ t c, exec (.copyPacket q idx) s = .next t ∧ memoryKept s t ∧ packetIs t q p .begun ∧
        t.eng.copies = s.eng.copies ++ [c] ∧ c.src.toNat = w 2 ∧ c.dst.toNat = w 3 ∧ c.total = w 4 ∧ c.mode = 0 ∧
        c.packet = some (q, p.idx) ∧ c.moved = 0) ∧
    (w 2 < w 3 + w 4 → w 3 < w 2 + w 4 → ∃ t, exec (.copyPacket q idx) s = .next t ∧ memoryKept s t ∧
      packetIs t q p (.ended 2 TrapClass.operandOverlap.code 0))) ∧
  (∀ (s : State) (n idx : Nat) (l : Launch) (p : Packet), s.launch n = some l → s.launchOver n l = true → l.rebuild = none →
    l.pkt = some (.ofNat 32 idx) → (s.queue l.queue).packets = [p] → p.idx = .ofNat 32 idx → p.st = .begun →
    AMap.rising s.sched.launches = true →
    ∃ t, exec (.launchCompletion n) s = .next t ∧ memoryKept s t ∧ t.launch n = none ∧
      (∀ m, m ≠ n → t.launch m = s.launch m) ∧
      packetIs t l.queue p (match l.failed with
        | some (c, task) => .ended 2 c task
        | none => if l.cancelled = true then .ended 3 TrapClass.cancelled.code 0 else .ended 1 0 0)) ∧
  ∀ (s : State) (q idx a o c : Nat) (task : BitVec 32) (p : Packet), (s.queue q).packets = [p] → p.idx = .ofNat 32 idx →
    p.st = .ended o c task → o < 2 ^ 8 → c < 2 ^ 8 → word p.bytes 1 = a → a ≠ 0 → a % 16 = 0 → a + 16 ≤ s.dev.limit →
    s.lineHeld a = false → s.mem.wf = true →
    ((s.queue q).qerr = 1 → (∃ d ∈ s.eng.copies, ∃ i, d.packet = some (q, i)) → exec (.packetCompletion q idx) s = .next s) ∧
    ((s.queue q).qerr = 0 → ∃ t, exec (.packetCompletion q idx) s = .next t ∧ (t.queue q).packets = [] ∧ (t.queue q).qrd = (s.queue q).qrd + 1 ∧
      t.teams = s.teams ∧ bytesStored s t a (toBytes 8 (valueAt s a - 1).toNat ++
        toBytes 8 (o + c * 2 ^ 8 + task.toNat * 2 ^ 32)))

/-- A TREE packet of an operation on a slot of the queue's ASID that no other operation holds, with the node engine enabled (R66, R159,
R373). -/
def treeRequest (s : State) (q idx op slot node node2 arg : Nat) (p : Packet) : Prop :=
  onePacket s q idx 6 p ∧ p.bytes.length = 64 ∧ s.kv.kvctl.toNat % 2 = 1 ∧ s.claimed slot (.packet q p.idx) = false ∧
    word p.bytes 2 = op + slot * 2 ^ 8 + node * 2 ^ 20 + node2 * 2 ^ 28 ∧ slot < 2 ^ 12 ∧ node < 2 ^ 8 ∧ node2 < 2 ^ 8 ∧
    word p.bytes 3 = arg ∧ (∀ i, 4 ≤ i → i < 8 → word p.bytes i = 0) ∧
    (op ≠ 0 → (s.slot slot).state = 1 ∧ ((s.slot slot).asid = (s.queue q).qctl.toNat / 2 ^ 4 % 2 ^ 12 ∨
      (s.queue q).qctl.toNat / 2 ^ 4 % 2 ^ 12 = 0))

/-- R142, R144, R153, R156, R157, R158, R162, R374: a TREE packet opens, forks, prunes, commits or retires as its instruction
does, with the queue's ASID, and ends; REGISTER_REBUILD_LAUNCH with ARG 0 clears the slot's rebuild launch. Where the rules
leave room it follows log entries 28, 33 and 77, the model's reading. -/
def Says.TreePackets : Prop :=
  ∀ (s : State) (q idx slot node node2 arg : Nat) (p : Packet), AMap.rising s.teams = true →
    (∀ e ∈ s.teams, e.2.heldOn slot (fun _ => true) = []) →
    let k := s.slot slot
    let done := fun (t : State) => packetIs t q p (.ended 1 0 0)
    (treeRequest s q idx 0 slot 0 node2 arg p → k.state = 0 → (s.dev.svc = 1 → slot % 2 = 0) → 1 ≤ arg % 256 → arg % 256 ≤ 254 →
      8 ≤ arg / 256 → arg / 256 ≤ 14 →
      ∃ t, exec (.treeOpen q idx) s = .next t ∧ done t ∧ (t.slot slot).state = 1 ∧ (t.slot slot).npl = arg % 256 ∧
        (t.slot slot).rlog2 = arg / 256 ∧ (t.slot slot).gen = k.gen + 1 ∧
        (t.slot slot).asid = (s.queue q).qctl.toNat / 2 ^ 4 % 2 ^ 12 ∧ ((t.slot slot).node 0).state = 1 ∧
        ∀ j, j ≠ slot → t.slot j = s.slot j) ∧
    (treeRequest s q idx 1 slot node node2 arg p → s.kv.free (slot % 2) ≠ [] → 1 ≤ node2 → (k.node node2).state = 0 →
      (k.node node).state = 1 →
      ∃ t, exec (.treeFork q idx) s = .next t ∧ done t ∧ ((t.slot slot).node node2).state = 1 ∧
        ((t.slot slot).node node2).parent = node ∧ ((t.slot slot).node node2).len = 0 ∧
        ((t.slot slot).node node2).start = (k.node node).start + (k.node node).len ∧
        (∀ n, n ≠ node2 → (t.slot slot).node n = k.node n) ∧ ∀ j, j ≠ slot → t.slot j = s.slot j) ∧
    (treeRequest s q idx 2 slot node node2 arg p → node ≠ 0 → (k.node node).state = 1 → (∀ e ∈ s.teams, e.2.binding = none) →
      s.sched.saved = [] →
      ∃ t, exec (.treePrune q idx) s = .next t ∧ done t ∧ (∀ j, j ≠ slot → t.slot j = s.slot j) ∧
        ∀ m, ((t.slot slot).node m).state =
          if (k.node m).state = 1 ∧ (k.node m).anc.getLsbD node = true then 2 else (k.node m).state) ∧
    (treeRequest s q idx 3 slot node node2 arg p → node ≠ 0 → (k.node node).state = 1 → (∀ e ∈ s.teams, e.2.binding = none) →
      s.sched.saved = [] → s.kv.free (slot % 2) ≠ [] →
      ∃ t, exec (.treeCommit q idx) s = .next t ∧ done t ∧
        ((t.slot slot).node 0).len = (k.node node).start + (k.node node).len ∧
        ∀ m, m ≠ 0 → ((t.slot slot).node m).state =
          if m ∈ pathTo k 256 node then 0 else if (k.node m).state = 1 then 2 else (k.node m).state) ∧
    (treeRequest s q idx 4 slot 0 node2 arg p → (∀ e ∈ s.teams, e.2.binding = none) → s.sched.saved = [] →
      s.eng.locks = [] → p.item = none →
      ∃ t, exec (.treeRetire q idx) s = .next t ∧ done t ∧ (t.slot slot).state = 0 ∧ (t.slot slot).gen = k.gen ∧
        ∀ j, j ≠ slot → t.slot j = s.slot j) ∧
    (treeRequest s q idx 5 slot 0 0 0 p →
      ∃ t, exec (.registerRebuildLaunch q idx) s = .next t ∧ done t ∧ (t.slot slot).rbl = 0 ∧ (t.slot slot).image = [] ∧
        (t.slot slot).regQueue = none ∧ (t.slot slot).nodes = k.nodes ∧ ∀ j, j ≠ slot → t.slot j = s.slot j)

/-! ## Placement -/

/-- A device whose cores hold no team, and on which nothing waits to return. -/
def emptyCores (s : State) : Prop :=
  s.teams = [] ∧ s.sched.saved = [] ∧ s.sched.savedBins = [] ∧ s.sched.vacating = [] ∧ s.sched.cvCores = [] ∧
    s.dev.stopped = false ∧ s.dev.switching = false ∧ s.dbg.jctl = 0 ∧ ∀ c, (s.core c).fenced = false

/-- A team as it starts (R81, R100): every register, flag and byte of its scratchpad zero, and one path at an address with the first
`n` lanes and the reset value of `fmt`. -/
def freshTeam (tm : Team) (p : Path) (pc : Word64) (n : Nat) : Prop :=
  tm.paths = [(0, p)] ∧ p.spc = pc ∧ (∀ i < 1024, p.mask.getLsbD i = decide (i < n)) ∧ p.fmt = 0x466 ∧ p.queue = [] ∧
    p.run = none ∧ p.done = [] ∧ p.rpc = none ∧ p.parent = none ∧ p.wait = none ∧ p.park = none ∧
    (∀ l k, k ≠ 0 → tm.p l k = false) ∧ (∀ l k, tm.x l k = 0) ∧ (∀ o, Tab.get 0 tm.scratch o = 0) ∧ tm.version = [] ∧
    tm.phase = .running ∧ tm.handler = none ∧ tm.taint = false ∧ tm.late = false ∧ tm.ecom = false

/-- No byte of memory has changed but those of a team's lane region, which are undefined when the team starts (R98): all of memory stays
where the team has no lane region. -/
def privateBlurred (s t : State) (tm : Team) : Prop :=
  t.mem.host = s.mem.host ∧ (tm.k.pl = 0 → memoryKept s t) ∧
    ∀ x, (∀ p ∈ s.privateSpans tm, x < p.1 ∨ p.1 + p.2 ≤ x) → byteAt t x = byteAt s x

/-- R79, R80, R81: on a device with no team, PLACEMENT puts the next neighbourhood of the only waiting launch on the first
rectangle, core 0, in slot 0, in the state of R81; with no launch it does nothing. R82: BIN_TIMER_EXPIRY launches a bin whose
timer has reached BTIMER. R83, R201: BIN_TEAM_START starts the team of a launched bin of spawned lanes in a free slot of its
core, with the frame in s1 to s4 and each lane's value in v0. Where the rules leave room it follows log entries 50, 51, 52 and
82, the model's reading. -/
def Says.Placement : Prop :=
  (∀ (s : State) (n : Nat) (l : Launch), emptyCores s → (∀ c, (s.core c).bins = []) → s.sched.launches = [(n, l)] →
    l.begun = true → l.cancelled = false → l.returned = [] → l.privUsed = [] → l.nextNb < l.gx * l.gy * l.gz → l.prio ≤ 3 →
    l.k.pair = false → l.k.tpc = 1 → l.k.nbw = 0 → l.k.nbh = 0 → l.k.spsl ≤ 15 → l.k.units ≤ 192 → s.mem.wf = true →
    ∃ t tm p, exec .placement s = .next t ∧ privateBlurred s t tm ∧ t.team 0 = some tm ∧ (∀ k, k ≠ 0 → t.team k = none) ∧
      freshTeam tm p l.k.sentry l.k.lanes ∧ (∀ i r, tm.v i r = 0) ∧ tm.launch = n ∧ tm.k = l.k ∧ tm.asid = l.asid ∧
      tm.nbh = l.nextNb ∧ tm.tidx = 0 ∧ tm.binTeam = false ∧
      (∀ r, p.s r = if r = 1 then l.args
        else if r = 2 then .ofNat 64 (l.nextNb % l.gx + l.nextNb / l.gx % l.gy * 2 ^ 24 + l.nextNb / (l.gx * l.gy) * 2 ^ 48)
        else 0) ∧
      t.launch n = some { l with nextNb := l.nextNb + 1, liveNb := l.nextNb :: l.liveNb, privUsed := [0], waitFrom := none }) ∧
  (∀ (s : State), emptyCores s → s.sched.launches = [] → exec .placement s = .next s) ∧
  (∀ (s : State) (core bin : Nat) (b : Bin) (l : Launch), (s.core core).bins[bin]? = some b → s.launch b.launch = some l →
    ∃ t, exec (.binTimerExpiry core bin) s = .next t ∧ { t with cores := s.cores } = s ∧
      (∀ c, c ≠ core → t.core c = s.core c) ∧ { t.core core with bins := (s.core core).bins } = s.core core ∧
      ∀ j, (t.core core).bins[j]? = if j = bin ∧ l.k.btimer ≤ b.timer then some { b with launched := true }
        else (s.core core).bins[j]?) ∧
  ∀ (s : State) (core : Nat) (b : Bin) (l : Launch) (vs : List (BitVec 32)) (f1 f2 f3 f4 : Word64), emptyCores s → core < 384 →
    (s.core core).bins = [b] → b.launched = true → b.lanes = vs.map .spawned → vs.length ≤ 1024 → b.frame = [f1, f2, f3, f4] →
    s.launch b.launch = some l → 1 ≤ l.k.spsl → l.k.pair = false → l.privUsed = [] → s.mem.wf = true →
    ∃ t tm p, exec (.binTeamStart core) s = .next t ∧ privateBlurred s t tm ∧ t.team (core * 16) = some tm ∧
      (∀ k, k ≠ core * 16 → t.team k = none) ∧ (t.core core).bins = [] ∧ freshTeam tm p b.entry vs.length ∧
      tm.launch = b.launch ∧ tm.asid = b.asid ∧ tm.binTeam = true ∧
      (∀ r, p.s r = if r = 1 then f1 else if r = 2 then f2 else if r = 3 then f3 else if r = 4 then f4 else 0) ∧
      ∀ i k, k < 256 → tm.v i k = if k = 0 then vs.getD i 0 else 0

/-- R89: a pre-emption is decided for the oldest neighbourhood of the highest class that waits and does not fit, at once for RT
and after 100 µs of its own waiting for PRIO 1 to 3; every team on the cores of the widened candidate, which takes whole
neighbourhoods, is stopped to be saved, or discarded, and no other team is touched. PRIO 0 never pre-empts, nor does a
neighbourhood that has not waited its time. R90: a write of CVREQ with OP 0 fences cores that hold no team and one with OP 1
unfences them; a reserved bit, a core past 383, or a request in progress sets ERR and does nothing. Where the rules leave room
it follows log entries 83, 84 and 132, the model's reading. -/
def Says.VacatingCores : Prop :=
  (∀ (s : State) (now h : Nat) (l : Launch), let s1 := s.dropEnded.noteWaits now
    s1.sched.vacating = [] → s1.dev.stopped = false → s1.firstWaiting = some (h, l) → AMap.rising s1.teams = true →
    (∀ c ∈ s.eng.copies, c.packet.isSome = true) →
    (∀ t0 cores, s1.nextRect h l = none → l.waitFrom = some (l.nextNumber, t0) →
      (l.rank = 4 ∧ t0 ≤ now ∨ 1 ≤ l.rank ∧ l.rank ≤ 3 ∧ t0 + 100 ≤ now) → s1.victims h l = some cores →
      (∀ e ∈ s.teams, (e.2.launch, e.2.nbh) ∈ s.neighbourhoodsOn cores → (teamCores (e.1 / 16) e.2).any cores.contains = true) →
      ∃ t, exec (.preemptionDecision now) s = .next t ∧ memoryKept s t ∧
        ∀ k tm, t.team k = some tm →
          if (teamCores (k / 16) tm).any cores.contains then tm.phase = .saving else s.team k = some tm) ∧
    (l.rank = 0 ∨ (∃ t0, l.waitFrom = some (l.nextNumber, t0) ∧ 1 ≤ l.rank ∧ l.rank ≤ 3 ∧ now < t0 + 100) ∨ (s1.nextRect h l).isSome = true →
      ∃ t, exec (.preemptionDecision now) s = .next t ∧ memoryKept s t ∧ t.teams = s.teams ∧ t.cores = s.cores)) ∧
  ∀ (s : State) (v : BitVec 64), s.dev.deaf = false →
    let first := v.toNat % 2 ^ 9
    let last := first + v.toNat / 2 ^ 32 % 2 ^ 9
    let good : Prop := v.toNat / 2 ^ 9 % 2 ^ 23 = 0 ∧ v.toNat / 2 ^ 41 % 2 ^ 22 = 0 ∧ last ≤ 383 ∧ s.sched.cvBusy = false
    (v.getLsbD 63 = false → good → s.sched.vacating = [] →
      (∀ e ∈ s.teams, ∀ c ∈ teamCores (e.1 / 16) e.2, c < first ∨ last < c) →
      ∃ t, exec (.vacateAndFence v) s = .next t ∧ memoryKept s t ∧ t.teams = s.teams ∧
        (∀ c, (t.core c).fenced = if first ≤ c ∧ c ≤ last then true else (s.core c).fenced) ∧
        t.sched.cvDone = s.sched.cvDone + 1 ∧ t.sched.cvBusy = false ∧ t.sched.cvErr = s.sched.cvErr) ∧
    (v.getLsbD 63 = true → good →
      ∃ t, exec (.unfence v) s = .next t ∧ { t with cores := s.cores, sched := s.sched } = s ∧
        (∀ c, t.core c = if first ≤ c ∧ c ≤ last then { s.core c with fenced := false } else s.core c) ∧
        t.sched = { s.sched with cvDone := s.sched.cvDone + 1 }) ∧
    (¬ good → ∀ i ∈ (if v.getLsbD 63 = true then [Instr.unfence v] else [Instr.vacateAndFence v]),
      exec i s = .next { s with sched := { s.sched with cvErr := true } })

/-- R92, R95: CONTEXT_SAVE takes a stopped team out of its slot and keeps it, and its neighbourhood returns once its last team
is saved; the team keeps its identifiers, paths and lane registers, and each access in flight is cancelled and kept to be issued
again. CONTEXT_RESTORE lets a team that has a slot again run, with the same. A team that is not at that stage stays as it is.
Where the rules leave room it follows log entries 53, 85, 124 and 133, the model's reading. -/
def Says.SaveAndRestore : Prop :=
  ∀ (s : State) (core slot : Nat) (tm : Team), slot < 16 → s.team (core * 16 + slot) = some tm → AMap.rising s.teams = true →
    (tm.phase = .saving → s.dbg.stepping = none → s.sched.saved = [] →
      ∃ t b, exec (.contextSave core slot) s = .next t ∧ memoryKept s t ∧ t.team (core * 16 + slot) = none ∧
        (∀ k, k ≠ core * 16 + slot → t.team k = s.team k) ∧ t.sched.saved = [(tm.launch, tm.nbh, [b])] ∧
        { b with scratch := tm.scratch, tiles := tm.tiles, savedAt := tm.savedAt, inShare := tm.inShare } =
          { tm with phase := .saved, replays := tm.replays ++ s.allPend.filter (fun p => p.teamId == tm.teamId) } ∧
        b.savedAt = core ∧ (∀ p ∈ t.allPend, p.teamId ≠ tm.teamId ∧ p ∈ s.allPend) ∧
        (tm.k.save = 0xFF → ∀ o < tm.k.scrt * 2 ^ 14, Tab.get 0 b.scratch o = Tab.get 0 tm.scratch o)) ∧
    (tm.phase ≠ .saving → exec (.contextSave core slot) s = .next s) ∧
    (tm.phase = .restoring → tm.heldReturns = [] → tm.replays = [] → tm.tcmp = 0 → tm.tdln = 0 → ∃ t b, exec (.contextRestore core slot) s = .next t ∧ memoryKept s t ∧
      t.team (core * 16 + slot) = some b ∧ (∀ k, k ≠ core * 16 + slot → t.team k = s.team k) ∧ b.phase = .running ∧
      b.teamId = tm.teamId ∧ b.taskId = tm.taskId ∧ b.version = tm.version ∧ b.scratch = tm.scratch ∧ b.vregs = tm.vregs ∧
      b.pregs = tm.pregs ∧ b.xregs = tm.xregs ∧ b.tiles = tm.tiles ∧
      ∀ j p, AMap.find tm.paths j = some p → ∃ q, AMap.find b.paths j = some q ∧ q.spc = p.spc ∧ q.mask = p.mask ∧
        q.sregs = p.sregs ∧ q.fmt = p.fmt ∧ q.queue = p.queue ∧
          q.park = p.park.filter (fun k => k.hold == .pageFault)) ∧
    (tm.phase ≠ .restoring → (tm.phase = .running → tm.replays = []) → exec (.contextRestore core slot) s = .next s)
/-! ## Registers and translation events -/

/-- R21, R39, R112, R113, R138, R140, R260: what a write of a register of the first BAR does: a plain register takes the value,
a register with a condition keeps its own, a register with an event of its own has that event's effect, and an offset that is
listed for nothing ignores the write. In D3hot and D3cold, and before the link is up, no write reaches a register (R11, R14).
Where the rules leave room it follows log entries 105, 110 and 119, the model's reading. -/
def Says.RegisterWrites : Prop :=
  (∀ (s : State) (off : Nat) (v : BitVec 64), s.dev.dark = true ∨ s.dev.bstep = 0 → exec (.registerWrite off v) s = .next s) ∧
  ∀ (s : State) (v : BitVec 64), s.dev.dark = false → s.dev.bstep ≠ 0 →
    (∀ e ∈ ([(0xC40, { s with xl := { s.xl with tsva := v } }),
        (0xC60, { s with xl := { s.xl with migva := v } }),
        (0xC30, { s with xl := { s.xl with pftail := v.extractLsb' 0 32 } }),
        (0xE20, { s with dbg := { s.dbg with dmpsize := v.extractLsb' 0 32 } }),
        (0xE40, { s with dbg := { s.dbg with cxlo := v } }), (0xE48, { s with dbg := { s.dbg with cxhi := v } }),
        (0x520, { s with fab := { s.fab with ftmo := v.extractLsb' 0 16 } }), (0xF00, s), (0x104, s)] : List (Nat × State)),
      exec (.registerWrite e.1 v) s = .next e.2) ∧
    exec (.registerWrite 0xC00 v) s =
      .next (if v.toNat % 2 ^ 15 = 0 ∧ s.teams = [] then { s with xl := { s.xl with atbase := v } } else s) ∧
    exec (.registerWrite 0xC58 v) s = .next (if v.toNat % 8 = 0 then { s with xl := { s.xl with migpte := v } } else s) ∧
    exec (.registerWrite 0x600 v) s = .next (if v.toNat % 2 ^ 12 = 0 then { s with dev := { s.dev with fwaddr := v } } else s) ∧
    exec (.registerWrite 0xC20 v) s =
      .next (if v.toNat % 2 ^ 12 = 0 ∧ s.xl.pfctl.getLsbD 0 = false then { s with xl := { s.xl with pfbase := v } } else s) ∧
    exec (.registerWrite 0xC80 v) s =
      .next (if v.toNat % 2 ^ 12 = 0 ∧ s.xl.scctl.getLsbD 0 = false then { s with xl := { s.xl with scbase := v } } else s) ∧
    exec (.registerWrite 0xE00 v) s =
      .next (if v.toNat % 2 ^ 12 = 0 ∧ s.dbg.trctl.getLsbD 0 = false then { s with dbg := { s.dbg with trbase := v } } else s) ∧
    ∀ e ∈ ([(0x110, .pcapWrite (v.extractLsb' 0 32)), (0x200, .biasFlipRequest v), (0x300, .mext v), (0x400, .winbaseWrite v),
        (0x500, .fnodeWrite (v.extractLsb' 0 32)), (0x510, .ftuncWrite (v.extractLsb' 0 32)),
        (0x608, .runtimeFirmwareLoad (v.extractLsb' 0 32)), (0xC08, .ftwrWrite v), (0xC10, .ftrdWrite v), (0xC48, .tsreqWrite v),
        (0xC68, .migreqWrite v), (0xC88, .scctlWrite v), (0xC94, .sctailWrite (v.extractLsb' 0 32))] : List (Nat × Instr)) ++
        ([(0xD00, .kvbaseWrite v), (0xD10, .kvDonate v), (0xD18, .kvReclaim v), (0xD28, .kvfrdWrite v), (0xE28, .dmpstatWrite v),
         (0xE50, .cxctlWrite v), (0x2000, .l2partWrite 0 v), (0x2078, .l2partWrite 15 v), (0x3000, .l2asidWrite 0 v),
         (0x37F8, .l2asidWrite 255 v), (0x100008, .qctlWrite 0 v), (0x100808, .qctlWrite 1 v)] : List (Nat × Instr)),
      exec (.registerWrite e.1 v) s = exec e.2 s

/-- R21, R22, R25, R26, R29, R35, R39, R61, R90, R138, R140: what a host read of registers finds. A status register is composed
of its fields, a launch page reads zero but for LDROP, a queue's indices and QERR read as they are, and the whole mailbox reads
zero once its fuse is blown. A read changes nothing but the time that has passed, and its bytes go out; in D3hot and D3cold it
is refused, and before the link is up nothing answers (R11, R14). Where the rules leave room it follows log entries 110 and 136,
the model's reading. -/
def Says.RegisterReads : Prop :=
  ∀ (s : State),
    let flag := fun (b : Bool) (n : Nat) => if b then 2 ^ n else 0
    let value := fun (off v : Nat) => s.regRead off = some v
    (value 0x000 (Config.devidLow.toNat + 0x5932 * 2 ^ 48) ∧ value 0x100 (s.dev.svcstat % 2 ^ 32) ∧
     value 0x110 (s.dev.pcap % 2 ^ 32) ∧ value 0x400 s.dev.winbase.toNat ∧ value 0x600 s.dev.fwaddr.toNat ∧
     value 0x608 (s.dev.fwstat.toNat * 2 ^ 32) ∧ value 0xC00 s.xl.atbase.toNat ∧ value 0xC58 s.xl.migpte.toNat ∧
     value 0x208 (s.dev.bfErr.toNat + s.dev.flips.length * 2 ^ 8 + s.dev.bfDone.toNat * 2 ^ 32) ∧
     value 0x340 (s.dev.log.length + flag s.dev.mextFull 32 + flag s.dev.mextIgn 33) ∧
     value 0x518 (s.fab.ports.toNat + flag s.fab.lock 30 + flag s.fab.hold 31) ∧
     value 0x708 (flag s.sched.cvBusy 0 + flag s.sched.cvErr 1 + s.sched.cvDone.toNat * 2 ^ 32) ∧
     value 0xC70 (flag s.xl.mig.isSome 0 + s.xl.migErr.toNat * 2 ^ 2 + s.xl.migDone.toNat * 2 ^ 32) ∧
     value 0xD18 (match s.kv.reclaimed with
       | some f => 2 ^ 31 + f % 2 ^ 24
       | none => 0)) ∧
    (∀ i < 7, value (0x308 + 8 * i) (Tab.get 0 s.dev.mextStage (i + 1)).toNat) ∧
    (s.xl.ftrd.toNat < 0x900000 →
      value 0xC10 (s.xl.ftrd.toNat + (s.mem.frameByte s.xl.ftrd.toNat).toNat * 2 ^ 24)) ∧
    (∀ q < 1024, let k := s.queue q
      value (0x100000 + q * 0x800) k.qbase.toNat ∧ value (0x100000 + q * 0x800 + 0x08) k.qctl.toNat ∧
      value (0x100000 + q * 0x800 + 0x10) (k.qwr.toNat + k.qrd.toNat * 2 ^ 32) ∧
      value (0x100000 + q * 0x800 + 0x18) (flag k.rstBusy 1 + flag k.rstDone 2 + k.qerr.toNat * 2 ^ 32) ∧
      ∀ o < 512, value (0x400000 + q * 0x1000 + 8 * o) (if o = 8 then k.ldrop.toNat else 0)) ∧
    (s.dev.fuseDebug = true → value 0x1002008 (flag s.dbg.busy 0 + flag s.dbg.done 1 + s.dbg.dcode.toNat * 2 ^ 8)) ∧
    (s.dev.fuseDebug = false → ∀ off, 0x1000000 ≤ off → value off 0) ∧
    ∀ off size, let p := s.passTime
      s.hostRead off size =
        if s.dev.bstep = 0 then p
        else if s.dev.dark = true then { p with out := .unsupportedRequest :: p.out }
        else { p with
          fresh := p.fresh + 1, out := .readData ((List.range size).map (fun i => p.regByte (off + i))) :: p.out }

/-- R112, R113, R136, R138: L2PART_WRITE sets a partition with bits [63:56] zero, partition 15 only while no team is resident;
L2ASID_WRITE sets sixteen partition numbers unless one of them is 15; FTWR_WRITE sets a frame table byte, whose upper half stays zero;
FTRD_WRITE names the frame that a read returns. Nothing else changes. -/
def Says.CacheAndFrameRegisters : Prop :=
  ∀ (s : State) (n : Nat) (v : BitVec 64), s.dev.deaf = false → Tab.wf 0 s.mem.l2part = true → Tab.wf 0 s.mem.l2asid = true → s.mem.wf = true →
    (n < 16 → (n = 15 → s.teams = []) →
      ∃ t, exec (.l2partWrite n v) s = .next t ∧ { t with mem := { t.mem with l2part := s.mem.l2part } } = s ∧
        ∀ m, Tab.get 0 t.mem.l2part m = if m = n then .ofNat 64 (v.toNat % 2 ^ 56) else Tab.get 0 s.mem.l2part m) ∧
    (n = 15 → s.teams ≠ [] → exec (.l2partWrite n v) s = .next s) ∧
    (n < 256 → (∀ i < 16, v.toNat / 2 ^ (4 * i) % 16 ≠ 15) →
      ∃ t, exec (.l2asidWrite n v) s = .next t ∧ { t with mem := { t.mem with l2asid := s.mem.l2asid } } = s ∧
        ∀ asid, t.mem.partition asid = if asid / 16 = n then v.toNat / 2 ^ (4 * (asid % 16)) % 16 else s.mem.partition asid) ∧
    (∀ i < 16, v.toNat / 2 ^ (4 * i) % 16 = 15 → exec (.l2asidWrite n v) s = .next s) ∧
    (v.toNat % 2 ^ 24 < 0x900000 →
      ∃ t, exec (.ftwrWrite v) s = .next t ∧ { t with mem := { t.mem with frames := s.mem.frames } } = s ∧
        ∀ f, t.mem.frameByte f = if f = v.toNat % 2 ^ 24 then .ofNat 8 (v.toNat / 2 ^ 24 % 16) else s.mem.frameByte f) ∧
    exec (.ftrdWrite v) s = .next { s with xl := { s.xl with ftrd := .ofNat 24 v.toNat } }

/-- The state's only path is parked on a page fault, with nothing else paused. -/
def loneFault (s : State) (key pi : Nat) (tm : Team) (p : Path) (k : Park) (i : FaultInfo) : Prop :=
  s.teams = [(key, tm)] ∧ tm.paths = [(pi, p)] ∧ tm.handler = none ∧ s.sched.saved = [] ∧ p.park = some k ∧ k.hold = .pageFault ∧ k.info = some i ∧
    s.eng.copies = [] ∧ s.fab.colls = []

/-- R134, R135, R138: FAULT_RECORD_POST gives the first fault without a record the next identifier, writes its record into the
ring and raises the vector, while EN = 1 and the ring has space. PF_REPLAY lets the path of a fault issue again, PF_FAIL makes
its instruction trap PAGE_FAULT, and an unknown identifier is ignored. Where the rules leave room it follows log entries 7 and
138, the model's reading. -/
def Says.FaultRing : Prop :=
  ∀ (s : State) (key pi : Nat) (tm : Team) (p : Path) (k : Park) (i : FaultInfo), loneFault s key pi tm p k i →
    let x := s.xl
    let size := 2 ^ (x.pfctl.toNat / 2 ^ 8 % 2 ^ 5)
    s.dev.deaf = false →
    (i.fid = none → x.pfctl.getLsbD 0 = true → (x.pfhead - x.pftail).toNat < size → s.mem.wf = true →
      s.rangeLeased (x.pfbase.toNat + x.pfhead.toNat % size * 32) 32 = false →
      ∃ t, exec .faultRecordPost s = .next t ∧
        bytesStored s t (x.pfbase.toNat + x.pfhead.toNat % size * 32)
          (toBytes 8 i.epa ++
            toBytes 8 (i.kind * 2 ^ 4 + i.cause * 2 ^ 8 + i.level * 2 ^ 16 + tm.asid * 2 ^ 20 + x.nextFid.toNat * 2 ^ 32) ++
            toBytes 8 (i.lane + pi * 2 ^ 13 + tm.taskId.toNat * 2 ^ 32) ++ toBytes 8 i.va.toNat) ∧
        t.xl = { x with pfhead := x.pfhead + 1, nextFid := x.nextFid + 1 } ∧
        (∃ o, t.out = .deviceEvent (x.pfctl.toNat / 2 ^ 16 % 2 ^ 6) :: (o ++ s.out)) ∧
        t.path key pi = some { p with park := some { k with info := some { i with fid := some x.nextFid } } }) ∧
    (i.fid = none → x.pfctl.getLsbD 0 = false ∨ size ≤ (x.pfhead - x.pftail).toNat → exec .faultRecordPost s = .next s) ∧
    (∀ fid, i.fid = some fid →
      exec .faultRecordPost s = .next s ∧
      (∃ t, exec (.pfReplay fid) s = .next t ∧ onlyTeam s t key ∧
        t.path key pi = some { p with park := none, run := p.run.map (fun c => { c with stopped := false }) }) ∧
      exec (.pfFail fid) s = .next (s.trapError key pi .pageFault i.lane i.va)) ∧
    ∀ fid, i.fid ≠ some fid → exec (.pfReplay fid) s = .next s ∧ exec (.pfFail fid) s = .next s

/-- R127 to R130, R138: a write of TSREQ begins the driver's shoot-down when none runs: the walk generations of its range rise,
and no TLB entry or L1 line of the range stays, but for other ASIDs' own. A reserved bit, a count over 65,536 and a ninth
request set ERR. SHOOTDOWN_COMPLETE ends a shoot-down that waits for no engine, no access in flight and no held write of a peer,
and DONE advances; for a path's own, the path holds it no longer. Where the rules leave room it follows log entries 22, 23 and
24, the model's reading. -/
def Says.ShootdownEvents : Prop :=
  (∀ (s : State) (v : BitVec 64), s.dev.deaf = false →
    let va := s.xl.tsva.toNat
    let asid := va / 2 ^ 52
    let first := va / 2 ^ 16 % 2 ^ 36
    let count := v.toNat
    let bad : Prop := 65536 < count ∨ va % 2 ^ 16 ≠ 0 ∨ 8 ≤ s.xl.driverShoots.length
    (bad → exec (.tsreqWrite v) s = .next { s with xl := { s.xl with tsErr := true } }) ∧
    (¬ bad → s.xl.driverShoots = [] → Tab.wf 0 s.xl.walkGen = true →
      ∃ t h, exec (.tsreqWrite v) s = .next t ∧ memoryKept s t ∧ t.teams = s.teams ∧ t.xl.tsErr = s.xl.tsErr ∧
        t.xl.shoots = s.xl.shoots ++ [h] ∧ h.begun = true ∧ h.issuer = none ∧ h.asid = asid ∧ h.first = first ∧ h.count = count ∧
        (∀ page, count = 0 ∨ first ≤ page ∧ page < first + count →
          ∀ die < 2, Tab.get 0 t.xl.walkGen (genIndex asid page + 1024 * die) =
            Tab.get 0 s.xl.walkGen (genIndex asid page + 1024 * die) + 1) ∧
        (∀ c e, e ∈ (t.core c).tlb ↔ e ∈ (s.core c).tlb ∧ ¬ ((e.asid = asid ∨ leafG e.leaf = true) ∧
          (count = 0 ∨ e.vpn < first + count ∧ first < e.vpn + pagesOf e.ps))) ∧
        ∀ c l, l ∈ (t.core c).l1 ↔ l ∈ (s.core c).l1 ∧ ¬ (l.asid = asid ∧ l.space ≠ 5 ∧
          (count = 0 ∨ first ≤ l.vline / 1024 ∧ l.vline / 1024 < first + count)))) ∧
  ∀ (s : State) (h : Shoot), s.xl.shoots = [h] → s.xl.mig = none → h.begun = true →
    ((∃ e ∈ h.engines, s.engineBusy e = true) ∨ (∃ x ∈ h.peers, ∃ w ∈ s.fab.held, w.peer = some x) → exec (.shootdownComplete h.id) s = .next s) ∧
    ((∀ e ∈ h.engines, s.engineBusy e = false) → (∀ x ∈ h.peers, ∀ w ∈ s.fab.held, w.peer ≠ some x) →
      (h.issuer = none → exec (.shootdownComplete h.id) s =
        .next { s with xl := { s.xl with shoots := [], tsDone := s.xl.tsDone + 1 } }) ∧
      (h.issuer ≠ none → ∃ t, exec (.shootdownComplete h.id) s = .next t ∧ memoryKept s t ∧ t.xl.shoots = [] ∧
        t.xl.tsDone = s.xl.tsDone ∧ ∀ k pi p, s.path k pi = some p →
          t.path k pi = some { p with shoots := p.shoots.filter (fun x => x != h.id) }))

/-- R132, R138: a write of MIGREQ whose leaf and frame pass the checks registers write locks on both frames; one that fails a
check sets ERR to 1, and one while a migration runs sets it to 3. R237, R132: the grant of its locks copies the old frame to the
new, names the new frame in the leaf, whose other fields stay, and begins the shoot-down of the page; the release of its locks,
once the shoot-down is complete, ends it. Where the rules leave room it follows log entries 21 and 25, the model's reading. -/
def Says.Migrations : Prop :=
  (∀ (s : State) (v : BitVec 64), s.dev.deaf = false →
    let pte := s.xl.migpte.toNat
    let leaf := (valueAt s pte).toNat
    let old := leaf / 2 ^ 16
    let new := v.toNat
    let good : Prop := new < 2 ^ 24 ∧ pte % 8 = 0 ∧ pte < s.dev.limit ∧ leaf % 4 = 1 ∧ leaf / 2 ^ 12 % 4 = 0 ∧
      old * 2 ^ 16 < s.dev.limit ∧ new * 2 ^ 16 < s.dev.limit ∧ (s.mem.frameByte new).getLsbD 0 = false
    (s.xl.mig ≠ none → exec (.migreqWrite v) s = .next { s with xl := { s.xl with migErr := 3 } }) ∧
    (s.xl.mig = none → ¬ good → exec (.migreqWrite v) s = .next { s with xl := { s.xl with migErr := 1 } }) ∧
    (s.xl.mig = none → good → ∃ t m r, exec (.migreqWrite v) s = .next t ∧ memoryKept s t ∧ t.teams = s.teams ∧
      t.xl = { s.xl with mig := some m } ∧ m.oldFrame = old ∧ m.newFrame = new ∧ m.shoot = none ∧
      t.eng.locks = s.eng.locks ++ [r] ∧ r.owner = .migration ∧ r.granted = false ∧
      r.ranges = [{ write := true, place := .device, lo := old * 2 ^ 16, hi := old * 2 ^ 16 + 2 ^ 16 },
                  { write := true, place := .device, lo := new * 2 ^ 16, hi := new * 2 ^ 16 + 2 ^ 16 }])) ∧
  (∀ (s : State) (r : LockReg) (m : Migration), s.eng.locks = [r] → r.owner = .migration → r.granted = false →
    s.grantable [] r = true → s.xl.mig = some m → m.shoot = none → s.teams = [] → s.sched.saved = [] → s.mem.wf = true →
    let pte := s.xl.migpte.toNat
    let leaf := valueAt s pte
    pte % 8 = 0 → leaf.getLsbD 0 = true → m.newFrame < 2 ^ 24 → m.newFrame ≠ m.oldFrame → pte / 2 ^ 16 ≠ m.newFrame →
    s.lineHeld pte = false →
    ∃ t h, exec .rangeLockGrant s = .next t ∧ t.eng.locks = [{ r with granted := true }] ∧
      (∀ x, byteAt t x = if pte ≤ x ∧ x < pte + 8 then
          (toBytes 8 (leaf.toNat % 2 ^ 16 + m.newFrame * 2 ^ 16)).getD (x - pte) 0
        else if x / 2 ^ 16 = m.newFrame then byteAt s (x % 2 ^ 16 + m.oldFrame * 2 ^ 16) else byteAt s x) ∧
      t.mem.host = s.mem.host ∧ t.xl.shoots = s.xl.shoots ++ [h] ∧ h.begun = true ∧ h.count = 1 ∧
      t.xl.mig = some { m with shoot := some h.id } ∧ t.xl.migErr = s.xl.migErr) ∧
  ∀ (s : State) (r : LockReg) (m : Migration) (id : Nat), s.eng.locks = [r] → r.owner = .migration → r.granted = true →
    s.xl.mig = some m → m.shoot = some id →
    ((∀ h ∈ s.xl.shoots, h.id ≠ id) → ∃ t, exec (.rangeLockRelease r.id) s = .next t ∧ t.mem = s.mem ∧ t.eng.locks = [] ∧
      t.xl = { s.xl with migDone := s.xl.migDone + 1, mig := none }) ∧
    ((∃ h ∈ s.xl.shoots, h.id = id) → exec (.rangeLockRelease r.id) s = .next s)

/-- R137, R138: a write of SCCTL in range keeps its fields, and any other leaves it unchanged; SCTAIL takes its value.
SCYTHE_SWEEP_STEP, while EN = 1 and fewer frames than WM are queued, clears FA of a managed frame that is neither a table frame nor
queued, or queues one whose FA is clear, and moves the hand on. -/
def Says.Scythe : Prop :=
  (∀ (s : State) (v : BitVec 64), s.dev.deaf = false →
    let log := v.toNat / 2 ^ 8 % 2 ^ 5
    let good : Prop := v.toNat / 2 ^ 48 ≠ 0 ∧ 6 ≤ log ∧ log ≤ 20 ∧ v.toNat / 2 ^ 32 % 2 ^ 16 < 2 ^ log
    (good → exec (.scctlWrite v) s = .next { s with xl := { s.xl with
      scctl := .ofNat 64 (v.toNat / 2 ^ 32 * 2 ^ 32 + log * 2 ^ 8 + v.toNat % 2) } }) ∧
    (¬ good → exec (.scctlWrite v) s = .next s) ∧
    ∀ n : BitVec 32, exec (.sctailWrite n) s = .next { s with xl := { s.xl with sctail := n } }) ∧
  ∀ (s : State), s.mem.wf = true →
    let ctl := s.xl.scctl.toNat
    let hand := s.xl.schand
    let b := s.mem.frameByte hand
    let size := 2 ^ (ctl / 2 ^ 8 % 2 ^ 5)
    let runs : Prop := ctl % 2 = 1 ∧ (s.xl.schead - s.xl.sctail).toNat < ctl / 2 ^ 32 % 2 ^ 16
    let next := (hand + 1) % (s.dev.limit / 2 ^ 16)
    let takes := b.getLsbD 1 && !b.getLsbD 0 && !b.getLsbD 3
    (¬ runs → exec .scytheSweepStep s = .next s) ∧
    (runs → takes = false → exec .scytheSweepStep s = .next { s with xl := { s.xl with schand := next } }) ∧
    (runs → takes = true → b.getLsbD 2 = true → ∃ t, exec .scytheSweepStep s = .next t ∧ memoryKept s t ∧ t.teams = s.teams ∧
      t.xl = { s.xl with schand := next } ∧
      ∀ f, t.mem.frameByte f = if f = hand then .ofNat 8 (b.toNat - 4) else s.mem.frameByte f) ∧
    (runs → takes = true → b.getLsbD 2 = false →
      s.rangeLeased (s.xl.scbase.toNat + s.xl.schead.toNat % size * 4) 4 = false → ∃ t, exec .scytheSweepStep s = .next t ∧ t.teams = s.teams ∧
      t.xl = { s.xl with schand := next, schead := s.xl.schead + 1 } ∧ (t.mem.frameByte hand).getLsbD 3 = true ∧
      bytesStored s t (s.xl.scbase.toNat + s.xl.schead.toNat % size * 4) (toBytes 4 hand))
/-! ## KV events -/

/-- A path after what one kind of hold kept is let go: parked for that reason, it is ready to issue its instruction again. -/
def freed (which : Hold → Bool) (p q : Path) : Prop :=
  if (p.park.any (fun k => which k.hold)) = true then
    q = { p with park := none, run := p.run.map (fun c => { c with stopped := false }) }
  else q = p

/-- R140, R141, R148: KVBASE takes an aligned value while no slot is open or retiring. A donated frame goes on top of its die's
free list with POOL and FREE in its count word, and what waited for a frame of that die replays; one that is refused sets ERR. A
reclaim takes the frame on top of a die's list out of the pool, or finds none. KVFRD names the frame that a read returns. Where
the rules leave room it follows log entries 28, 29 and 30, the model's reading. -/
def Says.KvPool : Prop :=
  ∀ (s : State) (v : BitVec 64), s.dev.deaf = false →
    let f := v.toNat % 2 ^ 24
    let die := dieOfPa (f * 2 ^ 16)
    let bad : Prop := s.dev.limit ≤ f * 2 ^ 16 ∨ (s.mem.frameByte f).getLsbD 0 = true ∨ (s.kv.count f).getLsbD 19 = true
    (v.toNat % 2 ^ 16 = 0 → (∀ e ∈ s.kv.slots, e.2.state = 0) →
      exec (.kvbaseWrite v) s = .next { s with kv := { s.kv with kvbase := v } }) ∧
    (v.toNat % 2 ^ 16 ≠ 0 ∨ (∃ e ∈ s.kv.slots, e.2.state ≠ 0) → exec (.kvbaseWrite v) s = .next s) ∧
    (¬ bad → ∃ t, exec (.kvDonate v) s = .next t ∧ t.mem = s.mem ∧ t.kv.free die = f :: s.kv.free die ∧
      (∀ d < 2, d ≠ die → t.kv.free d = s.kv.free d) ∧ t.kv.slots = s.kv.slots ∧ t.kv.err = s.kv.err ∧
      (∀ g, t.kv.count g = if g = f then 0xC0000 else s.kv.count g) ∧
      ∀ k pi p, s.path k pi = some p → ∃ q, t.path k pi = some q ∧ freed (fun h => h == .freeFrame die) p q) ∧
    (bad → exec (.kvDonate v) s = .next { s with kv := { s.kv with err := true } }) ∧
    (∀ g gs, s.kv.free (v.toNat % 2) = g :: gs → Tab.wf 0 s.kv.counts = true →
      ∃ t, exec (.kvReclaim v) s = .next t ∧ t.mem = s.mem ∧ t.teams = s.teams ∧ t.kv.free (v.toNat % 2) = gs ∧
        t.kv.free (1 - v.toNat % 2) = s.kv.free (1 - v.toNat % 2) ∧ t.kv.reclaimed = some g ∧
        ∀ x, t.kv.count x = if x = g then 0 else s.kv.count x) ∧
    (s.kv.free (v.toNat % 2) = [] → exec (.kvReclaim v) s = .next { s with kv := { s.kv with reclaimed := none } }) ∧
    exec (.kvfrdWrite v) s = .next { s with kv := { s.kv with kvfrd := .ofNat 24 v.toNat } }

/-- A frame lies clear of what the device writes of a slot in the KV region (R140): its entry, its nodes' entries and their map
blocks. -/
def clearOfImage (s : State) (k : Slot) (n g : Nat) : Prop :=
  (∀ x, s.kv.kvbase.toNat ≤ x → x < s.kv.kvbase.toNat + 0x4080000 → x / 2 ^ 16 ≠ g) ∧ n < 4096 ∧
    (∀ e ∈ k.nodes, e.1 < 256 ∧ ∀ b ∈ e.2.blocks, b % 64 = 0 ∧ b / 2 ^ 16 ≠ g) ∧ ∀ f ∈ k.mapFrames, f ≠ g

/-- The locks of a copy from one frame into another: a read lock on the first and a write lock on the second (R150). -/
def kvLocks (f g : Nat) : List LockRange :=
  [{ write := false, place := .device, lo := f * 2 ^ 16, hi := (f + 1) * 2 ^ 16 },
   { write := true, place := .device, lo := g * 2 ^ 16, hi := (g + 1) * 2 ^ 16 }]

/-- R150, R151: a copy on write takes the frame on top of its die's free list with a read lock on the shared frame and a write
lock on the fresh one; once it holds both, it puts the shared frame's committed data into the fresh one, names that in the
writing node's map, and ends, with its locks. The old frame keeps its bytes. A request that the die has no frame for, or whose
frame is being rebuilt, waits; one whose write needs no copy any more, or whose frame can never be rebuilt, ends and gives its
frame back. Where the rules leave room it follows log entries 28 and 31, the model's reading. -/
def Says.KvCopies : Prop :=
  ∀ (s : State) (c : KvCopy), s.kv.copies = [c] →
    (∀ m f, s.copySource c = some (m, f) → s.kv.rb f = false → c.dest = none → s.eng.locks = [] →
      (s.kv.free (c.slot % 2) = [] → exec (.kvCopy c.id) s = .next s) ∧
      ∀ g gs, s.kv.free (c.slot % 2) = g :: gs → g ≠ f → s.fab.tmax = [] → s.fab.held = [] → Tab.wf 0 s.kv.counts = true →
        ∃ t r, exec (.kvCopy c.id) s = .next t ∧ t.mem = s.mem ∧ t.teams = s.teams ∧ t.kv.slots = s.kv.slots ∧
          t.kv.free (c.slot % 2) = gs ∧ t.kv.free (1 - c.slot % 2) = s.kv.free (1 - c.slot % 2) ∧
          (∀ x, t.kv.count x = if x = g then 0x80001 else s.kv.count x) ∧ t.kv.copies = [{ c with dest := some g }] ∧
          t.eng.locks = [r] ∧ r.owner = .kvCopy c.id ∧ r.granted = true ∧ r.ranges = kvLocks f g) ∧
    (∀ m f g r, s.copySource c = some (m, f) → s.kv.rb f = false → c.dest = some g → s.eng.locks = [r] → r.owner = .kvCopy c.id →
      r.ranges = kvLocks f g → r.granted = true → let k := s.slot c.slot
      g ≠ f → (k.node c.node).map = [] → (k.node c.node).blocks = [] → k.freeBlocks ≠ [] →
      s.mem.wf = true → c.node < 256 → clearOfImage s k c.slot g → clearOfImage s k c.slot f →
      ∃ t, exec (.kvCopy c.id) s = .next t ∧ t.kv.copies = [] ∧ t.eng.locks = [] ∧ t.kv.count g = s.kv.count g ∧
        mapFind ((t.slot c.slot).node c.node).map c.plane c.block = some g ∧
        (∀ n, n ≠ c.node → (t.slot c.slot).node n = k.node n) ∧
        ∀ i < 2 ^ 16, byteAt t (g * 2 ^ 16 + i) = byteAt s (f * 2 ^ 16 + i) ∧
          byteAt t (f * 2 ^ 16 + i) = byteAt s (f * 2 ^ 16 + i)) ∧
    (∀ m f, s.copySource c = some (m, f) → s.kv.rb f = true → (s.slot c.slot).lost.contains f = false →
      exec (.kvCopy c.id) s = .next s) ∧
    (s.copySource c = none ∨ (∃ m f, s.copySource c = some (m, f) ∧ s.kv.rb f = true ∧ (s.slot c.slot).lost.contains f = true) →
      s.eng.locks = [] → ∃ t, exec (.kvCopy c.id) s = .next t ∧ t.mem = s.mem ∧ t.kv.copies = [] ∧ t.eng.locks = [] ∧
        (c.dest = none → t.kv.counts = s.kv.counts) ∧
        (∀ g, c.dest = some g → t.kv.free (dieOfPa (g * 2 ^ 16)) = g :: s.kv.free (dieOfPa (g * 2 ^ 16))) ∧
        ∀ k pi p, s.path k pi = some p → ∃ q, t.path k pi = some q ∧
          freed (fun h => h == .kvCopy || h == .rangeLocked) p q)

/-- The teams are as before, but for the bytes of their versions that are cancelled (R156, R158). -/
def onlyVersionsCut (s t : State) : Prop :=
  ∀ key tm, s.team key = some tm → ∃ b, t.team key = some b ∧ { b with version := tm.version } = tm ∧ ∀ x ∈ b.version, x ∈ tm.version

/-- R160: an error in a frame that a slot maps starts its rebuild: with a registered launch, a fresh frame stands for the lost
one and the launch is injected as an RT launch with the record's address; with none, the slot fails; while another of the slot
runs, RB is set and the rest waits. An error in a frame that no slot maps does nothing. R160: the end of the rebuild launch
clears RB and ends the rebuild, or fails it where the launch failed or was cancelled. R156, R158: PRUNE_RELEASE frees the dead
nodes of an open slot, or the whole of a retiring one, when no lock is held. Where the rules leave room it follows log entries
28, 32 and 33, the model's reading. -/
def Says.KvRebuilds : Prop :=
  (∀ (s : State) (frame : Nat), s.frameHolder frame = none → exec (.kvRebuildStart frame) s = .next s) ∧
  (∀ (s : State) (frame slot plane block : Nat), s.frameHolder frame = some (slot, plane, block) →
    (s.slot slot).rebuilding = none → (s.slot slot).lost.contains frame = false →
    ((s.slot slot).regQueue = none → ∃ t, exec (.kvRebuildStart frame) s = .next t ∧ (t.slot slot).fail = true ∧
      (t.slot slot).rebuilding = none ∧ (t.kv.count frame).getLsbD 17 = true ∧ t.sched.launches = s.sched.launches) ∧
    ∀ q s1 g s3 d n, (s.slot slot).regQueue = some q → plane ≠ 255 →
      { s with kv := s.kv.setCount frame (s.kv.count frame ||| 0x20000) }.replaceLost slot frame = some (s1, g) →
      let k := { s1.slot slot with rebuilds := (s1.slot slot).rebuilds + 1 }
      let s2 := (s1.putSlot slot k).deviceWrite (s1.recordAt slot) (rebuildRecord k slot plane block frame g)
      let asid := (s.queue q).qctl.toNat / 2 ^ 4 % 2 ^ 12
      s2.checkWaits asid k.image = false → s2.checkLaunch asid false k.image = (s3, .ok d) →
      AMap.freeBelow s3.sched.launches 4096 = some n →
      ∃ t l, exec (.kvRebuildStart frame) s = .next t ∧ (t.slot slot).rebuilding = some (frame, g, n) ∧ t.launch n = some l ∧
        l.rebuild = some slot ∧ l.rt = true ∧ l.begun = true ∧ l.k = d ∧ l.queue = q ∧
        l.args = .ofNat 64 (s.kv.kvbase.toNat + 0x40000 + slot * 64)) ∧
  (∀ (s : State) (frame slot plane block : Nat) (x : Nat × Nat × Nat), s.frameHolder frame = some (slot, plane, block) →
    (s.slot slot).rebuilding = some x → x.2.1 ≠ frame → (s.slot slot).lost.contains frame = false → plane ≠ 255 →
    (s.slot slot).regQueue ≠ none → Tab.wf 0 s.kv.counts = true →
    ∃ t, exec (.kvRebuildStart frame) s = .next t ∧ { t with kv := s.kv } = s ∧ t.kv.slots = s.kv.slots ∧
      ∀ g, t.kv.count g = if g = frame then s.kv.count g ||| 0x20000 else s.kv.count g) ∧
  (∀ (s : State) (slot h f g h' : Nat) (l : Launch), s.sched.launches = [(h, l)] → l.rebuild = some slot →
    (s.launchOver h l = false → exec (.kvRebuildEnd slot) s = .next s) ∧
    (s.launchOver h l = true → (s.slot slot).rebuilding = some (f, g, h') → h' = h → Tab.wf 0 s.kv.counts = true →
      ∃ t, exec (.kvRebuildEnd slot) s = .next t ∧ t.sched.launches = [] ∧ (t.slot slot).rebuilding = none ∧
        (t.slot slot).nodes = (s.slot slot).nodes ∧
        (l.failed = none → l.cancelled = false →
          (t.kv.count g).getLsbD 17 = false ∧ (t.slot slot).fail = (s.slot slot).fail) ∧
        (l.failed ≠ none ∨ l.cancelled = true → (t.slot slot).fail = true))) ∧
  ∀ (s : State) (slot : Nat), s.eng.locks = [] →
    let k := s.slot slot
    (k.state = 2 → ∃ t, exec (.pruneRelease slot) s = .next t ∧ (t.slot slot).state = 0 ∧ (t.slot slot).gen = k.gen ∧
      (∀ n, ((t.slot slot).node n).state = 0) ∧ (∀ j, j ≠ slot → t.slot j = s.slot j) ∧ onlyVersionsCut s t) ∧
    (k.state ≠ 2 → (∃ e ∈ k.nodes, e.2.state = 2) → ∃ t, exec (.pruneRelease slot) s = .next t ∧ (t.slot slot).state = k.state ∧
      (∀ n, (t.slot slot).node n = if (k.node n).state = 2 then Node.blank else k.node n) ∧
      (∀ j, j ≠ slot → t.slot j = s.slot j) ∧ onlyVersionsCut s t) ∧
    (k.state ≠ 2 → (∀ e ∈ k.nodes, e.2.state ≠ 2) → exec (.pruneRelease slot) s = .next s)

/-! ## Engine events -/

/-- A linear copy of a COPY packet in device memory, which holds its locks (R67, R237). -/
def packetCopyHeld (s : State) (c : Copy) (q : Nat) (idx : BitVec 32) (r : LockReg) : Prop :=
  s.eng.copies = [c] ∧ c.packet = some (q, idx) ∧ c.mode = 0 ∧ c.pause = none ∧ s.eng.locks = [r] ∧ r.granted = true ∧
    r.owner = .copy c.id ∧ c.src.toNat + c.total ≤ s.dev.limit ∧ c.dst.toNat + c.total ≤ s.dev.limit ∧ s.mem.badLines = [] ∧
    r.ranges = [lineRange false .device c.src.toNat c.total, lineRange true .device c.dst.toNat c.total] ∧
    (∀ e ∈ s.teams, e.2.teamId ≠ c.teamId) ∧ s.sched.saved = []

/-- R237: RANGE_LOCK_GRANT grants the oldest registration that conflicts with none held, whose dies have entries left and whose
lines no lease covers, and otherwise does nothing; RANGE_LOCK_RELEASE releases a registration whose operation has ended. R239: a
line of a copy moves its bytes from the source to the destination; the copy ends when the last has moved, and a copy that an
error stopped ends with its class. A record's end puts STATUS and TRAP into it and takes the rest of its bytes from CNT; its
locks are released afterwards. Where the rules leave room it follows log entries 62, 64 and 66, the model's reading. -/
def Says.Engines : Prop :=
  (∀ (s : State) (r : LockReg), s.eng.locks = [r] → r.granted = false → (r.owner = .flip ∨ ∃ n, r.owner = .copy n) →
    s.fab.tmax = [] → s.fab.held = [] → r.ranges.length ≤ 4096 →
    exec .rangeLockGrant s = .next { s with eng := { s.eng with locks := [{ r with granted := true }] } }) ∧
  (∀ (s : State) (r r' : LockReg) (x y : LockRange), s.eng.locks = [r, r'] → r.granted = true → r'.granted = false →
    r.owner ≠ r'.owner → x ∈ r.ranges → y ∈ r'.ranges → x.place = y.place → x.write = true ∨ y.write = true → x.lo < y.hi →
    y.lo < x.hi → exec .rangeLockGrant s = .next s) ∧
  (∀ (s : State) (r : LockReg) (n : Nat), s.eng.locks = [r] → r.owner = .copy n →
    ((∀ c ∈ s.eng.copies, c.id ≠ n) → ∃ t, exec (.rangeLockRelease r.id) s = .next t ∧ t.mem = s.mem ∧ t.eng.locks = [] ∧
      ∀ k pi p, s.path k pi = some p → ∃ q, t.path k pi = some q ∧ freed (fun h => h == .rangeLocked) p q) ∧
    ((∃ c ∈ s.eng.copies, c.id = n) → exec (.rangeLockRelease r.id) s = .next s)) ∧
  (∀ (s : State) (c : Copy) (q : Nat) (idx : BitVec 32) (r : LockReg), packetCopyHeld s c q idx r →
    (c.failed = none → c.moved < c.total → s.mem.wf = true → s.lineHeld (c.dst.toNat + c.moved) = false →
      let src := c.src.toNat + c.moved
      let dst := c.dst.toNat + c.moved
      let n := min (c.total - c.moved) (min (64 - src % 64) (64 - dst % 64))
      ∃ t c', exec (.copyLineWrite c.id) s = .next t ∧ t.teams = s.teams ∧ t.mem.host = s.mem.host ∧
        bytesStored s t dst ((List.range n).map (fun i => byteAt s (src + i))) ∧ t.eng.copies = [c'] ∧
        { c' with rel := c.rel } = { c with moved := c.moved + n }) ∧
    ∀ p, (s.queue q).packets = [p] → p.idx = idx → p.st = .begun →
      (c.failed = none → c.moved = c.total → ∃ t, exec (.copyCompletion c.id) s = .next t ∧ t.mem = s.mem ∧ t.eng.copies = [] ∧
        t.eng.locks = [] ∧ (t.queue q).packets = [{ p with st := .ended 1 0 0, rel := c.rel }]) ∧
      (∀ k, c.failed = some k → ∃ t, exec (.copyFailure c.id) s = .next t ∧ t.mem = s.mem ∧ t.eng.copies = [] ∧
        t.eng.locks = [] ∧ (t.queue q).packets = [{ p with st := .ended 2 k.code 0, rel := c.rel }])) ∧
  (∀ (s : State) (c : Copy), s.eng.copies = [c] →
    (c.failed = none → exec (.copyFailure c.id) s = .next s) ∧ (c.moved ≠ c.total → exec (.copyCompletion c.id) s = .next s)) ∧
  ∀ (s : State) (c : Copy) (key : Nat) (tm : Team), s.eng.copies = [c] → c.packet = none → c.pause = none → s.teams = [(key, tm)] →
    tm.teamId = c.teamId → tm.phase = .running → c.scope = 0 → c.evt = false → Tab.wf 0 tm.scratch = true →
    c.recOff + 64 ≤ tm.scrSize → c.bar + 16 ≤ tm.scrSize → (c.recOff + 64 ≤ c.bar ∨ c.bar + 16 ≤ c.recOff) →
    ∀ st tr errs i, ((c.failed = none ∧ c.moved = c.total ∧ st = 1 ∧ tr = 0 ∧ errs = 0 ∧ i = Instr.copyCompletion c.id) ∨
        ∃ k, c.failed = some k ∧ st = 2 ∧ tr = k.code ∧ errs = 1 ∧ i = Instr.copyFailure c.id) →
      ∃ t b, exec i s = .next t ∧ t.mem = s.mem ∧ t.eng.copies = [] ∧ t.eng.locks = s.eng.locks ∧ t.team key = some b ∧
        Tab.get 0 b.scratch (c.recOff + 30) = .ofNat 8 tr ∧ Tab.get 0 b.scratch (c.recOff + 31) = .ofNat 8 st ∧
        BitVec.ofNat 64 (ofBytes (b.scr c.bar 8)) =
          .ofNat 64 (ofBytes (tm.scr c.bar 8)) - .ofNat 64 (c.total - c.counted) ∧
        Tab.get 0 b.scratch (c.bar + 8) = .ofNat 8 (min 255 ((Tab.get 0 tm.scratch (c.bar + 8)).toNat + errs)) ∧
        b.vregs = tm.vregs ∧ b.version = tm.version ∧
        ∀ o, (o < c.recOff + 30 ∨ c.recOff + 32 ≤ o) → (o < c.bar ∨ c.bar + 9 ≤ o) →
          Tab.get 0 b.scratch o = Tab.get 0 tm.scratch o
/-! ## The host link -/

/-- R11, R20, R24: a host access through the window reaches WINBASE plus its offset. A read gives the committed bytes and a
write makes its bytes committed; no team, and so no version, takes part. An access past the window or the memory of the service
level, or one in D3hot or D3cold, completes with Unsupported Request, and one to a frame that a flip holds, or behind one of the
same bytes that waits, is held until it can perform (R30). Before the link is up there is no access (R14). WINBASE takes a
multiple of the window size alone, and zero alone with a window of 1 TiB. Where the rules leave room it follows log entries 18,
39 and 126, the model's reading. -/
def Says.HostAccesses : Prop :=
  ∀ (s : State), s.mem.wf = true → s.mem.badLines = [] → s.fab.tmax = [] → s.fab.held = [] → s.dbg.jctl = 0 →
    (s.dev.bstep = 0 → ∀ a v, exec (.hostMemoryAccess a) s = .next s ∧ exec (.winbaseWrite v) s = .next s) ∧
    (s.dev.bstep ≠ 0 → ∀ (a : HostAccess) (n pa : Nat), n = (match a.data with | some bs => bs.length | none => a.len) → 1 ≤ n →
      pa = (if a.viaWindow = true then s.dev.winbase.toNat + a.addr else a.addr) →
      (s.dev.svc ≠ 0 → s.dev.dark = false → pa + n ≤ s.dev.limit → (a.viaWindow = true → a.addr + n ≤ 2 ^ s.dev.winLog2) →
        (a.viaWindow = false → s.dev.cxl = true) →
        ((∀ l ∈ s.eng.locks, l.owner ≠ .flip) → s.dev.heldHost = [] →
          (a.data = none → ∃ t, exec (.hostMemoryAccess a) s = .next t ∧ memoryKept s t ∧ t.teams = s.teams ∧
            t.out = .readData ((List.range n).map (fun i => byteAt s (pa + i))) :: s.out) ∧
          (∀ bs, a.data = some bs → ∃ t, exec (.hostMemoryAccess a) s = .next t ∧ bytesStored s t pa bs ∧
            t.mem.host = s.mem.host ∧ t.teams = s.teams ∧ t.out = s.out)) ∧
        ((∃ l ∈ s.eng.locks, l.owner = .flip ∧ l.granted = true ∧ ∃ r ∈ l.ranges, r.lo < pa + n ∧ pa < r.hi) ∨
            (∃ b ∈ s.dev.heldHost, let x := if b.viaWindow = true then s.dev.winbase.toNat + b.addr else b.addr
              let k := match b.data with | some bs => bs.length | none => b.len
              x < pa + n ∧ pa < x + k) →
          exec (.hostMemoryAccess a) s = .next { s with dev := { s.dev with heldHost := s.dev.heldHost ++ [a] } })) ∧
      (s.dev.limit < pa + n ∨ s.dev.svc = 0 ∨ s.dev.dark = true ∨ a.viaWindow = true ∧ 2 ^ s.dev.winLog2 < a.addr + n ∨
          a.viaWindow = false ∧ s.dev.cxl = false → exec (.hostMemoryAccess a) s = .next { s with out := .unsupportedRequest :: s.out })) ∧
    (s.dev.deaf = false → ∀ v : BitVec 64, exec (.winbaseWrite v) s =
      .next (if v.toNat % 2 ^ s.dev.winLog2 = 0 ∧ (s.dev.winLog2 < 40 ∨ v = 0) then { s with dev := { s.dev with winbase := v } } else s))

/-- R31: the answers to the three snoops of a line that is not present, is present, or has fills outstanding, and what becomes
of the line: each outstanding fill is marked, to bring the line as it is now. A snoop that lets the host write leaves nothing
known of the line's bytes in host memory (R32) and changes no other. Where the rules leave room it follows log entry 38, the
model's reading. -/
def Says.Snoops : Prop :=
  ∀ (s : State) (line : Nat), AMap.rising s.mem.hostLines = true → AMap.rising s.mem.l2 = true → Tab.wf 0 s.mem.host = true →
    let h := s.hostLine line
    let marked := ({ h with fills := h.fills.map (fun f => { f with old := some (f.old.getD (s.readHost (line * 64) 64)) }) } : HostLine)
    let shows := fun (x : String) => ({ s with out := .snoop x line :: s.out } : State)
    (h.fills = [] → s.hostPresent line = none → exec (.snpData line) s = .next (shows "RspIHitI") ∧
      exec (.snpCur line) s = .next (shows "RspIHitI")) ∧
    (h.fills = [] → s.hostPresent line ≠ none → exec (.snpData line) s = .next (shows "RspSHitSE") ∧
      exec (.snpCur line) s = .next (shows "RspVHitV")) ∧
    (h.fills ≠ [] → ∀ i ∈ [Instr.snpData line, Instr.snpCur line], ∃ t, exec i s = .next t ∧ memoryKept s t ∧ t.teams = s.teams ∧
      t.out = .snoop "RspIHitI" line :: s.out ∧ t.hostLine line = marked ∧ ∀ l, l ≠ line → t.hostLine l = s.hostLine l) ∧
    ∃ t, exec (.snpInv line) s = .next t ∧ t.teams = s.teams ∧ t.mem.bytes = s.mem.bytes ∧
      (∀ a, a / 64 ≠ line → Tab.get 0 t.mem.host a = Tab.get 0 s.mem.host a) ∧ (∀ l, l ≠ line → t.hostLine l = s.hostLine l) ∧
      t.out = .snoop (if h.fills = [] ∧ s.hostPresent line ≠ none then "RspIHitSE" else "RspIHitI") line :: s.out ∧
      (h.fills = [] → t.hostPresent line = none) ∧ (h.fills ≠ [] → t.hostLine line = marked)

/-- R32: the oldest fill of a line returns and gives the line to the load that waits for it, once; a fill that no snoop has
marked installs the line, where its partition and class let the L2 take it, and one marked brings the line as it was before the
snoop and installs nothing. A return with no fill outstanding does nothing. Where the rules leave room it follows log entries 38
and 123, the model's reading. -/
def Says.HostFills : Prop :=
  ∀ (s : State) (line : Nat), let h := s.hostLine line
    (h.fills = [] → exec (.hostFillReturn line) s = .next s) ∧
    ∀ (f : HostFill) (fs : List HostFill) (p : PendAccess) (tm : Team) (q : Path) (sd n : Nat), h.fills = f :: fs → f.waiters = [p] →
      p.dest = .scalar sd n false → p.clause = none → p.size = n → p.addr / 64 = line → p.addr % 64 + n ≤ 64 → n ≤ 8 → 1 ≤ sd →
      sd < 64 → s.team p.tkey = some tm → tm.teamId = p.teamId → AMap.find tm.paths p.path = some q → Tab.wf 0 q.sregs = true →
      (∀ d, f.old = some d → d.length = 64) → AMap.rising s.mem.hostLines = true → AMap.rising s.mem.l2 = true →
      let now := (List.range 64).map (fun i => Tab.get (0 : Byte) s.mem.host (line * 64 + i))
      let d := f.old.getD now
      let slice := keySlice s.dev (l2Key 4 line) f.vline
      let reg := Tab.get 0 s.mem.l2part f.part
      ∃ t r, exec (.hostFillReturn line) s = .next t ∧ memoryKept s t ∧ t.path p.tkey p.path = some r ∧ r.spc = q.spc ∧
        (∀ x, r.s x = if x.toNat = sd then .ofNat 64 (ofBytes ((d.drop (p.addr % 64)).take n)) else q.s x) ∧
        r.pendScalar = q.pendScalar.filter (fun x => x.req != p.id) ∧ (t.hostLine line).fills = fs ∧
        (f.old ≠ none → t.hostLine line = { h with fills := fs } ∧ t.mem.l2 = s.mem.l2) ∧
        (f.old = none → f.rc ≠ 3 → s.mem.l2 = [] → reg.getLsbD (16 + slice / 8) = true → slice < 320 →
          (∃ j < 16, reg.getLsbD j = true ∧ (s.saveWay f.part slice j = false ∨ f.rc = 0 ∧ s.saving = false)) →
          t.hostPresent line = some now) ∧
        ∀ l, l ≠ line → t.hostLine l = s.hostLine l

/-- R29, R30: a request of BFREQ with a reserved bit or a range past the memory sets ERR to 1, and a seventeenth sets it to 2;
an accepted one locks its first frame that is not in the target bias, or is done when there is none. A frame whose lock is
granted changes its bias: to host bias, no L2 and no L1 keeps a line of it; to device bias, the device asks the host for each of
its 1,024 lines. Its lock goes, what a host access held performs, and after the last frame DONE advances. Without the lock
nothing happens. Where the rules leave room it follows log entries 40, 66, 114 and 126, the model's reading. -/
def Says.BiasFlips : Prop :=
  (∀ (s : State) (v : BitVec 64), s.dev.deaf = false →
    let frame := v.toNat % 2 ^ 24
    let count := v.toNat / 2 ^ 24 % 2 ^ 12 + 1
    let bad : Prop := v.toNat / 2 ^ 36 % 2 ^ 27 ≠ 0 ∨ 0x900000 < frame + count ∨ s.dev.svc = 1 ∧ 0x180000 < frame + count
    (bad → exec (.biasFlipRequest v) s = .next { s with dev := { s.dev with bfErr := 1 } }) ∧
    (¬ bad → 16 ≤ s.dev.flips.length → exec (.biasFlipRequest v) s = .next { s with dev := { s.dev with bfErr := 2 } }) ∧
    (¬ bad → s.dev.flips = [] → s.eng.locks = [] → s.fab.tmax = [] → s.fab.held = [] →
      ((∀ i < count, Tab.get false s.mem.bias (frame + i) = v.getLsbD 63) →
        exec (.biasFlipRequest v) s = .next { s with dev := { s.dev with bfDone := s.dev.bfDone + 1 } }) ∧
      (Tab.get false s.mem.bias frame ≠ v.getLsbD 63 → ∃ t r f, exec (.biasFlipRequest v) s = .next t ∧ t.mem = s.mem ∧
        t.teams = s.teams ∧ t.dev.flips = [f] ∧ f.toHost = v.getLsbD 63 ∧ f.frame = frame ∧ f.left = count ∧
        f.lock = some r.id ∧ t.eng.locks = [r] ∧ r.granted = true ∧ r.owner = .flip ∧
        r.ranges = [{ write := true, place := .device, lo := frame * 2 ^ 16, hi := (frame + 1) * 2 ^ 16 }]))) ∧
  ∀ (s : State) (f : BiasFlip) (r : LockReg), s.dev.flips = [f] → f.left = 1 → f.lock = some r.id → s.eng.locks = [r] →
    s.dev.heldHost = [] →
    (r.granted = false → exec .biasFlipFrame s = .next s) ∧
    (r.granted = true → s.teams = [] → s.sched.saved = [] → Tab.wf false s.mem.bias = true →
      ∃ t, exec .biasFlipFrame s = .next t ∧ memoryKept s t ∧ t.dev = { s.dev with flips := [], bfDone := s.dev.bfDone + 1 } ∧
        t.eng.locks = [] ∧ (∀ g, Tab.get false t.mem.bias g = if g = f.frame then f.toHost else Tab.get false s.mem.bias g) ∧
        (f.toHost = true → t.out = s.out ∧ (∀ e ∈ t.mem.l2, e.1 / 1024 ≠ f.frame) ∧
          ∀ c, ∀ l ∈ (t.core c).l1, l.pline / 1024 ≠ f.frame) ∧
        (f.toHost = false → t.out = ((List.range 1024).map (fun i => OutMsg.rdOwn (f.frame * 1024 + i))).reverse ++ s.out ∧
          t.cores = s.cores)) ∧
    ∀ (a : HostAccess) (bs : List Byte), r.granted = true → s.teams = [] → s.sched.saved = [] → a.data = some bs → bs ≠ [] →
      s.mem.wf = true → s.fab.tmax = [] → s.fab.held = [] → s.dbg.jctl = 0 →
      ∃ t, exec .biasFlipFrame { s with dev := { s.dev with heldHost := [a] } } = .next t ∧ t.dev.heldHost = [] ∧
        bytesStored s t (if a.viaWindow = true then s.dev.winbase.toNat + a.addr else a.addr) bs

/-- R34, R35: a write of MEXT extends the register that it names, M5 to M7 by their numbers and M8 by 0, by the staged digest,
and appends a record with KIND 4 and the staged VER; REG 1 to 4 and a reserved bit set IGN, and a full log sets FULL, with no
other effect. The staging words stay. Where the rules leave room it follows log entries 13 and 115, the model's reading. -/
def Says.HostMeasurements : Prop :=
  ∀ (s : State) (v : BitVec 64), s.dev.deaf = false → Tab.wf 0 s.dev.meas = true →
    let reg := v.toNat % 8
    let st := fun (n : Nat) => Tab.get (0 : BitVec 64) s.dev.mextStage n
    let bad : Prop := 1 ≤ reg ∧ reg ≤ 4 ∨ 8 ≤ v.toNat ∨ 2 ^ 16 ≤ (st 2).toNat ∨ st 3 ≠ 0
    let m := if reg = 0 then 8 else reg
    let digest : BitVec 256 := .ofNat 256 ((st 4).toNat + (st 5).toNat * 2 ^ 64 + (st 6).toNat * 2 ^ 128 + (st 7).toNat * 2 ^ 192)
    (bad → exec (.mext v) s = .next { s with dev := { s.dev with mextIgn := true } }) ∧
    (¬ bad → 4096 ≤ s.dev.log.length → exec (.mext v) s = .next { s with dev := { s.dev with mextFull := true } }) ∧
    (¬ bad → s.dev.log.length < 4096 → ∃ t x, exec (.mext v) s = .next t ∧ { t with dev := s.dev } = s ∧
      { t.dev with meas := s.dev.meas, log := s.dev.log } = s.dev ∧ t.dev.log = s.dev.log ++ [x] ∧
      x.seq = s.dev.log.length ∧ x.reg = m ∧ x.kind = 4 ∧ x.digest = digest ∧ x.ver = (st 1).toNat + (st 2).toNat * 2 ^ 64 ∧
      ∀ k, Tab.get 0 t.dev.meas k =
        if k = m then Config.sm3 (toBytes 32 (Tab.get 0 s.dev.meas m).toNat ++ toBytes 32 digest.toNat) else Tab.get 0 s.dev.meas k)

/-- A request and its response have entered the transcript, and the response has been sent; nothing else differs. -/
def answered (s : State) (before : List (List Byte)) (agreed : Bool) (request : List Byte) (kind : String) (response : List Byte) :
    State :=
  { s with out := .spdm kind response :: s.out,
           dev := { s.dev with transcript := before ++ [request, response], spdmAgreed := agreed } }

/-- The bytes of a measurement block: M1 to M8, and the records of the log in their order. -/
def measuredBlock (s : State) (n : Nat) : List Byte :=
  if n = 9 then s.dev.log.flatMap (fun r => toBytes 32 r.digest.toNat ++ toBytes 10 r.ver ++
    [.ofNat 8 r.kind, .ofNat 8 r.reg] ++ toBytes 4 r.seq)
  else toBytes 32 (Tab.get 0 s.dev.meas n).toNat

/-- R33, R36: the device answers the seven requests of SPDM, whatever its state, but in D3hot and D3cold and before the link is
up (R11, R14). DIGESTS carries the SM3 digest of the certificate and CERTIFICATE the certificate of slot 0; MEASUREMENTS carries
M1 to M8 or the log. CHALLENGE_AUTH and signed MEASUREMENTS end with a signature over the transcript, which holds the request
with its nonce. A requester that offers neither algorithm receives InvalidRequest. That a new exchange begins at GET_VERSION,
that nothing is signed before both algorithms are agreed, the errors for another slot or block, and the bodies that SPDM itself
lays out, are the model's choice. Where the rules leave room it follows log entries 13 and 96, the model's reading. -/
def Says.Attestation : Prop :=
  ∀ (s : State), s.dev.deaf = false → let old := s.dev.transcript
    let agreed := s.dev.spdmAgreed
    let error := fun (c : String) => ({ s with out := .spdm ("ERROR " ++ c) [] :: s.out } : State)
    let signed := fun (request : List Byte) (kind : String) (b : List Byte) =>
      answered s old true request kind (b ++ Config.sm2Sign (Config.sm3 (old.flatten ++ request ++ b)))
    let asks := fun (n : Nat) (nonce : List Byte) => Config.spdmBody 12 (toBytes 1 n ++ nonce)
    exec .getVersion s = .next (answered s [] false (Config.spdmBody 0 []) "VERSION" (Config.spdmBody 1 [])) ∧
    exec .getCapabilities s = .next (answered s old agreed (Config.spdmBody 2 []) "CAPABILITIES" (Config.spdmBody 3 [])) ∧
    exec (.negotiateAlgorithms false false) s = .next (error "InvalidRequest") ∧
    (∀ sm2 sm3, sm2 = true ∨ sm3 = true →
      let offer : List Byte := [if sm2 then 1 else 0, if sm3 then 1 else 0]
      exec (.negotiateAlgorithms sm2 sm3) s =
        .next (answered s old (sm2 && sm3) (Config.spdmBody 4 offer) "ALGORITHMS" (Config.spdmBody 5 offer))) ∧
    exec .getDigests s = .next (answered s old agreed (Config.spdmBody 6 []) "DIGESTS"
      (toBytes 32 (Config.sm3 Config.certificate).toNat)) ∧
    exec (.getCertificate 0) s = .next (answered s old agreed (Config.spdmBody 8 []) "CERTIFICATE" Config.certificate) ∧
    (∀ slot, slot ≠ 0 → exec (.getCertificate slot) s = .next (error "InvalidRequest")) ∧
    (∀ nonce, exec (.challenge nonce) s = .next (if agreed = true then
      signed (Config.spdmBody 10 (toBytes 32 nonce.toNat)) "CHALLENGE_AUTH" (Config.spdmBody 11 []) else error "UnexpectedRequest")) ∧
    ∀ n nonce,
      (1 ≤ n → n ≤ 9 →
        exec (.getMeasurements n false nonce) s = .next (answered s old agreed (asks n []) "MEASUREMENTS" (measuredBlock s n)) ∧
        exec (.getMeasurements n true nonce) s = .next (if agreed = true then
          signed (asks n (toBytes 32 nonce.toNat)) "MEASUREMENTS" (measuredBlock s n) else error "UnexpectedRequest")) ∧
      (n = 0 ∨ 9 < n → ∀ b, exec (.getMeasurements n b nonce) s = .next (error "InvalidRequest"))
/-! ## The fabric -/

/-- R37, R39, R41, R42: FNODE takes a node number, and FTUNC an uncertainty of 50 to 10,000 ns. After a Sync exchange, LOCK is 1
while the error bound is at most U; past U, or while fabric time does not run, the device is in lease hold, and hold ends after
16 exchanges in a row with a bound of at most U / 2. A device whose node number is 0xFFF, or not in full service, exchanges
nothing. A failed port goes down. Nothing else changes. Twice the bound is the measured offset twice and the variation once.
Where the rules leave room it follows log entries 87 and 88, the model's reading. -/
def Says.FabricTime : Prop :=
  ∀ (s : State), let f := s.fab
    (∀ v : BitVec 32, s.dev.deaf = false → exec (.fnodeWrite v) s = .next { s with fab := { f with fnode := .ofNat 12 v.toNat } }) ∧
    (∀ v : BitVec 32, s.dev.deaf = false → let u := v.toNat % 2 ^ 16
      (¬ (50 ≤ u ∧ u ≤ 10000) → exec (.ftuncWrite v) s = .next s) ∧
      (50 ≤ u → u ≤ 10000 → ∃ t, exec (.ftuncWrite v) s = .next t ∧ { t with fab := f } = s ∧ t.fab.ftunc = u ∧
        t.fab.fnode = f.fnode ∧ t.fab.leased = f.leased ∧ t.fab.tmax = f.tmax ∧ t.fab.ftime = f.ftime ∧
        (∀ e, f.eps = some e → f.running = true →
          (e ≤ 2 * u → t.fab.lock = true ∧ t.fab.hold = f.hold) ∧ (2 * u < e → t.fab.lock = false ∧ t.fab.hold = true)))) ∧
    (∀ off var : Nat, f.fnode = 0xFFF ∨ s.dev.svc ≠ 2 → exec (.syncExchange off var) s = .next s) ∧
    (∀ off var : Nat, f.fnode ≠ 0xFFF → s.dev.svc = 2 → s.dev.dark = false → let e := 2 * off + var
      ∃ t, exec (.syncExchange off var) s = .next t ∧ { t with fab := f } = s ∧ t.fab.eps = some e ∧ t.fab.ftunc = f.ftunc ∧
        t.fab.leased = f.leased ∧ t.fab.tmax = f.tmax ∧ t.fab.ftime = f.ftime ∧
        (f.running = false ∨ 2 * f.ftunc < e → t.fab.lock = false ∧ t.fab.hold = true ∧ t.fab.goodSyncs = 0) ∧
        (f.running = true → e ≤ 2 * f.ftunc → t.fab.lock = true ∧
          t.fab.goodSyncs = (if e ≤ f.ftunc then f.goodSyncs + 1 else 0) ∧
          t.fab.hold = (if e ≤ f.ftunc ∧ 15 ≤ f.goodSyncs then false else f.hold))) ∧
    ∀ n < 24, ∃ t, exec (.fabricPortFailure n) s = .next t ∧ { t with fab := f } = s ∧
      { t.fab with ports := f.ports, routes := f.routes } = f ∧
      (∀ k, t.fab.ports.getLsbD k = (f.ports.getLsbD k && k != n)) ∧ (t.fab.ports ≠ 0 → t.fab.routes = f.routes)

/-- R44 to R47: the owner refuses a peer's access that no entry of its export table allows. A load that resolves to device
memory gets the committed bytes, or the whole line with a lease to the owner's time plus LEASE, which raises the line's latest
lease end; a store performs and is acknowledged, and waits for its place while a lease on the line stands, as does an atomic;
the oldest write that waits performs once the lease and U have passed, and where that is a path's own the event leaves it to the
path. A translation that fails at the owner refuses the access and is posted to the device-event queue. A device with node
number 0xFFF answers nothing (R39). Where the rules leave room it follows log entries 87, 89, 122 and 128, the model's reading.
-/
def Says.RemoteOwner : Prop :=
  (∀ (s : State) (r : PeerReq), s.fab.fnode = 0xFFF → exec (.remoteAccessRequest r) s = .next s) ∧
  (∀ (s s1 : State) (r : PeerReq) (a : L2Access), s.fab.fnode ≠ 0xFFF → s.dev.svc = 2 → s.dev.dark = false →
    let replies := fun (t : State) (p : PeerReply) => t.out.head? = some (.peerReply r.node r.id p)
    let pa := a.pa
    (s.fab.exported r.off = none →
      exec (.remoteAccessRequest r) s = .next { s with out := .peerReply r.node r.id .refused :: s.out }) ∧
    (∀ e, s.fab.exported r.off = some e → (e.toNat / 2 ^ 32 % 2 ^ 6 ≠ 0 ∨
        (match r.op with | .load _ _ => e.getLsbD 126 | _ => e.getLsbD 125) = false) →
      exec (.remoteAccessRequest r) s = .next { s with out := .peerReply r.node r.id .refused :: s.out }) ∧
    (s.ownerAt r.off r.op = (s1, .failed) → ∃ t v, exec (.remoteAccessRequest r) s = .next t ∧ memoryKept s1 t ∧
      t.teams = s1.teams ∧ t.out = .peerReply r.node r.id .refused :: .deviceEvent v :: s1.out ∧
      t.fab = { s1.fab with failures := s1.fab.failures ++
        [{ node := r.node, off := r.off, write := match r.op with | .load _ _ => false | _ => true }] }) ∧
    (s.ownerAt r.off r.op = (s1, .later) → exec (.remoteAccessRequest r) s = .next s1) ∧
    (s.ownerAt r.off r.op = (s1, .dev a) → s1.mem.wf = true → Tab.wf 0 s1.fab.tmax = true →
      (∀ n, r.op = .load n false → ∃ t, exec (.remoteAccessRequest r) s = .next t ∧ memoryKept s1 t ∧ t.teams = s1.teams ∧
        t.fab = s1.fab ∧ replies t (.data ((List.range n).map (fun i => byteAt s1 (pa + i))) none)) ∧
      (∀ n e, r.op = .load n true → s1.fab.exported r.off = some e → e.getLsbD 124 = false → s1.fabricRuns = true →
        s1.eng.locks = [] →
        let T := s1.fab.ftime.toNat + (e.toNat / 2 ^ 118 % 2 ^ 6 + 1) * 1000
        ∃ t, exec (.remoteAccessRequest r) s = .next t ∧ memoryKept s1 t ∧
          replies t (.data ((List.range 64).map (fun i => byteAt s1 (lineOf pa * 64 + i))) (some T)) ∧
          ∀ l, Tab.get 0 t.fab.tmax l = if l = lineOf pa then max T (Tab.get 0 s1.fab.tmax l) else Tab.get 0 s1.fab.tmax l) ∧
      (∀ bs, r.op = .store bs → s1.lineHeld pa = false → ∃ t, exec (.remoteAccessRequest r) s = .next t ∧
        bytesStored s1 t pa bs ∧ t.mem.host = s1.mem.host ∧ t.teams = s1.teams ∧ replies t .ack) ∧
      (∀ n x, r.op = .atomic .add n [(x, 0)] → s1.lineHeld pa = false →
        let old := (List.range n).map (fun i => byteAt s1 (pa + i))
        ∃ t, exec (.remoteAccessRequest r) s = .next t ∧ bytesStored s1 t pa (toBytes n (ofBytes old + x)) ∧
          replies t (.data old none)) ∧
      (∀ bs, r.op = .store bs → s1.lineHeld pa = true → ∃ h, exec (.remoteAccessRequest r) s =
          .next { s1 with fab := { s1.fab with held := s1.fab.held ++ [h] } } ∧ h.line = lineOf pa ∧ h.pa = pa ∧ h.op = r.op ∧
          h.peer = some (r.node, r.id)))) ∧
  ∀ (s : State) (h : HeldWrite) (bs : List Byte) (node id : Nat), s.fab.held = [h] → h.line = lineOf h.pa → h.op = .store bs →
    h.peer = some (node, id) → s.fab.fnode ≠ 0xFFF → s.dev.svc = 2 → s.dev.dark = false →
    let T := Tab.get 0 s.fab.tmax (lineOf h.pa)
    (h.turn ≠ none → exec (.leaseHeldWrite h.line) s = .next s) ∧
    (T ≠ 0 → s.fab.ftime.toNat < T + s.fab.ftunc → exec (.leaseHeldWrite h.line) s = .next s) ∧
    (h.turn = none → T = 0 ∨ T + s.fab.ftunc ≤ s.fab.ftime.toNat → s.mem.wf = true → ∃ t, exec (.leaseHeldWrite h.line) s = .next t ∧
      bytesStored s t h.pa bs ∧ t.mem.host = s.mem.host ∧ t.fab.held = [] ∧ t.teams = s.teams ∧
      t.out.head? = some (.peerReply node id .ack))

/-- R43, R45, R47: the reply to a remote access ends it: data enters the register that waits for it, and a line under a lease is
kept; an acknowledgement ends a store; a refusal traps PROTECTION, and no reply within FTMO traps UNCORRECTABLE. A reply to
nothing does nothing. Where the rules leave room it follows log entries 7, 44 and 129, the model's reading. -/
def Says.RemoteRequester : Prop :=
  (∀ (s : State) (id : Nat) (r : PeerReply), s.eng.pend = [] → exec (.remoteCompletion id r) s = .next s ∧
    exec (.remoteTimeout id) s = .next s) ∧
  ∀ (s : State) (p : PendAccess) (tm : Team) (q : Path), s.eng.pend = [p] → p.space = 3 → p.clause = none →
    s.team p.tkey = some tm → tm.teamId = p.teamId → AMap.find tm.paths p.path = some q → Tab.wf 0 q.sregs = true →
    let gone : State := { s with eng := { s.eng with pend := [] } }
    let va : Word64 := .ofNat 64 (3 * 2 ^ 60 + p.addr)
    let ended := fun (t : State) (r : Path) => memoryKept s t ∧ t.eng.pend = [] ∧ t.path p.tkey p.path = some r ∧ r.spc = q.spc ∧
      r.pendScalar = q.pendScalar.filter (fun x => x.req != p.id)
    exec (.remoteCompletion p.id .refused) s = .next (gone.trapError p.tkey p.path .protection p.lane va) ∧
    exec (.remoteTimeout p.id) s = .next (gone.trapError p.tkey p.path .uncorrectable p.lane va) ∧
    (p.dest = .nothing → ∃ t r, exec (.remoteCompletion p.id .ack) s = .next t ∧ ended t r ∧ r.sregs = q.sregs) ∧
    ∀ sd n, p.dest = .scalar sd n false → p.size = n → 1 ≤ sd → sd < 64 → n ≤ 8 →
      (∀ b, b.length = n → ∃ t r, exec (.remoteCompletion p.id (.data b none)) s = .next t ∧ ended t r ∧ t.fab = s.fab ∧
        ∀ x, r.s x = if x.toNat = sd then .ofNat 64 (ofBytes b) else q.s x) ∧
      (∀ b T, b.length = 64 → p.addr % 64 + n ≤ 64 → ∃ t r, exec (.remoteCompletion p.id (.data b (some T))) s = .next t ∧
        ended t r ∧ (∀ x, r.s x = if x.toNat = sd then .ofNat 64 (ofBytes ((b.drop (p.addr % 64)).take n)) else q.s x) ∧
        ∃ l, t.fab.leased.head? = some l ∧ l.node = p.addr / 2 ^ 48 % 2 ^ 12 ∧ l.line = p.addr % 2 ^ 48 / 64 ∧ l.data = b ∧
          l.until_ = T)

/-- The team of a collective is resident, its record and its barrier lie apart in its scratchpad, and nothing keeps it from ending. -/
def collReady (s : State) (c : Coll) (key : Nat) (tm : Team) : Prop :=
  s.fab.colls = [c] ∧ s.teams = [(key, tm)] ∧ tm.teamId = c.teamId ∧ tm.phase = .running ∧ c.scope = 0 ∧ c.evt = false ∧
    Tab.wf 0 tm.scratch = true ∧ c.recOff + 64 ≤ tm.scrSize ∧ c.bar + 16 ≤ tm.scrSize ∧
    (c.recOff + 64 ≤ c.bar ∨ c.bar + 16 ≤ c.recOff)

/-- A collective has ended with a status: it is in its record, with the class of a write to a stable page beside it, and its barrier
object has counted the bytes that were left. -/
def collEnded (t : State) (c : Coll) (key : Nat) (tm : Team) (status errs : Nat) : Prop :=
  t.fab.colls = [] ∧ ∃ b, t.team key = some b ∧ ofBytes (b.scr (c.recOff + 40) 8) = (status + 2 ^ 8 * c.trap) % 2 ^ 64 ∧
    BitVec.ofNat 64 (ofBytes (b.scr c.bar 8)) = .ofNat 64 (ofBytes (tm.scr c.bar 8)) - .ofNat 64 c.left ∧
    Tab.get 0 b.scratch (c.bar + 8) = .ofNat 8 (min 255 ((Tab.get 0 tm.scratch (c.bar + 8)).toNat + errs)) ∧
    b.vregs = tm.vregs ∧ b.version = tm.version

/-- R52, R53: a fingerprint that arrives is noted, and one that differs marks the collective; a block of the right length is
kept. A collective whose fingerprints and blocks are all there writes the rest of DST, with STATUS 1; a mismatch ends it with
STATUS 2, a lost member or one that has not arrived within TMO with 3, a fault at a member with 4, and the barrier counts down
to wake its waiters. Where the rules leave room it follows log entries 67, 112, 113, 135 and 140, the model's reading. -/
def Says.Collectives : Prop :=
  (∀ (s : State) (c : Coll) (rank : Nat), s.fab.colls = [c] → rank < c.members →
    (∀ fp, ∃ t c', exec (.collectiveArrival c.id (.finger rank fp)) s = .next t ∧ t.mem = s.mem ∧ t.teams = s.teams ∧
      t.fab.colls = [c'] ∧ (∀ r, r ∈ c'.fingers ↔ r = rank ∨ r ∈ c.fingers) ∧ c'.blocks = c.blocks ∧
      (fp = c.finger → c'.broken = c.broken) ∧ (fp ≠ c.finger → c.broken = none → c'.broken = some .mismatch)) ∧
    (∀ b, c.op < 2 → b.length = c.block → AMap.find c.blocks rank = none →
      ∃ t, exec (.collectiveArrival c.id (.block rank b)) s = .next t ∧ t.mem = s.mem ∧ t.teams = s.teams ∧
        t.fab.colls = [{ c with blocks := AMap.insert rank b c.blocks }])) ∧
  (∀ (s : State) (id : Nat) (m : CollMsg), s.fab.colls = [] → exec (.collectiveArrival id m) s = .next s ∧
    exec (.collectiveCompletion id) s = .next s ∧ exec (.collectiveArrivalTimeout id) s = .next s) ∧
  (∀ (s s1 : State) (c c' : Coll) (key : Nat) (tm : Team), s.fab.colls = [c] → s.collRuns c = true →
    AMap.find c.blocks c.rank ≠ none → (∀ r < c.members, r ∈ c.fingers ∧ AMap.find c.blocks r ≠ none) →
    s.collFinish c c.rest = .ok s1 → collReady s1 c' key tm → c'.id = c.id →
    ∃ t, exec (.collectiveCompletion c.id) s = .next t ∧ t.mem = s1.mem ∧ collEnded t c' key tm 1 0) ∧
  ∀ (s s1 : State) (c c' : Coll) (key : Nat) (tm : Team), s.fab.colls = [c] → s.collPoison c = s1 → collReady s1 c' key tm →
    c'.id = c.id →
    (∃ t, exec (.collectiveFailure c.id .memberLost) s = .next t ∧ t.mem = s1.mem ∧ collEnded t c' key tm 3 1) ∧
    (∃ t, exec (.collectiveFailure c.id .memberFault) s = .next t ∧ t.mem = s1.mem ∧ collEnded t c' key tm 4 1) ∧
    (c.broken = some .mismatch →
      ∃ t, exec (.collectiveFailure c.id .mismatch) s = .next t ∧ t.mem = s1.mem ∧ collEnded t c' key tm 2 1) ∧
    (∀ r < c.members, r ∉ c.fingers →
      ∃ t, exec (.collectiveArrivalTimeout c.id) s = .next t ∧ t.mem = s1.mem ∧ collEnded t c' key tm 3 1)
/-! ## Bring-up, power and firmware -/

/-- The device is at the start of bring-up in a power state: nothing of the device's own is retained but its fuses and the link's
settings, and the host's memory stays. The wall counter has a value (R250). -/
def restarted (s t : State) (p : Power) (wall : BitVec 64) : Prop :=
  { t with mem := Memory.reset, dev := Dev.reset } = { State.reset with ctx := s.ctx, agenda := s.agenda, fresh := s.fresh, out := s.out } ∧
    { t.mem with host := [] } = Memory.reset ∧ t.mem.host = s.mem.host ∧
    t.dev = { Dev.reset with power := p, fuseDebug := s.dev.fuseDebug, cxl := s.dev.cxl, winLog2 := s.dev.winLog2, wall := wall }

/-- R11, R14, R250: power-on from D3cold and a function-level reset begin bring-up again, loss of main power leads to D3cold
where nothing is retained, and a device in D3cold, or without a link since step 1 failed, has no function to reset. The wall
counter starts at power-on and counts on through a function-level reset. Where the rules leave room it follows log entry 90, the
model's reading. -/
def Says.Resets : Prop :=
  ∀ s : State,
    (∃ t, exec .mainPowerLoss s = .next t ∧ restarted s t .d3cold 0) ∧
    (s.dev.power = .d3cold ∨ s.dev.bstep = 0 ∧ s.dev.noLink = false → ∃ t, exec .powerOn s = .next t ∧ restarted s t .d0 0) ∧
    (s.dev.power ≠ .d3cold → s.dev.bstep ≠ 0 ∨ s.dev.noLink = true → exec .powerOn s = .next s) ∧
    (s.dev.power = .d3cold ∨ s.dev.noLink = true → exec .functionLevelReset s = .next s) ∧
    (s.dev.power ≠ .d3cold → s.dev.noLink = false → ∃ t, exec .functionLevelReset s = .next t ∧ restarted s t .d0 s.dev.wall)

/-- R14, R16, R17, R40, R74: each step of bring-up that ends well leads to the next: step 2 checks the firmware image and
measures the boot ROM, the image and the fuses into M1 to M3, or fails on an image that is refused, step 4 begins reduced
service at 425 MHz, step 5 waits for the last team, step 6 starts fabric time and the ports; one that fails leaves its BERR,
after which no step runs, and where step 1 fails there is no link and no step either. Full service begins once step 6 has ended
and no team is resident and no resident launch is left, at 850 MHz, without the fabric when its step failed. Where the rules
leave room it follows log entries 88, 91, 97 and 131, the model's reading. -/
def Says.BringUp : Prop :=
  (∀ s : State, s.dev.dark = false → s.dev.berr = 0 → s.dev.noLink = false → let d := s.dev
    (d.bstep = 0 → exec (.bringUpStep false) s = .next { s with dev := { d with noLink := true } }) ∧
    (d.bstep = 0 → exec (.bringUpStep true) s = .next { s with dev := { d with bstep := 1 } }) ∧
    (∀ e, d.bstep = 1 → bootCheck = .error e → exec (.bringUpStep true) s = .next { s with dev := { d with berr := 1 } }) ∧
    (∀ ver digest entry, d.bstep = 1 → bootCheck = .ok (ver, digest, entry) → d.log.length ≤ 4093 → Tab.wf 0 d.meas = true →
      ∃ t x1 x2 x3, exec (.bringUpStep true) s = .next t ∧
      { t with dev := d } = s ∧ { t.dev with meas := d.meas, log := d.log, bstep := 1 } = d ∧ t.dev.bstep = 2 ∧
      t.dev.log = d.log ++ [x1, x2, x3] ∧ x1.reg = 1 ∧ x1.kind = 0 ∧ x1.digest = Config.romDigest ∧
      x2.reg = 2 ∧ x2.kind = 1 ∧ x2.digest = digest ∧ x2.ver = ver ∧ x3.reg = 3 ∧ x3.kind = 2 ∧
      x3.digest = Config.sm3 (toBytes 32 Config.fusedKeyId.toNat ++ toBytes 4 Config.fusedMinSvn.toNat ++
        [if d.fuseDebug = true then 1 else 0] ++ List.replicate 27 0) ∧
      ∀ k, Tab.get 0 t.dev.meas k =
        let ext := fun (x : BitVec 256) => Config.sm3 (toBytes 32 (Tab.get 0 d.meas k).toNat ++ toBytes 32 x.toNat)
        if k = 1 then ext x1.digest else if k = 2 then ext x2.digest else if k = 3 then ext x3.digest else Tab.get 0 d.meas k) ∧
    (d.bstep = 2 → exec (.bringUpStep true) s = .next { s with dev := { d with bstep := 4, svc := 1, clk0 := 8, clk1 := 8 } }) ∧
    (d.bstep = 4 → exec (.bringUpStep true) s = .next { s with dev := { d with bstep := 5, switching := true } }) ∧
    (d.bstep = 5 → ∃ t, exec (.bringUpStep true) s = .next t ∧ { t with fab := s.fab } = { s with dev := { d with bstep := 6 } } ∧
      t.fab.running = true ∧ (∀ n < 24, t.fab.ports.getLsbD n = true) ∧ t.fab.ftime = s.fab.ftime ∧ t.fab.fnode = s.fab.fnode) ∧
    ∀ e ∈ [(1, 1), (2, 2), (4, 3), (5, 4)], d.bstep = e.1 →
      exec (.bringUpStep false) s = .next { s with dev := { d with berr := e.2 } }) ∧
  (∀ (s : State) (ok : Bool), s.dev.berr ≠ 0 ∨ s.dev.dark = true ∨ s.dev.noLink = true → exec (.bringUpStep ok) s = .next s) ∧
  ∀ s : State, let may : Prop := s.dev.switching = true ∧ s.dev.dark = false ∧ s.teams = [] ∧
      (∀ e ∈ s.sched.launches, e.2.begun = true → e.2.nextNb = 0) ∧ (s.dev.bstep = 6 ∨ s.dev.berr = 4)
    (may → ∃ t, exec .fullServiceSwitch s = .next t ∧ { t with mem := s.mem } = { s with dev := { s.dev with
        power := .d0, switching := false, bstep := 7, svc := (if s.dev.berr = 4 then 3 else 2), clk0 := 16, clk1 := 16 } } ∧
      t.mem = { s.mem with l2 := [] }) ∧
    (¬ may → exec .fullServiceSwitch s = .next s)

/-- R9 to R13: a request for D3hot stays in hand while anything is outstanding, and completes otherwise: DRAM with its frame
table and biases and the KV trees and lists that lie in it, the fuses, the service level and its clocks, the measurements and
the wall counter stay, and every queue, register and cache is as after reset; the device leaves D3hot at the service level it
was entered from. A request to stay in D0 withdraws one that is in hand. D0 idle is entered when no team is resident. A window
above the cap and a hot die lower the core clocks a step, to no less than 425 MHz, and the sixteenth window in a row below 95%
of the cap raises them; a cap from 600 to 1,800 W is taken. What of the registers counts as configuration space, so that it
stays in D3hot, is the model's reading. Where the rules leave room it follows log entries 92, 93 and 111, the model's reading.
-/
def Says.PowerAndClocks : Prop :=
  ∀ s : State, let d := s.dev
    (d.dark = true ∨ d.halted = true → exec .d3hotRequest s = .next s) ∧
    (d.dark = false → d.halted = false → s.busy = true →
      exec .d3hotRequest s = .next { s with dev := { d with d3Asked := true } }) ∧
    (d.dark = false → d.halted = false → s.busy = false → ∃ t, exec .d3hotRequest s = .next t ∧ memoryKept s t ∧
      t.mem.frames = s.mem.frames ∧ t.mem.bias = s.mem.bias ∧ t.mem.l2 = [] ∧ t.teams = [] ∧ t.sched = State.reset.sched ∧
      t.xl = State.reset.xl ∧ t.eng = State.reset.eng ∧ t.dbg = State.reset.dbg ∧ t.kv = { Kv.reset with slots := s.kv.slots, counts := s.kv.counts, free0 := s.kv.free0, free1 := s.kv.free1 } ∧
      t.fab.ports = s.fab.ports ∧ t.fab.fnode = 0xFFF ∧
      t.dev = { Dev.reset with power := .d3hot, bstep := d.bstep, berr := d.berr, svc := d.svc, switching := d.switching,
                               clk0 := d.clk0, clk1 := d.clk1, wall := d.wall, winLog2 := d.winLog2, cxl := d.cxl,
                               meas := d.meas, log := d.log, fuseDebug := d.fuseDebug }) ∧
    exec .d0Request s = .next (if d.power = .d3cold then s else if d.power = .d3hot then { s with dev := { d with power := .d0 } }
      else { s with dev := { d with d3Asked := false } }) ∧
    exec .d0IdleEntry s = .next (if s.teams = [] ∧ d.power = .d0 ∧ d.svc ≠ 0 then { s with dev := { d with power := .d0idle } } else s) ∧
    (∀ w, let top := if d.svc = 1 then 8 else 16
      exec (.powerWindow w) s = .next { s with dev :=
        if d.pcap < w then { d with clk0 := max 8 (d.clk0 - 1), clk1 := max 8 (d.clk1 - 1), lowWindows := 0 }
        else if d.pcap * 95 ≤ w * 100 then { d with lowWindows := 0 }
        else if d.lowWindows = 15 then { d with clk0 := min top (d.clk0 + 1), clk1 := min top (d.clk1 + 1), lowWindows := 0 }
        else { d with lowWindows := d.lowWindows + 1 } }) ∧
    exec (.thermalThrottle 0) s = .next { s with dev := { d with clk0 := max 8 (d.clk0 - 1) } } ∧
    exec (.thermalThrottle 1) s = .next { s with dev := { d with clk1 := max 8 (d.clk1 - 1) } } ∧
    ∀ v : BitVec 32, d.deaf = false → let w := v.toNat % 2 ^ 11
      exec (.pcapWrite v) s = .next (if 600 ≤ w ∧ w ≤ 1800 then { s with dev := { d with pcap := w } } else s)

/-- R5, R13, R72: at 115 °C the device stops issuing for good and no team is left; after 64 retries of one bridge flit it stops
too. Every launch that has begun has then failed, and no packet stays fetched. Up to then a failed try is counted, a flit that
the bridge has carried ends the count, and a device with one die has no bridge. Where the rules leave room it follows log
entries 94 and 121, the model's reading. -/
def Says.DeviceStops : Prop :=
  ∀ s : State, AMap.rising s.teams = true → AMap.rising s.sched.launches = true →
    let stopped := fun (t : State) => t.dev.halted = true ∧ t.teams = [] ∧
      (∀ c, chooseScalar t c = none ∧ chooseClause t c = none) ∧ (∀ q, ∀ p ∈ (t.queue q).packets, p.st ≠ .fetched) ∧
      ∀ n l, s.launch n = some l → l.begun = true → ∃ l', t.launch n = some l' ∧ l'.failed ≠ none ∧ l'.cancelled = true
    (s.dev.dark = true → exec .thermalShutdown s = .next s ∧ exec .bridgeFlitFailure s = .next s) ∧
    (s.dev.dark = false → ∃ t, exec .thermalShutdown s = .next t ∧ stopped t) ∧
    (s.dev.svc ≤ 1 → exec .bridgeFlitFailure s = .next s) ∧
    (s.dev.dark = false → 2 ≤ s.dev.svc →
      (s.dev.bridgeRetries < 64 →
        exec .bridgeFlitFailure s = .next { s with dev := { s.dev with bridgeRetries := s.dev.bridgeRetries + 1 } }) ∧
      (64 ≤ s.dev.bridgeRetries → ∃ t, exec .bridgeFlitFailure s = .next t ∧ stopped t)) ∧
    s.takeInput .bridgeCarried = { s with dev := { s.dev with bridgeRetries := 0 } }

/-- R18: the management bus answers from the end of step 1 while main power is present, and takes a power cap. R74, R75: a
runtime load with a queue enabled or a team resident gives FWSTAT 6, a bad image 3 or 4, and a full log 5; an accepted image is
measured into M4, and the queue processors restart at its entry. Where the rules leave room it follows log entries 95, 98 and
120, the model's reading. -/
def Says.ManagementAndFirmware : Prop :=
  (∀ s : State, let d := s.dev
    let shows := fun (b : List Byte) => ({ s with out := .mgmt b :: s.out } : State)
    (∀ r, d.bstep = 0 ∨ d.power = .d3cold → exec (.mgmtBusRequest r) s = .next s) ∧
    (d.bstep ≠ 0 → d.power ≠ .d3cold →
      exec (.mgmtBusRequest .readCap) s = .next (shows (toBytes 4 d.pcap)) ∧
      exec (.mgmtBusRequest .certificate) s = .next (shows Config.certificate) ∧
      (d.svc < 4 → d.bstep < 16 → d.berr < 16 → exec (.mgmtBusRequest .svcstat) s = .next (shows (toBytes 4 (d.svc + d.bstep * 2 ^ 8 + d.berr * 2 ^ 12)))) ∧
      (∀ r ∈ [MgmtReq.temperatures, MgmtReq.power], ∃ t b, exec (.mgmtBusRequest r) s = .next t ∧
        t = { shows b with fresh := s.fresh + 1 }) ∧
      ∀ w, exec (.mgmtBusRequest (.writeCap w)) s =
        .next (if 600 ≤ w ∧ w ≤ 1800 then { s with dev := { d with pcap := w } } else s))) ∧
  ∀ (s : State) (v : BitVec 32), s.dev.deaf = false → let d := s.dev
    let idle : Prop := (∀ e ∈ s.sched.queues, e.2.qctl.getLsbD 0 = false) ∧ s.teams = []
    let stat := fun (x : BitVec 4) => ({ s with dev := { d with fwstat := x } } : State)
    let a := d.fwaddr.toNat
    (v.getLsbD 0 = false → exec (.runtimeFirmwareLoad v) s = .next s) ∧
    (v.getLsbD 0 = true → ¬ idle → exec (.runtimeFirmwareLoad v) s = .next (stat 6)) ∧
    (v.getLsbD 0 = true → idle → ofBytes ((List.range 4).map (fun i => byteAt s (a + i))) ≠ 0x59465731 →
      exec (.runtimeFirmwareLoad v) s = .next (stat 3)) ∧
    (∀ e, v.getLsbD 0 = true → idle → s.checkImage a = .error e → exec (.runtimeFirmwareLoad v) s = .next (stat e)) ∧
    ∀ ver digest entry, v.getLsbD 0 = true → idle → s.checkImage a = .ok (ver, digest, entry) → Tab.wf 0 d.meas = true →
      (4096 ≤ d.log.length → exec (.runtimeFirmwareLoad v) s = .next (stat 5)) ∧
      (d.log.length < 4096 → ∃ t, exec (.runtimeFirmwareLoad v) s = .next t ∧ t.mem = s.mem ∧ t.teams = s.teams ∧
        t.sched.queues = s.sched.queues ∧ t.dev.fwstat = 2 ∧
        t.dev.log = d.log ++ [{ seq := d.log.length, reg := 4, kind := 3, ver := ver, digest := digest }] ∧
        Tab.get 0 t.dev.meas 4 = Config.sm3 (toBytes 32 (Tab.get 0 d.meas 4).toNat ++ toBytes 32 digest.toNat) ∧
        ∀ h k, AMap.find s.sched.harts h = some k → (t.hart h).pc = .ofNat 64 (a + 128 + entry) ∧ (t.hart h).mode = .machine ∧
          (t.hart h).swait = none)
/-! ## Debug, trials and the journal -/

/-- R251: with a session attached to the ASID, the timers that are due stop the lowest-indexed running path outside its clauses
with class 0x33 and the due bits, and the registers that fired are cleared; nothing happens while the named one is not due,
while a handler runs, or while that path is inside an instruction that has performed (a TNRETIRE that ends its slot, a CRW of
DSTEP). Without a session and with TVEC set, the path enters the handler after a commit. Where the rules leave room it follows
log entries 56 and 109, the model's reading. -/
def Says.Timers : Prop :=
  ∀ (s : State) (core slot pi : Nat) (tm : Team) (p : Path), slot < 16 → let key := teamKey core slot
    s.team key = some tm → AMap.find tm.paths pi = some p → p.park = none → p.stop = none →
    (∀ j q, (j, q) ∈ tm.paths → j < pi → q.park.isSome = true ∨ q.stop.isSome = true) → AMap.rising tm.paths = true →
    (s.core core).running ≠ some (slot, pi) → s.dbg.stepping = none →
    let d0 : Prop := tm.tcmp ≠ 0 ∧ tm.tcmp.toNat ≤ tm.ccyc.toNat
    let d1 : Prop := tm.tdln ≠ 0 ∧ tm.tdln.toNat ≤ s.dev.wall.toNat
    ∀ info, (info = 1 ∧ d0 ∧ ¬ d1) ∨ (info = 2 ∧ ¬ d0 ∧ d1) ∨ (info = 3 ∧ d0 ∧ d1) ∨ (info = 0 ∧ ¬ d0 ∧ ¬ d1) →
    ∀ i bit, (i, bit) ∈ [(Instr.contextTimerExpiry core slot, 0), (Instr.wallDeadlineExpiry core slot, 1)] →
      let inside : Prop := (∃ g, p.wait = some (.retiring g)) ∨ p.wait = some .stepping
      (Nat.testBit info bit = false ∨ tm.handler ≠ none ∨ inside → exec i s = .next s) ∧
      (Nat.testBit info bit = true → tm.handler = none → ¬ inside → s.dbg.attached = some (.ofNat 12 tm.asid) →
        ∃ t b r, exec i s = .next t ∧ { t with teams := s.teams, dbg := s.dbg, out := s.out } = s ∧
          (∀ k, k ≠ key → t.team k = s.team k) ∧ t.team key = some b ∧
          { b with tcmp := tm.tcmp, tdln := tm.tdln, dueFirst := tm.dueFirst, paths := tm.paths } = tm ∧
          b.tcmp = (if d0 then 0 else tm.tcmp) ∧ b.tdln = (if d1 then 0 else tm.tdln) ∧
          (∀ j, j ≠ pi → AMap.find b.paths j = AMap.find tm.paths j) ∧
          AMap.find b.paths pi = some { p with wait := none, stop := some { reason := 0x33, info := info, hmask := p.mask } } ∧
          t.dbg = { s.dbg with stops := s.dbg.stops ++ [r] } ∧ r.length = 272 ∧ t.out = .deviceEvent 62 :: s.out) ∧
      (Nat.testBit info bit = true → tm.handler = none → ¬ inside → s.dbg.attached = none → tm.tvec ≠ 0 → s.commitBlocked key = false →
        s.mem.wf = true → ∃ t b h q, exec i s = .next t ∧ versionPerformed s t tm.version ∧ t.team key = some b ∧
          b.handler = some h ∧ h.cause = .ofNat 64 (0x33 + info * 256) ∧ h.epc = p.spc ∧ h.elc = 0 ∧ h.path = pi ∧
          b.tcmp = (if d0 then 0 else tm.tcmp) ∧ b.tdln = (if d1 then 0 else tm.tdln) ∧ b.paths = [(pi, q)] ∧
          q.spc = tm.tvec ∧ q.sregs = p.sregs ∧ q.mask = p.mask)

/-- R256, R258 to R260: a write of CXCTL keeps its fields and clears CXDLY when it sets EN; every path then counts from its
start, and changes in nothing else. Writing 0 clears DMPSTAT. A write of JCTL of a reserved MODE or a LOG2SZ outside 12 to 30
leaves it unchanged; any other keeps its fields, and a new MODE starts from the first record. A replay with no launch or host
data left to take changes nothing more; one that runs takes a new ring size, and no other MODE. That DMPSTAT takes no other
value is the model's choice. Where the rules leave room it follows log entries 103, 105 and 107, the model's reading. -/
def Says.TrialsDumpsAndJournal : Prop :=
  ∀ s : State, s.dev.deaf = false →
    (∀ v : BitVec 64, let u : State := { s with dbg := { s.dbg with
        cxctl := .ofNat 64 (bits 63 52 v.toNat * 2 ^ 52 + bits 47 32 v.toNat * 2 ^ 32 + bits 15 8 v.toNat * 2 ^ 8 + v.toNat % 2),
        cxdly := if v.toNat % 2 = 1 then 0 else s.dbg.cxdly } }
      (v.toNat % 2 = 0 → exec (.cxctlWrite v) s = .next u) ∧
      (v.toNat % 2 = 1 → ∃ t, exec (.cxctlWrite v) s = .next t ∧ { t with teams := s.teams, sched := s.sched } = u ∧
        { t.sched with saved := s.sched.saved } = s.sched ∧
        ∀ key, (t.team key).map (fun b => { b with paths := [], handler := none }) =
            (s.team key).map (fun b => { b with paths := [], handler := none }) ∧
          ∀ pi, t.path key pi = (s.path key pi).map (fun p => { p with cxCount := 0 }))) ∧
    (∀ v : BitVec 64, exec (.dmpstatWrite v) s = .next (if v = 0 then { s with dbg := { s.dbg with dmpstat := 0 } } else s)) ∧
    (s.dev.heldHost = [] → ∀ v : BitVec 32, let mode := bits 1 0 v.toNat
      let size := bits 12 8 v.toNat
      let kept := BitVec.ofNat 32 (size * 2 ^ 8 + mode)
      (mode = 3 ∨ size < 12 ∨ 30 < size → exec (.journalRecord v) s = .next s) ∧
      (mode ≠ 3 → 12 ≤ size → size ≤ 30 →
        (mode = 0 ∨ mode = bits 1 0 s.dbg.jctl.toNat →
          exec (.journalRecord v) s = .next { s with dbg := { s.dbg with jctl := kept } }) ∧
        (let t := { s with dbg := { s.dbg with jctl := kept } }
         mode = 2 → mode = bits 1 0 s.dbg.jctl.toNat → t.nextRecord (fun k _ => k == 1 || k == 3) = none →
          exec (.journalReplay v) s = .next t) ∧
        (mode ≠ 0 → mode ≠ bits 1 0 s.dbg.jctl.toNat → let t := { s with dbg := { s.dbg with
            jctl := kept, jpos := 0, jtaken := [], jcount := 0 } }
          exec (.journalRecord v) s = .next t ∧
          (bits 1 0 s.dbg.jctl.toNat ≠ 2 → mode = 1 ∨ t.nextRecord (fun k _ => k == 1 || k == 3) = none →
            exec (.journalReplay v) s = .next t))) ∧
    ∀ v : BitVec 32, bits 1 0 s.dbg.jctl.toNat = 2 → bits 1 0 v.toNat ≠ 2 → s.nextRecord (fun k _ => k == 1 || k == 3) = none →
      exec (.journalReplay v) s = .next s)

/-- The request gets its answer: the header, whose IDX may be set, with data and zeros to 4,096 bytes; nothing else of the state
differs from `u`. -/
def answers (u t : State) (r : DebugReq) (code idx : Nat) (data : List Byte) : Prop :=
  { t with dbg := u.dbg } = u ∧ { t.dbg with rsp := u.dbg.rsp, dcode := u.dbg.dcode, done := u.dbg.done, busy := u.dbg.busy } = u.dbg ∧
    t.dbg.dcode = .ofNat 8 code ∧ t.dbg.done = true ∧ t.dbg.busy = false ∧
    ∀ n < 4096, Tab.get 0 t.dbg.rsp n =
      (toBytes 4 r.team.toNat ++ toBytes 1 idx ++ toBytes 1 (r.path.toNat + r.asid.toNat % 16 * 16) ++ toBytes 1 (r.asid.toNat / 16) ++
        toBytes 1 r.cmd.toNat ++ toBytes 8 r.arg0.toNat ++ data).getD n 0

/-- R25, R26, R252 to R254, R420: what the mailbox answers to the commands that act on no path: ATTACH takes one ASID at a time;
DETACH clears comparators, watchpoints and stops; SETBP, CLRBP, SETWP and CLRWP check their operands; POLL returns the up to 15
oldest stop records in ascending team identifier and path index, those of one path as they were made; another command gives
DCODE 1, one that needs the attached ASID gives 2 without it. Where the rules leave room it follows log entries 99, 101 and 144,
the model's reading. -/
def Says.MailboxSession : Prop :=
  ∀ (s : State) (r : DebugReq), s.dev.deaf = false → s.dev.fuseDebug = true → s.dbg.busy = false → Tab.wf 0 s.dbg.rsp = true →
    let gives := fun (i : Instr) (u : State) (code : Nat) => ∃ t, exec i s = .next t ∧ answers u t r code r.idx.toNat []
    let n := r.idx.toNat
    gives (.debugUnknownCommand r) s 1 ∧
    (s.dbg.attached = none ∨ s.dbg.attached = some r.asid →
      gives (.dbgAttach r) { s with dbg := { s.dbg with attached := some r.asid } } 0) ∧
    (∀ a, s.dbg.attached = some a → a ≠ r.asid → gives (.dbgAttach r) s 2) ∧
    (s.dbg.attached ≠ some r.asid → ∀ i ∈ [Instr.dbgDetach r, .dbgList r, .dbgPoll r, .dbgHold r, .dbgResume r, .dbgStep r, .dbgSetbp r,
      .dbgClrbp r, .dbgSetwp r, .dbgClrwp r, .dbgRdreg r, .dbgWrreg r, .dbgRdmem r], gives i s 2) ∧
    (s.dbg.attached = some r.asid →
      (s.dbg.stepping = none → ∃ t u, exec (.dbgDetach r) s = .next t ∧ answers u t r 0 n [] ∧
        { u with teams := s.teams, sched := s.sched } =
          { s with dbg := { s.dbg with attached := none, comparators := [], watches := [], stops := [] } } ∧
        { u.sched with saved := s.sched.saved } = s.sched ∧
        ∀ key pi, (u.path key pi).map (·.stop) = (s.path key pi).map (fun _ => none)) ∧
      (let first := s.dbg.stops.take 15
       let team := fun (b : List Byte) => ofBytes (b.take 4)
       let path := fun (b : List Byte) => ofBytes ((b.drop 4).take 1)
       ∃ (t : State) (recs : List (List Byte)), exec (.dbgPoll r) s = .next t ∧ recs.length = first.length ∧
        answers { s with dbg := { s.dbg with stops := s.dbg.stops.drop 15 } } t r 0 recs.length recs.flatten ∧
        recs.Pairwise (fun a b => team a < team b ∨ (team a = team b ∧ path a ≤ path b)) ∧
        ∀ i k, recs.filter (fun b => decide (team b = i ∧ path b = k)) = first.filter (fun b => decide (team b = i ∧ path b = k))) ∧
      (3 < n → ∀ i ∈ [Instr.dbgSetbp r, .dbgClrbp r, .dbgSetwp r, .dbgClrwp r], gives i s 1) ∧
      (n ≤ 3 →
        (r.arg0.toNat % 4 = 0 →
          gives (.dbgSetbp r) { s with dbg := { s.dbg with comparators := AMap.insert n r.arg0 s.dbg.comparators } } 0) ∧
        (r.arg0.toNat % 4 ≠ 0 → gives (.dbgSetbp r) s 1) ∧
        gives (.dbgClrbp r) { s with dbg := { s.dbg with comparators := AMap.erase n s.dbg.comparators } } 0 ∧
        gives (.dbgClrwp r) { s with dbg := { s.dbg with watches := AMap.erase n s.dbg.watches } } 0 ∧
        let lo := fun (k m : Nat) => ofBytes ((r.data.drop (k - 16)).take m)
        let good : Prop := lo 28 1 ∈ [1, 2, 3] ∧ lo 29 1 ≤ 1 ∧ lo 30 2 = 0 ∧ lo 32 8 = 0
        (¬ good → gives (.dbgSetwp r) s 1) ∧
        let x : Watch := { base := .ofNat 64 (lo 16 8), len := if lo 24 4 = 0 then 2 ^ 32 else lo 24 4, kind := lo 28 1, space := lo 29 1, team := .ofNat 32 r.arg0.toNat }
        (good → gives (.dbgSetwp r) { s with dbg := { s.dbg with watches := AMap.insert n x s.dbg.watches } } 0)))

/-- The bytes of a register through the mailbox (R253): one value of a scalar register, or one of each lane in ascending order. -/
def registerBytes (tm : Team) (p : Path) (file n : Nat) : List Byte :=
  if file = 3 then toBytes 8 (p.s (.ofNat 6 n)).toNat
  else (List.range tm.k.lanes).flatMap (fun l =>
    if file = 0 then toBytes 4 (tm.v l n).toNat else if file = 1 then [if tm.p l n = true then 1 else 0] else toBytes 4 (tm.x l n).toNat)

/-- R252 to R255: for the only team of the attached ASID, HOLD stops a path that is not stopped, RESUME releases one that is and
gives DCODE 5 otherwise, STEP needs a stopped path and keeps the mailbox busy until it ends, and a step that does not complete
gives DCODE 4 and leaves the path stopped as it was; a STEP that comes while a CRW's step is in hand waits for it, after its own
checks. LIST returns the path records. RDREG reads and WRREG writes scalar registers, WRREG on a stopped path alone, RDMEM reads
committed device memory through the ASID's table, and a team or path that is not there gives 3. The order of the values, and
which codes come first, are the model's reading. Where the rules leave room it follows log entries 99, 100 and 102, the model's
reading. -/
def Says.MailboxPaths : Prop :=
  ∀ (s : State) (r : DebugReq) (key pi : Nat) (tm : Team) (p : Path), s.dev.deaf = false → s.dev.fuseDebug = true → s.dbg.busy = false →
    s.dbg.attached = some r.asid → s.dbg.stepping = none → s.dbg.stepNext = none → Tab.wf 0 s.dbg.rsp = true → Tab.wf 0 p.sregs = true →
    s.teams = [(key, tm)] → tm.paths = [(pi, p)] → pi < 8 → tm.teamId = r.team → tm.asid = r.asid.toNat → r.path.toNat = pi →
    let n := r.idx.toNat
    let gives := fun (i : Instr) (u : State) (code : Nat) => ∃ t, exec i s = .next t ∧ answers u t r code n []
    let only := fun (q : Path) => ({ s with teams := [(key, { tm with paths := [(pi, q)] })] } : State)
    (p.stop = none → gives (.dbgResume r) s 5 ∧ gives (.dbgStep r) s 5 ∧
      ∃ t u rec, exec (.dbgHold r) s = .next t ∧ answers u t r 0 n [] ∧ rec.length = 272 ∧
        u = { (only { p with stop := some { reason := 0, info := 0, hmask := p.mask } }) with
          dbg := { s.dbg with stops := s.dbg.stops ++ [rec] }, out := .deviceEvent 62 :: s.out }) ∧
    (∀ st, p.stop = some st → gives (.dbgHold r) s 0 ∧
      ∃ q, { q with run := p.run } = { p with stop := none } ∧ gives (.dbgResume r) (only q) 0 ∧
        ∃ t d, exec (.dbgStep r) s = .next t ∧ t = { (only q) with dbg := { s.dbg with busy := true, stepping := some d } } ∧
          d.req = r ∧ d.tkey = key ∧ d.path = pi ∧ d.was = st ∧
          ∃ t', exec .debugRequestTimeout t = .next t' ∧ t'.dbg.dcode = 4 ∧ t'.dbg.done = true ∧ t'.dbg.busy = false ∧
            t'.dbg.stepping = none ∧ (t'.path key pi).map (·.stop) = some (some st) ∧ t'.mem = s.mem) ∧
    exec .debugRequestTimeout s = .next s ∧
    (∀ d : DebugStep, let u : State := { s with dbg := { s.dbg with stepping := some d } }
      (p.stop = none → gives (.dbgStep r) u 5) ∧
      (p.stop ≠ none → exec (.dbgStep r) u = .next { u with dbg := { u.dbg with busy := true, stepNext := some r } })) ∧
    (r.arg0 = 0 → ∃ t rec, exec (.dbgList r) s = .next t ∧ answers s t r 0 1 rec ∧ rec.length = 272 ∧
      rec.take 4 = toBytes 4 tm.teamId.toNat ∧ (rec.drop 8).take 8 = toBytes 8 p.spc.toNat) ∧
    (∀ file first count, file < 4 → first + count ≤ (if file = 0 then tm.vcount else if file = 3 then 64 else 8) → first < 256 →
      count < 256 → r.arg0 = .ofNat 64 (file * 2 ^ 56 + first * 2 ^ 8 + count) →
      (let data := (List.range count).flatMap (fun k => registerBytes tm p file (first + k))
       ∃ t, exec (.dbgRdreg r) s = .next t ∧ answers s t r 0 n (data.take 4080)) ∧
      (p.stop = none → gives (.dbgWrreg r) s 5) ∧
      (file = 3 → p.stop ≠ none → 8 * count ≤ r.data.length → r.data.length ≤ 4080 → ∃ q, gives (.dbgWrreg r) (only q) 0 ∧
        { q with sregs := p.sregs } = p ∧ ∀ x : Reg6, q.s x =
          if x ≠ 0 ∧ first ≤ x.toNat ∧ x.toNat < first + count then .ofNat 64 (ofBytes ((r.data.drop (8 * (x.toNat - first))).take 8))
          else p.s x)) ∧
    (∀ len va e ps vpn, ofBytes (r.data.take 8) = len → r.arg0.toNat = va → va < 2 ^ 52 → va % 64 + len ≤ 64 → 0 < len →
      walk s r.asid.toNat false (va / 0x10000) = .leaf e ps vpn → AccKind.permitted .load e = true → leafDisc e = false →
      ∃ t u, exec (.dbgRdmem r) s = .next t ∧ { u with mem := s.mem, out := s.out } = s ∧ (∀ a, byteAt u a = byteAt s a) ∧
        answers u t r 0 n ((List.range len).map (fun k => byteAt s (leafFrame e + (va - vpn * 0x10000) + k)))) ∧
    (4064 < ofBytes (r.data.take 8) → gives (.dbgRdmem r) s 1) ∧
    ∀ r' : DebugReq, r'.asid = r.asid → r'.team ≠ tm.teamId → ∀ i ∈ [Instr.dbgHold r', .dbgResume r', .dbgStep r', .dbgRdreg r', .dbgWrreg r'],
      ∃ t, exec i s = .next t ∧ answers s t r' 3 r'.idx.toNat []

/-! ## Decoding, a step, and reset -/

/-- R55, R263, R265, R285 to R290: words written out from the encodings, with the instructions they stand for. -/
def Says.DecodeWords : Prop :=
  decodeScalar 0x00288531#32 = .tnopen 10 4 5 ∧ decodeScalar 0x02308031#32 = .tnfork 0 4 6 ∧
  decodeScalar 0x0E00E4B1#32 = .tnstat 9 7 0 ∧ decodeScalar 0x0E00A030#32 = .trap 0 5 0 ∧ decodeScalar 0x14006030#32 = .prog 0 3 0 ∧
  decodeScalar 0x38000001#32 = .sext 0 0 0 ∧
  decodeScalar 0x3A000001#32 = .unassignedEncoding (.scalar 0x3A000001#32) ∧
  decodeLane 0x000000000000020100100000#96 =
    .vadd { md := 0, vd := 4, gn := 0, gp := 0, ty := 0, bsel := 0, ss := 0, vc := 0, vb := 2, va := 1, imm := 0 } ∧
  decodeLane 0x000001000600000000000281#96 =
    .cpk { md := 0, vd := 0, gn := 0, gp := 0, ty := 0, bsel := 0, ss := 6, vc := 0, vb := 0, va := 0, imm := 0x100 } ∧
  decodeLane 0x000000000000000000000050#96 = .unassignedEncoding (.lane 0x50#96) ∧
  decodeCommand 0x00C5850B#32 = some (.rfetch 10 11 12) ∧ decodeCommand 0xFE00000B#32 = some (.illegalInstruction 0xFE00000B#32)

/-- R55, R263, R265, R284 to R290: decoding the word of a well-formed instruction gives it back, with every operand, and encoding what any
word decodes to gives back the word: no bit is dropped and no two instructions share a word. -/
def Says.DecodeEncode : Prop :=
  (∀ i : Instr, i.wf = true → ∀ e, encode i = some e → decodeEncoded e = some i) ∧
  (∀ w : BitVec 32, encode (decodeScalar w) = some (.scalar w)) ∧ (∀ w : BitVec 96, encode (decodeLane w) = some (.lane w)) ∧
  ∀ (w : BitVec 32) (i : Instr), decodeCommand w = some i → encode i = some (.command w)

/-- R86, R87, R54, R261, R262: a step runs the instruction that the moving agent has next. A path that issues runs what the four
bytes at its SPC decode to, a datapath the lane word at the head of its clause, a queue processor the command word at its pc, or
the instruction of the base set there, and an event or an input runs as it is. What every step ends with follows: the end of a
debug step in hand, the trap reports that wait, and the completion of a request for D3hot; with none of these in hand it is
nothing. Where the rules leave room it follows log entries 2 and 46, the model's reading. -/
def Says.StepRunsDecoded : Prop :=
  (∀ (s : State) (core slot pi pa : Nat) (rest : List Move) (w : Who) (s1 : State) (leaf : BitVec 64) (i : Instr),
    s.agenda = .pathStep core slot pi :: rest → s.pathReady (teamKey core slot) pi = true →
    let s0 := ({ s with agenda := rest }.noteIssue core slot pi).atPath core slot pi
    issuer s0 = some w → timersDue s0 w.team = 0 → s0.comparatorHit w.team.asid w.path.spc = none → w.path.spc.toNat < 2 ^ 52 →
    s0.translate { core := w.core, asid := w.team.asid, host := false, va := w.path.spc.toNat, kind := .fetch, lpr := none } =
      (s1, .ok pa leaf) → leafDisc leaf = false → lineOf pa ∉ s1.mem.badLines →
    decodeScalar (.ofNat 32 (ofBytes ((List.range 4).map (fun k => byteAt s1 (pa + k))))) = i →
    let u := (s1.viewTouch (.dev pa)).countTrial w
    step s = afterNext (fun t => (u.noteStep t).afterStep) (exec i u)) ∧
  (∀ (s : State) (core slot pi : Nat) (rest : List Move) (tm : Team) (p : Path) (c : Clause) (x : BitVec 96) (xs : List (BitVec 96)),
    s.agenda = .lane core :: rest → (s.core core).running = some (slot, pi) → s.team (teamKey core slot) = some tm →
    AMap.find tm.paths pi = some p → p.run = some c → c.body = x :: xs → timersDue s tm = 0 →
    step s = afterNext State.afterStep (exec (decodeLane x) ({ s with agenda := rest }.atPath core slot pi))) ∧
  (∀ (s : State) (h : Nat) (w : BitVec 32) (rest : List Move), s.agenda = .hart h :: rest → s.dev.dark = false →
    (s.hart h).interrupt = none → (s.hart h).swait = none → s.hartFetchError h = false →
    let u := { s with agenda := rest, ctx := { s.ctx with hart := h } }
    (∀ pa, viewOf s.dev (s.hart h).pc.toNat = .dev pa → w = .ofNat 32 (ofBytes ((List.range 4).map (fun k => byteAt s (pa + k)))) →
      ∀ i, decodeCommand w = some i → step s = afterNext State.afterStep (exec i (u.viewTouch (.dev pa)))) ∧
    (∀ off, sramAddr (s.hart h).pc off → off + 4 ≤ 2 ^ 18 →
      w = .ofNat 32 (ofBytes ((List.range 4).map (fun k => Tab.get 0 (s.hart h).sram (off + k)))) →
      ∀ i, decodeCommand w = some i → step s = afterNext State.afterStep (exec i u)) ∧
    (s.hartWord h = w → decodeCommand w = none → step s = .next ((u.viewTouch (viewOf s.dev (s.hart h).pc.toNat)).runBase h w).afterStep)) ∧
  (∀ (s : State) (h c : Nat) (rest : List Move), s.agenda = .hart h :: rest → s.dev.dark = false → (s.hart h).interrupt = some c →
    step s = .next (({ s with agenda := rest, ctx := { s.ctx with hart := h } }.modHart h (fun k => k.trap true c 0)).afterStep)) ∧
  (∀ (s : State) (i : Instr) (rest : List Move), s.agenda = .event i :: rest →
    step s = afterNext State.afterStep (exec i { s with agenda := rest })) ∧
  (∀ (s : State) (i : Input) (rest : List Move), s.agenda = .input i :: rest →
    step s = .next ({ s with agenda := rest }.takeInput i).afterStep) ∧
  ∀ t : State, t.dbg.stepping = none → (∀ u : State, u.noteStep t = t) ∧
    (t.dbg.trWait = [] → t.dev.d3Asked = false → t.afterStep = t)

/-- Every step keeps the tables of memory in their canonical form: keys that rise strictly, and no entry equal to what an
unlisted one reads as. That form is the model's. Where the rules leave room it follows log entry 4, the model's reading. -/
def Says.MemoryStaysCanonical : Prop :=
  ∀ s t : State, s.mem.wf = true → step s = .next t → t.mem.wf = true

/-- The state after some steps, when each of them answers one. -/
def after : Nat → State → Option State
  | 0, s => some s
  | n + 1, s =>
    match step s with
    | .next t => after n t
    | _ => none

/-- R5, R11, R13, R14: a device on which nothing may issue (before reduced service, in D3hot or D3cold, or after a stop of the
whole device), to which nothing arrives and with nothing in hand, stays as it is through any number of steps, but for its
clocks. Where the rules leave room it follows log entries 2 and 6, the model's reading. -/
def Says.StoppedDeviceStaysAsItIs : Prop :=
  ∀ (n : Nat) (s : State), s.dev.stopped = true → s.agenda = [] → s.dbg.stepping = none → s.dbg.trWait = [] → s.dev.d3Asked = false →
    ∃ t, after n s = some t ∧
    { t with dev := s.dev, fab := s.fab, fresh := s.fresh } = s ∧ { t.dev with wall := s.dev.wall } = s.dev ∧
    { t.fab with ftime := s.fab.ftime } = s.fab

/-- R10, R39, R61, R90, R112, R113, R138, R140, R142, R260: what reset leaves, as the spec gives it: bring-up has not begun, no
team is resident, and the registers with a stated reset value hold it; and memory is in its canonical form. -/
def Says.ResetValues : Prop :=
  let s := State.reset
  s.dev.bstep = 0 ∧ s.dev.svc = 0 ∧ s.dev.pcap = 1800 ∧ s.teams = [] ∧ s.sched.queues = [] ∧ s.fab.fnode = 0xFFF ∧ s.fab.ftunc = 250 ∧
    s.fab.ftmo = 2000 ∧ s.fab.ftime = 0 ∧ (∀ q, (s.queue q).qctl = 0) ∧ Tab.get 0 s.mem.l2part 0 = 0x00FFFFFFFFFFFFFF ∧
    Tab.get 0 s.mem.l2part 15 = 0x000FFFF0FFFFFFFF ∧ (∀ n, Tab.get 0 s.mem.l2asid n = 0) ∧
    s.xl.atbase = 0 ∧ s.xl.pfctl = 0 ∧ s.xl.scctl = 0 ∧ s.kv.kvbase = 0 ∧ s.kv.kvctl = 0 ∧ (∀ n, (s.slot n).state = 0) ∧ s.dbg.trctl = 0 ∧
    s.dbg.dmpctl = 0 ∧ s.dbg.jctl = 0 ∧ s.mem.wf = true ∧ (∀ key, s.team key = none) ∧ resetFmt = 0x0466

/-! ## The codes of the scalar groups -/

/-- The integer group with fn7 below 16. -/
def integerCodesLow : List (BitVec 7 × (Reg6 → Reg6 → Reg6 → Instr)) :=
  [(0x00, .add), (0x01, .sub), (0x02, .and), (0x03, .or), (0x04, .xor), (0x05, .andn), (0x06, .shl), (0x07, .shr),
   (0x08, .sar), (0x09, .rol), (0x0A, .ror), (0x0B, .slt), (0x0C, .sltu), (0x0D, .seq), (0x0E, .min), (0x0F, .max)]

/-- The integer group with fn7 from 16. -/
def integerCodesHigh : List (BitVec 7 × (Reg6 → Reg6 → Reg6 → Instr)) :=
  [(0x10, .minu), (0x11, .maxu), (0x12, .mul), (0x13, .mulh), (0x14, .mulhu), (0x15, .div), (0x16, .divu), (0x17, .rem),
   (0x18, .remu), (0x19, .clz), (0x1A, .ctz), (0x1B, .popc), (0x1C, .sext)]

/-- The integer group by fn7 (R295). -/
def integerCodes : List (BitVec 7 × (Reg6 → Reg6 → Reg6 → Instr)) := integerCodesLow ++ integerCodesHigh

/-- R295: a word of major opcode 0x01 is the instruction that its fn7 names, from bit 0 up: opcode, sd, sa, sb, fn7. -/
def Says.IntegerCodes : Prop :=
  ∀ e ∈ integerCodes, ∀ sd sa sb : Reg6, decodeScalar (e.1 ++ sb ++ sa ++ sd ++ 0x01#7) = e.2 sd sa sb

/-- R296, R297: the immediate group has the major opcodes 0x02 to 0x0A, LUI 0x0B and ADDPC 0x0C. -/
def Says.ImmediateCodes : Prop :=
  (∀ e ∈ [(0x02#7, Instr.addi), (0x03, .andi), (0x04, .ori), (0x05, .xori), (0x06, .shli), (0x07, .shri), (0x08, .sari),
      (0x09, .slti), (0x0A, .sltiu)],
    ∀ (sd sa : Reg6) (imm : BitVec 13), decodeScalar (imm ++ sa ++ sd ++ e.1) = e.2 sd sa imm) ∧
  ∀ (sd : Reg6) (imm : BitVec 19), decodeScalar (imm ++ sd ++ 0x0B#7) = .lui sd imm ∧
    decodeScalar (imm ++ sd ++ 0x0C#7) = .addpc sd imm

/-- R298, R299: the branches have the major opcodes 0x10 to 0x15, with sa in bits 12 to 7 and sb in bits 18 to 13; J has 0x18, CALL
0x19 and JR 0x1C. -/
def Says.BranchCodes : Prop :=
  (∀ e ∈ [(0x10#7, Instr.beq), (0x11, .bne), (0x12, .blt), (0x13, .bge), (0x14, .bltu), (0x15, .bgeu), (0x1C, .jr)],
    ∀ (sa sb : Reg6) (off : BitVec 13), decodeScalar (off ++ sb ++ sa ++ e.1) = e.2 sa sb off) ∧
  ∀ off : BitVec 25, decodeScalar (off ++ 0x18#7) = .j off ∧ decodeScalar (off ++ 0x19#7) = .call off

/-- R55, R58: BFXU and BFXS have the opcode 0x0B and funct3 1, and funct7 0 and 1. -/
def Says.FieldCodes : Prop :=
  ∀ rd rs1 rs2 : Reg5, decodeCommand (0#7 ++ rs2 ++ rs1 ++ 1#3 ++ rd ++ 0x0B#7) = some (.bfxu rd rs1 rs2) ∧
    decodeCommand (1#7 ++ rs2 ++ rs1 ++ 1#3 ++ rd ++ 0x0B#7) = some (.bfxs rd rs1 rs2)

end Sys2Proof

/-! ## The statements -/

/-- Results and codes of the scalar integer group. -/
def Obligations.IntegerGroup : Prop := Sys2Proof.Says.ScalarTwoOperand ∧ Sys2Proof.Says.ScalarBitCounts ∧ Sys2Proof.Says.IntegerCodes

/-- Results and codes of the scalar immediate group, LUI and ADDPC. -/
def Obligations.ImmediateGroup : Prop := Sys2Proof.Says.ScalarImmediate ∧ Sys2Proof.Says.ScalarUpperImmediate ∧ Sys2Proof.Says.ImmediateCodes

/-- Where branches and jumps go, and their codes. -/
def Obligations.BranchesAndJumps : Prop := Sys2Proof.Says.Branches ∧ Sys2Proof.Says.Jumps ∧ Sys2Proof.Says.BranchCodes

/-- LC appends a clause, and WAITF waits for flags. -/
def Obligations.ClausesAndFlags : Prop := Sys2Proof.Says.EnqueueClause ∧ Sys2Proof.Says.WaitFlags

/-- SPLIT makes a path, JOIN and END end one, and SPAWN places lanes in a bin. -/
def Obligations.DivergenceAndSpawn : Prop := Sys2Proof.Says.Split ∧ Sys2Proof.Says.EjectedRecord ∧ Sys2Proof.Says.JoinAndEnd ∧ Sys2Proof.Says.Spawn

/-- What a scalar load writes. -/
def Obligations.ScalarLoad : Prop := Sys2Proof.Says.ScalarLoad

/-- What a scalar store writes, to device memory and to a scratchpad. -/
def Obligations.ScalarStores : Prop := Sys2Proof.Says.ScalarStore ∧ Sys2Proof.Says.ScalarStoreScratchpad

/-- A scalar atomic reads and writes its word. -/
def Obligations.ScalarAtomic : Prop := Sys2Proof.Says.ScalarAtomic

/-- FENCE, TFENCE and VCOMMIT. -/
def Obligations.FencesAndCommit : Prop := Sys2Proof.Says.FencesAndCommit

/-- Shoot-downs, by an instruction and by the driver. -/
def Obligations.ShootDowns : Prop := Sys2Proof.Says.ShootDowns ∧ Sys2Proof.Says.ShootdownEvents

/-- CRR and CRW, and a path that debugs. -/
def Obligations.ControlRegisters : Prop := Sys2Proof.Says.ControlRead ∧ Sys2Proof.Says.ControlWrite ∧ Sys2Proof.Says.DebugByPath

/-- EVPOP, SETFMT, PROG and RINGADV. -/
def Obligations.SystemInstructions : Prop := Sys2Proof.Says.EventsFormatsProgress ∧ Sys2Proof.Says.RingAdvance

/-- Entering a handler, returning from it, and what it may not do. -/
def Obligations.Handlers : Prop := Sys2Proof.Says.HandlerEntry ∧ Sys2Proof.Says.HandlerReturn ∧ Sys2Proof.Says.HandlerRefusals

/-- An error trap, its report and image, and the order of a lane instruction's checks. -/
def Obligations.Traps : Prop := Sys2Proof.Says.ErrorTrap ∧ Sys2Proof.Says.LaneTrapOrder ∧ Sys2Proof.Says.TrapReports ∧ Sys2Proof.Says.CoreImage

/-- TNOPEN, TNFORK and TNAPPEND. -/
def Obligations.TreeGrowth : Prop := Sys2Proof.Says.TreeGrowth ∧ Sys2Proof.Says.TokensAppended

/-- TNPRUNE, TNCOMMIT, TNRETIRE, TNBIND, TNSTAT and TNTOK. -/
def Obligations.TreeEndsAndReads : Prop := Sys2Proof.Says.TreeEnds ∧ Sys2Proof.Says.HeldAccessesOfNodes ∧ Sys2Proof.Says.TreeReads

/-- Results of the lane integer group. -/
def Obligations.LaneInteger : Prop := Sys2Proof.Says.LaneInteger

/-- Results of the lane bit group, VMOV and VSEL. -/
def Obligations.LaneBitsAndMoves : Prop := Sys2Proof.Says.LaneBits ∧ Sys2Proof.Says.LaneMoves

/-- Compares, predicate instructions, ballots and prefix counts. -/
def Obligations.LaneComparesAndPredicates : Prop := Sys2Proof.Says.LaneCompares ∧ Sys2Proof.Says.LanePredicates

/-- Results of the lane floating group and of conversion. -/
def Obligations.LaneFloatingPoint : Prop := Sys2Proof.Says.LaneFloat ∧ Sys2Proof.Says.LaneFloatExact

/-- Shuffles, index registers, VLANEID and TNMASK. -/
def Obligations.LanePermutation : Prop := Sys2Proof.Says.LaneShuffles ∧ Sys2Proof.Says.LaneIndexRegisters ∧ Sys2Proof.Says.TreeMask

/-- Loads and stores of lanes. -/
def Obligations.LaneMemory : Prop := Sys2Proof.Says.LaneLoad ∧ Sys2Proof.Says.LaneStore

/-- Atomics of lanes, VSPILL and VFILL. -/
def Obligations.LaneAtomicsAndSpills : Prop := Sys2Proof.Says.LaneAtomic ∧ Sys2Proof.Says.LaneSpills

/-- BINIT, BADD and BWAIT. -/
def Obligations.BarrierObjectsAndWaits : Prop := Sys2Proof.Says.BarrierObjects ∧ Sys2Proof.Says.BarrierWait

/-- VBAR, VNBAR and VFENCE. -/
def Obligations.BarriersAndFence : Prop := Sys2Proof.Says.LaneBarriers ∧ Sys2Proof.Says.LaneFence

/-- CPK and COLL hand a record to an engine. -/
def Obligations.EngineKicks : Prop := Sys2Proof.Says.EngineKicks

/-- Element-wise small-matrix arithmetic, QLD, QST and QMOV. -/
def Obligations.MatrixArithmetic : Prop := Sys2Proof.Says.MatrixArithmetic ∧ Sys2Proof.Says.MatrixMemory

/-- Small-matrix factorisations, solves and determinants. -/
def Obligations.MatrixSolvers : Prop := Sys2Proof.Says.MatrixSolvers

/-- Matrix instructions enter the sequencer and run. -/
def Obligations.MatrixSequencer : Prop := Sys2Proof.Says.MatrixIssue ∧ Sys2Proof.Says.MatrixSteps

/-- Clause start and completion, a core's tick, and unassigned words. -/
def Obligations.CoreEvents : Prop := Sys2Proof.Says.ClauseEvents ∧ Sys2Proof.Says.TickAndUnassigned

/-- BFXU, BFXS, SWAIT, base words and accesses of a queue processor. -/
def Obligations.QueueProcessors : Prop := Sys2Proof.Says.CommandFields ∧ Sys2Proof.Says.FieldCodes ∧ Sys2Proof.Says.BaseInstructions ∧ Sys2Proof.Says.QueueProcessorAccess ∧ Sys2Proof.Says.SignalWait

/-- RFETCH and DISP. -/
def Obligations.FetchAndDispatch : Prop := Sys2Proof.Says.FetchAndDispatch

/-- Queue registers, launch stores and a queue's reset. -/
def Obligations.QueueControl : Prop := Sys2Proof.Says.QueueControl

/-- SIGNAL, WAIT, COND and BARRIER-AND packets. -/
def Obligations.SignalPackets : Prop := Sys2Proof.Says.SignalPackets

/-- LAUNCH and COPY packets, and a packet's completion. -/
def Obligations.LaunchAndCompletion : Prop := Sys2Proof.Says.LaunchAndCompletion

/-- TREE packets. -/
def Obligations.TreePackets : Prop := Sys2Proof.Says.TreePackets

/-- Where a neighbourhood is placed and how its teams start. -/
def Obligations.Placement : Prop := Sys2Proof.Says.Placement

/-- Pre-emption, eviction of cores, context save and restore. -/
def Obligations.PreemptionAndContexts : Prop := Sys2Proof.Says.VacatingCores ∧ Sys2Proof.Says.SaveAndRestore

/-- Writes and reads of the first BAR's registers. -/
def Obligations.DeviceRegisters : Prop := Sys2Proof.Says.RegisterWrites ∧ Sys2Proof.Says.RegisterReads ∧ Sys2Proof.Says.CacheAndFrameRegisters

/-- Fault records, their answers, and the frame scan's registers. -/
def Obligations.FaultRingAndScythe : Prop := Sys2Proof.Says.FaultRing ∧ Sys2Proof.Says.Scythe

/-- A frame's migration. -/
def Obligations.Migrations : Prop := Sys2Proof.Says.Migrations

/-- Frames of the KV pool and rebuilds. -/
def Obligations.KvPoolAndRebuilds : Prop := Sys2Proof.Says.KvPool ∧ Sys2Proof.Says.KvRebuilds

/-- Copies on write, the copy engine and range locks. -/
def Obligations.KvCopiesAndEngines : Prop := Sys2Proof.Says.KvCopies ∧ Sys2Proof.Says.Engines

/-- Host accesses, snoops and fills. -/
def Obligations.HostTraffic : Prop := Sys2Proof.Says.HostAccesses ∧ Sys2Proof.Says.Snoops ∧ Sys2Proof.Says.HostFills

/-- Bias flips. -/
def Obligations.BiasFlips : Prop := Sys2Proof.Says.BiasFlips

/-- Host measurements and SPDM. -/
def Obligations.Attestation : Prop := Sys2Proof.Says.HostMeasurements ∧ Sys2Proof.Says.Attestation

/-- Fabric registers, ports, Sync exchanges and lease hold. -/
def Obligations.FabricTime : Prop := Sys2Proof.Says.FabricTime

/-- Remote accesses at their owner and at their requester. -/
def Obligations.RemoteAccesses : Prop := Sys2Proof.Says.RemoteOwner ∧ Sys2Proof.Says.RemoteRequester

/-- Arrival, completion and failure of collectives. -/
def Obligations.Collectives : Prop := Sys2Proof.Says.Collectives

/-- Power, resets and the steps of bring-up. -/
def Obligations.ResetsAndBringUp : Prop := Sys2Proof.Says.Resets ∧ Sys2Proof.Says.BringUp

/-- Power states, clocks, and what stops the device. -/
def Obligations.PowerAndStops : Prop := Sys2Proof.Says.PowerAndClocks ∧ Sys2Proof.Says.DeviceStops

/-- The management bus and runtime firmware. -/
def Obligations.ManagementAndFirmware : Prop := Sys2Proof.Says.ManagementAndFirmware

/-- Team timers, causal trials, dump status and the journal. -/
def Obligations.TimersTrialsAndJournal : Prop := Sys2Proof.Says.Timers ∧ Sys2Proof.Says.TrialsDumpsAndJournal

/-- What the debug mailbox answers and does. -/
def Obligations.DebugMailbox : Prop := Sys2Proof.Says.MailboxSession ∧ Sys2Proof.Says.MailboxPaths

/-- Words written out from the encodings decode as they should. -/
def Obligations.DecodeWords : Prop := Sys2Proof.Says.DecodeWords

/-- Decoding and encoding are inverse. -/
def Obligations.DecodeEncode : Prop := Sys2Proof.Says.DecodeEncode

/-- A step runs the instruction that the moving agent has next. -/
def Obligations.StepRunsDecoded : Prop := Sys2Proof.Says.StepRunsDecoded

/-- Every step keeps memory in its canonical form. -/
def Obligations.MemoryStaysCanonical : Prop := Sys2Proof.Says.MemoryStaysCanonical

/-- A stopped device stays as it is. -/
def Obligations.StoppedDeviceStaysAsItIs : Prop := Sys2Proof.Says.StoppedDeviceStaysAsItIs

/-- What reset leaves. -/
def Obligations.ResetValues : Prop := Sys2Proof.Says.ResetValues
end

