-- ==== Sys2Proof/Laws/Exec.lean ====
section
/-!
SUPPORT. The arms of `exec` as rewriting lemmas.
-/

namespace Sys2Proof.Machine

@[simp] theorem exec_powerOn (s : State) :
    exec (.powerOn) s = execPowerOn s := rfl
@[simp] theorem exec_functionLevelReset (s : State) :
    exec (.functionLevelReset) s = execFunctionLevelReset s := rfl
@[simp] theorem exec_bringUpStep (ok : Bool) (s : State) :
    exec (.bringUpStep ok) s = execBringUpStep ok s := rfl
@[simp] theorem exec_fullServiceSwitch (s : State) :
    exec (.fullServiceSwitch) s = execFullServiceSwitch s := rfl
@[simp] theorem exec_mainPowerLoss (s : State) :
    exec (.mainPowerLoss) s = execMainPowerLoss s := rfl
@[simp] theorem exec_d3hotRequest (s : State) :
    exec (.d3hotRequest) s = execD3hotRequest s := rfl
@[simp] theorem exec_d0Request (s : State) :
    exec (.d0Request) s = execD0Request s := rfl
@[simp] theorem exec_d0IdleEntry (s : State) :
    exec (.d0IdleEntry) s = execD0IdleEntry s := rfl
@[simp] theorem exec_powerWindow (watts : Nat) (s : State) :
    exec (.powerWindow watts) s = execPowerWindow watts s := rfl
@[simp] theorem exec_thermalThrottle (die : Nat) (s : State) :
    exec (.thermalThrottle die) s = execThermalThrottle die s := rfl
@[simp] theorem exec_thermalShutdown (s : State) :
    exec (.thermalShutdown) s = execThermalShutdown s := rfl
@[simp] theorem exec_bridgeFlitFailure (s : State) : exec .bridgeFlitFailure s = execBridgeFlitFailure s := rfl
@[simp] theorem exec_mgmtBusRequest (r : MgmtReq) (s : State) :
    exec (.mgmtBusRequest r) s = execMgmtBusRequest r s := rfl
@[simp] theorem exec_pcapWrite (v : BitVec 32) (s : State) :
    exec (.pcapWrite v) s = execPcapWrite v s := rfl
@[simp] theorem exec_winbaseWrite (v : BitVec 64) (s : State) :
    exec (.winbaseWrite v) s = execWinbaseWrite v s := rfl
@[simp] theorem exec_hostMemoryAccess (a : HostAccess) (s : State) :
    exec (.hostMemoryAccess a) s = execHostMemoryAccess a s := rfl
@[simp] theorem exec_snpData (line : Nat) (s : State) :
    exec (.snpData line) s = execSnpData line s := rfl
@[simp] theorem exec_snpCur (line : Nat) (s : State) :
    exec (.snpCur line) s = execSnpCur line s := rfl
@[simp] theorem exec_snpInv (line : Nat) (s : State) :
    exec (.snpInv line) s = execSnpInv line s := rfl
@[simp] theorem exec_hostFillReturn (line : Nat) (s : State) :
    exec (.hostFillReturn line) s = execHostFillReturn line s := rfl
@[simp] theorem exec_biasFlipRequest (v : BitVec 64) (s : State) :
    exec (.biasFlipRequest v) s = execBiasFlipRequest v s := rfl
@[simp] theorem exec_biasFlipFrame (s : State) :
    exec (.biasFlipFrame) s = execBiasFlipFrame s := rfl
@[simp] theorem exec_mext (v : BitVec 64) (s : State) :
    exec (.mext v) s = execMext v s := rfl
@[simp] theorem exec_getVersion (s : State) :
    exec (.getVersion) s = execGetVersion s := rfl
@[simp] theorem exec_getCapabilities (s : State) :
    exec (.getCapabilities) s = execGetCapabilities s := rfl
@[simp] theorem exec_negotiateAlgorithms (sm2 : Bool) (sm3 : Bool) (s : State) :
    exec (.negotiateAlgorithms sm2 sm3) s = execNegotiateAlgorithms sm2 sm3 s := rfl
@[simp] theorem exec_getDigests (s : State) :
    exec (.getDigests) s = execGetDigests s := rfl
@[simp] theorem exec_getCertificate (slot : Nat) (s : State) :
    exec (.getCertificate slot) s = execGetCertificate slot s := rfl
@[simp] theorem exec_challenge (nonce : BitVec 256) (s : State) :
    exec (.challenge nonce) s = execChallenge nonce s := rfl
@[simp] theorem exec_getMeasurements (block : Nat) (signed : Bool) (nonce : BitVec 256) (s : State) :
    exec (.getMeasurements block signed nonce) s = execGetMeasurements block signed nonce s := rfl
@[simp] theorem exec_fnodeWrite (v : BitVec 32) (s : State) :
    exec (.fnodeWrite v) s = execFnodeWrite v s := rfl
@[simp] theorem exec_ftuncWrite (v : BitVec 32) (s : State) :
    exec (.ftuncWrite v) s = execFtuncWrite v s := rfl
@[simp] theorem exec_fabricPortFailure (port : Nat) (s : State) :
    exec (.fabricPortFailure port) s = execFabricPortFailure port s := rfl
@[simp] theorem exec_syncExchange (offsetNs : Nat) (variationNs : Nat) (s : State) :
    exec (.syncExchange offsetNs variationNs) s = execSyncExchange offsetNs variationNs s := rfl
@[simp] theorem exec_remoteAccessRequest (r : PeerReq) (s : State) :
    exec (.remoteAccessRequest r) s = execRemoteAccessRequest r s := rfl
@[simp] theorem exec_leaseHeldWrite (line : Nat) (s : State) :
    exec (.leaseHeldWrite line) s = execLeaseHeldWrite line s := rfl
@[simp] theorem exec_remoteCompletion (id : Nat) (reply : PeerReply) (s : State) :
    exec (.remoteCompletion id reply) s = execRemoteCompletion id reply s := rfl
@[simp] theorem exec_remoteTimeout (id : Nat) (s : State) :
    exec (.remoteTimeout id) s = execRemoteTimeout id s := rfl
@[simp] theorem exec_collectiveArrival (id : Nat) (m : CollMsg) (s : State) :
    exec (.collectiveArrival id m) s = execCollectiveArrival id m s := rfl
@[simp] theorem exec_collectiveCompletion (id : Nat) (s : State) :
    exec (.collectiveCompletion id) s = execCollectiveCompletion id s := rfl
@[simp] theorem exec_collectiveFailure (id : Nat) (why : CollFail) (s : State) :
    exec (.collectiveFailure id why) s = execCollectiveFailure id why s := rfl
@[simp] theorem exec_collectiveArrivalTimeout (id : Nat) (s : State) :
    exec (.collectiveArrivalTimeout id) s = execCollectiveArrivalTimeout id s := rfl
@[simp] theorem exec_launchStore (q : Nat) (t : LaunchTlp) (s : State) :
    exec (.launchStore q t) s = execLaunchStore q t s := rfl
@[simp] theorem exec_rfetch (rd : Reg5) (rs1 : Reg5) (rs2 : Reg5) (s : State) :
    exec (.rfetch rd rs1 rs2) s = execRfetch rd rs1 rs2 s := rfl
@[simp] theorem exec_bfxu (rd : Reg5) (rs1 : Reg5) (rs2 : Reg5) (s : State) :
    exec (.bfxu rd rs1 rs2) s = execBfxu rd rs1 rs2 s := rfl
@[simp] theorem exec_bfxs (rd : Reg5) (rs1 : Reg5) (rs2 : Reg5) (s : State) :
    exec (.bfxs rd rs1 rs2) s = execBfxs rd rs1 rs2 s := rfl
@[simp] theorem exec_swait (c : BitVec 3) (rd : Reg5) (rs1 : Reg5) (rs2 : Reg5) (s : State) :
    exec (.swait c rd rs1 rs2) s = execSwait c rd rs1 rs2 s := rfl
@[simp] theorem exec_swaitReread (h : Nat) (s : State) :
    exec (.swaitReread h) s = execSwaitReread h s := rfl
@[simp] theorem exec_swaitTimeout (h : Nat) (s : State) :
    exec (.swaitTimeout h) s = execSwaitTimeout h s := rfl
@[simp] theorem exec_disp (rd : Reg5) (rs1 : Reg5) (rs2 : Reg5) (s : State) :
    exec (.disp rd rs1 rs2) s = execDisp rd rs1 rs2 s := rfl
@[simp] theorem exec_qctlWrite (q : Nat) (v : BitVec 64) (s : State) :
    exec (.qctlWrite q v) s = execQctlWrite q v s := rfl
@[simp] theorem exec_queueReset (q : Nat) (s : State) :
    exec (.queueReset q) s = execQueueReset q s := rfl
@[simp] theorem exec_launchPacket (q : Nat) (idx : Nat) (s : State) :
    exec (.launchPacket q idx) s = execLaunchPacket q idx s := rfl
@[simp] theorem exec_copyPacket (q : Nat) (idx : Nat) (s : State) :
    exec (.copyPacket q idx) s = execCopyPacket q idx s := rfl
@[simp] theorem exec_signalPacket (q : Nat) (idx : Nat) (s : State) :
    exec (.signalPacket q idx) s = execSignalPacket q idx s := rfl
@[simp] theorem exec_waitPacket (q : Nat) (idx : Nat) (s : State) :
    exec (.waitPacket q idx) s = execWaitPacket q idx s := rfl
@[simp] theorem exec_waitPacketTimeout (q : Nat) (idx : Nat) (s : State) :
    exec (.waitPacketTimeout q idx) s = execWaitPacketTimeout q idx s := rfl
@[simp] theorem exec_condPacket (q : Nat) (idx : Nat) (s : State) :
    exec (.condPacket q idx) s = execCondPacket q idx s := rfl
@[simp] theorem exec_barrierAndPacket (q : Nat) (idx : Nat) (s : State) :
    exec (.barrierAndPacket q idx) s = execBarrierAndPacket q idx s := rfl
@[simp] theorem exec_barrierAndTimeout (q : Nat) (idx : Nat) (s : State) :
    exec (.barrierAndTimeout q idx) s = execBarrierAndTimeout q idx s := rfl
@[simp] theorem exec_treeOpen (q : Nat) (idx : Nat) (s : State) :
    exec (.treeOpen q idx) s = execTreeOpen q idx s := rfl
@[simp] theorem exec_treeFork (q : Nat) (idx : Nat) (s : State) :
    exec (.treeFork q idx) s = execTreeFork q idx s := rfl
@[simp] theorem exec_treePrune (q : Nat) (idx : Nat) (s : State) :
    exec (.treePrune q idx) s = execTreePrune q idx s := rfl
@[simp] theorem exec_treeCommit (q : Nat) (idx : Nat) (s : State) :
    exec (.treeCommit q idx) s = execTreeCommit q idx s := rfl
@[simp] theorem exec_treeRetire (q : Nat) (idx : Nat) (s : State) :
    exec (.treeRetire q idx) s = execTreeRetire q idx s := rfl
@[simp] theorem exec_registerRebuildLaunch (q : Nat) (idx : Nat) (s : State) :
    exec (.registerRebuildLaunch q idx) s = execRegisterRebuildLaunch q idx s := rfl
@[simp] theorem exec_packetCompletion (q : Nat) (idx : Nat) (s : State) :
    exec (.packetCompletion q idx) s = execPacketCompletion q idx s := rfl
@[simp] theorem exec_launchCompletion (handle : Nat) (s : State) :
    exec (.launchCompletion handle) s = execLaunchCompletion handle s := rfl
@[simp] theorem exec_runtimeFirmwareLoad (v : BitVec 32) (s : State) :
    exec (.runtimeFirmwareLoad v) s = execRuntimeFirmwareLoad v s := rfl
@[simp] theorem exec_placement (s : State) :
    exec (.placement) s = execPlacement s := rfl
@[simp] theorem exec_preemptionDecision (now : Nat) (s : State) :
    exec (.preemptionDecision now) s = execPreemptionDecision now s := rfl
@[simp] theorem exec_contextSave (core : Nat) (slot : Nat) (s : State) :
    exec (.contextSave core slot) s = execContextSave core slot s := rfl
@[simp] theorem exec_contextRestore (core : Nat) (slot : Nat) (s : State) :
    exec (.contextRestore core slot) s = execContextRestore core slot s := rfl
@[simp] theorem exec_vacateAndFence (v : BitVec 64) (s : State) :
    exec (.vacateAndFence v) s = execVacateAndFence v s := rfl
@[simp] theorem exec_unfence (v : BitVec 64) (s : State) :
    exec (.unfence v) s = execUnfence v s := rfl
@[simp] theorem exec_binTimerExpiry (core : Nat) (bin : Nat) (s : State) :
    exec (.binTimerExpiry core bin) s = execBinTimerExpiry core bin s := rfl
@[simp] theorem exec_binTeamStart (core : Nat) (s : State) :
    exec (.binTeamStart core) s = execBinTeamStart core s := rfl
@[simp] theorem exec_ctimeTick (core : Nat) (s : State) :
    exec (.ctimeTick core) s = execCtimeTick core s := rfl
@[simp] theorem exec_clauseStart (core : Nat) (s : State) :
    exec (.clauseStart core) s = execClauseStart core s := rfl
@[simp] theorem exec_clauseCompletion (core : Nat) (slot : Nat) (path : Nat) (s : State) :
    exec (.clauseCompletion core slot path) s = execClauseCompletion core slot path s := rfl
@[simp] theorem exec_pairedStepStart (core : Nat) (s : State) :
    exec (.pairedStepStart core) s = execPairedStepStart core s := rfl
@[simp] theorem exec_matrixStep (core : Nat) (s : State) :
    exec (.matrixStep core) s = execMatrixStep core s := rfl
@[simp] theorem exec_l2partWrite (n : Nat) (v : BitVec 64) (s : State) :
    exec (.l2partWrite n v) s = execL2partWrite n v s := rfl
@[simp] theorem exec_l2asidWrite (n : Nat) (v : BitVec 64) (s : State) :
    exec (.l2asidWrite n v) s = execL2asidWrite n v s := rfl
@[simp] theorem exec_ftwrWrite (v : BitVec 64) (s : State) :
    exec (.ftwrWrite v) s = execFtwrWrite v s := rfl
@[simp] theorem exec_ftrdWrite (v : BitVec 64) (s : State) :
    exec (.ftrdWrite v) s = execFtrdWrite v s := rfl
@[simp] theorem exec_pfReplay (fid : BitVec 32) (s : State) :
    exec (.pfReplay fid) s = execPfReplay fid s := rfl
@[simp] theorem exec_pfFail (fid : BitVec 32) (s : State) :
    exec (.pfFail fid) s = execPfFail fid s := rfl
@[simp] theorem exec_faultRecordPost (s : State) :
    exec (.faultRecordPost) s = execFaultRecordPost s := rfl
@[simp] theorem exec_tsreqWrite (v : BitVec 64) (s : State) :
    exec (.tsreqWrite v) s = execTsreqWrite v s := rfl
@[simp] theorem exec_shootdownComplete (id : Nat) (s : State) :
    exec (.shootdownComplete id) s = execShootdownComplete id s := rfl
@[simp] theorem exec_migreqWrite (v : BitVec 64) (s : State) :
    exec (.migreqWrite v) s = execMigreqWrite v s := rfl
@[simp] theorem exec_scctlWrite (v : BitVec 64) (s : State) :
    exec (.scctlWrite v) s = execScctlWrite v s := rfl
@[simp] theorem exec_scytheSweepStep (s : State) :
    exec (.scytheSweepStep) s = execScytheSweepStep s := rfl
@[simp] theorem exec_sctailWrite (v : BitVec 32) (s : State) :
    exec (.sctailWrite v) s = execSctailWrite v s := rfl
@[simp] theorem exec_kvbaseWrite (v : BitVec 64) (s : State) :
    exec (.kvbaseWrite v) s = execKvbaseWrite v s := rfl
@[simp] theorem exec_kvDonate (v : BitVec 64) (s : State) :
    exec (.kvDonate v) s = execKvDonate v s := rfl
@[simp] theorem exec_kvReclaim (v : BitVec 64) (s : State) :
    exec (.kvReclaim v) s = execKvReclaim v s := rfl
@[simp] theorem exec_kvfrdWrite (v : BitVec 64) (s : State) :
    exec (.kvfrdWrite v) s = execKvfrdWrite v s := rfl
@[simp] theorem exec_kvCopy (id : Nat) (s : State) :
    exec (.kvCopy id) s = execKvCopy id s := rfl
@[simp] theorem exec_kvRebuildStart (frame : Nat) (s : State) :
    exec (.kvRebuildStart frame) s = execKvRebuildStart frame s := rfl
@[simp] theorem exec_kvRebuildEnd (slot : Nat) (s : State) :
    exec (.kvRebuildEnd slot) s = execKvRebuildEnd slot s := rfl
@[simp] theorem exec_pruneRelease (slot : Nat) (s : State) :
    exec (.pruneRelease slot) s = execPruneRelease slot s := rfl
@[simp] theorem exec_rangeLockGrant (s : State) :
    exec (.rangeLockGrant) s = execRangeLockGrant s := rfl
@[simp] theorem exec_rangeLockRelease (id : Nat) (s : State) :
    exec (.rangeLockRelease id) s = execRangeLockRelease id s := rfl
@[simp] theorem exec_copyLineWrite (id : Nat) (s : State) :
    exec (.copyLineWrite id) s = execCopyLineWrite id s := rfl
@[simp] theorem exec_copyCompletion (id : Nat) (s : State) :
    exec (.copyCompletion id) s = execCopyCompletion id s := rfl
@[simp] theorem exec_copyFailure (id : Nat) (s : State) :
    exec (.copyFailure id) s = execCopyFailure id s := rfl
@[simp] theorem exec_contextTimerExpiry (core : Nat) (slot : Nat) (s : State) :
    exec (.contextTimerExpiry core slot) s = execContextTimerExpiry core slot s := rfl
@[simp] theorem exec_wallDeadlineExpiry (core : Nat) (slot : Nat) (s : State) :
    exec (.wallDeadlineExpiry core slot) s = execWallDeadlineExpiry core slot s := rfl
@[simp] theorem exec_dmpstatWrite (v : BitVec 64) (s : State) :
    exec (.dmpstatWrite v) s = execDmpstatWrite v s := rfl
@[simp] theorem exec_journalRecord (v : BitVec 32) (s : State) :
    exec (.journalRecord v) s = execJournalRecord v s := rfl
@[simp] theorem exec_journalReplay (v : BitVec 32) (s : State) :
    exec (.journalReplay v) s = execJournalReplay v s := rfl
@[simp] theorem exec_cxctlWrite (v : BitVec 64) (s : State) :
    exec (.cxctlWrite v) s = execCxctlWrite v s := rfl
@[simp] theorem exec_dbgAttach (r : DebugReq) (s : State) :
    exec (.dbgAttach r) s = execDbgAttach r s := rfl
@[simp] theorem exec_dbgDetach (r : DebugReq) (s : State) :
    exec (.dbgDetach r) s = execDbgDetach r s := rfl
@[simp] theorem exec_dbgList (r : DebugReq) (s : State) :
    exec (.dbgList r) s = execDbgList r s := rfl
@[simp] theorem exec_dbgPoll (r : DebugReq) (s : State) :
    exec (.dbgPoll r) s = execDbgPoll r s := rfl
@[simp] theorem exec_dbgHold (r : DebugReq) (s : State) :
    exec (.dbgHold r) s = execDbgHold r s := rfl
@[simp] theorem exec_dbgResume (r : DebugReq) (s : State) :
    exec (.dbgResume r) s = execDbgResume r s := rfl
@[simp] theorem exec_dbgStep (r : DebugReq) (s : State) :
    exec (.dbgStep r) s = execDbgStep r s := rfl
@[simp] theorem exec_dbgSetbp (r : DebugReq) (s : State) :
    exec (.dbgSetbp r) s = execDbgSetbp r s := rfl
@[simp] theorem exec_dbgClrbp (r : DebugReq) (s : State) :
    exec (.dbgClrbp r) s = execDbgClrbp r s := rfl
@[simp] theorem exec_dbgSetwp (r : DebugReq) (s : State) :
    exec (.dbgSetwp r) s = execDbgSetwp r s := rfl
@[simp] theorem exec_dbgClrwp (r : DebugReq) (s : State) :
    exec (.dbgClrwp r) s = execDbgClrwp r s := rfl
@[simp] theorem exec_dbgRdreg (r : DebugReq) (s : State) :
    exec (.dbgRdreg r) s = execDbgRdreg r s := rfl
@[simp] theorem exec_dbgWrreg (r : DebugReq) (s : State) :
    exec (.dbgWrreg r) s = execDbgWrreg r s := rfl
@[simp] theorem exec_dbgRdmem (r : DebugReq) (s : State) :
    exec (.dbgRdmem r) s = execDbgRdmem r s := rfl
@[simp] theorem exec_registerWrite (off : Nat) (v : BitVec 64) (s : State) :
    exec (.registerWrite off v) s = execRegisterWrite off v s := rfl
@[simp] theorem exec_add (sd : Reg6) (sa : Reg6) (sb : Reg6) (s : State) :
    exec (.add sd sa sb) s = execAdd sd sa sb s := rfl
@[simp] theorem exec_sub (sd : Reg6) (sa : Reg6) (sb : Reg6) (s : State) :
    exec (.sub sd sa sb) s = execSub sd sa sb s := rfl
@[simp] theorem exec_and (sd : Reg6) (sa : Reg6) (sb : Reg6) (s : State) :
    exec (.and sd sa sb) s = execAnd sd sa sb s := rfl
@[simp] theorem exec_or (sd : Reg6) (sa : Reg6) (sb : Reg6) (s : State) :
    exec (.or sd sa sb) s = execOr sd sa sb s := rfl
@[simp] theorem exec_xor (sd : Reg6) (sa : Reg6) (sb : Reg6) (s : State) :
    exec (.xor sd sa sb) s = execXor sd sa sb s := rfl
@[simp] theorem exec_andn (sd : Reg6) (sa : Reg6) (sb : Reg6) (s : State) :
    exec (.andn sd sa sb) s = execAndn sd sa sb s := rfl
@[simp] theorem exec_shl (sd : Reg6) (sa : Reg6) (sb : Reg6) (s : State) :
    exec (.shl sd sa sb) s = execShl sd sa sb s := rfl
@[simp] theorem exec_shr (sd : Reg6) (sa : Reg6) (sb : Reg6) (s : State) :
    exec (.shr sd sa sb) s = execShr sd sa sb s := rfl
@[simp] theorem exec_sar (sd : Reg6) (sa : Reg6) (sb : Reg6) (s : State) :
    exec (.sar sd sa sb) s = execSar sd sa sb s := rfl
@[simp] theorem exec_rol (sd : Reg6) (sa : Reg6) (sb : Reg6) (s : State) :
    exec (.rol sd sa sb) s = execRol sd sa sb s := rfl
@[simp] theorem exec_ror (sd : Reg6) (sa : Reg6) (sb : Reg6) (s : State) :
    exec (.ror sd sa sb) s = execRor sd sa sb s := rfl
@[simp] theorem exec_slt (sd : Reg6) (sa : Reg6) (sb : Reg6) (s : State) :
    exec (.slt sd sa sb) s = execSlt sd sa sb s := rfl
@[simp] theorem exec_sltu (sd : Reg6) (sa : Reg6) (sb : Reg6) (s : State) :
    exec (.sltu sd sa sb) s = execSltu sd sa sb s := rfl
@[simp] theorem exec_seq (sd : Reg6) (sa : Reg6) (sb : Reg6) (s : State) :
    exec (.seq sd sa sb) s = execSeq sd sa sb s := rfl
@[simp] theorem exec_min (sd : Reg6) (sa : Reg6) (sb : Reg6) (s : State) :
    exec (.min sd sa sb) s = execMin sd sa sb s := rfl
@[simp] theorem exec_max (sd : Reg6) (sa : Reg6) (sb : Reg6) (s : State) :
    exec (.max sd sa sb) s = execMax sd sa sb s := rfl
@[simp] theorem exec_minu (sd : Reg6) (sa : Reg6) (sb : Reg6) (s : State) :
    exec (.minu sd sa sb) s = execMinu sd sa sb s := rfl
@[simp] theorem exec_maxu (sd : Reg6) (sa : Reg6) (sb : Reg6) (s : State) :
    exec (.maxu sd sa sb) s = execMaxu sd sa sb s := rfl
@[simp] theorem exec_mul (sd : Reg6) (sa : Reg6) (sb : Reg6) (s : State) :
    exec (.mul sd sa sb) s = execMul sd sa sb s := rfl
@[simp] theorem exec_mulh (sd : Reg6) (sa : Reg6) (sb : Reg6) (s : State) :
    exec (.mulh sd sa sb) s = execMulh sd sa sb s := rfl
@[simp] theorem exec_mulhu (sd : Reg6) (sa : Reg6) (sb : Reg6) (s : State) :
    exec (.mulhu sd sa sb) s = execMulhu sd sa sb s := rfl
@[simp] theorem exec_div (sd : Reg6) (sa : Reg6) (sb : Reg6) (s : State) :
    exec (.div sd sa sb) s = execDiv sd sa sb s := rfl
@[simp] theorem exec_divu (sd : Reg6) (sa : Reg6) (sb : Reg6) (s : State) :
    exec (.divu sd sa sb) s = execDivu sd sa sb s := rfl
@[simp] theorem exec_rem (sd : Reg6) (sa : Reg6) (sb : Reg6) (s : State) :
    exec (.rem sd sa sb) s = execRem sd sa sb s := rfl
@[simp] theorem exec_remu (sd : Reg6) (sa : Reg6) (sb : Reg6) (s : State) :
    exec (.remu sd sa sb) s = execRemu sd sa sb s := rfl
@[simp] theorem exec_clz (sd : Reg6) (sa : Reg6) (sb : Reg6) (s : State) :
    exec (.clz sd sa sb) s = execClz sd sa sb s := rfl
@[simp] theorem exec_ctz (sd : Reg6) (sa : Reg6) (sb : Reg6) (s : State) :
    exec (.ctz sd sa sb) s = execCtz sd sa sb s := rfl
@[simp] theorem exec_popc (sd : Reg6) (sa : Reg6) (sb : Reg6) (s : State) :
    exec (.popc sd sa sb) s = execPopc sd sa sb s := rfl
@[simp] theorem exec_sext (sd : Reg6) (sa : Reg6) (sb : Reg6) (s : State) :
    exec (.sext sd sa sb) s = execSext sd sa sb s := rfl
@[simp] theorem exec_addi (sd : Reg6) (sa : Reg6) (imm : BitVec 13) (s : State) :
    exec (.addi sd sa imm) s = execAddi sd sa imm s := rfl
@[simp] theorem exec_andi (sd : Reg6) (sa : Reg6) (imm : BitVec 13) (s : State) :
    exec (.andi sd sa imm) s = execAndi sd sa imm s := rfl
@[simp] theorem exec_ori (sd : Reg6) (sa : Reg6) (imm : BitVec 13) (s : State) :
    exec (.ori sd sa imm) s = execOri sd sa imm s := rfl
@[simp] theorem exec_xori (sd : Reg6) (sa : Reg6) (imm : BitVec 13) (s : State) :
    exec (.xori sd sa imm) s = execXori sd sa imm s := rfl
@[simp] theorem exec_shli (sd : Reg6) (sa : Reg6) (imm : BitVec 13) (s : State) :
    exec (.shli sd sa imm) s = execShli sd sa imm s := rfl
@[simp] theorem exec_shri (sd : Reg6) (sa : Reg6) (imm : BitVec 13) (s : State) :
    exec (.shri sd sa imm) s = execShri sd sa imm s := rfl
@[simp] theorem exec_sari (sd : Reg6) (sa : Reg6) (imm : BitVec 13) (s : State) :
    exec (.sari sd sa imm) s = execSari sd sa imm s := rfl
@[simp] theorem exec_slti (sd : Reg6) (sa : Reg6) (imm : BitVec 13) (s : State) :
    exec (.slti sd sa imm) s = execSlti sd sa imm s := rfl
@[simp] theorem exec_sltiu (sd : Reg6) (sa : Reg6) (imm : BitVec 13) (s : State) :
    exec (.sltiu sd sa imm) s = execSltiu sd sa imm s := rfl
@[simp] theorem exec_lui (sd : Reg6) (imm : BitVec 19) (s : State) :
    exec (.lui sd imm) s = execLui sd imm s := rfl
@[simp] theorem exec_addpc (sd : Reg6) (imm : BitVec 19) (s : State) :
    exec (.addpc sd imm) s = execAddpc sd imm s := rfl
@[simp] theorem exec_beq (sa : Reg6) (sb : Reg6) (off : BitVec 13) (s : State) :
    exec (.beq sa sb off) s = execBeq sa sb off s := rfl
@[simp] theorem exec_bne (sa : Reg6) (sb : Reg6) (off : BitVec 13) (s : State) :
    exec (.bne sa sb off) s = execBne sa sb off s := rfl
@[simp] theorem exec_blt (sa : Reg6) (sb : Reg6) (off : BitVec 13) (s : State) :
    exec (.blt sa sb off) s = execBlt sa sb off s := rfl
@[simp] theorem exec_bge (sa : Reg6) (sb : Reg6) (off : BitVec 13) (s : State) :
    exec (.bge sa sb off) s = execBge sa sb off s := rfl
@[simp] theorem exec_bltu (sa : Reg6) (sb : Reg6) (off : BitVec 13) (s : State) :
    exec (.bltu sa sb off) s = execBltu sa sb off s := rfl
@[simp] theorem exec_bgeu (sa : Reg6) (sb : Reg6) (off : BitVec 13) (s : State) :
    exec (.bgeu sa sb off) s = execBgeu sa sb off s := rfl
@[simp] theorem exec_j (off : BitVec 25) (s : State) :
    exec (.j off) s = execJ off s := rfl
@[simp] theorem exec_call (off : BitVec 25) (s : State) :
    exec (.call off) s = execCall off s := rfl
@[simp] theorem exec_lc (off : BitVec 25) (s : State) :
    exec (.lc off) s = execLc off s := rfl
@[simp] theorem exec_split (pn : BitVec 3) (toff : BitVec 11) (joff : BitVec 11) (s : State) :
    exec (.split pn toff joff) s = execSplit pn toff joff s := rfl
@[simp] theorem exec_jr (sd : Reg6) (sa : Reg6) (imm : BitVec 13) (s : State) :
    exec (.jr sd sa imm) s = execJr sd sa imm s := rfl
@[simp] theorem exec_waitf (sd : Reg6) (sa : Reg6) (imm : BitVec 13) (s : State) :
    exec (.waitf sd sa imm) s = execWaitf sd sa imm s := rfl
@[simp] theorem exec_ld (ord : BitVec 2) (scp : BitVec 2) (st : BitVec 1) (sz : BitVec 2) (sx : BitVec 1) (off : BitVec 5) (sd : Reg6) (sa : Reg6) (s : State) :
    exec (.ld ord scp st sz sx off sd sa) s = execLd ord scp st sz sx off sd sa s := rfl
@[simp] theorem exec_st (ord : BitVec 2) (scp : BitVec 2) (st : BitVec 1) (sz : BitVec 2) (sx : BitVec 1) (off : BitVec 5) (sb : Reg6) (sa : Reg6) (s : State) :
    exec (.st ord scp st sz sx off sb sa) s = execSt ord scp st sz sx off sb sa s := rfl
@[simp] theorem exec_amoadd (ord : BitVec 2) (scp : BitVec 2) (w : BitVec 1) (sd : Reg6) (sa : Reg6) (sb : Reg6) (s : State) :
    exec (.amoadd ord scp w sd sa sb) s = execAmoadd ord scp w sd sa sb s := rfl
@[simp] theorem exec_amoand (ord : BitVec 2) (scp : BitVec 2) (w : BitVec 1) (sd : Reg6) (sa : Reg6) (sb : Reg6) (s : State) :
    exec (.amoand ord scp w sd sa sb) s = execAmoand ord scp w sd sa sb s := rfl
@[simp] theorem exec_amoor (ord : BitVec 2) (scp : BitVec 2) (w : BitVec 1) (sd : Reg6) (sa : Reg6) (sb : Reg6) (s : State) :
    exec (.amoor ord scp w sd sa sb) s = execAmoor ord scp w sd sa sb s := rfl
@[simp] theorem exec_amoxor (ord : BitVec 2) (scp : BitVec 2) (w : BitVec 1) (sd : Reg6) (sa : Reg6) (sb : Reg6) (s : State) :
    exec (.amoxor ord scp w sd sa sb) s = execAmoxor ord scp w sd sa sb s := rfl
@[simp] theorem exec_amomin (ord : BitVec 2) (scp : BitVec 2) (w : BitVec 1) (sd : Reg6) (sa : Reg6) (sb : Reg6) (s : State) :
    exec (.amomin ord scp w sd sa sb) s = execAmomin ord scp w sd sa sb s := rfl
@[simp] theorem exec_amomax (ord : BitVec 2) (scp : BitVec 2) (w : BitVec 1) (sd : Reg6) (sa : Reg6) (sb : Reg6) (s : State) :
    exec (.amomax ord scp w sd sa sb) s = execAmomax ord scp w sd sa sb s := rfl
@[simp] theorem exec_amominu (ord : BitVec 2) (scp : BitVec 2) (w : BitVec 1) (sd : Reg6) (sa : Reg6) (sb : Reg6) (s : State) :
    exec (.amominu ord scp w sd sa sb) s = execAmominu ord scp w sd sa sb s := rfl
@[simp] theorem exec_amomaxu (ord : BitVec 2) (scp : BitVec 2) (w : BitVec 1) (sd : Reg6) (sa : Reg6) (sb : Reg6) (s : State) :
    exec (.amomaxu ord scp w sd sa sb) s = execAmomaxu ord scp w sd sa sb s := rfl
@[simp] theorem exec_amoswap (ord : BitVec 2) (scp : BitVec 2) (w : BitVec 1) (sd : Reg6) (sa : Reg6) (sb : Reg6) (s : State) :
    exec (.amoswap ord scp w sd sa sb) s = execAmoswap ord scp w sd sa sb s := rfl
@[simp] theorem exec_amocas (ord : BitVec 2) (scp : BitVec 2) (w : BitVec 1) (sd : Reg6) (sa : Reg6) (sb : Reg6) (s : State) :
    exec (.amocas ord scp w sd sa sb) s = execAmocas ord scp w sd sa sb s := rfl
@[simp] theorem exec_fence (fn : BitVec 7) (sd : Reg6) (sa : Reg6) (sb : Reg6) (s : State) :
    exec (.fence fn sd sa sb) s = execFence fn sd sa sb s := rfl
@[simp] theorem exec_tfence (fn : BitVec 7) (sd : Reg6) (sa : Reg6) (sb : Reg6) (s : State) :
    exec (.tfence fn sd sa sb) s = execTfence fn sd sa sb s := rfl
@[simp] theorem exec_tshoot (sd : Reg6) (sa : Reg6) (sb : Reg6) (s : State) :
    exec (.tshoot sd sa sb) s = execTshoot sd sa sb s := rfl
@[simp] theorem exec_tsync (sd : Reg6) (sa : Reg6) (sb : Reg6) (s : State) :
    exec (.tsync sd sa sb) s = execTsync sd sa sb s := rfl
@[simp] theorem exec_crr (sd : Reg6) (sa : Reg6) (imm : BitVec 13) (s : State) :
    exec (.crr sd sa imm) s = execCrr sd sa imm s := rfl
@[simp] theorem exec_crw (sd : Reg6) (sa : Reg6) (imm : BitVec 13) (s : State) :
    exec (.crw sd sa imm) s = execCrw sd sa imm s := rfl
@[simp] theorem exec_join (sd : Reg6) (sa : Reg6) (sb : Reg6) (s : State) :
    exec (.join sd sa sb) s = execJoin sd sa sb s := rfl
@[simp] theorem exec_spawn (sd : Reg6) (sa : Reg6) (sb : Reg6) (s : State) :
    exec (.spawn sd sa sb) s = execSpawn sd sa sb s := rfl
@[simp] theorem exec_evpop (sd : Reg6) (sa : Reg6) (sb : Reg6) (s : State) :
    exec (.evpop sd sa sb) s = execEvpop sd sa sb s := rfl
@[simp] theorem exec_setfmt (sd : Reg6) (sa : Reg6) (sb : Reg6) (s : State) :
    exec (.setfmt sd sa sb) s = execSetfmt sd sa sb s := rfl
@[simp] theorem exec_vcommit (sd : Reg6) (sa : Reg6) (sb : Reg6) (s : State) :
    exec (.vcommit sd sa sb) s = execVcommit sd sa sb s := rfl
@[simp] theorem exec_ringadv (sd : Reg6) (sa : Reg6) (sb : Reg6) (s : State) :
    exec (.ringadv sd sa sb) s = execRingadv sd sa sb s := rfl
@[simp] theorem exec_endPath (sd : Reg6) (sa : Reg6) (sb : Reg6) (s : State) :
    exec (.endPath sd sa sb) s = execEndPath sd sa sb s := rfl
@[simp] theorem exec_trap (sd : Reg6) (sa : Reg6) (sb : Reg6) (s : State) :
    exec (.trap sd sa sb) s = execTrap sd sa sb s := rfl
@[simp] theorem exec_eret (sd : Reg6) (sa : Reg6) (sb : Reg6) (s : State) :
    exec (.eret sd sa sb) s = execEret sd sa sb s := rfl
@[simp] theorem exec_brk (sd : Reg6) (sa : Reg6) (sb : Reg6) (s : State) :
    exec (.brk sd sa sb) s = execBrk sd sa sb s := rfl
@[simp] theorem exec_prog (sd : Reg6) (sa : Reg6) (sb : Reg6) (s : State) :
    exec (.prog sd sa sb) s = execProg sd sa sb s := rfl
@[simp] theorem exec_tnopen (sd : Reg6) (sa : Reg6) (sb : Reg6) (s : State) :
    exec (.tnopen sd sa sb) s = execTnopen sd sa sb s := rfl
@[simp] theorem exec_tnfork (sd : Reg6) (sa : Reg6) (sb : Reg6) (s : State) :
    exec (.tnfork sd sa sb) s = execTnfork sd sa sb s := rfl
@[simp] theorem exec_tnappend (sd : Reg6) (sa : Reg6) (sb : Reg6) (s : State) :
    exec (.tnappend sd sa sb) s = execTnappend sd sa sb s := rfl
@[simp] theorem exec_tnprune (sd : Reg6) (sa : Reg6) (sb : Reg6) (s : State) :
    exec (.tnprune sd sa sb) s = execTnprune sd sa sb s := rfl
@[simp] theorem exec_tncommit (sd : Reg6) (sa : Reg6) (sb : Reg6) (s : State) :
    exec (.tncommit sd sa sb) s = execTncommit sd sa sb s := rfl
@[simp] theorem exec_tnretire (sd : Reg6) (sa : Reg6) (sb : Reg6) (s : State) :
    exec (.tnretire sd sa sb) s = execTnretire sd sa sb s := rfl
@[simp] theorem exec_tnbind (sd : Reg6) (sa : Reg6) (sb : Reg6) (s : State) :
    exec (.tnbind sd sa sb) s = execTnbind sd sa sb s := rfl
@[simp] theorem exec_tnstat (sd : Reg6) (sa : Reg6) (sb : Reg6) (s : State) :
    exec (.tnstat sd sa sb) s = execTnstat sd sa sb s := rfl
@[simp] theorem exec_tntok (sd : Reg6) (sa : Reg6) (sb : Reg6) (s : State) :
    exec (.tntok sd sa sb) s = execTntok sd sa sb s := rfl
@[simp] theorem exec_vadd (f : LaneFields) (s : State) :
    exec (.vadd f) s = execVadd f s := rfl
@[simp] theorem exec_vsub (f : LaneFields) (s : State) :
    exec (.vsub f) s = execVsub f s := rfl
@[simp] theorem exec_vmul (f : LaneFields) (s : State) :
    exec (.vmul f) s = execVmul f s := rfl
@[simp] theorem exec_vmulh (f : LaneFields) (s : State) :
    exec (.vmulh f) s = execVmulh f s := rfl
@[simp] theorem exec_vmad (f : LaneFields) (s : State) :
    exec (.vmad f) s = execVmad f s := rfl
@[simp] theorem exec_vdiv (f : LaneFields) (s : State) :
    exec (.vdiv f) s = execVdiv f s := rfl
@[simp] theorem exec_vrem (f : LaneFields) (s : State) :
    exec (.vrem f) s = execVrem f s := rfl
@[simp] theorem exec_vmin (f : LaneFields) (s : State) :
    exec (.vmin f) s = execVmin f s := rfl
@[simp] theorem exec_vmax (f : LaneFields) (s : State) :
    exec (.vmax f) s = execVmax f s := rfl
@[simp] theorem exec_vabs (f : LaneFields) (s : State) :
    exec (.vabs f) s = execVabs f s := rfl
@[simp] theorem exec_vneg (f : LaneFields) (s : State) :
    exec (.vneg f) s = execVneg f s := rfl
@[simp] theorem exec_vadds (f : LaneFields) (s : State) :
    exec (.vadds f) s = execVadds f s := rfl
@[simp] theorem exec_vsubs (f : LaneFields) (s : State) :
    exec (.vsubs f) s = execVsubs f s := rfl
@[simp] theorem exec_vand (f : LaneFields) (s : State) :
    exec (.vand f) s = execVand f s := rfl
@[simp] theorem exec_vor (f : LaneFields) (s : State) :
    exec (.vor f) s = execVor f s := rfl
@[simp] theorem exec_vxor (f : LaneFields) (s : State) :
    exec (.vxor f) s = execVxor f s := rfl
@[simp] theorem exec_vnot (f : LaneFields) (s : State) :
    exec (.vnot f) s = execVnot f s := rfl
@[simp] theorem exec_vandn (f : LaneFields) (s : State) :
    exec (.vandn f) s = execVandn f s := rfl
@[simp] theorem exec_vshl (f : LaneFields) (s : State) :
    exec (.vshl f) s = execVshl f s := rfl
@[simp] theorem exec_vshr (f : LaneFields) (s : State) :
    exec (.vshr f) s = execVshr f s := rfl
@[simp] theorem exec_vrol (f : LaneFields) (s : State) :
    exec (.vrol f) s = execVrol f s := rfl
@[simp] theorem exec_vclz (f : LaneFields) (s : State) :
    exec (.vclz f) s = execVclz f s := rfl
@[simp] theorem exec_vpopc (f : LaneFields) (s : State) :
    exec (.vpopc f) s = execVpopc f s := rfl
@[simp] theorem exec_vbrev (f : LaneFields) (s : State) :
    exec (.vbrev f) s = execVbrev f s := rfl
@[simp] theorem exec_vbfx (f : LaneFields) (s : State) :
    exec (.vbfx f) s = execVbfx f s := rfl
@[simp] theorem exec_vmov (f : LaneFields) (s : State) :
    exec (.vmov f) s = execVmov f s := rfl
@[simp] theorem exec_vsel (f : LaneFields) (s : State) :
    exec (.vsel f) s = execVsel f s := rfl
@[simp] theorem exec_vcmpeq (f : LaneFields) (s : State) :
    exec (.vcmpeq f) s = execVcmpeq f s := rfl
@[simp] theorem exec_vcmpne (f : LaneFields) (s : State) :
    exec (.vcmpne f) s = execVcmpne f s := rfl
@[simp] theorem exec_vcmplt (f : LaneFields) (s : State) :
    exec (.vcmplt f) s = execVcmplt f s := rfl
@[simp] theorem exec_vcmple (f : LaneFields) (s : State) :
    exec (.vcmple f) s = execVcmple f s := rfl
@[simp] theorem exec_vcmpgt (f : LaneFields) (s : State) :
    exec (.vcmpgt f) s = execVcmpgt f s := rfl
@[simp] theorem exec_vcmpge (f : LaneFields) (s : State) :
    exec (.vcmpge f) s = execVcmpge f s := rfl
@[simp] theorem exec_vfadd (f : LaneFields) (s : State) :
    exec (.vfadd f) s = execVfadd f s := rfl
@[simp] theorem exec_vfsub (f : LaneFields) (s : State) :
    exec (.vfsub f) s = execVfsub f s := rfl
@[simp] theorem exec_vfmul (f : LaneFields) (s : State) :
    exec (.vfmul f) s = execVfmul f s := rfl
@[simp] theorem exec_vfma (f : LaneFields) (s : State) :
    exec (.vfma f) s = execVfma f s := rfl
@[simp] theorem exec_vfmin (f : LaneFields) (s : State) :
    exec (.vfmin f) s = execVfmin f s := rfl
@[simp] theorem exec_vfmax (f : LaneFields) (s : State) :
    exec (.vfmax f) s = execVfmax f s := rfl
@[simp] theorem exec_vfabs (f : LaneFields) (s : State) :
    exec (.vfabs f) s = execVfabs f s := rfl
@[simp] theorem exec_vfneg (f : LaneFields) (s : State) :
    exec (.vfneg f) s = execVfneg f s := rfl
@[simp] theorem exec_vfdiv (f : LaneFields) (s : State) :
    exec (.vfdiv f) s = execVfdiv f s := rfl
@[simp] theorem exec_vfsqrt (f : LaneFields) (s : State) :
    exec (.vfsqrt f) s = execVfsqrt f s := rfl
@[simp] theorem exec_vfrsq (f : LaneFields) (s : State) :
    exec (.vfrsq f) s = execVfrsq f s := rfl
@[simp] theorem exec_vfexp2 (f : LaneFields) (s : State) :
    exec (.vfexp2 f) s = execVfexp2 f s := rfl
@[simp] theorem exec_vflog2 (f : LaneFields) (s : State) :
    exec (.vflog2 f) s = execVflog2 f s := rfl
@[simp] theorem exec_vfcmpeq (f : LaneFields) (s : State) :
    exec (.vfcmpeq f) s = execVfcmpeq f s := rfl
@[simp] theorem exec_vfcmpne (f : LaneFields) (s : State) :
    exec (.vfcmpne f) s = execVfcmpne f s := rfl
@[simp] theorem exec_vfcmplt (f : LaneFields) (s : State) :
    exec (.vfcmplt f) s = execVfcmplt f s := rfl
@[simp] theorem exec_vfcmple (f : LaneFields) (s : State) :
    exec (.vfcmple f) s = execVfcmple f s := rfl
@[simp] theorem exec_vfcmpgt (f : LaneFields) (s : State) :
    exec (.vfcmpgt f) s = execVfcmpgt f s := rfl
@[simp] theorem exec_vfcmpge (f : LaneFields) (s : State) :
    exec (.vfcmpge f) s = execVfcmpge f s := rfl
@[simp] theorem exec_vcvt (f : LaneFields) (s : State) :
    exec (.vcvt f) s = execVcvt f s := rfl
@[simp] theorem exec_vld (f : LaneFields) (s : State) :
    exec (.vld f) s = execVld f s := rfl
@[simp] theorem exec_vst (f : LaneFields) (s : State) :
    exec (.vst f) s = execVst f s := rfl
@[simp] theorem exec_vld2 (f : LaneFields) (s : State) :
    exec (.vld2 f) s = execVld2 f s := rfl
@[simp] theorem exec_vst2 (f : LaneFields) (s : State) :
    exec (.vst2 f) s = execVst2 f s := rfl
@[simp] theorem exec_vld4 (f : LaneFields) (s : State) :
    exec (.vld4 f) s = execVld4 f s := rfl
@[simp] theorem exec_vst4 (f : LaneFields) (s : State) :
    exec (.vst4 f) s = execVst4 f s := rfl
@[simp] theorem exec_vaadd (f : LaneFields) (s : State) :
    exec (.vaadd f) s = execVaadd f s := rfl
@[simp] theorem exec_vaand (f : LaneFields) (s : State) :
    exec (.vaand f) s = execVaand f s := rfl
@[simp] theorem exec_vaor (f : LaneFields) (s : State) :
    exec (.vaor f) s = execVaor f s := rfl
@[simp] theorem exec_vaxor (f : LaneFields) (s : State) :
    exec (.vaxor f) s = execVaxor f s := rfl
@[simp] theorem exec_vamin (f : LaneFields) (s : State) :
    exec (.vamin f) s = execVamin f s := rfl
@[simp] theorem exec_vamax (f : LaneFields) (s : State) :
    exec (.vamax f) s = execVamax f s := rfl
@[simp] theorem exec_vaswap (f : LaneFields) (s : State) :
    exec (.vaswap f) s = execVaswap f s := rfl
@[simp] theorem exec_vacas (f : LaneFields) (s : State) :
    exec (.vacas f) s = execVacas f s := rfl
@[simp] theorem exec_vlaor (f : LaneFields) (s : State) :
    exec (.vlaor f) s = execVlaor f s := rfl
@[simp] theorem exec_vlaand (f : LaneFields) (s : State) :
    exec (.vlaand f) s = execVlaand f s := rfl
@[simp] theorem exec_vlaxor (f : LaneFields) (s : State) :
    exec (.vlaxor f) s = execVlaxor f s := rfl
@[simp] theorem exec_vspill (f : LaneFields) (s : State) :
    exec (.vspill f) s = execVspill f s := rfl
@[simp] theorem exec_vfill (f : LaneFields) (s : State) :
    exec (.vfill f) s = execVfill f s := rfl
@[simp] theorem exec_bwait (f : LaneFields) (s : State) :
    exec (.bwait f) s = execBwait f s := rfl
@[simp] theorem exec_bwaitReread (core : Nat) (slot : Nat) (path : Nat) (s : State) :
    exec (.bwaitReread core slot path) s = execBwaitReread core slot path s := rfl
@[simp] theorem exec_cpk (f : LaneFields) (s : State) :
    exec (.cpk f) s = execCpk f s := rfl
@[simp] theorem exec_coll (f : LaneFields) (s : State) :
    exec (.coll f) s = execColl f s := rfl
@[simp] theorem exec_vbar (f : LaneFields) (s : State) :
    exec (.vbar f) s = execVbar f s := rfl
@[simp] theorem exec_vnbar (f : LaneFields) (s : State) :
    exec (.vnbar f) s = execVnbar f s := rfl
@[simp] theorem exec_barrierGenerationComplete (core : Nat) (slot : Nat) (nb : Bool) (s : State) :
    exec (.barrierGenerationComplete core slot nb) s = execBarrierGenerationComplete core slot nb s := rfl
@[simp] theorem exec_vfence (f : LaneFields) (s : State) :
    exec (.vfence f) s = execVfence f s := rfl
@[simp] theorem exec_binit (f : LaneFields) (s : State) :
    exec (.binit f) s = execBinit f s := rfl
@[simp] theorem exec_badd (f : LaneFields) (s : State) :
    exec (.badd f) s = execBadd f s := rfl
@[simp] theorem exec_mzero (f : LaneFields) (s : State) :
    exec (.mzero f) s = execMzero f s := rfl
@[simp] theorem exec_mloop (f : LaneFields) (s : State) :
    exec (.mloop f) s = execMloop f s := rfl
@[simp] theorem exec_mloopp (f : LaneFields) (s : State) :
    exec (.mloopp f) s = execMloopp f s := rfl
@[simp] theorem exec_mrd (f : LaneFields) (s : State) :
    exec (.mrd f) s = execMrd f s := rfl
@[simp] theorem exec_mwr (f : LaneFields) (s : State) :
    exec (.mwr f) s = execMwr f s := rfl
@[simp] theorem exec_mstat (f : LaneFields) (s : State) :
    exec (.mstat f) s = execMstat f s := rfl
@[simp] theorem exec_qld (f : LaneFields) (s : State) :
    exec (.qld f) s = execQld f s := rfl
@[simp] theorem exec_qst (f : LaneFields) (s : State) :
    exec (.qst f) s = execQst f s := rfl
@[simp] theorem exec_qmov (f : LaneFields) (s : State) :
    exec (.qmov f) s = execQmov f s := rfl
@[simp] theorem exec_qtrn (f : LaneFields) (s : State) :
    exec (.qtrn f) s = execQtrn f s := rfl
@[simp] theorem exec_qadd (f : LaneFields) (s : State) :
    exec (.qadd f) s = execQadd f s := rfl
@[simp] theorem exec_qscl (f : LaneFields) (s : State) :
    exec (.qscl f) s = execQscl f s := rfl
@[simp] theorem exec_qmul (f : LaneFields) (s : State) :
    exec (.qmul f) s = execQmul f s := rfl
@[simp] theorem exec_qmad (f : LaneFields) (s : State) :
    exec (.qmad f) s = execQmad f s := rfl
@[simp] theorem exec_qchol (f : LaneFields) (s : State) :
    exec (.qchol f) s = execQchol f s := rfl
@[simp] theorem exec_qlup (f : LaneFields) (s : State) :
    exec (.qlup f) s = execQlup f s := rfl
@[simp] theorem exec_qsolc (f : LaneFields) (s : State) :
    exec (.qsolc f) s = execQsolc f s := rfl
@[simp] theorem exec_qsoll (f : LaneFields) (s : State) :
    exec (.qsoll f) s = execQsoll f s := rfl
@[simp] theorem exec_qdet (f : LaneFields) (s : State) :
    exec (.qdet f) s = execQdet f s := rfl
@[simp] theorem exec_vballot (f : LaneFields) (s : State) :
    exec (.vballot f) s = execVballot f s := rfl
@[simp] theorem exec_vprefix (f : LaneFields) (s : State) :
    exec (.vprefix f) s = execVprefix f s := rfl
@[simp] theorem exec_vshfli (f : LaneFields) (s : State) :
    exec (.vshfli f) s = execVshfli f s := rfl
@[simp] theorem exec_vshflx (f : LaneFields) (s : State) :
    exec (.vshflx f) s = execVshflx f s := rfl
@[simp] theorem exec_vshflu (f : LaneFields) (s : State) :
    exec (.vshflu f) s = execVshflu f s := rfl
@[simp] theorem exec_vshfld (f : LaneFields) (s : State) :
    exec (.vshfld f) s = execVshfld f s := rfl
@[simp] theorem exec_vlaneid (f : LaneFields) (s : State) :
    exec (.vlaneid f) s = execVlaneid f s := rfl
@[simp] theorem exec_vpand (f : LaneFields) (s : State) :
    exec (.vpand f) s = execVpand f s := rfl
@[simp] theorem exec_vpor (f : LaneFields) (s : State) :
    exec (.vpor f) s = execVpor f s := rfl
@[simp] theorem exec_vpxor (f : LaneFields) (s : State) :
    exec (.vpxor f) s = execVpxor f s := rfl
@[simp] theorem exec_vpandn (f : LaneFields) (s : State) :
    exec (.vpandn f) s = execVpandn f s := rfl
@[simp] theorem exec_vxset (f : LaneFields) (s : State) :
    exec (.vxset f) s = execVxset f s := rfl
@[simp] theorem exec_vxadd (f : LaneFields) (s : State) :
    exec (.vxadd f) s = execVxadd f s := rfl
@[simp] theorem exec_vxmov (f : LaneFields) (s : State) :
    exec (.vxmov f) s = execVxmov f s := rfl
@[simp] theorem exec_tnmask (f : LaneFields) (s : State) :
    exec (.tnmask f) s = execTnmask f s := rfl
@[simp] theorem exec_unassignedEncoding (w : EncWord) (s : State) :
    exec (.unassignedEncoding w) s = execUnassignedEncoding w s := rfl
@[simp] theorem exec_queueProcessorAccess (h : Nat) (a : QpAccess) (s : State) :
    exec (.queueProcessorAccess h a) s = execQueueProcessorAccess h a s := rfl
@[simp] theorem exec_illegalInstruction (w : BitVec 32) (s : State) :
    exec (.illegalInstruction w) s = execIllegalInstruction w s := rfl
@[simp] theorem exec_debugUnknownCommand (r : DebugReq) (s : State) :
    exec (.debugUnknownCommand r) s = execDebugUnknownCommand r s := rfl
@[simp] theorem exec_debugRequestTimeout (s : State) :
    exec (.debugRequestTimeout) s = execDebugRequestTimeout s := rfl

end Sys2Proof.Machine
end

