-- ==== Sys2Proof/Laws/Tab.lean ====
section
/-!
SUPPORT. What the maps and tables do: a read after a write, and that every operation keeps the canonical form.
-/

namespace Sys2Proof.Machine

variable {α : Type}

@[simp] theorem AMap.find_nil (k : Nat) : AMap.find ([] : AMap α) k = none := rfl

theorem AMap.find_insert (m : AMap α) (k j : Nat) (v : α) :
    AMap.find (AMap.insert k v m) j = if j = k then some v else AMap.find m j := by
  induction m with
  | nil =>
    by_cases h : j = k
    · simp [AMap.insert, AMap.find, h]
    · simp [AMap.insert, AMap.find, h, Ne.symm h]
  | cons e t ih =>
    obtain ⟨k', v'⟩ := e
    unfold AMap.insert
    split
    · by_cases h : j = k
      · simp [AMap.find, h]
      · simp [AMap.find, h, Ne.symm h]
    · split
      · next h =>
        subst h
        by_cases h2 : j = k
        · simp [AMap.find, h2]
        · simp [AMap.find, h2, Ne.symm h2]
      · next h1 h2 =>
        simp only [AMap.find, ih]
        by_cases h3 : k' = j
        · subst h3; simp [Ne.symm h2]
        · simp [h3]

@[simp] theorem AMap.find_insert_same (m : AMap α) (k : Nat) (v : α) :
    AMap.find (AMap.insert k v m) k = some v := by simp [AMap.find_insert]

theorem AMap.find_insert_ne (m : AMap α) {k j : Nat} (v : α) (h : j ≠ k) :
    AMap.find (AMap.insert k v m) j = AMap.find m j := by simp [AMap.find_insert, h]

theorem AMap.rising_tail {e : Nat × α} {t : AMap α} (h : AMap.rising (e :: t) = true) : AMap.rising t = true := by
  cases t with
  | nil => rfl
  | cons b t => obtain ⟨a, x⟩ := e; obtain ⟨b, w⟩ := b; simp [AMap.rising] at h; exact h.2

theorem AMap.find_lt_head {k' : Nat} {v' : α} {t : AMap α} (h : AMap.rising ((k', v') :: t) = true) {k : Nat}
    (hk : k ≤ k') : AMap.find t k = none := by
  induction t generalizing k' v' with
  | nil => rfl
  | cons b t ih =>
    obtain ⟨b, w⟩ := b
    have h1 : k' < b := by simp [AMap.rising] at h; exact h.1
    have h2 : b ≠ k := by omega
    simp only [AMap.find, h2, if_false]
    exact ih (AMap.rising_tail h) (by omega)

theorem AMap.find_erase (m : AMap α) (h : AMap.rising m = true) (k j : Nat) :
    AMap.find (AMap.erase k m) j = if j = k then none else AMap.find m j := by
  induction m with
  | nil => simp [AMap.erase, AMap.find]
  | cons e t ih =>
    obtain ⟨k', v'⟩ := e
    unfold AMap.erase
    split
    · next h1 =>
      subst h1
      by_cases h2 : j = k'
      · subst h2; simp [AMap.find_lt_head h (Nat.le_refl _)]
      · simp [AMap.find, h2, Ne.symm h2]
    · next h1 =>
      simp only [AMap.find, ih (AMap.rising_tail h)]
      by_cases h3 : k' = j
      · subst h3; simp [h1]
      · simp [h3]

/-- The first key of a map that rises is below every key of its tail. -/
theorem AMap.rising_cons_iff (k : Nat) (v : α) (t : AMap α) :
    AMap.rising ((k, v) :: t) = true ↔ (∀ e ∈ t, k < e.1) ∧ AMap.rising t = true := by
  induction t generalizing k v with
  | nil => simp [AMap.rising]
  | cons b t ih =>
    obtain ⟨b, w⟩ := b
    simp only [AMap.rising, Bool.and_eq_true, decide_eq_true_eq]
    constructor
    · rintro ⟨h1, h2⟩
      refine ⟨?_, h2⟩
      intro e he
      rcases List.mem_cons.1 he with rfl | he
      · exact h1
      · exact Nat.lt_trans h1 (((ih b w).1 h2).1 e he)
    · rintro ⟨h1, h2⟩
      exact ⟨h1 (b, w) (by simp), h2⟩

theorem AMap.mem_insert {k : Nat} {v : α} {m : AMap α} {e : Nat × α} (h : e ∈ AMap.insert k v m) :
    e = (k, v) ∨ e ∈ m := by
  induction m with
  | nil => simpa [AMap.insert] using h
  | cons b t ih =>
    obtain ⟨b, w⟩ := b
    unfold AMap.insert at h
    split at h
    · simpa using h
    · split at h
      · rcases List.mem_cons.1 h with h | h
        · exact .inl h
        · exact .inr (List.mem_cons_of_mem _ h)
      · rcases List.mem_cons.1 h with h | h
        · exact .inr (by simp [h])
        · rcases ih h with h | h
          · exact .inl h
          · exact .inr (List.mem_cons_of_mem _ h)

theorem AMap.mem_erase {k : Nat} {m : AMap α} {e : Nat × α} (h : e ∈ AMap.erase k m) : e ∈ m := by
  induction m with
  | nil => simp [AMap.erase] at h
  | cons b t ih =>
    obtain ⟨b, w⟩ := b
    unfold AMap.erase at h
    split at h
    · exact List.mem_cons_of_mem _ h
    · rcases List.mem_cons.1 h with h | h
      · simp [h]
      · exact List.mem_cons_of_mem _ (ih h)

theorem AMap.rising_insert (m : AMap α) (k : Nat) (v : α) (h : AMap.rising m = true) :
    AMap.rising (AMap.insert k v m) = true := by
  induction m with
  | nil => rfl
  | cons b t ih =>
    obtain ⟨b, w⟩ := b
    have hb := (AMap.rising_cons_iff b w t).1 h
    unfold AMap.insert
    split
    · next h1 => exact (AMap.rising_cons_iff _ _ _).2 ⟨by
        intro e he
        rcases List.mem_cons.1 he with rfl | he
        · exact h1
        · exact Nat.lt_trans h1 (hb.1 e he), h⟩
    · split
      · next h1 => subst h1; exact (AMap.rising_cons_iff _ _ _).2 hb
      · next h1 h2 => exact (AMap.rising_cons_iff _ _ _).2 ⟨by
          intro e he
          rcases AMap.mem_insert he with rfl | he
          · show b < k; omega
          · exact hb.1 e he, ih hb.2⟩

theorem AMap.rising_erase (m : AMap α) (k : Nat) (h : AMap.rising m = true) :
    AMap.rising (AMap.erase k m) = true := by
  induction m with
  | nil => rfl
  | cons b t ih =>
    obtain ⟨b, w⟩ := b
    have hb := (AMap.rising_cons_iff b w t).1 h
    unfold AMap.erase
    split
    · exact hb.2
    · exact (AMap.rising_cons_iff _ _ _).2 ⟨fun e he => hb.1 e (AMap.mem_erase he), ih hb.2⟩

variable [DecidableEq α]

/-- A read after a write, in a table whose keys rise. -/
theorem Tab.get_set (d : α) (m : Tab α) (h : AMap.rising m = true) (k j : Nat) (v : α) :
    Tab.get d (Tab.set d k v m) j = if j = k then v else Tab.get d m j := by
  unfold Tab.set Tab.get
  split
  · next hv => rw [AMap.find_erase m h]; by_cases hj : j = k <;> simp [hj, hv]
  · rw [AMap.find_insert]; by_cases hj : j = k <;> simp [hj]

theorem Tab.wf_rising {d : α} {m : Tab α} (h : Tab.wf d m = true) : AMap.rising m = true := by
  simp [Tab.wf] at h; exact h.1

/-- A write keeps the canonical form. -/
theorem Tab.wf_set (d : α) (m : Tab α) (k : Nat) (v : α) (h : Tab.wf d m = true) : Tab.wf d (Tab.set d k v m) = true := by
  have hr := Tab.wf_rising h
  have ha : ∀ e ∈ m, e.2 ≠ d := by
    simp only [Tab.wf, Bool.and_eq_true, List.all_eq_true, decide_eq_true_eq] at h; exact h.2
  unfold Tab.set
  split
  · simp only [Tab.wf, Bool.and_eq_true, List.all_eq_true, decide_eq_true_eq]
    exact ⟨AMap.rising_erase m k hr, fun e he => ha e (AMap.mem_erase he)⟩
  · next hv =>
    simp only [Tab.wf, Bool.and_eq_true, List.all_eq_true, decide_eq_true_eq]
    refine ⟨AMap.rising_insert m k v hr, fun e he => ?_⟩
    rcases AMap.mem_insert he with rfl | he
    · exact hv
    · exact ha e he

/-- A list of writes keeps the canonical form. -/
theorem Tab.wf_setList (d : α) (vs : List α) (k : Nat) (m : Tab α) (h : Tab.wf d m = true) :
    Tab.wf d (Tab.setList d k vs m) = true := by
  induction vs generalizing k m with
  | nil => exact h
  | cons v vs ih => exact ih (k + 1) _ (Tab.wf_set d m k v h)

/-- A read outside a list of writes is unchanged. -/
theorem Tab.get_setList_outside (d : α) (vs : List α) (k j : Nat) (m : Tab α) (h : Tab.wf d m = true)
    (hj : j < k ∨ k + vs.length ≤ j) : Tab.get d (Tab.setList d k vs m) j = Tab.get d m j := by
  induction vs generalizing k m with
  | nil => rfl
  | cons v vs ih =>
    simp only [Tab.setList, List.length_cons] at *
    rw [ih (k + 1) _ (Tab.wf_set d m k v h) (by omega), Tab.get_set d m (Tab.wf_rising h)]
    have : j ≠ k := by omega
    simp [this]

end Sys2Proof.Machine
end

