-- ==== Sys2Proof/Laws/State.lean ====
section
/-!
SUPPORT. One lemma per field and update of the state, true by definition, and what the updates of one team and one path do.
-/

namespace Sys2Proof.Machine

@[simp] theorem setCore_ctx (s : State) (c : Nat) (v : Core) : (s.setCore c v).ctx = s.ctx := rfl
@[simp] theorem setCore_agenda (s : State) (c : Nat) (v : Core) : (s.setCore c v).agenda = s.agenda := rfl
@[simp] theorem setCore_fresh (s : State) (c : Nat) (v : Core) : (s.setCore c v).fresh = s.fresh := rfl
@[simp] theorem setCore_dev (s : State) (c : Nat) (v : Core) : (s.setCore c v).dev = s.dev := rfl
@[simp] theorem setCore_fab (s : State) (c : Nat) (v : Core) : (s.setCore c v).fab = s.fab := rfl
@[simp] theorem setCore_mem (s : State) (c : Nat) (v : Core) : (s.setCore c v).mem = s.mem := rfl
@[simp] theorem setCore_xl (s : State) (c : Nat) (v : Core) : (s.setCore c v).xl = s.xl := rfl
@[simp] theorem setCore_kv (s : State) (c : Nat) (v : Core) : (s.setCore c v).kv = s.kv := rfl
@[simp] theorem setCore_sched (s : State) (c : Nat) (v : Core) : (s.setCore c v).sched = s.sched := rfl
@[simp] theorem setCore_teams (s : State) (c : Nat) (v : Core) : (s.setCore c v).teams = s.teams := rfl
@[simp] theorem setCore_eng (s : State) (c : Nat) (v : Core) : (s.setCore c v).eng = s.eng := rfl
@[simp] theorem setCore_dbg (s : State) (c : Nat) (v : Core) : (s.setCore c v).dbg = s.dbg := rfl
@[simp] theorem setCore_out (s : State) (c : Nat) (v : Core) : (s.setCore c v).out = s.out := rfl
@[simp] theorem modCore_ctx (s : State) (c : Nat) (f : Core → Core) : (s.modCore c f).ctx = s.ctx := rfl
@[simp] theorem modCore_agenda (s : State) (c : Nat) (f : Core → Core) : (s.modCore c f).agenda = s.agenda := rfl
@[simp] theorem modCore_fresh (s : State) (c : Nat) (f : Core → Core) : (s.modCore c f).fresh = s.fresh := rfl
@[simp] theorem modCore_dev (s : State) (c : Nat) (f : Core → Core) : (s.modCore c f).dev = s.dev := rfl
@[simp] theorem modCore_fab (s : State) (c : Nat) (f : Core → Core) : (s.modCore c f).fab = s.fab := rfl
@[simp] theorem modCore_mem (s : State) (c : Nat) (f : Core → Core) : (s.modCore c f).mem = s.mem := rfl
@[simp] theorem modCore_xl (s : State) (c : Nat) (f : Core → Core) : (s.modCore c f).xl = s.xl := rfl
@[simp] theorem modCore_kv (s : State) (c : Nat) (f : Core → Core) : (s.modCore c f).kv = s.kv := rfl
@[simp] theorem modCore_sched (s : State) (c : Nat) (f : Core → Core) : (s.modCore c f).sched = s.sched := rfl
@[simp] theorem modCore_teams (s : State) (c : Nat) (f : Core → Core) : (s.modCore c f).teams = s.teams := rfl
@[simp] theorem modCore_eng (s : State) (c : Nat) (f : Core → Core) : (s.modCore c f).eng = s.eng := rfl
@[simp] theorem modCore_dbg (s : State) (c : Nat) (f : Core → Core) : (s.modCore c f).dbg = s.dbg := rfl
@[simp] theorem modCore_out (s : State) (c : Nat) (f : Core → Core) : (s.modCore c f).out = s.out := rfl
@[simp] theorem modCore_team (s : State) (c k : Nat) (f : Core → Core) : (s.modCore c f).team k = s.team k := rfl
@[simp] theorem modCore_path (s : State) (c k i : Nat) (f : Core → Core) : (s.modCore c f).path k i = s.path k i := rfl
@[simp] theorem setTeam_ctx (s : State) (k : Nat) (t : Team) : (s.setTeam k t).ctx = s.ctx := rfl
@[simp] theorem setTeam_agenda (s : State) (k : Nat) (t : Team) : (s.setTeam k t).agenda = s.agenda := rfl
@[simp] theorem setTeam_fresh (s : State) (k : Nat) (t : Team) : (s.setTeam k t).fresh = s.fresh := rfl
@[simp] theorem setTeam_dev (s : State) (k : Nat) (t : Team) : (s.setTeam k t).dev = s.dev := rfl
@[simp] theorem setTeam_fab (s : State) (k : Nat) (t : Team) : (s.setTeam k t).fab = s.fab := rfl
@[simp] theorem setTeam_mem (s : State) (k : Nat) (t : Team) : (s.setTeam k t).mem = s.mem := rfl
@[simp] theorem setTeam_xl (s : State) (k : Nat) (t : Team) : (s.setTeam k t).xl = s.xl := rfl
@[simp] theorem setTeam_kv (s : State) (k : Nat) (t : Team) : (s.setTeam k t).kv = s.kv := rfl
@[simp] theorem setTeam_sched (s : State) (k : Nat) (t : Team) : (s.setTeam k t).sched = s.sched := rfl
@[simp] theorem setTeam_cores (s : State) (k : Nat) (t : Team) : (s.setTeam k t).cores = s.cores := rfl
@[simp] theorem setTeam_eng (s : State) (k : Nat) (t : Team) : (s.setTeam k t).eng = s.eng := rfl
@[simp] theorem setTeam_dbg (s : State) (k : Nat) (t : Team) : (s.setTeam k t).dbg = s.dbg := rfl
@[simp] theorem setTeam_out (s : State) (k : Nat) (t : Team) : (s.setTeam k t).out = s.out := rfl
@[simp] theorem modTeam_ctx (s : State) (k : Nat) (f : Team → Team) : (s.modTeam k f).ctx = s.ctx := rfl
@[simp] theorem modTeam_agenda (s : State) (k : Nat) (f : Team → Team) : (s.modTeam k f).agenda = s.agenda := rfl
@[simp] theorem modTeam_fresh (s : State) (k : Nat) (f : Team → Team) : (s.modTeam k f).fresh = s.fresh := rfl
@[simp] theorem modTeam_dev (s : State) (k : Nat) (f : Team → Team) : (s.modTeam k f).dev = s.dev := rfl
@[simp] theorem modTeam_fab (s : State) (k : Nat) (f : Team → Team) : (s.modTeam k f).fab = s.fab := rfl
@[simp] theorem modTeam_mem (s : State) (k : Nat) (f : Team → Team) : (s.modTeam k f).mem = s.mem := rfl
@[simp] theorem modTeam_xl (s : State) (k : Nat) (f : Team → Team) : (s.modTeam k f).xl = s.xl := rfl
@[simp] theorem modTeam_kv (s : State) (k : Nat) (f : Team → Team) : (s.modTeam k f).kv = s.kv := rfl
@[simp] theorem modTeam_sched (s : State) (k : Nat) (f : Team → Team) : (s.modTeam k f).sched = s.sched := rfl
@[simp] theorem modTeam_cores (s : State) (k : Nat) (f : Team → Team) : (s.modTeam k f).cores = s.cores := rfl
@[simp] theorem modTeam_eng (s : State) (k : Nat) (f : Team → Team) : (s.modTeam k f).eng = s.eng := rfl
@[simp] theorem modTeam_dbg (s : State) (k : Nat) (f : Team → Team) : (s.modTeam k f).dbg = s.dbg := rfl
@[simp] theorem modTeam_out (s : State) (k : Nat) (f : Team → Team) : (s.modTeam k f).out = s.out := rfl
@[simp] theorem modPath_ctx (s : State) (k i : Nat) (f : Path → Path) : (s.modPath k i f).ctx = s.ctx := rfl
@[simp] theorem modPath_agenda (s : State) (k i : Nat) (f : Path → Path) : (s.modPath k i f).agenda = s.agenda := rfl
@[simp] theorem modPath_fresh (s : State) (k i : Nat) (f : Path → Path) : (s.modPath k i f).fresh = s.fresh := rfl
@[simp] theorem modPath_dev (s : State) (k i : Nat) (f : Path → Path) : (s.modPath k i f).dev = s.dev := rfl
@[simp] theorem modPath_fab (s : State) (k i : Nat) (f : Path → Path) : (s.modPath k i f).fab = s.fab := rfl
@[simp] theorem modPath_mem (s : State) (k i : Nat) (f : Path → Path) : (s.modPath k i f).mem = s.mem := rfl
@[simp] theorem modPath_xl (s : State) (k i : Nat) (f : Path → Path) : (s.modPath k i f).xl = s.xl := rfl
@[simp] theorem modPath_kv (s : State) (k i : Nat) (f : Path → Path) : (s.modPath k i f).kv = s.kv := rfl
@[simp] theorem modPath_sched (s : State) (k i : Nat) (f : Path → Path) : (s.modPath k i f).sched = s.sched := rfl
@[simp] theorem modPath_cores (s : State) (k i : Nat) (f : Path → Path) : (s.modPath k i f).cores = s.cores := rfl
@[simp] theorem modPath_eng (s : State) (k i : Nat) (f : Path → Path) : (s.modPath k i f).eng = s.eng := rfl
@[simp] theorem modPath_dbg (s : State) (k i : Nat) (f : Path → Path) : (s.modPath k i f).dbg = s.dbg := rfl
@[simp] theorem modPath_out (s : State) (k i : Nat) (f : Path → Path) : (s.modPath k i f).out = s.out := rfl
@[simp] theorem onPath_ctx (s : State) (w : Who) (f : Path → Path) : (s.onPath w f).ctx = s.ctx := rfl
@[simp] theorem onPath_agenda (s : State) (w : Who) (f : Path → Path) : (s.onPath w f).agenda = s.agenda := rfl
@[simp] theorem onPath_fresh (s : State) (w : Who) (f : Path → Path) : (s.onPath w f).fresh = s.fresh := rfl
@[simp] theorem onPath_dev (s : State) (w : Who) (f : Path → Path) : (s.onPath w f).dev = s.dev := rfl
@[simp] theorem onPath_fab (s : State) (w : Who) (f : Path → Path) : (s.onPath w f).fab = s.fab := rfl
@[simp] theorem onPath_mem (s : State) (w : Who) (f : Path → Path) : (s.onPath w f).mem = s.mem := rfl
@[simp] theorem onPath_xl (s : State) (w : Who) (f : Path → Path) : (s.onPath w f).xl = s.xl := rfl
@[simp] theorem onPath_kv (s : State) (w : Who) (f : Path → Path) : (s.onPath w f).kv = s.kv := rfl
@[simp] theorem onPath_sched (s : State) (w : Who) (f : Path → Path) : (s.onPath w f).sched = s.sched := rfl
@[simp] theorem onPath_cores (s : State) (w : Who) (f : Path → Path) : (s.onPath w f).cores = s.cores := rfl
@[simp] theorem onPath_eng (s : State) (w : Who) (f : Path → Path) : (s.onPath w f).eng = s.eng := rfl
@[simp] theorem onPath_dbg (s : State) (w : Who) (f : Path → Path) : (s.onPath w f).dbg = s.dbg := rfl
@[simp] theorem onPath_out (s : State) (w : Who) (f : Path → Path) : (s.onPath w f).out = s.out := rfl
@[simp] theorem tick_ctx (s : State) : s.tick.ctx = s.ctx := rfl
@[simp] theorem tick_agenda (s : State) : s.tick.agenda = s.agenda := rfl
@[simp] theorem tick_dev (s : State) : s.tick.dev = s.dev := rfl
@[simp] theorem tick_fab (s : State) : s.tick.fab = s.fab := rfl
@[simp] theorem tick_mem (s : State) : s.tick.mem = s.mem := rfl
@[simp] theorem tick_xl (s : State) : s.tick.xl = s.xl := rfl
@[simp] theorem tick_kv (s : State) : s.tick.kv = s.kv := rfl
@[simp] theorem tick_sched (s : State) : s.tick.sched = s.sched := rfl
@[simp] theorem tick_cores (s : State) : s.tick.cores = s.cores := rfl
@[simp] theorem tick_teams (s : State) : s.tick.teams = s.teams := rfl
@[simp] theorem tick_eng (s : State) : s.tick.eng = s.eng := rfl
@[simp] theorem tick_dbg (s : State) : s.tick.dbg = s.dbg := rfl
@[simp] theorem tick_out (s : State) : s.tick.out = s.out := rfl
@[simp] theorem tick_team (s : State) (k : Nat) : s.tick.team k = s.team k := rfl
@[simp] theorem emit_ctx (s : State) (m : OutMsg) : (s.emit m).ctx = s.ctx := rfl
@[simp] theorem emit_agenda (s : State) (m : OutMsg) : (s.emit m).agenda = s.agenda := rfl
@[simp] theorem emit_fresh (s : State) (m : OutMsg) : (s.emit m).fresh = s.fresh := rfl
@[simp] theorem emit_dev (s : State) (m : OutMsg) : (s.emit m).dev = s.dev := rfl
@[simp] theorem emit_fab (s : State) (m : OutMsg) : (s.emit m).fab = s.fab := rfl
@[simp] theorem emit_mem (s : State) (m : OutMsg) : (s.emit m).mem = s.mem := rfl
@[simp] theorem emit_xl (s : State) (m : OutMsg) : (s.emit m).xl = s.xl := rfl
@[simp] theorem emit_kv (s : State) (m : OutMsg) : (s.emit m).kv = s.kv := rfl
@[simp] theorem emit_sched (s : State) (m : OutMsg) : (s.emit m).sched = s.sched := rfl
@[simp] theorem emit_cores (s : State) (m : OutMsg) : (s.emit m).cores = s.cores := rfl
@[simp] theorem emit_teams (s : State) (m : OutMsg) : (s.emit m).teams = s.teams := rfl
@[simp] theorem emit_eng (s : State) (m : OutMsg) : (s.emit m).eng = s.eng := rfl
@[simp] theorem emit_dbg (s : State) (m : OutMsg) : (s.emit m).dbg = s.dbg := rfl
@[simp] theorem emit_out (s : State) (m : OutMsg) : (s.emit m).out = m :: s.out := rfl
@[simp] theorem emit_team (s : State) (m : OutMsg) (k : Nat) : (s.emit m).team k = s.team k := rfl
@[simp] theorem modLaunch_ctx (s : State) (h : Nat) (f : Launch → Launch) : (s.modLaunch h f).ctx = s.ctx := rfl
@[simp] theorem modLaunch_agenda (s : State) (h : Nat) (f : Launch → Launch) : (s.modLaunch h f).agenda = s.agenda := rfl
@[simp] theorem modLaunch_fresh (s : State) (h : Nat) (f : Launch → Launch) : (s.modLaunch h f).fresh = s.fresh := rfl
@[simp] theorem modLaunch_dev (s : State) (h : Nat) (f : Launch → Launch) : (s.modLaunch h f).dev = s.dev := rfl
@[simp] theorem modLaunch_fab (s : State) (h : Nat) (f : Launch → Launch) : (s.modLaunch h f).fab = s.fab := rfl
@[simp] theorem modLaunch_mem (s : State) (h : Nat) (f : Launch → Launch) : (s.modLaunch h f).mem = s.mem := rfl
@[simp] theorem modLaunch_xl (s : State) (h : Nat) (f : Launch → Launch) : (s.modLaunch h f).xl = s.xl := rfl
@[simp] theorem modLaunch_kv (s : State) (h : Nat) (f : Launch → Launch) : (s.modLaunch h f).kv = s.kv := rfl
@[simp] theorem modLaunch_cores (s : State) (h : Nat) (f : Launch → Launch) : (s.modLaunch h f).cores = s.cores := rfl
@[simp] theorem modLaunch_teams (s : State) (h : Nat) (f : Launch → Launch) : (s.modLaunch h f).teams = s.teams := rfl
@[simp] theorem modLaunch_eng (s : State) (h : Nat) (f : Launch → Launch) : (s.modLaunch h f).eng = s.eng := rfl
@[simp] theorem modLaunch_dbg (s : State) (h : Nat) (f : Launch → Launch) : (s.modLaunch h f).dbg = s.dbg := rfl
@[simp] theorem modLaunch_out (s : State) (h : Nat) (f : Launch → Launch) : (s.modLaunch h f).out = s.out := rfl
@[simp] theorem modLaunch_team (s : State) (h k : Nat) (f : Launch → Launch) : (s.modLaunch h f).team k = s.team k := rfl
@[simp] theorem modQueue_ctx (s : State) (q : Nat) (f : Queue → Queue) : (s.modQueue q f).ctx = s.ctx := rfl
@[simp] theorem modQueue_agenda (s : State) (q : Nat) (f : Queue → Queue) : (s.modQueue q f).agenda = s.agenda := rfl
@[simp] theorem modQueue_fresh (s : State) (q : Nat) (f : Queue → Queue) : (s.modQueue q f).fresh = s.fresh := rfl
@[simp] theorem modQueue_dev (s : State) (q : Nat) (f : Queue → Queue) : (s.modQueue q f).dev = s.dev := rfl
@[simp] theorem modQueue_fab (s : State) (q : Nat) (f : Queue → Queue) : (s.modQueue q f).fab = s.fab := rfl
@[simp] theorem modQueue_mem (s : State) (q : Nat) (f : Queue → Queue) : (s.modQueue q f).mem = s.mem := rfl
@[simp] theorem modQueue_xl (s : State) (q : Nat) (f : Queue → Queue) : (s.modQueue q f).xl = s.xl := rfl
@[simp] theorem modQueue_kv (s : State) (q : Nat) (f : Queue → Queue) : (s.modQueue q f).kv = s.kv := rfl
@[simp] theorem modQueue_cores (s : State) (q : Nat) (f : Queue → Queue) : (s.modQueue q f).cores = s.cores := rfl
@[simp] theorem modQueue_teams (s : State) (q : Nat) (f : Queue → Queue) : (s.modQueue q f).teams = s.teams := rfl
@[simp] theorem modQueue_eng (s : State) (q : Nat) (f : Queue → Queue) : (s.modQueue q f).eng = s.eng := rfl
@[simp] theorem modQueue_dbg (s : State) (q : Nat) (f : Queue → Queue) : (s.modQueue q f).dbg = s.dbg := rfl
@[simp] theorem modQueue_out (s : State) (q : Nat) (f : Queue → Queue) : (s.modQueue q f).out = s.out := rfl
@[simp] theorem modHart_ctx (s : State) (h : Nat) (f : Hart → Hart) : (s.modHart h f).ctx = s.ctx := rfl
@[simp] theorem modHart_agenda (s : State) (h : Nat) (f : Hart → Hart) : (s.modHart h f).agenda = s.agenda := rfl
@[simp] theorem modHart_fresh (s : State) (h : Nat) (f : Hart → Hart) : (s.modHart h f).fresh = s.fresh := rfl
@[simp] theorem modHart_dev (s : State) (h : Nat) (f : Hart → Hart) : (s.modHart h f).dev = s.dev := rfl
@[simp] theorem modHart_fab (s : State) (h : Nat) (f : Hart → Hart) : (s.modHart h f).fab = s.fab := rfl
@[simp] theorem modHart_mem (s : State) (h : Nat) (f : Hart → Hart) : (s.modHart h f).mem = s.mem := rfl
@[simp] theorem modHart_xl (s : State) (h : Nat) (f : Hart → Hart) : (s.modHart h f).xl = s.xl := rfl
@[simp] theorem modHart_kv (s : State) (h : Nat) (f : Hart → Hart) : (s.modHart h f).kv = s.kv := rfl
@[simp] theorem modHart_cores (s : State) (h : Nat) (f : Hart → Hart) : (s.modHart h f).cores = s.cores := rfl
@[simp] theorem modHart_teams (s : State) (h : Nat) (f : Hart → Hart) : (s.modHart h f).teams = s.teams := rfl
@[simp] theorem modHart_eng (s : State) (h : Nat) (f : Hart → Hart) : (s.modHart h f).eng = s.eng := rfl
@[simp] theorem modHart_dbg (s : State) (h : Nat) (f : Hart → Hart) : (s.modHart h f).dbg = s.dbg := rfl
@[simp] theorem modHart_out (s : State) (h : Nat) (f : Hart → Hart) : (s.modHart h f).out = s.out := rfl
@[simp] theorem modSaved_ctx (s : State) (id : BitVec 32) (f : Team → Team) : (s.modSaved id f).ctx = s.ctx := rfl
@[simp] theorem modSaved_agenda (s : State) (id : BitVec 32) (f : Team → Team) : (s.modSaved id f).agenda = s.agenda := rfl
@[simp] theorem modSaved_fresh (s : State) (id : BitVec 32) (f : Team → Team) : (s.modSaved id f).fresh = s.fresh := rfl
@[simp] theorem modSaved_dev (s : State) (id : BitVec 32) (f : Team → Team) : (s.modSaved id f).dev = s.dev := rfl
@[simp] theorem modSaved_fab (s : State) (id : BitVec 32) (f : Team → Team) : (s.modSaved id f).fab = s.fab := rfl
@[simp] theorem modSaved_mem (s : State) (id : BitVec 32) (f : Team → Team) : (s.modSaved id f).mem = s.mem := rfl
@[simp] theorem modSaved_xl (s : State) (id : BitVec 32) (f : Team → Team) : (s.modSaved id f).xl = s.xl := rfl
@[simp] theorem modSaved_kv (s : State) (id : BitVec 32) (f : Team → Team) : (s.modSaved id f).kv = s.kv := rfl
@[simp] theorem modSaved_cores (s : State) (id : BitVec 32) (f : Team → Team) : (s.modSaved id f).cores = s.cores := rfl
@[simp] theorem modSaved_teams (s : State) (id : BitVec 32) (f : Team → Team) : (s.modSaved id f).teams = s.teams := rfl
@[simp] theorem modSaved_eng (s : State) (id : BitVec 32) (f : Team → Team) : (s.modSaved id f).eng = s.eng := rfl
@[simp] theorem modSaved_dbg (s : State) (id : BitVec 32) (f : Team → Team) : (s.modSaved id f).dbg = s.dbg := rfl
@[simp] theorem modSaved_out (s : State) (id : BitVec 32) (f : Team → Team) : (s.modSaved id f).out = s.out := rfl
@[simp] theorem modKv_ctx (s : State) (f : Kv → Kv) : (s.modKv f).ctx = s.ctx := rfl
@[simp] theorem modKv_agenda (s : State) (f : Kv → Kv) : (s.modKv f).agenda = s.agenda := rfl
@[simp] theorem modKv_fresh (s : State) (f : Kv → Kv) : (s.modKv f).fresh = s.fresh := rfl
@[simp] theorem modKv_dev (s : State) (f : Kv → Kv) : (s.modKv f).dev = s.dev := rfl
@[simp] theorem modKv_fab (s : State) (f : Kv → Kv) : (s.modKv f).fab = s.fab := rfl
@[simp] theorem modKv_mem (s : State) (f : Kv → Kv) : (s.modKv f).mem = s.mem := rfl
@[simp] theorem modKv_xl (s : State) (f : Kv → Kv) : (s.modKv f).xl = s.xl := rfl
@[simp] theorem modKv_sched (s : State) (f : Kv → Kv) : (s.modKv f).sched = s.sched := rfl
@[simp] theorem modKv_cores (s : State) (f : Kv → Kv) : (s.modKv f).cores = s.cores := rfl
@[simp] theorem modKv_teams (s : State) (f : Kv → Kv) : (s.modKv f).teams = s.teams := rfl
@[simp] theorem modKv_eng (s : State) (f : Kv → Kv) : (s.modKv f).eng = s.eng := rfl
@[simp] theorem modKv_dbg (s : State) (f : Kv → Kv) : (s.modKv f).dbg = s.dbg := rfl
@[simp] theorem modKv_out (s : State) (f : Kv → Kv) : (s.modKv f).out = s.out := rfl

/-! ## One team and one path changed -/

theorem AMap.find_modify {α : Type} (m : AMap α) (k j : Nat) (f : α → α) :
    AMap.find (AMap.modify k f m) j = if j = k then (AMap.find m k).map f else AMap.find m j := by
  unfold AMap.modify
  cases h : AMap.find m k with
  | none => by_cases hj : j = k <;> simp [hj, h]
  | some v => simp [AMap.find_insert]

theorem modTeam_team (s : State) (key k : Nat) (f : Team → Team) :
    (s.modTeam key f).team k = if k = key then (s.team key).map f else s.team k := by
  simp only [State.modTeam, State.team, AMap.find_modify]

theorem modCore_core (s : State) (c k : Nat) (f : Core → Core) :
    (s.modCore c f).core k = if k = c then f (s.core c) else s.core k := by
  simp only [State.modCore, State.setCore, State.core, AMap.find_insert]
  split <;> rfl

theorem modHart_hart (s : State) (h k : Nat) (f : Hart → Hart) :
    (s.modHart h f).hart k = if k = h then f (s.hart h) else s.hart k := by
  simp only [State.modHart, State.hart, AMap.find_insert]
  split <;> rfl

theorem modQueue_queue (s : State) (h k : Nat) (f : Queue → Queue) :
    (s.modQueue h f).queue k = if k = h then f (s.queue h) else s.queue k := by
  simp only [State.modQueue, State.queue, AMap.find_insert]
  split <;> rfl

theorem modLaunch_launch (s : State) (h k : Nat) (f : Launch → Launch) :
    (s.modLaunch h f).launch k = if k = h then (s.launch h).map f else s.launch k := by
  simp only [State.modLaunch, State.launch, AMap.find_modify]

/-- What the issuing path is. -/
theorem issuer_some {s : State} {w : Who} (h : issuer s = some w) :
    s.team w.key = some w.team ∧ AMap.find w.team.paths w.pi = some w.path ∧ w.key = teamKey w.core w.slot ∧
      w.core = s.ctx.core ∧ w.slot = s.ctx.slot ∧ w.pi = s.ctx.path := by
  unfold issuer at h
  split at h
  · cases h
  · next t ht =>
    split at h
    · cases h
    · next p hp => cases h; exact ⟨ht, hp, rfl, rfl, rfl, rfl⟩

theorem issuer_path {s : State} {w : Who} (h : issuer s = some w) : s.path w.key w.pi = some w.path := by
  obtain ⟨h1, h2, -⟩ := issuer_some h
  simp [State.path, h1, h2]

theorem withIssuer_eq {s : State} {w : Who} (h : issuer s = some w) (f : Who → State) : withIssuer s f = .next (f w) := by
  simp [withIssuer, h]

/-- A change of one path of a team whose other fields stay. -/
theorem pathBecomes_modPath {s : State} {w : Who} (h1 : s.team w.key = some w.team)
    (h2 : AMap.find w.team.paths w.pi = some w.path) (f : Path → Path) :
    pathBecomes s (s.modPath w.key w.pi f) w (f w.path) := by
  refine ⟨⟨⟨rfl, fun k hk => ?_⟩, w.team.modPath w.pi f, ?_, rfl, fun j hj => ?_⟩, ?_⟩
  · simp [State.modPath, modTeam_team, hk]
  · simp [State.modPath, modTeam_team, h1]
  · simp [Team.modPath, AMap.find_modify, hj]
  · simp [State.path, State.modPath, modTeam_team, h1, Team.modPath, AMap.find_modify, h2]

theorem pathBecomes_onPath {s : State} {w : Who} (h : issuer s = some w) (f : Path → Path) :
    pathBecomes s (s.onPath w f) w (f w.path) :=
  pathBecomes_modPath (issuer_some h).1 (issuer_some h).2.1 f

/-! ## Registers -/

theorem setS_s (p : Path) (hp : Tab.wf 0 p.sregs = true) (sd r : Reg6) (v : Word64) :
    (p.setS sd v).s r = if r = sd ∧ r ≠ 0 then v else p.s r := by
  unfold Path.setS Path.s
  by_cases h0 : sd = 0
  · subst h0
    by_cases hr : r = 0 <;> simp [hr]
  · by_cases hr : r = 0
    · simp [hr]
    · simp only [h0, hr, if_false, Tab.get_set 0 _ (Tab.wf_rising hp), BitVec.toNat_inj]
      by_cases h : r = sd
      · subst h; simp [show ¬(r = 0#6) from h0]
      · simp [h]

theorem setS_wf (p : Path) (hp : Tab.wf 0 p.sregs = true) (sd : Reg6) (v : Word64) :
    Tab.wf 0 (p.setS sd v).sregs = true := by
  unfold Path.setS
  split
  · exact hp
  · exact Tab.wf_set 0 _ _ _ hp

theorem setS_rest (p : Path) (sd : Reg6) (v : Word64) : { p.setS sd v with sregs := p.sregs } = p := by
  unfold Path.setS; split <;> rfl

/-- What a scalar instruction that writes one register does. -/
theorem regWritten_writeNext {s : State} {w : Who} {rs : List Reg6} (h : scalarReady s w rs) (sd : Reg6) (v : Word64) :
    regWritten s (writeNext s w sd v) w sd v (w.path.spc + 4) := by
  refine ⟨(w.path.setS sd v).next, pathBecomes_onPath h.1 _, ?_, fun r => setS_s w.path h.2.2 sd r v⟩
  unfold Path.setS Path.next; split <;> rfl

/-- A scalar instruction past its encoding check and its interlock. -/
theorem scalarOp_ready {s : State} {w : Who} {rs : List Reg6} (h : scalarReady s w rs) (f : Who → State) :
    scalarOp s false rs f = .next (f w) := by
  have : w.path.anyMarked rs = false := by
    simp only [Path.anyMarked, List.any_eq_false]; intro r hr; simp [h.2.1 r hr]
  simp [scalarOp, withIssuer_eq h.1, this]

/-- A scalar instruction whose encoding check fails traps RESERVED_FIELD. -/
theorem scalarOp_reserved {s : State} {w : Who} (h : issuer s = some w) (rs : List Reg6) (f : Who → State) :
    scalarOp s true rs f = .next (trapScalar s w .reservedField) := by
  simp [scalarOp, withIssuer_eq h]

end Sys2Proof.Machine
end

