-- ==== Sys2Proof/Laws/Lane.lean ====
section
/-!
SUPPORT. What a lane instruction does once its checks pass: its body runs, the active lanes get their values, and its clause
goes on.
-/

namespace Sys2Proof.Machine

/-- A lane instruction past its checks and its interlock is its body. -/
theorem laneOp_ready {s : State} {f : LaneFields} {spec : LaneCtx → LaneSpec} {x : LaneCtx} (h : laneReady s f spec x)
    (body : State → LaneCtx → State) : laneOp s f spec body = .next (body s x) := by
  obtain ⟨h1, h2, rfl, h4, h5, h6⟩ := h
  obtain ⟨w, c, f, lanes⟩ := x
  simp only at h1 h2 h4 h5 h6
  subst h4
  simp [laneOp, h1, h2, h5, h6]

/-- The cores that give up or take a clause differ in that alone. -/
theorem clause_fold (cs : List Nat) (f : Nat → Core → Core)
    (hf : ∀ c k, { f c k with running := k.running, lastClauseSlot := k.lastClauseSlot } = k) (s : State) :
    { cs.foldl (fun s c => s.modCore c (f c)) s with cores := s.cores } = s ∧
      ∀ c, { (cs.foldl (fun s c => s.modCore c (f c)) s).core c with
        running := (s.core c).running, lastClauseSlot := (s.core c).lastClauseSlot } = s.core c := by
  induction cs generalizing s with
  | nil => exact ⟨rfl, fun _ => rfl⟩
  | cons a cs ih =>
    obtain ⟨h1, h2⟩ := ih (s.modCore a (f a))
    rw [List.foldl_cons]
    refine ⟨?_, fun c => ?_⟩
    · rw [show ∀ t : State, ({ t with cores := s.cores } : State) =
        { ({ t with cores := (s.modCore a (f a)).cores } : State) with cores := s.cores } from fun _ => rfl, h1]; rfl
    · have h2 := h2 c
      rw [show ∀ k : Core, ({ k with running := (s.core c).running, lastClauseSlot := (s.core c).lastClauseSlot } : Core) =
        { ({ k with running := ((s.modCore a (f a)).core c).running,
                    lastClauseSlot := ((s.modCore a (f a)).core c).lastClauseSlot } : Core) with
          running := (s.core c).running, lastClauseSlot := (s.core c).lastClauseSlot } from fun _ => rfl, h2, modCore_core]
      split
      · next e => subst e; exact hf _ _
      · rfl

theorem leaveClause_rest (c k : Nat) (x : Core) :
    { x.leaveClause k with running := x.running, lastClauseSlot := x.lastClauseSlot } = x := by
  unfold Core.leaveClause; split
  · split <;> rfl
  · rfl

/-- A clause that ends changes which clause each datapath of its team runs and ran last, and nothing else (R87). -/
theorem leaveData_is (s : State) (key : Nat) :
    { s.leaveData key with cores := s.cores } = s ∧
      ∀ c, { (s.leaveData key).core c with
        running := (s.core c).running, lastClauseSlot := (s.core c).lastClauseSlot } = s.core c := by
  unfold State.leaveData
  split
  · exact ⟨rfl, fun _ => rfl⟩
  · exact clause_fold _ (fun c k => k.leaveClause _) (fun c k => leaveClause_rest c _ k) s

/-- A clause that starts changes which clause each datapath of its team runs, and nothing else (R87). -/
theorem runClause_is (s : State) (key pi : Nat) :
    { s.runClause key pi with cores := s.cores } = s ∧
      ∀ c, { (s.runClause key pi).core c with
        running := (s.core c).running, lastClauseSlot := (s.core c).lastClauseSlot } = s.core c := by
  unfold State.runClause
  split
  · exact ⟨rfl, fun _ => rfl⟩
  · exact clause_fold _ (fun c k => { k with running := some (_, pi) }) (fun _ _ => rfl) s

/-- The end of a lane instruction that has changed its own team alone. -/
theorem laneDone_completes {s s1 : State} {x : LaneCtx} {b : Team} (h : { s1 with teams := s.teams } = s)
    (hk : s1.team x.w.key = some b) (ho : ∀ k, k ≠ x.w.key → s1.team k = s.team k) :
    laneCompletes s (laneDone s1 x.w) x b := by
  have hc : s1.cores = s.cores := by rw [← h]
  obtain ⟨g1, g2⟩ := leaveData_is (s1.onPath x.w Path.popLane) x.w.key
  have key : (laneDone s1 x.w).teams = (s1.onPath x.w Path.popLane).teams := by
    unfold laneDone; dsimp only; split
    · exact (congrArg State.teams g1 :)
    · rfl
  have ht : ∀ k, (laneDone s1 x.w).team k = (s1.onPath x.w Path.popLane).team k := fun k => by simp [State.team, key]
  refine ⟨?_, fun k hn => ?_, ?_, fun c => ?_⟩
  · rw [← h]; unfold laneDone; dsimp only; split
    · rw [show ∀ t u : State, ({ t with teams := s.teams, cores := u.cores } : State) =
        { ({ t with cores := (s1.onPath x.w Path.popLane).cores } : State) with teams := s.teams, cores := u.cores } from
          fun _ _ => rfl, g1]; rfl
    · rfl
  · rw [ht, ← ho k hn]; simp [State.onPath, State.modPath, modTeam_team, hn]
  · rw [ht]; simp [State.onPath, State.modPath, modTeam_team, hk]
  · have hs : ∀ k, (s1.onPath x.w Path.popLane).core k = s.core k := fun k => by simp [State.core, State.onPath, hc]
    unfold laneDone
    dsimp only
    split
    · rw [← hs]; exact g2 c
    · rw [hs]

/-- The active lanes write, each from the team before, and the clause goes on. -/
theorem writeLanes_completes {s : State} {x : LaneCtx} (h : issuer s = some x.w) (put : Team → Nat → Team) :
    laneCompletes s (x.writeLanes s put) x (x.lanes.foldl put x.w.team) :=
  laneDone_completes rfl (by simp [modTeam_team, (issuer_some h).1]) (fun k hk => by simp [modTeam_team, hk])

/-! ## Registers of lanes -/

theorem setV_v (t : Team) (h : Tab.wf 0 t.vregs = true) (l n : Nat) (x : Word32) (k m : Nat) (hn : n < 256) (hm : m < 256) :
    (t.setV l n x).v k m = if k = l ∧ m = n then x else t.v k m := by
  unfold Team.setV Team.v
  rw [Tab.get_set 0 _ (Tab.wf_rising h)]
  by_cases e : k = l ∧ m = n
  · simp [e]
  · have : k * 256 + m ≠ l * 256 + n := by omega
    simp [e, this]

theorem setV_wf (t : Team) (h : Tab.wf 0 t.vregs = true) (l n : Nat) (x : Word32) : Tab.wf 0 (t.setV l n x).vregs = true :=
  Tab.wf_set 0 _ _ _ h

theorem setP_p (t : Team) (h : Tab.wf false t.pregs = true) (l n : Nat) (b : Bool) (k m : Nat) (hn : n < 8) (hm : m < 8) :
    (t.setP l n b).p k m = if k = l ∧ m = n ∧ n ≠ 0 then b else t.p k m := by
  unfold Team.setP
  by_cases h0 : n = 0
  · simp [h0]
  · simp only [h0, if_false, Team.p]
    by_cases hz : m = 0
    · simp [hz, Ne.symm h0]
    · rw [Tab.get_set false _ (Tab.wf_rising h)]
      by_cases e : k = l ∧ m = n
      · simp [e, h0]
      · have : k * 8 + m ≠ l * 8 + n := by omega
        have e' : ¬(k = l ∧ m = n ∧ n ≠ 0) := fun q => e ⟨q.1, q.2.1⟩
        rw [if_neg this, if_neg e']

theorem setP_wf (t : Team) (h : Tab.wf false t.pregs = true) (l n : Nat) (b : Bool) :
    Tab.wf false (t.setP l n b).pregs = true := by
  unfold Team.setP
  split
  · exact h
  · exact Tab.wf_set false _ _ _ h

/-- What a write of a register or pair does to each register of the team (R187). -/
theorem wr_v (t : Team) (h : Tab.wf 0 t.vregs = true) (ty l n x : Nat) (hn : n + regsOf ty ≤ 256) (k m : Nat) (hm : m < 256) :
    (t.wr ty l n x).v k m =
      if k = l ∧ n ≤ m ∧ m < n + regsOf ty then .ofNat 32 (x / 2 ^ (32 * (m - n))) else t.v k m := by
  unfold Team.wr
  unfold regsOf at *
  split
  · next h64 =>
    simp only [h64, if_true] at hn ⊢
    unfold Team.setV64
    rw [setV_v _ (setV_wf _ h _ _ _) _ _ _ _ _ (by omega) hm, setV_v _ h _ _ _ _ _ (by omega) hm]
    by_cases hk : k = l
    · by_cases h1 : m = n + 1
      · subst h1
        rw [if_pos ⟨hk, rfl⟩, if_pos ⟨hk, by omega, by omega⟩]
        apply BitVec.eq_of_toNat_eq
        simp only [BitVec.extractLsb'_toNat, BitVec.toNat_ofNat, Nat.shiftRight_eq_div_pow]
        rw [show n + 1 - n = 1 by omega]
        omega
      · by_cases h2 : m = n
        · subst h2
          rw [if_neg (by omega), if_pos ⟨hk, rfl⟩, if_pos ⟨hk, by omega, by omega⟩]
          apply BitVec.eq_of_toNat_eq
          simp only [BitVec.extractLsb'_toNat, BitVec.toNat_ofNat, Nat.shiftRight_eq_div_pow, Nat.sub_self]
          omega
        · rw [if_neg (by omega), if_neg (by omega), if_neg (by omega)]
    · rw [if_neg (by omega), if_neg (by omega), if_neg (by omega)]
  · next h64 =>
    simp only [h64] at hn ⊢
    rw [setV_v _ h _ _ _ _ _ (by simp at hn; omega) hm]
    by_cases hk : k = l ∧ m = n
    · obtain ⟨rfl, rfl⟩ := hk
      rw [if_pos ⟨rfl, rfl⟩, if_pos ⟨rfl, by omega, by simp⟩]
      simp
    · rw [if_neg hk, if_neg (by simp; omega)]

theorem wr_wf (t : Team) (h : Tab.wf 0 t.vregs = true) (ty l n x : Nat) : Tab.wf 0 (t.wr ty l n x).vregs = true := by
  unfold Team.wr
  split
  · exact setV_wf _ (setV_wf _ h _ _ _) _ _ _
  · exact setV_wf _ h _ _ _

theorem wr_is (t : Team) (ty l n x : Nat) : ∃ v, t.wr ty l n x = { t with vregs := v } := by
  unfold Team.wr; split <;> exact ⟨_, rfl⟩

/-- Active lanes that each write one register or pair hold their values, and nothing else of the team changes. -/
theorem foldl_wr_holds (tm : Team) (h : Tab.wf 0 tm.vregs = true) (ty vd : Nat) (hvd : vd + regsOf ty ≤ 256) (g : Nat → Nat)
    (lanes : List Nat) :
    Tab.wf 0 (lanes.foldl (fun t l => t.wr ty l vd (g l)) tm).vregs = true ∧
      lanesHold (lanes.foldl (fun t l => t.wr ty l vd (g l)) tm) tm lanes vd (regsOf ty) g := by
  induction lanes using List.reverseRecOn with
  | nil => exact ⟨h, rfl, fun l n _ => by simp⟩
  | append_singleton ls a ih =>
    rw [List.foldl_append]
    obtain ⟨hw, hr, hv⟩ := ih
    simp only [List.foldl_cons, List.foldl_nil]
    refine ⟨wr_wf _ hw _ _ _ _, ?_, fun l n hn => ?_⟩
    · obtain ⟨v, e⟩ := wr_is (ls.foldl (fun t l => t.wr ty l vd (g l)) tm) ty a vd (g a)
      rw [e]
      exact hr
    · rw [wr_v _ hw _ _ _ _ hvd _ _ hn, hv l n hn]
      by_cases e : l = a
      · subst e
        by_cases r : vd ≤ n ∧ n < vd + regsOf ty
        · simp [r]
        · have r2 : ¬(l = l ∧ vd ≤ n ∧ n < vd + regsOf ty) := fun q => r q.2
          rw [if_neg r2, if_neg (fun q => r q.2), if_neg (fun q => r q.2)]
      · simp [e]

/-! ## Passes -/

/-- The group of a set lane is not empty. -/
theorem groupBit_lane (k : Kdesc) (m : Mask) (l : Nat) (hl : l < k.lanes) (hg : k.lanes % k.group = 0) (hm : m.getLsbD l = true) :
    k.groupBit m (l / k.group) = true := by
  have h0 : 0 < k.group := by unfold Kdesc.group; split; · omega
                              · split <;> omega
  unfold Kdesc.groupBit
  rw [Bool.and_eq_true, decide_eq_true_eq, List.any_eq_true]
  refine ⟨?_, l % k.group, List.mem_range.2 (Nat.mod_lt _ h0), ?_⟩
  · rw [Nat.div_lt_iff_lt_mul h0, Nat.div_mul_cancel (Nat.dvd_of_mod_eq_zero hg)]; exact hl
  · rw [Nat.div_add_mod']; exact hm

/-- The pass of an active lane runs (R185). -/
theorem activeLane_pass (t : Team) (c : Clause) (f : LaneFields) (l : Nat) (hg : t.k.lanes % t.k.group = 0)
    (h : l ∈ activeLanes t c f) : t.k.passRuns (c.only.getD c.mask) (l / 32) = true := by
  obtain ⟨h1, -⟩ := List.mem_filter.1 h
  obtain ⟨hl, hm⟩ := List.mem_filter.1 h1
  have hb := groupBit_lane t.k _ l (List.mem_range.1 hl) hg hm
  unfold Kdesc.passRuns
  split
  · next e =>
    rw [e] at hb
    rcases Nat.mod_two_eq_zero_or_one (l / 16) with r | r
    · rw [show 2 * (l / 32) = l / 16 by omega, hb]; rfl
    · rw [show 2 * (l / 32) + 1 = l / 16 by omega, hb]; simp
  · split
    · next e => rwa [e] at hb
    · next h16 h32 =>
      have e : t.k.group = 64 := by
        unfold Kdesc.group at *; split
        · next q => simp [q] at h16
        · next q => split
                    · next r => simp [r] at h32
                    · rfl
      rw [e] at hb
      rwa [show l / 32 / 2 = l / 64 by omega]

end Sys2Proof.Machine
end

