-- ==== Sys2Proof/Laws/Memory.lean ====
section
/-!
SUPPORT. What the operations over memory do: each keeps the canonical form, and a write at the home slice changes the bytes it
stores and no other.
-/

namespace Sys2Proof.Machine

theorem Memory.wf_iff (m : Memory) :
    m.wf = true ↔ Tab.wf 0 m.bytes = true ∧ Tab.wf 0 m.host = true ∧ Tab.wf (0, 0) m.ts = true ∧ Tab.wf 0 m.frames = true := by
  simp [Memory.wf, and_assoc]

/-- Memory after reset is canonical. -/
theorem reset_mem_wf : State.reset.mem.wf = true := by decide

/-! ## One table at a time -/

theorem Memory.put_wf {m : Memory} (h : m.wf = true) (pa : Nat) (bs : List Byte) : (m.put pa bs).wf = true := by
  rw [Memory.wf_iff] at *; exact ⟨Tab.wf_setList 0 bs pa _ h.1, h.2⟩

theorem Memory.setStamps_wf {m : Memory} (h : m.wf = true) (line : Nat) (v : Nat × Nat) : (m.setStamps line v).wf = true := by
  rw [Memory.wf_iff] at *; exact ⟨h.1, h.2.1, Tab.wf_set _ _ _ _ h.2.2.1, h.2.2.2⟩

theorem Memory.touch_wf {m : Memory} (h : m.wf = true) (pa : Nat) : (m.touch pa).wf = true := by
  rw [Memory.wf_iff] at *; exact ⟨h.1, h.2.1, h.2.2.1, Tab.wf_set _ _ _ _ h.2.2.2⟩

theorem Memory.hostPut_wf {m : Memory} (h : m.wf = true) (a : Nat) (bs : List Byte) (l : AMap HostLine) :
    Memory.wf { m with host := Tab.setList 0 a bs m.host, hostLines := l } = true := by
  rw [Memory.wf_iff] at *; exact ⟨h.1, Tab.wf_setList 0 bs a _ h.2.1, h.2.2⟩

theorem Memory.frames_wf {m : Memory} (h : m.wf = true) (f : Nat) (b : BitVec 8) :
    Memory.wf { m with frames := Tab.set 0 f b m.frames } = true := by
  rw [Memory.wf_iff] at *; exact ⟨h.1, h.2.1, h.2.2.1, Tab.wf_set _ _ _ _ h.2.2.2⟩

/-- The tables of a filtered map keep their form. -/
theorem AMap.rising_filter {α : Type} (p : Nat × α → Bool) (m : AMap α) (h : AMap.rising m = true) :
    AMap.rising (m.filter p) = true := by
  induction m with
  | nil => rfl
  | cons e t ih =>
    obtain ⟨k, v⟩ := e
    have hb := (AMap.rising_cons_iff k v t).1 h
    rw [List.filter_cons]
    split
    · exact (AMap.rising_cons_iff _ _ _).2 ⟨fun e he => hb.1 e (List.mem_filter.1 he).1, ih hb.2⟩
    · exact ih hb.2

theorem Tab.wf_filter {α : Type} [DecidableEq α] (d : α) (p : Nat × α → Bool) (m : Tab α) (h : Tab.wf d m = true) :
    Tab.wf d (m.filter p) = true := by
  simp only [Tab.wf, Bool.and_eq_true, List.all_eq_true, decide_eq_true_eq] at *
  exact ⟨AMap.rising_filter p m h.1, fun e he => h.2 e (List.mem_filter.1 he).1⟩

theorem Tab.wf_clear {α : Type} [DecidableEq α] (d : α) (lo hi : Nat) (m : Tab α) (h : Tab.wf d m = true) :
    Tab.wf d (Tab.clear lo hi m) = true := Tab.wf_filter d _ m h

/-- What every step of a fold keeps, the fold keeps. -/
theorem foldl_keeps {α β : Type} (P : β → Prop) (f : β → α → β) (l : List α) (b : β) (hb : P b)
    (hf : ∀ b a, P b → P (f b a)) : P (l.foldl f b) := by
  induction l generalizing b with
  | nil => exact hb
  | cons a l ih => exact ih _ (hf b a hb)

/-! ## Writes at the home slice -/

/-- Obtaining a line from the host changes no byte, no frame and no timestamp. -/
theorem obtain_tables (s : State) (pa : Nat) :
    (s.obtain pa).mem.bytes = s.mem.bytes ∧ (s.obtain pa).mem.host = s.mem.host ∧ (s.obtain pa).mem.ts = s.mem.ts ∧
      (s.obtain pa).mem.frames = s.mem.frames := by
  unfold State.obtain; split <;> exact ⟨rfl, rfl, rfl, rfl⟩

theorem obtain_wf {s : State} (h : s.mem.wf = true) (pa : Nat) : (s.obtain pa).mem.wf = true := by
  obtain ⟨h1, h2, h3, h4⟩ := obtain_tables s pa
  rw [Memory.wf_iff] at *; rwa [h1, h2, h3, h4]

theorem writeLine_mem (s : State) (c : List Nat) (pts pa : Nat) (bs : List Byte) :
    (s.writeLine c pts pa bs).1.mem =
      ((s.mem.put pa bs).setStamps (lineOf pa)
        (max pts ((s.mem.stamps (lineOf pa)).2 + 1), max pts ((s.mem.stamps (lineOf pa)).2 + 1))).touch pa := by
  unfold State.writeLine
  dsimp only
  generalize hm : ({ s with mem := _ } : State) = s0
  have h0 := congrArg State.mem hm
  rw [show (List.foldl _ s0 c).mem = s0.mem by
    clear hm h0
    induction c generalizing s0 with
    | nil => rfl
    | cons a c ih => exact (ih _).trans rfl]
  exact h0.symm

theorem writeLine_wf {s : State} (h : s.mem.wf = true) (c : List Nat) (pts pa : Nat) (bs : List Byte) :
    (s.writeLine c pts pa bs).1.mem.wf = true := by
  rw [writeLine_mem]; exact Memory.touch_wf (Memory.setStamps_wf (Memory.put_wf h _ _) _ _) _

theorem writeHome_wf {s : State} (h : s.mem.wf = true) (c : List Nat) (pts pa : Nat) (bs : List Byte) :
    (s.writeHome c pts pa bs).1.mem.wf = true := writeLine_wf (obtain_wf h pa) c pts pa bs

/-- The bytes after a write at the home slice. -/
theorem writeHome_bytes (s : State) (c : List Nat) (pts pa : Nat) (bs : List Byte) :
    (s.writeHome c pts pa bs).1.mem.bytes = Tab.setList 0 pa bs s.mem.bytes := by
  show ((s.obtain pa).writeLine c pts pa bs).1.mem.bytes = _
  rw [writeLine_mem, ← (obtain_tables s pa).1]; rfl

/-- A write at the home slice changes no byte outside those it stores. -/
theorem writeHome_outside {s : State} (h : s.mem.wf = true) (c : List Nat) (pts pa : Nat) (bs : List Byte) (a : Nat)
    (ha : a < pa ∨ pa + bs.length ≤ a) :
    Tab.get 0 (s.writeHome c pts pa bs).1.mem.bytes a = Tab.get 0 s.mem.bytes a := by
  rw [writeHome_bytes]
  exact Tab.get_setList_outside 0 bs pa a _ ((Memory.wf_iff _).1 h).1 ha

/-- A read inside a list of writes gives the value written. -/
theorem Tab.get_setList_inside {α : Type} [DecidableEq α] (d : α) (vs : List α) (k i : Nat) (m : Tab α)
    (h : Tab.wf d m = true) (hi : i < vs.length) : Tab.get d (Tab.setList d k vs m) (k + i) = vs[i] := by
  induction vs generalizing k i m with
  | nil => simp at hi
  | cons v vs ih =>
    have hw := Tab.wf_set d m k v h
    cases i with
    | zero =>
      simp only [Tab.setList, Nat.add_zero, List.getElem_cons_zero]
      rw [Tab.get_setList_outside d vs (k + 1) k _ hw (.inl (by omega)), Tab.get_set d m (Tab.wf_rising h)]
      simp
    | succ i =>
      have := ih (k + 1) i _ hw (by simpa using hi)
      simp only [Tab.setList, List.getElem_cons_succ]
      rw [← this]; congr 1; omega

/-- A read after a write at the home slice gives the bytes written. -/
theorem writeHome_inside {s : State} (h : s.mem.wf = true) (c : List Nat) (pts pa : Nat) (bs : List Byte) (i : Nat)
    (hi : i < bs.length) : Tab.get 0 (s.writeHome c pts pa bs).1.mem.bytes (pa + i) = bs[i] := by
  rw [writeHome_bytes]
  exact Tab.get_setList_inside 0 bs pa i _ ((Memory.wf_iff _).1 h).1 hi

theorem writeLines_wf {s : State} (h : s.mem.wf = true) (c : List Nat) (pts pa : Nat) (bs : List Byte) :
    (s.writeLines c pts pa bs).1.mem.wf = true := by
  unfold State.writeLines
  exact foldl_keeps (fun r : State × Nat => r.1.mem.wf = true) _ _ _ h (fun r p hr => writeHome_wf hr _ _ _ _)

theorem noteOut_wf {s : State} (h : s.mem.wf = true) (w : Nat) : (s.noteOut w).mem.wf = true := h

theorem writeOutside_wf {s : State} (h : s.mem.wf = true) (pa : Nat) (bs : List Byte) : (s.writeOutside pa bs).mem.wf = true :=
  noteOut_wf (writeLines_wf h _ _ _ _) _

theorem hostLineWrite_wf {s : State} (h : s.mem.wf = true) (pa : Nat) (bs : List Byte) : (s.hostLineWrite pa bs).mem.wf = true :=
  writeLine_wf h [] 0 pa bs

theorem deviceWrite_wf {s : State} (h : s.mem.wf = true) (pa : Nat) (bs : List Byte) : (s.deviceWrite pa bs).mem.wf = true := by
  unfold State.deviceWrite
  split
  · refine foldl_keeps (fun s : State => s.mem.wf = true) _ _ _ h (fun s p hs => ?_)
    unfold State.deviceLine
    split
    · exact hs
    · exact writeOutside_wf hs _ _
  · exact writeOutside_wf h _ _

theorem storeHome_wf {s : State} (h : s.mem.wf = true) (core key path pa : Nat) (bs : List Byte) :
    (s.storeHome core key path pa bs).mem.wf = true := writeHome_wf h _ _ _ _

theorem readAtomic_wf {s : State} (h : s.mem.wf = true) (key path pa : Nat) : (s.readAtomic key path pa).mem.wf = true :=
  Memory.touch_wf (Memory.setStamps_wf (obtain_wf h pa) _ _) _

theorem commitLines_wf {s : State} (h : s.mem.wf = true) (c : List Nat) (pts : Nat) (v : AMap Byte) :
    (s.commitLines c pts v).1.mem.wf = true := by
  unfold State.commitLines
  exact foldl_keeps (fun r : State × Nat => r.1.mem.wf = true) _ _ _ h (fun r p hr => writeHome_wf hr _ _ _ _)

/-! ## Caches -/

/-- An allocation in the L2 changes which lines it holds, and may take a free value; nothing else changes. -/
theorem l2Alloc_is (s : State) (a : L2Args) : ∃ l n, s.l2Alloc a = { s with mem := { s.mem with l2 := l }, fresh := n } := by
  unfold State.l2Alloc
  dsimp only
  split
  · exact ⟨_, _, rfl⟩
  · split
    · exact ⟨_, _, rfl⟩
    · split
      · exact ⟨_, _, rfl⟩
      · split <;> exact ⟨_, _, rfl⟩

/-- What a line is obtained from the host for changes the L2, what the host holds, and what the device has shown (R28). -/
theorem obtain_is (s : State) (pa : Nat) :
    ∃ l g o, s.obtain pa = { s with mem := { s.mem with l2 := l, hostHeld := g }, out := o } := by
  unfold State.obtain
  split
  · exact ⟨_, _, _, rfl⟩
  · exact ⟨_, _, _, rfl⟩

theorem l2Access_is (s : State) (a : L2Access) :
    ∃ l g n o, s.l2Access a = { s with mem := { s.mem with l2 := l, hostHeld := g }, fresh := n, out := o } := by
  unfold State.l2Access
  split
  · split
    · exact ⟨_, _, _, _, rfl⟩
    · obtain ⟨l, g, o, e⟩ := obtain_is s a.pa
      exact ⟨l, g, s.fresh, o, e⟩
  · split
    · exact ⟨_, _, _, _, rfl⟩
    · rename_i stream _
      obtain ⟨l, n, e⟩ := l2Alloc_is s { key := lineOf a.pa, part := s.mem.partition a.asid, rc := a.rc, asid := a.asid,
                                         vline := lineOf a.va, stream := stream, dirty := a.dirty, glob := a.glob }
      exact ⟨l, s.mem.hostHeld, n, s.out, by rw [e]⟩

theorem l2Access_wf {s : State} (h : s.mem.wf = true) (a : L2Access) : (s.l2Access a).mem.wf = true := by
  obtain ⟨l, g, n, o, e⟩ := l2Access_is s a
  rw [e]; exact h

/-- The L2 holds copies: an access through it changes no byte of memory. -/
theorem l2Access_bytes (s : State) (a : L2Access) : (s.l2Access a).mem.bytes = s.mem.bytes := by
  obtain ⟨l, g, n, o, e⟩ := l2Access_is s a
  rw [e]

theorem loadCommitted_wf {s : State} (h : s.mem.wf = true) (a : LoadArgs) : (s.loadCommitted a).1.mem.wf = true := by
  unfold State.loadCommitted
  dsimp only
  split
  · split <;> exact h
  · generalize hr : State.modPath _ _ _ _ = r
    have hm : r.mem.wf = true := by
      rw [← hr]; exact Memory.touch_wf (Memory.setStamps_wf h _ _) _
    split
    · unfold State.modCore; exact hm
    · exact hm

/-- A load of committed data changes no byte of memory. -/
theorem loadCommitted_bytes (s : State) (a : LoadArgs) : (s.loadCommitted a).1.mem.bytes = s.mem.bytes := by
  unfold State.loadCommitted
  dsimp only
  split
  · split <;> rfl
  · generalize hr : State.modPath _ _ _ _ = r
    have hm : r.mem.bytes = s.mem.bytes := by rw [← hr]; rfl
    split
    · unfold State.modCore; exact hm
    · exact hm

/-! ## Host memory and whole frames -/

theorem writeHost_wf {s : State} (h : s.mem.wf = true) (a : Nat) (bs : List Byte) : (s.writeHost a bs).mem.wf = true :=
  Memory.hostPut_wf h a bs _

theorem setHostLine_wf {s : State} (h : s.mem.wf = true) (line : Nat) (l : HostLine) : (s.setHostLine line l).mem.wf = true := h

theorem viewWrite_wf {s : State} (h : s.mem.wf = true) (k : Nat) (t : ViewTarget) (bs : List Byte) :
    (s.viewWrite k t bs).mem.wf = true := by
  cases t with
  | host a => exact writeHost_wf h a bs
  | sram off => exact h
  | dev pa => exact writeOutside_wf h pa bs
  | bad => exact h

theorem viewTouch_wf {s : State} (h : s.mem.wf = true) (t : ViewTarget) : (s.viewTouch t).mem.wf = true := by
  cases t with
  | dev pa => exact Memory.touch_wf (obtain_wf h pa) pa
  | _ => exact h

theorem touchRange_wf {s : State} (h : s.mem.wf = true) (pa n : Nat) : (s.touchRange pa n).mem.wf = true := by
  unfold State.touchRange
  exact foldl_keeps (fun m : Memory => m.wf = true) _ _ _ h (fun m _ hm => Memory.touch_wf hm _)

theorem obtainFrame_wf {s : State} (h : s.mem.wf = true) (f : Nat) : (s.obtainFrame f).mem.wf = true := by
  unfold State.obtainFrame
  split
  · exact foldl_keeps (fun s : State => s.mem.wf = true) _ _ _ h (fun s _ hs => obtain_wf hs _)
  · exact h

theorem stampFrame_wf {s : State} (h : s.mem.wf = true) (f pts : Nat) : (s.stampFrame f pts).mem.wf = true := by
  unfold State.stampFrame
  generalize List.range 1024 = r
  exact foldl_keeps (fun m : Memory => m.wf = true) _ _ _ (Memory.touch_wf (obtainFrame_wf h f) _)
    (fun m _ hm => Memory.setStamps_wf hm _ _)

theorem zeroFrame_wf {s : State} (h : s.mem.wf = true) (f pts : Nat) : (s.zeroFrame f pts).mem.wf = true := by
  unfold State.zeroFrame
  refine stampFrame_wf ?_ f pts
  have h := (Memory.wf_iff _).1 h
  exact (Memory.wf_iff _).2 ⟨Tab.wf_clear 0 _ _ _ h.1, h.2⟩

theorem Memory.moved_wf {m : Memory} (h : m.wf = true) (l : List (Nat × Byte)) (g : Nat → Nat) :
    Memory.wf { m with bytes := l.foldl (fun m e => Tab.set 0 (g e.1) e.2 m) m.bytes } = true := by
  have h := (Memory.wf_iff _).1 h
  exact (Memory.wf_iff _).2
    ⟨foldl_keeps (fun m : Tab Byte => Tab.wf 0 m = true) _ _ _ h.1 (fun m _ hm => Tab.wf_set 0 m _ _ hm), h.2⟩

theorem copyFrame_wf {s : State} (h : s.mem.wf = true) (src dst pts : Nat) : (s.copyFrame src dst pts).mem.wf = true := by
  unfold State.copyFrame
  dsimp only
  exact Memory.moved_wf (zeroFrame_wf (s := { (s.obtainFrame src) with mem := (s.obtainFrame src).mem.touch (src * 0x10000) })
    (Memory.touch_wf (obtainFrame_wf h src) _) dst pts) _ (fun k => k - src * 0x10000 + dst * 0x10000)

/-! ## Commits, rings and error traps -/

theorem commitVersion_wf {s : State} (h : s.mem.wf = true) (key pi : Nat) : (s.commitVersion key pi).mem.wf = true := by
  unfold State.commitVersion
  split
  · exact h
  · exact commitLines_wf h _ _ _

theorem newTask_mem (s : State) (key : Nat) : (s.newTask key).mem = s.mem := by
  unfold State.newTask; split <;> rfl

theorem commit_wf {s : State} (h : s.mem.wf = true) (key pi : Nat) : (s.commit key pi).mem.wf = true := by
  unfold State.commit; rw [newTask_mem]; exact commitVersion_wf h key pi

theorem ringPut_wf {s : State} (h : s.mem.wf = true) (base log size head : Nat) (bs : List Byte) :
    (s.ringPut base log size head bs).mem.wf = true := deviceWrite_wf h _ _

theorem flushReports_wf (n : Nat) {s : State} (h : s.mem.wf = true) : (State.flushReports n s).mem.wf = true := by
  induction n generalizing s with
  | zero => exact h
  | succ n ih =>
    unfold State.flushReports
    split
    · exact h
    · dsimp only
      split
      · exact ih (ringPut_wf h _ _ _ _ _)
      · exact h

theorem report_wf {s : State} (h : s.mem.wf = true) (team : BitVec 32) (r : List Byte) : (s.report team r).mem.wf = true := by
  unfold State.report
  split
  · exact flushReports_wf _ h
  · exact h

theorem journal_wf {s : State} (h : s.mem.wf = true) (k : Nat) (p : List Byte) : (s.journal k p).mem.wf = true := by
  unfold State.journal
  split
  · exact deviceWrite_wf h _ _
  · exact h

end Sys2Proof.Machine
end

