-- ==== Sys2Proof/Laws/PerInstr.lean ====
section
/-!
SUPPORT. Fields of concatenated words, and for each instruction that decoding its word gives it back.
-/

namespace Sys2Proof.Laws

/-! ## Fields of a word -/

theorem append_toNat {m n : Nat} (x : BitVec m) (y : BitVec n) : (x ++ y).toNat = x.toNat * 2 ^ n + y.toNat := by
  rw [BitVec.toNat_append, Nat.shiftLeft_eq, Nat.mul_comm, ← Nat.two_pow_add_eq_or_of_lt y.isLt]

theorem field_toNat {w : Nat} (x : BitVec w) (lo n : Nat) : (field x lo n).toNat = x.toNat / 2 ^ lo % 2 ^ n := by
  rw [field, BitVec.extractLsb'_toNat, Nat.shiftRight_eq_div_pow]

/-- The low part of a word. -/
theorem field_low {m n : Nat} (x : BitVec m) (y : BitVec n) : field (x ++ y) 0 n = y := by
  apply BitVec.eq_of_toNat_eq
  rw [field_toNat, append_toNat, Nat.pow_zero, Nat.div_one, Nat.mul_add_mod', Nat.mod_eq_of_lt y.isLt]

/-- A field above the low part of a word. -/
theorem field_skip {m n : Nat} (x : BitVec m) (y : BitVec n) (k len : Nat) :
    field (x ++ y) (n + k) len = field x k len := by
  apply BitVec.eq_of_toNat_eq
  rw [field_toNat, field_toNat, append_toNat, Nat.pow_add, ← Nat.div_div_eq_div_mul, Nat.mul_comm,
    Nat.mul_add_div (Nat.two_pow_pos n), Nat.div_eq_of_lt y.isLt, Nat.add_zero]

/-- The top part of a word, once the rest is skipped. -/
theorem field_whole {w : Nat} (x : BitVec w) : field x 0 w = x := by
  apply BitVec.eq_of_toNat_eq
  rw [field_toNat, Nat.pow_zero, Nat.div_one, Nat.mod_eq_of_lt x.isLt]


/-- Fields of an SR word. -/
theorem fields_sr (op : BitVec 7) (d : BitVec 6) (a : BitVec 6) (b : BitVec 6) (fn7 : BitVec 7) :
    let w : BitVec 32 := fn7 ++ b ++ a ++ d ++ op
    field w 0 7 = op ∧ field w 7 6 = d ∧ field w 13 6 = a ∧ field w 19 6 = b ∧ field w 25 7 = fn7 :=
  ⟨field_low _ op,
    (field_skip _ op 0 6).trans (field_low _ d),
    (field_skip _ op 6 6).trans ((field_skip _ d 0 6).trans (field_low _ a)),
    (field_skip _ op 12 6).trans ((field_skip _ d 6 6).trans ((field_skip _ a 0 6).trans (field_low _ b))),
    (field_skip _ op 18 7).trans ((field_skip _ d 12 7).trans ((field_skip _ a 6 7).trans ((field_skip _ b 0 7).trans (field_whole _))))⟩

/-- Fields of an SI or SB word. -/
theorem fields_si (op : BitVec 7) (d : BitVec 6) (a : BitVec 6) (imm : BitVec 13) :
    let w : BitVec 32 := imm ++ a ++ d ++ op
    field w 0 7 = op ∧ field w 7 6 = d ∧ field w 13 6 = a ∧ field w 19 13 = imm :=
  ⟨field_low _ op,
    (field_skip _ op 0 6).trans (field_low _ d),
    (field_skip _ op 6 6).trans ((field_skip _ d 0 6).trans (field_low _ a)),
    (field_skip _ op 12 13).trans ((field_skip _ d 6 13).trans ((field_skip _ a 0 13).trans (field_whole _)))⟩

/-- Fields of an SU word. -/
theorem fields_su (op : BitVec 7) (d : BitVec 6) (imm : BitVec 19) :
    let w : BitVec 32 := imm ++ d ++ op
    field w 0 7 = op ∧ field w 7 6 = d ∧ field w 13 19 = imm :=
  ⟨field_low _ op,
    (field_skip _ op 0 6).trans (field_low _ d),
    (field_skip _ op 6 19).trans ((field_skip _ d 0 19).trans (field_whole _))⟩

/-- Fields of an SJ word. -/
theorem fields_sj (op : BitVec 7) (off : BitVec 25) :
    let w : BitVec 32 := off ++ op
    field w 0 7 = op ∧ field w 7 25 = off :=
  ⟨field_low _ op,
    (field_skip _ op 0 25).trans (field_whole _)⟩

/-- Fields of SPLIT. -/
theorem fields_split (op : BitVec 7) (joff : BitVec 11) (toff : BitVec 11) (pn : BitVec 3) :
    let w : BitVec 32 := pn ++ toff ++ joff ++ op
    field w 0 7 = op ∧ field w 7 11 = joff ∧ field w 18 11 = toff ∧ field w 29 3 = pn :=
  ⟨field_low _ op,
    (field_skip _ op 0 11).trans (field_low _ joff),
    (field_skip _ op 11 11).trans ((field_skip _ joff 0 11).trans (field_low _ toff)),
    (field_skip _ op 22 3).trans ((field_skip _ joff 11 3).trans ((field_skip _ toff 0 3).trans (field_whole _)))⟩

/-- Fields of LD and ST. -/
theorem fields_mem (op : BitVec 7) (d : BitVec 6) (a : BitVec 6) (off : BitVec 5) (sx : BitVec 1) (sz : BitVec 2) (st : BitVec 1) (scp : BitVec 2) (ord : BitVec 2) :
    let w : BitVec 32 := ord ++ scp ++ st ++ sz ++ sx ++ off ++ a ++ d ++ op
    field w 0 7 = op ∧ field w 7 6 = d ∧ field w 13 6 = a ∧ field w 19 5 = off ∧ field w 24 1 = sx ∧ field w 25 2 = sz ∧ field w 27 1 = st ∧ field w 28 2 = scp ∧ field w 30 2 = ord :=
  ⟨field_low _ op,
    (field_skip _ op 0 6).trans (field_low _ d),
    (field_skip _ op 6 6).trans ((field_skip _ d 0 6).trans (field_low _ a)),
    (field_skip _ op 12 5).trans ((field_skip _ d 6 5).trans ((field_skip _ a 0 5).trans (field_low _ off))),
    (field_skip _ op 17 1).trans ((field_skip _ d 11 1).trans ((field_skip _ a 5 1).trans ((field_skip _ off 0 1).trans (field_low _ sx)))),
    (field_skip _ op 18 2).trans ((field_skip _ d 12 2).trans ((field_skip _ a 6 2).trans ((field_skip _ off 1 2).trans ((field_skip _ sx 0 2).trans (field_low _ sz))))),
    (field_skip _ op 20 1).trans ((field_skip _ d 14 1).trans ((field_skip _ a 8 1).trans ((field_skip _ off 3 1).trans ((field_skip _ sx 2 1).trans ((field_skip _ sz 0 1).trans (field_low _ st)))))),
    (field_skip _ op 21 2).trans ((field_skip _ d 15 2).trans ((field_skip _ a 9 2).trans ((field_skip _ off 4 2).trans ((field_skip _ sx 3 2).trans ((field_skip _ sz 1 2).trans ((field_skip _ st 0 2).trans (field_low _ scp))))))),
    (field_skip _ op 23 2).trans ((field_skip _ d 17 2).trans ((field_skip _ a 11 2).trans ((field_skip _ off 6 2).trans ((field_skip _ sx 5 2).trans ((field_skip _ sz 3 2).trans ((field_skip _ st 2 2).trans ((field_skip _ scp 0 2).trans (field_whole _))))))))⟩

/-- Fields of an atomic. -/
theorem fields_amo (ord : BitVec 2) (five : BitVec 5) (d : BitVec 6) (a : BitVec 6) (b : BitVec 6) (wd : BitVec 1) (scp : BitVec 2) (op : BitVec 4) :
    let w : BitVec 32 := op ++ scp ++ wd ++ b ++ a ++ d ++ five ++ ord
    field w 0 2 = ord ∧ field w 2 5 = five ∧ field w 7 6 = d ∧ field w 13 6 = a ∧ field w 19 6 = b ∧ field w 25 1 = wd ∧ field w 26 2 = scp ∧ field w 28 4 = op :=
  ⟨field_low _ ord,
    (field_skip _ ord 0 5).trans (field_low _ five),
    (field_skip _ ord 5 6).trans ((field_skip _ five 0 6).trans (field_low _ d)),
    (field_skip _ ord 11 6).trans ((field_skip _ five 6 6).trans ((field_skip _ d 0 6).trans (field_low _ a))),
    (field_skip _ ord 17 6).trans ((field_skip _ five 12 6).trans ((field_skip _ d 6 6).trans ((field_skip _ a 0 6).trans (field_low _ b)))),
    (field_skip _ ord 23 1).trans ((field_skip _ five 18 1).trans ((field_skip _ d 12 1).trans ((field_skip _ a 6 1).trans ((field_skip _ b 0 1).trans (field_low _ wd))))),
    (field_skip _ ord 24 2).trans ((field_skip _ five 19 2).trans ((field_skip _ d 13 2).trans ((field_skip _ a 7 2).trans ((field_skip _ b 1 2).trans ((field_skip _ wd 0 2).trans (field_low _ scp)))))),
    (field_skip _ ord 26 4).trans ((field_skip _ five 21 4).trans ((field_skip _ d 15 4).trans ((field_skip _ a 9 4).trans ((field_skip _ b 3 4).trans ((field_skip _ wd 2 4).trans ((field_skip _ scp 0 4).trans (field_whole _)))))))⟩

/-- Fields of a command word. -/
theorem fields_command (op : BitVec 7) (d : BitVec 5) (f3 : BitVec 3) (a : BitVec 5) (b : BitVec 5) (f7 : BitVec 7) :
    let w : BitVec 32 := f7 ++ b ++ a ++ f3 ++ d ++ op
    field w 0 7 = op ∧ field w 7 5 = d ∧ field w 12 3 = f3 ∧ field w 15 5 = a ∧ field w 20 5 = b ∧ field w 25 7 = f7 :=
  ⟨field_low _ op,
    (field_skip _ op 0 5).trans (field_low _ d),
    (field_skip _ op 5 3).trans ((field_skip _ d 0 3).trans (field_low _ f3)),
    (field_skip _ op 8 5).trans ((field_skip _ d 3 5).trans ((field_skip _ f3 0 5).trans (field_low _ a))),
    (field_skip _ op 13 5).trans ((field_skip _ d 8 5).trans ((field_skip _ f3 5 5).trans ((field_skip _ a 0 5).trans (field_low _ b)))),
    (field_skip _ op 18 7).trans ((field_skip _ d 13 7).trans ((field_skip _ f3 10 7).trans ((field_skip _ a 5 7).trans ((field_skip _ b 0 7).trans (field_whole _)))))⟩

/-- Fields of SWAIT. -/
theorem fields_swait (op : BitVec 7) (d : BitVec 5) (f3 : BitVec 3) (a : BitVec 5) (b : BitVec 5) (c : BitVec 3) (z : BitVec 4) :
    let w : BitVec 32 := z ++ c ++ b ++ a ++ f3 ++ d ++ op
    field w 0 7 = op ∧ field w 7 5 = d ∧ field w 12 3 = f3 ∧ field w 15 5 = a ∧ field w 20 5 = b ∧ field w 25 3 = c ∧ field w 28 4 = z :=
  ⟨field_low _ op,
    (field_skip _ op 0 5).trans (field_low _ d),
    (field_skip _ op 5 3).trans ((field_skip _ d 0 3).trans (field_low _ f3)),
    (field_skip _ op 8 5).trans ((field_skip _ d 3 5).trans ((field_skip _ f3 0 5).trans (field_low _ a))),
    (field_skip _ op 13 5).trans ((field_skip _ d 8 5).trans ((field_skip _ f3 5 5).trans ((field_skip _ a 0 5).trans (field_low _ b)))),
    (field_skip _ op 18 3).trans ((field_skip _ d 13 3).trans ((field_skip _ f3 10 3).trans ((field_skip _ a 5 3).trans ((field_skip _ b 0 3).trans (field_low _ c))))),
    (field_skip _ op 21 4).trans ((field_skip _ d 16 4).trans ((field_skip _ f3 13 4).trans ((field_skip _ a 8 4).trans ((field_skip _ b 3 4).trans ((field_skip _ c 0 4).trans (field_whole _))))))⟩

/-- Fields of a lane word. -/
theorem fields_lane (opc : BitVec 10) (ty : BitVec 4) (gp : BitVec 3) (gn : BitVec 1) (vd : BitVec 8) (md : BitVec 6) (va : BitVec 8) (vb : BitVec 8) (vc : BitVec 8) (ss : BitVec 6) (bsel : BitVec 2) (imm : BitVec 32) :
    let w : BitVec 96 := imm ++ bsel ++ ss ++ vc ++ vb ++ va ++ md ++ vd ++ gn ++ gp ++ ty ++ opc
    field w 0 10 = opc ∧ field w 10 4 = ty ∧ field w 14 3 = gp ∧ field w 17 1 = gn ∧ field w 18 8 = vd ∧ field w 26 6 = md ∧ field w 32 8 = va ∧ field w 40 8 = vb ∧ field w 48 8 = vc ∧ field w 56 6 = ss ∧ field w 62 2 = bsel ∧ field w 64 32 = imm :=
  ⟨field_low _ opc,
    (field_skip _ opc 0 4).trans (field_low _ ty),
    (field_skip _ opc 4 3).trans ((field_skip _ ty 0 3).trans (field_low _ gp)),
    (field_skip _ opc 7 1).trans ((field_skip _ ty 3 1).trans ((field_skip _ gp 0 1).trans (field_low _ gn))),
    (field_skip _ opc 8 8).trans ((field_skip _ ty 4 8).trans ((field_skip _ gp 1 8).trans ((field_skip _ gn 0 8).trans (field_low _ vd)))),
    (field_skip _ opc 16 6).trans ((field_skip _ ty 12 6).trans ((field_skip _ gp 9 6).trans ((field_skip _ gn 8 6).trans ((field_skip _ vd 0 6).trans (field_low _ md))))),
    (field_skip _ opc 22 8).trans ((field_skip _ ty 18 8).trans ((field_skip _ gp 15 8).trans ((field_skip _ gn 14 8).trans ((field_skip _ vd 6 8).trans ((field_skip _ md 0 8).trans (field_low _ va)))))),
    (field_skip _ opc 30 8).trans ((field_skip _ ty 26 8).trans ((field_skip _ gp 23 8).trans ((field_skip _ gn 22 8).trans ((field_skip _ vd 14 8).trans ((field_skip _ md 8 8).trans ((field_skip _ va 0 8).trans (field_low _ vb))))))),
    (field_skip _ opc 38 8).trans ((field_skip _ ty 34 8).trans ((field_skip _ gp 31 8).trans ((field_skip _ gn 30 8).trans ((field_skip _ vd 22 8).trans ((field_skip _ md 16 8).trans ((field_skip _ va 8 8).trans ((field_skip _ vb 0 8).trans (field_low _ vc)))))))),
    (field_skip _ opc 46 6).trans ((field_skip _ ty 42 6).trans ((field_skip _ gp 39 6).trans ((field_skip _ gn 38 6).trans ((field_skip _ vd 30 6).trans ((field_skip _ md 24 6).trans ((field_skip _ va 16 6).trans ((field_skip _ vb 8 6).trans ((field_skip _ vc 0 6).trans (field_low _ ss))))))))),
    (field_skip _ opc 52 2).trans ((field_skip _ ty 48 2).trans ((field_skip _ gp 45 2).trans ((field_skip _ gn 44 2).trans ((field_skip _ vd 36 2).trans ((field_skip _ md 30 2).trans ((field_skip _ va 22 2).trans ((field_skip _ vb 14 2).trans ((field_skip _ vc 6 2).trans ((field_skip _ ss 0 2).trans (field_low _ bsel)))))))))),
    (field_skip _ opc 54 32).trans ((field_skip _ ty 50 32).trans ((field_skip _ gp 47 32).trans ((field_skip _ gn 46 32).trans ((field_skip _ vd 38 32).trans ((field_skip _ md 32 32).trans ((field_skip _ va 24 32).trans ((field_skip _ vb 16 32).trans ((field_skip _ vc 8 32).trans ((field_skip _ ss 2 32).trans ((field_skip _ bsel 0 32).trans (field_whole _)))))))))))⟩

/-! ## Decoding by form -/

/-- The statement of the family: decoding the word of a well-formed instruction gives it back. -/
def EncodeDecode.Statement (i : Instr) : Prop := i.wf = true → ∀ e, encode i = some e → decodeEncoded e = some i

theorem statement_none {i : Instr} (h : encode i = none) : EncodeDecode.Statement i := by
  intro _ e he; rw [h] at he; cases he

theorem statement_some {i : Instr} {e : Encoded} (h : encode i = some e) (hd : decodeEncoded e = some i) :
    EncodeDecode.Statement i := by
  intro _ e' he; rw [h] at he; cases he; exact hd

/-- A lane word decodes by its opcode alone. -/
theorem decode_lane (opc : BitVec 10) (f : LaneFields) (c : LaneFields → Instr) (h : atCode opc.toNat laneTable = some c) :
    decodeEncoded (encodeLane opc f) = some (c f) := by
  obtain ⟨md, vd, gn, gp, ty, bsel, ss, vc, vb, va, imm⟩ := f
  obtain ⟨h0, h1, h2, h3, h4, h5, h6, h7, h8, h9, h10, h11⟩ := fields_lane opc ty gp gn vd md va vb vc ss bsel imm
  simp only [decodeEncoded, encodeLane, decodeLane, laneOpc, laneFields, h0, h1, h2, h3, h4, h5, h6, h7, h8, h9, h10, h11, h,
    Option.map_some, Option.getD_some]

/-- A word of the integer group decodes by fn7. -/
theorem decode_int (fn7 : BitVec 7) (d a b : Reg6) (c : Reg6 → Reg6 → Reg6 → Instr)
    (h : atCode fn7.toNat intTable = some c) : decodeEncoded (encodeSR 0x01#7 fn7 d a b) = some (c d a b) := by
  obtain ⟨h0, h1, h2, h3, h4⟩ := fields_sr 0x01#7 d a b fn7
  simp [decodeEncoded, encodeSR, decodeScalar, h0, h1, h2, h3, h4, h]

/-- A word of the system group decodes by fn7. -/
theorem decode_system (fn7 : BitVec 7) (d a b : Reg6) (c : Reg6 → Reg6 → Reg6 → Instr)
    (h : atCode fn7.toNat systemTable = some c) : decodeEncoded (encodeSR 0x30#7 fn7 d a b) = some (c d a b) := by
  obtain ⟨h0, h1, h2, h3, h4⟩ := fields_sr 0x30#7 d a b fn7
  simp [decodeEncoded, encodeSR, decodeScalar, h0, h1, h2, h3, h4, h]

/-- A word of the tree group decodes by fn7. -/
theorem decode_tree (fn7 : BitVec 7) (d a b : Reg6) (c : Reg6 → Reg6 → Reg6 → Instr)
    (h : atCode fn7.toNat treeTable = some c) : decodeEncoded (encodeSR 0x31#7 fn7 d a b) = some (c d a b) := by
  obtain ⟨h0, h1, h2, h3, h4⟩ := fields_sr 0x31#7 d a b fn7
  simp [decodeEncoded, encodeSR, decodeScalar, h0, h1, h2, h3, h4, h]

/-- An opcode that is not of the groups, SPLIT, the accesses, the atomics, the fences or the shoot-downs. -/
def plainOpcode (op : Nat) : Bool :=
  !([0x01, 0x30, 0x31, 0x1B, 0x20, 0x21, 0x24, 0x25, 0x26, 0x27, 0x28, 0x29, 0x2A, 0x2B].contains op)

/-- A word of another opcode decodes by that opcode. -/
theorem decode_plain (w : BitVec 32) (h : plainOpcode (field w 0 7).toNat = true) :
    decodeScalar w =
      ((atCode (field w 0 7).toNat siTable).map (fun f => f (field w 7 6) (field w 13 6) (field w 19 13))).getD
        (((atCode (field w 0 7).toNat sbTable).map (fun f => f (field w 7 6) (field w 13 6) (field w 19 13))).getD
          (((atCode (field w 0 7).toNat suTable).map (fun f => f (field w 7 6) (field w 13 19))).getD
            (((atCode (field w 0 7).toNat sjTable).map (fun f => f (field w 7 25))).getD (.unassignedEncoding (.scalar w))))) := by
  simp only [plainOpcode, List.contains_cons, List.contains_nil, Bool.or_false, Bool.not_or, Bool.and_eq_true, Bool.not_eq_true',
    beq_eq_false_iff_ne] at h
  obtain ⟨h1, h2, h3, h4, h5, h6, h7, h8, h9, h10, h11, h12, h13, h14⟩ := h
  have h15 : ¬ (0x24 ≤ (field w 0 7).toNat ∧ (field w 0 7).toNat ≤ 0x27) := by omega
  simp only [decodeScalar, h1, h2, h3, h4, h5, h6, h11, h12, h13, h14, h15, if_false]

theorem decode_si (op : BitVec 7) (d a : Reg6) (imm : BitVec 13) (c : Reg6 → Reg6 → BitVec 13 → Instr)
    (hp : plainOpcode op.toNat = true) (h : atCode op.toNat siTable = some c) :
    decodeEncoded (encodeSI op d a imm) = some (c d a imm) := by
  obtain ⟨h0, h1, h2, h3⟩ := fields_si op d a imm
  rw [encodeSI, decodeEncoded, decode_plain _ (by rw [h0]; exact hp), h0, h1, h2, h3, h]; rfl

theorem decode_sb (op : BitVec 7) (d a : Reg6) (imm : BitVec 13) (c : Reg6 → Reg6 → BitVec 13 → Instr)
    (hp : plainOpcode op.toNat = true) (hn : atCode op.toNat siTable = none) (h : atCode op.toNat sbTable = some c) :
    decodeEncoded (encodeSI op d a imm) = some (c d a imm) := by
  obtain ⟨h0, h1, h2, h3⟩ := fields_si op d a imm
  rw [encodeSI, decodeEncoded, decode_plain _ (by rw [h0]; exact hp), h0, h1, h2, h3, hn, h]; rfl

theorem decode_su (op : BitVec 7) (d : Reg6) (imm : BitVec 19) (c : Reg6 → BitVec 19 → Instr)
    (hp : plainOpcode op.toNat = true) (hn : atCode op.toNat siTable = none) (hn2 : atCode op.toNat sbTable = none)
    (h : atCode op.toNat suTable = some c) : decodeEncoded (encodeSU op d imm) = some (c d imm) := by
  obtain ⟨h0, h1, h2⟩ := fields_su op d imm
  rw [encodeSU, decodeEncoded, decode_plain _ (by rw [h0]; exact hp), h0, h1, h2, hn, hn2, h]; rfl

theorem decode_sj (op : BitVec 7) (off : BitVec 25) (c : BitVec 25 → Instr)
    (hp : plainOpcode op.toNat = true) (hn : atCode op.toNat siTable = none) (hn2 : atCode op.toNat sbTable = none)
    (hn3 : atCode op.toNat suTable = none) (h : atCode op.toNat sjTable = some c) :
    decodeEncoded (encodeSJ op off) = some (c off) := by
  obtain ⟨h0, h1⟩ := fields_sj op off
  rw [encodeSJ, decodeEncoded, decode_plain _ (by rw [h0]; exact hp), h0, h1, hn, hn2, hn3, h]; rfl

/-- An atomic decodes by OP. -/
theorem decode_amo (op : BitVec 4) (ord scp : BitVec 2) (wd : BitVec 1) (d a b : Reg6)
    (c : BitVec 2 → BitVec 2 → BitVec 1 → Reg6 → Reg6 → Reg6 → Instr) (h : atCode op.toNat amoTable = some c) :
    decodeEncoded (encodeAmo op ord scp wd d a b) = some (c ord scp wd d a b) := by
  obtain ⟨h0, h1, h2, h3, h4, h5, h6, h7⟩ := fields_amo ord 0x09#5 d a b wd scp op
  have hop : (field (op ++ scp ++ wd ++ b ++ a ++ d ++ 0x09#5 ++ ord : BitVec 32) 0 7).toNat = 0x24 + ord.toNat := by
    have e0 := congrArg BitVec.toNat h0
    have e1 := congrArg BitVec.toNat h1
    rw [field_toNat] at e0 e1 ⊢
    have : (0x09#5).toNat = 9 := rfl
    have := ord.isLt
    omega
  have := ord.isLt
  simp only [decodeEncoded, encodeAmo, decodeScalar, hop, h0, h2, h3, h4, h5, h6, h7, h]
  simp only [show ¬ (0x24 + ord.toNat = 1) by omega, show ¬ (0x24 + ord.toNat = 0x30) by omega,
    show ¬ (0x24 + ord.toNat = 0x31) by omega, show ¬ (0x24 + ord.toNat = 0x1B) by omega,
    show ¬ (0x24 + ord.toNat = 0x20) by omega, show ¬ (0x24 + ord.toNat = 0x21) by omega,
    show 0x24 ≤ 0x24 + ord.toNat ∧ 0x24 + ord.toNat ≤ 0x27 by omega, if_false, and_self, if_true]
  rfl


/-! ## One lemma for each instruction -/

theorem EncodeDecode.powerOn : EncodeDecode.Statement .powerOn := statement_none rfl

theorem EncodeDecode.functionLevelReset : EncodeDecode.Statement .functionLevelReset := statement_none rfl

theorem EncodeDecode.bringUpStep (ok : Bool) : EncodeDecode.Statement (.bringUpStep ok) := statement_none rfl

theorem EncodeDecode.fullServiceSwitch : EncodeDecode.Statement .fullServiceSwitch := statement_none rfl

theorem EncodeDecode.mainPowerLoss : EncodeDecode.Statement .mainPowerLoss := statement_none rfl

theorem EncodeDecode.d3hotRequest : EncodeDecode.Statement .d3hotRequest := statement_none rfl

theorem EncodeDecode.d0Request : EncodeDecode.Statement .d0Request := statement_none rfl

theorem EncodeDecode.d0IdleEntry : EncodeDecode.Statement .d0IdleEntry := statement_none rfl

theorem EncodeDecode.powerWindow (watts : Nat) : EncodeDecode.Statement (.powerWindow watts) := statement_none rfl

theorem EncodeDecode.thermalThrottle (die : Nat) : EncodeDecode.Statement (.thermalThrottle die) := statement_none rfl

theorem EncodeDecode.thermalShutdown : EncodeDecode.Statement .thermalShutdown := statement_none rfl

theorem EncodeDecode.bridgeFlitFailure : EncodeDecode.Statement .bridgeFlitFailure := statement_none rfl

theorem EncodeDecode.mgmtBusRequest (r : MgmtReq) : EncodeDecode.Statement (.mgmtBusRequest r) := statement_none rfl

theorem EncodeDecode.pcapWrite (v : BitVec 32) : EncodeDecode.Statement (.pcapWrite v) := statement_none rfl

theorem EncodeDecode.winbaseWrite (v : BitVec 64) : EncodeDecode.Statement (.winbaseWrite v) := statement_none rfl

theorem EncodeDecode.hostMemoryAccess (a : HostAccess) : EncodeDecode.Statement (.hostMemoryAccess a) := statement_none rfl

theorem EncodeDecode.snpData (line : Nat) : EncodeDecode.Statement (.snpData line) := statement_none rfl

theorem EncodeDecode.snpCur (line : Nat) : EncodeDecode.Statement (.snpCur line) := statement_none rfl

theorem EncodeDecode.snpInv (line : Nat) : EncodeDecode.Statement (.snpInv line) := statement_none rfl

theorem EncodeDecode.hostFillReturn (line : Nat) : EncodeDecode.Statement (.hostFillReturn line) := statement_none rfl

theorem EncodeDecode.biasFlipRequest (v : BitVec 64) : EncodeDecode.Statement (.biasFlipRequest v) := statement_none rfl

theorem EncodeDecode.biasFlipFrame : EncodeDecode.Statement .biasFlipFrame := statement_none rfl

theorem EncodeDecode.mext (v : BitVec 64) : EncodeDecode.Statement (.mext v) := statement_none rfl

theorem EncodeDecode.getVersion : EncodeDecode.Statement .getVersion := statement_none rfl

theorem EncodeDecode.getCapabilities : EncodeDecode.Statement .getCapabilities := statement_none rfl

theorem EncodeDecode.negotiateAlgorithms (sm2 : Bool) (sm3 : Bool) : EncodeDecode.Statement (.negotiateAlgorithms sm2 sm3) := statement_none rfl

theorem EncodeDecode.getDigests : EncodeDecode.Statement .getDigests := statement_none rfl

theorem EncodeDecode.getCertificate (slot : Nat) : EncodeDecode.Statement (.getCertificate slot) := statement_none rfl

theorem EncodeDecode.challenge (nonce : BitVec 256) : EncodeDecode.Statement (.challenge nonce) := statement_none rfl

theorem EncodeDecode.getMeasurements (block : Nat) (signed : Bool) (nonce : BitVec 256) : EncodeDecode.Statement (.getMeasurements block signed nonce) := statement_none rfl

theorem EncodeDecode.fnodeWrite (v : BitVec 32) : EncodeDecode.Statement (.fnodeWrite v) := statement_none rfl

theorem EncodeDecode.ftuncWrite (v : BitVec 32) : EncodeDecode.Statement (.ftuncWrite v) := statement_none rfl

theorem EncodeDecode.fabricPortFailure (port : Nat) : EncodeDecode.Statement (.fabricPortFailure port) := statement_none rfl

theorem EncodeDecode.syncExchange (offsetNs : Nat) (variationNs : Nat) : EncodeDecode.Statement (.syncExchange offsetNs variationNs) := statement_none rfl

theorem EncodeDecode.remoteAccessRequest (r : PeerReq) : EncodeDecode.Statement (.remoteAccessRequest r) := statement_none rfl

theorem EncodeDecode.leaseHeldWrite (line : Nat) : EncodeDecode.Statement (.leaseHeldWrite line) := statement_none rfl

theorem EncodeDecode.remoteCompletion (id : Nat) (reply : PeerReply) : EncodeDecode.Statement (.remoteCompletion id reply) := statement_none rfl

theorem EncodeDecode.remoteTimeout (id : Nat) : EncodeDecode.Statement (.remoteTimeout id) := statement_none rfl

theorem EncodeDecode.collectiveArrival (id : Nat) (m : CollMsg) : EncodeDecode.Statement (.collectiveArrival id m) := statement_none rfl

theorem EncodeDecode.collectiveCompletion (id : Nat) : EncodeDecode.Statement (.collectiveCompletion id) := statement_none rfl

theorem EncodeDecode.collectiveFailure (id : Nat) (why : CollFail) : EncodeDecode.Statement (.collectiveFailure id why) := statement_none rfl

theorem EncodeDecode.collectiveArrivalTimeout (id : Nat) : EncodeDecode.Statement (.collectiveArrivalTimeout id) := statement_none rfl

theorem EncodeDecode.launchStore (q : Nat) (t : LaunchTlp) : EncodeDecode.Statement (.launchStore q t) := statement_none rfl

theorem EncodeDecode.rfetch (rd : Reg5) (rs1 : Reg5) (rs2 : Reg5) : EncodeDecode.Statement (.rfetch rd rs1 rs2) := by
  refine statement_some rfl ?_
  obtain ⟨h0, h1, h2, h3, h4, h5⟩ := fields_command 0x0B#7 rd 0#3 rs1 rs2 0x00#7
  simp [decodeEncoded, encodeCommand, decodeCommand, h0, h1, h2, h3, h4, h5]

theorem EncodeDecode.bfxu (rd : Reg5) (rs1 : Reg5) (rs2 : Reg5) : EncodeDecode.Statement (.bfxu rd rs1 rs2) := by
  refine statement_some rfl ?_
  obtain ⟨h0, h1, h2, h3, h4, h5⟩ := fields_command 0x0B#7 rd 1#3 rs1 rs2 0x00#7
  simp [decodeEncoded, encodeCommand, decodeCommand, h0, h1, h2, h3, h4, h5]

theorem EncodeDecode.bfxs (rd : Reg5) (rs1 : Reg5) (rs2 : Reg5) : EncodeDecode.Statement (.bfxs rd rs1 rs2) := by
  refine statement_some rfl ?_
  obtain ⟨h0, h1, h2, h3, h4, h5⟩ := fields_command 0x0B#7 rd 1#3 rs1 rs2 0x01#7
  simp [decodeEncoded, encodeCommand, decodeCommand, h0, h1, h2, h3, h4, h5]

theorem EncodeDecode.swait (c : BitVec 3) (rd : Reg5) (rs1 : Reg5) (rs2 : Reg5) : EncodeDecode.Statement (.swait c rd rs1 rs2) := by
  intro hw e he
  cases he
  obtain ⟨h0, h1, h2, h3, h4, h5, h6⟩ := fields_swait 0x0B#7 rd 2#3 rs1 rs2 c 0#4
  have h7 : (field (0#4 ++ c ++ rs2 ++ rs1 ++ 2#3 ++ rd ++ 0x0B#7 : BitVec 32) 25 7).toNat = c.toNat := by
    have e5 := congrArg BitVec.toNat h5
    have e6 := congrArg BitVec.toNat h6
    rw [field_toNat] at e5 e6 ⊢
    have : (0#4).toNat = 0 := rfl
    omega
  have hc : c.toNat < 4 := of_decide_eq_true hw
  simp [decodeEncoded, decodeCommand, h0, h1, h2, h3, h4, h5, h7, hc]

theorem EncodeDecode.swaitReread (h : Nat) : EncodeDecode.Statement (.swaitReread h) := statement_none rfl

theorem EncodeDecode.swaitTimeout (h : Nat) : EncodeDecode.Statement (.swaitTimeout h) := statement_none rfl

theorem EncodeDecode.disp (rd : Reg5) (rs1 : Reg5) (rs2 : Reg5) : EncodeDecode.Statement (.disp rd rs1 rs2) := by
  refine statement_some rfl ?_
  obtain ⟨h0, h1, h2, h3, h4, h5⟩ := fields_command 0x0B#7 rd 3#3 rs1 rs2 0x00#7
  simp [decodeEncoded, encodeCommand, decodeCommand, h0, h1, h2, h3, h4, h5]

theorem EncodeDecode.qctlWrite (q : Nat) (v : BitVec 64) : EncodeDecode.Statement (.qctlWrite q v) := statement_none rfl

theorem EncodeDecode.queueReset (q : Nat) : EncodeDecode.Statement (.queueReset q) := statement_none rfl

theorem EncodeDecode.launchPacket (q : Nat) (idx : Nat) : EncodeDecode.Statement (.launchPacket q idx) := statement_none rfl

theorem EncodeDecode.copyPacket (q : Nat) (idx : Nat) : EncodeDecode.Statement (.copyPacket q idx) := statement_none rfl

theorem EncodeDecode.signalPacket (q : Nat) (idx : Nat) : EncodeDecode.Statement (.signalPacket q idx) := statement_none rfl

theorem EncodeDecode.waitPacket (q : Nat) (idx : Nat) : EncodeDecode.Statement (.waitPacket q idx) := statement_none rfl

theorem EncodeDecode.waitPacketTimeout (q : Nat) (idx : Nat) : EncodeDecode.Statement (.waitPacketTimeout q idx) := statement_none rfl

theorem EncodeDecode.condPacket (q : Nat) (idx : Nat) : EncodeDecode.Statement (.condPacket q idx) := statement_none rfl

theorem EncodeDecode.barrierAndPacket (q : Nat) (idx : Nat) : EncodeDecode.Statement (.barrierAndPacket q idx) := statement_none rfl

theorem EncodeDecode.barrierAndTimeout (q : Nat) (idx : Nat) : EncodeDecode.Statement (.barrierAndTimeout q idx) := statement_none rfl

theorem EncodeDecode.treeOpen (q : Nat) (idx : Nat) : EncodeDecode.Statement (.treeOpen q idx) := statement_none rfl

theorem EncodeDecode.treeFork (q : Nat) (idx : Nat) : EncodeDecode.Statement (.treeFork q idx) := statement_none rfl

theorem EncodeDecode.treePrune (q : Nat) (idx : Nat) : EncodeDecode.Statement (.treePrune q idx) := statement_none rfl

theorem EncodeDecode.treeCommit (q : Nat) (idx : Nat) : EncodeDecode.Statement (.treeCommit q idx) := statement_none rfl

theorem EncodeDecode.treeRetire (q : Nat) (idx : Nat) : EncodeDecode.Statement (.treeRetire q idx) := statement_none rfl

theorem EncodeDecode.registerRebuildLaunch (q : Nat) (idx : Nat) : EncodeDecode.Statement (.registerRebuildLaunch q idx) := statement_none rfl

theorem EncodeDecode.packetCompletion (q : Nat) (idx : Nat) : EncodeDecode.Statement (.packetCompletion q idx) := statement_none rfl

theorem EncodeDecode.launchCompletion (handle : Nat) : EncodeDecode.Statement (.launchCompletion handle) := statement_none rfl

theorem EncodeDecode.runtimeFirmwareLoad (v : BitVec 32) : EncodeDecode.Statement (.runtimeFirmwareLoad v) := statement_none rfl

theorem EncodeDecode.placement : EncodeDecode.Statement .placement := statement_none rfl

theorem EncodeDecode.preemptionDecision (now : Nat) : EncodeDecode.Statement (.preemptionDecision now) := statement_none rfl

theorem EncodeDecode.contextSave (core : Nat) (slot : Nat) : EncodeDecode.Statement (.contextSave core slot) := statement_none rfl

theorem EncodeDecode.contextRestore (core : Nat) (slot : Nat) : EncodeDecode.Statement (.contextRestore core slot) := statement_none rfl

theorem EncodeDecode.vacateAndFence (v : BitVec 64) : EncodeDecode.Statement (.vacateAndFence v) := statement_none rfl

theorem EncodeDecode.unfence (v : BitVec 64) : EncodeDecode.Statement (.unfence v) := statement_none rfl

theorem EncodeDecode.binTimerExpiry (core : Nat) (bin : Nat) : EncodeDecode.Statement (.binTimerExpiry core bin) := statement_none rfl

theorem EncodeDecode.binTeamStart (core : Nat) : EncodeDecode.Statement (.binTeamStart core) := statement_none rfl

theorem EncodeDecode.ctimeTick (core : Nat) : EncodeDecode.Statement (.ctimeTick core) := statement_none rfl

theorem EncodeDecode.clauseStart (core : Nat) : EncodeDecode.Statement (.clauseStart core) := statement_none rfl

theorem EncodeDecode.clauseCompletion (core : Nat) (slot : Nat) (path : Nat) : EncodeDecode.Statement (.clauseCompletion core slot path) := statement_none rfl

theorem EncodeDecode.pairedStepStart (core : Nat) : EncodeDecode.Statement (.pairedStepStart core) := statement_none rfl

theorem EncodeDecode.matrixStep (core : Nat) : EncodeDecode.Statement (.matrixStep core) := statement_none rfl

theorem EncodeDecode.l2partWrite (n : Nat) (v : BitVec 64) : EncodeDecode.Statement (.l2partWrite n v) := statement_none rfl

theorem EncodeDecode.l2asidWrite (n : Nat) (v : BitVec 64) : EncodeDecode.Statement (.l2asidWrite n v) := statement_none rfl

theorem EncodeDecode.ftwrWrite (v : BitVec 64) : EncodeDecode.Statement (.ftwrWrite v) := statement_none rfl

theorem EncodeDecode.ftrdWrite (v : BitVec 64) : EncodeDecode.Statement (.ftrdWrite v) := statement_none rfl

theorem EncodeDecode.pfReplay (fid : BitVec 32) : EncodeDecode.Statement (.pfReplay fid) := statement_none rfl

theorem EncodeDecode.pfFail (fid : BitVec 32) : EncodeDecode.Statement (.pfFail fid) := statement_none rfl

theorem EncodeDecode.faultRecordPost : EncodeDecode.Statement .faultRecordPost := statement_none rfl

theorem EncodeDecode.tsreqWrite (v : BitVec 64) : EncodeDecode.Statement (.tsreqWrite v) := statement_none rfl

theorem EncodeDecode.shootdownComplete (id : Nat) : EncodeDecode.Statement (.shootdownComplete id) := statement_none rfl

theorem EncodeDecode.migreqWrite (v : BitVec 64) : EncodeDecode.Statement (.migreqWrite v) := statement_none rfl

theorem EncodeDecode.scctlWrite (v : BitVec 64) : EncodeDecode.Statement (.scctlWrite v) := statement_none rfl

theorem EncodeDecode.scytheSweepStep : EncodeDecode.Statement .scytheSweepStep := statement_none rfl

theorem EncodeDecode.sctailWrite (v : BitVec 32) : EncodeDecode.Statement (.sctailWrite v) := statement_none rfl

theorem EncodeDecode.kvbaseWrite (v : BitVec 64) : EncodeDecode.Statement (.kvbaseWrite v) := statement_none rfl

theorem EncodeDecode.kvDonate (v : BitVec 64) : EncodeDecode.Statement (.kvDonate v) := statement_none rfl

theorem EncodeDecode.kvReclaim (v : BitVec 64) : EncodeDecode.Statement (.kvReclaim v) := statement_none rfl

theorem EncodeDecode.kvfrdWrite (v : BitVec 64) : EncodeDecode.Statement (.kvfrdWrite v) := statement_none rfl

theorem EncodeDecode.kvCopy (id : Nat) : EncodeDecode.Statement (.kvCopy id) := statement_none rfl

theorem EncodeDecode.kvRebuildStart (frame : Nat) : EncodeDecode.Statement (.kvRebuildStart frame) := statement_none rfl

theorem EncodeDecode.kvRebuildEnd (slot : Nat) : EncodeDecode.Statement (.kvRebuildEnd slot) := statement_none rfl

theorem EncodeDecode.pruneRelease (slot : Nat) : EncodeDecode.Statement (.pruneRelease slot) := statement_none rfl

theorem EncodeDecode.rangeLockGrant : EncodeDecode.Statement .rangeLockGrant := statement_none rfl

theorem EncodeDecode.rangeLockRelease (id : Nat) : EncodeDecode.Statement (.rangeLockRelease id) := statement_none rfl

theorem EncodeDecode.copyLineWrite (id : Nat) : EncodeDecode.Statement (.copyLineWrite id) := statement_none rfl

theorem EncodeDecode.copyCompletion (id : Nat) : EncodeDecode.Statement (.copyCompletion id) := statement_none rfl

theorem EncodeDecode.copyFailure (id : Nat) : EncodeDecode.Statement (.copyFailure id) := statement_none rfl

theorem EncodeDecode.contextTimerExpiry (core : Nat) (slot : Nat) : EncodeDecode.Statement (.contextTimerExpiry core slot) := statement_none rfl

theorem EncodeDecode.wallDeadlineExpiry (core : Nat) (slot : Nat) : EncodeDecode.Statement (.wallDeadlineExpiry core slot) := statement_none rfl

theorem EncodeDecode.dmpstatWrite (v : BitVec 64) : EncodeDecode.Statement (.dmpstatWrite v) := statement_none rfl

theorem EncodeDecode.journalRecord (v : BitVec 32) : EncodeDecode.Statement (.journalRecord v) := statement_none rfl

theorem EncodeDecode.journalReplay (v : BitVec 32) : EncodeDecode.Statement (.journalReplay v) := statement_none rfl

theorem EncodeDecode.cxctlWrite (v : BitVec 64) : EncodeDecode.Statement (.cxctlWrite v) := statement_none rfl

theorem EncodeDecode.dbgAttach (r : DebugReq) : EncodeDecode.Statement (.dbgAttach r) := statement_none rfl

theorem EncodeDecode.dbgDetach (r : DebugReq) : EncodeDecode.Statement (.dbgDetach r) := statement_none rfl

theorem EncodeDecode.dbgList (r : DebugReq) : EncodeDecode.Statement (.dbgList r) := statement_none rfl

theorem EncodeDecode.dbgPoll (r : DebugReq) : EncodeDecode.Statement (.dbgPoll r) := statement_none rfl

theorem EncodeDecode.dbgHold (r : DebugReq) : EncodeDecode.Statement (.dbgHold r) := statement_none rfl

theorem EncodeDecode.dbgResume (r : DebugReq) : EncodeDecode.Statement (.dbgResume r) := statement_none rfl

theorem EncodeDecode.dbgStep (r : DebugReq) : EncodeDecode.Statement (.dbgStep r) := statement_none rfl

theorem EncodeDecode.dbgSetbp (r : DebugReq) : EncodeDecode.Statement (.dbgSetbp r) := statement_none rfl

theorem EncodeDecode.dbgClrbp (r : DebugReq) : EncodeDecode.Statement (.dbgClrbp r) := statement_none rfl

theorem EncodeDecode.dbgSetwp (r : DebugReq) : EncodeDecode.Statement (.dbgSetwp r) := statement_none rfl

theorem EncodeDecode.dbgClrwp (r : DebugReq) : EncodeDecode.Statement (.dbgClrwp r) := statement_none rfl

theorem EncodeDecode.dbgRdreg (r : DebugReq) : EncodeDecode.Statement (.dbgRdreg r) := statement_none rfl

theorem EncodeDecode.dbgWrreg (r : DebugReq) : EncodeDecode.Statement (.dbgWrreg r) := statement_none rfl

theorem EncodeDecode.dbgRdmem (r : DebugReq) : EncodeDecode.Statement (.dbgRdmem r) := statement_none rfl

theorem EncodeDecode.registerWrite (off : Nat) (v : BitVec 64) : EncodeDecode.Statement (.registerWrite off v) := statement_none rfl

theorem EncodeDecode.add (sd : Reg6) (sa : Reg6) (sb : Reg6) : EncodeDecode.Statement (.add sd sa sb) :=
  statement_some rfl (decode_int _ _ _ _ _ rfl)

theorem EncodeDecode.sub (sd : Reg6) (sa : Reg6) (sb : Reg6) : EncodeDecode.Statement (.sub sd sa sb) :=
  statement_some rfl (decode_int _ _ _ _ _ rfl)

theorem EncodeDecode.and (sd : Reg6) (sa : Reg6) (sb : Reg6) : EncodeDecode.Statement (.and sd sa sb) :=
  statement_some rfl (decode_int _ _ _ _ _ rfl)

theorem EncodeDecode.or (sd : Reg6) (sa : Reg6) (sb : Reg6) : EncodeDecode.Statement (.or sd sa sb) :=
  statement_some rfl (decode_int _ _ _ _ _ rfl)

theorem EncodeDecode.xor (sd : Reg6) (sa : Reg6) (sb : Reg6) : EncodeDecode.Statement (.xor sd sa sb) :=
  statement_some rfl (decode_int _ _ _ _ _ rfl)

theorem EncodeDecode.andn (sd : Reg6) (sa : Reg6) (sb : Reg6) : EncodeDecode.Statement (.andn sd sa sb) :=
  statement_some rfl (decode_int _ _ _ _ _ rfl)

theorem EncodeDecode.shl (sd : Reg6) (sa : Reg6) (sb : Reg6) : EncodeDecode.Statement (.shl sd sa sb) :=
  statement_some rfl (decode_int _ _ _ _ _ rfl)

theorem EncodeDecode.shr (sd : Reg6) (sa : Reg6) (sb : Reg6) : EncodeDecode.Statement (.shr sd sa sb) :=
  statement_some rfl (decode_int _ _ _ _ _ rfl)

theorem EncodeDecode.sar (sd : Reg6) (sa : Reg6) (sb : Reg6) : EncodeDecode.Statement (.sar sd sa sb) :=
  statement_some rfl (decode_int _ _ _ _ _ rfl)

theorem EncodeDecode.rol (sd : Reg6) (sa : Reg6) (sb : Reg6) : EncodeDecode.Statement (.rol sd sa sb) :=
  statement_some rfl (decode_int _ _ _ _ _ rfl)

theorem EncodeDecode.ror (sd : Reg6) (sa : Reg6) (sb : Reg6) : EncodeDecode.Statement (.ror sd sa sb) :=
  statement_some rfl (decode_int _ _ _ _ _ rfl)

theorem EncodeDecode.slt (sd : Reg6) (sa : Reg6) (sb : Reg6) : EncodeDecode.Statement (.slt sd sa sb) :=
  statement_some rfl (decode_int _ _ _ _ _ rfl)

theorem EncodeDecode.sltu (sd : Reg6) (sa : Reg6) (sb : Reg6) : EncodeDecode.Statement (.sltu sd sa sb) :=
  statement_some rfl (decode_int _ _ _ _ _ rfl)

theorem EncodeDecode.seq (sd : Reg6) (sa : Reg6) (sb : Reg6) : EncodeDecode.Statement (.seq sd sa sb) :=
  statement_some rfl (decode_int _ _ _ _ _ rfl)

theorem EncodeDecode.min (sd : Reg6) (sa : Reg6) (sb : Reg6) : EncodeDecode.Statement (.min sd sa sb) :=
  statement_some rfl (decode_int _ _ _ _ _ rfl)

theorem EncodeDecode.max (sd : Reg6) (sa : Reg6) (sb : Reg6) : EncodeDecode.Statement (.max sd sa sb) :=
  statement_some rfl (decode_int _ _ _ _ _ rfl)

theorem EncodeDecode.minu (sd : Reg6) (sa : Reg6) (sb : Reg6) : EncodeDecode.Statement (.minu sd sa sb) :=
  statement_some rfl (decode_int _ _ _ _ _ rfl)

theorem EncodeDecode.maxu (sd : Reg6) (sa : Reg6) (sb : Reg6) : EncodeDecode.Statement (.maxu sd sa sb) :=
  statement_some rfl (decode_int _ _ _ _ _ rfl)

theorem EncodeDecode.mul (sd : Reg6) (sa : Reg6) (sb : Reg6) : EncodeDecode.Statement (.mul sd sa sb) :=
  statement_some rfl (decode_int _ _ _ _ _ rfl)

theorem EncodeDecode.mulh (sd : Reg6) (sa : Reg6) (sb : Reg6) : EncodeDecode.Statement (.mulh sd sa sb) :=
  statement_some rfl (decode_int _ _ _ _ _ rfl)

theorem EncodeDecode.mulhu (sd : Reg6) (sa : Reg6) (sb : Reg6) : EncodeDecode.Statement (.mulhu sd sa sb) :=
  statement_some rfl (decode_int _ _ _ _ _ rfl)

theorem EncodeDecode.div (sd : Reg6) (sa : Reg6) (sb : Reg6) : EncodeDecode.Statement (.div sd sa sb) :=
  statement_some rfl (decode_int _ _ _ _ _ rfl)

theorem EncodeDecode.divu (sd : Reg6) (sa : Reg6) (sb : Reg6) : EncodeDecode.Statement (.divu sd sa sb) :=
  statement_some rfl (decode_int _ _ _ _ _ rfl)

theorem EncodeDecode.rem (sd : Reg6) (sa : Reg6) (sb : Reg6) : EncodeDecode.Statement (.rem sd sa sb) :=
  statement_some rfl (decode_int _ _ _ _ _ rfl)

theorem EncodeDecode.remu (sd : Reg6) (sa : Reg6) (sb : Reg6) : EncodeDecode.Statement (.remu sd sa sb) :=
  statement_some rfl (decode_int _ _ _ _ _ rfl)

theorem EncodeDecode.clz (sd : Reg6) (sa : Reg6) (sb : Reg6) : EncodeDecode.Statement (.clz sd sa sb) :=
  statement_some rfl (decode_int _ _ _ _ _ rfl)

theorem EncodeDecode.ctz (sd : Reg6) (sa : Reg6) (sb : Reg6) : EncodeDecode.Statement (.ctz sd sa sb) :=
  statement_some rfl (decode_int _ _ _ _ _ rfl)

theorem EncodeDecode.popc (sd : Reg6) (sa : Reg6) (sb : Reg6) : EncodeDecode.Statement (.popc sd sa sb) :=
  statement_some rfl (decode_int _ _ _ _ _ rfl)

theorem EncodeDecode.sext (sd : Reg6) (sa : Reg6) (sb : Reg6) : EncodeDecode.Statement (.sext sd sa sb) :=
  statement_some rfl (decode_int _ _ _ _ _ rfl)

theorem EncodeDecode.addi (sd : Reg6) (sa : Reg6) (imm : BitVec 13) : EncodeDecode.Statement (.addi sd sa imm) :=
  statement_some rfl (decode_si 0x02#7 _ _ _ _ rfl rfl)

theorem EncodeDecode.andi (sd : Reg6) (sa : Reg6) (imm : BitVec 13) : EncodeDecode.Statement (.andi sd sa imm) :=
  statement_some rfl (decode_si 0x03#7 _ _ _ _ rfl rfl)

theorem EncodeDecode.ori (sd : Reg6) (sa : Reg6) (imm : BitVec 13) : EncodeDecode.Statement (.ori sd sa imm) :=
  statement_some rfl (decode_si 0x04#7 _ _ _ _ rfl rfl)

theorem EncodeDecode.xori (sd : Reg6) (sa : Reg6) (imm : BitVec 13) : EncodeDecode.Statement (.xori sd sa imm) :=
  statement_some rfl (decode_si 0x05#7 _ _ _ _ rfl rfl)

theorem EncodeDecode.shli (sd : Reg6) (sa : Reg6) (imm : BitVec 13) : EncodeDecode.Statement (.shli sd sa imm) :=
  statement_some rfl (decode_si 0x06#7 _ _ _ _ rfl rfl)

theorem EncodeDecode.shri (sd : Reg6) (sa : Reg6) (imm : BitVec 13) : EncodeDecode.Statement (.shri sd sa imm) :=
  statement_some rfl (decode_si 0x07#7 _ _ _ _ rfl rfl)

theorem EncodeDecode.sari (sd : Reg6) (sa : Reg6) (imm : BitVec 13) : EncodeDecode.Statement (.sari sd sa imm) :=
  statement_some rfl (decode_si 0x08#7 _ _ _ _ rfl rfl)

theorem EncodeDecode.slti (sd : Reg6) (sa : Reg6) (imm : BitVec 13) : EncodeDecode.Statement (.slti sd sa imm) :=
  statement_some rfl (decode_si 0x09#7 _ _ _ _ rfl rfl)

theorem EncodeDecode.sltiu (sd : Reg6) (sa : Reg6) (imm : BitVec 13) : EncodeDecode.Statement (.sltiu sd sa imm) :=
  statement_some rfl (decode_si 0x0A#7 _ _ _ _ rfl rfl)

theorem EncodeDecode.lui (sd : Reg6) (imm : BitVec 19) : EncodeDecode.Statement (.lui sd imm) :=
  statement_some rfl (decode_su 0x0B#7 _ _ _ rfl rfl rfl rfl)

theorem EncodeDecode.addpc (sd : Reg6) (imm : BitVec 19) : EncodeDecode.Statement (.addpc sd imm) :=
  statement_some rfl (decode_su 0x0C#7 _ _ _ rfl rfl rfl rfl)

theorem EncodeDecode.beq (sa : Reg6) (sb : Reg6) (off : BitVec 13) : EncodeDecode.Statement (.beq sa sb off) :=
  statement_some rfl (decode_sb 0x10#7 _ _ _ _ rfl rfl rfl)

theorem EncodeDecode.bne (sa : Reg6) (sb : Reg6) (off : BitVec 13) : EncodeDecode.Statement (.bne sa sb off) :=
  statement_some rfl (decode_sb 0x11#7 _ _ _ _ rfl rfl rfl)

theorem EncodeDecode.blt (sa : Reg6) (sb : Reg6) (off : BitVec 13) : EncodeDecode.Statement (.blt sa sb off) :=
  statement_some rfl (decode_sb 0x12#7 _ _ _ _ rfl rfl rfl)

theorem EncodeDecode.bge (sa : Reg6) (sb : Reg6) (off : BitVec 13) : EncodeDecode.Statement (.bge sa sb off) :=
  statement_some rfl (decode_sb 0x13#7 _ _ _ _ rfl rfl rfl)

theorem EncodeDecode.bltu (sa : Reg6) (sb : Reg6) (off : BitVec 13) : EncodeDecode.Statement (.bltu sa sb off) :=
  statement_some rfl (decode_sb 0x14#7 _ _ _ _ rfl rfl rfl)

theorem EncodeDecode.bgeu (sa : Reg6) (sb : Reg6) (off : BitVec 13) : EncodeDecode.Statement (.bgeu sa sb off) :=
  statement_some rfl (decode_sb 0x15#7 _ _ _ _ rfl rfl rfl)

theorem EncodeDecode.j (off : BitVec 25) : EncodeDecode.Statement (.j off) :=
  statement_some rfl (decode_sj 0x18#7 _ _ rfl rfl rfl rfl rfl)

theorem EncodeDecode.call (off : BitVec 25) : EncodeDecode.Statement (.call off) :=
  statement_some rfl (decode_sj 0x19#7 _ _ rfl rfl rfl rfl rfl)

theorem EncodeDecode.lc (off : BitVec 25) : EncodeDecode.Statement (.lc off) :=
  statement_some rfl (decode_sj 0x1A#7 _ _ rfl rfl rfl rfl rfl)

theorem EncodeDecode.split (pn : BitVec 3) (toff : BitVec 11) (joff : BitVec 11) : EncodeDecode.Statement (.split pn toff joff) := by
  refine statement_some rfl ?_
  obtain ⟨h0, h1, h2, h3⟩ := fields_split 0x1B#7 joff toff pn
  simp [decodeEncoded, decodeScalar, h0, h1, h2, h3]

theorem EncodeDecode.jr (sd : Reg6) (sa : Reg6) (imm : BitVec 13) : EncodeDecode.Statement (.jr sd sa imm) :=
  statement_some rfl (decode_si 0x1C#7 _ _ _ _ rfl rfl)

theorem EncodeDecode.waitf (sd : Reg6) (sa : Reg6) (imm : BitVec 13) : EncodeDecode.Statement (.waitf sd sa imm) :=
  statement_some rfl (decode_si 0x1D#7 _ _ _ _ rfl rfl)

theorem EncodeDecode.ld (ord : BitVec 2) (scp : BitVec 2) (st : BitVec 1) (sz : BitVec 2) (sx : BitVec 1) (off : BitVec 5) (sd : Reg6) (sa : Reg6) : EncodeDecode.Statement (.ld ord scp st sz sx off sd sa) := by
  refine statement_some rfl ?_
  obtain ⟨h0, h1, h2, h3, h4, h5, h6, h7, h8⟩ := fields_mem 0x20#7 sd sa off sx sz st scp ord
  simp [decodeEncoded, decodeScalar, h0, h1, h2, h3, h4, h5, h6, h7, h8]

theorem EncodeDecode.st (ord : BitVec 2) (scp : BitVec 2) (st : BitVec 1) (sz : BitVec 2) (sx : BitVec 1) (off : BitVec 5) (sb : Reg6) (sa : Reg6) : EncodeDecode.Statement (.st ord scp st sz sx off sb sa) := by
  refine statement_some rfl ?_
  obtain ⟨h0, h1, h2, h3, h4, h5, h6, h7, h8⟩ := fields_mem 0x21#7 sa sb off sx sz st scp ord
  simp [decodeEncoded, decodeScalar, h0, h1, h2, h3, h4, h5, h6, h7, h8]

theorem EncodeDecode.amoadd (ord : BitVec 2) (scp : BitVec 2) (w : BitVec 1) (sd : Reg6) (sa : Reg6) (sb : Reg6) : EncodeDecode.Statement (.amoadd ord scp w sd sa sb) :=
  statement_some rfl (decode_amo 0x0#4 ord scp w sd sa sb _ rfl)

theorem EncodeDecode.amoand (ord : BitVec 2) (scp : BitVec 2) (w : BitVec 1) (sd : Reg6) (sa : Reg6) (sb : Reg6) : EncodeDecode.Statement (.amoand ord scp w sd sa sb) :=
  statement_some rfl (decode_amo 0x1#4 ord scp w sd sa sb _ rfl)

theorem EncodeDecode.amoor (ord : BitVec 2) (scp : BitVec 2) (w : BitVec 1) (sd : Reg6) (sa : Reg6) (sb : Reg6) : EncodeDecode.Statement (.amoor ord scp w sd sa sb) :=
  statement_some rfl (decode_amo 0x2#4 ord scp w sd sa sb _ rfl)

theorem EncodeDecode.amoxor (ord : BitVec 2) (scp : BitVec 2) (w : BitVec 1) (sd : Reg6) (sa : Reg6) (sb : Reg6) : EncodeDecode.Statement (.amoxor ord scp w sd sa sb) :=
  statement_some rfl (decode_amo 0x3#4 ord scp w sd sa sb _ rfl)

theorem EncodeDecode.amomin (ord : BitVec 2) (scp : BitVec 2) (w : BitVec 1) (sd : Reg6) (sa : Reg6) (sb : Reg6) : EncodeDecode.Statement (.amomin ord scp w sd sa sb) :=
  statement_some rfl (decode_amo 0x4#4 ord scp w sd sa sb _ rfl)

theorem EncodeDecode.amomax (ord : BitVec 2) (scp : BitVec 2) (w : BitVec 1) (sd : Reg6) (sa : Reg6) (sb : Reg6) : EncodeDecode.Statement (.amomax ord scp w sd sa sb) :=
  statement_some rfl (decode_amo 0x5#4 ord scp w sd sa sb _ rfl)

theorem EncodeDecode.amominu (ord : BitVec 2) (scp : BitVec 2) (w : BitVec 1) (sd : Reg6) (sa : Reg6) (sb : Reg6) : EncodeDecode.Statement (.amominu ord scp w sd sa sb) :=
  statement_some rfl (decode_amo 0x6#4 ord scp w sd sa sb _ rfl)

theorem EncodeDecode.amomaxu (ord : BitVec 2) (scp : BitVec 2) (w : BitVec 1) (sd : Reg6) (sa : Reg6) (sb : Reg6) : EncodeDecode.Statement (.amomaxu ord scp w sd sa sb) :=
  statement_some rfl (decode_amo 0x7#4 ord scp w sd sa sb _ rfl)

theorem EncodeDecode.amoswap (ord : BitVec 2) (scp : BitVec 2) (w : BitVec 1) (sd : Reg6) (sa : Reg6) (sb : Reg6) : EncodeDecode.Statement (.amoswap ord scp w sd sa sb) :=
  statement_some rfl (decode_amo 0x8#4 ord scp w sd sa sb _ rfl)

theorem EncodeDecode.amocas (ord : BitVec 2) (scp : BitVec 2) (w : BitVec 1) (sd : Reg6) (sa : Reg6) (sb : Reg6) : EncodeDecode.Statement (.amocas ord scp w sd sa sb) :=
  statement_some rfl (decode_amo 0x9#4 ord scp w sd sa sb _ rfl)

theorem EncodeDecode.fence (fn : BitVec 7) (sd : Reg6) (sa : Reg6) (sb : Reg6) : EncodeDecode.Statement (.fence fn sd sa sb) := by
  refine statement_some rfl ?_
  obtain ⟨h0, h1, h2, h3, h4⟩ := fields_sr 0x28#7 sd sa sb fn
  simp [decodeEncoded, encodeSR, decodeScalar, h0, h1, h2, h3, h4]

theorem EncodeDecode.tfence (fn : BitVec 7) (sd : Reg6) (sa : Reg6) (sb : Reg6) : EncodeDecode.Statement (.tfence fn sd sa sb) := by
  refine statement_some rfl ?_
  obtain ⟨h0, h1, h2, h3, h4⟩ := fields_sr 0x29#7 sd sa sb fn
  simp [decodeEncoded, encodeSR, decodeScalar, h0, h1, h2, h3, h4]

theorem EncodeDecode.tshoot (sd : Reg6) (sa : Reg6) (sb : Reg6) : EncodeDecode.Statement (.tshoot sd sa sb) := by
  refine statement_some rfl ?_
  obtain ⟨h0, h1, h2, h3, h4⟩ := fields_sr 0x2A#7 sd sa sb 0x00#7
  simp [decodeEncoded, encodeSR, decodeScalar, h0, h1, h2, h3, h4]

theorem EncodeDecode.tsync (sd : Reg6) (sa : Reg6) (sb : Reg6) : EncodeDecode.Statement (.tsync sd sa sb) := by
  refine statement_some rfl ?_
  obtain ⟨h0, h1, h2, h3, h4⟩ := fields_sr 0x2B#7 sd sa sb 0x00#7
  simp [decodeEncoded, encodeSR, decodeScalar, h0, h1, h2, h3, h4]

theorem EncodeDecode.crr (sd : Reg6) (sa : Reg6) (imm : BitVec 13) : EncodeDecode.Statement (.crr sd sa imm) :=
  statement_some rfl (decode_si 0x2E#7 _ _ _ _ rfl rfl)

theorem EncodeDecode.crw (sd : Reg6) (sa : Reg6) (imm : BitVec 13) : EncodeDecode.Statement (.crw sd sa imm) :=
  statement_some rfl (decode_si 0x2F#7 _ _ _ _ rfl rfl)

theorem EncodeDecode.join (sd : Reg6) (sa : Reg6) (sb : Reg6) : EncodeDecode.Statement (.join sd sa sb) :=
  statement_some rfl (decode_system _ _ _ _ _ rfl)

theorem EncodeDecode.spawn (sd : Reg6) (sa : Reg6) (sb : Reg6) : EncodeDecode.Statement (.spawn sd sa sb) :=
  statement_some rfl (decode_system _ _ _ _ _ rfl)

theorem EncodeDecode.evpop (sd : Reg6) (sa : Reg6) (sb : Reg6) : EncodeDecode.Statement (.evpop sd sa sb) :=
  statement_some rfl (decode_system _ _ _ _ _ rfl)

theorem EncodeDecode.setfmt (sd : Reg6) (sa : Reg6) (sb : Reg6) : EncodeDecode.Statement (.setfmt sd sa sb) :=
  statement_some rfl (decode_system _ _ _ _ _ rfl)

theorem EncodeDecode.vcommit (sd : Reg6) (sa : Reg6) (sb : Reg6) : EncodeDecode.Statement (.vcommit sd sa sb) :=
  statement_some rfl (decode_system _ _ _ _ _ rfl)

theorem EncodeDecode.ringadv (sd : Reg6) (sa : Reg6) (sb : Reg6) : EncodeDecode.Statement (.ringadv sd sa sb) :=
  statement_some rfl (decode_system _ _ _ _ _ rfl)

theorem EncodeDecode.endPath (sd : Reg6) (sa : Reg6) (sb : Reg6) : EncodeDecode.Statement (.endPath sd sa sb) :=
  statement_some rfl (decode_system _ _ _ _ _ rfl)

theorem EncodeDecode.trap (sd : Reg6) (sa : Reg6) (sb : Reg6) : EncodeDecode.Statement (.trap sd sa sb) :=
  statement_some rfl (decode_system _ _ _ _ _ rfl)

theorem EncodeDecode.eret (sd : Reg6) (sa : Reg6) (sb : Reg6) : EncodeDecode.Statement (.eret sd sa sb) :=
  statement_some rfl (decode_system _ _ _ _ _ rfl)

theorem EncodeDecode.brk (sd : Reg6) (sa : Reg6) (sb : Reg6) : EncodeDecode.Statement (.brk sd sa sb) :=
  statement_some rfl (decode_system _ _ _ _ _ rfl)

theorem EncodeDecode.prog (sd : Reg6) (sa : Reg6) (sb : Reg6) : EncodeDecode.Statement (.prog sd sa sb) :=
  statement_some rfl (decode_system _ _ _ _ _ rfl)

theorem EncodeDecode.tnopen (sd : Reg6) (sa : Reg6) (sb : Reg6) : EncodeDecode.Statement (.tnopen sd sa sb) :=
  statement_some rfl (decode_tree _ _ _ _ _ rfl)

theorem EncodeDecode.tnfork (sd : Reg6) (sa : Reg6) (sb : Reg6) : EncodeDecode.Statement (.tnfork sd sa sb) :=
  statement_some rfl (decode_tree _ _ _ _ _ rfl)

theorem EncodeDecode.tnappend (sd : Reg6) (sa : Reg6) (sb : Reg6) : EncodeDecode.Statement (.tnappend sd sa sb) :=
  statement_some rfl (decode_tree _ _ _ _ _ rfl)

theorem EncodeDecode.tnprune (sd : Reg6) (sa : Reg6) (sb : Reg6) : EncodeDecode.Statement (.tnprune sd sa sb) :=
  statement_some rfl (decode_tree _ _ _ _ _ rfl)

theorem EncodeDecode.tncommit (sd : Reg6) (sa : Reg6) (sb : Reg6) : EncodeDecode.Statement (.tncommit sd sa sb) :=
  statement_some rfl (decode_tree _ _ _ _ _ rfl)

theorem EncodeDecode.tnretire (sd : Reg6) (sa : Reg6) (sb : Reg6) : EncodeDecode.Statement (.tnretire sd sa sb) :=
  statement_some rfl (decode_tree _ _ _ _ _ rfl)

theorem EncodeDecode.tnbind (sd : Reg6) (sa : Reg6) (sb : Reg6) : EncodeDecode.Statement (.tnbind sd sa sb) :=
  statement_some rfl (decode_tree _ _ _ _ _ rfl)

theorem EncodeDecode.tnstat (sd : Reg6) (sa : Reg6) (sb : Reg6) : EncodeDecode.Statement (.tnstat sd sa sb) :=
  statement_some rfl (decode_tree _ _ _ _ _ rfl)

theorem EncodeDecode.tntok (sd : Reg6) (sa : Reg6) (sb : Reg6) : EncodeDecode.Statement (.tntok sd sa sb) :=
  statement_some rfl (decode_tree _ _ _ _ _ rfl)

theorem EncodeDecode.vadd (f : LaneFields) : EncodeDecode.Statement (.vadd f) :=
  statement_some rfl (decode_lane _ f _ rfl)

theorem EncodeDecode.vsub (f : LaneFields) : EncodeDecode.Statement (.vsub f) :=
  statement_some rfl (decode_lane _ f _ rfl)

theorem EncodeDecode.vmul (f : LaneFields) : EncodeDecode.Statement (.vmul f) :=
  statement_some rfl (decode_lane _ f _ rfl)

theorem EncodeDecode.vmulh (f : LaneFields) : EncodeDecode.Statement (.vmulh f) :=
  statement_some rfl (decode_lane _ f _ rfl)

theorem EncodeDecode.vmad (f : LaneFields) : EncodeDecode.Statement (.vmad f) :=
  statement_some rfl (decode_lane _ f _ rfl)

theorem EncodeDecode.vdiv (f : LaneFields) : EncodeDecode.Statement (.vdiv f) :=
  statement_some rfl (decode_lane _ f _ rfl)

theorem EncodeDecode.vrem (f : LaneFields) : EncodeDecode.Statement (.vrem f) :=
  statement_some rfl (decode_lane _ f _ rfl)

theorem EncodeDecode.vmin (f : LaneFields) : EncodeDecode.Statement (.vmin f) :=
  statement_some rfl (decode_lane _ f _ rfl)

theorem EncodeDecode.vmax (f : LaneFields) : EncodeDecode.Statement (.vmax f) :=
  statement_some rfl (decode_lane _ f _ rfl)

theorem EncodeDecode.vabs (f : LaneFields) : EncodeDecode.Statement (.vabs f) :=
  statement_some rfl (decode_lane _ f _ rfl)

theorem EncodeDecode.vneg (f : LaneFields) : EncodeDecode.Statement (.vneg f) :=
  statement_some rfl (decode_lane _ f _ rfl)

theorem EncodeDecode.vadds (f : LaneFields) : EncodeDecode.Statement (.vadds f) :=
  statement_some rfl (decode_lane _ f _ rfl)

theorem EncodeDecode.vsubs (f : LaneFields) : EncodeDecode.Statement (.vsubs f) :=
  statement_some rfl (decode_lane _ f _ rfl)

theorem EncodeDecode.vand (f : LaneFields) : EncodeDecode.Statement (.vand f) :=
  statement_some rfl (decode_lane _ f _ rfl)

theorem EncodeDecode.vor (f : LaneFields) : EncodeDecode.Statement (.vor f) :=
  statement_some rfl (decode_lane _ f _ rfl)

theorem EncodeDecode.vxor (f : LaneFields) : EncodeDecode.Statement (.vxor f) :=
  statement_some rfl (decode_lane _ f _ rfl)

theorem EncodeDecode.vnot (f : LaneFields) : EncodeDecode.Statement (.vnot f) :=
  statement_some rfl (decode_lane _ f _ rfl)

theorem EncodeDecode.vandn (f : LaneFields) : EncodeDecode.Statement (.vandn f) :=
  statement_some rfl (decode_lane _ f _ rfl)

theorem EncodeDecode.vshl (f : LaneFields) : EncodeDecode.Statement (.vshl f) :=
  statement_some rfl (decode_lane _ f _ rfl)

theorem EncodeDecode.vshr (f : LaneFields) : EncodeDecode.Statement (.vshr f) :=
  statement_some rfl (decode_lane _ f _ rfl)

theorem EncodeDecode.vrol (f : LaneFields) : EncodeDecode.Statement (.vrol f) :=
  statement_some rfl (decode_lane _ f _ rfl)

theorem EncodeDecode.vclz (f : LaneFields) : EncodeDecode.Statement (.vclz f) :=
  statement_some rfl (decode_lane _ f _ rfl)

theorem EncodeDecode.vpopc (f : LaneFields) : EncodeDecode.Statement (.vpopc f) :=
  statement_some rfl (decode_lane _ f _ rfl)

theorem EncodeDecode.vbrev (f : LaneFields) : EncodeDecode.Statement (.vbrev f) :=
  statement_some rfl (decode_lane _ f _ rfl)

theorem EncodeDecode.vbfx (f : LaneFields) : EncodeDecode.Statement (.vbfx f) :=
  statement_some rfl (decode_lane _ f _ rfl)

theorem EncodeDecode.vmov (f : LaneFields) : EncodeDecode.Statement (.vmov f) :=
  statement_some rfl (decode_lane _ f _ rfl)

theorem EncodeDecode.vsel (f : LaneFields) : EncodeDecode.Statement (.vsel f) :=
  statement_some rfl (decode_lane _ f _ rfl)

theorem EncodeDecode.vcmpeq (f : LaneFields) : EncodeDecode.Statement (.vcmpeq f) :=
  statement_some rfl (decode_lane _ f _ rfl)

theorem EncodeDecode.vcmpne (f : LaneFields) : EncodeDecode.Statement (.vcmpne f) :=
  statement_some rfl (decode_lane _ f _ rfl)

theorem EncodeDecode.vcmplt (f : LaneFields) : EncodeDecode.Statement (.vcmplt f) :=
  statement_some rfl (decode_lane _ f _ rfl)

theorem EncodeDecode.vcmple (f : LaneFields) : EncodeDecode.Statement (.vcmple f) :=
  statement_some rfl (decode_lane _ f _ rfl)

theorem EncodeDecode.vcmpgt (f : LaneFields) : EncodeDecode.Statement (.vcmpgt f) :=
  statement_some rfl (decode_lane _ f _ rfl)

theorem EncodeDecode.vcmpge (f : LaneFields) : EncodeDecode.Statement (.vcmpge f) :=
  statement_some rfl (decode_lane _ f _ rfl)

theorem EncodeDecode.vfadd (f : LaneFields) : EncodeDecode.Statement (.vfadd f) :=
  statement_some rfl (decode_lane _ f _ rfl)

theorem EncodeDecode.vfsub (f : LaneFields) : EncodeDecode.Statement (.vfsub f) :=
  statement_some rfl (decode_lane _ f _ rfl)

theorem EncodeDecode.vfmul (f : LaneFields) : EncodeDecode.Statement (.vfmul f) :=
  statement_some rfl (decode_lane _ f _ rfl)

theorem EncodeDecode.vfma (f : LaneFields) : EncodeDecode.Statement (.vfma f) :=
  statement_some rfl (decode_lane _ f _ rfl)

theorem EncodeDecode.vfmin (f : LaneFields) : EncodeDecode.Statement (.vfmin f) :=
  statement_some rfl (decode_lane _ f _ rfl)

theorem EncodeDecode.vfmax (f : LaneFields) : EncodeDecode.Statement (.vfmax f) :=
  statement_some rfl (decode_lane _ f _ rfl)

theorem EncodeDecode.vfabs (f : LaneFields) : EncodeDecode.Statement (.vfabs f) :=
  statement_some rfl (decode_lane _ f _ rfl)

theorem EncodeDecode.vfneg (f : LaneFields) : EncodeDecode.Statement (.vfneg f) :=
  statement_some rfl (decode_lane _ f _ rfl)

theorem EncodeDecode.vfdiv (f : LaneFields) : EncodeDecode.Statement (.vfdiv f) :=
  statement_some rfl (decode_lane _ f _ rfl)

theorem EncodeDecode.vfsqrt (f : LaneFields) : EncodeDecode.Statement (.vfsqrt f) :=
  statement_some rfl (decode_lane _ f _ rfl)

theorem EncodeDecode.vfrsq (f : LaneFields) : EncodeDecode.Statement (.vfrsq f) :=
  statement_some rfl (decode_lane _ f _ rfl)

theorem EncodeDecode.vfexp2 (f : LaneFields) : EncodeDecode.Statement (.vfexp2 f) :=
  statement_some rfl (decode_lane _ f _ rfl)

theorem EncodeDecode.vflog2 (f : LaneFields) : EncodeDecode.Statement (.vflog2 f) :=
  statement_some rfl (decode_lane _ f _ rfl)

theorem EncodeDecode.vfcmpeq (f : LaneFields) : EncodeDecode.Statement (.vfcmpeq f) :=
  statement_some rfl (decode_lane _ f _ rfl)

theorem EncodeDecode.vfcmpne (f : LaneFields) : EncodeDecode.Statement (.vfcmpne f) :=
  statement_some rfl (decode_lane _ f _ rfl)

theorem EncodeDecode.vfcmplt (f : LaneFields) : EncodeDecode.Statement (.vfcmplt f) :=
  statement_some rfl (decode_lane _ f _ rfl)

theorem EncodeDecode.vfcmple (f : LaneFields) : EncodeDecode.Statement (.vfcmple f) :=
  statement_some rfl (decode_lane _ f _ rfl)

theorem EncodeDecode.vfcmpgt (f : LaneFields) : EncodeDecode.Statement (.vfcmpgt f) :=
  statement_some rfl (decode_lane _ f _ rfl)

theorem EncodeDecode.vfcmpge (f : LaneFields) : EncodeDecode.Statement (.vfcmpge f) :=
  statement_some rfl (decode_lane _ f _ rfl)

theorem EncodeDecode.vcvt (f : LaneFields) : EncodeDecode.Statement (.vcvt f) :=
  statement_some rfl (decode_lane _ f _ rfl)

theorem EncodeDecode.vld (f : LaneFields) : EncodeDecode.Statement (.vld f) :=
  statement_some rfl (decode_lane _ f _ rfl)

theorem EncodeDecode.vst (f : LaneFields) : EncodeDecode.Statement (.vst f) :=
  statement_some rfl (decode_lane _ f _ rfl)

theorem EncodeDecode.vld2 (f : LaneFields) : EncodeDecode.Statement (.vld2 f) :=
  statement_some rfl (decode_lane _ f _ rfl)

theorem EncodeDecode.vst2 (f : LaneFields) : EncodeDecode.Statement (.vst2 f) :=
  statement_some rfl (decode_lane _ f _ rfl)

theorem EncodeDecode.vld4 (f : LaneFields) : EncodeDecode.Statement (.vld4 f) :=
  statement_some rfl (decode_lane _ f _ rfl)

theorem EncodeDecode.vst4 (f : LaneFields) : EncodeDecode.Statement (.vst4 f) :=
  statement_some rfl (decode_lane _ f _ rfl)

theorem EncodeDecode.vaadd (f : LaneFields) : EncodeDecode.Statement (.vaadd f) :=
  statement_some rfl (decode_lane _ f _ rfl)

theorem EncodeDecode.vaand (f : LaneFields) : EncodeDecode.Statement (.vaand f) :=
  statement_some rfl (decode_lane _ f _ rfl)

theorem EncodeDecode.vaor (f : LaneFields) : EncodeDecode.Statement (.vaor f) :=
  statement_some rfl (decode_lane _ f _ rfl)

theorem EncodeDecode.vaxor (f : LaneFields) : EncodeDecode.Statement (.vaxor f) :=
  statement_some rfl (decode_lane _ f _ rfl)

theorem EncodeDecode.vamin (f : LaneFields) : EncodeDecode.Statement (.vamin f) :=
  statement_some rfl (decode_lane _ f _ rfl)

theorem EncodeDecode.vamax (f : LaneFields) : EncodeDecode.Statement (.vamax f) :=
  statement_some rfl (decode_lane _ f _ rfl)

theorem EncodeDecode.vaswap (f : LaneFields) : EncodeDecode.Statement (.vaswap f) :=
  statement_some rfl (decode_lane _ f _ rfl)

theorem EncodeDecode.vacas (f : LaneFields) : EncodeDecode.Statement (.vacas f) :=
  statement_some rfl (decode_lane _ f _ rfl)

theorem EncodeDecode.vlaor (f : LaneFields) : EncodeDecode.Statement (.vlaor f) :=
  statement_some rfl (decode_lane _ f _ rfl)

theorem EncodeDecode.vlaand (f : LaneFields) : EncodeDecode.Statement (.vlaand f) :=
  statement_some rfl (decode_lane _ f _ rfl)

theorem EncodeDecode.vlaxor (f : LaneFields) : EncodeDecode.Statement (.vlaxor f) :=
  statement_some rfl (decode_lane _ f _ rfl)

theorem EncodeDecode.vspill (f : LaneFields) : EncodeDecode.Statement (.vspill f) :=
  statement_some rfl (decode_lane _ f _ rfl)

theorem EncodeDecode.vfill (f : LaneFields) : EncodeDecode.Statement (.vfill f) :=
  statement_some rfl (decode_lane _ f _ rfl)

theorem EncodeDecode.bwait (f : LaneFields) : EncodeDecode.Statement (.bwait f) :=
  statement_some rfl (decode_lane _ f _ rfl)

theorem EncodeDecode.bwaitReread (core : Nat) (slot : Nat) (path : Nat) : EncodeDecode.Statement (.bwaitReread core slot path) := statement_none rfl

theorem EncodeDecode.cpk (f : LaneFields) : EncodeDecode.Statement (.cpk f) :=
  statement_some rfl (decode_lane _ f _ rfl)

theorem EncodeDecode.coll (f : LaneFields) : EncodeDecode.Statement (.coll f) :=
  statement_some rfl (decode_lane _ f _ rfl)

theorem EncodeDecode.vbar (f : LaneFields) : EncodeDecode.Statement (.vbar f) :=
  statement_some rfl (decode_lane _ f _ rfl)

theorem EncodeDecode.vnbar (f : LaneFields) : EncodeDecode.Statement (.vnbar f) :=
  statement_some rfl (decode_lane _ f _ rfl)

theorem EncodeDecode.barrierGenerationComplete (core : Nat) (slot : Nat) (nb : Bool) : EncodeDecode.Statement (.barrierGenerationComplete core slot nb) := statement_none rfl

theorem EncodeDecode.vfence (f : LaneFields) : EncodeDecode.Statement (.vfence f) :=
  statement_some rfl (decode_lane _ f _ rfl)

theorem EncodeDecode.binit (f : LaneFields) : EncodeDecode.Statement (.binit f) :=
  statement_some rfl (decode_lane _ f _ rfl)

theorem EncodeDecode.badd (f : LaneFields) : EncodeDecode.Statement (.badd f) :=
  statement_some rfl (decode_lane _ f _ rfl)

theorem EncodeDecode.mzero (f : LaneFields) : EncodeDecode.Statement (.mzero f) :=
  statement_some rfl (decode_lane _ f _ rfl)

theorem EncodeDecode.mloop (f : LaneFields) : EncodeDecode.Statement (.mloop f) :=
  statement_some rfl (decode_lane _ f _ rfl)

theorem EncodeDecode.mloopp (f : LaneFields) : EncodeDecode.Statement (.mloopp f) :=
  statement_some rfl (decode_lane _ f _ rfl)

theorem EncodeDecode.mrd (f : LaneFields) : EncodeDecode.Statement (.mrd f) :=
  statement_some rfl (decode_lane _ f _ rfl)

theorem EncodeDecode.mwr (f : LaneFields) : EncodeDecode.Statement (.mwr f) :=
  statement_some rfl (decode_lane _ f _ rfl)

theorem EncodeDecode.mstat (f : LaneFields) : EncodeDecode.Statement (.mstat f) :=
  statement_some rfl (decode_lane _ f _ rfl)

theorem EncodeDecode.qld (f : LaneFields) : EncodeDecode.Statement (.qld f) :=
  statement_some rfl (decode_lane _ f _ rfl)

theorem EncodeDecode.qst (f : LaneFields) : EncodeDecode.Statement (.qst f) :=
  statement_some rfl (decode_lane _ f _ rfl)

theorem EncodeDecode.qmov (f : LaneFields) : EncodeDecode.Statement (.qmov f) :=
  statement_some rfl (decode_lane _ f _ rfl)

theorem EncodeDecode.qtrn (f : LaneFields) : EncodeDecode.Statement (.qtrn f) :=
  statement_some rfl (decode_lane _ f _ rfl)

theorem EncodeDecode.qadd (f : LaneFields) : EncodeDecode.Statement (.qadd f) :=
  statement_some rfl (decode_lane _ f _ rfl)

theorem EncodeDecode.qscl (f : LaneFields) : EncodeDecode.Statement (.qscl f) :=
  statement_some rfl (decode_lane _ f _ rfl)

theorem EncodeDecode.qmul (f : LaneFields) : EncodeDecode.Statement (.qmul f) :=
  statement_some rfl (decode_lane _ f _ rfl)

theorem EncodeDecode.qmad (f : LaneFields) : EncodeDecode.Statement (.qmad f) :=
  statement_some rfl (decode_lane _ f _ rfl)

theorem EncodeDecode.qchol (f : LaneFields) : EncodeDecode.Statement (.qchol f) :=
  statement_some rfl (decode_lane _ f _ rfl)

theorem EncodeDecode.qlup (f : LaneFields) : EncodeDecode.Statement (.qlup f) :=
  statement_some rfl (decode_lane _ f _ rfl)

theorem EncodeDecode.qsolc (f : LaneFields) : EncodeDecode.Statement (.qsolc f) :=
  statement_some rfl (decode_lane _ f _ rfl)

theorem EncodeDecode.qsoll (f : LaneFields) : EncodeDecode.Statement (.qsoll f) :=
  statement_some rfl (decode_lane _ f _ rfl)

theorem EncodeDecode.qdet (f : LaneFields) : EncodeDecode.Statement (.qdet f) :=
  statement_some rfl (decode_lane _ f _ rfl)

theorem EncodeDecode.vballot (f : LaneFields) : EncodeDecode.Statement (.vballot f) :=
  statement_some rfl (decode_lane _ f _ rfl)

theorem EncodeDecode.vprefix (f : LaneFields) : EncodeDecode.Statement (.vprefix f) :=
  statement_some rfl (decode_lane _ f _ rfl)

theorem EncodeDecode.vshfli (f : LaneFields) : EncodeDecode.Statement (.vshfli f) :=
  statement_some rfl (decode_lane _ f _ rfl)

theorem EncodeDecode.vshflx (f : LaneFields) : EncodeDecode.Statement (.vshflx f) :=
  statement_some rfl (decode_lane _ f _ rfl)

theorem EncodeDecode.vshflu (f : LaneFields) : EncodeDecode.Statement (.vshflu f) :=
  statement_some rfl (decode_lane _ f _ rfl)

theorem EncodeDecode.vshfld (f : LaneFields) : EncodeDecode.Statement (.vshfld f) :=
  statement_some rfl (decode_lane _ f _ rfl)

theorem EncodeDecode.vlaneid (f : LaneFields) : EncodeDecode.Statement (.vlaneid f) :=
  statement_some rfl (decode_lane _ f _ rfl)

theorem EncodeDecode.vpand (f : LaneFields) : EncodeDecode.Statement (.vpand f) :=
  statement_some rfl (decode_lane _ f _ rfl)

theorem EncodeDecode.vpor (f : LaneFields) : EncodeDecode.Statement (.vpor f) :=
  statement_some rfl (decode_lane _ f _ rfl)

theorem EncodeDecode.vpxor (f : LaneFields) : EncodeDecode.Statement (.vpxor f) :=
  statement_some rfl (decode_lane _ f _ rfl)

theorem EncodeDecode.vpandn (f : LaneFields) : EncodeDecode.Statement (.vpandn f) :=
  statement_some rfl (decode_lane _ f _ rfl)

theorem EncodeDecode.vxset (f : LaneFields) : EncodeDecode.Statement (.vxset f) :=
  statement_some rfl (decode_lane _ f _ rfl)

theorem EncodeDecode.vxadd (f : LaneFields) : EncodeDecode.Statement (.vxadd f) :=
  statement_some rfl (decode_lane _ f _ rfl)

theorem EncodeDecode.vxmov (f : LaneFields) : EncodeDecode.Statement (.vxmov f) :=
  statement_some rfl (decode_lane _ f _ rfl)

theorem EncodeDecode.tnmask (f : LaneFields) : EncodeDecode.Statement (.tnmask f) :=
  statement_some rfl (decode_lane _ f _ rfl)

/-- A code that no entry of a table has is not found in it. -/
theorem atCode_none {α : Type} {p : Nat → Bool} {t : List (Nat × α)} (h : t.all (fun e => p e.1) = true) {k : Nat}
    (hk : p k = false) : atCode k t = none := by
  rw [atCode, Option.map_eq_none_iff, List.find?_eq_none]
  intro e he hek
  rw [beq_iff_eq] at hek
  have := List.all_eq_true.mp h e he
  rw [hek, hk] at this
  exact Bool.false_ne_true this

/-- The opcodes of the forms SI, SB, SU and SJ. -/
def formOpcode (k : Nat) : Bool :=
  (2 ≤ k && k ≤ 0x0C) || (0x10 ≤ k && k ≤ 0x15) || (0x18 ≤ k && k ≤ 0x1D) || k == 0x2E || k == 0x2F

theorem unassigned_scalar (w : BitVec 32) (hw : (Instr.unassignedEncoding (.scalar w)).wf = true) :
    decodeEncoded (encodeUnassigned (.scalar w)) = some (.unassignedEncoding (.scalar w)) := by
  have ha : assignedScalar w = false := by
    have h4 : (!assignedScalar w) = true := hw
    simpa using h4
  have hlt := w.isLt
  have h0 : (field w 0 7).toNat = w.toNat % 128 := by rw [field_toNat]; simp
  have h1 : (field w 25 7).toNat = w.toNat / 33554432 := by rw [field_toNat]; omega
  have h2 : (field w 28 4).toNat = w.toNat / 268435456 := by rw [field_toNat]; omega
  simp only [encodeUnassigned, decodeEncoded, Option.some.injEq]
  by_cases hp : plainOpcode (w.toNat % 128) = true
  · rw [decode_plain w (by rw [h0]; exact hp), h0]
    generalize hk : w.toNat % 128 = k at *
    have hf : formOpcode k = false := by
      simp only [plainOpcode, List.contains_cons, List.contains_nil, Bool.or_false, Bool.not_or, Bool.and_eq_true, Bool.not_eq_true',
        beq_eq_false_iff_ne] at hp
      obtain ⟨p1, p2, p3, p4, p5, p6, p7, p8, p9, p10, p11, p12, p13, p14⟩ := hp
      have q : (decide (0x24 ≤ k) && decide (k ≤ 0x27)) = false := by
        simp only [Bool.and_eq_false_iff, decide_eq_false_iff_not]; omega
      simp only [assignedScalar, hk, q, beq_eq_false_iff_ne.mpr p1, beq_eq_false_iff_ne.mpr p2, beq_eq_false_iff_ne.mpr p3,
        beq_eq_false_iff_ne.mpr p13, beq_eq_false_iff_ne.mpr p14, Bool.false_eq_true, if_false, Bool.or_false,
        Bool.or_eq_false_iff, Bool.and_eq_false_iff, decide_eq_false_iff_not, beq_eq_false_iff_ne] at ha
      simp only [formOpcode, Bool.or_eq_false_iff, Bool.and_eq_false_iff, decide_eq_false_iff_not, beq_eq_false_iff_ne]
      omega
    rw [atCode_none (p := formOpcode) (t := siTable) (by decide) hf, atCode_none (p := formOpcode) (t := sbTable) (by decide) hf,
      atCode_none (p := formOpcode) (t := suTable) (by decide) hf, atCode_none (p := formOpcode) (t := sjTable) (by decide) hf]
    rfl
  · simp only [plainOpcode, List.contains_cons, List.contains_nil, Bool.or_false, Bool.not_eq_true',
      Bool.or_eq_true, beq_iff_eq, Bool.not_eq_false] at hp
    rcases hp with h | h | h | h | h | h | h | h | h | h | h | h | h | h <;> simp [assignedScalar, h] at ha <;>
      simp only [decodeScalar, h0, h1, h2, h]
    · simp [atCode_none (p := fun k => decide (k ≤ 0x1C)) (t := intTable) (k := w.toNat / 33554432) (by decide) (decide_eq_false (by omega))]
    · simp [atCode_none (p := fun k => decide (k ≤ 0x0A)) (t := systemTable) (k := w.toNat / 33554432) (by decide) (decide_eq_false (by omega))]
    · simp [atCode_none (p := fun k => decide (k ≤ 0x08)) (t := treeTable) (k := w.toNat / 33554432) (by decide) (decide_eq_false (by omega))]
    · simp [atCode_none (p := fun k => decide (k ≤ 9)) (t := amoTable) (k := w.toNat / 268435456) (by decide) (decide_eq_false (by omega))]
    · simp [atCode_none (p := fun k => decide (k ≤ 9)) (t := amoTable) (k := w.toNat / 268435456) (by decide) (decide_eq_false (by omega))]
    · simp [atCode_none (p := fun k => decide (k ≤ 9)) (t := amoTable) (k := w.toNat / 268435456) (by decide) (decide_eq_false (by omega))]
    · simp [atCode_none (p := fun k => decide (k ≤ 9)) (t := amoTable) (k := w.toNat / 268435456) (by decide) (decide_eq_false (by omega))]
    · simp [ha]
    · simp [ha]

theorem EncodeDecode.unassignedEncoding (w : EncWord) : EncodeDecode.Statement (.unassignedEncoding w) := by
  intro hw e he
  cases he
  cases w with
  | lane w =>
    have h2 : laneOpc w = w.toNat % 1024 := by rw [laneOpc, field_toNat]; simp
    have h3 : assignedLane (laneOpc w) = false := by
      rw [h2]
      have h4 : (!assignedLane (w.toNat % 1024)) = true := hw
      simpa using h4
    simp [encodeUnassigned, decodeEncoded, decodeLane, atCode_none (p := assignedLane) (t := laneTable) (by decide) h3]
  | scalar w => exact unassigned_scalar w hw

theorem EncodeDecode.queueProcessorAccess (h : Nat) (a : QpAccess) : EncodeDecode.Statement (.queueProcessorAccess h a) := statement_none rfl

theorem EncodeDecode.illegalInstruction (w : BitVec 32) : EncodeDecode.Statement (.illegalInstruction w) := by
  intro hw e he
  cases he
  have h0 : (field w 0 7).toNat = w.toNat % 128 := by rw [field_toNat]; simp
  have h1 : (field w 12 3).toNat = w.toNat / 2 ^ 12 % 8 := by rw [field_toNat]; rfl
  have h2 : (field w 25 7).toNat = w.toNat / 2 ^ 25 := by
    rw [field_toNat]; have := w.isLt; omega
  have hw' : w.toNat % 128 = 0x0B ∧ assignedCommand w = false := by
    have h4 : (w.toNat % 128 == 0x0B && !assignedCommand w) = true := hw
    simpa using h4
  have hc := hw'.2
  simp only [assignedCommand, Bool.or_eq_false_iff, Bool.and_eq_false_iff, beq_eq_false_iff_ne, decide_eq_false_iff_not] at hc
  simp only [decodeEncoded, decodeCommand, h0, h1, h2, hw'.1]
  rw [if_neg (by omega), if_neg (by omega), if_neg (by omega), if_neg (by omega), if_neg (by omega), if_neg (by omega)]

theorem EncodeDecode.debugUnknownCommand (r : DebugReq) : EncodeDecode.Statement (.debugUnknownCommand r) := statement_none rfl

theorem EncodeDecode.debugRequestTimeout : EncodeDecode.Statement .debugRequestTimeout := statement_none rfl

end Sys2Proof.Laws
end

