-- ==== Sys2Proof/Laws/Translate.lean ====
section
/-!
SUPPORT. What a translation leaves alone: every team.
-/

namespace Sys2Proof.Machine

@[simp] theorem obtain_teams (s : State) (pa : Nat) : (s.obtain pa).teams = s.teams := by unfold State.obtain; split <;> rfl

@[simp] theorem writeLine_teams (s : State) (cs : List Nat) (pts pa : Nat) (bs : List Byte) :
    (s.writeLine cs pts pa bs).1.teams = s.teams := by
  unfold State.writeLine
  dsimp only
  generalize hm : ({ s with mem := _ } : State) = s0
  have h0 : s0.teams = s.teams := by rw [← hm]
  clear hm
  induction cs generalizing s0 with
  | nil => exact h0
  | cons c cs ih => exact ih _ h0

@[simp] theorem writeHome_teams (s : State) (cs : List Nat) (pts pa : Nat) (bs : List Byte) :
    (s.writeHome cs pts pa bs).1.teams = s.teams := (writeLine_teams _ _ _ _ _).trans (obtain_teams s pa)

@[simp] theorem writeEntry_teams (s : State) (pa : Nat) (e : BitVec 64) : (s.writeEntry pa e).teams = s.teams :=
  writeHome_teams _ _ _ _ _

@[simp] theorem dropLeaf_teams (s : State) (c l : Nat) : (s.dropLeaf c l).teams = s.teams := rfl
@[simp] theorem fillTlb_teams (s : State) (c : Nat) (l : Option Nat) (e : TlbEntry) : (s.fillTlb c l e).teams = s.teams := rfl

@[simp] theorem viewTouch_teams (s : State) (t : ViewTarget) : (s.viewTouch t).teams = s.teams := by
  cases t <;> simp [State.viewTouch]

@[simp] theorem noteWalk_teams (s : State) (asid vpn : Nat) : (s.noteWalk asid vpn).teams = s.teams := by
  unfold State.noteWalk
  dsimp only
  generalize List.filter _ _ = l
  induction l generalizing s with
  | nil => rfl
  | cons a l ih => rw [List.foldl_cons, ih]; simp

@[simp] theorem walkAccess_teams (s : State) (r : Xreq) : (s.walkAccess r).1.teams = s.teams := by
  unfold State.walkAccess
  dsimp only
  split
  · simp
  · simp
  · split
    · simp
    · repeat' split
      all_goals simp

@[simp] theorem hitAccess_teams (s : State) (r : Xreq) (e : TlbEntry) : (s.hitAccess r e).1.teams = s.teams := by
  unfold State.hitAccess
  split
  · rfl
  · split
    · split
      · simp
      · split <;> simp
    · dsimp only; split <;> rfl

@[simp] theorem translate_teams (s : State) (r : Xreq) : (s.translate r).1.teams = s.teams := by
  unfold State.translate
  dsimp only
  split
  · simp
  · split
    · split <;> simp
    · split
      · split
        · simp
        · split
          · rfl
          · rw [hitAccess_teams]; rfl
      · simp

@[simp] theorem fetchPiece_teams (s : State) (w : Who) (va n : Nat) : (s.fetchPiece w va n).1.teams = s.teams := by
  unfold State.fetchPiece
  split
  · rfl
  · have h := translate_teams s { core := w.core, asid := w.team.asid, host := false, va := va % 2 ^ 52, kind := .fetch, lpr := none }
    split <;> rename_i heq <;> rw [heq] at h <;> dsimp only at h ⊢
    · split
      · exact h
      · split
        · exact h
        · simpa using h
    all_goals exact h

@[simp] theorem fetchWords_teams (s : State) (w : Who) (va n : Nat) : (s.fetchWords w va n).1.teams = s.teams := by
  induction n generalizing s va with
  | zero => rfl
  | succ n ih =>
    unfold State.fetchWords
    have h := fetchPiece_teams s w va 4
    split
    · rename_i s1 b heq
      rw [heq] at h
      have h2 := ih s1 (va + 4)
      split
      · rename_i s2 bs heq2; rw [heq2] at h2; exact h2.trans h
      · exact h2.trans h
    · exact h

end Sys2Proof.Machine
end

