-- ==== Sys2Proof/Tests/Slice0.lean ====
section
/-!
SUPPORT. Tests of the model: ill-formed terms that the check refuses, words written out from the spec's encodings, single
steps with results from the spec, and for each statement a state and operands that meet its hypotheses.
-/

namespace Sys2Proof.Tests

set_option Elab.async false

open Sys2Proof.Machine

/-! ## States for the tests -/

/-- A path at address 0 with every lane of its team active. -/
def path0 : Path := Path.start 0 (maskBelow 32) resetFmt 0

/-- A path with values in some of its scalar registers. -/
def path0.with (rs : List (Nat × Word64)) : Path := { path0 with sregs := rs }

/-- A team of one path. -/
def teamOf (p : Path) : Team := { Team.plain with paths := [(0, p)] }

/-- A device that step 6 of bring-up has left as reset does. -/
def up : State := { State.reset with dev := { State.reset.dev with bstep := 6 } }

/-- A started device with one team on slot 0 of core 0. -/
def on (t : Team) : State := up.withTeam t

/-- The issuing path of `on t`, when its path 0 is `p`. -/
def who (t : Team) (p : Path) : Who := { core := 0, slot := 0, key := 0, pi := 0, team := t, path := p }

/-- A team of one path with scalar registers, the state that it issues in, and its issuer. -/
def regsTeam (rs : List (Nat × Word64)) : Team := teamOf (path0.with rs)
def regsState (rs : List (Nat × Word64)) : State := on (regsTeam rs)
def regsWho (rs : List (Nat × Word64)) : Who := who (regsTeam rs) (path0.with rs)

theorem path0_marked (rs : List (Nat × Word64)) (r : Nat) : (path0.with rs).marked r = false := by
  simp [Path.marked, Path.started, path0.with, path0, Path.start]

theorem regs_issuer (rs : List (Nat × Word64)) : issuer (regsState rs) = some (regsWho rs) := rfl

/-- Every register of `regsState` can be read. -/
theorem regs_ready (rs : List (Nat × Word64)) (h : Tab.wf 0 rs = true) (l : List Reg6) :
    scalarReady (regsState rs) (regsWho rs) l := ⟨rfl, fun _ _ => path0_marked _ _, h⟩

/-! ## Witnesses: the scalar stream -/

theorem witness_ScalarTwoOperand : scalarReady (regsState [(1, 5), (63, 7)]) (regsWho [(1, 5), (63, 7)]) [0, 1, 63] :=
  regs_ready _ (by decide) _

theorem witness_ScalarBitCounts :
    scalarReady (regsState []) (regsWho []) [63, 0] ∧ (issuer (regsState []) = some (regsWho []) ∧ (63 : Reg6) ≠ 0) :=
  ⟨regs_ready _ (by decide) _, rfl, by decide⟩

theorem witness_ScalarImmediate :
    scalarReady (regsState []) (regsWho []) [63, 63] ∧ (63#13).toNat ≤ 63 ∧ 63 < (64#13).toNat :=
  ⟨regs_ready _ (by decide) _, by decide, by decide⟩

theorem witness_ScalarUpperImmediate : scalarReady (regsState []) (regsWho []) [63] := regs_ready _ (by decide) _

/-- BNE is not taken, BEQ is, to the lowest address, to the highest of space 0x0 and past it. -/
theorem witness_Branches : let s := regsState []
    let w := regsWho []
    scalarReady s w [1, 2] ∧ (branches[1]).2 (w.path.s 1) (w.path.s 2) = false ∧ (branches[0]).2 (w.path.s 1) (w.path.s 2) = true ∧
      goodTarget (w.path.spc + .ofInt 64 ((0#13).toInt * 4)) = true ∧ goodTarget 0xFFFFFFFFFFFFC = true ∧
      2 ^ 52 ≤ (w.path.spc + .ofInt 64 ((-1#13).toInt * 4)).toNat :=
  ⟨regs_ready _ (by decide) _, by decide, by decide, by decide, by decide, by decide⟩

/-- Targets of J and CALL, and the targets 0, 2^52 and 2 of JR. -/
theorem witness_Jumps : let s := regsState [(1, 0x10000000000000)]
    let w := regsWho [(1, 0x10000000000000)]
    scalarReady s w [63, 1, 2] ∧ goodTarget (w.path.spc + .ofInt 64 ((0#25).toInt * 4)) = true ∧
      2 ^ 52 ≤ (w.path.spc + .ofInt 64 ((-1#25).toInt * 4)).toNat ∧ goodTarget (w.path.s 2 + .ofInt 64 (0#13).toInt) = true ∧
      2 ^ 52 ≤ (w.path.s 1 + .ofInt 64 (0#13).toInt).toNat ∧ (w.path.s 2 + .ofInt 64 (2#13).toInt).toNat % 4 ≠ 0 :=
  ⟨regs_ready _ (by decide) _, by decide, by decide, by decide, by decide, by decide⟩

/-- A clause of nothing. -/
def clause0 : Clause :=
  { id := 0, addr := 0, wait := 0, setA := none, setB := none, body := [0], pos := 0, mask := maskBelow 32, fmt := resetFmt,
    snap := [], dests := [], pend := 0, only := none, stopped := false, watched := [], sent := none }

/-- A state whose memory starts with a clause header of one instruction, and then that instruction: VADD of v0. -/
def headerState : State := { regsState [] with mem := { Memory.reset with bytes := [(0, 0xFF), (1, 0x03)] } }

/-- A full queue, and a clause in memory with an empty queue. -/
theorem witness_EnqueueClause :
    (let p := { path0 with queue := [clause0, clause0, clause0, clause0] }
     issuer (on (teamOf p)) = some (who (teamOf p) p) ∧ 4 ≤ p.queue.length) ∧
    ∃ s1 s2 hb bb h, issuer headerState = some (regsWho []) ∧ (regsWho []).path.queue.length ≤ 3 ∧
      headerState.fetchWords (regsWho []) 0 3 = (s1, .bytes hb) ∧
      s1.fetchWords (regsWho []) (0 + 12) (3 * headerCount hb) = (s2, .bytes bb) ∧
      decodeHeader (BitVec.ofNat 96 (ofBytes hb)) = .ok h ∧
      ∀ x ∈ laneWords h.count bb, (regsWho []).path.marked (laneFields x).ss.toNat = false :=
  ⟨⟨rfl, by decide⟩, _, _, _, _, _, rfl, by decide, rfl, rfl, rfl, fun _ _ => path0_marked _ _⟩

/-- A path with a clause in its queue that names f0, and one that names f11. -/
def flagPath : Path := { path0 with queue := [{ clause0 with setA := some 11 }] }

theorem witness_WaitFlags :
    (issuer (regsState []) = some (regsWho []) ∧ (0xFFF#13).toNat < 2 ^ 12 ∧ (0xFFF#13) ≠ 0 ∧
      ∀ n < 12, (0xFFF#13).getLsbD n = true → path0.queued n = 0 ∧ path0.outstanding n = 0) ∧
    (issuer (on (teamOf flagPath)) = some (who (teamOf flagPath) flagPath) ∧ (0x800#13).getLsbD 11 = true ∧ flagPath.queued 11 ≠ 0) ∧
    ((63 : Reg6) ≠ 0 ∧ 2 ^ 12 ≤ (0x1000#13).toNat) :=
  ⟨⟨rfl, by decide, by decide, by decide⟩, ⟨rfl, by decide, by decide⟩, by decide, by decide⟩

/-! ## Witnesses: divergence -/

/-- A team with p1 true in lane 0 and, when `both`, in every other lane. -/
def splitTeam (both : Bool) (ejt : Nat) (more : List (Nat × Path)) : Team :=
  { Team.plain with
    k := { Kdesc.plain with lanes := 2, ejt := ejt, spsl := if more = [] then 1 else 0 },
    pregs := (if both then [(1, true), (9, true)] else [(1, true)]), paths := (0, path0) :: more }

/-- SPLIT without true lanes, without false lanes, with an entry at the bound of EJT, and with the path table full. -/
theorem witness_Split : let full := (List.range 7).map (fun j => (j + 1, path0))
    let lanes := fun (t : Team) (pn : Nat) (v : Bool) =>
      ((List.range t.k.lanes).filter (fun l => path0.mask.getLsbD l)).filter (fun l => t.p l pn == v)
    (∀ t ∈ [splitTeam false 1 [], splitTeam true 1 [], splitTeam false 1 full], issuer (on t) = some (who t path0) ∧
      t.handler = none) ∧ path0.idle = true ∧ path0.pendScalar = [] ∧ path0.ejPart = none ∧
    (path0.spc + .ofInt 64 ((1#11).toInt * 4)).toNat < 2 ^ 52 ∧
    lanes (splitTeam false 1 []) 2 true = [] ∧ lanes (splitTeam true 1 []) 0 false = [] ∧ lanes (splitTeam true 1 []) 0 true ≠ [] ∧
    (lanes (splitTeam false 1 []) 1 true).length = 1 ∧ (splitTeam false 1 []).k.ejt = 1 ∧ lanes (splitTeam false 1 []) 1 false ≠ [] ∧
    AMap.freeBelow (splitTeam false 1 []).paths 8 = some 1 ∧
    AMap.freeBelow (splitTeam false 1 full).paths 8 = none ∧ (splitTeam false 1 full).k.spsl = 0 := by
  refine ⟨?_, by decide +kernel⟩
  intro t ht
  fin_cases ht <;> exact ⟨rfl, rfl⟩

/-- A team of two paths, the second of which is the issuing one and has the first as its parent. -/
def childPath : Path := { path0 with spc := 0x40, rpc := some 0x40, parent := some 1 }
def pairTeam : Team := { Team.plain with paths := [(0, childPath), (1, { path0 with jcnt := 1 })] }

/-- A path that waits for a lane, a path at its join point, a path that no join concerns, and a team's only path. -/
theorem witness_JoinAndEnd :
    (let p := { path0 with jcnt := 1 }
     issuer (on (teamOf p)) = some (who (teamOf p) p) ∧ ¬ settled p) ∧
    (issuer (on pairTeam) = some (who pairTeam childPath) ∧ pairTeam.handler = none ∧ settled childPath ∧ childPath.ejSlots = [] ∧
      childPath.rpc = some childPath.spc ∧ childPath.parent = some 1 ∧ 1 ≠ 0 ∧
      AMap.find pairTeam.paths 1 = some { path0 with jcnt := 1 } ∧ AMap.rising pairTeam.paths = true ∧ pairTeam.contLanes = []) ∧
    (let t := teamOf path0
     issuer (on t) = some (who t path0) ∧ settled path0 ∧ path0.ejSlots = [] ∧ path0.rpc ≠ some path0.spc ∧ t.contLanes = [] ∧
      path0.mask ≠ 0 ∧ t.paths = [(0, path0)] ∧ (on t).commitBlocked 0 = false ∧ (on t).mem.wf = true ∧
      AMap.rising (on t).teams = true) :=
  ⟨⟨rfl, by unfold settled; decide +kernel⟩,
   ⟨rfl, rfl, by unfold settled; decide +kernel, rfl, rfl, rfl, by decide, rfl, by decide, rfl⟩,
   rfl, by unfold settled; decide +kernel, rfl, by decide +kernel, rfl, by decide +kernel, rfl, by decide +kernel, by decide +kernel, by decide +kernel⟩

/-- SPAWN of 1 lane and of 1,024 lanes at address 0, of none and of 1,025. -/
theorem witness_Spawn : let rs : List (Nat × Word64) := [(5, 1), (6, 1024), (7, 0x7_0000_0401)]
    let s := regsState rs
    let w := regsWho rs
    scalarReady s w [0, 5, 1, 2, 3, 4] ∧ scalarReady s w [0, 6, 1, 2, 3, 4] ∧ w.team.handler = none ∧ w.team.k.spsl ≠ 0 ∧
      (w.path.s 5).toNat = 1 ∧ (w.path.s 6).toNat = 1024 ∧ s.inFlight w false = [] ∧ s.commitBlocked w.key = false ∧ s.mem.wf = true ∧ 1024 < (w.path.s 7).toNat % 2 ^ 11 :=
  ⟨regs_ready _ (by decide) _, regs_ready _ (by decide) _, rfl, by decide, by decide +kernel, by decide +kernel, by decide +kernel, by decide +kernel,
    by decide +kernel, by decide +kernel⟩

/-- The registers of the memory tests: a device address, an address of the team's own scratchpad, and a value. -/
def memRegs : List (Nat × Word64) := [(1, 0x100), (2, 0x6000000000000040), (3, 0x11223344)]

/-- What makes an access reach a target. -/
def goesTo (s : State) (w : Who) (a : Acc) (tg : Target) : Bool :=
  decide (firstChecks s w a = none) && decide ((s.follow w a).2 = .at_ tg) && decide ((s.follow w a).1.mustWait w a tg = none) &&
    decide (s.dbg.attached ≠ some (BitVec.ofNat 12 w.team.asid))

theorem reaches_of {s : State} {w : Who} {a : Acc} {tg : Target} (h : goesTo s w a tg = true) :
    reaches s w a tg (s.follow w a).1 := by
  simp only [goesTo, Bool.and_eq_true, decide_eq_true_eq] at h
  exact ⟨h.1.1.1, Prod.ext rfl h.1.1.2, h.1.2, h.2⟩

/-- A load of a device word, of a scratchpad word, and one that is refused. -/
theorem witness_ScalarLoad : let s := regsState memRegs
    let w := regsWho memRegs
    let a := scalarAcc w .load 0 0 0 0 0 1
    let c := scalarAcc w .load 1 0 1 3 1 2
    (scalarReady s w [4, 1] ∧ (orderRefused .load 0 0 false || (0#1 == 1 && 0#2 == 3)) = false ∧ w.path.loadsOut < 8 ∧
      reaches s w a (.dev 0x100 0 0x100 0x7D) (s.follow w a).1 ∧
      (loadFinds (s.follow w a).1 w a (.dev 0x100 0 0x100 0x7D)).isSome = true) ∧
    (scalarReady s w [4, 2] ∧ reaches s w c (.scratch 0 0x48) (s.follow w c).1 ∧
      (loadFinds (s.follow w c).1 w c (.scratch 0 0x48)).isSome = true) ∧
    (issuer s = some w ∧ (orderRefused .load 0 0 false || (1#1 == 1 && 3#2 == 3)) = true) :=
  ⟨⟨regs_ready _ (by decide) _, by decide, by decide, reaches_of (by decide +kernel), by decide +kernel⟩,
   ⟨regs_ready _ (by decide) _, reaches_of (by decide +kernel), by decide +kernel⟩, rfl, by decide⟩

/-- A versioned store, one at device scope, one to a table frame and a release. -/
theorem witness_ScalarStore : let w := regsWho memRegs
    let plain := regsState memRegs
    let table := { plain with mem := { plain.mem with frames := [(0, 1)] } }
    let tg := Target.dev 0x100 0 0x100 0x7D
    let a := scalarAcc w .store 0 0 0 0 0 1
    let b := scalarAcc w .store 0 2 1 0 0 1
    let c := scalarAcc w .store 2 1 1 0 0 1
    let d := scalarAcc w .store 0 0 0 3 0 1
    (scalarReady plain w [3, 1] ∧ orderRefused .store 0 0 false = false ∧ (plain.follow w a).1.mem.wf = true ∧
      reaches plain w a tg (plain.follow w a).1 ∧ versioned 0 0 0 false = true ∧ (plain.follow w a).1.mem.isTable 0x100 = false ∧
      (plain.follow w a).1.specLines (homeSlice (plain.follow w a).1.dev (lineOf 0x100 * 64)) < 2048) ∧
    (reaches plain w b tg (plain.follow w b).1 ∧ orderRefused .store 0 2 true = false ∧
      versioned 0 0 2 true = false ∧ releases 0 = false ∧ (plain.follow w b).1.mem.wf = true) ∧
    (issuer table = some w ∧ reaches table w d tg (table.follow w d).1 ∧ (table.follow w d).1.mem.isTable 0x100 = true ∧
      (table.follow w d).1.mem.wf = true) ∧
    (reaches plain w c tg (plain.follow w c).1 ∧ orderRefused .store 2 1 true = false ∧
      releases 2 = true ∧ (plain.follow w c).1.mem.isTable 0x100 = false ∧ (plain.follow w c).1.mem.wf = true) :=
  ⟨⟨regs_ready _ (by decide) _, by decide, by decide +kernel, reaches_of (by decide +kernel), by decide, by decide +kernel, by decide +kernel⟩,
   ⟨reaches_of (by decide +kernel), by decide, by decide, by decide, by decide +kernel⟩,
   ⟨rfl, reaches_of (by decide +kernel), by decide +kernel, by decide +kernel⟩,
   ⟨reaches_of (by decide +kernel), by decide, by decide, by decide +kernel, by decide +kernel⟩⟩

/-- A store to the last bytes of the team's scratchpad. -/
theorem witness_ScalarStoreScratchpad : let rs : List (Nat × Word64) := [(2, 0x6000000000000000 + .ofNat 64 (Team.plain.scrSize - 8))]
    let s := regsState rs
    let w := regsWho rs
    let a := scalarAcc w .store 0 0 0 0 0 2
    scalarReady s w [3, 2] ∧ orderRefused .store 0 0 false = false ∧ s.mem.wf = true ∧
      reaches s w a (.scratch 0 (Team.plain.scrSize - 8)) (s.follow w a).1 ∧ s.team 0 = some (regsTeam rs) ∧
      Tab.wf 0 (regsTeam rs).scratch = true :=
  ⟨regs_ready _ (by decide +kernel) _, by decide, by decide +kernel, reaches_of (by decide +kernel), rfl, by decide⟩

/-- A 64-bit and a 32-bit atomic at system scope. -/
theorem witness_ScalarAtomic : let s := regsState memRegs
    let w := regsWho memRegs
    ∀ n ∈ [4, 8], let a : Acc := { kind := .atomic, addr := w.path.s 1, size := n, ord := 0, scope := 3, strong := true, hint := 0, lane := none, uniform := false, tableOk := n == 8 }
      scalarReady s w [4, 1, 3] ∧ w.path.loadsOut < 8 ∧ reaches s w a (.dev 0x100 0 0x100 0x7D) (s.follow w a).1 ∧
      releases 0 = false ∧ leafJ 0x7D = false ∧ (s.follow w a).1.mem.wf = true := by
  intro s w n hn
  fin_cases hn <;> exact ⟨regs_ready _ (by decide) _, by decide, reaches_of (by decide +kernel), by decide, by decide +kernel,
    by decide +kernel⟩

/-- FENCE and TFENCE of each kind, of a path that has ended its clauses and of one that has not. -/
def busyPath : Path := { path0 with queue := [clause0] }

theorem witness_FencesAndCommit : let s := regsState []
    let w := regsWho []
    (issuer s = some w ∧ w.path.ended = true ∧ s.inFlight w true = [] ∧ w.path.idle = true ∧ s.commitBlocked w.key = false ∧
      s.mem.wf = true) ∧
    (∀ fn ∈ [1#7, 13#7], fn.toNat < 16 ∧ fn.toNat % 4 = 1) ∧ (2#7).toNat % 4 = 2 ∧ (2#7).toNat / 4 = 0 ∧
    (15#7).toNat < 16 ∧ 2 ≤ (15#7).toNat % 4 ∧ 1 ≤ (15#7).toNat / 4 ∧ (0#7).toNat % 4 = 0 ∧ (0#7).toNat / 4 ≠ 3 ∧ (12#7).toNat % 4 = 0 ∧
    (12#7).toNat / 4 = 3 ∧
    (issuer (on (teamOf busyPath)) = some (who (teamOf busyPath) busyPath) ∧ busyPath.ended = false ∧ busyPath.idle = false) :=
  ⟨⟨rfl, by decide, by decide +kernel, by decide, by decide +kernel, by decide +kernel⟩, by decide, by decide, by decide, by decide, by decide,
    by decide, by decide, by decide, by decide, by decide, rfl, by decide, by decide⟩

/-- A shoot-down of everything and one of the last page; TSYNC with none and with one outstanding. -/
theorem witness_ShootDowns : let rs : List (Nat × Word64) := [(1, 0x400FFFFFFFFF0000), (2, 1)]
    let s := regsState rs
    let w := regsWho rs
    let p := { path0 with shoots := [7] }
    scalarReady s w [1, 2] ∧ scalarReady s w [0, 0] ∧ (w.path.s 2).toNat ≤ 65536 ∧
      (w.path.s 1).toNat / 2 ^ 16 % 2 ^ 36 + (w.path.s 2).toNat ≤ 2 ^ 36 ∧ (w.path.s 1).toNat / 2 ^ 60 ∈ [0, 1, 2, 4] ∧
      (w.path.s 1).toNat / 2 ^ 52 % 2 ^ 8 = 0 ∧ w.path.ended = true ∧ w.path.shoots.length < 4 ∧ w.path.shoots = [] ∧
      (w.path.s 0).toNat = 0 ∧ issuer (on (teamOf p)) = some (who (teamOf p) p) ∧ p.shoots ≠ [] :=
  ⟨regs_ready _ (by decide) _, regs_ready _ (by decide) _, by decide, by decide, by decide, by decide, by decide, by decide, rfl, rfl,
    rfl, by decide⟩

/-- Every register of the list, the first and last privileged numbers outside ASID 0, and the first and last reserved ones. -/
theorem witness_ControlRead : let s := regsState []
    let w := regsWho []
    let t5 := { teamOf path0 with asid := 5 }
    scalarReady s w [1] ∧ (controlReads s w).length = 33 ∧ s.dbg.jctl = 0 ∧ s.fabricRuns = false ∧
      issuer (on t5) = some (who t5 path0) ∧ t5.asid ≠ 0 ∧ 0x100 ≤ 0xFFF ∧ 0xFFF < 0x1000 ∧ 0x1FFF < 0x2000 :=
  ⟨regs_ready _ (by decide) _, by decide, rfl, rfl, rfl, by decide, by decide, by decide, by decide⟩

theorem witness_ControlWrite : let rs : List (Nat × Word64) := [(1, 4095), (2, 4096)]
    let s := regsState rs
    let w := regsWho rs
    scalarReady s w [1] ∧ scalarReady s w [2] ∧ s.dbg.stepping = none ∧ (w.path.s 2).toNat % 4 = 0 ∧ (w.path.s 1).toNat % 4 ≠ 0 ∧
      w.team.asid = 0 ∧ (w.path.s 1).toNat < 4096 ∧ 4096 ≤ (w.path.s 2).toNat ∧ Tab.wf 0 s.dbg.pcnt = true :=
  ⟨regs_ready _ (by decide) _, regs_ready _ (by decide) _, rfl, by decide, by decide, rfl, by decide, by decide, by decide⟩

/-- A core whose event queue holds an entry of another team and then one of this team. -/
def eventState : State :=
  (regsState [(1, 0x466), (2, 0x10000000F)]).modCore 0 (fun c => { c with evq :=
    [{ teamId := 9, word := 1, scope := 0, rel := 0 }, { teamId := 1, word := 2, scope := 0, rel := 0 }] })

theorem witness_EventsFormatsProgress : let w := regsWho [(1, 0x466), (2, 0x10000000F)]
    scalarReady eventState w [3, 1] ∧ w.slot < 16 ∧ (∀ e ∈ eventQueue (regsState []) w, e.teamId ≠ w.team.teamId) ∧
      eventQueue eventState w = [{ teamId := 9, word := 1, scope := 0, rel := 0 }] ++
        { teamId := 1, word := 2, scope := 0, rel := 0 } :: [] ∧ w.team.teamId = 1#32 ∧
      (let v := (w.path.s 1).toNat
       ¬ (2 ^ 32 ≤ v ∨ 4 < v / 2 ^ 12 % 8 ∨ v % 16 = 15 ∨ v / 16 % 16 = 15 ∨ v / 256 % 16 = 15)) ∧ 2 ^ 32 ≤ (w.path.s 2).toNat ∧
      (15 : Reg6).toNat < 16 ∧ Tab.wf 0 eventState.dbg.pcnt = true ∧ 16 ≤ (16 : Reg6).toNat :=
  ⟨⟨rfl, fun _ _ => path0_marked _ _, by decide⟩, by decide, by decide +kernel, by decide +kernel, rfl, by decide, by decide, by decide,
    by decide +kernel, by decide⟩

/-- A team with a handler address. -/
def trapTeam : Team := { teamOf path0 with tvec := 0x80 }

theorem witness_HandlerEntry :
    scalarReady (on trapTeam) (who trapTeam path0) [1] ∧ trapTeam.handler = none ∧ trapTeam.tvec ≠ 0 ∧
      (on trapTeam).dbg.attached ≠ some (.ofNat 12 trapTeam.asid) ∧ (on trapTeam).commitBlocked 0 = false ∧ (on trapTeam).mem.wf = true :=
  ⟨⟨rfl, fun _ _ => path0_marked [] _, by decide⟩, rfl, by decide, by decide +kernel, by decide +kernel, by decide +kernel⟩

/-- A team in a handler that was entered at 0x10, and at a misaligned address. -/
def handlerTeam (epc : Word64) : Team :=
  { teamOf path0 with handler := some { saved := [(0, path0)], path := 0, cause := 0, epc := epc, elc := 0, va := 0, task := 0 } }

theorem witness_HandlerReturn : ∃ h,
    issuer (on (handlerTeam 0x10)) = some (who (handlerTeam 0x10) path0) ∧ (handlerTeam 0x10).handler = some h ∧ h.epc.toNat % 4 = 0 ∧
      h.clausesDone path0 = true ∧ AMap.find h.saved h.path = some path0 ∧
      (∃ g, issuer (on (handlerTeam 0x11)) = some (who (handlerTeam 0x11) path0) ∧ (handlerTeam 0x11).handler = some g ∧ g.epc.toNat % 4 ≠ 0) ∧
      issuer (on trapTeam) = some (who trapTeam path0) ∧ trapTeam.handler = none :=
  ⟨_, rfl, rfl, by decide, by decide, rfl, ⟨_, rfl, rfl, by decide⟩, rfl, rfl⟩

theorem witness_HandlerRefusals :
    scalarReady (on (handlerTeam 0)) (who (handlerTeam 0) path0) [5, 0, 1, 2, 3, 4] ∧ (handlerTeam 0).handler.isSome = true :=
  ⟨⟨rfl, fun _ _ => path0_marked [] _, by decide⟩, rfl⟩

/-- The plain team, which has no copy in hand. -/
theorem witness_ErrorTrap : issuer (regsState []) = some (regsWho []) ∧ TrapClass.protection ≠ .cancelled ∧
    (regsState []).dbg.trctl.toNat % 2 = 0 ∧ (regsState []).dbg.dmpctl.toNat % 2 = 0 ∧ AMap.rising (regsState []).teams = true ∧
    (∀ c ∈ (regsState []).eng.copies, c.packet.isSome = true ∨ c.teamId ≠ (regsWho []).team.teamId) :=
  ⟨rfl, by decide, by decide, by decide, by decide, by decide⟩

/-- A ring of size 4 and window 1 whose commit frontier is 1, with the entries 4 and 5. -/
def ringTeam : Team :=
  { teamOf (path0.with [(1, 0x6000000000000000), (2, 4), (3, 5)]) with scratch := [(0, 1), (8, 4), (12, 1)] }

theorem witness_RingAdvance : let s := on ringTeam
    let w := who ringTeam (path0.with [(1, 0x6000000000000000), (2, 4), (3, 5)])
    scalarReady s w [5, 1, 2] ∧ scalarReady s w [5, 1, 3] ∧ spaceOf (w.path.s 1) = 6 ∧
      reaches s w (ringAcc (w.path.s 1)) (.scratch 0 0) (s.follow w (ringAcc (w.path.s 1))).1 ∧ s.team 0 = some ringTeam ∧
      (w.path.s 2).toNat = 4 ∧ (w.path.s 3).toNat = 5 ∧ ofBytes ((List.range 8).map (fun i => Tab.get 0 ringTeam.scratch (0 + i))) = 1 ∧
      ofBytes ((List.range 4).map (fun i => Tab.get 0 ringTeam.scratch (0 + 8 + i))) = 4 ∧
      ofBytes ((List.range 4).map (fun i => Tab.get 0 ringTeam.scratch (0 + 12 + i))) = 1 ∧
      5 + 1 < 2 ^ 64 ∧ 1 + 4 < 2 ^ 64 :=
  ⟨⟨rfl, fun _ _ => path0_marked _ _, by decide⟩, ⟨rfl, fun _ _ => path0_marked _ _, by decide⟩, by decide, reaches_of (by decide +kernel), rfl,
    by decide, by decide, by decide, by decide, by decide, by decide, by decide⟩

/-! ## Witnesses: token trees -/

/-- A live node. -/
def liveNode (parent start len : Nat) (anc : BitVec 256) : Node := { Node.blank with state := 1, parent := parent, start := start, len := len, anc := anc }

/-- Slot 0, open in ASID 0, with a trunk of two positions and its child 1. -/
def treeSlot : Slot :=
  { Slot.blank with state := 1, npl := 1, rlog2 := 8, nodes := [(0, liveNode 0 0 2 1), (1, liveNode 0 2 0 3)] }

/-- Registers of the tree tests: handles of slot 0, of its nodes 1 and 255, of slot 1, an address of identifiers, and fields. -/
def treeRegs : List (Nat × Word64) := [(1, 1), (2, 0x100), (3, 0x801), (4, 255), (5, 0x8000000000000000), (6, 0x100), (7, 2), (8, 0xEFE)]

/-- The tree tests' state: slot 0 open, free frames on both dies. -/
def treeState : State :=
  let s := regsState treeRegs
  { s with kv := { s.kv with kvctl := 1, slots := [(0, treeSlot)], free0 := [5, 6, 7, 8], free1 := [9] } }

theorem tree_ready (l : List Reg6) : scalarReady treeState (regsWho treeRegs) l := ⟨rfl, fun _ _ => path0_marked _ _, by decide⟩

theorem tree_can : treeReady treeState (regsWho treeRegs) := ⟨rfl, by decide +kernel, by decide +kernel, by decide +kernel⟩

theorem tree_slot : slotReached treeState (regsWho treeRegs) 0 :=
  ⟨⟨by decide +kernel, .inr rfl⟩, by decide +kernel⟩

/-- The state and the identifiers that TNAPPEND reads, and the state and value of an append. -/
def tokensRead (e : TokensEnd) : State × List (BitVec 32) :=
  match e with
  | .tokens s ts => (s, ts)
  | _ => (State.reset, [])
def appended (r : TreeRes) : State × Word64 :=
  match r with
  | .done s v => (s, v)
  | _ => (State.reset, 0)

def isDone (r : TreeRes) : Bool :=
  match r with
  | .done _ _ => true
  | _ => false
theorem done_of {r : TreeRes} (h : isDone r = true) : r = .done (appended r).1 (appended r).2 := by
  cases r <;> first | rfl | cases h

/-- What TNAPPEND of one identifier to node 1 reads. -/
def tokensOne : State × List (BitVec 32) := tokensRead (readTokens (regsWho treeRegs) ((regsWho treeRegs).path.s 6) 0 (0 + 1) treeState)

/-- TNOPEN of slot 1 at both bounds of its planes; TNFORK of node 255; TNAPPEND of one identifier to node 1. -/
theorem witness_TreeGrowth : let s := treeState
    let w := regsWho treeRegs
    (scalarReady s w [9, 2, 3] ∧ treeReady s w ∧ handleOf (w.path.s 2) 1 0 0 ∧ (s.slot 1).state = 0 ∧
      s.claimed 1 w.claim = false ∧ (s.dev.svc = 1 → 1 % 2 = 0) ∧
      (w.path.s 3).toNat % 256 = 1 ∧ (w.path.s 3).toNat / 256 = 8 ∧ (w.path.s 8).toNat % 256 = 254 ∧ (w.path.s 8).toNat / 256 = 14) ∧
    (handleOf (w.path.s 0) 0 0 0 ∧ slotReached s w 0 ∧ s.kv.free (0 % 2) ≠ [] ∧ (w.path.s 4).toNat = 255 ∧
      ((s.slot 0).node 255).state = 0 ∧ ((s.slot 0).node 0).state = 1) ∧
    (let s1 := tokensOne.1
     let ts := tokensOne.2
     let r2 := s1.treeAppend 0 1 ts w.path.pts w.path.pts
     let r3 := (s1.commitRelease w.key w.pi).treeAppend 0 1 ts 0 0
     handleOf (w.path.s 1) 0 1 0 ∧ (w.path.s 6).toNat / 2 ^ 60 ∈ [0, 6] ∧ (w.path.s 6).toNat % 4 = 0 ∧
      appendCheck s 0 1 (0 + 1) = true ∧ s.dbg.attached ≠ some (.ofNat 12 w.team.asid) ∧
      readTokens w (w.path.s 6) 0 (0 + 1) s = .tokens s1 ts ∧ s1.inFlight w false = [] ∧ s1.commitBlocked w.key = false ∧
      r2 = .done (appended r2).1 (appended r2).2 ∧
      ∀ p, (s1.commitRelease w.key w.pi).path w.key w.pi = some p →
        (s1.commitRelease w.key w.pi).treeAppend 0 1 ts p.pts p.pts = .done (appended r3).1 (appended r3).2) := by
  refine ⟨⟨tree_ready _, tree_can, by unfold handleOf; decide, by decide +kernel, by decide +kernel, by decide +kernel,
      by decide, by decide, by decide, by decide⟩,
    ⟨by unfold handleOf; decide, tree_slot, by decide +kernel, by decide, by decide +kernel, by decide +kernel⟩,
    by unfold handleOf; decide, by decide, by decide, by decide +kernel, by decide +kernel, rfl, by decide +kernel, by decide +kernel,
    done_of (by decide +kernel), ?_⟩
  intro p hp
  have h : ((tokensOne.1.commitRelease 0 0).path 0 0).map (·.pts) = some 0 := by decide +kernel
  have hp' : (tokensOne.1.commitRelease 0 0).path 0 0 = some p := hp
  rw [hp'] at h
  rw [show p.pts = 0 from Option.some.inj h]
  exact done_of (by decide +kernel)

/-- TNPRUNE and TNCOMMIT of node 1, and TNRETIRE of slot 0. -/
theorem witness_TreeEnds : let s := treeState
    let w := regsWho treeRegs
    scalarReady s w [1] ∧ treeReady s w ∧ handleOf (w.path.s 1) 0 1 0 ∧ slotReached s w 0 ∧ 1 ≠ 0 ∧ ((s.slot 0).node 1).state = 1 ∧
      w.team.binding = none ∧ AMap.rising s.teams = true ∧ s.kv.free (0 % 2) ≠ [] ∧ handleOf (w.path.s 0) 0 0 0 ∧
      (∀ g, w.path.wait ≠ some (.retiring g)) ∧ s.eng.locks = [] ∧ s.rebindBlocked 0 (pathTo (s.slot 0) 256 1) = false :=
  ⟨tree_ready _, tree_can, by unfold handleOf; decide, tree_slot, by decide, by decide +kernel, rfl, by decide +kernel, by decide +kernel,
    by unfold handleOf; decide, (by intro g h; cases h), rfl, by decide +kernel⟩

/-- The tree tests' state with a token at position 2. -/
def tokenState : State :=
  let n1 := { liveNode 0 2 1 3 with map := [{ plane := 255, block := 0, frame := 5 }] }
  { treeState with kv := { treeState.kv with slots := [(0, { treeSlot with nodes := [(0, liveNode 0 0 2 1), (1, n1)] })], free0 := [6] } }

theorem token_ready (l : List Reg6) : scalarReady tokenState (regsWho treeRegs) l := ⟨rfl, fun _ _ => path0_marked _ _, by decide⟩

/-- TNBIND, unbinding, TNSTAT, and TNTOK of the token at position 2. -/
theorem witness_TreeReads : let w := regsWho treeRegs
    let a : Acc := { kind := .load, addr := .ofNat 64 (5 * 2 ^ 60 + 255 * 2 ^ 52 + 0 * 2 ^ 40 + 1 * 2 ^ 32 + 2 * 2 ^ 14), size := 4, ord := 1, scope := 2, strong := true, hint := 0, lane := none, uniform := false, tableOk := false }
    (scalarReady treeState w [1] ∧ treeReady treeState w ∧ handleOf (w.path.s 1) 0 1 0 ∧ slotReached treeState w 0 ∧
      ((treeState.slot 0).node 1).state = 1 ∧ treeState.bindings (0 % 2) < 16384 ∧ (w.path.s 5).toNat = 2 ^ 63 ∧
      (let k := treeState.slot 0
       (k.node 1).parent < 2 ^ 8 ∧ (k.node 1).start < 2 ^ 18 ∧ (k.node 1).len < 2 ^ 18 ∧ (k.node 1).state < 4)) ∧
    (scalarReady tokenState w [9, 1, 7] ∧ tokenState.kv.kvctl.toNat % 2 = 1 ∧ slotReached tokenState w 0 ∧ (w.path.s 7).toNat = 2 ∧
      ∃ pa, reaches tokenState w a (.dev pa 5 pa 0) (tokenState.follow w a).1 ∧
        (loadFinds (tokenState.follow w a).1 w a (.dev pa 5 pa 0)).isSome = true) :=
  ⟨⟨tree_ready _, tree_can, by unfold handleOf; decide, tree_slot, by decide +kernel, by decide +kernel, by decide, by decide +kernel⟩,
   ⟨token_ready _, by decide +kernel, ⟨⟨by decide +kernel, .inr rfl⟩, by decide +kernel⟩, by decide,
    ⟨0x50008, reaches_of (by decide +kernel), by decide +kernel⟩⟩⟩

/-! ## Witnesses: lane arithmetic -/

/-- A path that runs a clause, its team, and the state it issues in. -/
def clausePath (c : Clause) : Path := { path0 with run := some c }
def clauseTeam (t : Team) (c : Clause) : Team := { t with paths := [(0, clausePath c)] }
def laneState (t : Team) (c : Clause) : State := on (clauseTeam t c)

/-- The issuing lane instruction of `laneState`. -/
def laneCtx (t : Team) (c : Clause) (f : LaneFields) : LaneCtx :=
  { w := who (clauseTeam t c) (clausePath c), c := c, f := f, lanes := activeLanes (clauseTeam t c) c f }

/-- The checks of a lane instruction that let it issue. -/
def issues (s : State) (spec : LaneCtx → LaneSpec) (x : LaneCtx) : Bool :=
  decide ((spec x).trap x = none) && !s.interlocked x.w.key ((spec x).groups ++ (spec x).viaIndex)

theorem lane_ready_of {s : State} {t : Team} {c : Clause} {f : LaneFields} {spec : LaneCtx → LaneSpec}
    (hi : issuer s = some (laneCtx t c f).w) (h : issues s spec (laneCtx t c f) = true) : laneReady s f spec (laneCtx t c f) := by
  simp only [issues, Bool.and_eq_true, decide_eq_true_eq, Bool.not_eq_true'] at h
  exact ⟨hi, rfl, rfl, rfl, h.1, h.2⟩

theorem lane_ready {t : Team} {c : Clause} {f : LaneFields} {spec : LaneCtx → LaneSpec}
    (h : issues (laneState t c) spec (laneCtx t c f) = true) : laneReady (laneState t c) f spec (laneCtx t c f) :=
  lane_ready_of rfl h

/-- Fields of a lane word, all zero but the type and the modifiers. -/
def fields (ty : BitVec 4) (md : BitVec 6) : LaneFields :=
  { md := md, vd := 0, gn := 0, gp := 0, ty := ty, bsel := 0, ss := 0, vc := 0, vb := 0, va := 0, imm := 0 }

/-- A lane instruction of the plain team can issue with the given fields. -/
def plainIssues (spec : LaneCtx → LaneSpec) (f : LaneFields) : Bool :=
  issues (laneState Team.plain clause0) spec (laneCtx Team.plain clause0 f)

theorem plain_ready {spec : LaneCtx → LaneSpec} {f : LaneFields} (h : plainIssues spec f = true) :
    laneReady (laneState Team.plain clause0) f spec (laneCtx Team.plain clause0 f) := lane_ready h

/-- i32 for the two-operand group, u8 with an immediate, i64 for VABS and VNEG, and i16 for VMAD. -/
theorem witness_LaneInteger :
    plainIssues (arithSpec intTypes true false 0) (fields 0 0) = true ∧
    plainIssues (arithSpec intTypes true false 0) { fields 11 0 with bsel := 2, imm := 0xFF, vd := 255 } = true ∧
    plainIssues (arithSpec [0, 2, 10, 12] false false 0) (fields 2 0) = true ∧
    plainIssues (arithSpec intTypes true true 0) { fields 12 0 with vd := 3, va := 3, vb := 3, vc := 3 } = true ∧
    Tab.wf 0 (clauseTeam Team.plain clause0).vregs = true := by decide +kernel

theorem witness_LaneBits : plainIssues (arithSpec bitTypes true false 0) (fields 14 0) = true ∧
    plainIssues (arithSpec wideTypes true false 0) (fields 2 0) = true ∧ plainIssues (arithSpec bitTypes false false 0) (fields 13 0) = true ∧
    plainIssues (arithSpec wideTypes false false 0) (fields 1 0) = true ∧ Tab.wf 0 (clauseTeam Team.plain clause0).vregs = true := by
  decide +kernel

theorem witness_LaneMoves : plainIssues movSpec { fields 8 0 with bsel := 2 } = true ∧ plainIssues selSpec { fields 4 0 with vc := 7 } = true ∧
    Tab.wf 0 (clauseTeam Team.plain clause0).vregs = true := by decide +kernel

/-- The highest element of an 8-bit type, with every combination. -/
theorem witness_LaneCompares : (∀ md ∈ [0x03#6, 0x07#6, 0x0B#6], plainIssues (compareSpec intTypes) { fields 10 md with vd := 7 } = true) ∧
    plainIssues (compareSpec clsFt) (fields 9 0) = true ∧ Tab.wf false (clauseTeam Team.plain clause0).pregs = true := by
  decide +kernel

/-- Each class of types and operands of the rounding group. -/
theorem witness_LaneFloat :
    laneRounded.all (fun e => e.2.1.all (fun ty => plainIssues (arithSpec e.2.1 e.2.2.1 e.2.2.2.1 0) (fields (.ofNat 4 ty) 0))) = true ∧
    Tab.wf 0 (clauseTeam Team.plain clause0).vregs = true ∧ (convOf clause0.fmt).rm ≠ .stochastic := by decide +kernel

/-- VFMIN, VFABS, and VCVT from f32 to the second byte of t8 and from i8 to u8. -/
theorem witness_LaneFloatExact : plainIssues (arithSpec [4, 5, 6, 7] true false 0) (fields 7 0) = true ∧
    plainIssues (arithSpec [4, 5, 6, 7] false false 0) (fields 5 0) = true ∧ plainIssues cvtSpec { fields 4 8 with imm := 4 } = true ∧
    plainIssues cvtSpec (fields 10 11) = true ∧ Tab.wf 0 (clauseTeam Team.plain clause0).vregs = true ∧
    (convOf clause0.fmt).rm ≠ .stochastic := by decide +kernel

/-- VPAND; VBALLOT of its last word and with a count; VPREFIX with `.inc`. -/
theorem witness_LanePredicates : plainIssues predSpec { fields 0 0 with vd := 7, va := 7, vb := 7 } = true ∧
    plainIssues ballotSpec { fields 0 0 with vd := 63, imm := 15 } = true ∧ plainIssues ballotSpec (fields 0 1) = true ∧
    plainIssues prefixSpec (fields 0 1) = true ∧ Tab.wf false (clauseTeam Team.plain clause0).pregs = true ∧
    Tab.wf 0 (clausePath clause0).sregs = true ∧
    AMap.find (clauseTeam Team.plain clause0).paths 0 = some (clausePath clause0) ∧
    Tab.wf 0 (clauseTeam Team.plain clause0).vregs = true := by decide +kernel

/-- Segments of 2 and of 1,024 lanes. -/
theorem witness_LaneShuffles : plainIssues shuffleSpec (fields 14 1) = true ∧ plainIssues shuffleSpec (fields 2 10) = true ∧
    Tab.wf 0 (clauseTeam Team.plain clause0).vregs = true := by decide +kernel

theorem witness_LaneIndexRegisters : plainIssues laneIdSpec { fields 0 0 with vd := 255 } = true ∧
    plainIssues xmovSpec { fields 0 0 with va := 7 } = true ∧
    plainIssues (indexSpec fun f => f.va != 0) { fields 0 0 with bsel := 2, imm := 0xFFFFFFFF, vd := 7 } = true ∧
    plainIssues (indexSpec fun f => field f.va 3 5 != 0) { fields 0 0 with va := 7 } = true ∧
    Tab.wf 0 (clauseTeam Team.plain clause0).xregs = true ∧ Tab.wf 0 (clauseTeam Team.plain clause0).vregs = true := by decide +kernel

/-- TNMASK with the handle of slot 0 and no window, and a query of the end of node 1. -/
theorem witness_TreeMask :
    let s := { laneState Team.plain clause0 with kv := treeState.kv }
    let f := { fields 0 0 with bsel := 2 }
    let x := laneCtx Team.plain clause0 f
    laneReady s f tnmaskSpec x ∧ Tab.wf 0 x.w.team.vregs = true ∧ (x.c.scalar f.ss).toNat = 0 ∧ s.kv.kvctl.toNat % 2 = 1 ∧
      slotOpenTo s x.w 0 :=
  ⟨lane_ready_of rfl (by decide +kernel), by decide, by decide, by decide +kernel, by decide +kernel, .inr rfl⟩

/-! ## Witnesses: lane memory -/

/-- A team whose x0 has limit 0, which no index is below, in lane 3 alone, and limit 255 in every other lane. -/
def boundTeam : Team :=
  { Team.plain with xregs := ((List.range 32).filter (fun l => l != 3)).map (fun l => (l * 8, 0xFF00#32)) }

/-- Each clause of the trap order: a reserved type, a guard of p0 negated, a type of another class, an index register out of
bounds in lane 3, and groups of sixteen that overlap. -/
theorem witness_LaneTrapOrder :
    (issuer (laneState boundTeam clause0) = some (who (clauseTeam boundTeam clause0) (clausePath clause0)) ∧
      (clausePath clause0).run = some clause0) ∧
    (let f := fields 5 0
     (arithSpec intTypes true false 0 (laneCtx boundTeam clause0 f)).trap (laneCtx boundTeam clause0 f) ≠ some .reservedField ∧
       f.ty.toNat ∉ intTypes) ∧
    (let f := { fields 0 0 with bsel := 3 }
     let x := laneCtx boundTeam clause0 f
     (arithSpec intTypes true false 0 x).trap x ≠ some .reservedField ∧ f.ty.toNat ∈ intTypes ∧
       x.lanes = [0, 1, 2] ++ 3 :: (List.range 28).map (· + 4) ∧ (∀ m ∈ [0, 1, 2], indexBad x.w.team f f.ty.toNat 1 m = false) ∧
       indexBad x.w.team f f.ty.toNat 1 3 = true) ∧
    (let f := { fields 14 0 with imm := 16, vd := 0, vb := 15 }
     f.vd.toNat + 16 ≤ (clauseTeam boundTeam clause0).vcount ∧ f.vb.toNat + 16 ≤ (clauseTeam boundTeam clause0).vcount ∧
       f.vd ≠ f.vb ∧ f.vd.toNat < f.vb.toNat + 16 ∧ f.vb.toNat < f.vd.toNat + 16) := by
  refine ⟨⟨rfl, rfl⟩, ?_⟩
  decide +kernel

/-- A clause whose s1 is the device address 0x100 and whose s2 is the start of the team's own scratchpad. -/
def memClause : Clause := { clause0 with snap := [(1, 0x100), (2, 0x6000000000000000)] }
def memState : State := laneState Team.plain memClause

/-- Fields of a lane memory word with a uniform address in s1, and with one of each lane's own, from v9, in s2. -/
def oneAddr (ty : BitVec 4) (mx : BitVec 2) (ord scp st : Nat) : LaneFields :=
  { fields ty (mx.setWidth 6 <<< 4) with ss := 1, imm := .ofNat 32 (ord + 4 * scp + 16 * st) }
def ownAddr (ty : BitVec 4) : LaneFields := { fields ty 0x08 with ss := 2, va := 9 }

/-- The only share of a word with a uniform address. -/
def theShare (x : LaneCtx) (acc : Nat → Acc) : Share := (x.shares acc).headD { acc := acc 0, lanes := [] }

def devTarget : Target := .dev 0x100 0 0x100 0x7D

/-- A lane word of `memState` can issue. -/
def memIssues (spec : LaneCtx → LaneSpec) (f : LaneFields) : Bool := issues memState spec (laneCtx Team.plain memClause f)

theorem mem_ready {spec : LaneCtx → LaneSpec} {f : LaneFields} (h : memIssues spec f = true) :
    laneReady memState f spec (laneCtx Team.plain memClause f) := lane_ready h

/-- A load of one address, whole registers and a signed byte, and one of a scratchpad by lane. -/
theorem witness_LaneLoad :
    (∀ f ∈ [oneAddr 0 0 0 0 0, oneAddr 10 1 0 0 0, oneAddr 9 1 0 0 0], memIssues (loadSpec 1) f = true ∧
      (let x := laneCtx Team.plain memClause f
       let n := moveBytes f 1
       let h := theShare x (x.acc .load n false)
       x.shares (x.acc .load n false) = [h] ∧ goesTo memState x.w h.acc devTarget = true ∧
         (loadFinds (memState.follow x.w h.acc).1 x.w h.acc devTarget).isSome = true)) ∧
    (∀ k ∈ [1, 2, 4], memIssues (loadSpec k) (oneAddr 0 0 0 0 0) = true) ∧
    (let f := ownAddr 2
     let x := laneCtx Team.plain memClause f
     memIssues (loadSpec 1) f = true ∧ f.md.toNat / 8 % 2 = 1 ∧ f.imm.toNat % 4 = 0 ∧ x.lanes ≠ [] ∧
       (memState.team 0).isSome = true ∧
       ∀ l ∈ x.lanes, goesTo memState x.w (x.acc .load (moveBytes f 1) false l) (.scratch 0 0) = true) ∧
    Tab.wf 0 (clauseTeam Team.plain memClause).vregs = true ∧ (clauseTeam Team.plain memClause).k.regs ≤ 16 ∧ memClause.watched = [] := by
  decide +kernel

/-- The state and its home line after a lane's access of one address is followed. -/
def followed (f : LaneFields) (acc : LaneCtx → Nat → Acc) : State :=
  let x := laneCtx Team.plain memClause f
  (memState.follow x.w (theShare x (acc x)).acc).1

/-- A versioned store, one of device scope, a release, and one to a scratchpad by lane. -/
theorem witness_LaneStore :
    (∀ f ∈ [oneAddr 0 0 0 0 0, oneAddr 4 0 0 2 1, oneAddr 10 1 2 1 1], memIssues (storeSpec 1) f = true ∧
      (let x := laneCtx Team.plain memClause f
       let acc := x.acc .store (moveBytes f 1) (decide (1 = 1) && is64 f.ty.toNat)
       let h := theShare x acc
       let s1 := (memState.follow x.w h.acc).1
       x.shares acc = [h] ∧ x.lanes.getLast? = some 31 ∧ goesTo memState x.w h.acc devTarget = true ∧ s1.mem.wf = true ∧
         s1.mem.isTable 0x100 = false ∧ s1.specLines (homeSlice s1.dev (lineOf 0x100 * 64)) < 2048)) ∧
    (∀ k ∈ [1, 2, 4], memIssues (storeSpec k) (oneAddr 0 0 0 0 0) = true) ∧
    versioned 0 0 0 false = true ∧ versioned 0 0 2 true = false ∧ releases 0 = false ∧ releases 2 = true ∧
    (let f := ownAddr 2
     let x := laneCtx Team.plain memClause f
     memIssues (storeSpec 1) f = true ∧ f.md.toNat / 8 % 2 = 1 ∧ f.imm.toNat % 4 = 0 ∧ x.lanes ≠ [] ∧
       (∀ l ∈ x.lanes, goesTo memState x.w (x.acc .store (moveBytes f 1) (decide (1 = 1) && is64 f.ty.toNat) l) (.scratch 0 0) = true) ∧
       memState.team 0 = some x.w.team ∧ Tab.wf 0 x.w.team.scratch = true ∧ memState.mem.wf = true) ∧ memClause.watched = [] := by
  decide +kernel

/-- Word atomics of 32 and 64 bits, and a line atomic on a whole line. -/
theorem witness_LaneAtomic :
    (∀ ty ∈ [0, 2], let f := oneAddr (.ofNat 4 ty) 0 0 3 1
      let x := laneCtx Team.plain memClause f
      let acc := x.acc .atomic (4 * regsOf x.ty) (is64 x.ty)
      let h := theShare x acc
      let s1 := (memState.follow x.w h.acc).1
      memIssues (atomicSpec false clsAi) f = true ∧ memIssues (atomicSpec true clsW) f = true ∧ x.shares acc = [h] ∧
        goesTo memState x.w h.acc devTarget = true ∧ s1.mem.wf = true) ∧
    (let f := { oneAddr 14 0 0 3 1 with vd := 16 }
     let x := laneCtx Team.plain memClause f
     let h := theShare x (x.acc .atomic 64 false)
     let s1 := (memState.follow x.w h.acc).1
     memIssues lineAtomicSpec f = true ∧ x.shares (x.acc .atomic 64 false) = [h] ∧
       goesTo memState x.w h.acc devTarget = true ∧ s1.mem.wf = true) ∧
    releases 0 = false ∧ leafJ 0x7D = false ∧ Tab.wf 0 (clauseTeam Team.plain memClause).vregs = true ∧ memClause.watched = [] := by
  decide +kernel

/-- A team with an area of 8 GiB, whose registers v20 hold nothing but lane 1's 5, and a page for its first spill slot. -/
def spillTeam : Team := { Team.plain with k := { Kdesc.plain with calog2 := 33 }, vregs := [(256 * 1 + 20, 5)] }
def spillState : State :=
  let s := laneState spillTeam clause0
  let leaf : TlbEntry := { asid := 0, host := false, vpn := 0x10000, ps := 0, leaf := 0x7D#64, leafPa := 0, gen := 0 }
  (s.modCore 0 (fun c => { c with tlb := leaf :: c.tlb }))

/-- A record of 64 + 16 bytes at physical address 0, of differences of four bits. -/
def fillState : State := { spillState with mem := { spillState.mem with bytes := [(0, 0x81), (4, 7), (64, 0xF0)] } }

/-- Whether a span lies in one page at a physical address. -/
def spanAt (s : State) (w : Who) (l : Nat) (kind : AccKind) (a n pa : Nat) : Bool :=
  decide ((s.span w.core w.team.asid l kind a n).2 = .ok [(0, n, some pa)])
theorem span_at {s : State} {w : Who} {l : Nat} {kind : AccKind} {a n pa : Nat} (h : spanAt s w l kind a n pa = true) :
    s.span w.core w.team.asid l kind a n = ((s.span w.core w.team.asid l kind a n).1, .ok [(0, n, some pa)]) :=
  Prod.ext rfl (of_decide_eq_true h)

/-- A difference of four bits spilled to slot 5, and a fill of a record whose format byte stands in memory. -/
theorem witness_LaneSpills :
    (let f := { fields 14 0 with vb := 20, imm := 5 }
     let x := laneCtx spillTeam clause0 f
     let v := fun l => x.w.team.v l f.vb.toNat
     let fits := fun (c : Nat) => ∀ l ∈ x.lanes,
       if c = 0 then v l - v 0 = 0 else -(2 ^ (2 ^ (c + 1) - 1) : Int) ≤ (v l - v 0).toInt ∧ (v l - v 0).toInt < 2 ^ (2 ^ (c + 1) - 1)
     let n := 64 + (x.w.team.k.lanes * 4 + 7) / 8
     let s1 := (spillState.span x.w.core x.w.team.asid x.firstLane .spill (x.w.team.area + f.imm.toNat % 64 * 4160) n).1
     laneReady spillState f vspillSpec x ∧ 266240 ≤ x.w.team.k.ta ∧ x.lanes = 0 :: (List.range 31).map (· + 1) ∧
       (∀ c, c < 1 → ¬ fits c) ∧ fits 1 ∧
       spillState.span x.w.core x.w.team.asid x.firstLane .spill (x.w.team.area + f.imm.toNat % 64 * 4160) n = (s1, .ok [(0, n, some 20800)]) ∧ s1.mem.wf = true) ∧
    (let f := { fields 14 0 with vd := 20, imm := 0 }
     let x := laneCtx spillTeam clause0 f
     let n := 64 + (x.w.team.k.lanes * 4 + 7) / 8
     let a := x.w.team.area + f.imm.toNat % 64 * 4160
     let s1 := (fillState.span x.w.core x.w.team.asid x.firstLane .fill a 64).1
     let s2 := (s1.span x.w.core x.w.team.asid x.firstLane .fill a n).1
     laneReady fillState f vfillSpec x ∧ 266240 ≤ x.w.team.k.ta ∧ Tab.wf 0 x.w.team.vregs = true ∧
       fillState.span x.w.core x.w.team.asid x.firstLane .fill a 64 = (s1, .ok [(0, 64, some 0)]) ∧
       s1.span x.w.core x.w.team.asid x.firstLane .fill a n = (s2, .ok [(0, n, some 0)]) ∧ byteAt s1 0 = .ofNat 8 (0x80 + 1) ∧
       memoryKept s1 s2) := by
  refine ⟨⟨lane_ready_of rfl (by decide +kernel), by decide +kernel, by decide +kernel, by decide +kernel, by decide +kernel,
    span_at (by decide +kernel), by decide +kernel⟩, lane_ready_of rfl (by decide +kernel), by decide +kernel,
    by decide +kernel, span_at (by decide +kernel), span_at (by decide +kernel), by decide +kernel, by decide +kernel, by decide +kernel⟩

/-! ## Witnesses: synchronisation -/

/-- A team whose scratchpad starts with a record: the bytes of eight words of 64 bits. -/
def recordTeam (ws : List Nat) : Team := { Team.plain with scratch := Tab.setList 0 0 (ws.flatMap (toBytes 8)) [] }

/-- Fields of a synchronisation word whose object is at s2. -/
def syncFields (ord scp : Nat) : LaneFields := { fields 0 (.ofNat 6 (scp + 4 * ord)) with ss := 2 }

/-- What makes an object of the own scratchpad one, at the offset of an access. -/
def ownsAt (s : State) (x : LaneCtx) (a : Acc) : Bool :=
  !x.lanes.isEmpty && decide (spaceOf a.addr = 6) && decide (firstChecks s x.w a = none) &&
    (x.w.team.binTeam || decide (x.w.team.tidx = a.addr.toNat / 2 ^ 22 % 2 ^ 6)) &&
    decide (s.whereIs x.w.team.teamId = .resident x.w.key x.w.team) && Tab.wf 0 x.w.team.scratch && x.c.watched.isEmpty &&
    decide (s.dbg.attached ≠ some (.ofNat 12 x.w.team.asid))

theorem owns_of {s : State} {x : LaneCtx} {a : Acc} (h : ownsAt s x a = true) : ownObject s x a (a.addr.toNat % 2 ^ 22) := by
  simp only [ownsAt, Bool.and_eq_true, Bool.or_eq_true, decide_eq_true_eq, Bool.not_eq_true', List.isEmpty_iff,
    List.isEmpty_eq_false_iff] at h
  exact ⟨h.1.1.1.1.1.1.1, h.1.1.1.1.1.1.2, h.1.1.1.1.1.2, rfl, h.1.1.1.1.2, h.1.1.1.2, h.1.1.2, h.1.2, h.2⟩

/-- A guard that no lane passes. -/
def noLane (f : LaneFields) : LaneFields := { f with gp := 1 }

/-- BINIT and BADD with and without a release, and each of the group without an active lane. -/
theorem witness_BarrierObjects :
    (∀ f ∈ [syncFields 0 0, syncFields 2 1], let x := laneCtx Team.plain memClause f
      memIssues (fun _ => syncSpec f [0, 2] true) f = true ∧ ownsAt memState x (x.objectAcc .store false 16) = true ∧
        releaseWaits memState x.w (syncScope f) = false) ∧
    (∀ f ∈ [syncFields 0 0, syncFields 3 1], let x := laneCtx Team.plain memClause f
      memIssues (fun _ => syncSpec f [0, 1, 2, 3] true) f = true ∧ ownsAt memState x (x.objectAcc .atomic false 16) = true ∧
        releaseWaits memState x.w (syncScope f) = false) ∧ memState.mem.wf = true ∧
    ∀ o ∈ [0, 1], let f := noLane (syncFields o 0)
      memIssues (fun _ => syncSpec f [o] true) f = true ∧ (laneCtx Team.plain memClause f).lanes = [] := by
  decide +kernel

/-- CNT of 0 and of 1, and rereads of each. -/
theorem witness_BarrierWait :
    (∀ n ∈ [0, 1], let t := recordTeam [n]
      let f := syncFields 1 0
      let x := laneCtx t memClause f
      let s := laneState t memClause
      issues s (fun _ => syncSpec f [1] true) x = true ∧ ownsAt s x (x.objectAcc .load true 16) = true ∧
        countAt x.w.team 0 = n) ∧
    ∀ n ∈ [0, 1], let b : PendingBwait := { clause := 0, team := 1, off := 0, scope := 0 }
      let p := { path0 with bwaits := [b] }
      let t := { recordTeam [n] with paths := [(0, p)] }
      (on t).path (0 * 16 + 0) 0 = some p ∧ (on t).whereIs b.team = .resident 0 t ∧ countAt t 0 = n := by
  decide +kernel

/-- A generation at which all lanes have arrived, and one at which none has. -/
theorem witness_LaneBarriers :
    (let f := fields 0 13
     let x := laneCtx Team.plain memClause f
     (List.range x.w.team.k.lanes).filter (fun l => x.c.mask.getLsbD l) ≠ [] ∧ releaseWaits memState x.w 1 = false ∧
       memIssues (fun _ => syncSpec f [3] false (f.gp != 0)) f = true ∧
       memIssues (fun _ => syncSpec f [3] false (syncScope f == 0)) f = true) ∧ memState.mem.wf = true ∧
    ∀ n ∈ [0, 1], let t := { Team.plain with vbar := (List.range 32).map (fun l => (l, n)), barWait := [(0, 0, 1, false, 1)] }
      (on t).team (0 * 16 + 0) = some t ∧ t.handler = none ∧
        (countedLanes t).all (fun l => decide (t.vbarGen + 1 ≤ Tab.get 0 t.vbar l)) = decide (n = 1) ∧
        t.barWait.any (fun w => !w.2.2.2.1 && decide (t.vbarGen + 1 ≤ w.2.2.1)) = true := by
  decide +kernel

/-- An access of the path's running clause in flight. -/
def flying : PendAccess :=
  { id := 0, tkey := 0, teamId := 1, path := 0, clause := some 0, space := 4, addr := 0, size := 4, dest := .nothing,
    acq := false, strong := false, lane := 0, va := 0, rc := 0, again := none }

/-- A fence of each order; one of no lane, one with an access in flight, and one that commits. -/
theorem witness_LaneFence :
    (∀ o ∈ [1, 2, 3], memIssues (fun _ => syncSpec (fields 0 (.ofNat 6 (4 * o + 1))) [1, 2, 3] false) (fields 0 (.ofNat 6 (4 * o + 1))) = true) ∧
    (let f := noLane (fields 0 13)
     memIssues (fun _ => syncSpec f [1, 2, 3] false) f = true ∧ (laneCtx Team.plain memClause f).lanes = []) ∧
    (laneCtx Team.plain memClause (fields 0 13)).lanes ≠ [] ∧
    memState.inFlight (laneCtx Team.plain memClause (fields 0 13)).w true = [] ∧ memState.commitBlocked 0 = false ∧
    { memState with eng := { memState.eng with pend := [flying] } }.inFlight (laneCtx Team.plain memClause (fields 0 13)).w true ≠ [] ∧
    memState.mem.wf = true := by decide +kernel

/-- A record that moves 64 bytes from page 0 to the scratchpad at offset 256, and one of a sum of one member's 16 words. -/
def copyRecord : List Nat := [0, 0x100, 0x6000000000000100, 0, 64, 0, 0, 0]
def collRecord : List Nat := [0, 0x100, 0x200, 16, 0, 0, 0, 0]

/-- The state of a kick of the record at offset 0. -/
def kickState (ws : List Nat) : State :=
  let s := laneState (recordTeam ws) memClause
  { s with fab := { s.fab with fgrp := [(0, 0x80000001000000000000000000000000#128)] } }

/-- The records and collectives of a full engine. -/
def fullCopies : List Copy :=
  let x := laneCtx (recordTeam copyRecord) memClause (syncFields 0 0)
  List.replicate 16 (Copy.ofRecord x.w.team x.w.key x.w.pi x.c.id x.c.fmt 0 ((List.range 64).map (fun i => Tab.get 0 x.w.team.scratch i)))
def fullColls : List Coll :=
  let x := laneCtx (recordTeam collRecord) memClause (syncFields 0 0)
  List.replicate 4 (Coll.ofRecord (kickState collRecord) x.w.team x.w.key x.w.pi 0 ((List.range 64).map (fun i => Tab.get 0 x.w.team.scratch i)))

theorem witness_EngineKicks :
    (let f := syncFields 0 0
     let x := laneCtx (recordTeam copyRecord) memClause f
     let s := kickState copyRecord
     let full := { s with eng := { s.eng with copies := fullCopies } }
     let b := (List.range 64).map (fun i => Tab.get 0 x.w.team.scratch (0 + i))
     let c := Copy.ofRecord x.w.team x.w.key x.w.pi x.c.id x.c.fmt 0 b
     [s, full].all (fun s => issues s (fun _ => syncSpec f [0] true (syncScope f != 0)) x && ownsAt s x (x.objectAcc .load true 64)) = true ∧
       16 ≤ full.recordsOf (x.w.key / 16) ∧ s.recordsOf (x.w.key / 16) < 16 ∧ s.inFlight x.w true = [] ∧ c.trap b x.w.team.k = none ∧
       c.scope = 0 ∧ c.mode < 6) ∧
    (let f := syncFields 0 0
     let x := laneCtx (recordTeam collRecord) memClause f
     let s := kickState collRecord
     let full := { s with fab := { s.fab with colls := fullColls } }
     let b := (List.range 64).map (fun i => Tab.get 0 x.w.team.scratch (0 + i))
     let one := { s with dev := { s.dev with svc := 1 } }
     [s, full, one].all (fun s => issues s (fun _ => syncSpec f [0] true (syncScope f != 0)) x && ownsAt s x (x.objectAcc .load true 64)) = true ∧
       4 ≤ full.collsOf (x.w.key / 16) ∧ full.dev.svc ≠ 1 ∧ s.collsOf (x.w.key / 16) < 4 ∧ s.inFlight x.w true = [] ∧
       collTrap s b x.w.team.window = none ∧ (Coll.ofRecord s x.w.team x.w.key x.w.pi 0 b).scope = 0 ∧ s.fab.fnode = 0xFFF) := by
  refine ⟨by decide +kernel, by decide +kernel⟩

/-! ## Witnesses: small matrices -/

/-- Fields of a small-matrix word over v0, v16, v32 and v48, with its shapes. -/
def qFields (ty : BitVec 4) (f1 f2 f3 : Nat) : LaneFields :=
  { fields ty 0 with vd := 0, va := 16, imm := .ofNat 32 (f1 + 8 * f2 + 64 * f3) }

/-- A word is ready under a specification in a team of 32 lanes. -/
def qReady (spec : LaneFields → LaneCtx → LaneSpec) (f : LaneFields) : Bool := plainIssues (spec f) f

/-- Shapes of 3 by 2 in f32, and of 2 by 2 in f64; QSCL by a scalar register. -/
theorem witness_MatrixArithmetic :
    (∀ ty ∈ [4, 5], qReady copySpec (qFields (.ofNat 4 ty) 3 2 0) = true ∧ qReady qaddSpec { qFields (.ofNat 4 ty) 2 2 0 with vb := 32 } = true) ∧
    qReady qaddSpec { qFields 4 3 2 0 with vb := 32, md := 1 } = true ∧ qReady qsclSpec { qFields 4 6 1 0 with vb := 32 } = true ∧
    qReady qsclSpec { qFields 4 2 2 0 with bsel := 1, ss := 63 } = true ∧ qReady qmulSpec { qFields 4 2 3 2 with vb := 32 } = true ∧
    qReady qmadSpec { qFields 4 2 3 2 with vb := 32, vc := 48 } = true ∧ Tab.wf 0 (clauseTeam Team.plain clause0).vregs = true ∧
    (clauseTeam Team.plain clause0).k.regs ≤ 16 := by decide +kernel

/-- A factorisation that names p7, one of order 1 that names none, solves of two columns, and determinants of both kinds. -/
theorem witness_MatrixSolvers :
    qReady qcholSpec { qFields 4 3 0 0 with vb := 32, md := 7 } = true ∧
    qReady qlupSpec { qFields 5 1 0 0 with vb := 32, vc := 33 } = true ∧
    qReady qsolcSpec { qFields 4 3 0 2 with vb := 32 } = true ∧ qReady qsollSpec { qFields 4 3 0 2 with vb := 32, vc := 48 } = true ∧
    qReady qdetSpec { qFields 4 3 0 0 with md := 1, vc := 48 } = true ∧
    qReady qdetSpec (qFields 4 3 0 0) = true ∧ Tab.wf false (clauseTeam Team.plain clause0).pregs = true := by decide +kernel

/-- A matrix of 2 by 2 at each lane's address in the scratchpad. -/
theorem witness_MatrixMemory :
    let f := { fields 4 0x08 with ss := 2, va := 9, vc := 2 + 8 * 2 }
    let x := laneCtx Team.plain memClause f
    memIssues (qldSpec f) f = true ∧ memIssues (qstSpec f) f = true ∧ f.md.toNat / 8 % 2 = 1 ∧ f.imm.toNat % 4 = 0 ∧ x.lanes ≠ [] ∧
      x.c.sent = none ∧ x.c.watched = [] ∧ memState.inFlight x.w true = [] ∧
      (∀ k ∈ [AccKind.load, AccKind.store], ∀ l ∈ x.lanes, ∀ i < 4, ((x.elements k l)[i]?).any (fun a =>
        decide (a.addr = x.addr l + .ofNat 64 (i * 4)) && goesTo memState x.w a (.scratch 0 (0 + i * 4))) = true) ∧
      (x.elements .load 0).length = 4 ∧ Tab.wf 0 x.w.team.scratch = true := by decide +kernel

/-! ## Witnesses: matrices -/

/-- Teams of 1,024 lanes, alone and paired, with some operations in the sequencer; and a format register with wide operands. -/
def matTeam (pair : Bool) (q : List MatOp) : Team := { Team.plain with k := { Kdesc.plain with lanes := 1024, pair := pair }, seq := q }
def matOp (k : MatKind) : MatOp := { tile := 0, path := 0, clause := 0, fmt := resetFmt, kind := k }

/-- Formats of an exact pair, of types that have no mode together, and of FR u8. -/
def fmtExact : BitVec 32 := 0x00000488#32
def fmtNone : BitVec 32 := 0x00000468#32

def matIssues (t : Team) (fmt : BitVec 32) (spec : LaneCtx → LaneSpec) (f : LaneFields) : Bool :=
  issues (laneState t { clause0 with fmt := fmt }) spec (laneCtx t { clause0 with fmt := fmt } f)

/-- Each instruction with room and without; a scale byte of 17, formats without a mode, and both kinds of MLOOP that enter. -/
theorem witness_MatrixIssue :
    let t := matTeam false []
    let full := matTeam false (List.replicate 4 (matOp (.mstat 1)))
    let held := matTeam false [matOp (.mloop 0 0 1 0 0 none false 0)]
    let loop := { fields 0 0 with va := 0, vb := 64 }
    let scaled := { fields 0 16 with va := 0, vb := 64, vc := 128 }
    let ctx := fun (t : Team) fmt f => laneCtx t { clause0 with fmt := fmt } f
    matIssues t resetFmt mzeroSpec (fields 0 0) = true ∧ matIssues t resetFmt mstatSpec { fields 0 0 with vd := 63 } = true ∧
    t.sequencerFull = false ∧ full.sequencerFull = true ∧ matIssues full resetFmt mstatSpec (fields 0 0) = true ∧
    matIssues held resetFmt mrdSpec { fields 0 0 with imm := 120 } = true ∧ held.sequencerFull = false ∧
    matIssues t resetFmt (mwrSpec 2) { fields 4 0x30 with imm := 120 } = true ∧ matIssues full resetFmt (mwrSpec 2) (fields 4 0x30) = true ∧
    matIssues t resetFmt (loopSpec false) loop = true ∧ scaleRefused (ctx t resetFmt loop) = false ∧
    loopModeRefused (ctx t resetFmt loop) = false ∧ (ctx t resetFmt loop).lanes ≠ [] ∧
    matIssues (matTeam true []) resetFmt (loopSpec true) loop = true ∧
    matIssues t fmtExact (loopSpec false) scaled = true ∧
    scaleRefused (ctx { t with vregs := [(128, 17)] } fmtExact scaled) = true ∧
    matIssues { t with vregs := [(128, 17)] } fmtExact (loopSpec false) scaled = true ∧
    matIssues t fmtNone (loopSpec false) loop = true ∧ loopModeRefused (ctx t fmtNone loop) = true ∧
    scaleRefused (ctx t fmtNone loop) = false := by decide +kernel

/-- The state of a core whose only team has one operation. -/
def stepState (pair : Bool) (k : MatKind) : State := on (matTeam pair [matOp k])

def lone (pair : Bool) (k : MatKind) : Prop := loneOperation (stepState pair k) 0 0 (matTeam pair [matOp k]) (matOp k)

/-- The device's one team is the one at slot 0 of core 0. -/
theorem lone_only (pair : Bool) (k : MatKind) (j : Nat) (t : Team) (h : (stepState pair k).team j = some t) : j = 0 * 16 + 0 := by
  cases j with
  | zero => rfl
  | succ n => cases h

theorem lone_of (pair : Bool) (k : MatKind) (h : (stepState pair k).pendingLoads 0 = []) : lone pair k :=
  ⟨by decide, rfl, (by intro j hj hn; interval_cases j <;> first | rfl | exact absurd rfl hn), rfl, rfl, h, rfl, rfl,
    rfl, fun j t h _ => lone_only pair k j t h⟩

/-- One operation of each kind, alone and paired. -/
theorem witness_MatrixSteps : lone false .mzero ∧ lone false (.mloop 0 64 2 8 8 (some 128) false 1) ∧
    lone true (.mloop 0 64 1 0 0 none true 0) ∧ lone false (.mrd 255 0 5) ∧ lone false (.mwr 7 120 11 false true 5) ∧ lone false (.mstat 63) ∧
    (matTeam true []).k.pair = true ∧ Tab.wf 0 (matTeam false []).vregs = true ∧ 255 + regsOf (fmtFr resetFmt) ≤ 256 ∧
    (convOf resetFmt).rm ≠ .stochastic ∧ AMap.find (matTeam false []).paths 0 = some path0 ∧ Tab.wf 0 path0.sregs = true :=
  ⟨lone_of _ _ rfl, lone_of _ _ rfl, lone_of _ _ rfl, lone_of _ _ rfl, lone_of _ _ rfl, lone_of _ _ rfl, rfl, rfl, by decide, by decide,
    rfl, rfl⟩

/-! ## Witnesses: clauses and ticks -/

/-- A path with one clause in its queue that waits for f3, an ended clause that names f3, and one that has ended without. -/
def queuePath (blocked : Bool) : Path :=
  { path0 with queue := [{ clause0 with wait := 8 }], done := if blocked then [{ clause0 with setA := some 3, pend := 1 }] else [] }

theorem queue_lone (b : Bool) : lonePath (on (teamOf (queuePath b))) 0 0 (teamOf (queuePath b)) 0 (queuePath b) :=
  ⟨by decide, by decide, rfl, (by intro j hj hn; interval_cases j <;> first | rfl | exact absurd rfl hn), rfl, rfl, rfl⟩

/-- A clause that may start and one that may not; completions with and without a finished clause. -/
theorem witness_ClauseEvents :
    (∀ b, lonePath (on (teamOf (queuePath b))) 0 0 (teamOf (queuePath b)) 0 (queuePath b)) ∧
    (∀ b ∈ [true, false], let p := queuePath b
      p.run = none ∧ p.park = none ∧ p.stop = none ∧ (p.queue.headD clause0).wait = 8 ∧
        ((∀ n < 12, (p.queue.headD clause0).wait.getLsbD n = true → p.outstanding n = 0) ↔ b = false) ∧
        (∀ n < 12, (p.queue.headD clause0).names n = true → p.outstanding n < 63) ∧
        (on (teamOf p)).clauseWaitsRegs (0 * 16 + 0) (teamOf p) (p.queue.headD clause0) = false ∧
        ((on (teamOf p)).core 0).running = none) ∧
    (let p := { path0 with done := [{ clause0 with pend := 1 }, clause0] }
     (on (teamOf p)).path (0 * 16 + 0) 0 = some p ∧ p.done = [{ clause0 with pend := 1 }] ++ clause0 :: [] ∧ clause0.pend = 0) ∧
    (let p := queuePath true
     (on (teamOf p)).path (0 * 16 + 0) 0 = some p ∧ ∀ d ∈ p.done, d.pend ≠ 0) :=
  ⟨queue_lone, by decide +kernel, by decide +kernel, by decide +kernel⟩

/-- A running team on the core of the tick, and one on another core. -/
theorem witness_TickAndUnassigned : let s := (on (regsTeam [])).setTeam 16 (regsTeam [])
    s.team 0 = some (regsTeam []) ∧ 0 / 16 = 0 ∧ s.team 16 = some (regsTeam []) ∧ 16 / 16 ≠ 0 ∧
      AMap.find (regsTeam []).paths 0 = some (path0.with []) ∧ issuer s = some (regsWho []) := by
  refine ⟨?_, ?_, ?_, ?_, ?_, ?_⟩ <;> first | rfl | decide

/-! ## Witnesses: queue processors -/

/-- Queue processor 0 with some registers. -/
def hart0 (rs : List (Nat × Word64)) : Hart := { Hart.reset with x := rs }
def hartState (k : Hart) : State :=
  let s := on Team.plain
  { s with sched := { s.sched with harts := [(0, k)] }, ctx := { s.ctx with hart := 0 } }

/-- A field of one bit at bit 63, the whole register, a field of no width, and one that passes bit 63. -/
theorem witness_CommandFields : let rs : List (Nat × Word64) := [(1, 0x7F), (2, 0x1000), (4, 0x81)]
    hartReady (hartState (hart0 rs)) 0 (hart0 rs) ∧
    (let fits := fun (r : Reg5) => let spec := ((hart0 rs).r r).toNat
       spec < 2 ^ 13 ∧ 1 ≤ spec / 2 ^ 6 % 2 ^ 7 ∧ spec % 2 ^ 6 + spec / 2 ^ 6 % 2 ^ 7 ≤ 64
     fits 1 ∧ fits 2 ∧ ((hart0 rs).r 3).toNat / 2 ^ 6 % 2 ^ 7 = 0 ∧
       64 < ((hart0 rs).r 4).toNat % 2 ^ 6 + 64) ∧
    (let u := { hart0 rs with mode := .user }
     (hartState u).ctx.hart = 0 ∧ AMap.find (hartState u).sched.harts 0 = some u ∧ u.mode = .user ∧ Tab.wf 0 u.csr = true) := by
  refine ⟨⟨rfl, rfl, by decide, by decide, by decide⟩, by decide +kernel, rfl, rfl, rfl, by decide⟩

/-- Bytes of 64-bit words at an address of device memory. -/
def wordsAt (a : Nat) (ws : List Nat) (m : Memory) : Memory := m.put a (ws.flatMap (toBytes 8))

/-- Page tables at 1 MiB that map the first 512 MiB of ASID 0 to themselves. -/
def mapped (s : State) : State :=
  { s with
    mem := wordsAt 0x118000 [0x207D] (wordsAt 0x110000 [0x118003] (wordsAt 0x100000 [0x110003] s.mem)),
    xl := { s.xl with atbase := 0x100000 } }

/-- A kernel descriptor at 4,096, and a LAUNCH packet that names it: one neighbourhood. -/
def kdescWords : List Nat := [0, 0, 0x0001000101004020, 0x10010, 0x603030, 20, 0, 0]
def launchWords : List Nat := [1, 0, 0x1000, 7, 0x1000001000001, 0, 0, 0]

/-- Queue 0 enabled with 16 entries at 8,192 and one packet written; the LAUNCH packet is also in SRAM at offset 64. -/
def fetchHart : Hart :=
  { hart0 [(2, 0x4000000000000040), (3, 1), (4, 0x4000000000000041)] with sram := Tab.setList 0 64 (launchWords.flatMap (toBytes 8)) [] }
def queue0 (qwr : BitVec 32) : Queue := { Queue.reset with qbase := 0x2000, qctl := 0x20000001, qwr := qwr }
def fetchState (qwr : BitVec 32) : State :=
  let s := mapped (hartState fetchHart)
  { s with
    mem := wordsAt 0x2000 launchWords (wordsAt 0x1000 kdescWords s.mem),
    sched := { s.sched with queues := [(0, queue0 qwr)] } }

/-- What a check of a launch finds. -/
def checkedOk (r : State × Except TrapClass Kdesc) : Bool :=
  match r.2 with
  | .ok _ => true
  | .error _ => false
def checkedDesc (r : State × Except TrapClass Kdesc) : Kdesc :=
  match r.2 with
  | .ok d => d
  | .error _ => Kdesc.plain
theorem checked_of {r : State × Except TrapClass Kdesc} (h : checkedOk r = true) : r = (r.1, .ok (checkedDesc r)) := by
  obtain ⟨s, e⟩ := r
  cases e
  · cases h
  · rfl

theorem fetch_ready (n : BitVec 32) : hartReady (fetchState n) 0 fetchHart :=
  ⟨rfl, rfl, by decide, by decide +kernel, by decide⟩

/-- The premises of RFETCH from queue 0, whose ring is empty or holds a packet. -/
def fetchReady (empty : Bool) (s : State) : Bool :=
  let u := s.queue 0
  decide (u.qctl.toNat % 2 = 1) && (u.fetchIdx == u.qwr) == empty && u.qerr == 0 && !u.rstBusy && u.inline_.isNone &&
    decide ((u.qbase.toNat + u.fetchIdx.toNat % 2 ^ (u.qctl.toNat / 2 ^ 27 % 2 ^ 5) * 64) % 2 ^ 64 = 0x2000) &&
    decide (0x2000 + 64 ≤ s.dev.limit) && s.mem.badLines.isEmpty && !s.dispStalls

/-- An empty ring, one packet, and a buffer. -/
theorem witness_FetchAndDispatch : fetchReady true (fetchState 0) = true ∧ fetchReady false (fetchState 1) = true ∧
    (fetchHart.r 1).toNat = 0 ∧ (fetchHart.r 2).toNat = 2 ^ 62 + 64 ∧ Tab.wf 0 fetchHart.sram = true := by decide +kernel

/-- A launch that is made. -/
theorem witness_Dispatch : let s := fetchState 1
    let b := (List.range 64).map (fun i => Tab.get 0 fetchHart.sram (64 + i))
    let r := s.checkLaunch 0 true b
    s.checkWaits 0 b = false ∧ r = (r.1, .ok (checkedDesc r)) ∧ AMap.freeBelow r.1.sched.launches 4096 = some 0 :=
  ⟨by decide +kernel, checked_of (by decide +kernel), by decide +kernel⟩

/-- A packet of zeros is refused. -/
def plainHart : Hart := hart0 [(2, 0x4000000000000040)]
theorem witness_DispatchRefused : hartReady (hartState plainHart) 0 plainHart ∧ (hartState plainHart).dispStalls = false ∧
    (hartState plainHart).checkWaits 0 ((List.range 64).map (fun i => Tab.get 0 plainHart.sram (64 + i))) = false ∧
    (match ((hartState plainHart).checkLaunch 0 true ((List.range 64).map (fun i => Tab.get 0 plainHart.sram (64 + i)))).2 with
      | .error c => c == .reservedField
      | .ok _ => false) = true :=
  ⟨⟨rfl, rfl, by decide, by decide, by decide⟩, by decide +kernel, by decide +kernel, by decide +kernel⟩

/-- A queue of another server, and a misaligned buffer. -/
theorem witness_FetchExceptions : (fetchHart.r 3).toNat % 8 ≠ 0 ∧ (fetchHart.r 4).toNat = 2 ^ 62 + 65 ∧ 65 % 64 ≠ 0 ∧ 65 < 2 ^ 18 := by
  decide +kernel

/-- ADD x3, x1, x2; BEQ x1, x2, 8; CSRRW x3, qpwto, x1. -/
def baseWords : List (BitVec 32) := [0x002081B3, 0x00208463, 0x7C0091F3]

theorem witness_BaseInstructions :
    AMap.find (hartState (hart0 [(1, 5)])).sched.harts 0 = some (hart0 [(1, 5)]) ∧
    baseWords.map (fun w => ((field w 0 7).toNat, f3Of w, f7Of w, (field w 20 12).toNat)) =
      [(0x33, 0, 0, 2), (0x63, 0, 0, 2), (0x73, 1, 0x3E, 0x7C0)] ∧
    (hart0 []).mode = .machine ∧ { hart0 [] with mode := .supervisor }.mode ≠ .machine := by decide +kernel

/-- The results that the RISC-V specifications give these words. -/
theorem test_base_instructions : let k := hart0 [(1, 5), (2, 5)]
    let run := fun (w : BitVec 32) => ((hartState k).runBase 0 w).hart 0
    (run 0x002081B3).r 3 = 10 ∧ (run 0x00208463).pc = k.pc + 8 ∧ (run 0x7C0091F3).qpwto = 5 ∧ (run 0x7C0091F3).pc = k.pc + 4 := by
  decide +kernel

/-- A signal in device memory of value 5, in a queue processor that waits for 6 without and with a bound, and a misaligned address. -/
theorem witness_SignalWait : let w : SwaitState := { cond := 0, rd := 5, addr := 0x300, cmp := 6, last := 5 }
    let rs : List (Nat × Word64) := [(1, 0x300), (2, 5), (3, 6), (4, 0x308)]
    (∀ k ∈ [hart0 rs, { hart0 rs with swait := some w }, { hart0 rs with swait := some w, qpwto := 100 }],
      hartReady { hartState k with mem := wordsAt 0x300 [5] Memory.reset } 0 k) ∧ (4#3).toNat = 4 ∧
    ((hart0 rs).r 4).toNat % 16 ≠ 0 ∧ ((hart0 rs).r 1).toNat = 0x300 ∧ 0x300 % 16 = 0 ∧ 0x300 + 8 ≤ (on Team.plain).dev.limit ∧
    ({ hartState (hart0 rs) with mem := wordsAt 0x300 [5] Memory.reset }).mem.badLines.contains (0x300 / 64) = false ∧
    ofBytes ((List.range 8).map (fun i => byteAt { hartState (hart0 rs) with mem := wordsAt 0x300 [5] Memory.reset } (0x300 + i))) = 5 ∧
    (hart0 rs).r 2 = 5 ∧ (hart0 rs).r 3 = 6 ∧ (hart0 rs).qpwto = 0 ∧ { hart0 rs with qpwto := 100 }.qpwto ≠ 0 := by
  refine ⟨?_, by decide +kernel⟩
  intro k hk
  fin_cases hk <;> exact ⟨rfl, rfl, by decide, by decide, by decide⟩

/-- The last eight bytes of device memory, the first address past them, and an address that nothing leases. -/
theorem witness_QueueProcessorAccess : let s := hartState (hart0 [])
    AMap.find s.sched.harts 0 = some (hart0 []) ∧ Tab.wf 0 (hart0 []).x = true ∧ Tab.wf 0 (hart0 []).csr = true ∧ 8 ∈ [1, 2, 4, 8] ∧
    (let a : Word64 := 0x8FFFFFFFF8
     a.toNat % 8 = 0 ∧ a.toNat + 8 ≤ s.dev.limit ∧ s.mem.badLines.contains (a.toNat / 64) = false ∧ s.mem.wf = true ∧
       s.lineHeld a.toNat = false) ∧
    (let a : Word64 := 0x9000000000
     a.toNat % 8 = 0 ∧ s.dev.limit ≤ a.toNat ∧ a.toNat < 2 ^ 62) := by
  refine ⟨rfl, by decide +kernel⟩

/-! ## Witnesses: queues and packets -/

/-- A state whose queue 0 is the given one, with some words in memory. -/
def queueState (k : Queue) (a : Nat) (ws : List Nat) : State :=
  let s := on Team.plain
  { s with mem := wordsAt a ws Memory.reset, sched := { s.sched with queues := [(0, k)] } }

/-- A launch store of the expected index, and one of another. -/
def launchTlp (idx : Nat) : LaunchTlp :=
  { off := 0, len := 64, tlps := 1, allBe := true, data := .ofNat 512 (1 + 2 ^ 16 * 16 + 2 ^ 32 * idx) }

/-- The premises of an accepted launch store. -/
def launchAccepted (k : Queue) (x : LaunchTlp) : Prop :=
  let count := x.data.toNat / 2 ^ 16 % 2 ^ 16
  x.off = 0 ∧ x.len = 64 ∧ x.tlps = 1 ∧ x.allBe = true ∧ k.qctl.toNat % 2 = 1 ∧ k.rstBusy = false ∧
    x.data.toNat / 2 ^ 32 % 2 ^ 32 = k.qwr.toNat ∧ 1 ≤ count ∧ (k.qwr - k.qrd).toNat + count ≤ 2 ^ (k.qctl.toNat / 2 ^ 27 % 2 ^ 5)

/-- Both bounds of LOG2SZ and of the vector, launches that fill the ring and that name another index, and an idle queue. -/
theorem witness_QueueControl :
    (let good := fun n => 4 ≤ n / 2 ^ 27 ∧ n / 2 ^ 27 ≤ 16 ∧ n / 2 ^ 16 % 2 ^ 11 ≤ 1023
     good (4 * 2 ^ 27) ∧ good (16 * 2 ^ 27 + 1023 * 2 ^ 16) ∧ ¬ good (17 * 2 ^ 27) ∧ ¬ good (4 * 2 ^ 27 + 1024 * 2 ^ 16)) ∧
    (let s := queueState (queue0 0) 0 []
     (s.queue 0) = queue0 0 ∧ launchAccepted (queue0 0) (launchTlp 0) ∧ ¬ launchAccepted (queue0 0) (launchTlp 1) ∧
       ((queue0 0).qwr - (queue0 0).qrd).toNat ≤ 2 ^ ((queue0 0).qctl.toNat / 2 ^ 27 % 2 ^ 5) ∧
       ((queue0 0).qbase.toNat + (queue0 0).qwr.toNat % 16 * 64) % 2 ^ 64 = 0x2000 ∧ 0x2000 + 64 ≤ s.dev.limit ∧ s.lineHeld 0x2000 = false ∧ s.mem.wf = true ∧
       (s.queue 0).rstBusy = false ∧ (s.queue 0).packets = [] ∧ s.sched.launches = [] ∧ s.kv.slots = [] ∧ s.eng.copies = [] ∧ s.fab.colls = [] ∧ s.eng.locks = [] ∧
       s.eng.pend = []) := by unfold launchAccepted; decide +kernel

/-- A packet of eight words at index 0 of queue 0. -/
def packetOf (ws : List Nat) (st : PktState) : Packet := { idx := 0, bytes := ws.flatMap (toBytes 8), st := st, item := none, rel := 0 }
def packetState (ws : List Nat) (st : PktState) (a : Nat) (m : List Nat) : State :=
  queueState { queue0 1 with packets := [packetOf ws st] } a m

/-- A packet is the one packet of queue 0, of a type, well formed and fetched, with its length. -/
def oneOk (s : State) (ty : Nat) (p : Packet) : Bool :=
  decide ((s.queue 0).packets = [p]) && decide (p.idx = .ofNat 32 0) && decide (p.st = .fetched) && decide ((s.queue 0).skip = 0) &&
    decide (word p.bytes 0 % 2 ^ 8 = ty) && !headerBad s.dev p.bytes && decide (p.bytes.length = 64)

theorem one_of {s : State} {ty : Nat} {p : Packet} (h : oneOk s ty p = true) : onePacket s 0 0 ty p ∧ p.bytes.length = 64 := by
  simp only [oneOk, Bool.and_eq_true, decide_eq_true_eq, Bool.not_eq_true'] at h
  exact ⟨⟨h.1.1.1.1.1.1, h.1.1.1.1.1.2, h.1.1.1.1.2, h.1.1.1.2, h.1.1.2, h.1.2⟩, h.2⟩

def isPacket (ws : List Nat) (ty a : Nat) (m : List Nat) : Bool := oneOk (packetState ws .fetched a m) ty (packetOf ws .fetched)

/-- A word of device memory that can be read and written. -/
def goodWord (s : State) (a n : Nat) : Bool := decide (a + n ≤ s.dev.limit) && s.mem.badLines.isEmpty && !s.lineHeld a

/-- SIGNAL of each operation and a fourth; WAIT for 5 and for 6 at a signal of 5; COND; BARRIER-AND of a signal of 0 and of one of 5; and
packets that have begun with a timeout. -/
theorem witness_SignalPackets :
    (∀ o ∈ [0, 1, 2, 3], isPacket [3, 0, 0x300, 9, o, 0, 0, 0] 3 0x300 [5] = true) ∧
    (∀ c ∈ [5, 6], isPacket [4, 0, 0x300, c, 0, 0, 0, 0] 4 0x300 [5] = true) ∧
    isPacket [5, 0, 0x300, 2 ^ 32 * 0xFF + 5, 2, 0, 0, 0] 5 0x300 [5] = true ∧ isPacket [7, 0, 0x310, 0, 0, 0, 0, 0] 7 0x300 [5] = true ∧
    isPacket [7, 0, 0x300, 0, 0, 0, 0, 0] 7 0x300 [5] = true ∧
    (let s := packetState [4, 0, 0x300, 5, 0, 0, 0, 0] .fetched 0x300 [5]
     goodWord s 0x300 8 = true ∧ goodWord s 0x310 8 = true ∧ goodWord s 0x300 4 = true ∧ s.mem.wf = true ∧ valueAt s 0x300 = 5 ∧ valueAt s 0x310 = 0) ∧
    (∀ ws ∈ [[4, 0, 0x300, 6, 2 ^ 32, 0, 0, 0], [7, 0, 0x300, 0, 0, 0, 0, 1]], let p := packetOf ws .begun
      ((packetState ws .begun 0x300 [5]).queue 0).packets = [p] ∧ p.idx = .ofNat 32 0 ∧ p.st = .begun) ∧
    word (packetOf [4, 0, 0x300, 6, 2 ^ 32, 0, 0, 0] .begun).bytes 4 / 2 ^ 32 % 2 ^ 32 = 1 ∧
    word (packetOf [7, 0, 0x300, 0, 0, 0, 0, 1] .begun).bytes 7 % 2 ^ 32 = 1 := by decide +kernel

/-- A launch of the LAUNCH packet at index 0, begun or not, that has nothing left to place when `isOver`. -/
def testLaunch (begun isOver : Bool) : Launch :=
  { newLaunch 0 (queue0 1) (some 0) (launchWords.flatMap (toBytes 8)) Kdesc.plain 0 with begun := begun, nextNb := if isOver then 1 else 0 }

/-- A LAUNCH packet whose launch waits, one whose launch is to be made, COPY packets, a launch that is over, and an ended packet. -/
theorem witness_LaunchAndCompletion :
    (let s := packetState launchWords .fetched 0 []
     let t := { s with sched := { s.sched with launches := [(0, testLaunch false false)] } }
     oneOk t 1 (packetOf launchWords .fetched) = true ∧ t.dbg.jctl = 0 ∧ (testLaunch false false).queue = 0 ∧
       (testLaunch false false).pkt = some (packetOf launchWords .fetched).idx ∧ (testLaunch false false).begun = false) ∧
    (let s := mapped (packetState launchWords .fetched 0x1000 kdescWords)
     oneOk s 1 (packetOf launchWords .fetched) = true ∧ s.dbg.jctl = 0 ∧ s.sched.launches = [] ∧ s.dev.switching = false ∧
       s.checkWaits ((s.queue 0).qctl.toNat / 2 ^ 4 % 2 ^ 12) (packetOf launchWords .fetched).bytes = false ∧
       checkedOk (s.checkLaunch ((s.queue 0).qctl.toNat / 2 ^ 4 % 2 ^ 12) true (packetOf launchWords .fetched).bytes) = true ∧
       AMap.freeBelow (s.checkLaunch ((s.queue 0).qctl.toNat / 2 ^ 4 % 2 ^ 12) true (packetOf launchWords .fetched).bytes).1.sched.launches 4096 = some 0) ∧
    isPacket [2, 0, 0x1000, 0x2000, 0x1000, 0, 0, 0] 2 0 [] = true ∧ isPacket [2, 0, 0x1000, 0x2000, 0x1001, 0, 0, 0] 2 0 [] = true ∧
    0x1000 + 0x1000 ≤ 0x2000 ∧ 0x1000 < 0x2000 + 0x1001 ∧ 0x2000 < 0x1000 + 0x1001 ∧
    (let p := packetOf launchWords .begun
     let s := packetState launchWords .begun 0 []
     let t := { s with teams := [], sched := { s.sched with launches := [(0, testLaunch true true)] } }
     t.launch 0 = some (testLaunch true true) ∧ t.launchOver 0 (testLaunch true true) = true ∧ (testLaunch true true).rebuild = none ∧
       (testLaunch true true).pkt = some (.ofNat 32 0) ∧ (t.queue 0).packets = [p] ∧ AMap.rising t.sched.launches = true) ∧
    (let ws := [3, 0x300, 0, 0, 0, 0, 0, 0]
     let p := packetOf ws (.ended 255 255 7)
     let s := packetState ws (.ended 255 255 7) 0x300 [5]
     (s.queue 0).packets = [p] ∧ p.idx = .ofNat 32 0 ∧ word p.bytes 1 = 0x300 ∧ 0x300 + 16 ≤ s.dev.limit ∧ s.lineHeld 0x300 = false ∧
       s.mem.wf = true) := by
  decide +kernel

/-- TREE packets' fields. -/
def treeWords (op slot node node2 arg : Nat) : List Nat := [6, 0, op + slot * 2 ^ 8 + node * 2 ^ 20 + node2 * 2 ^ 28, arg, 0, 0, 0, 0]

/-- The tree tests' slots beside a queue with one TREE packet. -/
def treePacketState (ws : List Nat) : State := { packetState ws .fetched 0 [] with kv := treeState.kv }

theorem tree_packet {op slot node node2 arg : Nat}
    (h : (oneOk (treePacketState (treeWords op slot node node2 arg)) 6 (packetOf (treeWords op slot node node2 arg) .fetched) &&
      decide (word (packetOf (treeWords op slot node node2 arg) .fetched).bytes 2 = op + slot * 2 ^ 8 + node * 2 ^ 20 + node2 * 2 ^ 28) &&
      decide (word (packetOf (treeWords op slot node node2 arg) .fetched).bytes 3 = arg) &&
      (List.range 4).all (fun i => word (packetOf (treeWords op slot node node2 arg) .fetched).bytes (4 + i) == 0) &&
      decide (slot < 2 ^ 12 ∧ node < 2 ^ 8 ∧ node2 < 2 ^ 8) && (op == 0 || (treeState.slot slot).state == 1) &&
      (treeState.slot slot).claim.isNone) = true) :
    treeRequest (treePacketState (treeWords op slot node node2 arg)) 0 0 op slot node node2 arg
      (packetOf (treeWords op slot node node2 arg) .fetched) := by
  simp only [Bool.and_eq_true, decide_eq_true_eq, Bool.or_eq_true, beq_iff_eq, List.all_eq_true, List.mem_range] at h
  obtain ⟨⟨⟨⟨⟨⟨h1, h3⟩, h4⟩, h5⟩, h6⟩, h7⟩, h8⟩ := h
  refine ⟨(one_of h1).1, (one_of h1).2, rfl, ?_, h3, h6.1, h6.2.1, h6.2.2, h4, ?_, ?_⟩
  · show (treeState.slot slot).claim.any _ = false
    rw [Option.isNone_iff_eq_none.mp h8]; rfl
  · intro i hi hj
    obtain ⟨j, rfl⟩ := Nat.exists_eq_add_of_le hi
    exact h5 j (by omega)
  · exact fun ho => ⟨h7.resolve_left ho, .inr (show (0x20000001#64).toNat / 2 ^ 4 % 2 ^ 12 = 0 by decide)⟩

/-- Each operation: an open of slot 1, and the others on slot 0, whose node 1 is a child of the trunk. -/
theorem witness_TreePackets :
    treeRequest (treePacketState (treeWords 0 1 0 0 (14 * 256 + 254))) 0 0 0 1 0 0 (14 * 256 + 254) (packetOf (treeWords 0 1 0 0 (14 * 256 + 254)) .fetched) ∧
    treeRequest (treePacketState (treeWords 1 0 1 255 0)) 0 0 1 0 1 255 0 (packetOf (treeWords 1 0 1 255 0) .fetched) ∧
    treeRequest (treePacketState (treeWords 2 0 1 0 0)) 0 0 2 0 1 0 0 (packetOf (treeWords 2 0 1 0 0) .fetched) ∧
    treeRequest (treePacketState (treeWords 3 0 1 0 0)) 0 0 3 0 1 0 0 (packetOf (treeWords 3 0 1 0 0) .fetched) ∧
    treeRequest (treePacketState (treeWords 4 0 0 0 0)) 0 0 4 0 0 0 0 (packetOf (treeWords 4 0 0 0 0) .fetched) ∧
    treeRequest (treePacketState (treeWords 5 0 0 0 0)) 0 0 5 0 0 0 0 (packetOf (treeWords 5 0 0 0 0) .fetched) ∧
    (let s := treePacketState []
     AMap.rising s.teams = true ∧ (s.slot 1).state = 0 ∧ s.kv.free 0 ≠ [] ∧ ((s.slot 0).node 255).state = 0 ∧ ((s.slot 0).node 1).state = 1 ∧
       Team.plain.binding = none ∧ s.sched.saved = [] ∧ s.eng.locks = [] ∧ s.dev.svc ≠ 1) :=
  ⟨tree_packet (by decide +kernel), tree_packet (by decide +kernel), tree_packet (by decide +kernel), tree_packet (by decide +kernel),
    tree_packet (by decide +kernel), tree_packet (by decide +kernel), by decide +kernel⟩

/-! ## Witnesses: placement -/

/-- A device without teams, with the launches given. -/
def placeState (ls : AMap Launch) : State :=
  let s := { up with dev := { up.dev with svc := 2 } }
  { s with sched := { s.sched with launches := ls } }

theorem find_same {α : Type} (x : α) (l : List Nat) (k : Nat) : (AMap.find (l.map (fun c => (c, x))) k).getD x = x := by
  induction l with
  | nil => rfl
  | cons a l ih =>
    simp only [List.map_cons, AMap.find]
    split
    · rfl
    · exact ih

theorem place_core (ls : AMap Launch) (c : Nat) : (placeState ls).core c = Core.reset := find_same _ _ _

theorem place_empty (ls : AMap Launch) : emptyCores (placeState ls) :=
  ⟨rfl, rfl, rfl, rfl, rfl, rfl, rfl, rfl, fun c => by rw [place_core]; rfl⟩

/-- A bin on core 383 of two spawned lanes. -/
def testBin : Bin :=
  { launch := 0, entry := 0, frame := [11, 22, 33, 44], lanes := [7, 8].map .spawned, age := 0, timer := 1, launched := true, asid := 0 }
def binState : State := (placeState [(0, testLaunch true true)]).modCore 383 (fun c => { c with bins := [testBin] })

/-- A memory in its canonical form, a launch with a neighbourhood to place, a bin whose timer has reached BTIMER, and a launched bin. -/
theorem witness_Placement :
    (let l := testLaunch true false
     emptyCores (placeState [(0, l)]) ∧ (∀ c, ((placeState [(0, l)]).core c).bins = []) ∧ l.begun = true ∧ l.cancelled = false ∧
       l.returned = [] ∧ l.privUsed = [] ∧ l.nextNb < l.gx * l.gy * l.gz ∧ l.prio ≤ 3 ∧ l.k.pair = false ∧ l.k.tpc = 1 ∧ l.k.nbw = 0 ∧
       l.k.nbh = 0 ∧ l.k.spsl ≤ 15 ∧ l.k.units ≤ 192 ∧ (placeState [(0, l)]).mem.wf = true) ∧
    emptyCores (placeState []) ∧
    ((binState.core 383).bins[0]? = some testBin ∧ binState.launch testBin.launch = some (testLaunch true true) ∧
      (testLaunch true true).k.btimer ≤ testBin.timer ∧ testBin.launched = true ∧ 1 ≤ (testLaunch true true).k.spsl ∧
      (binState.core 383).bins = [testBin] ∧ binState.teams = [] ∧ (binState.core 383).fenced = false ∧
      (testLaunch true true).k.pair = false ∧ (testLaunch true true).privUsed = [] ∧ binState.mem.wf = true) :=
  ⟨⟨place_empty _, fun c => by rw [place_core]; rfl, by decide +kernel⟩, place_empty _, by decide +kernel⟩

/-- Launch 0 has a team on core 0; launch 1 waits with a neighbourhood of every core of reduced service, with PRIO or RT. -/
def waitState (prio : Nat) (rt : Bool) : State :=
  let big := { testLaunch true false with k := { Kdesc.plain with nbh := 5, nbw := 15, regu := 16, scru := 1, accu := 0 }, prio := prio, rt := rt, waitFrom := some (0, 0) }
  let s := on Team.plain
  { s with dev := { s.dev with svc := 1 }, sched := { s.sched with launches := [(0, testLaunch true true), (1, big)] } }

/-- The neighbourhood that a pre-emption decision at time 99 is about: its launch, its class, and the neighbourhood that began to wait, and
when. -/
def waiting (s : State) : Option (Nat × Nat × Option (Nat × Nat)) :=
  (s.dropEnded.noteWaits 99).firstWaiting.map (fun e => (e.1, e.2.rank, e.2.waitFrom))

/-- Whether it fits, and the cores that it would vacate. -/
def decision (s : State) : Option (Bool × Option (List Nat)) :=
  let s1 := s.dropEnded.noteWaits 99
  s1.firstWaiting.map (fun e => ((s1.nextRect e.1 e.2).isNone, s1.victims e.1 e.2))

/-- Every team of a neighbourhood with a team on some cores runs there. -/
def wholeOn (s : State) (cores : List Nat) : Bool :=
  s.teams.all (fun e => !(s.neighbourhoodsOn cores).contains (e.2.launch, e.2.nbh) || (teamCores (e.1 / 16) e.2).any cores.contains)

theorem witness_Preemption :
    (∀ s ∈ [waitState 0 true, waitState 0 false, waitState 3 false], (s.dropEnded.noteWaits 99).sched.vacating = [] ∧
      (s.dropEnded.noteWaits 99).dev.stopped = false ∧ AMap.rising (s.dropEnded.noteWaits 99).teams = true) ∧
    waiting (waitState 0 true) = some (1, 4, some (0, 0)) ∧ waiting (waitState 0 false) = some (1, 0, some (0, 0)) ∧
    waiting (waitState 3 false) = some (1, 3, some (0, 0)) ∧ 99 < 0 + 100 ∧
    (match decision (waitState 0 true) with
      | some (true, some cores) => cores.contains 0 && wholeOn (waitState 0 true) cores
      | _ => false) = true := by
  refine ⟨?_, by decide +kernel, by decide +kernel, by decide +kernel, by decide, by decide +kernel⟩
  intro s hs
  fin_cases hs <;> exact ⟨by decide +kernel, by decide +kernel, by decide +kernel⟩

/-- A vacate request of cores 1 to 383 and one of core 0, an unfence, and requests with a reserved bit or past core 383. -/
theorem witness_VacatingCores :
    (let good := fun v : BitVec 64 => v.toNat / 2 ^ 9 % 2 ^ 23 = 0 ∧ v.toNat / 2 ^ 41 % 2 ^ 22 = 0 ∧
       v.toNat % 2 ^ 9 + v.toNat / 2 ^ 32 % 2 ^ 9 ≤ 383
     good (1 + 382 * 2 ^ 32) ∧ good (2 ^ 63 + 383) ∧ ¬ good 512 ∧ ¬ good 384 ∧ ¬ good (2 ^ 41)) ∧
    (on Team.plain).dev.deaf = false ∧ (on Team.plain).sched.cvBusy = false ∧ (on Team.plain).sched.vacating = [] ∧ (on Team.plain).eng.copies = [] ∧
    (∀ c ∈ teamCores (0 / 16) Team.plain, c < 1 ∨ 383 < c) := by decide +kernel

/-- A team at each stage. -/
theorem witness_SaveAndRestore : let t := fun (p : TeamPhase) => { Team.plain with phase := p }
    (∀ p ∈ [TeamPhase.saving, .restoring, .running], (on (t p)).team (0 * 16 + 0) = some (t p) ∧ AMap.rising (on (t p)).teams = true) ∧
    (on (t .saving)).dbg.stepping = none ∧
    (on (t .saving)).sched.saved = [] ∧ Team.plain.heldReturns = [] ∧ Team.plain.replays = [] ∧
    Team.plain.tcmp = 0 ∧ Team.plain.tdln = 0 := by decide +kernel

/-! ## Witnesses: registers and translation events -/

/-- A device before its link is up, one in D0, one in D3hot, and values of each condition of the bases. -/
theorem witness_RegisterWrites : let s := up
    State.reset.dev.bstep = 0 ∧ s.dev.bstep ≠ 0 ∧ { s with dev := { s.dev with power := .d3hot } }.dev.dark = true ∧ s.dev.dark = false ∧ s.teams = [] ∧ (on Team.plain).teams ≠ [] ∧
    s.xl.pfctl.getLsbD 0 = false ∧ s.xl.scctl.getLsbD 0 = false ∧ s.dbg.trctl.getLsbD 0 = false ∧ (0x8000#64).toNat % 2 ^ 15 = 0 ∧
    (8#64).toNat % 8 = 0 ∧ (0x1000#64).toNat % 2 ^ 12 = 0 := by decide +kernel

/-- A device before its link is up and after, FTRD at the last frame, the first and the last queue, a mailbox with its fuse and without. -/
theorem witness_RegisterReads : let s := up
    State.reset.dev.bstep = 0 ∧ s.dev.bstep ≠ 0 ∧ { s with dev := { s.dev with power := .d3hot } }.dev.dark = true ∧ { s with xl := { s.xl with ftrd := 0x8FFFFF } }.xl.ftrd.toNat < 0x900000 ∧ s.dev.fuseDebug = true ∧ s.dev.dark = false ∧
    { s with dev := { s.dev with fuseDebug := false } }.dev.fuseDebug = false ∧
    s.regRead (0x400000 + 1023 * 0x1000 + 8 * 8) = some 0 ∧ s.regRead (0x100000 + 1023 * 0x800 + 0x18) = some 0 := by
  decide +kernel

/-- A device with a team and without one; offsets that are listed and one that is not, and each condition of the bases. -/
theorem witness_CacheAndFrameRegisters : let s := on Team.plain
    s.dev.deaf = false ∧ up.dev.deaf = false ∧ Tab.wf 0 s.mem.l2part = true ∧ Tab.wf 0 s.mem.l2asid = true ∧ s.mem.wf = true ∧ s.teams ≠ [] ∧ up.teams = [] ∧
    (∀ i < 16, (0x5555555555555555#64).toNat / 2 ^ (4 * i) % 16 ≠ 15) ∧ (0xF000000000000000#64).toNat / 2 ^ (4 * 15) % 16 = 15 ∧
    (0x8FFFFF#64).toNat % 2 ^ 24 < 0x900000 := by decide +kernel

/-- A path parked on a fault, with and without a record, and a fault ring of eight. -/
def faultInfo0 (fid : Option (BitVec 32)) : FaultInfo := { fid := fid, kind := 0, cause := 1, level := 3, epa := 0, va := 0x123, lane := 4 }
def faultPark (fid : Option (BitVec 32)) : Park := { hold := .pageFault, lanes := 1, lane := true, info := some (faultInfo0 fid) }
def faultPath (fid : Option (BitVec 32)) : Path := { path0 with park := some (faultPark fid) }
def faultState (fid : Option (BitVec 32)) (en : Bool) (head : BitVec 32) : State :=
  let s := on (teamOf (faultPath fid))
  { s with xl := { s.xl with pfbase := 0x3000, pfctl := if en then 0x50301 else 0x50300, pfhead := head } }

theorem witness_FaultRing : (∀ fid en head,
      loneFault (faultState fid en head) 0 0 (teamOf (faultPath fid)) (faultPath fid) (faultPark fid) (faultInfo0 fid)) ∧
    (∀ fid en head, (faultState fid en head).dev.deaf = false) ∧ (faultState none true 7).xl.pfctl.getLsbD 0 = true ∧ (faultState none false 7).xl.pfctl.getLsbD 0 = false ∧
    2 ^ ((faultState none true 7).xl.pfctl.toNat / 2 ^ 8 % 2 ^ 5) = 8 ∧ (7#32 - (faultState none true 7).xl.pftail).toNat < 8 ∧
    8 ≤ (8#32 - (faultState none true 8).xl.pftail).toNat ∧ (faultState none true 7).rangeLeased (0x3000 + 7 * 32) 32 = false ∧ (faultState none true 7).mem.wf = true :=
  ⟨fun _ _ _ => ⟨rfl, rfl, rfl, rfl, rfl, rfl, rfl, rfl, rfl⟩, fun _ _ _ => rfl, by decide +kernel⟩

/-- A shoot-down of no engine, one that an engine holds up, and one of a path. -/
def shootOf (engines : List Nat) (issuer : Option (Nat × Nat)) : Shoot :=
  { id := 3, asid := 0, first := 0, count := 1, issuer := issuer, engines := engines, begun := true }
def shootState (h : Shoot) : State :=
  let s := on Team.plain
  { s with xl := { s.xl with shoots := [h] }, eng := { s.eng with copies := fullCopies } }

theorem witness_ShootdownEvents :
    (let bad := fun (s : State) (v : BitVec 64) => 65536 < v.toNat ∨ s.xl.tsva.toNat % 2 ^ 16 ≠ 0 ∨ 8 ≤ s.xl.driverShoots.length
     up.dev.deaf = false ∧ bad up 65537 ∧ ¬ bad up 65536 ∧ ¬ bad up 0) ∧
    up.xl.driverShoots = [] ∧ Tab.wf 0 up.xl.walkGen = true ∧
    (∀ h ∈ [shootOf [] none, shootOf [0] none, shootOf [] (some (0, 0))],
      (shootState h).xl.shoots = [h] ∧ (shootState h).xl.mig = none ∧ h.begun = true) ∧
    (shootState (shootOf [0] none)).engineBusy 0 = true ∧ (shootState (shootOf [] (some (0, 0)))).path 0 0 = some path0 := by
  refine ⟨by decide, by decide, by decide, ?_, by decide +kernel⟩
  intro h hh
  fin_cases hh <;> exact ⟨rfl, rfl, rfl⟩

/-- A migration of frame 2 to frame 3: requested, locked, granted, and with its shoot-down complete or not. -/
def migState (m : Option Migration) (locks : List LockReg) (shoots : List Shoot) : State :=
  let s := placeState []
  { s with
    mem := wordsAt 0x1000 [0x2007D] Memory.reset, eng := { s.eng with locks := locks },
    xl := { s.xl with migpte := 0x1000, mig := m, shoots := shoots } }
def migOf (shoot : Option Nat) : Migration := { newFrame := 3, oldFrame := 2, leaf := 0x2007D, lock := 0, shoot := shoot }
def migLock (granted : Bool) : LockReg :=
  { id := 0, owner := .migration, granted := granted,
    ranges := [{ write := true, place := .device, lo := 0x20000, hi := 0x30000 }, { write := true, place := .device, lo := 0x30000, hi := 0x40000 }] }

theorem witness_Migrations :
    (let good := fun (s : State) (new : Nat) =>
       let pte := s.xl.migpte.toNat
       let leaf := (valueAt s pte).toNat
       new < 2 ^ 24 ∧ pte % 8 = 0 ∧ pte < s.dev.limit ∧ leaf % 4 = 1 ∧ leaf / 2 ^ 12 % 4 = 0 ∧ leaf / 2 ^ 16 * 2 ^ 16 < s.dev.limit ∧
         new * 2 ^ 16 < s.dev.limit ∧ (s.mem.frameByte new).getLsbD 0 = false
     (migState none [] []).dev.deaf = false ∧ good (migState none [] []) 3 ∧ ¬ good (migState none [] []) (2 ^ 24)) ∧
    (migState (some (migOf none)) [] []).xl.mig ≠ none ∧ (migState none [] []).xl.mig = none ∧
    (let s := migState (some (migOf none)) [migLock false] []
     s.eng.locks = [migLock false] ∧ s.grantable [] (migLock false) = true ∧ s.xl.mig = some (migOf none) ∧ s.teams = [] ∧ s.sched.saved = [] ∧
       s.mem.wf = true ∧ s.xl.migpte.toNat % 8 = 0 ∧ (valueAt s s.xl.migpte.toNat).getLsbD 0 = true ∧ 3 < 2 ^ 24 ∧ 3 ≠ 2 ∧
       s.xl.migpte.toNat / 2 ^ 16 ≠ 3 ∧ s.lineHeld s.xl.migpte.toNat = false) ∧
    (∀ l ∈ [[], [shootOf [] none]], (migState (some (migOf (some 3))) [migLock true] l).eng.locks = [migLock true] ∧
      (migState (some (migOf (some 3))) [migLock true] l).xl.mig = some (migOf (some 3))) ∧ (shootOf [] none).id = 3 := by
  refine ⟨by decide +kernel, by decide, rfl, by decide +kernel, ?_, rfl⟩
  intro l hl
  fin_cases hl <;> exact ⟨rfl, rfl⟩

/-- A sweep at frame 0, managed, with FA set and clear, and one at a table frame. -/
def sweepState (b : Byte) (en : Bool) : State :=
  let s := placeState []
  { s with
    mem := { s.mem with frames := [(0, b)] },
    xl := { s.xl with scctl := if en then 0x0001000800000601 else 0x0001000800000600, scbase := 0x4000 } }

theorem witness_Scythe :
    (let good := fun v : Nat => v / 2 ^ 48 ≠ 0 ∧ 6 ≤ v / 2 ^ 8 % 2 ^ 5 ∧ v / 2 ^ 8 % 2 ^ 5 ≤ 20 ∧ v / 2 ^ 32 % 2 ^ 16 < 2 ^ (v / 2 ^ 8 % 2 ^ 5)
     good 0x0001003F00000601 ∧ good 0x0001FFFF00001400 ∧ ¬ good 0x0001004000000600 ∧ ¬ good 0x0000000000000600) ∧
    (∀ b ∈ [2, 6, 3], (sweepState b true).mem.wf = true ∧ (sweepState b true).mem.frameByte (sweepState b true).xl.schand = b ∧
      (sweepState b true).xl.scctl.toNat % 2 = 1 ∧
      ((sweepState b true).xl.schead - (sweepState b true).xl.sctail).toNat < (sweepState b true).xl.scctl.toNat / 2 ^ 32 % 2 ^ 16) ∧
    (sweepState 2 true).dev.deaf = false ∧ (sweepState 2 false).xl.scctl.toNat % 2 = 0 ∧ (sweepState 2 true).rangeLeased 0x4000 4 = false ∧
    (let takes := fun b : Byte => b.getLsbD 1 && !b.getLsbD 0 && !b.getLsbD 3
     takes 2 = true ∧ takes 6 = true ∧ takes 3 = false ∧ (6#8).getLsbD 2 = true ∧ (2#8).getLsbD 2 = false) := by decide +kernel

/-! ## Witnesses: KV events -/

/-- Slot 0 in ASID 0 with a trunk that maps block 0 of plane 0 to frame 2000, and its child 1. -/
def kvSlot (queue : Option Nat) : Slot :=
  { treeSlot with
    nodes := [(0, { liveNode 0 0 2 1 with map := [{ plane := 0, block := 0, frame := 2000 }] }), (1, liveNode 0 2 0 3)],
    mapFrames := [1500], regQueue := queue, image := launchWords.flatMap (toBytes 8) }

/-- A device with that slot, its KV region at 256 MiB, and a copy on write for node 1 at the page engine. -/
def kvCopy0 : KvCopy := { id := 0, slot := 0, node := 1, plane := 0, block := 0, pts := 0, dest := none }
def kvTaken : KvCopy := { kvCopy0 with dest := some 3000 }
def kvState (k : Slot) (free : List Nat) : State :=
  let s := placeState []
  { s with kv := { s.kv with kvctl := 1, kvbase := 0x10000000, slots := [(0, k)], counts := [(2000, 0x80001)], free0 := free, copies := [kvCopy0] } }

/-- An aligned base without a slot and with one; a frame of the pool and one that is not; a list with a frame and without. -/
theorem witness_KvPool :
    (kvState (kvSlot none) [3000]).dev.deaf = false ∧ up.dev.deaf = false ∧ (0x10000#64).toNat % 2 ^ 16 = 0 ∧ (∀ e ∈ up.kv.slots, e.2.state = 0) ∧ (∃ e ∈ (kvState (kvSlot none) []).kv.slots, e.2.state ≠ 0) ∧
    (let bad := fun f : Nat => (kvState (kvSlot none) []).dev.limit ≤ f * 2 ^ 16 ∨ ((kvState (kvSlot none) []).mem.frameByte f).getLsbD 0 = true ∨
       ((kvState (kvSlot none) []).kv.count f).getLsbD 19 = true
     ¬ bad 0x8FFFFF ∧ bad 0x900000 ∧ bad 2000) ∧
    (kvState (kvSlot none) [3000]).kv.free 0 = 3000 :: [] ∧ Tab.wf 0 (kvState (kvSlot none) [3000]).kv.counts = true ∧
    (kvState (kvSlot none) []).kv.free 0 = [] := by decide +kernel

/-- The copy's locks on frames 2000 and 3000, and the state in which it holds them. -/
def kvLock : LockReg := { id := 0, owner := .kvCopy 0, granted := true, ranges := kvLocks 2000 3000 }
def kvTakenState (k : Slot) : State :=
  let s := kvState k []
  { s with kv := { s.kv with copies := [kvTaken] }, eng := { Engines.reset with locks := [kvLock] } }

/-- A device whose frame 2000 is being rebuilt, or can never be. -/
def kvRebuilt (lost : List Nat) : State :=
  let s := kvState { kvSlot none with lost := lost } []
  { s with kv := { s.kv with counts := [(2000, 0xA0001)] } }

theorem clear_of (g : Nat) (h : g < 4096) (hg : g ≠ 1500) : clearOfImage (kvTakenState (kvSlot none)) (kvSlot none) 0 g := by
  refine ⟨?_, by decide, ?_, ?_⟩
  · intro x hx _
    have : 0x10000000 ≤ x := hx
    omega
  · intro e he
    simp only [kvSlot, List.mem_cons, List.not_mem_nil, or_false] at he
    obtain rfl | rfl := he <;> exact ⟨by decide, fun b hb => by cases hb⟩
  · intro f hf
    simp only [kvSlot, List.mem_singleton] at hf
    omega

/-- A copy that takes a frame, one for which there is none, one that holds its frame and its locks, one whose frame is being rebuilt,
and one that is needed no more or never can be made. -/
theorem witness_KvCopies :
    (∀ free ∈ [[], [3000]], let s := kvState (kvSlot none) free
      s.kv.copies = [kvCopy0] ∧ s.copySource kvCopy0 = some (0, 2000) ∧ s.kv.rb 2000 = false ∧ kvCopy0.dest = none ∧ s.eng.locks = [] ∧
        s.kv.free (kvCopy0.slot % 2) = free ∧ s.fab.tmax = [] ∧ s.fab.held = [] ∧ Tab.wf 0 s.kv.counts = true) ∧
    (let s := kvTakenState (kvSlot none)
     s.kv.copies = [kvTaken] ∧ s.copySource kvTaken = some (0, 2000) ∧ s.kv.rb 2000 = false ∧ kvTaken.dest = some 3000 ∧
       s.eng.locks = [kvLock] ∧ kvLock.owner = .kvCopy kvTaken.id ∧ kvLock.ranges = kvLocks 2000 3000 ∧ s.mem.wf = true ∧
       s.slot kvTaken.slot = kvSlot none ∧ ((kvSlot none).node 1).map = [] ∧ ((kvSlot none).node 1).blocks = [] ∧
       (kvSlot none).freeBlocks ≠ []) ∧
    clearOfImage (kvTakenState (kvSlot none)) (kvSlot none) kvTaken.slot 3000 ∧
    clearOfImage (kvTakenState (kvSlot none)) (kvSlot none) kvTaken.slot 2000 ∧
    (∀ lost ∈ [[], [2000]], let s := kvRebuilt lost
      s.copySource kvCopy0 = some (0, 2000) ∧ s.kv.rb 2000 = true ∧ (s.slot 0).lost.contains 2000 = (lost == [2000]) ∧ s.eng.locks = []) ∧
    (kvState { kvSlot none with state := 2 } []).copySource kvCopy0 = none := by
  refine ⟨?_, by decide +kernel, clear_of 3000 (by decide) (by decide), clear_of 2000 (by decide) (by decide), by decide +kernel,
    by decide +kernel⟩
  intro free hf
  fin_cases hf <;> decide +kernel

/-- The state that a rebuild of frame 2000 starts in, and what it finds. -/
def rebuildState (queue : Option Nat) : State :=
  let s := mapped (kvState (kvSlot queue) [3000])
  { s with mem := wordsAt 0x1000 kdescWords s.mem, sched := { s.sched with queues := [(0, queue0 0)] } }

def rebuildCheck : Bool :=
  let s := rebuildState (some 0)
  match ({ s with kv := s.kv.setCount 2000 (s.kv.count 2000 ||| 0x20000) }).replaceLost 0 2000 with
  | none => false
  | some (s1, g) =>
    let k := { s1.slot 0 with rebuilds := (s1.slot 0).rebuilds + 1 }
    let s2 := (s1.putSlot 0 k).deviceWrite (s1.recordAt 0) (rebuildRecord k 0 0 0 2000 g)
    let asid := (s.queue 0).qctl.toNat / 2 ^ 4 % 2 ^ 12
    let r := s2.checkLaunch asid false k.image
    !s2.checkWaits asid k.image && checkedOk r && AMap.freeBelow r.1.sched.launches 4096 == some 0

/-- The launch of a rebuild of slot 0, over or not; and slots with dead nodes, and one that retires. -/
def rebuildLaunch (isOver : Bool) : Launch := { testLaunch true isOver with rebuild := some 0 }
def endState (isOver : Bool) : State :=
  let s := kvState { kvSlot (some 0) with rebuilding := some (2000, 3000, 7) } []
  { s with sched := { s.sched with launches := [(7, rebuildLaunch isOver)] } }

theorem witness_KvRebuilds :
    (rebuildState none).frameHolder 1999 = none ∧ (rebuildState none).frameHolder 2000 = some (0, 0, 0) ∧
    ((rebuildState none).slot 0).rebuilding = none ∧ ((rebuildState none).slot 0).lost.contains 2000 = false ∧ 0 ≠ 255 ∧
    (let s := kvState { kvSlot (some 0) with rebuilding := some (1999, 3000, 7) } []
     s.frameHolder 2000 = some (0, 0, 0) ∧ (s.slot 0).rebuilding = some (1999, 3000, 7) ∧ 3000 ≠ 2000 ∧
       (s.slot 0).lost.contains 2000 = false ∧ (s.slot 0).regQueue ≠ none ∧ Tab.wf 0 s.kv.counts = true) ∧
    ((rebuildState none).slot 0).regQueue = none ∧ (rebuildState (some 0)).frameHolder 2000 = some (0, 0, 0) ∧
    ((rebuildState (some 0)).slot 0).regQueue = some 0 ∧ rebuildCheck = true ∧
    (∀ b ∈ [true, false], (endState b).sched.launches = [(7, rebuildLaunch b)] ∧ (endState b).launchOver 7 (rebuildLaunch b) = b ∧
      (rebuildLaunch b).rebuild = some 0 ∧ (rebuildLaunch b).cancelled = false ∧ ((endState b).slot 0).rebuilding = some (2000, 3000, 7) ∧
      Tab.wf 0 (endState b).kv.counts = true) ∧
    (kvState { kvSlot none with state := 2 } []).eng.locks = [] ∧ ((kvState { kvSlot none with state := 2 } []).slot 0).state = 2 ∧
    (let k := { kvSlot none with nodes := [(0, liveNode 0 0 2 1), (1, { liveNode 0 2 0 3 with state := 2 })] }
     k.state ≠ 2 ∧ (∃ e ∈ k.nodes, e.2.state = 2) ∧ ∀ e ∈ (kvSlot none).nodes, e.2.state ≠ 2) := by
  refine ⟨by decide +kernel, by decide +kernel, by decide +kernel, by decide +kernel, by decide, by decide +kernel, by decide +kernel,
    by decide +kernel, by decide +kernel, by decide +kernel, ?_, by decide +kernel⟩
  intro b hb
  fin_cases hb <;> decide +kernel

/-! ## Witnesses: engines -/

/-- A linear copy of a COPY packet: 256 bytes from 0x1030 to 0x2010, with the bytes moved and the class that stopped it. -/
def linearCopy (moved : Nat) (failed : Option TrapClass) : Copy :=
  { Copy.ofRecord Team.plain 0 0 0 0 0 [] with
    src := 0x1030, dst := 0x2010, w4 := 256, total := 256, moved := moved, failed := failed, packet := some (0, 0) }
def heldLock (granted : Bool) (n : Nat) : LockReg :=
  { id := n, owner := .copy n, granted := granted, ranges := [lineRange false .device 0x1030 256, lineRange true .device 0x2010 256] }
def copyState (moved : Nat) (failed : Option TrapClass) : State :=
  let s := packetState [2, 0, 0x1030, 0x2010, 256, 0, 0, 0] .begun 0x1000 [1, 2, 3]
  { s with teams := [], eng := { s.eng with copies := [linearCopy moved failed], locks := [heldLock true 0] } }

theorem copy_held (moved : Nat) (failed : Option TrapClass) :
    packetCopyHeld (copyState moved failed) (linearCopy moved failed) 0 0 (heldLock true 0) :=
  ⟨rfl, rfl, rfl, rfl, rfl, rfl, rfl, show 0x1030 + 256 ≤ 0x9000000000 by decide, show 0x2010 + 256 ≤ 0x9000000000 by decide, rfl, rfl,
    (fun e he => by cases he), rfl⟩

/-- A record's copy of 64 bytes, which ends well or with a class. -/
def recordEnd (failed : Option TrapClass) : State :=
  let t := recordTeam copyRecord
  let c := { Copy.ofRecord t 0 0 0 0 0 (copyRecord.flatMap (toBytes 8)) with moved := if failed = none then 64 else 0, bar := 64, failed := failed }
  let s := on t
  { s with eng := { s.eng with copies := [c] } }

/-- The premises of a record's end. -/
def recordEnds (failed : Option TrapClass) : Bool :=
  match (recordEnd failed).teams, (recordEnd failed).eng.copies with
  | [(0, t)], [c] => t.teamId == c.teamId && decide (t.phase = .running) && Tab.wf 0 t.scratch && decide (c.recOff + 64 ≤ t.scrSize) &&
      decide (c.bar + 16 ≤ t.scrSize) && decide (c.recOff + 64 ≤ c.bar) && c.packet.isNone && c.pause.isNone && c.scope == 0 && !c.evt &&
      decide (c.failed = failed) && (c.moved == c.total) == failed.isNone
  | _, _ => false

/-- A registration that may be granted, and two that conflict; a lock whose copy has ended and one whose copy runs; a copy at its first,
its last and past its last line, and one that an error stopped; and the end of a record. -/
theorem witness_Engines :
    (let s := fun (l : List LockReg) (c : List Copy) => ({ placeState [] with eng := { Engines.reset with locks := l, copies := c } } : State)
     (s [heldLock false 0] []).fab.tmax = [] ∧ (s [heldLock false 0] []).fab.held = [] ∧ (heldLock false 0).ranges.length ≤ 4096 ∧
       (heldLock true 0).owner ≠ (heldLock false 1).owner ∧ (lineRange true .device 0x2010 256).lo < (lineRange true .device 0x2010 256).hi ∧
       (∀ c ∈ (s [heldLock true 0] []).eng.copies, c.id ≠ 0) ∧ ∃ c ∈ (s [heldLock true 0] [linearCopy 0 none]).eng.copies, c.id = 0) ∧
    (∀ moved failed, packetCopyHeld (copyState moved failed) (linearCopy moved failed) 0 0 (heldLock true 0)) ∧
    ((copyState 0 none).mem.wf = true ∧ ((copyState 256 none).queue 0).packets = [packetOf [2, 0, 0x1030, 0x2010, 256, 0, 0, 0] .begun] ∧
      (linearCopy 256 none).moved = (linearCopy 256 none).total ∧ (linearCopy 255 none).moved < (linearCopy 255 none).total) ∧
    recordEnds none = true ∧ recordEnds (some .uncorrectable) = true :=
  ⟨by decide +kernel, copy_held, by decide +kernel, by decide +kernel, by decide +kernel⟩

/-! ## Witnesses: the host link -/

/-- The device with CXL, and a flip's lock on frame 0. -/
def flipLock (granted : Bool) : LockReg :=
  { id := 0, owner := .flip, granted := granted, ranges := [{ write := true, place := .device, lo := 0, hi := 1 * 2 ^ 16 }] }
def flipState (toHost granted : Bool) : State :=
  let s := placeState []
  { s with
    dev := { s.dev with flips := [{ toHost := toHost, frame := 0, left := 1, lock := some 0 }] },
    eng := { s.eng with locks := [flipLock granted] } }

/-- Accesses through the window and not, to the last byte of memory and past it, with power and without; bases of both windows. -/
theorem witness_HostAccesses : let s := placeState []
    s.mem.wf = true ∧ s.mem.badLines = [] ∧ s.fab.tmax = [] ∧ s.fab.held = [] ∧ s.dbg.jctl = 0 ∧ s.dev.svc ≠ 0 ∧ s.dev.dark = false ∧ s.dev.bstep ≠ 0 ∧ s.dev.deaf = false ∧ s.dev.heldHost = [] ∧ State.reset.dev.bstep = 0 ∧
    s.dev.winbase.toNat + 0x8FFFFFFFFF + 1 ≤ s.dev.limit ∧ 0x8FFFFFFFFF + 1 ≤ 2 ^ s.dev.winLog2 ∧ s.dev.cxl = true ∧ s.eng.locks = [] ∧
    s.dev.limit < 0x9000000000 + 1 ∧ up.dev.svc = 0 ∧ up.dev.bstep ≠ 0 ∧ { s.dev with power := .d3hot }.dark = true ∧ s.dev.winLog2 = 40 ∧
    { s.dev with winLog2 := 28 }.winLog2 < 40 ∧
    (∃ l ∈ (flipState true true).eng.locks, l.owner = .flip ∧ l.granted = true ∧ ∃ r ∈ l.ranges, r.lo < 0 + 4 ∧ 0 < r.hi) := by
  decide +kernel

/-- A load of the path that waits for a line, and fills, marked and not. -/
def waiter : PendAccess := { flying with clause := none, dest := .scalar 63 4 false, addr := 0x78, size := 4 }
def oldLine : List Byte := List.replicate 64 7
def fillOf (old : Option (List Byte)) (ws : List PendAccess) : HostFill := { part := 0, rc := 0, asid := 0, vline := 1, old := old, waiters := ws }
def hostLines (h : HostLine) : State :=
  let s := on Team.plain
  { s with mem := { s.mem with hostLines := [(1, h)] } }
def noLine : HostLine := { data := none, fills := [] }

/-- A line that the L2 holds. -/
def presentLine : State :=
  let s := hostLines { noLine with data := some oldLine }
  { s with mem := { s.mem with l2 := [(l2Key 4 1, { way := 0, asid := 0, vline := 1, part := 0, rc := 0, stream := false, dirty := false })] } }

/-- A line that is absent, one that is present, and one with two fills, of which a snoop has marked the older. -/
theorem witness_Snoops :
    (hostLines noLine).hostLine 1 = noLine ∧ (hostLines noLine).hostPresent 1 = none ∧ (presentLine.hostLine 1).fills = [] ∧
    presentLine.hostPresent 1 ≠ none ∧ AMap.rising presentLine.mem.hostLines = true ∧ AMap.rising presentLine.mem.l2 = true ∧
    Tab.wf 0 presentLine.mem.host = true ∧
    ((hostLines { noLine with fills := [fillOf (some oldLine) [waiter], fillOf none [waiter]] }).hostLine 1).fills ≠ [] := by decide +kernel

/-- The state with a fill of line 1 outstanding, marked and not; the reset partition 0 takes every way of every slice. -/
theorem witness_HostFills : (hostLines noLine).hostLine 1 = noLine ∧
    (∀ old ∈ [none, some oldLine], let s := hostLines { noLine with fills := [fillOf old [waiter]] }
      (s.hostLine 1).fills = fillOf old [waiter] :: [] ∧ (∀ d, old = some d → d.length = 64) ∧ AMap.rising s.mem.hostLines = true ∧
        s.mem.l2 = [] ∧ (Tab.get 0 s.mem.l2part 0).getLsbD (16 + keySlice s.dev (l2Key 4 1) (fillOf old [waiter]).vline / 8) = true ∧
        keySlice s.dev (l2Key 4 1) (fillOf old [waiter]).vline < 320 ∧
        ∃ j < 16, (Tab.get 0 s.mem.l2part 0).getLsbD j = true ∧
          (s.saveWay 0 (keySlice s.dev (l2Key 4 1) (fillOf old [waiter]).vline) j = false ∨ (fillOf old [waiter]).rc = 0 ∧ s.saving = false)) ∧
    waiter.dest = .scalar 63 4 false ∧ waiter.addr / 64 = 1 ∧ waiter.addr % 64 + 4 ≤ 64 ∧ (fillOf none [waiter]).rc ≠ 3 ∧
    ((hostLines noLine).team waiter.tkey).map (·.teamId) = some waiter.teamId ∧ (hostLines noLine).path waiter.tkey waiter.path = some path0 := by
  refine ⟨by decide +kernel, ?_, by decide +kernel⟩
  intro old ho
  fin_cases ho
  · exact ⟨rfl, (fun d h => by cases h), by decide +kernel⟩
  · exact ⟨rfl, (fun d h => by cases h; rfl), by decide +kernel⟩

/-- Requests at both ends of memory, one past it, one with a reserved bit, one with nothing to flip, and a seventeenth; a flip
whose lock is granted and one whose lock is not. -/
theorem witness_BiasFlips :
    (let bad := fun (svc v : Nat) => v / 2 ^ 36 % 2 ^ 27 ≠ 0 ∨ 0x900000 < v % 2 ^ 24 + (v / 2 ^ 24 % 2 ^ 12 + 1) ∨
       svc = 1 ∧ 0x180000 < v % 2 ^ 24 + (v / 2 ^ 24 % 2 ^ 12 + 1)
     ¬ bad 2 0x8FFFFF ∧ bad 2 0x900000 ∧ bad 1 0x180000 ∧ bad 2 (2 ^ 36) ∧ ¬ bad 2 (2 ^ 63 + 0xFFF * 2 ^ 24)) ∧
    (List.replicate 16 ({ toHost := true, frame := 0, left := 1, lock := none } : BiasFlip)).length = 16 ∧
    (placeState []).dev.deaf = false ∧ (placeState []).dev.flips = [] ∧ (placeState []).eng.locks = [] ∧ (placeState []).fab.tmax = [] ∧
    (placeState []).fab.held = [] ∧ (flipState true true).dev.heldHost = [] ∧ (placeState []).dbg.jctl = 0 ∧
    (flipState true true).sched.saved = [] ∧ (flipState true true).mem.wf = true ∧
    Tab.get false (placeState []).mem.bias 0 = (0#64).getLsbD 63 ∧ Tab.get false (placeState []).mem.bias 0 ≠ (0x8000000000000000#64).getLsbD 63 ∧
    (∀ b ∈ [true, false], (flipState b true).eng.locks = [flipLock true] ∧ (flipState b true).teams = [] ∧ (flipState b false).eng.locks = [flipLock false] ∧
      Tab.wf false (flipState b true).mem.bias = true) := by decide +kernel

/-- REG 0, 5 and 7, and each kind that is refused; a full log and one with room. -/
theorem witness_HostMeasurements : up.dev.deaf = false ∧ Tab.wf 0 up.dev.meas = true ∧ up.dev.mextStage = [] ∧ up.dev.log.length < 4096 ∧
    (let bad := fun (v : Nat) => 1 ≤ v % 8 ∧ v % 8 ≤ 4 ∨ 8 ≤ v
     ¬ bad 0 ∧ ¬ bad 5 ∧ ¬ bad 7 ∧ bad 1 ∧ bad 4 ∧ bad 8) ∧
    4096 ≤ (List.replicate 4096 ({ seq := 0, reg := 0, kind := 0, ver := 0, digest := 0 } : LogRecord)).length := by
  exact ⟨rfl, rfl, rfl, by decide, by decide, Nat.le_of_eq List.length_replicate.symm⟩

/-- A requester that has agreed on the algorithms and one that has not; both ends of the blocks; an offer of one algorithm. -/
theorem witness_Attestation : up.dev.deaf = false ∧ { up with dev := { up.dev with spdmAgreed := true } }.dev.spdmAgreed = true ∧
    up.dev.spdmAgreed = false ∧ (1 : Nat) ≤ 9 ∧ (9 : Nat) ≤ 9 ∧ 9 < (10 : Nat) ∧ (true = true ∨ false = true) ∧ (1 : Nat) ≠ 0 := by
  refine ⟨rfl, rfl, rfl, ?_⟩
  decide

/-! ## Witnesses: the fabric -/

/-- Fabric time that runs, with an error bound and a run of good exchanges. -/
def syncState (eps good : Nat) : State :=
  { up with fab := { Fabric.reset with running := true, eps := some eps, goodSyncs := good } }

/-- Both bounds of U, an error bound at U and past it, and the sixteenth exchange. -/
theorem witness_FabricTime : 50 ≤ 50 ∧ 10000 ≤ 10000 ∧ ¬ (50 ≤ 49 ∧ 49 ≤ 10000) ∧ (syncState 500 15).dev.deaf = false ∧ (syncState 500 15).fab.eps = some 500 ∧
    (syncState 500 15).fab.running = true ∧ 500 ≤ 2 * 250 ∧ 2 * 250 < 501 ∧ 2 * (syncState 500 15).fab.ftunc = 500 ∧ State.reset.fab.running = false ∧
    15 ≤ (syncState 500 15).fab.goodSyncs ∧ 23 < 24 ∧
    State.reset.fab.fnode = 0xFFF ∧ { State.reset.fab with fnode := 5 }.fnode ≠ 0xFFF ∧ (placeState []).dev.svc = 2 ∧ (placeState []).dev.dark = false ∧
    State.reset.dev.svc ≠ 2 := by decide

/-- An export entry of 64 KiB at offset 0 for virtual page 0 of ASID 0, readable and writable, and one without permissions. -/
def exportEntry (top : Nat) : BitVec 128 := .ofNat 128 (top * 2 ^ 124)
def ownerState (e : BitVec 128) (tmax : Nat) : State :=
  let s := placeState []
  let m := wordsAt 0x120000 [0x7D] (wordsAt 0x118000 [0x120003] (wordsAt 0x110000 [0x118003] (wordsAt 0x100000 [0x110003] s.mem)))
  { s with mem := m, xl := { s.xl with atbase := 0x100000 }, fab := { s.fab with fnode := 5, fexp := [(0, e)], running := true, tmax := if tmax = 0 then [] else [(4, tmax)] } }

/-- What the owner finds. -/
def ownedAt (s : State) (off : Nat) (op : PeerOp) (pa : Nat) : Bool :=
  match s.ownerAt off op with
  | (s1, .dev x) => x.pa == pa && s1.mem.wf && Tab.wf 0 s1.fab.tmax
  | _ => false

/-- What the owner answers without an access: the translation fails, or it is to be asked again. -/
def ownerFails (s : State) (off : Nat) (op : PeerOp) : Bool :=
  match s.ownerAt off op with
  | (_, .failed) => true
  | _ => false
def ownerWaits (s : State) (off : Nat) (op : PeerOp) : Bool :=
  match s.ownerAt off op with
  | (_, .later) => true
  | _ => false

def testHeld : HeldWrite :=
  { line := 4, pa := 0x100, op := .store [1, 2], asid := 0, va := 0x100, rc := 0, host := false, peer := some (7, 9) }

/-- A leaf whose A is not set, on a line under a lease. -/
def ownerLeased : State :=
  let s := ownerState (exportEntry 14) 0
  { s with mem := wordsAt 0x120000 [0x1D] s.mem, fab := { s.fab with tmax := [(0x120000 / 64, 1000)] } }

/-- Loads and writes that resolve, a translation that fails, and one that waits. -/
theorem witness_RemoteOwnerResolves : ∀ op ∈ [PeerOp.load 8 false, .load 8 true, .store [1, 2], .atomic .add 4 [(3, 0)]],
    ownedAt (ownerState (exportEntry 14) 0) 0x100 op 0x100 = true := by decide +kernel
theorem witness_RemoteOwnerFails : ownerFails { ownerState (exportEntry 14) 0 with xl := Xlate.reset } 0x100 (.load 8 false) = true := by
  decide +kernel
theorem witness_RemoteOwnerWaits : ownerWaits ownerLeased 0x100 (.load 8 false) = true := by decide +kernel

/-- No entry, an entry without permissions, loads and writes that resolve, a line under a lease and one without, and a held write. -/
theorem witness_RemoteOwner :
    State.reset.fab.fnode = 0xFFF ∧ (ownerState (exportEntry 14) 0).fab.fnode ≠ 0xFFF ∧ (ownerState (exportEntry 14) 0).dev.svc = 2 ∧
    (ownerState (exportEntry 14) 0).dev.dark = false ∧
    (ownerState (exportEntry 14) 0).fab.exported 0x10000 = none ∧ (ownerState (exportEntry 8) 0).fab.exported 0x100 = some (exportEntry 8) ∧
    (exportEntry 8).getLsbD 126 = false ∧ (exportEntry 8).getLsbD 125 = false ∧
    (ownerState (exportEntry 14) 0).fab.exported 0x100 = some (exportEntry 14) ∧ (exportEntry 14).getLsbD 124 = false ∧
    (ownerState (exportEntry 14) 0).fabricRuns = true ∧ (ownerState (exportEntry 14) 0).eng.locks = [] ∧
    (ownerState (exportEntry 14) 0).lineHeld 0x100 = false ∧ (ownerState (exportEntry 14) 1000).lineHeld 0x100 = true ∧
    testHeld.line = lineOf testHeld.pa ∧ testHeld.op = .store [1, 2] ∧ testHeld.peer = some (7, 9) ∧
    (ownerState (exportEntry 14) 1000).fab.ftime.toNat < 1000 + (ownerState (exportEntry 14) 1000).fab.ftunc := by decide +kernel

/-- A remote load and a remote store of a path in flight. -/
def remotePend (d : LoadDest) : PendAccess := { flying with clause := none, space := 3, addr := 5 * 2 ^ 48 + 0x78, size := 4, dest := d }

theorem witness_RemoteRequester : State.reset.eng.pend = [] ∧
    (∀ d ∈ [LoadDest.nothing, .scalar 63 4 false], let s := on Team.plain
      let p := remotePend d
      { s with eng := { s.eng with pend := [p] } }.eng.pend = [p] ∧ p.space = 3 ∧ p.clause = none ∧ s.team p.tkey = some Team.plain ∧
        Team.plain.teamId = p.teamId ∧ AMap.find Team.plain.paths p.path = some path0 ∧ Tab.wf 0 path0.sregs = true ∧ p.addr % 64 + 4 ≤ 64) := by
  decide +kernel

/-- A sum of one member's 16 words, whose block is here or not. -/
def sumColl (blocks : AMap (List Byte)) (fingers : List Nat) : Coll :=
  let x := laneCtx (recordTeam collRecord) memClause (syncFields 0 0)
  { Coll.ofRecord (kickState collRecord) x.w.team 0 0 0 ((List.range 64).map (fun i => Tab.get 0 x.w.team.scratch i)) with
    id := 0, bar := 64, blocks := blocks, fingers := fingers }
def sumDone : Coll := sumColl [(0, List.replicate 64 1)] [0]
def collState (c : Coll) : State :=
  let s := mapped (on (recordTeam collRecord))
  let l : LockReg := { id := 0, owner := .coll 0, granted := true, ranges := [lineRange true .device 0x200 64] }
  { s with fab := { s.fab with colls := [c] }, eng := { s.eng with locks := [l] } }

/-- What makes a team's collective ready to end. -/
def collOk (s : State) : Bool :=
  match s.fab.colls, s.teams with
  | [c], [(_, t)] => t.teamId == c.teamId && decide (t.phase = .running) && c.scope == 0 && !c.evt && Tab.wf 0 t.scratch &&
      decide (c.recOff + 64 ≤ t.scrSize) && decide (c.bar + 16 ≤ t.scrSize) && decide (c.recOff + 64 ≤ c.bar)
  | _, _ => false
def finished (r : Except State State) : Bool :=
  match r with
  | .ok s => collOk s
  | .error _ => false

/-- A collective with every block, one without, one whose fingerprints differ, and a block of 64 bytes. -/
theorem witness_Collectives : (∀ c ∈ [sumDone, sumColl [] [0], { sumDone with broken := some .mismatch }, sumColl [] []], (collState c).fab.colls = [c]) ∧
    0 < sumDone.members ∧ sumDone.op < 2 ∧ (List.replicate 64 (1 : Byte)).length = sumDone.block ∧ AMap.find (sumColl [] [0]).blocks 0 = none ∧
    State.reset.fab.colls = [] ∧ (collState sumDone).collRuns sumDone = true ∧ AMap.find sumDone.blocks sumDone.rank ≠ none ∧
    (∀ r < sumDone.members, r ∈ sumDone.fingers ∧ AMap.find sumDone.blocks r ≠ none) ∧
    finished ((collState sumDone).collFinish sumDone sumDone.rest) = true ∧
    (∀ r < (sumColl [] []).members, r ∉ (sumColl [] []).fingers) := by decide +kernel

/-- A collective that fails before its DST resolves, with a mismatch and without. -/
theorem witness_CollectiveFailures :
    (∀ c ∈ [{ sumColl [] [] with dst := 0x500 }, { sumColl [] [0] with broken := some .mismatch }],
      collOk ((collState c).collPoison c) = true) := by
  intro c hc
  fin_cases hc <;> rfl

/-! ## Witnesses: bring-up, power and firmware -/

/-- A device at a step of bring-up. -/
def bringState (bstep : Nat) : State := { State.reset with dev := { State.reset.dev with bstep := bstep } }

/-- A step of bring-up after the image of the module: its result is one of the two. -/
theorem boot_cases : (∃ e, bootCheck = .error e) ∨ ∃ v d e, bootCheck = .ok (v, d, e) := by
  cases bootCheck with
  | error e => exact .inl ⟨e, rfl⟩
  | ok x => exact .inr ⟨x.1, x.2.1, x.2.2, rfl⟩

theorem witness_Resets : { State.reset with dev := { State.reset.dev with power := .d3cold } }.dev.power = .d3cold ∧ State.reset.dev.power ≠ .d3cold ∧
    (bringState 7).dev.bstep ≠ 0 := by decide

/-- Each step, a step that has failed, and the switch to full service with the fabric and without. -/
theorem witness_BringUp : (∀ n ∈ [0, 1, 2, 4, 5], (bringState n).dev.dark = false ∧ (bringState n).dev.berr = 0 ∧ (bringState n).dev.bstep = n) ∧
    (bringState 1).dev.log.length ≤ 4093 ∧ Tab.wf 0 (bringState 1).dev.meas = true ∧ { (bringState 1).dev with berr := 1 }.berr ≠ 0 ∧
    { (bringState 6).dev with switching := true }.switching = true ∧ (bringState 6).teams = [] ∧ (bringState 6).dev.bstep = 6 ∧
    { (bringState 5).dev with berr := 4, switching := true }.berr = 4 ∧ State.reset.dev.switching = false ∧
    { State.reset.dev with power := .d3hot }.dark = true ∧ (bringState 6).sched.launches = [] := by decide

/-- A busy device and an idle one, a dark one, and one that has stopped for good. -/
theorem witness_PowerAndClocks : (on Team.plain).busy = true ∧ State.reset.busy = false ∧ State.reset.dev.power = .d0 ∧
    { State.reset.dev with power := .d3cold }.dark = true ∧ State.reset.dev.dark = false ∧ State.reset.dev.halted = false ∧
    { State.reset.dev with halted := true }.halted = true := by decide

/-- One die and two, below and at 64 retries, with a launch that has begun. -/
theorem witness_DeviceStops : let s := { on Team.plain with sched := { (on Team.plain).sched with launches := [(0, testLaunch true true)] } }
    AMap.rising s.teams = true ∧ State.reset.dev.svc ≤ 1 ∧ 2 ≤ s.dev.svc ∧ s.dev.dark = false ∧
    { s.dev with power := .d3hot }.dark = true ∧ s.dev.bridgeRetries < 64 ∧
    64 ≤ { s.dev with bridgeRetries := 64 }.bridgeRetries ∧ AMap.rising s.sched.launches = true ∧ s.launch 0 = some (testLaunch true true) ∧
    (testLaunch true true).begun = true := by decide +kernel

/-- An image without the magic word and one with it whose length is past its bound. -/
def imageState (ws : List Nat) : State := { up with mem := wordsAt 0x4000 ws Memory.reset, dev := { up.dev with fwaddr := 0x4000 } }

/-- The refusal of an image. -/
def refusedWith (r : Except (BitVec 4) (Nat × BitVec 256 × Nat)) : Option (BitVec 4) :=
  match r with
  | .error e => some e
  | .ok _ => none

/-- The management bus before and after step 1, and loads that are refused. An image that is accepted carries a signature that the
functions of Config accept, of which nothing is known. -/
theorem witness_ManagementAndFirmware : (bringState 0).dev.bstep = 0 ∧ (bringState 1).dev.bstep ≠ 0 ∧ (bringState 1).dev.power ≠ .d3cold ∧
    (bringState 1).dev.svc < 4 ∧ (bringState 1).dev.berr < 16 ∧ (bringState 1).dev.bstep < 16 ∧ (0#32).getLsbD 0 = false ∧ (1#32).getLsbD 0 = true ∧
    (on Team.plain).dev.deaf = false ∧ (on Team.plain).teams ≠ [] ∧ (imageState [1]).dev.deaf = false ∧ (imageState [1]).sched.queues = [] ∧ (imageState [1]).teams = [] ∧
    ofBytes ((List.range 4).map (fun i => byteAt (imageState [1]) (0x4000 + i))) ≠ 0x59465731 ∧
    refusedWith ((imageState [0x59465731, 0, 0x800001]).checkImage 0x4000) = some 3 := by decide +kernel

/-! ## Witnesses: debug, trials and the journal -/

/-- A team with its timers set, a session attached or not, and a handler. -/
def timerTeam (cmp dln : BitVec 64) : Team := { Team.plain with tcmp := cmp, tdln := dln, ccyc := 100, tvec := 0x400 }
def timerState (cmp dln : BitVec 64) (attached : Option (BitVec 12)) : State :=
  let s := on (timerTeam cmp dln)
  { s with dev := { s.dev with wall := 50 }, dbg := { s.dbg with attached := attached } }

/-- The premises of a timer's expiry, with what is due. -/
def timerReady (cmp dln : BitVec 64) (attached : Option (BitVec 12)) (due : Bool × Bool) : Bool :=
  let s := timerState cmp dln attached
  let t := timerTeam cmp dln
  decide (s.team (teamKey 0 0) = some t) && AMap.rising t.paths && decide ((s.core 0).running = none) && s.dbg.stepping.isNone &&
    t.handler.isNone && decide (s.dbg.attached = attached) && t.tvec != 0 && !s.commitBlocked (teamKey 0 0) && s.mem.wf &&
    decide (t.tcmp ≠ 0 ∧ t.tcmp.toNat ≤ t.ccyc.toNat) == due.1 && decide (t.tdln ≠ 0 ∧ t.tdln.toNat ≤ s.dev.wall.toNat) == due.2

theorem witness_Timers : timerReady 100 0 none (true, false) = true ∧ timerReady 101 50 (some 0) (false, true) = true ∧
    timerReady 100 50 (some 0) (true, true) = true ∧ timerReady 0 51 none (false, false) = true ∧
    (timerTeam 100 0).paths = [(0, path0)] ∧ path0.park = none ∧ path0.stop = none := by decide +kernel

/-- Modes and sizes at the bounds, and a replay that has nothing to take. -/
theorem witness_Journal : up.dev.deaf = false ∧ up.dev.heldHost = [] ∧ bits 1 0 3 = 3 ∧ bits 12 8 (11 * 2 ^ 8) < 12 ∧ 30 < bits 12 8 (31 * 2 ^ 8) ∧ 12 ≤ bits 12 8 (12 * 2 ^ 8 + 2) ∧
    bits 12 8 (30 * 2 ^ 8 + 1) ≤ 30 ∧ bits 1 0 up.dbg.jctl.toNat ≠ 2 ∧ bits 1 0 (12 * 2 ^ 8 + 2) ≠ bits 1 0 up.dbg.jctl.toNat ∧
    bits 1 0 (0xC02#32).toNat = 2 ∧ { up with dbg := { up.dbg with jctl := 0xC02 } }.dev.deaf = false ∧
    ({ up with dbg := { up.dbg with jctl := 0xC02 } }.nextRecord (fun k _ => k == 1 || k == 3)).isNone = true := by
  decide +kernel

/-- A request about path 0 of team 1 in ASID 0, and a team whose path is stopped or not. -/
def request (idx : BitVec 8) (arg0 : BitVec 64) (data : List Byte) : DebugReq :=
  { cmd := 0, asid := 0, path := 0, idx := idx, team := 1, arg0 := arg0, data := data }
def stopOf : Stop := { reason := 0, info := 0, hmask := maskBelow 32 }
def debugTeam (stop : Option Stop) : Team := { Team.plain with paths := [(0, { path0 with stop := stop })] }
def debugState (stop : Option Stop) (attached : Option (BitVec 12)) : State :=
  let s := mapped (on (debugTeam stop))
  { s with dbg := { s.dbg with attached := attached } }

/-- A request can be taken. -/
def mailReady (attached : Option (BitVec 12)) : Bool :=
  let s := debugState none attached
  !s.dev.deaf && s.dev.fuseDebug && !s.dbg.busy && Tab.wf 0 s.dbg.rsp && decide (s.dbg.attached = attached) && s.dbg.stepping.isNone

/-- A watchpoint's operands are good. -/
def goodWatch (d : List Byte) : Bool :=
  let lo := fun (k m : Nat) => ofBytes ((d.drop (k - 16)).take m)
  [1, 2, 3].contains (lo 28 1) && decide (lo 29 1 ≤ 1) && lo 30 2 == 0 && lo 32 8 == 0

/-- Each kind of session, aligned and misaligned addresses, numbers 3 and 4, and watchpoints that are good and not. -/
theorem witness_MailboxSession : mailReady none = true ∧ mailReady (some 0) = true ∧ mailReady (some 1) = true ∧
    (request 3 0x100 []).idx.toNat ≤ 3 ∧ 3 < (request 4 0x100 []).idx.toNat ∧ (request 3 0x100 []).arg0.toNat % 4 = 0 ∧
    (request 3 0x102 []).arg0.toNat % 4 ≠ 0 ∧ goodWatch (toBytes 8 0x100 ++ toBytes 4 0 ++ [3, 1, 0, 0] ++ toBytes 8 0) = true ∧
    goodWatch (toBytes 8 0x100 ++ toBytes 4 0 ++ [4, 1, 0, 0]) = false := by decide +kernel

/-- A stopped path and one that is not; reads and writes of each file at its bounds; reads of memory; and another team. -/
theorem witness_MailboxPaths :
    (∀ st ∈ [none, some stopOf], let s := debugState st (some 0)
      let t := debugTeam st
      s.dev.deaf = false ∧ s.dev.fuseDebug = true ∧ s.dbg.busy = false ∧ s.dbg.attached = some (request 0 0 []).asid ∧ s.dbg.stepping = none ∧
        s.dbg.stepNext = none ∧
        Tab.wf 0 s.dbg.rsp = true ∧ s.teams = [(0, t)] ∧ t.paths.map (·.1) = [0] ∧ t.paths.all (fun p => Tab.wf 0 p.2.sregs) = true ∧
        t.teamId = (request 0 0 []).team ∧ t.asid = (request 0 0 []).asid.toNat ∧ (request 0 0 []).path.toNat = 0) ∧
    (let ok := fun file first count => file < 4 ∧ first + count ≤ (if file = 0 then Team.plain.vcount else if file = 3 then 64 else 8)
     ok 0 255 1 ∧ ok 1 0 8 ∧ ok 2 7 1 ∧ ok 3 63 1) ∧
    8 * 1 ≤ (request 0 (3 * 2 ^ 56 + 63 * 2 ^ 8 + 1) (toBytes 8 7)).data.length ∧
    (let s := debugState none (some 0)
     let r := request 0 0x103C (toBytes 8 4)
     ofBytes (r.data.take 8) = 4 ∧ r.arg0.toNat % 64 + 4 ≤ 64 ∧
       (match walk s 0 false (0x103C / 0x10000) with
        | .leaf e _ _ => AccKind.permitted .load e && !leafDisc e
        | _ => false) = true) ∧
    4064 < ofBytes ((toBytes 8 4065).take 8) ∧ { request 0 0 [] with team := 2 }.team ≠ Team.plain.teamId := by decide +kernel

/-! ## Witnesses: a step -/

/-- A path that issues ADD s0, s0, s0 from address 0, a clause with a lane word, a queue processor at device memory and at SRAM, and an event. -/
theorem witness_StepRunsDecoded :
    (let s := { on Team.plain with agenda := [.pathStep 0 0 0] }
     let s0 := ({ s with agenda := [] }.noteIssue 0 0 0).atPath 0 0 0
     let w := who Team.plain path0
     s.pathReady (teamKey 0 0) 0 = true ∧ timersDue s0 w.team = 0 ∧ s0.comparatorHit w.team.asid w.path.spc = none ∧
       w.path.spc.toNat < 2 ^ 52 ∧
       (match s0.translate { core := w.core, asid := w.team.asid, host := false, va := w.path.spc.toNat, kind := .fetch, lpr := none } with
        | (s1, .ok 0 leaf) => !leafDisc leaf && !s1.mem.badLines.contains (lineOf 0)
        | _ => false) = true) ∧
    (let s := laneState Team.plain clause0
     let s := { s.modCore 0 (fun c => { c with running := some (0, 0) }) with agenda := [.lane 0] }
     (s.core 0).running = some (0, 0) ∧ s.team (teamKey 0 0) = some (clauseTeam Team.plain clause0) ∧ clause0.body = 0 :: [] ∧
       timersDue s (clauseTeam Team.plain clause0) = 0) ∧
    (let s := hartState { hart0 [] with pc := 0x300 }
     let s := { s with mem := wordsAt 0x300 [0x00C5850B] s.mem }
     s.dev.dark = false ∧ (s.hart 0).interrupt = none ∧ (s.hart 0).swait = none ∧ s.hartFetchError 0 = false ∧
       decide (viewOf s.dev (s.hart 0).pc.toNat = .dev 0x300) = true ∧
       (decodeCommand (.ofNat 32 (ofBytes ((List.range 4).map (fun k => byteAt s (0x300 + k)))))).isSome = true) ∧
    (let k := { hart0 [] with pc := 0x4000000000000100, sram := Tab.setList 0 0x100 (toBytes 8 0x00C5850B) [] }
     let s := hartState k
     s.dev.dark = false ∧ (s.hart 0).interrupt = none ∧ (s.hart 0).swait = none ∧ s.hartFetchError 0 = false ∧
       (s.hart 0).pc.toNat = 2 ^ 62 + 0x100 ∧ 0x100 + 4 ≤ 2 ^ 18 ∧
       (decodeCommand (.ofNat 32 (ofBytes ((List.range 4).map (fun i => Tab.get 0 (s.hart 0).sram (0x100 + i)))))).isSome = true) ∧
    (let s := hartState { hart0 [] with pc := 0x4000000000000100, sram := Tab.setList 0 0x100 (toBytes 8 0x13) [] }
     s.dev.dark = false ∧ (s.hart 0).interrupt = none ∧ (s.hart 0).swait = none ∧ s.hartFetchError 0 = false ∧
       decodeCommand (s.hartWord 0) = none) ∧
    ((hartState { hart0 [] with irq := 0x800, csr := [(0x304, 0x800)], mstatus := 8 }).hart 0).interrupt = some 11 := by
  decide +kernel

theorem witness_PathIssuer : let s := { on Team.plain with agenda := [.pathStep 0 0 0] }
    issuer (({ s with agenda := [] }.noteIssue 0 0 0).atPath 0 0 0) = some (who Team.plain path0) := rfl

/-- A well-formed instruction of each form. -/
theorem witness_DecodeEncode : (Instr.add 0 63 1).wf = true ∧ (Instr.j (-1)).wf = true ∧ (Instr.eret 0 0 0).wf = true ∧ (Instr.bfxs 31 0 1).wf = true ∧
    (Instr.vadd (fields 15 0x3F)).wf = true ∧ (encode (.add 0 63 1)).isSome = true ∧ (encode (.vadd (fields 15 0x3F))).isSome = true := by decide +kernel

/-- A device before reduced service, to which nothing arrives; and a step that answers a next state. -/
theorem witness_StoppedDevice : State.reset.dev.stopped = true ∧ State.reset.agenda = [] ∧ State.reset.dbg.stepping = none ∧
    State.reset.dbg.trWait = [] ∧ State.reset.dev.d3Asked = false ∧ State.reset.mem.wf = true := by decide

theorem witness_MemoryStaysCanonical : ∃ t, step State.reset = .next t := ⟨_, rfl⟩

/-! ## Ill-formed terms, which the check refuses -/

theorem test_wf_device : ∀ i ∈ [Instr.thermalThrottle 2, .hostMemoryAccess { viaWindow := true, addr := 0, len := 0, data := none, cached := false },
    .hostMemoryAccess { viaWindow := true, addr := 0, len := 2, data := some [1], cached := false }, .snpData (2 ^ 58), .snpCur (2 ^ 58), .snpInv (2 ^ 58),
    .hostFillReturn (2 ^ 58), .getCertificate 8, .getMeasurements 0 true 0, .getMeasurements 10 true 0, .fabricPortFailure 24,
    .remoteAccessRequest { node := 0xFFF, id := 0, off := 0, op := .store [] },
    .remoteAccessRequest { node := 0, id := 0, off := 2 ^ 48, op := .store [] }, .leaseHeldWrite (2 ^ 58), .kvRebuildStart 0x900000,
    .registerWrite 0x1010000 0], i.wf = false := by decide +kernel

theorem test_wf_queues : ∀ i ∈ [Instr.launchStore 1024 (launchTlp 0), .launchStore 0 { launchTlp 0 with off := 1 },
    .launchStore 0 { launchTlp 0 with tlps := 0 }, .swait 4 0 0 0, .swaitReread 8, .swaitTimeout 8, .qctlWrite 1024 0, .queueReset 1024,
    .launchPacket 1024 0, .launchPacket 0 (2 ^ 32), .copyPacket 1024 0, .signalPacket 0 (2 ^ 32), .waitPacket 1024 0, .waitPacketTimeout 1024 0,
    .condPacket 1024 0, .barrierAndPacket 1024 0, .barrierAndTimeout 1024 0, .treeOpen 1024 0, .treeFork 1024 0, .treePrune 1024 0,
    .treeCommit 1024 0, .treeRetire 1024 0, .registerRebuildLaunch 1024 0, .packetCompletion 1024 0, .launchCompletion 4096], i.wf = false := by
  decide +kernel

theorem test_wf_cores : ∀ i ∈ [Instr.contextSave 384 0, .contextSave 0 16, .contextRestore 384 0, .binTimerExpiry 384 0, .binTimerExpiry 0 32,
    .binTeamStart 384, .ctimeTick 384, .clauseStart 384, .clauseCompletion 0 0 8, .clauseCompletion 0 16 0, .pairedStepStart 384, .matrixStep 384,
    .l2partWrite 16 0, .l2asidWrite 256 0, .kvRebuildEnd 4096, .pruneRelease 4096, .contextTimerExpiry 0 16, .wallDeadlineExpiry 384 0,
    .bwaitReread 0 0 8, .barrierGenerationComplete 384 0 true], i.wf = false := by decide +kernel

theorem test_wf_words : ∀ i ∈ [Instr.unassignedEncoding (.scalar 0x01#32), .unassignedEncoding (.lane 0x320#96), .illegalInstruction 0x00C5850B,
    .illegalInstruction 0x7F, .queueProcessorAccess 8 { addr := 0, size := 4, op := .store 0 }, .queueProcessorAccess 0 { addr := 0, size := 3, op := .store 0 }],
    i.wf = false := by decide +kernel

theorem test_wf_mailbox : ∀ c ∈ [Instr.dbgAttach, .dbgDetach, .dbgList, .dbgPoll, .dbgHold, .dbgResume, .dbgStep, .dbgSetbp, .dbgClrbp, .dbgSetwp,
    .dbgClrwp, .dbgRdreg, .dbgWrreg, .dbgRdmem, .debugUnknownCommand], (c (request 0 0 (List.replicate 4081 0))).wf = false := by decide +kernel

/-! ## Words written out from the encodings of the spec (R55, R263, R265, R284 to R290) -/

/-- A lane word of three 32-bit words. -/
def lane3 (w0 w1 w2 : BitVec 32) : BitVec 96 := w2 ++ w1 ++ w0

/-- Commands: custom-0 0x0B, rd in [11:7], funct3 in [14:12], rs1 in [19:15], rs2 in [24:20], funct7 in [31:25]. -/
theorem test_decode_commands : decodeCommand 0x00C5850B#32 = some (.rfetch 10 11 12) ∧ decodeCommand 0x00C5950B#32 = some (.bfxu 10 11 12) ∧
    decodeCommand 0x02C5950B#32 = some (.bfxs 10 11 12) ∧ decodeCommand 0x06C5A50B#32 = some (.swait 3 10 11 12) ∧
    decodeCommand 0x00C5B50B#32 = some (.disp 10 11 12) ∧ decodeCommand 0x00C5C50B#32 = some (.illegalInstruction 0x00C5C50B) ∧
    decodeCommand 0x00000013#32 = none := by decide

/-- Scalar words: the arithmetic and tree groups in SR form, an immediate, a branch and a jump. -/
theorem test_decode_scalar : decodeScalar 0x00288181#32 = .add 3 4 5 ∧ decodeScalar 0x00288531#32 = .tnopen 10 4 5 ∧
    decodeScalar 0x02308031#32 = .tnfork 0 4 6 ∧ decodeScalar 0x0600E031#32 = .tnprune 0 7 0 ∧ decodeScalar 0x0800E031#32 = .tncommit 0 7 0 ∧
    decodeScalar 0x0E00E4B1#32 = .tnstat 9 7 0 ∧ decodeScalar 0xFFF82082#32 = .addi 1 1 0x1FFF ∧ decodeScalar 0x80000010#32 = .beq 0 0 0x1000 ∧
    decodeScalar 0x00000218#32 = .j 4 := by decide

/-- Control words: END, TRAP, ERET, BRK and PROG. -/
theorem test_decode_control : decodeScalar 0x0C000030#32 = .endPath 0 0 0 ∧ decodeScalar 0x0E00A030#32 = .trap 0 5 0 ∧
    decodeScalar 0x10000030#32 = .eret 0 0 0 ∧ decodeScalar 0x12000030#32 = .brk 0 0 0 ∧ decodeScalar 0x14006030#32 = .prog 0 3 0 := by decide

/-- Lane words of arithmetic and floating point. -/
theorem test_decode_lane_arithmetic :
    decodeLane (lane3 0x00100000 0x201 0) = .vadd { fields 0 0 with vd := 4, va := 1, vb := 2 } ∧
    decodeLane (lane3 0x00281103 0x00040302 0) = .vfma { fields 4 0 with vd := 10, va := 2, vb := 3, vc := 4 } ∧
    decodeLane (lane3 0x14083042 0x501 0) = .vcmplt { fields 12 5 with vd := 2, va := 1, vb := 5 } ∧
    decodeLane (lane3 0x20181180 2 4) = .vcvt { fields 4 8 with vd := 6, va := 2, imm := 4 } := by decide +kernel

/-- Lane words of memory, of synchronisation and of the spill group. -/
theorem test_decode_lane_memory :
    decodeLane (lane3 0x3A30 0x1400 5) = .vspill { fields 14 0 with vb := 20, imm := 5 } ∧
    decodeLane (lane3 0x00503A31 0 5) = .vfill { fields 14 0 with vd := 20, imm := 5 } ∧
    decodeLane (lane3 0x281 0x06000000 0x100) = .cpk { fields 0 0 with ss := 6, imm := 0x100 } ∧
    decodeLane (lane3 0x28000285 0 0) = .vfence (fields 0 10) ∧
    decodeLane (lane3 0x14000280 0x05000000 0x40) = .bwait { fields 0 5 with ss := 5, imm := 0x40 } ∧
    decodeLane (lane3 0x286 0x05000000 0x3000) = .binit { fields 0 0 with ss := 5, imm := 0x3000 } := by decide +kernel

/-- Lane words of predicates, shuffles, index registers and the tree. -/
theorem test_decode_lane_permutation :
    decodeLane (lane3 0x001C0300 2 3) = .vballot { fields 0 0 with vd := 7, va := 2, imm := 3 } ∧
    decodeLane (lane3 0x04240301 1 0) = .vprefix { fields 0 1 with vd := 9, va := 1 } ∧
    decodeLane (lane3 0x0C303B03 0x8000000C 1) = .vshflx { fields 14 3 with vd := 12, va := 12, bsel := 2, imm := 1 } ∧
    decodeLane (lane3 0x00080310 0x80000000 0x00400800) = .vxset { fields 0 0 with vd := 2, bsel := 2, imm := 0x00400800 } ∧
    decodeLane (lane3 0x000C030A 1 0) = .vpxor { fields 0 0 with vd := 3, va := 1 } ∧
    decodeLane (lane3 0x00500320 0x86000004 0) = .tnmask { fields 0 0 with vd := 20, va := 4, bsel := 2, ss := 6 } := by decide +kernel

/-- Matrix and small-matrix words: their opcodes with no other bit, and words that encode nothing. -/
theorem test_decode_opcodes : decodeLane 0x2C0#96 = .mzero (fields 0 0) ∧ decodeLane 0x2C5#96 = .mstat (fields 0 0) ∧ decodeLane 0x2D0#96 = .qld (fields 0 0) ∧
    decodeLane 0x2DC#96 = .qdet (fields 0 0) ∧ decodeLane 0x0D#96 = .unassignedEncoding (.lane 0x0D#96) ∧
    decodeScalar 0x00#32 = .unassignedEncoding (.scalar 0#32) := by decide +kernel

/-! ## Single steps, with results by hand from the rules -/

/-- The path after an instruction of the scalar stream. -/
def pathAfter (o : Outcome) : Option Path :=
  match o with
  | .next t => t.path 0 0
  | _ => none

/-- A scalar register and the program counter after an instruction. -/
def scalarAfter (i : Instr) (rs : List (Nat × Word64)) (r : Reg6) : Option (Word64 × Word64) :=
  (pathAfter (exec i (regsState rs))).map (fun p => (p.s r, p.spc))

theorem test_add_wraps : scalarAfter (.add 1 1 2) [(1, 0xFFFFFFFFFFFFFFFF), (2, 2)] 1 = some (1, 4) := by decide +kernel
theorem test_add_s0_discards : scalarAfter (.add 0 1 1) [(1, 5)] 0 = some (0, 4) := by decide +kernel
theorem test_sar_takes_six_bits : scalarAfter (.sar 3 1 2) [(1, 0x8000000000000000), (2, 64 + 63)] 3 = some (0xFFFFFFFFFFFFFFFF, 4) := by decide +kernel
theorem test_mulhu : scalarAfter (.mulhu 3 1 1) [(1, 0xFFFFFFFFFFFFFFFF)] 3 = some (0xFFFFFFFFFFFFFFFE, 4) := by decide +kernel
theorem test_div_by_zero : scalarAfter (.div 3 1 0) [(1, 5)] 3 = some (0xFFFFFFFFFFFFFFFF, 4) := by decide +kernel
theorem test_div_overflow : scalarAfter (.div 3 1 2) [(1, 0x8000000000000000), (2, 0xFFFFFFFFFFFFFFFF)] 3 = some (0x8000000000000000, 4) := by
  decide +kernel
theorem test_addi_sign : scalarAfter (.addi 3 1 0x1FFF) [(1, 0)] 3 = some (0xFFFFFFFFFFFFFFFF, 4) := by decide +kernel
theorem test_lui_sign : scalarAfter (.lui 3 0x40000) [] 3 = some (0xFFFFFFFF80000000, 4) := by decide +kernel
theorem test_branch_not_taken : scalarAfter (.bltu 2 1 8) [(1, 1), (2, 1)] 0 = some (0, 4) := by decide +kernel
theorem test_branch_taken : scalarAfter (.bge 1 2 8) [(2, 0xFFFFFFFFFFFFFFFF)] 0 = some (0, 32) := by decide +kernel
theorem test_call_links : scalarAfter (.call 16) [] 63 = some (4, 64) := by decide +kernel
theorem test_jr_reads_first : scalarAfter (.jr 1 1 4) [(1, 0x100)] 1 = some (4, 0x104) := by decide +kernel
/-- The exceptions of a path end its team: SHLI by 64 traps RESERVED_FIELD. -/
theorem test_shli_traps : scalarAfter (.shli 1 1 64) [] 1 = none := by decide +kernel

/-- A register of a lane after an instruction of a clause on the team of 32 lanes. -/
def laneAfter (i : Instr) (vregs : List (Nat × Word32)) (l n : Nat) : Option Word32 :=
  match exec i (laneState { Team.plain with vregs := vregs } clause0) with
  | .next t => (t.team 0).map (fun c => c.v l n)
  | _ => none

theorem test_vadd_i8_wraps : laneAfter (.vadd { fields 10 0 with vd := 3, va := 1, vb := 2 }) [(1, 0x7F), (2, 1)] 0 3 = some 0x80 := by decide +kernel
theorem test_vadds_i8_saturates : laneAfter (.vadds { fields 10 0 with vd := 3, va := 1, vb := 2 }) [(1, 0x7F), (2, 1)] 0 3 = some 0x7F := by decide +kernel
theorem test_vdiv_u32_by_zero : laneAfter (.vdiv { fields 1 0 with vd := 3, va := 1, vb := 2 }) [(1, 9)] 0 3 = some 0xFFFFFFFF := by decide +kernel
theorem test_vbrev : laneAfter (.vbrev { fields 14 0 with vd := 1, va := 1 }) [(1, 0xC0000001)] 0 1 = some 0x80000003 := by decide +kernel
/-- f32: 1 + 2^-24 rounds to even, and 1.5 × 2 + 0.25 is exact. -/
theorem test_vfadd_ties_to_even : laneAfter (.vfadd { fields 4 0 with vd := 3, va := 1, vb := 2 }) [(1, 0x3F800000), (2, 0x33800000)] 0 3 = some 0x3F800000 := by
  decide +kernel
theorem test_vfma : laneAfter (.vfma { fields 4 0 with vd := 3, va := 1, vb := 2, vc := 4 }) [(1, 0x3FC00000), (2, 0x40000000), (4, 0x3E800000)] 0 3 =
    some 0x40500000 := by decide +kernel
theorem test_vlaneid : laneAfter (.vlaneid { fields 0 0 with vd := 7 }) [] 31 7 = some 31 := by decide +kernel
theorem test_qmul_order : laneAfter (.qmul { qFields 4 1 2 1 with vb := 32 }) [(16, 0x3F800000), (17, 0x40000000), (32, 0x40400000), (33, 0x40800000)] 0 0 =
    some 0x41300000 := by decide +kernel

/-! ## Witnesses: further clauses of the scalar stream -/

/-- Lane 0 takes the branch of a SPLIT, whose EJT is 2; the descriptor stands before address 64. -/
def ejectTeam (slots : Bool) : Team :=
  { Team.plain with
    k := { Kdesc.plain with lanes := 2, ejt := 2, spsl := 1, calog2 := if slots then 20 else 10 }, pregs := [(1, true)], paths := [(0, path0)] }
def ejectState (slots good : Bool) : State :=
  let s := on (ejectTeam slots)
  { s with
    mem := { Memory.reset with bytes := if good then [(30, 0xF7), (31, 0xC0), (32, 1)] else [(30, 0xF7), (31, 0xC1), (32, 1)] },
    sched := { s.sched with launches := [(0, testLaunch true true)] } }
def fetched (slots good : Bool) : State × FetchEnd := (ejectState slots good).fetchWords (who (ejectTeam slots) path0) 28 9
def bytesOf (e : FetchEnd) : List Byte :=
  match e with
  | .bytes b => b
  | _ => []
def ejected (e : EjectEnd) : State :=
  match e with
  | .done s => s
  | _ => State.reset
def ejectDone (e : EjectEnd) : Bool :=
  match e with
  | .done _ => true
  | _ => false
theorem eject_of {e : EjectEnd} (h : ejectDone e = true) : e = .done (ejected e) := by
  cases e <;> first | rfl | cases h
theorem fetched_of {r : State × FetchEnd} {b : List Byte} (h : decide (r.2 = .bytes b) = true) : r = (r.1, .bytes b) :=
  Prod.ext rfl (of_decide_eq_true h)

/-- An ejection whose descriptor is bad, one for which no slot is free, and one whose lane gets a slot. -/
theorem witness_SplitEjects :
    (∀ b ∈ [true, false], issuer (ejectState b true) = some (who (ejectTeam b) path0) ∧ (ejectTeam b).handler = none ∧
      (ejectTeam b).k.spsl ≠ 0) ∧
    path0.idle = true ∧ path0.pendScalar = [] ∧ path0.ejPart = none ∧ (path0.spc + .ofInt 64 ((16#11).toInt * 4)).toNat = 64 ∧
    (((List.range 2).filter (fun l => (ejectTeam true).p l 1)).length < (ejectTeam true).k.ejt) ∧
    (∃ b, fetched true false = ((fetched true false).1, .bytes b) ∧ ofBytes (b.take 4) ≠ 0xC0F70000) ∧
    (∃ b, fetched false true = ((fetched false true).1, .bytes b) ∧ ofBytes (b.take 4) = 0xC0F70000 ∧ ofBytes ((b.drop 4).take 32) = 1 ∧
      (fetched false true).1.commitBlocked 0 = false ∧ (fetched false true).1.mem.wf = true ∧
      (fetched false true).1.freeContSlot 0 (ejectTeam false).k = none) ∧
    (let w := who (ejectTeam true) path0
     let s2 := ((fetched true true).1.commitRelease 0 0).onPath w (fun p => { p with ejPart := some [], ejLive := 1 })
     fetched true true = ((fetched true true).1, .bytes (bytesOf (fetched true true).2)) ∧
      ofBytes ((bytesOf (fetched true true).2).take 4) = 0xC0F70000 ∧ ofBytes (((bytesOf (fetched true true).2).drop 4).take 32) = 1 ∧
      (fetched true true).1.commitBlocked 0 = false ∧ s2.ejectLanes w 0 1 [0] = .done (ejected (s2.ejectLanes w 0 1 [0]))) := by
  refine ⟨?_, by decide +kernel, rfl, rfl, by decide, by decide +kernel, ⟨_, fetched_of (b := bytesOf (fetched true false).2) (by decide +kernel),
    by decide +kernel⟩, ⟨_, fetched_of (b := bytesOf (fetched false true).2) (by decide +kernel), by decide +kernel, by decide +kernel, by decide +kernel,
    by decide +kernel, by decide +kernel⟩, fetched_of (by decide +kernel), by decide +kernel, by decide +kernel, by decide +kernel,
    eject_of (by decide +kernel)⟩
  intro b hb
  fin_cases hb <;> exact ⟨rfl, rfl, by decide⟩

/-- Lane 0's record in slot 0. -/
theorem witness_EjectedRecord : let s := ejectState true true
    let w := who (ejectTeam true) path0
    s.freeContSlot 0 (ejectTeam true).k = some 0 ∧ s.path 0 0 = some path0 ∧
      s.span 0 0 0 .store (contAddr (ejectTeam true).k 0) 1088 = ((s.span 0 0 0 .store (contAddr (ejectTeam true).k 0) 1088).1, .ok [(0, 1088, some 0)]) ∧
      (s.span 0 0 0 .store (contAddr (ejectTeam true).k 0) 1088).1.mem.wf = true ∧ w.core = 0 :=
  ⟨by decide +kernel, rfl, span_at (w := who (ejectTeam true) path0) (by decide +kernel), by decide +kernel, rfl⟩

/-- The record that the ejection of lane 0 leaves: PRED has p0, written 1, and p1. -/
theorem test_ejected_record : let s := ejected ((ejectState true true).ejectLanes (who (ejectTeam true) path0) 0x40 1 [0])
    ((List.range 12).map (byteAt s)).map (·.toNat) = [0x40, 0, 0, 0, 0, 0, 0, 0, 0, 3, 0, 0] ∧
      ofBytes ((List.range 4).map (fun i => byteAt s (12 + i))) = 1 ∧ ofBytes ((List.range 4).map (fun i => byteAt s (48 + i))) = 0x466 := by
  decide +kernel

/-- A path at the join point of its ejected lane 0, and a bin team whose lane 0 of two is at its join point. -/
def reloadPath : Path := { path0 with spc := 0x40, mask := 2, ejm := 1, ejSlots := [{ lane := 0, slot := 0, join := 0x40, live := 1 }] }
def contTeam : Team :=
  { Team.plain with
    paths := [(0, { path0 with spc := 0x40, mask := 3 })], binTeam := true,
    contLanes := [(0, { slot := 0, jpc := 0x40, pteam := 9, ppath := 0, plane := 0, live := 1 })] }
def returned (e : ReturnEnd) : State :=
  match e with
  | .done s => s
  | _ => State.reset
def returnDone (e : ReturnEnd) : Bool :=
  match e with
  | .done _ => true
  | _ => false
theorem return_of {e : ReturnEnd} (h : returnDone e = true) : e = .done (returned e) := by
  cases e <;> first | rfl | cases h

theorem witness_JoinReloads : let t := teamOf reloadPath
    let s := on t
    issuer s = some (who t reloadPath) ∧ t.handler = none ∧ settled reloadPath ∧
      reloadPath.ejSlots.filter (fun e => e.join == reloadPath.spc) = [{ lane := 0, slot := 0, join := 0x40, live := 1 }] ∧
      s.span 0 0 0 .load (contAddr t.k 0) 1088 = ((s.span 0 0 0 .load (contAddr t.k 0) 1088).1, .ok [(0, 1088, some 0)]) ∧
      Tab.wf 0 t.vregs = true ∧ Tab.wf false t.pregs = true ∧ Tab.wf 0 t.xregs = true :=
  ⟨rfl, rfl, by unfold settled; decide +kernel, by decide +kernel, span_at (w := who (teamOf reloadPath) reloadPath) (by decide +kernel),
    by decide +kernel, by decide +kernel, by decide +kernel⟩

theorem witness_JoinReturns : let p := { path0 with spc := 0x40, mask := 3 }
    let w := who contTeam p
    let s := on contTeam
    issuer s = some w ∧ settled p ∧ p.ejSlots = [] ∧ p.rpc ≠ some p.spc ∧
      ((List.range contTeam.k.lanes).filter (fun l => p.mask.getLsbD l &&
        ((AMap.find contTeam.contLanes l).map (fun c => c.jpc == p.spc)).getD false)) = [0] ∧ s.commitBlocked 0 = false ∧
      (s.commitRelease 0 0).returnLanes w [0] = .done (returned ((s.commitRelease 0 0).returnLanes w [0])) ∧
      (1 < 1024 ∧ p.mask.getLsbD 1 = true ∧ 1 ∉ [0]) ∧ AMap.rising contTeam.contLanes = true :=
  ⟨rfl, by unfold settled; decide +kernel, rfl, by decide, by decide +kernel, by decide +kernel, return_of (by decide +kernel), by decide +kernel,
    by decide +kernel⟩

/-- A team in a handler for a scalar instruction's event and for a lane instruction's. -/
theorem witness_WriteTepc : let lane := fun (b : Bool) =>
      { teamOf path0 with handler := some { saved := [(0, path0)], path := 0, cause := if b then 0x10033 else 0x33, epc := 0, elc := 0, va := 0, task := 0 } }
    ∀ b ∈ [true, false], scalarReady (on (lane b)) (who (lane b) path0) [1] ∧ (on (lane b)).dbg.stepping = none ∧
      ∃ h, (lane b).handler = some h ∧ h.cause.getLsbD 16 = b := by
  intro lane b hb
  fin_cases hb <;> exact ⟨⟨rfl, fun _ _ => path0_marked [] _, by decide⟩, rfl, _, rfl, by decide⟩

/-- A writer of ASID 0 and a team of ASID 5 with one path, stopped or not, while ASID 5, another or none is attached. -/
def watched (st : Option Stop) : Team := { teamOf { path0 with stop := st } with teamId := 2, asid := 5 }
def byPathState (st : Option Stop) (att : Option (BitVec 12)) (v : Word64) : State :=
  let s := (regsState [(1, v)]).setTeam 1 (watched st)
  { s with dbg := { s.dbg with attached := att } }
theorem byPath_ready (st : Option Stop) (att : Option (BitVec 12)) (v : Word64) (h : Tab.wf 0 [(1, v)] = true) :
    scalarReady (byPathState st att v) (regsWho [(1, v)]) [1] := ⟨rfl, fun _ _ => path0_marked _ _, h⟩

/-- Path 0 and path 7 of the other team, the writer's own team, a path number 8 and a reserved bit. -/
theorem witness_DebugByPath :
    (∀ v ∈ [2#64, 0x700000002#64, 1#64, 0x800000002#64, 0x1000000000#64], ∀ att ∈ [none, some 5#12, some 6#12],
      ∀ st ∈ [none, some { reason := 0x30, info := 0, hmask := 1 }], scalarReady (byPathState st att v) (regsWho [(1, v)]) [1] ∧
        (regsWho [(1, v)]).team.asid = 0 ∧ (byPathState st att v).dbg.stepping = none ∧ (byPathState st att v).dbg.attached = att ∧
        (byPathState st att v).findTeam 2 = some (1, watched st) ∧ (byPathState st att v).team 1 = some (watched st)) ∧
    (2#32).toNat + 7 * 2 ^ 32 = (0x700000002#64).toNat ∧ AMap.find (watched none).paths 7 = none ∧ (5#12).toNat = (watched none).asid ∧
    (6#12).toNat ≠ (watched none).asid ∧ (1 : BitVec 32) = (regsWho [(1, 1)]).team.teamId ∧ (2 : BitVec 32) ≠ (regsWho [(1, 1)]).team.teamId ∧
    8 ≤ (0x800000002#64).toNat / 2 ^ 32 ∧ 2 ^ 36 ≤ (0x1000000000#64).toNat := by
  refine ⟨?_, by decide +kernel⟩
  intro v hv att ha st hs
  fin_cases hv <;> fin_cases ha <;> fin_cases hs <;> exact ⟨byPath_ready _ _ _ (by decide), rfl, rfl, rfl, by decide +kernel, rfl⟩

/-- A trap report ring of sixteen entries with space, and full. -/
def reportState (head : BitVec 32) : State :=
  { regsState [] with dbg := { (regsState []).dbg with trctl := 0x401, trbase := 0x100000, trhead := head } }
theorem witness_TrapReports : ∀ h ∈ [15#32, 16#32], issuer (reportState h) = some (regsWho []) ∧ TrapClass.protection ≠ .cancelled ∧
    (reportState h).dbg.trctl.toNat % 2 = 1 ∧ (reportState h).dbg.dmpctl.toNat % 2 = 0 ∧ (reportState h).dbg.trWait = [] ∧
    (reportState h).teamInFlight 1 = false ∧ (reportState h).eng.copies = [] ∧ (reportState h).mem.wf = true ∧
    ((h - (reportState h).dbg.trtail).toNat < 2 ^ ((reportState h).dbg.trctl.toNat / 2 ^ 8 % 2 ^ 5) ↔ h = 15) ∧
    (reportState h).rangeLeased (0x100000 + h.toNat % 16 * 32) 32 = false := by
  intro h hh
  fin_cases hh <;> exact ⟨rfl, by decide, by decide, by decide, rfl, by decide +kernel, rfl, by decide +kernel, by decide, by decide +kernel⟩

/-- A report of PROTECTION at address 0x123. -/
theorem test_trap_report : let t := trapScalar (reportState 15) (regsWho []) .protection 0x123
    (List.range 2).map (fun i => byteAt t (0x1001E0 + i)) = [.ofNat 8 TrapClass.protection.code, 0] ∧ t.dbg.trhead = 16 ∧
      ofBytes ((List.range 8).map (fun i => byteAt t (0x1001F8 + i))) = 0x123 := by decide +kernel

/-- The sole team, of the ASID of its launch, with dumps on. -/
def dumpState : State :=
  let s := regsState []
  { s with
    dbg := { s.dbg with dmpctl := 1, dmpbase := 0x100000, dmpsize := 1 }, sched := { s.sched with launches := [(0, testLaunch true true)] } }
theorem witness_CoreImage : issuer dumpState = some (regsWho []) ∧ TrapClass.protection ≠ .cancelled ∧ dumpState.dbg.trctl.toNat % 2 = 0 ∧
    dumpState.dbg.dmpctl.toNat % 2 = 1 ∧ dumpState.eng.copies = [] ∧ dumpState.mem.wf = true ∧ AMap.rising dumpState.teams = true ∧
    AMap.rising dumpState.sched.launches = true ∧
    (∀ k tm, dumpState.team k = some tm → (tm.teamId = (regsWho []).team.teamId → k = 0) ∧
      ∀ l, dumpState.launch tm.launch = some l → l.asid = tm.asid) ∧
    1 ≤ dumpState.dbg.dmpsize.toNat ∧ dumpState.rangeLeased 0x100000 0x10000 = false ∧ dumpState.teams = [(0, regsTeam [])] ∧
    dumpState.sched.saved = [] := by
  refine ⟨rfl, by decide, by decide, by decide, rfl, by decide +kernel, by decide +kernel, by decide +kernel, ?_, by decide, by decide +kernel, rfl, rfl⟩
  intro k tm h
  have h1 : AMap.find [(0, regsTeam [])] k = some tm := h
  by_cases hk : k = 0
  · subst hk
    obtain rfl : regsTeam [] = tm := Option.some.inj h1
    exact ⟨fun _ => rfl, fun l hl => by obtain rfl : testLaunch true true = l := Option.some.inj hl; rfl⟩
  · simp [AMap.find, Ne.symm hk] at h1

/-- Ring objects with SIZE 0 and 2^24 + 1, and with WIN 0 and SIZE + 1. -/
def badRing (size win : Nat) : Team :=
  { teamOf (path0.with [(1, 0x6000000000000000)]) with
    scratch := Tab.setList 0 8 (toBytes 4 size ++ toBytes 4 win) [] }
theorem witness_RingRefused : ∀ e ∈ [(0, 1), (2 ^ 24 + 1, 1), (4, 0), (4, 5)], let t := badRing e.1 e.2
    let w := who t (path0.with [(1, 0x6000000000000000)])
    scalarReady (on t) w [5, 1, 2] ∧ spaceOf (w.path.s 1) = 6 ∧
      reaches (on t) w (ringAcc (w.path.s 1)) (.scratch 0 0) ((on t).follow w (ringAcc (w.path.s 1))).1 ∧ (on t).team 0 = some t ∧
      ofBytes ((List.range 4).map (fun i => Tab.get 0 t.scratch (0 + 8 + i))) = e.1 ∧
      ofBytes ((List.range 4).map (fun i => Tab.get 0 t.scratch (0 + 12 + i))) = e.2 := by
  intro e he
  fin_cases he <;>
    exact ⟨⟨rfl, fun _ _ => path0_marked _ _, by decide⟩, by decide, reaches_of (by decide +kernel), rfl, by decide, by decide⟩

/-! ## Witnesses: tokens and held accesses -/

/-- The identifier that an append to node 1 reads, for a node whose map has the frame of its block. -/
def tokenRead : State × List (BitVec 32) := tokensRead (readTokens (regsWho treeRegs) ((regsWho treeRegs).path.s 6) 0 (0 + 1) tokenState)
theorem witness_TokensAppended : let s := tokenState
    let w := regsWho treeRegs
    let nd := (s.slot 0).node 1
    scalarReady s w [9, 1, 6] ∧ treeReady s w ∧ handleOf (w.path.s 1) 0 1 0 ∧ slotReached s w 0 ∧ (w.path.s 6).toNat / 2 ^ 60 ∈ [0, 6] ∧
      (w.path.s 6).toNat % 4 = 0 ∧ s.dbg.attached ≠ some (.ofNat 12 w.team.asid) ∧ nd.state = 1 ∧ (s.slot 0).liveChild 1 = false ∧
      nd.start + nd.len = 3 ∧ mapFind nd.map 255 0 = some 5 ∧ s.kv.refc 5 ≤ 1 ∧ s.kv.rb 5 = false ∧
      (∀ a ∈ slotImage s 0, a + 64 ≤ 5 * 0x10000 ∨ (5 + 1) * 0x10000 ≤ a) ∧
      readTokens w (w.path.s 6) 0 (0 + 1) s = .tokens tokenRead.1 tokenRead.2 ∧ tokenRead.1.mem.wf = true ∧ tokenRead.1.fab.held = [] ∧
      tokenRead.1.leaseBlocked (5 * 0x10000 + 3 * 4) = false ∧ tokenRead.1.inFlight w false = [] ∧ tokenRead.1.commitBlocked 0 = false :=
  ⟨token_ready _, ⟨rfl, by decide +kernel, by decide +kernel, by decide +kernel⟩, by unfold handleOf; decide,
    ⟨⟨by decide +kernel, .inr rfl⟩, by decide +kernel⟩, by decide, by decide, by decide, by decide +kernel, by decide +kernel, by decide +kernel,
    by decide +kernel, by decide +kernel, by decide +kernel, by decide +kernel, rfl, by decide +kernel, by decide +kernel, by decide +kernel,
    by decide +kernel, by decide +kernel⟩

/-- Another team whose path holds a store to node 1 of slot 0 until it has a frame. -/
def framePark : Park := { hold := .freeFrame 0, lanes := 1, lane := false, info := none, kvs := [(0, 0x5000000100000000)] }
def holder : Team := { teamOf { path0 with park := some framePark } with teamId := 2 }
def heldTree : State := treeState.setTeam 1 holder
theorem witness_HeldAccesses : let w := regsWho treeRegs
    scalarReady heldTree w [1] ∧ treeReady heldTree w ∧ slotReached heldTree w 0 ∧ w.team.binding = none ∧ AMap.rising heldTree.teams = true ∧
      heldTree.dbg.dmpctl.toNat % 2 = 0 ∧ heldTree.dbg.trctl.toNat % 2 = 0 ∧ heldTree.eng.copies = [] ∧ heldTree.team 1 = some holder ∧
      handleOf (w.path.s 1) 0 1 0 ∧ ((heldTree.slot 0).node 1).state = 1 ∧
      holder.heldOn 0 (fun m => ((heldTree.slot 0).node m).anc.getLsbD 1 && ((heldTree.slot 0).node m).state == 1) ≠ [] ∧
      handleOf (w.path.s 0) 0 0 0 ∧ (∀ g, w.path.wait ≠ some (.retiring g)) ∧ holder.heldOn 0 (fun _ => true) ≠ [] :=
  ⟨⟨rfl, fun _ _ => path0_marked _ _, by decide⟩, ⟨rfl, by decide +kernel, by decide +kernel, by decide +kernel⟩,
    ⟨⟨by decide +kernel, .inr rfl⟩, by decide +kernel⟩, rfl, by decide +kernel, by decide +kernel, by decide +kernel, rfl, rfl,
    by unfold handleOf; decide, by decide +kernel, by decide +kernel, by unfold handleOf; decide, (by intro g h; cases h), by decide +kernel⟩

/-- A prune of a node that another team's held store names ends that team. -/
theorem test_prune_traps_held : (match exec (.tnprune 0 1 0) heldTree with
    | .next t => (t.team 1).isNone
    | _ => false) = true := by decide +kernel

/-! ## Witnesses: further clauses of events -/

/-- A paired team whose path has a clause that may start, with the odd core idle and with a clause running there. -/
def pairedTeam : Team := { Team.plain with k := { Kdesc.plain with pair := true }, paths := [(0, queuePath false)] }
def pairState (busy : Bool) : State := if busy then (on pairedTeam).modCore 1 (fun c => { c with running := some (3, 0) }) else on pairedTeam
theorem witness_ClauseEventsPaired : ∀ b ∈ [true, false], lonePath (pairState b) 0 0 pairedTeam 0 (queuePath false) ∧ pairedTeam.replays = [] ∧
    pairedTeam.dueFirst = false ∧ (∀ e ∈ (pairState b).teams, e.2.phase ≠ .restoring) ∧ ((pairState b).core 0).running = none ∧
    ((pairState b).core (0 + 1)).running.isSome = b := by
  intro b hb
  fin_cases hb <;> exact ⟨⟨by decide, by decide, rfl, (by intro j hj hn; interval_cases j <;> first | rfl | exact absurd rfl hn), rfl, rfl, rfl⟩,
    rfl, rfl, by decide +kernel, by decide +kernel, by decide +kernel⟩
theorem witness_ClauseEventsAlone : ∀ b, (teamOf (queuePath b)).replays = [] ∧ (teamOf (queuePath b)).dueFirst = false ∧
    ∀ e ∈ (on (teamOf (queuePath b))).teams, e.2.phase ≠ .restoring := by decide +kernel

/-- A tick in D0 and in D0 idle. -/
theorem witness_TickPower : (on Team.plain).dev.power = .d0 ∧ { (on Team.plain).dev with power := .d0idle }.power ≠ .d0 := by decide

/-- The first address past device memory, for SWAIT. -/
theorem witness_SignalWaitPast : let s := hartState (hart0 [(1, 0x9000000000)])
    s.dev.limit ≤ ((hart0 [(1, 0x9000000000)]).r 1).toNat ∧ ((hart0 [(1, 0x9000000000)]).r 1).toNat < 2 ^ 62 ∧
      ((hart0 [(1, 0x9000000000)]).r 1).toNat % 16 = 0 ∧ s.dev.dark = false := by decide +kernel

/-- A device in D3hot and one without a link, and a ring whose first line is under a lease. -/
theorem witness_QueueControlRefused : { up with dev := { up.dev with power := .d3hot } }.dev.dark = true ∧ State.reset.dev.bstep = 0 ∧
    (let s := queueState (queue0 0) 0 []
     let t := { s with fab := { s.fab with tmax := [(0x2000 / 64, 1000)] } }
     s.dev.deaf = false ∧ t.dev.deaf = false ∧ t.lineHeld 0x2000 = true ∧ t.queue 0 = queue0 0) := by decide +kernel

/-! ## Witnesses: fetch, dispatch and packets -/

/-- A queue with an inline slot of the next index, a ring whose line is bad, and one whose queue is disabled. -/
def inlineState : State := { fetchState 1 with sched := { (fetchState 1).sched with queues := [(0, { queue0 1 with inline_ := some (0, launchWords.flatMap (toBytes 8)) })] } }
def badRingState : State := { fetchState 1 with mem := { (fetchState 1).mem with badLines := [0x2000 / 64] } }
theorem witness_FetchInline : let u := inlineState.queue 0
    hartReady inlineState 0 fetchHart ∧ u.fetchIdx ≠ u.qwr ∧ u.qerr = 0 ∧ u.rstBusy = false ∧
      u.inline_ = some (u.fetchIdx, launchWords.flatMap (toBytes 8)) ∧ (launchWords.flatMap (toBytes 8)).length = 64 :=
  ⟨⟨rfl, rfl, by decide, by decide +kernel, by decide⟩, by decide, by decide, by decide, rfl, by decide⟩
theorem witness_FetchBadRing : let u := badRingState.queue 0
    hartReady badRingState 0 fetchHart ∧ u.fetchIdx ≠ u.qwr ∧ u.inline_ = none ∧ badRingState.mem.badLines.contains (0x2000 / 64) = true ∧
      (u.qbase.toNat + u.fetchIdx.toNat % 2 ^ (u.qctl.toNat / 2 ^ 27 % 2 ^ 5) * 64) % 2 ^ 64 = 0x2000 :=
  ⟨⟨rfl, rfl, by decide, by decide +kernel, by decide⟩, by decide, rfl, by decide, by decide⟩

/-- The packet at index 0 of the queue as fetched and as begun, and no packet; its launch, and none; a buffer at the last block of the SRAM,
one past it, one in device memory and one misaligned; a queue that is not enabled. -/
def dispState (ps : List Packet) (ls : AMap Launch) : State :=
  { fetchState 1 with sched := { (fetchState 1).sched with queues := [(0, { queue0 1 with packets := ps })], launches := ls } }
theorem witness_DispatchPackets :
    (∀ ps ∈ [[packetOf launchWords .fetched], [packetOf launchWords .begun], []], ∀ ls ∈ [[], [(0, testLaunch false false)]],
      (dispState ps ls).dispStalls = false ∧ ((dispState ps ls).queue 0).rstBusy = false ∧
        (dispState ps ls).checkWaits 0 ((List.range 64).map (fun i => Tab.get 0 fetchHart.sram (64 + i))) = false ∧
        checkedOk ((dispState ps ls).checkLaunch 0 true ((List.range 64).map (fun i => Tab.get 0 fetchHart.sram (64 + i)))) = true ∧
        ((dispState ps ls).checkLaunch 0 true ((List.range 64).map (fun i => Tab.get 0 fetchHart.sram (64 + i)))).1.sched.launches = ls) ∧
    (testLaunch false false).queue = 0 ∧ (testLaunch false false).pkt = some 0 ∧ (packetOf launchWords .fetched).idx = 0 ∧
    ofBytes ((((List.range 64).map (fun i => Tab.get (0 : Byte) fetchHart.sram (64 + i))).drop 4).take 4) = 0 ∧
    AMap.freeBelow ([] : AMap Launch) 4096 = some 0 := by decide +kernel
theorem witness_FetchBuffers : let outside := fun (v : Word64) => ∀ off, sramAddr v off → off % 64 ≠ 0
    sramAddr 0x400000000003FFC0 0x3FFC0 ∧ outside 0x4000000000040000 ∧ outside 0x1000 ∧ outside 0x4000000000000020 ∧
      { queue0 1 with qctl := 0x20000000 }.qctl.toNat % 2 = 0 := by
  refine ⟨⟨by decide, by decide⟩, ?_, ?_, ?_, by decide⟩ <;> intro off h <;> obtain ⟨h1, h2⟩ := h <;> revert h1 <;> simp <;> omega

/-- WAIT, COND and BARRIER-AND with a misaligned target, a reserved bit and a reserved value, and each with a reserved header bit and a
misaligned completion signal. -/
theorem witness_PacketRefusals :
    (∀ e ∈ [(3, [3, 0, 0x301, 9, 0, 0, 0, 0]), (3, [3, 0, 0x300, 9, 0, 1, 0, 0]), (4, [4, 0, 0x301, 5, 0, 0, 0, 0]), (4, [4, 0, 0x300, 5, 4, 0, 0, 0]),
        (4, [4, 0, 0x300, 5, 0, 0, 0, 1]), (5, [5, 0, 0x302, 5, 1, 0, 0, 0]), (5, [5, 0, 0x300, 5, 0, 0, 0, 0]), (5, [5, 0, 0x300, 5, 2 ^ 16, 0, 0, 0]),
        (7, [7, 0, 0, 0, 0, 0, 8, 0]), (7, [7, 0, 0, 0, 0, 0, 0, 2 ^ 32])], isPacket e.2 e.1 0x300 [5] = true) ∧
    (∀ ty ∈ [3, 4, 5, 7], ∀ h ∈ [[ty + 2 ^ 8, 0], [ty + 2 ^ 12, 0], [ty, 8]], let p := packetOf (h ++ [0, 0, 0, 0, 0, 0]) .fetched
      p.bytes.length = 64 ∧ word p.bytes 0 % 2 ^ 8 = ty ∧
        (word p.bytes 0 / 2 ^ 8 % 4 ≠ 0 ∨ word p.bytes 0 / 2 ^ 12 % 16 ≠ 0 ∨ word p.bytes 1 % 16 ≠ 0)) := by decide +kernel

/-- An ended packet of a queue in the ring error state with a copy of the queue in the engine, and of a queue without. -/
theorem witness_CompletionWaits : (linearCopy 0 none).packet = some (0, 0) ∧ { queue0 1 with qerr := 1 }.qerr = 1 ∧ (queue0 1).qerr = 0 := by decide

/-! ## Witnesses: contexts, KV and trees -/

/-- A saved team's save at the reset of Kdesc keeps everything. -/
theorem witness_ContextSave : let t := { Team.plain with phase := TeamPhase.saving }
    (on t).dbg.stepping = none ∧ (on t).sched.saved = [] ∧ ((on t).allPend.filter (fun p => p.teamId == t.teamId)) = [] ∧
      { t.k with save := 0xFF }.save = 0xFF ∧ Team.plain.phase = .running ∧ Team.plain.replays = [] := by decide +kernel

/-- A rebuild launch that ended well, one that failed, and one that was cancelled. -/
theorem witness_RebuildEnds : ∀ l ∈ [rebuildLaunch true, { rebuildLaunch true with failed := some (21, 0) }, { rebuildLaunch true with cancelled := true }],
    let s := { endState true with sched := { (endState true).sched with launches := [(7, l)] } }
    s.launchOver 7 l = true ∧ l.rebuild = some 0 ∧ (s.slot 0).rebuilding = some (2000, 3000, 7) ∧ Tab.wf 0 s.kv.counts = true := by
  decide +kernel

/-- No team holds an access of slot 0. -/
theorem witness_NothingHeld : (∀ tm ∈ treeState.teams.map (·.2) ++ treeState.savedTeams, tm.heldOn 0 (fun _ => true) = [] ∧
      tm.heldOn 0 (fun m => ((treeState.slot 0).node m).anc.getLsbD 1 && ((treeState.slot 0).node m).state == 1) = [] ∧
      tm.heldOn 0 (commitPrunes (treeState.slot 0) 1) = []) ∧
    (∀ e ∈ (treePacketState []).teams, e.2.heldOn 0 (fun _ => true) = [] ∧ e.2.heldOn 1 (fun _ => true) = []) := by decide +kernel

/-- A shoot-down that waits for a peer whose write is held, and none of it. -/
theorem witness_ShootdownPeers : let h := { shootOf [] none with peers := [(7, 9)] }
    let s := shootState h
    (∃ x ∈ h.peers, ∃ w ∈ ({ s with fab := { s.fab with held := [testHeld] } } : State).fab.held, w.peer = some x) ∧
      (∀ x ∈ h.peers, ∀ w ∈ s.fab.held, w.peer ≠ some x) ∧ h.begun = true ∧ s.xl.mig = none := by decide +kernel

/-! ## Witnesses: the host, power and debug -/

/-- A held read of the bytes at 0, and a host write that a flip of frame 0 held. -/
def heldRead : HostAccess := { viaWindow := true, addr := 0, len := 8, data := none, cached := false }
def heldStore : HostAccess := { viaWindow := true, addr := 4, len := 0, data := some [1, 2], cached := false }
theorem witness_HeldAccessesOfHost :
    (let s := placeState []
     let t := { s with dev := { s.dev with heldHost := [heldRead] } }
     ∃ b ∈ t.dev.heldHost, t.dev.winbase.toNat + b.addr < 4 + 2 ∧ 4 < t.dev.winbase.toNat + b.addr + b.len) ∧
    (flipState true true).dev.flips = [{ toHost := true, frame := 0, left := 1, lock := some 0 }] ∧ (flipLock true).granted = true ∧
    (flipLock true).id = 0 ∧ heldStore.data = some [1, 2] ∧ (flipState true true).fab.tmax = [] ∧ (flipState true true).fab.held = [] ∧
    (flipState true true).dbg.jctl = 0 := by decide +kernel

/-- A held write that its own path performs, and one that its event performs. -/
theorem witness_LeaseTurns : testHeld.turn = none ∧ { testHeld with turn := some 0 }.turn ≠ none ∧
    (let s := ownerState (exportEntry 14) 1000
     let t := { s with fab := { s.fab with held := [testHeld], ftime := 1250 } }
     t.fab.held = [testHeld] ∧ Tab.get 0 t.fab.tmax (lineOf testHeld.pa) + t.fab.ftunc ≤ t.fab.ftime.toNat ∧ t.mem.wf = true) := by decide +kernel

/-- A device without a link, and one before step 1. -/
theorem witness_NoLink : State.reset.dev.noLink = false ∧ State.reset.dev.bstep = 0 ∧ State.reset.dev.dark = false ∧ State.reset.dev.berr = 0 ∧
    { State.reset.dev with noLink := true }.noLink = true := by decide

/-- A session and none, with both timers due and a path inside an instruction that has performed and one outside. -/
theorem witness_TimersInside : (∃ g, ({ path0 with wait := some (.retiring 0) }).wait = some (.retiring g)) ∧
    ({ path0 with wait := some .stepping }).wait = some .stepping ∧ (¬ ∃ g, path0.wait = some (.retiring g)) ∧ path0.wait ≠ some .stepping ∧
    Nat.testBit 3 1 = true ∧ Nat.testBit 2 0 = false := by
  refine ⟨⟨0, rfl⟩, rfl, ?_, ?_, by decide, by decide⟩
  · rintro ⟨g, h⟩; cases h
  · intro h; cases h

/-- Two stop records, a step in hand, and values of CXCTL with EN and without. -/
theorem witness_DebugFurther : let d : DebugStep :=
      { req := request 0 0 [], tkey := 0, path := 0, was := stopOf, issued := false, clause := none, watch := none, child := none, byPath := none }
    ({ (debugState none (some 0)).dbg with stepping := some d }).stepping = some d ∧ (debugState none (some 0)).dbg.stepNext = none ∧
      ({ (debugState none (some 0)).dbg with stops := [List.replicate 272 0, List.replicate 272 1] }).stops.length = 2 ∧
      (1#64).toNat % 2 = 1 ∧ (2#64).toNat % 2 = 0 := by decide +kernel

/-- A full sequencer and words of MRD, MLOOP and MLOOPP that would enter. -/
theorem witness_MatrixFull : let full := fun b => matTeam b (List.replicate 4 (matOp (.mloop 0 0 1 0 0 none b 0)))
    let loop := { fields 0 0 with va := 0, vb := 64 }
    (full true).sequencerFull = true ∧ matIssues (full false) resetFmt mrdSpec { fields 0 0 with imm := 120 } = true ∧
      matIssues (full false) resetFmt (loopSpec false) loop = true ∧ matIssues (full true) resetFmt (loopSpec true) loop = true ∧
      scaleRefused (laneCtx (full true) clause0 loop) = false ∧ loopModeRefused (laneCtx (full true) clause0 loop) = false ∧
      (laneCtx (full true) clause0 loop).lanes ≠ [] := by decide +kernel

/-- Pivot words of order 3: the identity, and one that names row 0 twice. -/
theorem witness_RowOrders : let permutes := fun w : Nat => ∀ k < 3, ∃ i < 3, w / 2 ^ (3 * i) % 8 = k
    permutes 0x88 ∧ ¬ permutes 0x80 := by decide

end Sys2Proof.Tests
end

section
/-! SUPPORT. Further facts of maps, tables and the bytes of memory. -/
namespace Sys2Proof.Machine

/-! ## Maps -/

theorem AMap.find_map {α β : Type} (g : α → β) (m : AMap α) (k : Nat) :
    AMap.find (m.map (fun e => (e.1, g e.2))) k = (AMap.find m k).map g := by
  induction m with
  | nil => rfl
  | cons e t ih =>
    simp only [List.map_cons, AMap.find, ih]
    split <;> rfl

theorem AMap.rising_map {α β : Type} (g : α → β) (m : AMap α) (h : AMap.rising m = true) :
    AMap.rising (m.map (fun e => (e.1, g e.2)) : AMap β) = true := by
  induction m with
  | nil => rfl
  | cons e t ih =>
    obtain ⟨hlt, ht⟩ := (AMap.rising_cons_iff e.1 e.2 t).1 h
    refine (AMap.rising_cons_iff _ _ _).2 ⟨fun b hb => ?_, ih ht⟩
    obtain ⟨a, ha, rfl⟩ := List.mem_map.1 hb
    exact hlt a ha

theorem AMap.rising_modify {α : Type} (m : AMap α) (k : Nat) (f : α → α) (h : AMap.rising m = true) :
    AMap.rising (AMap.modify k f m) = true := by
  unfold AMap.modify
  split
  · exact AMap.rising_insert m k _ h
  · exact h

theorem AMap.mem_of_find {α : Type} {m : AMap α} {k : Nat} {v : α} (h : AMap.find m k = some v) : (k, v) ∈ m := by
  induction m with
  | nil => cases h
  | cons e t ih =>
    simp only [AMap.find] at h
    split at h
    · next hk => cases h; cases hk; exact List.mem_cons_self
    · exact List.mem_cons_of_mem _ (ih h)

/-- In a map that rises, what is listed at a key is found there. -/
theorem AMap.find_of_mem {α : Type} {m : AMap α} (hm : AMap.rising m = true) {k : Nat} {v : α} (h : (k, v) ∈ m) :
    AMap.find m k = some v := by
  induction m with
  | nil => cases h
  | cons e t ih =>
    obtain ⟨hlt, ht⟩ := (AMap.rising_cons_iff e.1 e.2 t).1 hm
    rcases List.mem_cons.1 h with rfl | h
    · simp [AMap.find]
    · have hne : e.1 ≠ k := Nat.ne_of_lt (hlt _ h)
      simp only [AMap.find, hne, if_false]
      exact ih ht h

/-- What is found at a key of a map, and passes a filter, is found after the filter. -/
theorem AMap.find_filter {α : Type} {m : AMap α} (hm : AMap.rising m = true) (p : Nat × α → Bool) {k : Nat} {v : α}
    (h : AMap.find m k = some v) (hp : p (k, v) = true) : AMap.find (m.filter p) k = some v :=
  AMap.find_of_mem (AMap.rising_filter p m hm) (List.mem_filter.2 ⟨AMap.mem_of_find h, hp⟩)

theorem AMap.eq_nil_of_find {α : Type} {m : AMap α} (h : ∀ k, AMap.find m k = none) : m = [] := by
  cases m with
  | nil => rfl
  | cons e t => simpa [AMap.find] using h e.1

/-! ## Tables -/

theorem Tab.getList_eq {α : Type} (d : α) (m : Tab α) (k n : Nat) :
    Tab.getList d m k n = (List.range n).map (fun i => Tab.get d m (k + i)) := by
  induction n generalizing k with
  | zero => rfl
  | succ n ih => simp [Tab.getList, ih, List.range_succ_eq_map, Nat.add_comm, Nat.add_left_comm]

theorem Tab.setList_append {α : Type} [DecidableEq α] (d : α) (xs ys : List α) (k : Nat) (m : Tab α) :
    Tab.setList d k (xs ++ ys) m = Tab.setList d (k + xs.length) ys (Tab.setList d k xs m) := by
  induction xs generalizing k m with
  | nil => rfl
  | cons x xs ih => simp [Tab.setList, ih, Nat.add_comm, Nat.add_left_comm]

/-- A read after a list of writes. -/
theorem Tab.get_setList {α : Type} [DecidableEq α] (d : α) (vs : List α) (k j : Nat) (m : Tab α) (h : Tab.wf d m = true) :
    Tab.get d (Tab.setList d k vs m) j = if k ≤ j ∧ j < k + vs.length then vs.getD (j - k) d else Tab.get d m j := by
  split
  · next hj =>
    have hi : j - k < vs.length := by omega
    have := Tab.get_setList_inside d vs k (j - k) m h hi
    rw [Nat.add_sub_cancel' hj.1] at this
    simp [this, List.getD_eq_getElem?_getD, List.getElem?_eq_getElem hi]
  · exact Tab.get_setList_outside d vs k j m h (by omega)

/-! ## Bytes -/

theorem State.readPa_eq (s : State) (pa n : Nat) : s.readPa pa n = (List.range n).map (fun i => byteAt s (pa + i)) :=
  Tab.getList_eq 0 s.mem.bytes pa n

/-- The pieces of a write, written one after the other, are the write. -/
theorem foldl_pieces_setList {fuel : Nat} {bs : List Byte} (h : bs.length < fuel) (a : Nat) (m : Tab Byte) :
    (pieces fuel a bs).foldl (fun m p => Tab.setList 0 p.1 p.2 m) m = Tab.setList 0 a bs m := by
  induction fuel generalizing a bs m with
  | zero => omega
  | succ fuel ih =>
    cases bs with
    | nil => rfl
    | cons b bs =>
      have hpos : 0 < 64 - a % 64 := by omega
      simp only [pieces, List.foldl_cons]
      generalize hn : 64 - a % 64 = n at hpos
      rw [ih (by simp only [List.length_drop, List.length_cons] at *; omega)]
      conv_rhs => rw [← List.take_append_drop n (b :: bs), Tab.setList_append]
      by_cases hl : n ≤ (b :: bs).length
      · rw [List.length_take_of_le hl]
      · rw [List.drop_eq_nil_of_le (by omega)]; rfl

/-- The low bits of a number of bytes are its first bytes. -/
theorem ofBytes_take (n : Nat) (bs : List Byte) : ofBytes (bs.take n) = ofBytes bs % 256 ^ n := by
  induction n generalizing bs with
  | zero => simp [ofBytes, Nat.mod_one]
  | succ n ih =>
    cases bs with
    | nil => simp [ofBytes]
    | cons b bs =>
      have hb : b.toNat < 256 := b.isLt
      simp only [List.take_succ_cons, ofBytes, ih, Nat.pow_succ']
      rw [Nat.mod_mul, Nat.add_mul_mod_self_left, Nat.mod_eq_of_lt hb, Nat.add_mul_div_left _ _ (by decide),
        Nat.div_eq_of_lt hb, Nat.zero_add]

end Sys2Proof.Machine
end

section
namespace Sys2Proof.Machine

/-! ## Reset -/

/-- Settles O60: each register of `State.reset` is read off. -/
theorem resetValues : Obligations.ResetValues :=
  ⟨rfl, rfl, rfl, rfl, rfl, rfl, rfl, rfl, rfl, fun _ => rfl, rfl, rfl, fun _ => rfl, rfl, rfl, rfl, rfl, rfl, fun _ => rfl, rfl,
    rfl, rfl, reset_mem_wf, fun _ => rfl, rfl⟩

/-! ## A stopped device -/

/-- A device that may not issue picks nothing on any core (R5, R11, R13, R14). -/
theorem choose_stopped {s : State} (h : s.dev.stopped = true) (core : Nat) : choose s core = .idle := by
  simp [choose, h]

/-- With no debug step, no trap report and no request for D3hot in hand, a step ends with nothing more. -/
theorem afterStep_nothingInHand {s : State} (hs : s.dbg.stepping = none) (ht : s.dbg.trWait = []) (hd : s.dev.d3Asked = false) :
    s.afterStep = s := by
  have hsettle : s.settle = s := by simp [State.settle, hs]
  have hflush : s.flushAll = s := by simp [State.flushAll, ht, State.flushReports]
  simp [State.afterStep, hsettle, hflush, State.settlePower, hd]

/-- A step of a stopped device, to which nothing arrives and with nothing in hand, lets time pass. -/
theorem step_stopped {s : State} (h : s.dev.stopped = true) (ha : s.agenda = []) (hs : s.dbg.stepping = none)
    (ht : s.dbg.trWait = []) (hd : s.dev.d3Asked = false) : step s = .next s.passTime := by
  have hi : s.nextIssue = .other s.passTime := by
    simp [State.nextIssue, ha, choose_stopped h, State.issuePick]
  rw [step, hi, runIssue, afterStep_nothingInHand (s := s.passTime) hs ht hd]

/-- Nothing differs but the clocks: the wall counter, fabric time, and the counter of free values that they advance by. -/
def clocksOnly (s t : State) : Prop :=
  { t with dev := s.dev, fab := s.fab, fresh := s.fresh } = s ∧ { t.dev with wall := s.dev.wall } = s.dev ∧
    { t.fab with ftime := s.fab.ftime } = s.fab

theorem clocksOnly.trans {s t u : State} (h : clocksOnly s t) (g : clocksOnly t u) : clocksOnly s u := by
  obtain ⟨hrest, hdev, hfab⟩ := h
  obtain ⟨grest, gdev, gfab⟩ := g
  refine ⟨Eq.trans ?_ hrest, Eq.trans ?_ hdev, Eq.trans ?_ hfab⟩
  · exact (congrArg (fun v : State => ({ v with dev := s.dev, fab := s.fab, fresh := s.fresh } : State)) grest :)
  · exact (congrArg (fun d : Dev => ({ d with wall := s.dev.wall } : Dev)) gdev :)
  · exact (congrArg (fun f : Fabric => ({ f with ftime := s.fab.ftime } : Fabric)) gfab :)

theorem passTime_clocksOnly (s : State) : clocksOnly s s.passTime := ⟨rfl, rfl, rfl⟩

/-- Settles O59, by induction on the number of steps: each lets time pass, which changes the clocks alone. -/
theorem stoppedDeviceStaysAsItIs : Obligations.StoppedDeviceStaysAsItIs := by
  unfold Obligations.StoppedDeviceStaysAsItIs Says.StoppedDeviceStaysAsItIs
  intro n
  induction n with
  | zero => exact fun s _ _ _ _ _ => ⟨s, rfl, rfl, rfl, rfl⟩
  | succ n ih =>
    intro s h ha hs ht hd
    obtain ⟨t, hrun, hclocks⟩ := ih s.passTime h ha hs ht hd
    exact ⟨t, by simp [after, step_stopped h ha hs ht hd, hrun], (passTime_clocksOnly s).trans hclocks⟩

/-! ## Resets and bring-up -/

/-- A restart leaves what `restarted` says (R11, R14, R425). -/
theorem restart_restarted (s : State) (p : Power) : restarted s (s.restart p) p 0 := ⟨rfl, rfl, rfl, rfl⟩

/-- A function-level reset of a device that has a link (R14, R250). -/
theorem functionLevelReset_restarts {s : State} (h1 : s.dev.power ≠ .d3cold) (h2 : s.dev.noLink = false) :
    exec .functionLevelReset s =
      .next { s.restart .d0 with dev := { (s.restart .d0).dev with wall := s.dev.wall } } := by
  have hno : ¬ (s.dev.power = .d3cold ∨ s.dev.noLink = true) := by simp [h1, h2]
  rw [exec_functionLevelReset, execFunctionLevelReset, if_neg hno]

/-- R11, R14, R250: what begins bring-up again, and when. -/
theorem resets : Says.Resets := by
  intro s
  refine ⟨⟨_, rfl, restart_restarted s .d3cold⟩, fun h => ⟨_, ?_, restart_restarted s .d0⟩, fun h1 h2 => ?_, fun h => ?_,
    fun h1 h2 => ⟨_, functionLevelReset_restarts h1 h2, rfl, rfl, rfl, rfl⟩⟩
  · simp [execPowerOn, h]
  · have hno : ¬ (s.dev.power = .d3cold ∨ s.dev.bstep = 0 ∧ s.dev.noLink = false) := by
      rintro (h | ⟨hb, hl⟩)
      · exact h1 h
      · rcases h2 with h2 | h2
        · exact h2 hb
        · simp [hl] at h2
    simp [execPowerOn, hno]
  · simp [execFunctionLevelReset, h]

end Sys2Proof.Machine
end

section
namespace Sys2Proof.Machine

/-! ## Measurements -/

/-- The new value of a measurement register that a digest extends (R34). -/
def extended (meas : Tab (BitVec 256)) (reg : Nat) (digest : BitVec 256) : BitVec 256 :=
  Config.sm3 (toBytes 32 (Tab.get 0 meas reg).toNat ++ toBytes 32 digest.toNat)

theorem extend_full {d : Dev} (h : 4096 ≤ d.log.length) (reg kind ver : Nat) (digest : BitVec 256) :
    d.extend reg kind ver digest = none := by simp [Dev.extend, h]

theorem extend_room {d : Dev} (h : d.log.length < 4096) (reg kind ver : Nat) (digest : BitVec 256) :
    d.extend reg kind ver digest = some { d with
      meas := Tab.set 0 reg (extended d.meas reg digest) d.meas,
      log := d.log ++ [{ seq := d.log.length, reg := reg, kind := kind, ver := ver, digest := digest }] } := by
  simp [Dev.extend, Nat.not_le.2 h, extended]

/-- The extension of another register rests on what that one held. -/
theorem extended_set_ne {m : Tab (BitVec 256)} (hm : AMap.rising m = true) {i j : Nat} (h : i ≠ j) (v digest : BitVec 256) :
    extended (Tab.set 0 j v m) i digest = extended m i digest := by
  rw [extended, Tab.get_set 0 m hm, if_neg h, extended]

/-- What bring-up step 2 measures into a log with room for three records (R26, R34, R74). -/
theorem measure_room {d : Dev} (h : d.log.length ≤ 4093) (hm : Tab.wf 0 d.meas = true) (ver : Nat) (digest : BitVec 256) :
    d.measure ver digest = { d with
      meas := Tab.set 0 3 (extended d.meas 3 (Config.sm3 d.fuseRecord))
        (Tab.set 0 2 (extended d.meas 2 digest) (Tab.set 0 1 (extended d.meas 1 Config.romDigest) d.meas)),
      log := d.log ++ [{ seq := d.log.length, reg := 1, kind := 0, ver := 0, digest := Config.romDigest },
        { seq := d.log.length + 1, reg := 2, kind := 1, ver := ver, digest := digest },
        { seq := d.log.length + 2, reg := 3, kind := 2, ver := 0, digest := Config.sm3 d.fuseRecord }] } := by
  have h1 := Tab.wf_set 0 d.meas 1 (extended d.meas 1 Config.romDigest) hm
  unfold Dev.measure
  dsimp only
  rw [extend_room (reg := 1), Option.getD_some, extend_room (reg := 2), Option.getD_some, extend_room (reg := 3), Option.getD_some]
  rotate_left
  · simp only [List.length_append, List.length_singleton]; omega
  · simp only [List.length_append, List.length_singleton]; omega
  · omega
  rw [extended_set_ne (Tab.wf_rising h1) (by decide), extended_set_ne (Tab.wf_rising hm) (by decide),
    extended_set_ne (Tab.wf_rising hm) (by decide)]
  simp [Dev.fuseRecord]

/-! ## Steps of bring-up -/

/-- A step of bring-up that is in hand ends, well or badly (R14). -/
theorem bringUpStep_inHand {s : State} (hd : s.dev.dark = false) (hb : s.dev.berr = 0) (hn : s.dev.noLink = false) (ok : Bool) :
    exec (.bringUpStep ok) s = .next (if ok then s.stepDone else s.stepFailed) := by
  simp [execBringUpStep, hd, hb, hn]

/-- Step 2 of bring-up with an image that is accepted (R14, R26, R34, R74). -/
theorem stepDone_measures {s : State} {ver entry : Nat} {digest : BitVec 256} (hb : s.dev.bstep = 1)
    (hi : bootCheck = .ok (ver, digest, entry)) :
    s.stepDone = { s with dev := { s.dev.measure ver digest with bstep := 2 } } := by
  simp [State.stepDone, hb, hi]

/-- A step of bring-up that fails leaves its BERR (R14). -/
theorem stepFailed_berr {s : State} {e : Nat × Nat} (he : e ∈ [(1, 1), (2, 2), (4, 3), (5, 4)]) (hb : s.dev.bstep = e.1) :
    s.stepFailed = { s with dev := { s.dev with berr := e.2 } } := by
  simp only [List.mem_cons, List.not_mem_nil, or_false] at he
  rcases he with rfl | rfl | rfl | rfl <;> simp [State.stepFailed, hb]

/-- A launch that the switch to full service waits for is one that has begun and had a neighbourhood placed (R16). -/
theorem resident_none_iff (s : State) :
    s.sched.launches.any (fun l => l.2.resident) = false ↔ ∀ e ∈ s.sched.launches, e.2.begun = true → e.2.nextNb = 0 := by
  simp [Launch.resident, List.any_eq_false]

/-- The switch to full service is due: it is asked for, the device is in D0 or D0 idle, no team is resident, no launch is, and the
fabric's step has ended (R14, R16). -/
def State.switchDue (s : State) : Prop :=
  s.dev.switching = true ∧ s.dev.dark = false ∧ s.teams = [] ∧
    (∀ e ∈ s.sched.launches, e.2.begun = true → e.2.nextNb = 0) ∧ (s.dev.bstep = 6 ∨ s.dev.berr = 4)

theorem switchDue_iff (s : State) : s.switchDue ↔
    (!s.dev.switching || s.dev.dark || !s.teams.isEmpty || s.sched.launches.any (fun l => l.2.resident)
      || !(s.dev.bstep == 6 || s.dev.berr == 4)) = false := by
  rw [State.switchDue, ← resident_none_iff]
  simp only [Bool.or_eq_false_iff, Bool.not_eq_false', List.isEmpty_iff, Bool.or_eq_true, beq_iff_eq, and_assoc]

/-- Full service begins (R14, R16). -/
theorem fullServiceSwitch_begins {s : State} (h : s.switchDue) :
    exec .fullServiceSwitch s = .next { s with
      dev := { s.dev with power := .d0, switching := false, bstep := 7, svc := if s.dev.berr = 4 then 3 else 2,
                          clk0 := 16, clk1 := 16 },
      mem := { s.mem with l2 := [] } } := by
  rw [exec_fullServiceSwitch, execFullServiceSwitch, (switchDue_iff s).1 h, if_neg Bool.false_ne_true]

theorem fullServiceSwitch_waits {s : State} (h : ¬ s.switchDue) : exec .fullServiceSwitch s = .next s := by
  rw [exec_fullServiceSwitch, execFullServiceSwitch, if_pos (Bool.eq_true_of_not_eq_false (mt (switchDue_iff s).2 h))]

/-- R14, R16, R17, R40, R74: the steps of bring-up and the switch to full service. -/
theorem bringUp : Says.BringUp := by
  refine ⟨fun s hd hb hn => ⟨fun h => ?_, fun h => ?_, fun e h hi => ?_, fun ver digest entry h hi hlog hm => ?_, fun h => ?_,
    fun h => ?_, fun h => ?_, fun e he h => ?_⟩, fun s ok h => ?_, fun s => ⟨fun h => ?_, fun h => ?_⟩⟩
  · simp [bringUpStep_inHand hd hb hn, State.stepFailed, h]
  · simp [bringUpStep_inHand hd hb hn, State.stepDone, h]
  · simp [bringUpStep_inHand hd hb hn, State.stepDone, h, hi]
  · have hexec := bringUpStep_inHand hd hb hn true
    rw [if_pos rfl, stepDone_measures h hi, measure_room hlog hm] at hexec
    refine ⟨_, _, _, _, hexec, rfl, ?_, rfl, rfl, rfl, rfl, rfl, rfl, rfl, rfl, rfl, rfl, rfl, rfl, fun k => ?_⟩
    · rw [← h]
    · have h1 := Tab.wf_set 0 s.dev.meas 1 (extended s.dev.meas 1 Config.romDigest) hm
      have h2 := Tab.wf_set 0 _ 2 (extended s.dev.meas 2 digest) h1
      dsimp only
      rw [Tab.get_set 0 _ (Tab.wf_rising h2), Tab.get_set 0 _ (Tab.wf_rising h1), Tab.get_set 0 _ (Tab.wf_rising hm)]
      by_cases k1 : k = 1
      · subst k1; rfl
      · by_cases k2 : k = 2
        · subst k2; rfl
        · by_cases k3 : k = 3
          · subst k3; rfl
          · simp [k1, k2, k3]
  · simp [bringUpStep_inHand hd hb hn, State.stepDone, h]
  · simp [bringUpStep_inHand hd hb hn, State.stepDone, h]
  · have hexec := bringUpStep_inHand hd hb hn true
    have hports : ∀ n < 24, (0xFFFFFF : BitVec 24).getLsbD n = true := by decide
    simp only [if_true, State.stepDone, h] at hexec
    exact ⟨_, hexec, rfl, rfl, hports, rfl, rfl⟩
  · rw [bringUpStep_inHand hd hb hn, if_neg Bool.false_ne_true, stepFailed_berr he h]
  · have hstop : s.dev.berr ≠ 0 ∨ s.dev.noLink = true ∨ s.dev.dark = true := by tauto
    simp [execBringUpStep, hstop]
  · exact ⟨_, fullServiceSwitch_begins h, rfl, rfl⟩
  · exact fullServiceSwitch_waits h

/-- Settles O50, from what resets the device and from the steps of bring-up. -/
theorem resetsAndBringUp : Obligations.ResetsAndBringUp := ⟨resets, bringUp⟩

end Sys2Proof.Machine
end

section
namespace Sys2Proof.Machine

/-! ## Power states and clocks -/

/-- A request for D3hot stays in hand while anything is outstanding (R12). -/
theorem settlePower_waits {s : State} (hb : s.busy = true) : s.settlePower = s := by
  simp [State.settlePower, hb]

theorem settlePower_enters {s : State} (ha : s.dev.d3Asked = true) (hh : s.dev.halted = false) (hb : s.busy = false) :
    s.settlePower = s.enterD3hot := by
  simp [State.settlePower, ha, hh, hb]

/-- A request for D3hot that the device takes (R11, R12). -/
theorem d3hotRequest_asks {s : State} (hd : s.dev.dark = false) (hh : s.dev.halted = false) :
    exec .d3hotRequest s = .next { s with dev := { s.dev with d3Asked := true } }.settlePower := by
  simp only [exec_d3hotRequest, execD3hotRequest, hd, hh, Bool.or_self, Bool.false_eq_true, if_false]

/-- R9 to R13: requests for a power state, and what lowers and raises the clocks. -/
theorem powerAndClocks : Says.PowerAndClocks := by
  intro s
  refine ⟨fun h => ?_, fun hd hh hb => ?_, fun hd hh hb => ⟨s.enterD3hot, ?_, ⟨rfl, rfl⟩, rfl, rfl, rfl, rfl, rfl, rfl, rfl, rfl, rfl, rfl,
    rfl, rfl⟩, rfl, ?_, fun w => ?_, rfl, rfl, fun v hv => ?_⟩
  · have h' : (s.dev.dark || s.dev.halted) = true := by simpa using h
    simp [execD3hotRequest, h']
  · exact (d3hotRequest_asks hd hh).trans (congrArg _ (settlePower_waits hb))
  · exact (d3hotRequest_asks hd hh).trans (congrArg _ (settlePower_enters rfl hh hb))
  · simp [execD0IdleEntry, and_assoc]
  · simp only [exec_powerWindow, execPowerWindow, Dev.topClock, clockDown]
    congr 2
    split
    · rfl
    · by_cases hlow : w * 100 < s.dev.pcap * 95
      · simp [hlow, Nat.not_le.2 hlow]
      · simp [hlow, Nat.not_lt.1 hlow]
  · simp [execPcapWrite, onLink, hv, State.setCap, bits]

/-! ## The management bus -/

/-- The management bus answers nothing before the end of step 1 and without main power (R18). -/
theorem mgmtBus_silent {s : State} (h : s.dev.bstep = 0 ∨ s.dev.power = .d3cold) (r : MgmtReq) :
    exec (.mgmtBusRequest r) s = .next s := by
  simp only [exec_mgmtBusRequest, execMgmtBusRequest, if_pos h]

/-- What the management bus answers each request (R10, R18). -/
theorem mgmtBus_answers {s : State} (h1 : s.dev.bstep ≠ 0) (h2 : s.dev.power ≠ .d3cold) (r : MgmtReq) :
    exec (.mgmtBusRequest r) s = .next (match r with
      | .temperatures => s.tick.emit (.mgmt (Config.sensors (2 * s.fresh)))
      | .power => s.tick.emit (.mgmt (Config.sensors (2 * s.fresh + 1)))
      | .readCap => s.emit (.mgmt (toBytes 4 s.dev.pcap))
      | .writeCap watts => s.setCap watts
      | .svcstat => s.emit (.mgmt (toBytes 4 s.dev.svcstat))
      | .certificate => s.emit (.mgmt Config.certificate)) := by
  have h : ¬ (s.dev.bstep = 0 ∨ s.dev.power = .d3cold) := by simp [h1, h2]
  cases r <;> simp only [exec_mgmtBusRequest, execMgmtBusRequest, if_neg h]

/-! ## Firmware loads -/

/-- A load of firmware waits for nothing: no queue is enabled and no team is resident (R75). -/
theorem loadRefused_iff (s : State) :
    (s.sched.queues.any (fun q => qctlEn q.2) = true ∨ s.teams.isEmpty = false) ↔
      ¬ ((∀ e ∈ s.sched.queues, e.2.qctl.getLsbD 0 = false) ∧ s.teams = []) := by
  rw [not_and_or]
  simp [qctlEn]

section RuntimeLoad

variable {s : State} {v : BitVec 32} (hd : s.dev.deaf = false) (hv : v.getLsbD 0 = true)
  (hi : (∀ e ∈ s.sched.queues, e.2.qctl.getLsbD 0 = false) ∧ s.teams = [])
include hd hv hi

/-- A runtime load of a bad image (R74, R75). -/
theorem runtimeLoad_refused {e : BitVec 4} (he : s.checkImage s.dev.fwaddr.toNat = .error e) :
    exec (.runtimeFirmwareLoad v) s = .next { s with dev := { s.dev with fwstat := e } } := by
  have hi' := mt (loadRefused_iff s).1 (not_not.2 hi)
  simp only [exec_runtimeFirmwareLoad, execRuntimeFirmwareLoad, onLink, hd, hv, Bool.true_eq_false, Bool.false_eq_true, if_false,
    if_neg hi', he]

/-- A runtime load with a full measurement log (R34, R75). -/
theorem runtimeLoad_logFull {ver entry : Nat} {digest : BitVec 256}
    (hok : s.checkImage s.dev.fwaddr.toNat = .ok (ver, digest, entry)) (he : s.dev.extend 4 3 ver digest = none) :
    exec (.runtimeFirmwareLoad v) s = .next { s with dev := { s.dev with fwstat := 5 } } := by
  have hi' := mt (loadRefused_iff s).1 (not_not.2 hi)
  simp only [exec_runtimeFirmwareLoad, execRuntimeFirmwareLoad, onLink, hd, hv, Bool.true_eq_false, Bool.false_eq_true, if_false,
    if_neg hi', hok, he]

/-- A runtime load of an image that is accepted and measured (R75). -/
theorem runtimeLoad_loaded {ver entry : Nat} {digest : BitVec 256} {d : Dev}
    (hok : s.checkImage s.dev.fwaddr.toNat = .ok (ver, digest, entry)) (he : s.dev.extend 4 3 ver digest = some d) :
    exec (.runtimeFirmwareLoad v) s = .next { s with
      dev := { d with fwstat := 2, fwImage := s.dev.fwaddr.toNat + 128 },
      sched := { s.sched with
        harts := s.sched.harts.map (fun h => (h.1, h.2.restart (s.dev.fwaddr.toNat + 128 + entry))) } } := by
  have hi' := mt (loadRefused_iff s).1 (not_not.2 hi)
  simp only [exec_runtimeFirmwareLoad, execRuntimeFirmwareLoad, onLink, hd, hv, Bool.true_eq_false, Bool.false_eq_true, if_false,
    if_neg hi', hok, he]

end RuntimeLoad

/-- An image whose first word is not the magic number is refused with FWSTAT 3 (R74). -/
theorem checkImage_badMagic {s : State} {a : Nat} (h : ofBytes ((List.range 4).map (fun i => byteAt s (a + i))) ≠ 0x59465731) :
    s.checkImage a = .error 3 := by
  have hmagic : bits 31 0 (pw (s.readPa a 128) 0) = ofBytes ((List.range 4).map (fun i => byteAt s (a + i))) := by
    have h4 : (List.range 4).map (fun i => byteAt s (a + i)) = (s.readPa a 128).take 4 := by
      rw [State.readPa_eq, ← List.map_take, List.take_range]; rfl
    have h8 := ofBytes_take 8 (s.readPa a 128)
    rw [h4, ofBytes_take]
    simp only [bits, pw, Nat.mul_zero, List.drop_zero, h8]
    omega
  unfold State.checkImage
  dsimp only
  split
  · rfl
  · rw [imageCheck, hmagic, if_pos (.inl h)]

/-- Settles O52: the bus answers by request, and a runtime load by what refuses it. -/
theorem managementAndFirmware : Obligations.ManagementAndFirmware := by
  refine ⟨fun s => ⟨fun r h => mgmtBus_silent h r, fun h1 h2 => ⟨mgmtBus_answers h1 h2 _, mgmtBus_answers h1 h2 _, fun ha hb hc => ?_,
    fun r hr => ?_, fun w => mgmtBus_answers h1 h2 _⟩⟩, fun s v hd => ⟨fun hv => ?_, fun hv hi => ?_, fun hv hi hm => ?_,
    fun e hv hi he => ?_, fun ver digest entry hv hi hok hm => ⟨fun hl => ?_, fun hl => ?_⟩⟩⟩
  · have hstat : s.dev.svcstat = s.dev.svc + s.dev.bstep * 2 ^ 8 + s.dev.berr * 2 ^ 12 := by
      simp [Dev.svcstat, Nat.mod_eq_of_lt ha, Nat.mod_eq_of_lt hb, Nat.mod_eq_of_lt hc]
    rw [mgmtBus_answers h1 h2, ← hstat]; rfl
  · simp only [List.mem_cons, List.not_mem_nil, or_false] at hr
    rcases hr with rfl | rfl <;> exact ⟨_, _, mgmtBus_answers h1 h2 _, rfl⟩
  · simp only [exec_runtimeFirmwareLoad, execRuntimeFirmwareLoad, onLink, hd, hv, if_true, Bool.false_eq_true, if_false]
  · simp only [exec_runtimeFirmwareLoad, execRuntimeFirmwareLoad, onLink, hd, hv, if_pos ((loadRefused_iff s).2 hi),
      Bool.true_eq_false, Bool.false_eq_true, if_false]
  · exact runtimeLoad_refused hd hv hi (checkImage_badMagic hm)
  · exact runtimeLoad_refused hd hv hi he
  · exact runtimeLoad_logFull hd hv hi hok (extend_full hl 4 3 ver digest)
  · refine ⟨_, runtimeLoad_loaded hd hv hi hok (extend_room hl 4 3 ver digest), rfl, rfl, rfl, rfl, rfl, ?_, fun h k hk => ?_⟩
    · exact (Tab.get_set 0 _ (Tab.wf_rising hm) 4 4 _).trans (if_pos rfl)
    · have hfind := AMap.find_map (fun k : Hart => k.restart (s.dev.fwaddr.toNat + 128 + entry)) s.sched.harts h
      simp only [State.hart, hfind, hk, Option.map_some, Option.getD_some]
      exact ⟨rfl, rfl, rfl⟩

end Sys2Proof.Machine
end

section
/-!
SUPPORT. What a write of the device's own units changes, and what can still happen to teams, launches and queues once the device
ends what runs on it.
-/
namespace Sys2Proof.Machine

/-! ## What writes and reports change -/

/-- A write at the home slice changes memory and the L1 copies, and nothing else (R110). -/
theorem writeLine_is (s : State) (cs : List Nat) (pts pa : Nat) (bs : List Byte) :
    ∃ m c, (s.writeLine cs pts pa bs).1 = { s with mem := m, cores := c } := by
  unfold State.writeLine
  refine foldl_keeps (fun t : State => ∃ m c, t = { s with mem := m, cores := c }) _ _ _ ⟨_, s.cores, rfl⟩ ?_
  rintro _ _ ⟨m, c, rfl⟩
  exact ⟨m, _, rfl⟩

theorem writeHome_is (s : State) (cs : List Nat) (pts pa : Nat) (bs : List Byte) :
    ∃ m c o, (s.writeHome cs pts pa bs).1 = { s with mem := m, cores := c, out := o } := by
  unfold State.writeHome
  obtain ⟨l, g, o, hobt⟩ := obtain_is s pa
  obtain ⟨m, c, hwr⟩ := writeLine_is (s.obtain pa) cs pts pa bs
  exact ⟨m, c, o, by rw [hwr, hobt]⟩

theorem writeLines_is (s : State) (cs : List Nat) (pts pa : Nat) (bs : List Byte) :
    ∃ m c o, (s.writeLines cs pts pa bs).1 = { s with mem := m, cores := c, out := o } := by
  unfold State.writeLines
  refine foldl_keeps (fun r : State × Nat => ∃ m c o, r.1 = { s with mem := m, cores := c, out := o }) _ _ _
    ⟨s.mem, s.cores, s.out, rfl⟩ ?_
  rintro ⟨_, n⟩ p ⟨m, c, o, rfl⟩
  obtain ⟨m', c', o', hwr⟩ := writeHome_is { s with mem := m, cores := c, out := o } cs pts p.1 p.2
  exact ⟨m', c', o', hwr⟩

theorem writeUnit_is (s : State) (pa : Nat) (bs : List Byte) :
    ∃ m c o, s.writeUnit pa bs = { s with mem := m, cores := c, out := o } := by
  obtain ⟨m, c, o, hwr⟩ := writeLines_is s [] 0 pa bs
  unfold State.writeUnit State.noteDev State.noteOut
  dsimp only
  rw [hwr]
  exact ⟨_, _, _, rfl⟩

/-- A write of one of the device's own units changes memory, the L1 copies, what is shown to the outside, and what the owner holds
for leases, and nothing else (R46, R110, R183). -/
theorem deviceWrite_is (s : State) (pa : Nat) (bs : List Byte) :
    ∃ m c o f, s.deviceWrite pa bs = { s with mem := m, cores := c, out := o, fab := f } := by
  unfold State.deviceWrite
  split
  · refine foldl_keeps (fun t : State => ∃ m c o f, t = { s with mem := m, cores := c, out := o, fab := f }) _ _ _
      ⟨s.mem, s.cores, s.out, s.fab, rfl⟩ ?_
    rintro _ p ⟨m, c, o, f, rfl⟩
    unfold State.deviceLine
    split
    · exact ⟨m, c, o, _, rfl⟩
    · obtain ⟨m', c', o', hwr⟩ := writeUnit_is { s with mem := m, cores := c, out := o, fab := f } p.1 p.2
      exact ⟨m', c', o', f, hwr⟩
  · obtain ⟨m, c, o, hwr⟩ := writeUnit_is s pa bs
    exact ⟨m, c, o, s.fab, hwr⟩

/-- Trap reports that enter their ring change what a write of the device changes, and the debug unit (R249). -/
theorem flushReports_is (n : Nat) (s : State) :
    ∃ m c o f d, State.flushReports n s = { s with mem := m, cores := c, out := o, fab := f, dbg := d } := by
  induction n generalizing s with
  | zero => exact ⟨s.mem, s.cores, s.out, s.fab, s.dbg, rfl⟩
  | succ n ih =>
    unfold State.flushReports
    split
    · exact ⟨s.mem, s.cores, s.out, s.fab, s.dbg, rfl⟩
    · dsimp only
      split
      · unfold State.ringPut
        obtain ⟨m, c, o, f, hwr⟩ := deviceWrite_is s
          (s.dbg.trbase.toNat + s.dbg.trhead.toNat % 2 ^ bits 12 8 s.dbg.trctl.toNat * 32) _
        rw [hwr]
        obtain ⟨m', c', o', f', d', hfl⟩ := ih _
        exact ⟨m', c', o', f', d', hfl⟩
      · exact ⟨s.mem, s.cores, s.out, s.fab, s.dbg, rfl⟩

theorem report_is (s : State) (team : BitVec 32) (r : List Byte) :
    ∃ m c o f d, s.report team r = { s with mem := m, cores := c, out := o, fab := f, dbg := d } := by
  unfold State.report
  split
  · obtain ⟨m, c, o, f, d, hfl⟩ := flushReports_is _ { s with dbg := { s.dbg with trWait := s.dbg.trWait ++ [(team, r)] } }
    exact ⟨m, c, o, f, d, hfl⟩
  · exact ⟨s.mem, s.cores, s.out, s.fab, s.dbg, rfl⟩

/-! ## Winding down -/

/-- A launch goes on as it was, or nearer to its end: it has begun as before, and neither its failure nor its cancelling is undone. -/
def Launch.nearerEnd (l l' : Launch) : Prop :=
  l'.begun = l.begun ∧ (l.failed ≠ none → l'.failed ≠ none) ∧ (l.cancelled = true → l'.cancelled = true)

theorem Launch.nearerEnd_refl (l : Launch) : l.nearerEnd l := ⟨rfl, id, id⟩

theorem Launch.nearerEnd_trans {a b c : Launch} (h : a.nearerEnd b) (g : b.nearerEnd c) : a.nearerEnd c := by
  obtain ⟨hb, hf, hc⟩ := h
  obtain ⟨gb, gf, gc⟩ := g
  exact ⟨gb.trans hb, gf ∘ hf, gc ∘ hc⟩

/-- The device winds down: its registers and its queues stay, no team appears, and every launch goes on towards its end. -/
structure WindsDown (s t : State) : Prop where
  dev : t.dev = s.dev
  queues : t.sched.queues = s.sched.queues
  teams : AMap.rising s.teams = true → AMap.rising t.teams = true
  gone : AMap.rising s.teams = true → ∀ k, s.team k = none → t.team k = none
  rising : AMap.rising s.sched.launches = true → AMap.rising t.sched.launches = true
  launch : ∀ n l, s.launch n = some l → ∃ l', t.launch n = some l' ∧ l.nearerEnd l'

/-- What leaves the registers, the queues, the launches and the teams as they are winds nothing down. -/
theorem WindsDown.of_eq {s t : State} (hd : t.dev = s.dev) (hs : t.sched.queues = s.sched.queues)
    (hl : t.sched.launches = s.sched.launches) (ht : t.teams = s.teams) : WindsDown s t where
  dev := hd
  queues := hs
  teams := fun h => by rwa [ht]
  gone := fun _ k h => by rwa [State.team, ht]
  rising := fun h => by rwa [hl]
  launch := fun n l h => ⟨l, by rwa [State.launch, hl], l.nearerEnd_refl⟩

theorem WindsDown.refl (s : State) : WindsDown s s := .of_eq rfl rfl rfl rfl

theorem WindsDown.trans {s t u : State} (h : WindsDown s t) (g : WindsDown t u) : WindsDown s u where
  dev := g.dev.trans h.dev
  queues := g.queues.trans h.queues
  teams := fun hs => g.teams (h.teams hs)
  gone := fun hs k hk => g.gone (h.teams hs) k (h.gone hs k hk)
  rising := fun hs => g.rising (h.rising hs)
  launch := fun n l hn => by
    obtain ⟨l', hl', hnear⟩ := h.launch n l hn
    obtain ⟨l'', hl'', hnear'⟩ := g.launch n l' hl'
    exact ⟨l'', hl'', Launch.nearerEnd_trans hnear hnear'⟩

/-- What follows changes neither the registers, the queues, the launches nor the teams. -/
theorem WindsDown.then_eq {s t u : State} (h : WindsDown s t) (hd : u.dev = t.dev) (hs : u.sched.queues = t.sched.queues)
    (hl : u.sched.launches = t.sched.launches) (ht : u.teams = t.teams) : WindsDown s u :=
  h.trans (.of_eq hd hs hl ht)

theorem WindsDown.foldl {α : Type} {f : State → α → State} (hf : ∀ s a, WindsDown s (f s a)) (as : List α) (s : State) :
    WindsDown s (as.foldl f s) :=
  foldl_keeps (fun t => WindsDown s t) f as s (.refl s) (fun t a ht => ht.trans (hf t a))

theorem modCore_windsDown (s : State) (c : Nat) (f : Core → Core) : WindsDown s (s.modCore c f) := .of_eq rfl rfl rfl rfl

theorem modSaved_windsDown (s : State) (id : BitVec 32) (f : Team → Team) : WindsDown s (s.modSaved id f) :=
  .of_eq rfl rfl rfl rfl

theorem modTeam_windsDown (s : State) (key : Nat) (f : Team → Team) : WindsDown s (s.modTeam key f) where
  dev := rfl
  queues := rfl
  teams := AMap.rising_modify _ _ _
  gone := fun _ k hk => by
    rw [modTeam_team]
    split
    · next e => rw [← e, hk]; rfl
    · exact hk
  rising := id
  launch := fun _ l h => ⟨l, h, l.nearerEnd_refl⟩

theorem modLaunch_windsDown (s : State) (h : Nat) {f : Launch → Launch} (hf : ∀ l : Launch, l.nearerEnd (f l)) :
    WindsDown s (s.modLaunch h f) where
  dev := rfl
  queues := rfl
  teams := id
  gone := fun _ _ h => h
  rising := AMap.rising_modify _ _ _
  launch := fun n l hl => by
    rw [modLaunch_launch]
    split
    · next e => exact ⟨f l, by rw [← e, hl]; rfl, hf l⟩
    · exact ⟨l, hl, l.nearerEnd_refl⟩

/-- Teams that change where they stand, each at its key. -/
theorem mapTeams_windsDown (s : State) (g : Team → Team) :
    WindsDown s { s with teams := s.teams.map (fun e => (e.1, g e.2)) } where
  dev := rfl
  queues := rfl
  teams := AMap.rising_map g _
  gone := fun _ k hk => by
    have hk' : AMap.find s.teams k = none := hk
    rw [State.team, AMap.find_map, hk']; rfl
  rising := id
  launch := fun _ l h => ⟨l, h, l.nearerEnd_refl⟩

theorem report_windsDown (s : State) (team : BitVec 32) (r : List Byte) : WindsDown s (s.report team r) := by
  obtain ⟨m, c, o, f, d, hr⟩ := report_is s team r
  rw [hr]
  exact .of_eq rfl rfl rfl rfl

theorem deviceWrite_windsDown (s : State) (pa : Nat) (bs : List Byte) : WindsDown s (s.deviceWrite pa bs) := by
  obtain ⟨m, c, o, f, hw⟩ := deviceWrite_is s pa bs
  rw [hw]
  exact .of_eq rfl rfl rfl rfl

/-! ## The end of a team -/

theorem poolWrite_windsDown (s : State) (id : BitVec 32) (off : Nat) (bs : List Byte) (rel : Nat) :
    WindsDown s (s.poolWrite id off bs rel) := by
  unfold State.poolWrite
  split
  · exact modTeam_windsDown _ _ _
  · exact modSaved_windsDown _ _ _
  · exact .refl s

theorem countDown_windsDown (s : State) (id : BitVec 32) (off n errs rel : Nat) : WindsDown s (s.countDown id off n errs rel) := by
  unfold State.countDown
  dsimp only
  split
  · exact .refl s
  · exact poolWrite_windsDown _ _ _ _ _

theorem replayHeld_windsDown (s : State) (which : Hold → Bool) : WindsDown s (s.replayHeld which) :=
  mapTeams_windsDown s (fun t => { t with
    paths := replayPaths which t.paths,
    handler := t.handler.map (fun h => { h with saved := replayPaths which h.saved }) })

theorem dropCopies_windsDown (s : State) (id : BitVec 32) : WindsDown s (s.dropCopies id) := by
  unfold State.dropCopies
  dsimp only
  split
  · refine .trans ?_ (replayHeld_windsDown _ _)
    generalize hu : List.foldl _ _ _ = u
    have h : WindsDown s u := hu ▸ .foldl
      (fun s c => (poolWrite_windsDown s _ _ _ _).trans (countDown_windsDown _ _ _ _ _ _)) _ s
    exact h.then_eq rfl rfl rfl rfl
  · exact .refl s

theorem leaveCore_windsDown (s : State) (core key : Nat) (t : Team) : WindsDown s (s.leaveCore core key t) := by
  unfold State.leaveCore
  exact modCore_windsDown _ _ _

theorem leaveCores_windsDown (s : State) (key : Nat) (t : Team) : WindsDown s (s.leaveCores key t) := by
  unfold State.leaveCores
  exact .foldl (fun s c => leaveCore_windsDown s c key t) _ s

theorem passPts_windsDown (s : State) (key : Nat) (t : Team) (pts : Nat) : WindsDown s (s.passPts key t pts) := by
  unfold State.passPts
  exact .foldl (fun s c => modCore_windsDown s c _) _ s

theorem settleVacate_windsDown (s : State) : WindsDown s s.settleVacate := by
  unfold State.settleVacate
  dsimp only
  generalize hv : (if s.sched.vacating.all (fun c => (s.teamsOn c).isEmpty) then
    { s with sched := { s.sched with vacating := [] } } else s : State) = v
  have h : WindsDown s v := by
    rw [← hv]
    split
    · exact .of_eq rfl rfl rfl rfl
    · exact .refl s
  split
  · generalize hu : List.foldl _ _ _ = u
    have hvu : WindsDown v u := hu ▸ .foldl (fun s c => modCore_windsDown s c _) _ v
    exact (h.trans hvu).then_eq rfl rfl rfl rfl
  · exact h

theorem settleNb_windsDown (s : State) (h nb : Nat) : WindsDown s (s.settleNb h nb) := by
  unfold State.settleNb
  split
  · exact .refl s
  · split
    · refine modLaunch_windsDown s h (fun l => ?_)
      split
      · exact l.nearerEnd_refl
      · exact ⟨rfl, id, id⟩
    · exact modLaunch_windsDown s h (fun l => ⟨rfl, id, id⟩)

theorem afterEnd_windsDown (s : State) (t : Team) : WindsDown s (s.afterEnd t) := by
  unfold State.afterEnd
  refine .trans ?_ (settleVacate_windsDown _)
  refine .trans ?_ (settleNb_windsDown _ _ _)
  exact modLaunch_windsDown s _ (fun l => ⟨rfl, id, id⟩)

/-- The team at a key is erased, with the events that the device holds for it. -/
theorem eraseTeam_windsDown (s : State) (key : Nat) (ev : List EvEntry) :
    WindsDown s { s with teams := AMap.erase key s.teams, sched := { s.sched with savedEv := ev } } where
  dev := rfl
  queues := rfl
  teams := AMap.rising_erase _ _
  gone := fun hs k hk => by
    have hk' : AMap.find s.teams k = none := hk
    simp only [State.team, AMap.find_erase _ hs, hk', ite_self]
  rising := id
  launch := fun _ l h => ⟨l, h, l.nearerEnd_refl⟩

/-- A team that is removed leaves its cores; then it is erased, and its neighbourhood settles. -/
theorem removeTeam_eq {s : State} {key : Nat} {t : Team} (h : s.team key = some t) : ∃ u ev, WindsDown s u ∧
    s.removeTeam key =
      ({ u with teams := AMap.erase key u.teams, sched := { u.sched with savedEv := ev } } : State).afterEnd t := by
  unfold State.removeTeam
  rw [h]
  dsimp only
  generalize hu : List.foldl _ _ _ = u
  have hw : WindsDown s u := hu ▸ (leaveCores_windsDown s key t).trans (.foldl (fun s p => passPts_windsDown s key t _) _ _)
  exact ⟨u, _, hw, rfl⟩

theorem removeTeam_windsDown (s : State) (key : Nat) : WindsDown s (s.removeTeam key) := by
  cases h : s.team key with
  | none => unfold State.removeTeam; rw [h]; exact .refl s
  | some t =>
    obtain ⟨u, ev, hu, heq⟩ := removeTeam_eq h
    rw [heq]
    exact (hu.trans (eraseTeam_windsDown u key ev)).trans (afterEnd_windsDown _ t)

/-- A team that is removed is gone. -/
theorem removeTeam_gone {s : State} (hs : AMap.rising s.teams = true) (key : Nat) : (s.removeTeam key).team key = none := by
  cases h : s.team key with
  | none => exact (removeTeam_windsDown s key).gone hs key h
  | some t =>
    obtain ⟨u, ev, hu, heq⟩ := removeTeam_eq h
    have hr := hu.teams hs
    rw [heq]
    refine (afterEnd_windsDown _ t).gone ((eraseTeam_windsDown u key ev).teams hr) key ?_
    simp [State.team, AMap.find_erase _ hr]

theorem discardTeam_windsDown (s : State) (key : Nat) : WindsDown s (s.discardTeam key) := by
  unfold State.discardTeam
  split
  · exact .refl s
  · exact (dropCopies_windsDown s _).trans (removeTeam_windsDown _ key)

/-- A team that is discarded is gone. -/
theorem discardTeam_gone {s : State} (hs : AMap.rising s.teams = true) (key : Nat) : (s.discardTeam key).team key = none := by
  unfold State.discardTeam
  split
  · assumption
  · exact removeTeam_gone ((dropCopies_windsDown s _).teams hs) key

/-! ## Traps, cancelled launches and core images -/

theorem failLaunch_windsDown (s : State) (h cls : Nat) (task : BitVec 32) : WindsDown s (s.failLaunch h cls task) := by
  refine modLaunch_windsDown s h (fun l => ?_)
  split
  · exact ⟨rfl, fun _ => Option.some_ne_none _, id⟩
  · exact l.nearerEnd_refl

/-- A launch that fails has failed, unless it was not there. -/
theorem failLaunch_failed {s : State} {h : Nat} {l : Launch} (hl : s.launch h = some l) (cls : Nat) (task : BitVec 32) :
    ∃ l', (s.failLaunch h cls task).launch h = some l' ∧ l'.failed ≠ none := by
  unfold State.failLaunch
  rw [modLaunch_launch, if_pos rfl, hl]
  refine ⟨_, rfl, ?_⟩
  dsimp only
  split
  · exact Option.some_ne_none _
  · next hf => exact fun he => hf (by simp [he])

theorem reportTrap_windsDown (s : State) (key pi : Nat) (cls : TrapClass) (lane : Nat) (va : BitVec 64) :
    WindsDown s (s.reportTrap key pi cls lane va) := by
  unfold State.reportTrap
  split
  · exact .refl s
  · dsimp only
    split
    · exact report_windsDown _ _ _
    · exact (report_windsDown _ _ _).trans (failLaunch_windsDown _ _ _ _)

theorem cancelTeam_windsDown (s : State) (key : Nat) : WindsDown s (s.cancelTeam key) := by
  unfold State.cancelTeam
  split
  · exact .refl s
  · exact (reportTrap_windsDown _ _ _ _ _ _).trans (discardTeam_windsDown _ _)

theorem dropSaved_windsDown (s : State) (t : Team) : WindsDown s (s.dropSaved t) := .of_eq rfl rfl rfl rfl

theorem cancelSavedTeam_windsDown (s : State) (t : Team) : WindsDown s (s.cancelSavedTeam t) := by
  unfold State.cancelSavedTeam
  refine .trans ?_ (afterEnd_windsDown _ t)
  refine .trans ?_ (dropSaved_windsDown _ t)
  exact (report_windsDown _ _ _).trans (dropCopies_windsDown _ _)

theorem cancelSaved_windsDown (s : State) (hit : Team → Bool) : WindsDown s (s.cancelSaved hit) := by
  unfold State.cancelSaved
  exact .foldl (fun s t => cancelSavedTeam_windsDown s t) _ s

/-- What comes before the launch is marked as cancelled: its teams go, resident and saved (R73, R247). -/
theorem cancelLaunch_eq (s : State) (h : Nat) : ∃ u bins cores, WindsDown s u ∧
    s.cancelLaunch h = { (u.modLaunch h (fun l => { l with cancelled := true, returned := [], liveNb := [] })) with
      sched := { (u.modLaunch h (fun l => { l with cancelled := true, returned := [], liveNb := [] })).sched with savedBins := bins },
      cores := cores } := by
  unfold State.cancelLaunch
  dsimp only
  refine ⟨_, _, _, ?_, rfl⟩
  exact .trans (.foldl (fun s (e : Nat × Team) => cancelTeam_windsDown s e.1) _ s) (cancelSaved_windsDown _ _)

theorem cancelLaunch_windsDown (s : State) (h : Nat) : WindsDown s (s.cancelLaunch h) := by
  obtain ⟨u, bins, cores, hu, heq⟩ := cancelLaunch_eq s h
  rw [heq]
  refine (hu.trans (modLaunch_windsDown u h (f := fun l => { l with cancelled := true, returned := [], liveNb := [] })
    (fun l => ⟨rfl, id, fun _ => rfl⟩))).then_eq rfl rfl rfl rfl

/-- A launch that is cancelled is cancelled, unless it was not there. -/
theorem cancelLaunch_cancelled {s : State} {h : Nat} {l : Launch} (hl : s.launch h = some l) :
    ∃ l', (s.cancelLaunch h).launch h = some l' ∧ l'.cancelled = true := by
  obtain ⟨u, bins, cores, hu, heq⟩ := cancelLaunch_eq s h
  obtain ⟨l', hl', -⟩ := hu.launch h l hl
  rw [heq]
  refine ⟨{ l' with cancelled := true, returned := [], liveNb := [] }, ?_, rfl⟩
  show (u.modLaunch h _).launch h = _
  rw [modLaunch_launch, if_pos rfl, hl']; rfl

theorem dump_windsDown (s : State) (trapped : List Team) (asid cls : Nat) : WindsDown s (s.dump trapped asid cls) := by
  unfold State.dump
  dsimp only
  refine .trans ?_ (cancelSaved_windsDown _ _)
  refine .trans ?_ (.foldl (fun s (e : Nat × Team) => cancelTeam_windsDown s e.1) _ _)
  refine .trans ?_ (.foldl (fun s (l : Nat × Launch) => cancelLaunch_windsDown s l.1) _ _)
  generalize hu : s.deviceWrite _ _ = u
  have hw : WindsDown s u := hu ▸ deviceWrite_windsDown s _ _
  exact hw.then_eq rfl rfl rfl rfl

theorem dumpIf_windsDown (s : State) (trapped : List Team) (asid : Nat) (cls : TrapClass) :
    WindsDown s (s.dumpIf trapped asid cls) := by
  unfold State.dumpIf
  split
  · exact dump_windsDown _ _ _ _
  · exact .refl s

/-! ## A stop of the whole device -/

/-- Teams that are discarded one after the other are gone, and none comes back. -/
theorem foldl_discardTeam_gone (es : List (Nat × Team)) {s : State} (hs : AMap.rising s.teams = true) {k : Nat}
    (hk : k ∈ es.map Prod.fst ∨ s.team k = none) : (es.foldl (fun s e => s.discardTeam e.1) s).team k = none := by
  induction es generalizing s with
  | nil => simpa using hk
  | cons e es ih =>
    have hw := discardTeam_windsDown s e.1
    refine ih (hw.teams hs) ?_
    rw [List.map_cons, List.mem_cons] at hk
    rcases hk with (rfl | hk) | hk
    · exact .inr (discardTeam_gone hs e.1)
    · exact .inl hk
    · exact .inr (hw.gone hs k hk)

/-- A stop of the whole device: it stops issuing, the tasks are reported, and then every team is discarded (R5, R13). -/
theorem stopAll_eq (s : State) : ∃ u, WindsDown { s with dev := { s.dev with halted := true, d3Asked := false } } u ∧
    s.stopAll = s.teams.foldl (fun s e => s.discardTeam e.1) u := by
  unfold State.stopAll
  dsimp only
  refine ⟨_, ?_, rfl⟩
  refine .trans ?_ (.foldl (fun s a => dumpIf_windsDown s _ a _) _ _)
  exact .foldl (fun s (e : Nat × Team) => reportTrap_windsDown s e.1 _ _ _ _) _ _

theorem stopAll_windsDown (s : State) :
    WindsDown { s with dev := { s.dev with halted := true, d3Asked := false } } s.stopAll := by
  obtain ⟨u, hu, heq⟩ := stopAll_eq s
  rw [heq]
  exact hu.trans (.foldl (fun s (e : Nat × Team) => discardTeam_windsDown s e.1) _ _)

/-- No team is left after a stop of the whole device (R5, R13). -/
theorem stopAll_teams {s : State} (hs : AMap.rising s.teams = true) : s.stopAll.teams = [] := by
  obtain ⟨u, hu, heq⟩ := stopAll_eq s
  rw [heq]
  refine AMap.eq_nil_of_find (fun k => foldl_discardTeam_gone s.teams (hu.teams hs) ?_)
  cases hk : s.team k with
  | none => exact .inr (hu.gone hs k hk)
  | some t => exact .inl (List.mem_map.2 ⟨(k, t), AMap.mem_of_find hk, rfl⟩)

/-- A launch has failed and is cancelled. -/
def Launch.doomed (l : Launch) : Prop := l.failed ≠ none ∧ l.cancelled = true

/-- Launches that fail and are cancelled one after the other have failed and are cancelled in the end. -/
theorem foldl_cancel_doomed (es : List (Nat × Launch)) (cls : Nat) {s : State} {n : Nat} {l : Launch} (hl : s.launch n = some l)
    (hn : n ∈ es.map Prod.fst ∨ l.doomed) :
    ∃ l', (es.foldl (fun s e => (s.failLaunch e.1 cls 0).cancelLaunch e.1) s).launch n = some l' ∧ l'.doomed := by
  induction es generalizing s l with
  | nil => exact ⟨l, hl, by simpa using hn⟩
  | cons e es ih =>
    have hfail := failLaunch_windsDown s e.1 cls 0
    have hcancel := cancelLaunch_windsDown (s.failLaunch e.1 cls 0) e.1
    obtain ⟨l', hl', hnear, hff, hcc⟩ := (hfail.trans hcancel).launch n l hl
    rw [List.map_cons, List.mem_cons] at hn
    rcases hn with (rfl | hn) | ⟨hf, hc⟩
    · obtain ⟨l1, hl1, hf1⟩ := failLaunch_failed hl cls 0
      obtain ⟨l2, hl2, -, hf2, -⟩ := hcancel.launch e.1 l1 hl1
      obtain ⟨l3, hl3, hc3⟩ := cancelLaunch_cancelled hl1
      cases hl2.symm.trans hl3
      exact ih hl2 (.inr ⟨hf2 hf1, hc3⟩)
    · exact ih hl' (.inl hn)
    · exact ih hl' (.inr ⟨hff hf, hcc hc⟩)

/-- A packet that a stop of the whole device strikes is not left fetched (R5, R72). -/
theorem struck_not_fetched (p : Packet) : p.struck.st ≠ .fetched := by
  obtain ⟨idx, bytes, st, item, rel⟩ := p
  cases st with
  | begun => unfold Packet.struck; dsimp only; split <;> simp
  | _ => simp [Packet.struck]

/-- What everything in flight failing begins with: packets that have been fetched fail, and launches that have not begun go (R5,
R72). -/
def State.strike (s : State) : State :=
  { s with sched := { s.sched with
    queues := s.sched.queues.map (fun (q : Nat × Queue) => (q.1, q.2.struck)),
    launches := s.sched.launches.filter (fun e => e.2.begun) } }

/-- Everything in flight fails: the launches that have begun fail and are cancelled, and then the copies (R5, R72). -/
theorem failAll_eq (s : State) : ∃ copies,
    let u := s.strike.sched.launches.foldl (fun s e => (s.failLaunch e.1 TrapClass.uncorrectable.code 0).cancelLaunch e.1) s.strike
    s.failAll = { u with eng := { u.eng with copies := copies } } := ⟨_, rfl⟩

theorem failAll_windsDown (s : State) : WindsDown s.strike s.failAll := by
  obtain ⟨copies, heq⟩ := failAll_eq s
  rw [heq]
  have hfold := WindsDown.foldl (fun s (e : Nat × Launch) =>
    (failLaunch_windsDown s e.1 TrapClass.uncorrectable.code 0).trans (cancelLaunch_windsDown _ e.1))
    s.strike.sched.launches s.strike
  exact hfold.then_eq rfl rfl rfl rfl

/-- A launch that has begun has failed and is cancelled once everything in flight has failed (R5, R72). -/
theorem failAll_launch {s : State} (hs : AMap.rising s.sched.launches = true) {n : Nat} {l : Launch} (hl : s.launch n = some l)
    (hb : l.begun = true) : ∃ l', s.failAll.launch n = some l' ∧ l'.doomed := by
  obtain ⟨copies, heq⟩ := failAll_eq s
  rw [heq]
  have hfind : s.strike.launch n = some l := AMap.find_filter hs (fun e => e.2.begun) hl hb
  exact foldl_cancel_doomed _ _ hfind (.inl (List.mem_map.2 ⟨(n, l), AMap.mem_of_find hfind, rfl⟩))

/-- No packet stays fetched once everything in flight has failed (R5, R72). -/
theorem failAll_packets (s : State) (q : Nat) : ∀ p ∈ (s.failAll.queue q).packets, p.st ≠ .fetched := by
  intro p hp
  rw [State.queue, (failAll_windsDown s).queues] at hp
  have hfind := AMap.find_map Queue.struck s.sched.queues q
  simp only [State.strike, hfind] at hp
  cases hq : AMap.find s.sched.queues q with
  | none => simp [hq, Queue.reset] at hp
  | some k =>
    simp only [hq, Option.map_some, Option.getD_some, Queue.struck, List.mem_map] at hp
    obtain ⟨p', -, rfl⟩ := hp
    exact struck_not_fetched p'

/-- Nothing is chosen to issue on a device that has stopped for good (R5, R13). -/
theorem choose_halted {s : State} (h : s.dev.halted = true) (c : Nat) : chooseScalar s c = none ∧ chooseClause s c = none := by
  simp [chooseScalar, chooseClause, Dev.stopped, h]

/-- What a stop of the whole device leaves: nothing issues, no team is left, no packet stays fetched, and every launch that had
begun has failed and is cancelled (R5, R13, R72). -/
theorem stopAll_failAll_stopped {s : State} (ht : AMap.rising s.teams = true) (hl : AMap.rising s.sched.launches = true) :
    let t := s.stopAll.failAll
    t.dev.halted = true ∧ t.teams = [] ∧ (∀ c, chooseScalar t c = none ∧ chooseClause t c = none) ∧
      (∀ q, ∀ p ∈ (t.queue q).packets, p.st ≠ .fetched) ∧
      ∀ n l, s.launch n = some l → l.begun = true → ∃ l', t.launch n = some l' ∧ l'.failed ≠ none ∧ l'.cancelled = true := by
  have hstop := stopAll_windsDown s
  have hfail := failAll_windsDown s.stopAll
  have hhalt : s.stopAll.failAll.dev.halted = true := by
    rw [hfail.dev]
    exact congrArg Dev.halted hstop.dev
  have hnil : s.stopAll.strike.teams = [] := stopAll_teams ht
  refine ⟨hhalt, AMap.eq_nil_of_find (fun k => ?_), choose_halted hhalt, failAll_packets _, fun n l hn hb => ?_⟩
  · exact hfail.gone (by rw [hnil]; rfl) k (by rw [State.team, hnil]; rfl)
  · obtain ⟨l', hl', hnear⟩ := hstop.launch n l hn
    exact failAll_launch (hstop.rising hl) hl' (hnear.1.trans hb)

/-- R5, R13, R72: what stops the device. -/
theorem deviceStops : Says.DeviceStops := by
  intro s ht hl
  have hstopped := stopAll_failAll_stopped ht hl
  refine ⟨fun hd => ⟨?_, ?_⟩, fun hd => ⟨_, ?_, hstopped⟩, fun hv => ?_, fun hd hv => ⟨fun hn => ?_, fun hn => ⟨_, ?_, hstopped⟩⟩, rfl⟩
  · simp only [exec_thermalShutdown, execThermalShutdown, hd, if_true]
  · simp only [exec_bridgeFlitFailure, execBridgeFlitFailure, hd, or_true, if_true]
  · simp only [exec_thermalShutdown, execThermalShutdown, hd, Bool.false_eq_true, if_false]
  · simp only [exec_bridgeFlitFailure, execBridgeFlitFailure, hv, true_or, if_true]
  · simp only [exec_bridgeFlitFailure, execBridgeFlitFailure, hd, Nat.not_le.2 hv, Bool.false_eq_true, or_self, if_false, if_pos hn]
  · simp only [exec_bridgeFlitFailure, execBridgeFlitFailure, hd, Nat.not_le.2 hv, Bool.false_eq_true, or_self, if_false,
      Nat.not_lt.2 hn]

/-- Settles O51, from the power states and clocks and from what stops the device. -/
theorem powerAndStops : Obligations.PowerAndStops := ⟨powerAndClocks, deviceStops⟩

end Sys2Proof.Machine
end

section
/-! SUPPORT. Lines of host memory, and the host's accesses to device memory. -/
namespace Sys2Proof.Machine

/-! ## Lines of host memory -/

theorem hostLine_setHostLine {s : State} (hs : AMap.rising s.mem.hostLines = true) (line l : Nat) (h : HostLine) :
    (s.setHostLine line h).hostLine l = if l = line then h else s.hostLine l := by
  unfold State.hostLine State.setHostLine
  dsimp only
  by_cases hb : h = HostLine.blank
  · rw [if_pos hb, AMap.find_erase _ hs]
    split
    · exact hb.symm
    · rfl
  · rw [if_neg hb, AMap.find_insert]
    split <;> rfl

theorem hostLine_congr {s t : State} (h : t.mem.hostLines = s.mem.hostLines) (l : Nat) : t.hostLine l = s.hostLine l := by
  rw [State.hostLine, h]; rfl

theorem hostPresent_congr {s t : State} (h : t.mem.hostLines = s.mem.hostLines) (h2 : t.mem.l2 = s.mem.l2) (l : Nat) :
    t.hostPresent l = s.hostPresent l := by
  rw [State.hostPresent, h, h2]; rfl

/-- Replacing a line of host memory changes the table of those lines alone. -/
theorem setHostLine_is (s : State) (line : Nat) (h : HostLine) :
    ∃ m, s.setHostLine line h = { s with mem := { s.mem with hostLines := m } } ∧
      (AMap.rising s.mem.hostLines = true → AMap.rising m = true) := by
  refine ⟨_, rfl, fun hs => ?_⟩
  split
  · exact AMap.rising_erase _ _ hs
  · exact AMap.rising_insert _ _ _ hs

/-! ## Snoops -/

section Snoop

variable {s : State} {line : Nat}

/-- The line as a snoop marks its fills: each outstanding one brings the line as it is now (R31). -/
def State.markedLine (s : State) (line : Nat) : HostLine :=
  { s.hostLine line with fills := (s.hostLine line).fills.map (fun f =>
      { f with old := some (f.old.getD (s.readHost (line * 64) 64)) }) }

/-- A snoop of a line with fills outstanding marks them (R31). -/
theorem snoop_fills (h : (s.hostLine line).fills ≠ []) (answer : String) (keep : Bool) :
    s.snoop line answer keep = (s.setHostLine line (s.markedLine line)).emit (.snoop "RspIHitI" line) := by
  simp [State.snoop, h, State.markedLine]

/-- A snoop of a line that is not present (R31). -/
theorem snoop_absent (h : (s.hostLine line).fills = []) (hp : s.hostPresent line = none) (answer : String) (keep : Bool) :
    s.snoop line answer keep = s.emit (.snoop "RspIHitI" line) := by
  simp [State.snoop, h, hp]

/-- A snoop of a line that is present (R31). -/
theorem snoop_present (h : (s.hostLine line).fills = []) (hp : s.hostPresent line ≠ none) (answer : String) (keep : Bool) :
    s.snoop line answer keep = (if keep then s else s.dropHost line).emit (.snoop answer line) := by
  have hp' : (s.hostPresent line).isSome = true := Option.isSome_iff_ne_none.2 hp
  simp [State.snoop, h, hp']

end Snoop

/-- A line that leaves the L2 is not present, and no other line changes (R31). -/
theorem dropHost_hostPresent {s : State} (h2 : AMap.rising s.mem.l2 = true) (line : Nat) :
    (s.dropHost line).hostPresent line = none := by
  have hgone : AMap.find (s.dropHost line).mem.l2 (l2Key 4 line) = none :=
    (AMap.find_erase s.mem.l2 h2 _ _).trans (if_pos rfl)
  simp [State.hostPresent, hgone]

theorem dropHost_hostLine {s : State} (hs : AMap.rising s.mem.hostLines = true) {line l : Nat} (hl : l ≠ line) :
    (s.dropHost line).hostLine l = s.hostLine l :=
  (hostLine_setHostLine hs line l _).trans (if_neg hl)

/-- What a snoop that lets the host write makes of the lines of host memory (R31, R32). -/
theorem snpInv_snoop {s : State} (hs : AMap.rising s.mem.hostLines = true) (h2 : AMap.rising s.mem.l2 = true) (line : Nat) :
    let t := s.snoop line "RspIHitSE" false
    t.teams = s.teams ∧ t.mem.bytes = s.mem.bytes ∧ t.mem.host = s.mem.host ∧ (∀ l, l ≠ line → t.hostLine l = s.hostLine l) ∧
      t.out = .snoop (if (s.hostLine line).fills = [] ∧ s.hostPresent line ≠ none then "RspIHitSE" else "RspIHitI") line :: s.out ∧
      ((s.hostLine line).fills = [] → t.hostPresent line = none) ∧
      ((s.hostLine line).fills ≠ [] → t.hostLine line = s.markedLine line) := by
  have shown : ∀ {x y : String}, x = y → OutMsg.snoop x line :: s.out = OutMsg.snoop y line :: s.out := fun h => by rw [h]
  by_cases hf : (s.hostLine line).fills = []
  · by_cases hp : s.hostPresent line = none
    · rw [snoop_absent hf hp]
      exact ⟨rfl, rfl, rfl, fun _ _ => rfl, shown (if_neg (fun h => h.2 hp)).symm, fun _ => hp, fun h => absurd hf h⟩
    · rw [snoop_present hf hp]
      exact ⟨rfl, rfl, rfl, fun l hl => dropHost_hostLine hs hl, shown (if_pos ⟨hf, hp⟩).symm, fun _ => dropHost_hostPresent h2 line,
        fun h => absurd hf h⟩
  · rw [snoop_fills hf]
    exact ⟨rfl, rfl, rfl, fun l hl => (hostLine_setHostLine hs line l _).trans (if_neg hl), shown (if_neg (fun h => hf h.1)).symm,
      fun h => absurd h hf,
      fun _ => (hostLine_setHostLine hs line line _).trans (if_pos rfl)⟩

/-- R31, R32: the three snoops. -/
theorem snoops : Says.Snoops := by
  intro s line hs h2 hh
  refine ⟨fun hf hp => ⟨?_, ?_⟩, fun hf hp => ⟨?_, ?_⟩, fun hf i hi => ?_, ?_⟩
  · exact congrArg _ (snoop_absent hf hp _ _)
  · exact congrArg _ (snoop_absent hf hp _ _)
  · exact congrArg _ (snoop_present hf hp _ _)
  · exact congrArg _ (snoop_present hf hp _ _)
  · have hmark : ∀ answer, exec i s = .next (s.snoop line answer true) → ∃ t, exec i s = .next t ∧ memoryKept s t ∧ t.teams = s.teams ∧
        t.out = .snoop "RspIHitI" line :: s.out ∧ t.hostLine line = s.markedLine line ∧ ∀ l, l ≠ line → t.hostLine l = s.hostLine l := by
      intro answer he
      rw [snoop_fills hf] at he
      exact ⟨_, he, ⟨rfl, rfl⟩, rfl, rfl, (hostLine_setHostLine hs line line _).trans (if_pos rfl),
        fun l hl => (hostLine_setHostLine hs line l _).trans (if_neg hl)⟩
    simp only [List.mem_cons, List.not_mem_nil, or_false] at hi
    rcases hi with rfl | rfl
    · exact hmark _ rfl
    · exact hmark _ rfl
  · obtain ⟨hteams, hbytes, hhost, hlines, hout, habsent, hmarked⟩ := snpInv_snoop hs h2 line
    refine ⟨_, rfl, hteams, hbytes, fun a ha => ?_, hlines, hout, habsent, hmarked⟩
    rw [← hhost]
    refine Tab.get_setList_outside 0 _ _ _ _ (hhost ▸ hh) ?_
    simp only [List.length_map, List.length_range]
    omega

end Sys2Proof.Machine
end

section
/-! SUPPORT. Fills of lines of host memory that return: the loads that wait for them, and what the L2 takes. -/
namespace Sys2Proof.Machine

/-! ## Loads that land -/

theorem modPath_path (s : State) (key pi : Nat) (f : Path → Path) : (s.modPath key pi f).path key pi = (s.path key pi).map f := by
  simp only [State.path, State.modPath, modTeam_team, if_pos]
  cases s.team key with
  | none => rfl
  | some t => simp [Team.modPath, AMap.find_modify]

/-- What completes for a path reaches it in the path table (R248). -/
theorem modTeam_landPath_path (s : State) (key pi : Nat) (f : Path → Path) :
    (s.modTeam key (fun t => t.landPath pi f)).path key pi = (s.path key pi).map f := by
  simp only [State.path, modTeam_team, if_pos]
  cases s.team key with
  | none => rfl
  | some t => simp [Team.landPath, Team.modPath, AMap.find_modify]

theorem modPath_teamId (s : State) (key pi : Nat) (f : Path → Path) :
    ((s.modPath key pi f).team key).map (·.teamId) = (s.team key).map (·.teamId) := by
  rw [State.modPath, modTeam_team, if_pos rfl, Option.map_map]; rfl

theorem modTeam_landPath_teamId (s : State) (key pi : Nat) (f : Path → Path) :
    ((s.modTeam key (fun t => t.landPath pi f)).team key).map (·.teamId) = (s.team key).map (·.teamId) := by
  rw [modTeam_team, if_pos rfl, Option.map_map]; rfl

theorem setS_pendScalar (p : Path) (sd : Reg6) (v : Word64) : (p.setS sd v).pendScalar = p.pendScalar := by
  unfold Path.setS; split <;> rfl

theorem setS_spc (p : Path) (sd : Reg6) (v : Word64) : (p.setS sd v).spc = p.spc := by
  unfold Path.setS; split <;> rfl

theorem extendBytes_unsigned (b : List Byte) : extendBytes b false = .ofNat 64 (ofBytes b) := by
  simp [extendBytes]

/-- A scalar destination by its number (R186). -/
theorem setS_number {q : Path} (hq : Tab.wf 0 q.sregs = true) {sd : Nat} (h1 : 1 ≤ sd) (h2 : sd < 64) (v : Word64) (x : Reg6) :
    (q.setS (BitVec.ofNat 6 sd) v).s x = if x.toNat = sd then v else q.s x := by
  have hsd : (BitVec.ofNat 6 sd).toNat = sd := by simp; omega
  have hx : x = BitVec.ofNat 6 sd ∧ x ≠ 0 ↔ x.toNat = sd := by
    rw [← BitVec.toNat_inj, hsd, and_iff_left_iff_imp]
    rintro h rfl
    simp at h
    omega
  rw [setS_s q hq]
  simp only [hx]

/-- A path after a load of it into a scalar register has landed (R193, R294). -/
def Path.landed (q : Path) (sd : Nat) (v : Word64) (id : Nat) : Path :=
  { q.setS (BitVec.ofNat 6 sd) v with pendScalar := q.pendScalar.filter (fun x => x.req != id) }

theorem landed_spc (q : Path) (sd : Nat) (v : Word64) (id : Nat) : (q.landed sd v id).spc = q.spc := setS_spc _ _ _

theorem landed_s {q : Path} (hq : Tab.wf 0 q.sregs = true) {sd : Nat} (h1 : 1 ≤ sd) (h2 : sd < 64) (v : Word64) (id : Nat) (x : Reg6) :
    (q.landed sd v id).s x = if x.toNat = sd then v else q.s x := setS_number hq h1 h2 v x

/-- The end of an access that no clause counts: its path no longer has it pending (R294). -/
theorem finishAccess_scalar {s : State} {p : PendAccess} (hid : (s.team p.tkey).map (·.teamId) = some p.teamId) (hc : p.clause = none) :
    (s.finishAccess p).path p.tkey p.path =
        (s.path p.tkey p.path).map (fun q => { q with pendScalar := q.pendScalar.filter (fun x => x.req != p.id) }) ∧
      (s.finishAccess p).mem = s.mem := by
  unfold State.finishAccess
  rw [if_neg (not_not.2 hid), hc]
  exact ⟨modTeam_landPath_path _ _ _ _, rfl⟩

/-- A load into a scalar register lands (R193, R294): memory stays, and the path, but for its pts, is as `Path.landed` says. -/
theorem landAccess_scalar {s : State} {p : PendAccess} {q : Path} {sd n : Nat} (hd : p.dest = .scalar sd n false) (hc : p.clause = none)
    (hid : (s.team p.tkey).map (·.teamId) = some p.teamId) (hq : s.path p.tkey p.path = some q) (b : List Byte) :
    (s.landAccess p b).mem = s.mem ∧ ∃ pts, (s.landAccess p b).path p.tkey p.path =
      some ({ q with pts := pts }.landed sd (.ofNat 64 (ofBytes (b.take n))) p.id) := by
  have hstrong : ∃ s0 pts, (if p.strong then s.acquireT p.tkey p.path s.mem.outT else s) = s0 ∧ s0.mem = s.mem ∧
      (s0.team p.tkey).map (·.teamId) = some p.teamId ∧ s0.path p.tkey p.path = some { q with pts := pts } := by
    refine ⟨_, if p.strong then max q.pts s.mem.outT else q.pts, rfl, ?_⟩
    split
    · exact ⟨rfl, (modPath_teamId _ _ _ _).trans hid, (modPath_path _ _ _ _).trans (by rw [hq]; rfl)⟩
    · exact ⟨rfl, hid, hq⟩
  obtain ⟨s0, pts, hs0, hmem, hid0, hq0⟩ := hstrong
  unfold State.landAccess
  rw [if_neg (not_not.2 hid), hs0, hd]
  simp only [extendBytes_unsigned]
  generalize hs1 : State.modTeam s0 _ _ = s1
  have hid1 : (s1.team p.tkey).map (·.teamId) = some p.teamId := by
    rw [← hs1, modTeam_landPath_teamId, hid0]
  obtain ⟨hpath, hfmem⟩ := finishAccess_scalar hid1 hc
  refine ⟨by rw [hfmem, ← hmem, ← hs1]; rfl, pts, ?_⟩
  rw [hpath, ← hs1, modTeam_landPath_path, hq0, Option.map_some, Option.map_some, Path.landed, setS_pendScalar]

/-! ## Lines that the L2 takes -/

/-- Bits of a field of a register. -/
theorem bits_testBit (hi lo w i : Nat) : (bits hi lo w).testBit i = (decide (i < hi + 1 - lo) && w.testBit (lo + i)) := by
  rw [bits, Nat.testBit_mod_two_pow, Nat.testBit_div_two_pow, Nat.add_comm i lo]

/-- An empty L2 takes a line whose partition has the slice and a way of it that is open to the line's class (R112, R115). -/
theorem l2Alloc_empty {s : State} {a : L2Args} (h2 : s.mem.l2 = [])
    (hslice : keySlice s.dev a.key a.vline < 320)
    (hpart : (Tab.get 0 s.mem.l2part a.part).getLsbD (16 + keySlice s.dev a.key a.vline / 8) = true)
    (hway : ∃ j < 16, (Tab.get 0 s.mem.l2part a.part).getLsbD j = true ∧
      (s.saveWay a.part (keySlice s.dev a.key a.vline) j = false ∨ a.rc = 0 ∧ s.saving = false)) :
    (AMap.find (s.l2Alloc a).mem.l2 a.key).isSome = true := by
  obtain ⟨j, hj, hbit, hopen⟩ := hway
  have hin : (bits 55 16 (Tab.get 0 s.mem.l2part a.part).toNat).testBit (keySlice s.dev a.key a.vline / 8) = true := by
    rw [bits_testBit, BitVec.testBit_toNat, hpart, Bool.and_true, decide_eq_true_eq]
    omega
  unfold State.l2Alloc
  simp only [h2, AMap.find_nil, hin, not_true_eq_false, if_false, List.filter_nil, List.all_nil]
  split
  · simp
  · next hnone =>
    rw [List.find?_eq_none] at hnone
    refine absurd rfl (hnone j (List.mem_filter.2 ⟨List.mem_range.2 hj, ?_⟩))
    rw [bits_testBit, BitVec.testBit_toNat, Nat.zero_add, hbit, Bool.and_true]
    simp only [List.length_nil]
    rcases hopen with ho | ⟨hrc, hsave⟩
    · simp [ho]; omega
    · simp [hrc, hsave]; omega

/-- What the L2 is asked to take of a line of host memory that a fill brings (R31, R112). -/
def fillArgs (line : Nat) (f : HostFill) : L2Args :=
  { key := l2Key 4 line, part := f.part, rc := f.rc, asid := f.asid, vline := f.vline, stream := false, dirty := false, glob := f.glob }

/-- A fill that installs its line asks the L2 to take it, and gives it its bytes if the L2 has (R31, R112). -/
theorem installHost_eq (s : State) (line : Nat) (f : HostFill) (d : List Byte) : ∃ l n,
    let u : State := { s with mem := { s.mem with l2 := l }, fresh := n }
    s.installHost line f d = (if (AMap.find l (l2Key 4 line)).isSome then
      u.setHostLine line { s.hostLine line with data := some d } else u) ∧
    (f.rc ≠ 3 → u = s.l2Alloc (fillArgs line f)) := by
  unfold State.installHost
  dsimp only
  by_cases hrc : f.rc = 3
  · exact ⟨s.mem.l2, s.fresh, by rw [if_pos hrc], fun h => absurd hrc h⟩
  · obtain ⟨l, n, e⟩ := l2Alloc_is s (fillArgs line f)
    refine ⟨l, n, ?_, fun _ => e.symm⟩
    rw [fillArgs] at e
    rw [if_neg hrc, e]
    rfl

/-- A fill that installs its line changes the lines of host memory and of the L2 alone: no other line, and no fill (R31). -/
theorem installHost_frame {s : State} (hs : AMap.rising s.mem.hostLines = true) (line : Nat) (f : HostFill) (d : List Byte) :
    let t := s.installHost line f d
    t.mem.bytes = s.mem.bytes ∧ t.mem.host = s.mem.host ∧ t.teams = s.teams ∧ (t.hostLine line).fills = (s.hostLine line).fills ∧
      ∀ l, l ≠ line → t.hostLine l = s.hostLine l := by
  obtain ⟨m, n, heq, -⟩ := installHost_eq s line f d
  have hset := fun l h => hostLine_setHostLine (s := { s with mem := { s.mem with l2 := m }, fresh := n }) hs line l h
  dsimp only at heq ⊢
  rw [heq]
  split
  · refine ⟨rfl, rfl, rfl, ?_, fun l hl => ?_⟩
    · rw [hset, if_pos rfl]
    · rw [hset, if_neg hl]; rfl
  · exact ⟨rfl, rfl, rfl, rfl, fun _ _ => rfl⟩

/-- Where its partition and class let the L2 take a line, it is present with the bytes of the fill (R31, R112). -/
theorem installHost_hostPresent {s : State} {line : Nat} {f : HostFill} (d : List Byte)
    (hrc : f.rc ≠ 3) (h2 : s.mem.l2 = []) (hslice : keySlice s.dev (l2Key 4 line) f.vline < 320)
    (hpart : (Tab.get 0 s.mem.l2part f.part).getLsbD (16 + keySlice s.dev (l2Key 4 line) f.vline / 8) = true)
    (hway : ∃ j < 16, (Tab.get 0 s.mem.l2part f.part).getLsbD j = true ∧
      (s.saveWay f.part (keySlice s.dev (l2Key 4 line) f.vline) j = false ∨ f.rc = 0 ∧ s.saving = false)) :
    (s.installHost line f d).hostPresent line = some d := by
  obtain ⟨m, n, heq, halloc⟩ := installHost_eq s line f d
  dsimp only at heq halloc
  have hin : (AMap.find m (l2Key 4 line)).isSome = true := by
    have := l2Alloc_empty (a := fillArgs line f) h2 hslice hpart hway
    rwa [← halloc hrc] at this
  rw [heq, if_pos hin]
  have hblank : ({ s.hostLine line with data := some d } : HostLine) ≠ HostLine.blank := by
    intro h
    exact Option.some_ne_none d (congrArg HostLine.data h)
  simp [State.hostPresent, State.setHostLine, hin, hblank]

/-! ## The return of a fill -/

/-- What a fill brings: the line as it is, or as it was before the snoop that marked it (R31, R32). -/
def State.fillBytes (s : State) (line : Nat) (f : HostFill) : List Byte := f.old.getD (s.readHost (line * 64) 64)

/-- What the return of the oldest fill of a line makes of the lines, before the loads that wait for it land (R32). -/
def State.fillTaken (s : State) (line : Nat) (f : HostFill) (fs : List HostFill) : State :=
  let s1 := s.setHostLine line { s.hostLine line with fills := fs }
  if f.old.isSome then s1 else s1.installHost line f (s.fillBytes line f)

theorem hostFillReturn_none {s : State} {line : Nat} (hf : (s.hostLine line).fills = []) :
    exec (.hostFillReturn line) s = .next s := by
  simp only [exec_hostFillReturn, execHostFillReturn, hf]

/-- The return of a fill that one load waits for (R32). -/
theorem hostFillReturn_one {s : State} {line : Nat} {f : HostFill} {fs : List HostFill} {p : PendAccess}
    (hf : (s.hostLine line).fills = f :: fs) (hp : f.waiters = [p]) :
    exec (.hostFillReturn line) s =
      .next ((s.fillTaken line f fs).landAccess p (((s.fillBytes line f).drop (p.addr % 64)).take p.size)) := by
  simp only [exec_hostFillReturn, execHostFillReturn, hf, hp, List.foldl_cons, List.foldl_nil, State.fillTaken, State.fillBytes]

section Fill

variable {s : State} {line : Nat} {f : HostFill}

/-- A fill that returns is no longer outstanding, and changes no byte, no team and no other line (R31, R32). -/
theorem fillTaken_frame (hs : AMap.rising s.mem.hostLines = true) (fs : List HostFill) :
    let t := s.fillTaken line f fs
    t.mem.bytes = s.mem.bytes ∧ t.mem.host = s.mem.host ∧ t.teams = s.teams ∧ (t.hostLine line).fills = fs ∧
      ∀ l, l ≠ line → t.hostLine l = s.hostLine l := by
  have hset := fun l => hostLine_setHostLine hs line l { s.hostLine line with fills := fs }
  unfold State.fillTaken
  dsimp only
  split
  · exact ⟨rfl, rfl, rfl, by rw [hset, if_pos rfl], fun l hl => by rw [hset, if_neg hl]⟩
  · obtain ⟨m, hm, hrise⟩ := setHostLine_is s line { s.hostLine line with fills := fs }
    have hs1 : AMap.rising (s.setHostLine line { s.hostLine line with fills := fs }).mem.hostLines = true := by
      rw [hm]; exact hrise hs
    obtain ⟨hbytes, hhost, hteams, hfills, hlines⟩ := installHost_frame hs1 line f (s.fillBytes line f)
    exact ⟨hbytes, hhost, hteams, by rw [hfills, hset, if_pos rfl], fun l hl => by rw [hlines l hl, hset, if_neg hl]⟩

/-- A marked fill leaves the line without it and the L2 as it is (R31, R32). -/
theorem fillTaken_marked (hs : AMap.rising s.mem.hostLines = true) (hold : f.old ≠ none) (fs : List HostFill) :
    (s.fillTaken line f fs).hostLine line = { s.hostLine line with fills := fs } ∧
      (s.fillTaken line f fs).mem.l2 = s.mem.l2 := by
  unfold State.fillTaken
  rw [if_pos (Option.isSome_iff_ne_none.2 hold)]
  exact ⟨(hostLine_setHostLine hs line line _).trans (if_pos rfl), rfl⟩

/-- A fill that is not marked installs the line where the L2 takes it (R31, R112). -/
theorem fillTaken_installed (hold : f.old = none) (hrc : f.rc ≠ 3) (h2 : s.mem.l2 = [])
    (hslice : keySlice s.dev (l2Key 4 line) f.vline < 320)
    (hpart : (Tab.get 0 s.mem.l2part f.part).getLsbD (16 + keySlice s.dev (l2Key 4 line) f.vline / 8) = true)
    (hway : ∃ j < 16, (Tab.get 0 s.mem.l2part f.part).getLsbD j = true ∧
      (s.saveWay f.part (keySlice s.dev (l2Key 4 line) f.vline) j = false ∨ f.rc = 0 ∧ s.saving = false)) (fs : List HostFill) :
    (s.fillTaken line f fs).hostPresent line = some (s.readHost (line * 64) 64) := by
  unfold State.fillTaken State.fillBytes
  rw [hold]
  exact installHost_hostPresent (s := s.setHostLine line { s.hostLine line with fills := fs }) _ hrc h2 hslice hpart hway

end Fill

/-- R32: the return of a fill. -/
theorem hostFills : Says.HostFills := by
  intro s line
  refine ⟨hostFillReturn_none, fun f fs p tm q sd n hf hp hd hc hsize _ _ _ h1 h2 htm hid hq hwf _ hs _ => ?_⟩
  have hnow : (List.range 64).map (fun i => Tab.get (0 : Byte) s.mem.host (line * 64 + i)) = s.readHost (line * 64) 64 :=
    (Tab.getList_eq 0 _ _ _).symm
  rw [hnow]
  subst hsize
  obtain ⟨hbytes, hhost, hteams, hfills, hlines⟩ := fillTaken_frame (line := line) (f := f) hs fs
  have hid0 : ((s.fillTaken line f fs).team p.tkey).map (·.teamId) = some p.teamId := by
    rw [State.team, hteams, ← State.team, htm, Option.map_some, hid]
  have hq0 : (s.fillTaken line f fs).path p.tkey p.path = some q := by
    rw [State.path, State.team, hteams, ← State.team, htm, Option.bind_some, hq]
  obtain ⟨hmem, pts, hpath⟩ := landAccess_scalar hd hc hid0 hq0 (((s.fillBytes line f).drop (p.addr % 64)).take p.size)
  rw [List.take_take, Nat.min_self] at hpath
  have hline : ∀ l, ((s.fillTaken line f fs).landAccess p (((s.fillBytes line f).drop (p.addr % 64)).take p.size)).hostLine l =
      (s.fillTaken line f fs).hostLine l := fun l => hostLine_congr (by rw [hmem]) l
  have hpresent : ((s.fillTaken line f fs).landAccess p (((s.fillBytes line f).drop (p.addr % 64)).take p.size)).hostPresent line =
      (s.fillTaken line f fs).hostPresent line := hostPresent_congr (by rw [hmem]) (by rw [hmem]) line
  refine ⟨_, _, hostFillReturn_one hf hp, ⟨by rw [hmem, hbytes], by rw [hmem, hhost]⟩, hpath, landed_spc _ _ _ _,
    landed_s (q := { q with pts := pts }) hwf h1 h2 _ _, rfl, by rw [hline, hfills], fun hold => ?_,
    fun hold hrc hl2 hpart hslice hway => ?_, fun l hl => by rw [hline, hlines l hl]⟩
  · rw [hline, hmem]
    exact fillTaken_marked hs hold fs
  · rw [hpresent]
    exact fillTaken_installed hold hrc hl2 hslice hpart hway fs

end Sys2Proof.Machine
end

section
/-! SUPPORT. The host's accesses to device memory (R20, R24, R30). -/
namespace Sys2Proof.Machine

theorem hostSize_eq (a : HostAccess) : hostSize a = (match a.data with | some bs => bs.length | none => a.len) := by
  unfold hostSize
  cases a.data <;> rfl

/-! ## What performs -/

/-- With no lease granted and no write held, no write waits at its home slice (R46). -/
theorem lineHeld_none {s : State} (ht : s.fab.tmax = []) (hh : s.fab.held = []) (pa : Nat) : s.lineHeld pa = false := by
  simp [State.lineHeld, State.leaseBlocked, ht, hh, Tab.get]

/-- A write of the host within a line changes memory and the release time of launch stores, and the bytes that it writes (R110). -/
theorem hostLineWrite_is (s : State) (pa : Nat) (bs : List Byte) :
    ∃ m c d, s.hostLineWrite pa bs = { s with mem := m, cores := c, dev := d } ∧ m.bytes = Tab.setList 0 pa bs s.mem.bytes ∧
      m.host = s.mem.host := by
  obtain ⟨m, c, hw⟩ := writeLine_is s [] 0 pa bs
  have hm : m = _ := (congrArg State.mem hw).symm.trans (writeLine_mem s [] 0 pa bs)
  unfold State.hostLineWrite State.noteOut
  dsimp only
  rw [hw]
  exact ⟨_, _, _, rfl, by rw [hm]; rfl, by rw [hm]; rfl⟩

/-- Writes of the host, line by line, where nothing holds them (R20, R46). -/
theorem foldl_hostPut_is {s : State} (ht : s.fab.tmax = []) (hh : s.fab.held = []) (ps : List (Nat × List Byte)) :
    ∃ m c d, ps.foldl State.hostPut s = { s with mem := m, cores := c, dev := d } ∧
      m.bytes = ps.foldl (fun m p => Tab.setList 0 p.1 p.2 m) s.mem.bytes ∧ m.host = s.mem.host := by
  induction ps generalizing s with
  | nil => exact ⟨s.mem, s.cores, s.dev, rfl, rfl, rfl⟩
  | cons p ps ih =>
    obtain ⟨m, c, d, hw, hbytes, hhost⟩ := hostLineWrite_is s p.1 p.2
    have hput : s.hostPut p = { s with mem := m, cores := c, dev := d } := by
      rw [← hw, State.hostPut, lineHeld_none ht hh, if_neg Bool.false_ne_true]
    obtain ⟨m', c', d', hw', hbytes', hhost'⟩ := ih (s := { s with mem := m, cores := c, dev := d }) ht hh
    refine ⟨m', c', d', ?_, ?_, hhost'.trans hhost⟩
    · rw [List.foldl_cons, hput, hw']
    · rw [List.foldl_cons, hbytes', ← hbytes]

theorem touchRange_is (s : State) (pa n : Nat) :
    ∃ f, s.touchRange pa n = { s with mem := { s.mem with frames := f } } := by
  have hfold : ∀ (is : List Nat) (m : Memory), ∃ f,
      is.foldl (fun (m : Memory) i => m.touch ((pa / 0x10000 + i) * 0x10000)) m = { m with frames := f } := by
    intro is m
    refine foldl_keeps (fun m' : Memory => ∃ f, m' = { m with frames := f }) _ is m ⟨m.frames, rfl⟩ ?_
    rintro _ i ⟨f, rfl⟩
    exact ⟨_, rfl⟩
  obtain ⟨f, hf⟩ := hfold (List.range ((pa + n - 1) / 0x10000 + 1 - pa / 0x10000)) s.mem
  exact ⟨f, by rw [State.touchRange, hf]⟩

theorem noteCached_is (s : State) (a : HostAccess) (pa n : Nat) :
    ∃ h, s.noteCached a pa n = { s with mem := { s.mem with hostHeld := h } } := by
  unfold State.noteCached
  split
  · exact ⟨_, rfl⟩
  · exact ⟨s.mem.hostHeld, rfl⟩

/-- Without a journal nothing is recorded (R258). -/
theorem journal_off {s : State} (hj : s.dbg.jctl = 0) (kind : Nat) (payload : List Byte) : s.journal kind payload = s := by
  simp [State.journal, hj, bits]

/-- A read of the host performs: it gives the committed bytes (R20, R24). -/
theorem performHost_read {s : State} (hb : s.mem.badLines = []) {a : HostAccess} (hd : a.data = none) :
    memoryKept s (s.performHost a) ∧ (s.performHost a).teams = s.teams ∧
      (s.performHost a).out =
        .readData ((List.range (hostSize a)).map (fun i => byteAt s (hostPa s.dev a + i))) :: s.out := by
  have hget : s.hostGet (hostPa s.dev a) (hostSize a) = (List.range (hostSize a)).map (fun i => byteAt s (hostPa s.dev a + i)) := by
    simp [State.hostGet, hb, State.readPa_eq]
  obtain ⟨f, hf⟩ := touchRange_is s.tick (hostPa s.dev a) (hostSize a)
  have hperf : s.performHost a = { s.tick with mem := { s.tick.mem with frames := f } }.emit (.readData
      ((List.range (hostSize a)).map (fun i => byteAt s (hostPa s.dev a + i)))) := by
    simp only [State.performHost, hd, hf, hget]
  rw [hperf]
  exact ⟨⟨rfl, rfl⟩, rfl, rfl⟩

/-- A write of the host performs: its bytes are committed, and no other byte changes (R20, R24). -/
theorem performHost_write {s : State} (hw : s.mem.wf = true) (ht : s.fab.tmax = []) (hh : s.fab.held = []) (hj : s.dbg.jctl = 0)
    {a : HostAccess} {bs : List Byte} (hd : a.data = some bs) :
    bytesStored s (s.performHost a) (hostPa s.dev a) bs ∧ (s.performHost a).mem.host = s.mem.host ∧
      (s.performHost a).teams = s.teams ∧ (s.performHost a).out = s.out := by
  obtain ⟨m, c, d, hput, hbytes, hhost⟩ := foldl_hostPut_is ht hh (pieces (bs.length + 1) (hostPa s.dev a) bs)
  obtain ⟨g, hg⟩ := noteCached_is { s with mem := m, cores := c, dev := d } a (hostPa s.dev a) bs.length
  have hperf : s.performHost a = { s with mem := { m with hostHeld := g }, cores := c, dev := d } := by
    simp only [State.performHost, hd, hput, hg]
    exact journal_off (s := { s with mem := { m with hostHeld := g }, cores := c, dev := d }) hj _ _
  rw [foldl_pieces_setList (Nat.lt_succ_self _)] at hbytes
  rw [hperf]
  refine ⟨fun x => ?_, hhost, rfl, rfl⟩
  simp only [byteAt, hbytes]
  exact Tab.get_setList 0 bs _ x _ ((Memory.wf_iff _).1 hw).1

/-! ## What waits, and what is refused -/

/-- No flip has a frame locked (R30). -/
theorem flipLocked_none {s : State} (h : ∀ l ∈ s.eng.locks, l.owner ≠ .flip) (lo hi : Nat) : s.flipLocked lo hi = false := by
  rw [State.flipLocked, List.any_eq_false]
  intro l hl
  simp [h l hl]

theorem flipLocked_iff (s : State) (lo hi : Nat) : s.flipLocked lo hi = true ↔
    ∃ l ∈ s.eng.locks, l.owner = .flip ∧ l.granted = true ∧ ∃ r ∈ l.ranges, r.lo < hi ∧ lo < r.hi := by
  simp only [State.flipLocked, List.any_eq_true, Bool.and_eq_true, beq_iff_eq, decide_eq_true_eq]
  constructor
  · rintro ⟨l, hl, ⟨hg, ho⟩, hr⟩
    exact ⟨l, hl, ho, hg, hr⟩
  · rintro ⟨l, hl, ho, hg, hr⟩
    exact ⟨l, hl, ⟨hg, ho⟩, hr⟩

/-- With no flip, no journal and nothing that waits in front of it, an access does not wait (R30, R258). -/
theorem hostWaits_none {s : State} (h : ∀ l ∈ s.eng.locks, l.owner ≠ .flip) (hj : s.dbg.jctl = 0) (a : HostAccess) :
    s.hostWaits [] a = false := by
  have hfull : ∀ n, s.journalFull n = false := fun n => by simp [State.journalFull, hj, bits]
  unfold State.hostWaits
  dsimp only
  rw [flipLocked_none h]
  cases a.data <;> simp [hfull]

/-- An access waits for a flip that has its frame, or behind one to the same bytes (R30). -/
theorem hostWaits_held {s : State} {ahead : List HostAccess} {a : HostAccess}
    (h : s.flipLocked (hostPa s.dev a) (hostPa s.dev a + hostSize a) = true ∨
      ∃ b ∈ ahead, hostPa s.dev b < hostPa s.dev a + hostSize a ∧ hostPa s.dev a < hostPa s.dev b + hostSize b) :
    s.hostWaits ahead a = true := by
  unfold State.hostWaits
  dsimp only
  rcases h with h | ⟨b, hb, hlt⟩
  · rw [h, Bool.true_or, Bool.true_or]
  · rw [List.any_eq_true.2 ⟨b, hb, by simpa using hlt⟩, Bool.or_true]

theorem hostUnsupported_iff (d : Dev) (a : HostAccess) : hostUnsupported d a = true ↔
    d.limit < hostPa d a + hostSize a ∨ d.svc = 0 ∨ d.dark = true ∨ a.viaWindow = true ∧ 2 ^ d.winLog2 < a.addr + hostSize a ∨
      a.viaWindow = false ∧ d.cxl = false := by
  simp only [hostUnsupported, Bool.or_eq_true, Bool.and_eq_true, Bool.not_eq_true', beq_iff_eq, decide_eq_true_eq]
  tauto

/-- An access to a device whose link is up is refused, or is admitted (R11, R20, R24). -/
theorem hostMemoryAccess_eq {s : State} (hb : s.dev.bstep ≠ 0) {a : HostAccess} (hn : 1 ≤ hostSize a) :
    exec (.hostMemoryAccess a) s =
      .next (if hostUnsupported s.dev a then s.emit .unsupportedRequest else s.admitHost a) := by
  have hno : ¬ (hostSize a = 0 ∨ s.dev.bstep = 0) := by omega
  rw [exec_hostMemoryAccess, execHostMemoryAccess, if_neg hno]

/-- R11, R14, R20, R24, R30: the host's accesses to device memory, and WINBASE. -/
theorem hostAccesses : Says.HostAccesses := by
  intro s hw hbad ht hh hj
  refine ⟨fun hb a v => ⟨?_, ?_⟩, fun hb a n pa hn h1 hpa => ?_, fun hd v => ?_⟩
  · rw [exec_hostMemoryAccess, execHostMemoryAccess, if_pos (.inr hb)]
  · simp [execWinbaseWrite, onLink, Dev.deaf, hb]
  · obtain rfl : n = hostSize a := hn.trans (hostSize_eq a).symm
    obtain rfl : pa = hostPa s.dev a := hpa
    have hexec := hostMemoryAccess_eq hb h1
    refine ⟨fun hsvc hdark hlim hwin hcxl => ?_, fun hun => ?_⟩
    · have hok : hostUnsupported s.dev a = false := by
        rw [Bool.eq_false_iff, Ne, hostUnsupported_iff]
        rintro (h | h | h | ⟨hv, h⟩ | ⟨hv, h⟩)
        · omega
        · exact hsvc h
        · simp [hdark] at h
        · have := hwin hv; omega
        · simp [hcxl hv] at h
      rw [hok, if_neg Bool.false_ne_true] at hexec
      refine ⟨fun hflip hheld => ?_, fun hwait => ?_⟩
      · have hperf : s.admitHost a = s.performHost a := by
          rw [State.admitHost, hheld, hostWaits_none hflip hj, if_neg Bool.false_ne_true]
        rw [hperf] at hexec
        exact ⟨fun hd => ⟨_, hexec, performHost_read hbad hd⟩, fun bs hd => ⟨_, hexec, performHost_write hw ht hh hj hd⟩⟩
      · have hwaits : s.hostWaits s.dev.heldHost a = true := by
          refine hostWaits_held (hwait.imp (flipLocked_iff _ _ _).2 ?_)
          rintro ⟨b, hb, hlo, hhi⟩
          exact ⟨b, hb, hlo, hhi.trans_eq (congrArg _ (hostSize_eq b).symm)⟩
        rw [hexec, State.admitHost, if_pos hwaits]
    · rw [hexec, if_pos ((hostUnsupported_iff s.dev a).2 hun)]; rfl
  · rw [exec_winbaseWrite, execWinbaseWrite, onLink, if_neg (by simp [hd])]

/-- Settles O44, from the host's accesses, the snoops and the fills. -/
theorem hostTraffic : Obligations.HostTraffic := ⟨hostAccesses, snoops, hostFills⟩

end Sys2Proof.Machine
end

section
/-! SUPPORT. Numbers and their bytes, and the writes of a peer at the home slice. -/
namespace Sys2Proof.Machine

/-! ## Numbers and their bytes -/

theorem length_toBytes (n w : Nat) : (toBytes n w).length = n := by
  induction n generalizing w with
  | zero => rfl
  | succ n ih => rw [toBytes, List.length_cons, ih]

/-- The bytes of a number hold as much of it as they have room for (R261). -/
theorem ofBytes_toBytes (n w : Nat) : ofBytes (toBytes n w) = w % 256 ^ n := by
  induction n generalizing w with
  | zero => rw [toBytes, ofBytes, pow_zero, Nat.mod_one]
  | succ n ih => rw [Nat.pow_succ', Nat.mod_mul, toBytes, ofBytes, ih, BitVec.toNat_ofNat]

theorem toBytes_mod (n w : Nat) : toBytes n (w % 256 ^ n) = toBytes n w := by
  induction n generalizing w with
  | zero => rfl
  | succ n ih =>
    have hlow : BitVec.ofNat 8 (w % (256 * 256 ^ n)) = BitVec.ofNat 8 w := by
      apply BitVec.eq_of_toNat_eq
      rw [BitVec.toNat_ofNat, BitVec.toNat_ofNat]
      exact Nat.mod_mul_right_mod w 256 _
    rw [Nat.pow_succ', toBytes, toBytes, hlow, Nat.mod_mul_right_div_self, ih]

/-! ## Writes at the home slice -/

theorem writeHome_host (s : State) (cs : List Nat) (pts pa : Nat) (bs : List Byte) :
    (s.writeHome cs pts pa bs).1.mem.host = s.mem.host := by
  rw [State.writeHome, writeLine_mem]
  exact (obtain_tables s pa).2.1

/-- A write of any length stores its bytes, whichever pieces it is cut into, and leaves host memory (R110). -/
theorem writeLines_bytes (s : State) (cs : List Nat) (pts pa : Nat) (bs : List Byte) :
    (s.writeLines cs pts pa bs).1.mem.bytes = Tab.setList 0 pa bs s.mem.bytes ∧
      (s.writeLines cs pts pa bs).1.mem.host = s.mem.host := by
  have hfold : ∀ (ps : List (Nat × List Byte)) (r : State × Nat),
      let t := (ps.foldl (fun (r : State × Nat) p => ((r.1.writeHome cs pts p.1 p.2).1,
        max r.2 (r.1.writeHome cs pts p.1 p.2).2)) r).1
      t.mem.bytes = ps.foldl (fun m p => Tab.setList 0 p.1 p.2 m) r.1.mem.bytes ∧ t.mem.host = r.1.mem.host := by
    intro ps
    induction ps with
    | nil => exact fun r => ⟨rfl, rfl⟩
    | cons p ps ih =>
      intro r
      obtain ⟨hbytes, hhost⟩ := ih ((r.1.writeHome cs pts p.1 p.2).1, max r.2 (r.1.writeHome cs pts p.1 p.2).2)
      rw [writeHome_bytes] at hbytes
      rw [writeHome_host] at hhost
      exact ⟨hbytes, hhost⟩
  obtain ⟨hbytes, hhost⟩ := hfold (pieces (bs.length + 1) pa bs) (s, 0)
  exact ⟨hbytes.trans (foldl_pieces_setList (Nat.lt_succ_self _) pa _), hhost⟩

/-- A write of a peer changes memory, the L1 copies and what is shown to the outside, and nothing else (R110). -/
theorem writeOutside_is (s : State) (pa : Nat) (bs : List Byte) :
    ∃ m c o, s.writeOutside pa bs = { s with mem := m, cores := c, out := o } := by
  obtain ⟨m, c, o, hw⟩ := writeLines_is s [] 0 pa bs
  unfold State.writeOutside State.noteOut
  dsimp only
  rw [hw]
  exact ⟨_, _, _, rfl⟩

/-- A write of a peer stores its bytes and leaves host memory (R46, R110). -/
theorem writeOutside_stores {s : State} (h : s.mem.wf = true) (pa : Nat) (bs : List Byte) :
    bytesStored s (s.writeOutside pa bs) pa bs ∧ (s.writeOutside pa bs).mem.host = s.mem.host := by
  obtain ⟨hbytes, hhost⟩ := writeLines_bytes s [] 0 pa bs
  refine ⟨fun x => ?_, hhost⟩
  have hb : (s.writeOutside pa bs).mem.bytes = Tab.setList 0 pa bs s.mem.bytes := hbytes
  rw [byteAt, hb]
  exact Tab.get_setList 0 bs pa x _ ((Memory.wf_iff _).1 h).1

end Sys2Proof.Machine
end

section
/-! SUPPORT. The registers of the fabric, and its clock (R37 to R42). -/
namespace Sys2Proof.Machine

theorem onLink_heard {s : State} (h : s.dev.deaf = false) (o : Outcome) : onLink s o = o := by
  rw [onLink, if_neg (by simp [h])]

/-! ## LOCK and lease hold -/

/-- A judgement of the clock changes LOCK, HOLD and the run of good exchanges alone (R41, R42). -/
theorem judge_frame (f : Fabric) : f.judge.eps = f.eps ∧ f.judge.ftunc = f.ftunc ∧ f.judge.fnode = f.fnode ∧
    f.judge.leased = f.leased ∧ f.judge.tmax = f.tmax ∧ f.judge.ftime = f.ftime := by
  unfold Fabric.judge
  split
  · exact ⟨rfl, rfl, rfl, rfl, rfl, rfl⟩
  · split
    · exact ⟨rfl, rfl, rfl, rfl, rfl, rfl⟩
    · split <;> exact ⟨rfl, rfl, rfl, rfl, rfl, rfl⟩

/-- An error bound of at most U locks the clock (R41). -/
theorem judge_locks {f : Fabric} {e : Nat} (he : f.eps = some e) (hr : f.running = true) (hle : e ≤ 2 * f.ftunc) :
    f.judge.lock = true ∧ f.judge.hold = f.hold ∧ f.judge.goodSyncs = f.goodSyncs := by
  have hj : f.judge = { f with lock := true } := by
    simp only [Fabric.judge, he, hr, Bool.not_true, Bool.false_eq_true, if_false, Nat.not_lt.2 hle]
  rw [hj]
  exact ⟨rfl, rfl, rfl⟩

/-- Fabric time that does not run, or an error bound past U, puts the device in lease hold (R42). -/
theorem judge_holds {f : Fabric} {e : Nat} (he : f.eps = some e) (h : f.running = false ∨ 2 * f.ftunc < e) :
    f.judge.lock = false ∧ f.judge.hold = true ∧ f.judge.goodSyncs = 0 := by
  have hj : f.judge = { f with lock := false, hold := true, goodSyncs := 0 } := by
    simp only [Fabric.judge, he]
    by_cases hr : f.running = true
    · rw [if_neg (by simp [hr]), if_pos (h.resolve_left (by simp [hr]))]
    · rw [if_pos (by simpa using hr)]
  rw [hj]
  exact ⟨rfl, rfl, rfl⟩

/-- The clock with the error bound of an exchange and its run of good ones, before it is judged (R41, R42). -/
def Fabric.synced (f : Fabric) (e : Nat) : Fabric :=
  let good := if e ≤ f.ftunc then f.goodSyncs + 1 else 0
  { f with eps := some e, goodSyncs := good, hold := if 16 ≤ good then false else f.hold }

theorem sync_eq (f : Fabric) (e : Nat) : f.sync e = (f.synced e).judge := rfl

/-! ## Registers -/

theorem ftuncWrite_heard {s : State} (h : s.dev.deaf = false) (v : BitVec 32) :
    exec (.ftuncWrite v) s = .next (if 50 ≤ v.toNat % 2 ^ 16 ∧ v.toNat % 2 ^ 16 ≤ 10000 then
      { s with fab := ({ s.fab with ftunc := v.toNat % 2 ^ 16 } : Fabric).judge } else s) := by
  have hu : bits 15 0 v.toNat = v.toNat % 2 ^ 16 := by simp [bits]
  rw [exec_ftuncWrite, execFtuncWrite, onLink_heard h, hu]

/-- A device takes part in the fabric in full service, under a node number, outside D3hot and D3cold (R39). -/
theorem onFabric_iff (s : State) : s.onFabric = true ↔ s.fab.fnode ≠ 0xFFF ∧ s.dev.svc = 2 ∧ s.dev.dark = false := by
  simp only [State.onFabric, Bool.and_eq_true, bne_iff_ne, beq_iff_eq, Bool.not_eq_true', and_assoc]

/-- A port that goes down is the only one to change (R37). -/
theorem ports_without (p : BitVec 24) (n k : Nat) : (p &&& ~~~(BitVec.twoPow 24 n)).getLsbD k = (p.getLsbD k && k != n) := by
  by_cases hk : k < 24
  · simp [hk, bne, beq_eq_decide]
  · simp [BitVec.getLsbD_of_ge p k (Nat.not_lt.1 hk)]

/-- A device on the fabric takes the error bound of an exchange (R41, R42). -/
theorem syncExchange_onFabric {s : State} (h : s.onFabric = true) (off var : Nat) :
    exec (.syncExchange off var) s = .next { s with fab := (s.fab.synced (2 * off + var)).judge } := by
  rw [exec_syncExchange, execSyncExchange, if_pos h, sync_eq]

/-- R37, R39, R41, R42: the registers of the fabric, its exchanges and its ports. -/
theorem fabricRegisters : Says.FabricTime := by
  intro s
  refine ⟨fun v hd => ?_, fun v hd => ⟨fun hu => ?_, fun h1 h2 => ?_⟩, fun off var hoff => ?_, fun off var hnode hsvc hdark => ?_,
    fun n _ => ⟨_, rfl, rfl, rfl, ports_without _ n, fun hp => if_neg hp⟩⟩
  · rw [exec_fnodeWrite, execFnodeWrite, onLink_heard hd]
    simp [BitVec.extractLsb']
  · rw [ftuncWrite_heard hd, if_neg hu]
  · have hexec := ftuncWrite_heard hd v
    rw [if_pos ⟨h1, h2⟩] at hexec
    obtain ⟨-, hunc, hnode, hleased, htmax, htime⟩ := judge_frame { s.fab with ftunc := v.toNat % 2 ^ 16 }
    refine ⟨_, hexec, rfl, hunc, hnode, hleased, htmax, htime, fun e he hr => ⟨fun hle => ?_, fun hlt => ?_⟩⟩
    · obtain ⟨hlock, hhold, -⟩ := judge_locks (f := { s.fab with ftunc := v.toNat % 2 ^ 16 }) he hr hle
      exact ⟨hlock, hhold⟩
    · obtain ⟨hlock, hhold, -⟩ := judge_holds (f := { s.fab with ftunc := v.toNat % 2 ^ 16 }) he (.inr hlt)
      exact ⟨hlock, hhold⟩
  · have hno : ¬ s.onFabric = true := by
      rw [onFabric_iff]
      rintro ⟨hnode, hsvc, -⟩
      exact hoff.elim hnode (fun h => h hsvc)
    rw [exec_syncExchange, execSyncExchange, if_neg hno]
  · obtain ⟨heps, hunc, -, hleased, htmax, htime⟩ := judge_frame (s.fab.synced (2 * off + var))
    refine ⟨_, syncExchange_onFabric ((onFabric_iff s).2 ⟨hnode, hsvc, hdark⟩) off var, rfl, heps, hunc, hleased, htmax, htime,
      fun hbad => judge_holds (f := s.fab.synced (2 * off + var)) rfl hbad, fun hr hle => ?_⟩
    obtain ⟨hlock, hhold, hgood⟩ := judge_locks (f := s.fab.synced (2 * off + var)) rfl hr hle
    refine ⟨hlock, hgood, hhold.trans ?_⟩
    by_cases hle2 : 2 * off + var ≤ s.fab.ftunc
    · simp [Fabric.synced, hle2]
    · simp [Fabric.synced, hle2]

/-- Settles O47: the judgement of the clock gives LOCK and lease hold, and every other register is written as it stands. -/
theorem fabricTime : Obligations.FabricTime := fabricRegisters

end Sys2Proof.Machine
end

section
/-! SUPPORT. Scratchpads: what an engine reads and writes of a team that is alone on the device, and barrier objects (R93, R239). -/
namespace Sys2Proof.Machine

/-! ## Scratchpads -/

theorem scr_eq (t : Team) (off n : Nat) : t.scr off n = (List.range n).map (fun i => Tab.get 0 t.scratch (off + i)) :=
  Tab.getList_eq 0 t.scratch off n

theorem scr_length (t : Team) (off n : Nat) : (t.scr off n).length = n := by simp [scr_eq]

/-- A byte of a scratchpad after a write (R100). -/
theorem scrPut_get {t : Team} (h : Tab.wf 0 t.scratch = true) (off : Nat) (bs : List Byte) (rel x : Nat) :
    Tab.get 0 (t.scrPut off bs rel).scratch x =
      if off ≤ x ∧ x < off + bs.length then bs.getD (x - off) 0 else Tab.get 0 t.scratch x :=
  Tab.get_setList 0 bs off x _ h

theorem scrPut_wf {t : Team} (h : Tab.wf 0 t.scratch = true) (off : Nat) (bs : List Byte) (rel : Nat) :
    Tab.wf 0 (t.scrPut off bs rel).scratch = true := Tab.wf_setList 0 bs off _ h

/-- A write leaves the bytes that lie apart from it. -/
theorem scrPut_scr_apart {t : Team} (h : Tab.wf 0 t.scratch = true) (off : Nat) (bs : List Byte) (rel : Nat) {x n : Nat}
    (hx : x + n ≤ off ∨ off + bs.length ≤ x) : (t.scrPut off bs rel).scr x n = t.scr x n := by
  rw [scr_eq, scr_eq]
  refine List.map_congr_left (fun i hi => ?_)
  have hn := List.mem_range.1 hi
  rw [scrPut_get h, if_neg (by omega)]

/-- The first bytes of a write are read back. -/
theorem scrPut_scr_first {t : Team} (h : Tab.wf 0 t.scratch = true) (off : Nat) (bs : List Byte) (rel : Nat) {n : Nat}
    (hn : n ≤ bs.length) : (t.scrPut off bs rel).scr off n = bs.take n := by
  rw [scr_eq]
  refine List.ext_getElem (by simp [hn]) (fun i h1 h2 => ?_)
  have hi : i < n := by simpa using h1
  rw [List.getElem_map, List.getElem_range, scrPut_get h, if_pos (by omega), Nat.add_sub_cancel_left, List.getElem_take,
    List.getD_eq_getElem _ _ (by omega)]

/-! ## Barrier objects -/

/-- A word written as its bytes is read back (R261). -/
theorem word_ofBytes_toBytes (v : BitVec 64) : BitVec.ofNat 64 (ofBytes (toBytes 8 v.toNat)) = v := by
  rw [ofBytes_toBytes, Nat.mod_eq_of_lt (show v.toNat < 256 ^ 8 from v.isLt), BitVec.ofNat_toNat, BitVec.setWidth_eq]

/-- The team once its barrier object at `off` has counted `n` bytes and `errs` failures (R239). -/
def Team.barCounted (t : Team) (off n errs rel : Nat) : Team :=
  t.scrPut off (toBytes 8 (BitVec.ofNat 64 (ofBytes (t.scr off 8)) - BitVec.ofNat 64 n).toNat ++
    [BitVec.ofNat 8 (min 255 ((Tab.get 0 t.scratch (off + 8)).toNat + errs))] ++ (t.scr off 16).drop 9) rel

section BarCounted

variable {t : Team} (h : Tab.wf 0 t.scratch = true)
include h

/-- CNT of a barrier object that has counted (R239). -/
theorem barCounted_cnt (off n errs rel : Nat) : BitVec.ofNat 64 (ofBytes ((t.barCounted off n errs rel).scr off 8)) =
    .ofNat 64 (ofBytes (t.scr off 8)) - .ofNat 64 n := by
  rw [Team.barCounted, scrPut_scr_first h _ _ _ (by simp [length_toBytes]), List.append_assoc,
    List.take_left' (length_toBytes 8 _), word_ofBytes_toBytes]

/-- ERRC of a barrier object that has counted (R239). -/
theorem barCounted_errc (off n errs rel : Nat) : Tab.get 0 (t.barCounted off n errs rel).scratch (off + 8) =
    .ofNat 8 (min 255 ((Tab.get 0 t.scratch (off + 8)).toNat + errs)) := by
  rw [Team.barCounted, scrPut_get h, if_pos (by simp [length_toBytes]), Nat.add_sub_cancel_left]
  simp [List.getD_eq_getElem?_getD, length_toBytes]

/-- A barrier object takes 16 bytes, and leaves the others of the scratchpad (R239). -/
theorem barCounted_scr_apart (off n errs rel : Nat) {x m : Nat} (hx : x + m ≤ off ∨ off + 16 ≤ x) :
    (t.barCounted off n errs rel).scr x m = t.scr x m :=
  scrPut_scr_apart h _ _ _ (by simpa [length_toBytes, scr_length] using hx)

end BarCounted

/-! ## A team that is alone -/

section Lone

variable {s : State} {key : Nat} {tm : Team} {id : BitVec 32} (h : s.teams = [(key, tm)]) (hid : tm.teamId = id)
include h

theorem team_lone : s.team key = some tm := by simp [State.team, h, AMap.find]

theorem modTeam_lone (f : Team → Team) : s.modTeam key f = { s with teams := [(key, f tm)] } := by
  simp [State.modTeam, h, AMap.modify, AMap.find, AMap.insert]

/-- What a hold releases in the team reaches its paths alone (R354). -/
theorem replayHeld_lone (which : Hold → Bool) : ∃ b, (s.replayHeld which).teams = [(key, b)] ∧ b.scratch = tm.scratch ∧
    b.vregs = tm.vregs ∧ b.version = tm.version := by
  rw [State.replayHeld, h]
  exact ⟨_, rfl, rfl, rfl, rfl⟩

theorem releaseLocks_lone (which : LockReg → Bool) : ∃ b, (s.releaseLocks which).teams = [(key, b)] ∧ b.scratch = tm.scratch ∧
    b.vregs = tm.vregs ∧ b.version = tm.version :=
  replayHeld_lone (s := { s with eng := { s.eng with locks := s.eng.locks.filter (fun l => !which l) } }) h _

include hid

theorem whereIs_lone : s.whereIs id = .resident key tm := by simp [State.whereIs, h, hid]

theorem poolRead_lone (off n : Nat) : s.poolRead id off n = tm.scr off n := by
  rw [State.poolRead, whereIs_lone h hid]

/-- An engine's write within the scratchpad of the team (R93). -/
theorem poolWrite_lone {off : Nat} {bs : List Byte} (hfit : off + bs.length ≤ tm.scrSize) (rel : Nat) :
    s.poolWrite id off bs rel = { s with teams := [(key, tm.scrPut off bs rel)] } := by
  rw [State.poolWrite, whereIs_lone h hid]
  show s.modTeam key _ = _
  rw [List.take_of_length_le (by omega), modTeam_lone h]

/-- A barrier object within the scratchpad of the team counts (R239). -/
theorem countDown_lone {off : Nat} (hfit : off + 16 ≤ tm.scrSize) (n errs rel : Nat) :
    s.countDown id off n errs rel = { s with teams := [(key, tm.barCounted off n errs rel)] } := by
  have hcnt : (tm.scr off 16).take 8 = tm.scr off 8 := by rw [scr_eq, scr_eq, ← List.map_take, List.take_range]; rfl
  have herrc : ((tm.scr off 16).drop 8).headD 0 = Tab.get 0 tm.scratch (off + 8) := by
    rw [scr_eq, List.headD_eq_head?_getD, List.head?_drop]; simp
  unfold State.countDown
  simp only [whereIs_lone h hid, poolRead_lone h hid, hcnt, herrc]
  exact poolWrite_lone h hid (by simpa [length_toBytes, scr_length] using hfit) rel

end Lone

end Sys2Proof.Machine
end

section
/-! SUPPORT. Collectives: what arrives, and how they end (R52, R53). -/
namespace Sys2Proof.Machine

/-! ## The collective in flight -/

theorem coll_lone {s : State} {c : Coll} (h : s.fab.colls = [c]) : s.coll c.id = some c := by simp [State.coll, h]

theorem coll_none {s : State} (h : s.fab.colls = []) (id : Nat) : s.coll id = none := by simp [State.coll, h]

theorem modColl_lone {s : State} {c : Coll} (h : s.fab.colls = [c]) (f : Coll → Coll) :
    s.modColl c.id f = { s with fab := { s.fab with colls := [f c] } } := by simp [State.modColl, h]

/-! ## Arrivals -/

/-- A collective once a member's fingerprint has arrived (R52). -/
def Coll.noted (c : Coll) (rank : Nat) (fp : CollFinger) : Coll :=
  { c with fingers := if c.fingers.contains rank then c.fingers else rank :: c.fingers,
           broken := if fp = c.finger then c.broken else some (c.broken.getD .mismatch) }

theorem noted_fingers (c : Coll) (rank : Nat) (fp : CollFinger) (r : Nat) :
    r ∈ (c.noted rank fp).fingers ↔ r = rank ∨ r ∈ c.fingers := by
  unfold Coll.noted
  dsimp only
  split
  · next hin =>
    rw [iff_or_self]
    rintro rfl
    exact List.contains_iff_mem.1 hin
  · exact List.mem_cons

theorem arrival_finger {s : State} {c : Coll} (h : s.fab.colls = [c]) {rank : Nat} (hr : rank < c.members) (fp : CollFinger) :
    exec (.collectiveArrival c.id (.finger rank fp)) s =
      .next { s with fab := { s.fab with colls := [c.noted rank fp] } } := by
  simp only [exec_collectiveArrival, execCollectiveArrival, coll_lone h, if_neg (Nat.not_le.2 hr)]
  exact congrArg _ (modColl_lone h _)

/-- A block that a reduction takes is kept, and nothing is placed before the end (R52). -/
theorem arrival_block {s : State} {c : Coll} (h : s.fab.colls = [c]) {rank : Nat} (hr : rank < c.members) {b : List Byte}
    (hop : c.op < 2) (hlen : b.length = c.block) (hnew : AMap.find c.blocks rank = none) :
    exec (.collectiveArrival c.id (.block rank b)) s =
      .next { s with fab := { s.fab with colls := [{ c with blocks := AMap.insert rank b c.blocks }] } } := by
  have hok : ¬ (c.members ≤ rank ∨ b.length ≠ c.block ∨ (AMap.find c.blocks rank).isSome) := by
    simp [hnew, hlen, hr]
  have hfind := coll_lone (s := { s with fab := { s.fab with colls := [{ c with blocks := AMap.insert rank b c.blocks }] } })
    (c := { c with blocks := AMap.insert rank b c.blocks }) rfl
  simp only [exec_collectiveArrival, execCollectiveArrival, coll_lone h, if_neg hok, modColl_lone h, hfind]
  simp only [State.collPlace, AMap.find_insert_same, hop, true_or, if_true]

/-! ## The end of a collective -/

/-- The team of a collective that ends with a status, in its record and in its barrier object (R52, R53). -/
def Coll.endedTeam (c : Coll) (tm : Team) (status errs : Nat) : Team :=
  let T := max (max c.pts c.rel) 0
  (tm.scrPut (c.recOff + 40) (toBytes 8 (status + 256 * c.trap)) T).barCounted c.bar c.left errs T

section EndedTeam

variable {c : Coll} {tm : Team} (hwf : Tab.wf 0 tm.scratch = true) (hapart : c.recOff + 64 ≤ c.bar ∨ c.bar + 16 ≤ c.recOff)
  (status errs : Nat)
include hwf hapart

/-- The record of a collective that ends holds its status and its class (R53, R116). -/
theorem endedTeam_status :
    ofBytes ((c.endedTeam tm status errs).scr (c.recOff + 40) 8) = (status + 256 * c.trap) % 2 ^ 64 := by
  have hlen : (toBytes 8 (status + 256 * c.trap)).length = 8 := length_toBytes 8 _
  rw [Coll.endedTeam, barCounted_scr_apart (scrPut_wf hwf _ _ _) _ _ _ _ (by omega), scrPut_scr_first hwf _ _ _ (by omega),
    List.take_of_length_le (by omega), ofBytes_toBytes]
  rfl

/-- The barrier object of a collective that ends counts the bytes that are left (R52). -/
theorem endedTeam_cnt : BitVec.ofNat 64 (ofBytes ((c.endedTeam tm status errs).scr c.bar 8)) =
    .ofNat 64 (ofBytes (tm.scr c.bar 8)) - .ofNat 64 c.left := by
  have hlen : (toBytes 8 (status + 256 * c.trap)).length = 8 := length_toBytes 8 _
  rw [Coll.endedTeam, barCounted_cnt (scrPut_wf hwf _ _ _), scrPut_scr_apart hwf _ _ _ (by omega)]

/-- The barrier object of a collective that ends counts a failure (R53). -/
theorem endedTeam_errc : Tab.get 0 (c.endedTeam tm status errs).scratch (c.bar + 8) =
    .ofNat 8 (min 255 ((Tab.get 0 tm.scratch (c.bar + 8)).toNat + errs)) := by
  have hlen : (toBytes 8 (status + 256 * c.trap)).length = 8 := length_toBytes 8 _
  rw [Coll.endedTeam, barCounted_errc (scrPut_wf hwf _ _ _), scrPut_get hwf, if_neg (by omega)]

end EndedTeam

/-- What a collective that is ready to end leaves, before its locks and its slot are given up (R52, R181). -/
def State.collOver (s : State) (c : Coll) (key : Nat) (b : Team) : State :=
  let T := max (max c.pts c.rel) 0
  { s.modLaunch c.launch (fun l => { l with rel := max l.rel T }) with
    teams := [(key, b)], fab := { s.fab with colls := s.fab.colls.filter (fun x => x.id != c.id) } }

theorem endColl_ready {s : State} {c : Coll} {key : Nat} {tm : Team} (h : collReady s c key tm) (status errs : Nat) :
    s.endColl c status errs = ((s.collOver c key (c.endedTeam tm status errs)).releaseLocks
      (fun l => l.owner == LockOwner.coll c.id)).replayHeld (fun h => h == Hold.engineSlot) := by
  obtain ⟨-, hteams, hid, hphase, hscope, hevt, -, hrec, hbar, -⟩ := h
  have hgo : ¬ (s.restoring c.teamId ∨ (c.evt ∧ s.eventFull c.teamId) ∨ s.completionBlocked c.teamId c.scope) := by
    simp [State.restoring, whereIs_lone hteams hid, hphase, hevt, State.completionBlocked, hscope]
  have hcommit : s.completionCommit c.teamId c.path c.scope = (s, 0) := by rw [State.completionCommit, if_pos hscope]
  have hlen : (toBytes 8 (status + 256 * c.trap)).length = 8 := length_toBytes 8 _
  have hcount := fun (T : Nat) (u : State)
      (hu : u.teams = [(key, tm.scrPut (c.recOff + 40) (toBytes 8 (status + 256 * c.trap)) T)]) =>
    countDown_lone hu hid hbar c.left errs T
  rw [State.endColl, if_neg hgo, hcommit]
  simp only [hevt, Bool.false_eq_true, if_false]
  rw [poolWrite_lone (s := s.modLaunch _ _) hteams hid (by omega), hcount]
  · rfl
  · rfl

/-- A collective that is ready to end, ends (R52, R53, R181): memory stays, and the record and the barrier object of its team say
how. -/
theorem endColl_ends {s : State} {c : Coll} {key : Nat} {tm : Team} (h : collReady s c key tm) (status errs : Nat) :
    (s.endColl c status errs).mem = s.mem ∧ collEnded (s.endColl c status errs) c key tm status errs := by
  rw [endColl_ready h]
  obtain ⟨hcolls, -, -, -, -, -, hwf, -, -, hapart⟩ := h
  have hover : (s.collOver c key (c.endedTeam tm status errs)).fab.colls = [] := by simp [State.collOver, hcolls]
  obtain ⟨b1, hb1, hscr1, hvregs1, hversion1⟩ := releaseLocks_lone (s := s.collOver c key (c.endedTeam tm status errs)) rfl
    (fun l => l.owner == LockOwner.coll c.id)
  obtain ⟨b, hb, hscr, hvregs, hversion⟩ := replayHeld_lone hb1 (fun h => h == Hold.engineSlot)
  have hscratch : b.scratch = (c.endedTeam tm status errs).scratch := hscr.trans hscr1
  refine ⟨rfl, hover, b, team_lone hb, ?_, ?_, ?_, hvregs.trans hvregs1, hversion.trans hversion1⟩
  · rw [Team.scr, hscratch]
    exact endedTeam_status hwf hapart status errs
  · rw [Team.scr, hscratch]
    exact endedTeam_cnt hwf hapart status errs
  · rw [hscratch]
    exact endedTeam_errc hwf hapart status errs

/-- A collective that fails ends once its DST holds what nothing states (R53). -/
theorem failColl_ends {s s1 : State} {c c' : Coll} {key : Nat} {tm : Team} (hpoison : s.collPoison c = s1)
    (h : collReady s1 c' key tm) (hid : c'.id = c.id) (status : Nat) :
    (s.failColl c status).mem = s1.mem ∧ collEnded (s.failColl c status) c' key tm status 1 := by
  have hfail : s.failColl c status = s1.endColl c' status 1 := by
    simp only [State.failColl, hpoison, ← hid, coll_lone h.1]
  rw [hfail]
  exact endColl_ends h status 1

theorem complete_iff (c : Coll) : c.complete = true ↔ ∀ r < c.members, r ∈ c.fingers ∧ AMap.find c.blocks r ≠ none := by
  simp [Coll.complete, Option.isSome_iff_ne_none]

/-- The completion of a collective whose fingerprints and blocks are all there (R48, R52). -/
theorem completion_ends {s s1 : State} {c c' : Coll} (h : s.fab.colls = [c]) (hruns : s.collRuns c = true)
    (hown : AMap.find c.blocks c.rank ≠ none) (hall : c.complete = true) (hfin : s.collFinish c c.rest = .ok s1)
    (h1 : s1.fab.colls = [c']) (hid : c'.id = c.id) :
    exec (.collectiveCompletion c.id) s = .next (s1.endColl c' 1 0) := by
  have hown' : (AMap.find c.blocks c.rank).isNone = false := by simpa [Option.isSome_iff_ne_none] using hown
  have hfind : s1.coll c.id = some c' := hid ▸ coll_lone h1
  simp only [exec_collectiveCompletion, execCollectiveCompletion, coll_lone h, hruns, hown', hall, hfin, hfind,
    Bool.not_true, Bool.false_eq_true, if_false]

theorem arrivalTimeout_late {s : State} {c : Coll} (h : s.fab.colls = [c]) {r : Nat} (hr : r < c.members) (hlate : r ∉ c.fingers) :
    exec (.collectiveArrivalTimeout c.id) s = .next (s.failColl c 3) := by
  have hno : ¬ (List.range c.members).all (fun r => c.fingers.contains r) = true := by
    simp only [List.all_eq_true, List.mem_range, List.contains_iff_mem]
    exact fun hall => hlate (hall r hr)
  simp only [exec_collectiveArrivalTimeout, execCollectiveArrivalTimeout, coll_lone h, if_neg hno]

/-- Settles O49: an arrival is noted in the collective, and a completion and every failure end it in the same way, with its status. -/
theorem collectives : Obligations.Collectives := by
  refine ⟨fun s c rank hc hr => ⟨fun fp => ?_, fun b hop hlen hnew => ⟨_, arrival_block hc hr hop hlen hnew, rfl, rfl, rfl⟩⟩,
    fun s id m hc => ⟨?_, ?_, ?_⟩, fun s s1 c c' key tm hc hruns hown hall hfin hready hid => ?_,
    fun s s1 c c' key tm hc hpoison hready hid => ?_⟩
  · refine ⟨_, _, arrival_finger hc hr fp, rfl, rfl, rfl, noted_fingers c rank fp, rfl, fun he => if_pos he, fun hne hb => ?_⟩
    exact (if_neg hne).trans (by rw [hb]; rfl)
  · simp only [exec_collectiveArrival, execCollectiveArrival, coll_none hc]
  · simp only [exec_collectiveCompletion, execCollectiveCompletion, coll_none hc]
  · simp only [exec_collectiveArrivalTimeout, execCollectiveArrivalTimeout, coll_none hc]
  · exact ⟨_, completion_ends hc hruns hown ((complete_iff c).2 hall) hfin hready.1 hid, endColl_ends hready 1 0⟩
  · have hends := failColl_ends hpoison hready hid
    refine ⟨⟨_, ?_, hends 3⟩, ⟨_, ?_, hends 4⟩, fun hb => ⟨_, ?_, hends 2⟩,
      fun r hr hlate => ⟨_, arrivalTimeout_late hc hr hlate, hends 3⟩⟩
    · simp only [exec_collectiveFailure, execCollectiveFailure, coll_lone hc]
    · simp only [exec_collectiveFailure, execCollectiveFailure, coll_lone hc]
    · simp only [exec_collectiveFailure, execCollectiveFailure, coll_lone hc, if_pos hb]

end Sys2Proof.Machine
end

section
/-! SUPPORT. The owner's side of remote space (R44, R46). -/
namespace Sys2Proof.Machine

/-! ## What performs at the home slice -/

/-- A peer's load performs (R44): it gets the committed bytes, and its frame is touched. -/
theorem ownerPerform_load (s : State) (pa n : Nat) (want : Bool) :
    s.ownerPerform pa (.load n want) =
      ({ s with mem := s.mem.touch pa }, .data ((List.range n).map (fun i => byteAt s (pa + i))) none) := by
  rw [State.ownerPerform, State.readPa_eq]

/-- A peer's addition performs as a write of the sum, and answers with the bytes before it (R44, R310). -/
theorem ownerPerform_add (s : State) (pa n x : Nat) :
    let old := (List.range n).map (fun i => byteAt s (pa + i))
    s.ownerPerform pa (.atomic .add n [(x, 0)]) =
      (s.writeOutside pa (toBytes n (ofBytes old + x)), .data old none) := by
  have hsum : ∀ w, toBytes n (w % 2 ^ (8 * n)) = toBytes n w := fun w => by
    rw [pow_mul]
    exact toBytes_mod n w
  rw [← State.readPa_eq]
  simp [State.ownerPerform, chainAtomics, atomicNew, hsum]

/-- What an access brings to the L2 changes no byte of memory, no team, and nothing of the fabric and the engines (R28, R99). -/
theorem l2Access_frame (s : State) (a : L2Access) : memoryKept s (s.l2Access a) ∧ (s.l2Access a).teams = s.teams ∧
    (s.l2Access a).fab = s.fab ∧ (s.l2Access a).eng = s.eng ∧ (s.l2Access a).dev = s.dev := by
  obtain ⟨l, g, n, o, hacc⟩ := l2Access_is s a
  rw [hacc]
  exact ⟨⟨rfl, rfl⟩, rfl, rfl, rfl, rfl⟩

theorem l2Access_byteAt (s : State) (a : L2Access) (x : Nat) : byteAt (s.l2Access a) x = byteAt s x := by
  rw [byteAt, l2Access_bytes, byteAt]

/-- A peer's write performs, with what it brings to the L2 (R44, R46, R110): its bytes are committed, and neither host memory, a team nor
the fabric changes. -/
theorem peerWrite_performs {s : State} (hw : s.mem.wf = true) (a : L2Access) (pa : Nat) (bs : List Byte) :
    let t := (s.l2Access a).writeOutside pa bs
    bytesStored s t pa bs ∧ t.mem.host = s.mem.host ∧ t.teams = s.teams ∧ t.fab = s.fab := by
  obtain ⟨⟨hbytes, hhost⟩, hteams, hfab, -, -⟩ := l2Access_frame s a
  obtain ⟨hstored, hhost'⟩ := writeOutside_stores (l2Access_wf hw a) pa bs
  obtain ⟨m, c, o, hwr⟩ := writeOutside_is (s.l2Access a) pa bs
  refine ⟨fun x => ?_, hhost'.trans hhost, by rw [hwr, hteams], by rw [hwr, hfab]⟩
  rw [hstored x, byteAt, byteAt, hbytes]

/-! ## Leases -/

/-- A load that asks for no lease performs as any other (R45). -/
theorem ownerLease_unasked (s : State) (pa off n : Nat) :
    s.ownerLease pa off n false = s.ownerPerform pa (.load n false) := by
  unfold State.ownerLease
  split
  · rfl
  · exact if_pos rfl

/-- The grant of a lease (R45, R46): the whole line, with the owner's time plus LEASE as its end. -/
theorem ownerLease_grants {s : State} {off : Nat} {e : BitVec 128} (he : s.fab.exported off = some e) (hnol : e.getLsbD 124 = false)
    (hruns : s.fabricRuns = true) (hlocks : s.eng.locks = []) (pa n : Nat) :
    let T := s.fab.ftime.toNat + (e.toNat / 2 ^ 118 % 2 ^ 6 + 1) * 1000
    s.ownerLease pa off n true =
      ({ s with mem := s.mem.touch pa,
                fab := { s.fab with tmax := Tab.set 0 (lineOf pa) (max T (Tab.get 0 s.fab.tmax (lineOf pa))) s.fab.tmax } },
        .data ((List.range 64).map (fun i => byteAt s (lineOf pa * 64 + i))) (some T)) := by
  have hlock : s.lineLockPending pa = false := by simp [State.lineLockPending, hlocks]
  simp only [State.ownerLease, he, hnol, hruns, hlock, Bool.not_true, Bool.or_self, Bool.false_eq_true, if_false, State.readPa_eq]
  rfl

theorem leaseBlocked_iff (s : State) (pa : Nat) : s.leaseBlocked pa = true ↔
    Tab.get 0 s.fab.tmax (lineOf pa) ≠ 0 ∧ s.fab.ftime.toNat < Tab.get 0 s.fab.tmax (lineOf pa) + s.fab.ftunc := by
  simp [State.leaseBlocked]

/-! ## Requests -/

theorem ownerAt_noEntry {s : State} {off : Nat} (h : s.fab.exported off = none) (op : PeerOp) : s.ownerAt off op = (s, .refused) := by
  rw [State.ownerAt, h]

/-- An entry that names no space of device memory, or does not permit the access, refuses it (R44). -/
theorem ownerAt_notAllowed {s : State} {off : Nat} {e : BitVec 128} {op : PeerOp} (h : s.fab.exported off = some e)
    (hno : e.toNat / 2 ^ 32 % 2 ^ 6 ≠ 0 ∨ (match op with | .load _ _ => e.getLsbD 126 | _ => e.getLsbD 125) = false) :
    s.ownerAt off op = (s, .refused) := by
  have hno' : bits 37 32 e.toNat ≠ 0 ∨ (if peerWrites op then e.getLsbD 125 else e.getLsbD 126) = false := by
    cases op <;> exact hno
  simp only [State.ownerAt, h, if_pos hno']

section Request

variable {s s1 : State} {r : PeerReq} {a : L2Access} (hon : s.onFabric = true)
include hon

theorem request_refused (h : s.ownerAt r.off r.op = (s1, .refused)) :
    exec (.remoteAccessRequest r) s = .next (s1.emit (.peerReply r.node r.id .refused)) := by
  simp only [exec_remoteAccessRequest, execRemoteAccessRequest, hon, h, Bool.not_true, Bool.false_eq_true, if_false]

theorem request_failed (h : s.ownerAt r.off r.op = (s1, .failed)) :
    exec (.remoteAccessRequest r) s = .next ((s1.postFailure r).emit (.peerReply r.node r.id .refused)) := by
  simp only [exec_remoteAccessRequest, execRemoteAccessRequest, hon, h, Bool.not_true, Bool.false_eq_true, if_false]

theorem request_later (h : s.ownerAt r.off r.op = (s1, .later)) : exec (.remoteAccessRequest r) s = .next s1 := by
  simp only [exec_remoteAccessRequest, execRemoteAccessRequest, hon, h, Bool.not_true, Bool.false_eq_true, if_false]

theorem request_load (h : s.ownerAt r.off r.op = (s1, .dev a)) {n : Nat} {want : Bool} (hop : r.op = .load n want) :
    exec (.remoteAccessRequest r) s = .next (((s1.l2Access a).ownerLease a.pa r.off n want).1.emit
      (.peerReply r.node r.id ((s1.l2Access a).ownerLease a.pa r.off n want).2)) := by
  rw [hop] at h
  simp only [exec_remoteAccessRequest, execRemoteAccessRequest, hon, hop, h, Bool.not_true, Bool.false_eq_true, if_false]

/-- A load that asks for no lease gets the committed bytes (R44). -/
theorem request_load_unleased (h : s.ownerAt r.off r.op = (s1, .dev a)) {n : Nat} (hop : r.op = .load n false) :
    exec (.remoteAccessRequest r) s = .next (({ s1.l2Access a with mem := (s1.l2Access a).mem.touch a.pa } : State).emit
      (.peerReply r.node r.id (.data ((List.range n).map (fun i => byteAt s1 (a.pa + i))) none))) := by
  simp only [request_load hon h hop, ownerLease_unasked, ownerPerform_load, l2Access_byteAt]

/-- A load that is granted a lease gets the whole line, and the line's latest lease end is noted (R45, R46). -/
theorem request_load_leased (h : s.ownerAt r.off r.op = (s1, .dev a)) {n : Nat} (hop : r.op = .load n true) {e : BitVec 128}
    (he : s1.fab.exported r.off = some e) (hnol : e.getLsbD 124 = false) (hruns : s1.fabricRuns = true) (hlocks : s1.eng.locks = []) :
    let T := s1.fab.ftime.toNat + (e.toNat / 2 ^ 118 % 2 ^ 6 + 1) * 1000
    exec (.remoteAccessRequest r) s = .next (({ s1.l2Access a with
        mem := (s1.l2Access a).mem.touch a.pa,
        fab := { s1.fab with
          tmax := Tab.set 0 (lineOf a.pa) (max T (Tab.get 0 s1.fab.tmax (lineOf a.pa))) s1.fab.tmax } } : State).emit
      (.peerReply r.node r.id (.data ((List.range 64).map (fun i => byteAt s1 (lineOf a.pa * 64 + i))) (some T)))) := by
  obtain ⟨-, -, hfab, heng, hdev⟩ := l2Access_frame s1 a
  have hruns' : (s1.l2Access a).fabricRuns = true := by rw [State.fabricRuns, hfab, hdev]; exact hruns
  rw [request_load hon h hop, ownerLease_grants (hfab ▸ he) hnol hruns' (heng ▸ hlocks)]
  simp only [l2Access_byteAt, hfab]

/-- A write of a line that nothing holds performs at once (R46). -/
theorem request_write (h : s.ownerAt r.off r.op = (s1, .dev a)) (hop : peerWrites r.op = true) (hfree : s1.lineHeld a.pa = false) :
    exec (.remoteAccessRequest r) s = .next (((s1.l2Access a).ownerPerform a.pa r.op).1.emit
      (.peerReply r.node r.id ((s1.l2Access a).ownerPerform a.pa r.op).2)) := by
  obtain ⟨node, id, off, op⟩ := r
  cases op with
  | load => cases hop
  | _ =>
    simp only at h
    simp only [exec_remoteAccessRequest, execRemoteAccessRequest, hon, h, hfree, Bool.not_true, Bool.false_eq_true, if_false]

/-- A write that waits takes its place behind the others (R46). -/
theorem request_held (h : s.ownerAt r.off r.op = (s1, .dev a)) (hop : peerWrites r.op = true) (hheld : s1.lineHeld a.pa = true) :
    exec (.remoteAccessRequest r) s = .next { s1 with fab := { s1.fab with
      held := s1.fab.held ++ [{ line := lineOf a.pa, pa := a.pa, op := r.op, asid := a.asid, va := a.va, rc := a.rc,
                                host := false, peer := some (r.node, r.id) }] } } := by
  obtain ⟨node, id, off, op⟩ := r
  cases op with
  | load => cases hop
  | _ =>
    simp only at h
    simp only [exec_remoteAccessRequest, execRemoteAccessRequest, hon, h, hheld, Bool.not_true, Bool.false_eq_true, if_false, if_true]

end Request

/-! ## Writes that were held -/

section Held

variable {s : State} {h : HeldWrite} (hheld : s.fab.held = [h])
include hheld

/-- A held write stays while a lease blocks its line, or while it is a path's own (R46). -/
theorem leaseHeldWrite_waits (hwait : s.leaseBlocked h.pa = true ∨ h.turn.isSome = true) :
    exec (.leaseHeldWrite h.line) s = .next s := by
  rw [exec_leaseHeldWrite, execLeaseHeldWrite, hheld, List.find?_singleton]
  by_cases hstands : (h.line == h.line && s.turnStands h) = true
  · simp only [if_pos hstands, if_pos hwait]
  · simp only [if_neg hstands]

/-- A peer's held write performs once no lease blocks its line, and is acknowledged (R46). -/
theorem leaseHeldWrite_performs (hon : s.onFabric = true) (hturn : h.turn = none) {node id : Nat} (hpeer : h.peer = some (node, id))
    (hfree : s.leaseBlocked h.pa = false) :
    let u : State := { s with fab := { s.fab with held := [] } }
    exec (.leaseHeldWrite h.line) s = .next (((u.l2Access h.access).ownerPerform h.pa h.op).1.emit
      (.peerReply node id ((u.l2Access h.access).ownerPerform h.pa h.op).2)) := by
  have hstands : (h.line == h.line && s.turnStands h) = true := by simp [State.turnStands, hturn]
  have hgo : ¬ (s.leaseBlocked h.pa = true ∨ h.turn.isSome = true) := by simp [hfree, hturn]
  have hon' : State.onFabric { s with fab := { s.fab with held := [] } } = true := hon
  have herase : [h].erase h = [] := by simp
  rw [exec_leaseHeldWrite, execLeaseHeldWrite, hheld, List.find?_singleton]
  simp only [if_pos hstands, if_neg hgo, hpeer, herase, hon', if_true]

end Held

/-- R39, R44 to R46: what the owner makes of a peer's access. -/
theorem remoteOwner : Says.RemoteOwner := by
  refine ⟨fun s r hnode => ?_, fun s s1 r a hnode hsvc hdark => ?_, fun s h bs node id hheld _ hop hpeer hnode hsvc hdark => ?_⟩
  · have hoff : s.onFabric = false := by simp [State.onFabric, hnode]
    simp only [exec_remoteAccessRequest, execRemoteAccessRequest, hoff, Bool.not_false, if_true]
  · have hon := (onFabric_iff s).2 ⟨hnode, hsvc, hdark⟩
    refine ⟨fun he => request_refused hon (ownerAt_noEntry he r.op), fun e he hno => request_refused hon (ownerAt_notAllowed he hno),
      fun hat => ⟨_, _, request_failed hon hat, ⟨rfl, rfl⟩, rfl, rfl, ?_⟩, request_later hon, fun hat hw htm => ?_⟩
    · obtain ⟨-, -, -, op⟩ := r
      cases op <;> rfl
    · obtain ⟨hkept, hteams, hfab, -, -⟩ := l2Access_frame s1 a
      refine ⟨fun n hop => ⟨_, request_load_unleased hon hat hop, hkept, hteams, hfab, rfl⟩, fun n e hop he hnol hruns hlocks =>
        ⟨_, request_load_leased hon hat hop he hnol hruns hlocks, hkept, rfl, fun i => ?_⟩, fun bs hop hfree => ?_,
        fun n x hop hfree => ?_,
        fun bs hop hheld => ⟨_, request_held hon hat (by rw [hop]; rfl) hheld, rfl, rfl, rfl, rfl⟩⟩
      · refine (Tab.get_set 0 s1.fab.tmax (Tab.wf_rising htm) (lineOf a.pa) i _).trans ?_
        by_cases hi : i = lineOf a.pa
        · rw [if_pos hi, if_pos hi, hi]
        · rw [if_neg hi, if_neg hi]
      · have hexec := request_write hon hat (by rw [hop]; rfl) hfree
        rw [hop] at hexec
        obtain ⟨hstored, hhost, hteams, -⟩ := peerWrite_performs hw a a.pa bs
        exact ⟨_, hexec, hstored, hhost, hteams, rfl⟩
      · have hexec := request_write hon hat (by rw [hop]; rfl) hfree
        rw [hop, ownerPerform_add] at hexec
        simp only [l2Access_byteAt] at hexec
        exact ⟨_, hexec, (peerWrite_performs hw a a.pa _).1, rfl⟩
  · have hon := (onFabric_iff s).2 ⟨hnode, hsvc, hdark⟩
    refine ⟨fun hturn => ?_, fun hT hlt => ?_, fun hturn hfree hw => ?_⟩
    · exact leaseHeldWrite_waits hheld (.inr (Option.isSome_iff_ne_none.2 hturn))
    · exact leaseHeldWrite_waits hheld (.inl ((leaseBlocked_iff s h.pa).2 ⟨hT, hlt⟩))
    · have hblocked : s.leaseBlocked h.pa = false := by
        rw [Bool.eq_false_iff, Ne, leaseBlocked_iff]
        omega
      have hexec := leaseHeldWrite_performs hheld hon hturn hpeer hblocked
      rw [hop] at hexec
      obtain ⟨hstored, hhost, hteams, hfab⟩ :=
        peerWrite_performs (s := { s with fab := { s.fab with held := [] } }) hw h.access h.pa bs
      exact ⟨_, hexec, hstored, hhost, congrArg Fabric.held hfab, hteams, rfl⟩

end Sys2Proof.Machine
end

section
/-! SUPPORT. The requester's side of remote space (R43, R45, R47). -/
namespace Sys2Proof.Machine

/-! ## Accesses that end -/

theorem finishAccess_is (s : State) (p : PendAccess) : ∃ ts, s.finishAccess p = { s with teams := ts } := by
  unfold State.finishAccess
  split <;> exact ⟨_, rfl⟩

/-- Data that lands changes teams alone (R193, R294, R341). -/
theorem landAccess_is (s : State) (p : PendAccess) (b : List Byte) : ∃ ts, s.landAccess p b = { s with teams := ts } := by
  unfold State.landAccess
  split
  · exact ⟨_, rfl⟩
  · obtain ⟨ts, hs⟩ : ∃ ts, (if p.strong then s.acquireT p.tkey p.path s.mem.outT else s) = { s with teams := ts } := by
      split <;> exact ⟨_, rfl⟩
    rw [hs]
    dsimp only
    split
    · obtain ⟨ts', hf⟩ := finishAccess_is (State.modTeam { s with teams := ts } p.tkey _) p
      exact ⟨ts', hf⟩
    · obtain ⟨ts', hf⟩ := finishAccess_is (State.landLanes { s with teams := ts } p.tkey _ _ _ _ b) p
      exact ⟨ts', hf⟩
    · obtain ⟨ts', hf⟩ := finishAccess_is { s with teams := ts } p
      exact ⟨ts', hf⟩

/-- A load into a scalar register lands (R193, R294): its register takes the bytes, its path has it pending no longer, and neither
memory, the engines nor the fabric change. -/
theorem landAccess_lands {s : State} {p : PendAccess} {q : Path} {sd n : Nat} (hd : p.dest = .scalar sd n false)
    (hc : p.clause = none) (hid : (s.team p.tkey).map (·.teamId) = some p.teamId) (hq : s.path p.tkey p.path = some q)
    (hwf : Tab.wf 0 q.sregs = true) (h1 : 1 ≤ sd) (h2 : sd < 64) (b : List Byte) :
    let t := s.landAccess p b
    t.mem = s.mem ∧ t.eng = s.eng ∧ t.fab = s.fab ∧ ∃ r, t.path p.tkey p.path = some r ∧ r.spc = q.spc ∧
      r.pendScalar = q.pendScalar.filter (fun x => x.req != p.id) ∧
      ∀ x, r.s x = if x.toNat = sd then .ofNat 64 (ofBytes (b.take n)) else q.s x := by
  obtain ⟨ts, his⟩ := landAccess_is s p b
  obtain ⟨hmem, pts, hpath⟩ := landAccess_scalar hd hc hid hq b
  exact ⟨hmem, by rw [his], by rw [his], _, hpath, landed_spc _ _ _ _, rfl,
    landed_s (q := { q with pts := pts }) hwf h1 h2 _ _⟩

/-! ## Replies -/

/-- The state with no access in flight (R43). -/
def State.noPend (s : State) : State := { s with eng := { s.eng with pend := [] } }

/-- The state in which the only access in flight has ended, and its line is kept under a lease (R45). -/
def State.keptLine (s : State) (p : PendAccess) (b : List Byte) (T : Nat) : State :=
  let u := s.noPend.installRemote p
  { u with fab := u.fab.keepLine (p.addr / 2 ^ 48 % 2 ^ 12) (p.addr % 2 ^ 48 / 64) b T }

/-- A line kept under a lease is the latest of them; the bytes of memory and the teams stay (R45, R112). -/
theorem keptLine_frame (s : State) (p : PendAccess) (b : List Byte) (T : Nat) :
    memoryKept s (s.keptLine p b T) ∧ (s.keptLine p b T).eng.pend = [] ∧ (s.keptLine p b T).teams = s.teams ∧
      (s.keptLine p b T).fab.leased.head? =
        some { node := p.addr / 2 ^ 48 % 2 ^ 12, line := p.addr % 2 ^ 48 / 64, data := b, until_ := T } := by
  obtain ⟨l, n, hins⟩ : ∃ l n, s.noPend.installRemote p =
      { s.noPend with mem := { s.noPend.mem with l2 := l }, fresh := n } := l2Alloc_is s.noPend _
  rw [State.keptLine, hins]
  exact ⟨⟨rfl, rfl⟩, rfl, rfl, rfl⟩

theorem remote_none {s : State} (h : s.eng.pend = []) (id : Nat) : s.remote id = none := by simp [State.remote, h]

/-- An access of a resident team that fails traps its path (R43, R44). -/
theorem trapAccess_resident {s : State} {p : PendAccess} (hid : (s.team p.tkey).map (·.teamId) = some p.teamId) (c : TrapClass) :
    s.trapAccess p c = s.trapError p.tkey p.path c p.lane (.ofNat 64 (3 * 2 ^ 60 + p.addr)) := by
  rw [State.trapAccess, if_neg (not_not.2 hid)]

section Reply

variable {s : State} {p : PendAccess} (h : s.eng.pend = [p]) (hspace : p.space = 3)
include h

theorem dropPend_lone : s.dropPend p.id = s.noPend := by simp [State.dropPend, State.noPend, h]

include hspace

theorem remote_lone : s.remote p.id = some p := by simp [State.remote, h, hspace]

theorem remoteCompletion_ack : exec (.remoteCompletion p.id .ack) s = .next (s.noPend.finishAccess p) := by
  simp only [exec_remoteCompletion, execRemoteCompletion, remote_lone h hspace, dropPend_lone h]

theorem remoteCompletion_data (b : List Byte) :
    exec (.remoteCompletion p.id (.data b none)) s = .next (s.noPend.landAccess p b) := by
  simp only [exec_remoteCompletion, execRemoteCompletion, remote_lone h hspace, dropPend_lone h]

/-- The reply to a load that asked for a lease brings the whole line (R45). -/
theorem remoteCompletion_lease (b : List Byte) (T : Nat) : exec (.remoteCompletion p.id (.data b (some T))) s =
    .next ((s.keptLine p b T).landAccess p ((b.drop (p.addr % 64)).take p.size)) := by
  have hnode : bits 59 48 p.addr = p.addr / 2 ^ 48 % 2 ^ 12 := rfl
  have hline : lineOf (bits 47 0 p.addr) = p.addr % 2 ^ 48 / 64 := by simp [lineOf, bits]
  simp only [exec_remoteCompletion, execRemoteCompletion, remote_lone h hspace, dropPend_lone h, State.keptLine, hnode, hline]

variable (hid : (s.team p.tkey).map (·.teamId) = some p.teamId)
include hid

theorem remoteCompletion_refused : exec (.remoteCompletion p.id .refused) s =
    .next (s.noPend.trapError p.tkey p.path .protection p.lane (.ofNat 64 (3 * 2 ^ 60 + p.addr))) := by
  simp only [exec_remoteCompletion, execRemoteCompletion, remote_lone h hspace, dropPend_lone h]
  exact congrArg _ (trapAccess_resident (s := s.noPend) hid _)

theorem remoteTimeout_traps : exec (.remoteTimeout p.id) s =
    .next (s.noPend.trapError p.tkey p.path .uncorrectable p.lane (.ofNat 64 (3 * 2 ^ 60 + p.addr))) := by
  simp only [exec_remoteTimeout, execRemoteTimeout, remote_lone h hspace, dropPend_lone h]
  exact congrArg _ (trapAccess_resident (s := s.noPend) hid _)

end Reply

/-- R43, R45, R47: what a reply makes of the access that it answers. -/
theorem remoteRequester : Says.RemoteRequester := by
  refine ⟨fun s id r h => ⟨?_, ?_⟩, fun s p tm q h hspace hc htm htid hq hwf => ?_⟩
  · simp only [exec_remoteCompletion, execRemoteCompletion, remote_none h]
  · simp only [exec_remoteTimeout, execRemoteTimeout, remote_none h]
  · have hid : (s.team p.tkey).map (·.teamId) = some p.teamId := by rw [htm, Option.map_some, htid]
    have hpath : s.path p.tkey p.path = some q := by rw [State.path, htm, Option.bind_some, hq]
    refine ⟨remoteCompletion_refused h hspace hid, remoteTimeout_traps h hspace hid, fun _ => ?_, fun sd n hd hn h1 h2 _ =>
      ⟨fun b hb => ?_, fun b T _ _ => ?_⟩⟩
    · obtain ⟨ts, his⟩ := finishAccess_is s.noPend p
      obtain ⟨hpath', hmem⟩ := finishAccess_scalar (s := s.noPend) hid hc
      have hr := hpath'.trans (congrArg (Option.map _) hpath)
      exact ⟨_, _, remoteCompletion_ack h hspace, ⟨⟨congrArg Memory.bytes hmem, congrArg Memory.host hmem⟩,
        congrArg (·.eng.pend) his, hr, rfl, rfl⟩, rfl⟩
    · obtain ⟨hmem, heng, hfab, r, hr, hspc, hpend, hregs⟩ := landAccess_lands (s := s.noPend) hd hc hid hpath hwf h1 h2 b
      rw [List.take_of_length_le hb.le] at hregs
      exact ⟨_, r, remoteCompletion_data h hspace b, ⟨⟨congrArg Memory.bytes hmem, congrArg Memory.host hmem⟩,
        congrArg Engines.pend heng, hr, hspc, hpend⟩, hfab, hregs⟩
    · obtain ⟨⟨hbytes, hhost⟩, hnone, hteams, hleased⟩ := keptLine_frame s p b T
      have hid' : ((s.keptLine p b T).team p.tkey).map (·.teamId) = some p.teamId := by rw [State.team, hteams]; exact hid
      have hpath' : (s.keptLine p b T).path p.tkey p.path = some q := by rw [State.path, State.team, hteams]; exact hpath
      obtain ⟨hmem, heng, hfab, r, hr, hspc, hpend, hregs⟩ := landAccess_lands hd hc hid' hpath' hwf h1 h2
        ((b.drop (p.addr % 64)).take p.size)
      rw [hn, List.take_take, Nat.min_self] at hregs
      refine ⟨_, r, remoteCompletion_lease h hspace b T, ⟨⟨?_, ?_⟩, ?_, hr, hspc, hpend⟩, hregs, _,
        (congrArg (·.leased.head?) hfab).trans hleased, rfl, rfl, rfl, rfl⟩
      · rw [hmem, hbytes]
      · rw [hmem, hhost]
      · rw [heng, hnone]

/-- Settles O48, from the owner's side and the requester's. -/
theorem remoteAccesses : Obligations.RemoteAccesses := ⟨remoteOwner, remoteRequester⟩

end Sys2Proof.Machine
end

section
/-! SUPPORT. Words put together again from their fields, and decoding and encoding as inverses (R55, R263, R265, R284 to R290). -/
namespace Sys2Proof.Laws

/-! ## Encoding what a word decodes to -/

/-- Two fields of a word that lie side by side are one field. -/
theorem field_append_field {w : Nat} (x : BitVec w) {lo hi m n : Nat} (h : hi = lo + n) :
    field x hi m ++ field x lo n = field x lo (m + n) := by
  subst h
  apply BitVec.eq_of_toNat_eq
  rw [append_toNat, field_toNat, field_toNat, field_toNat, Nat.pow_add, ← Nat.div_div_eq_div_mul, Nat.add_comm m n, Nat.pow_add,
    Nat.mod_mul, Nat.add_comm, Nat.mul_comm]

/-- What is found in a table at a code is listed there. -/
theorem mem_of_atCode {α : Type} {k : Nat} {t : List (Nat × α)} {c : α} (h : atCode k t = some c) : (k, c) ∈ t := by
  obtain ⟨⟨k', c'⟩, hfind, rfl⟩ := Option.map_eq_some_iff.1 h
  have hk : k' = k := by simpa using List.find?_some hfind
  exact hk ▸ List.mem_of_find?_eq_some hfind

/-- An instruction read from a table encodes to a word when each entry of the table at its code does, and what stands for no entry
does. -/
theorem encode_atCode {α : Type} {k : Nat} {t : List (Nat × α)} {g : α → Instr} {bad : Instr} {e : Encoded}
    (hentry : ∀ c, (k, c) ∈ t → encode (g c) = some e) (hbad : encode bad = some e) :
    encode (((atCode k t).map g).getD bad) = some e := by
  cases h : atCode k t with
  | none => exact hbad
  | some c => exact hentry c (mem_of_atCode h)

theorem encode_intTable : ∀ e ∈ intTable, ∀ d a b, encode (e.2 d a b) = some (encodeSR 0x01#7 (.ofNat 7 e.1) d a b) := by
  intro e he; fin_cases he <;> exact fun _ _ _ => rfl

theorem encode_systemTable : ∀ e ∈ systemTable, ∀ d a b, encode (e.2 d a b) = some (encodeSR 0x30#7 (.ofNat 7 e.1) d a b) := by
  intro e he; fin_cases he <;> exact fun _ _ _ => rfl

theorem encode_treeTable : ∀ e ∈ treeTable, ∀ d a b, encode (e.2 d a b) = some (encodeSR 0x31#7 (.ofNat 7 e.1) d a b) := by
  intro e he; fin_cases he <;> exact fun _ _ _ => rfl

theorem encode_siTable : ∀ e ∈ siTable, ∀ d a imm, encode (e.2 d a imm) = some (encodeSI (.ofNat 7 e.1) d a imm) := by
  intro e he; fin_cases he <;> exact fun _ _ _ => rfl

theorem encode_sbTable : ∀ e ∈ sbTable, ∀ d a imm, encode (e.2 d a imm) = some (encodeSI (.ofNat 7 e.1) d a imm) := by
  intro e he; fin_cases he <;> exact fun _ _ _ => rfl

theorem encode_suTable : ∀ e ∈ suTable, ∀ d imm, encode (e.2 d imm) = some (encodeSU (.ofNat 7 e.1) d imm) := by
  intro e he; fin_cases he <;> exact fun _ _ => rfl

theorem encode_sjTable : ∀ e ∈ sjTable, ∀ off, encode (e.2 off) = some (encodeSJ (.ofNat 7 e.1) off) := by
  intro e he; fin_cases he <;> exact fun _ => rfl

theorem encode_amoTable : ∀ e ∈ amoTable, ∀ ord scp wd d a b,
    encode (e.2 ord scp wd d a b) = some (encodeAmo (.ofNat 4 e.1) ord scp wd d a b) := by
  intro e he; fin_cases he <;> exact fun _ _ _ _ _ _ => rfl

theorem encode_laneTable : ∀ e ∈ laneTable, ∀ f, encode (e.2 f) = some (encodeLane (.ofNat 10 e.1) f) := by
  intro e he; fin_cases he <;> exact fun _ => rfl

/-! ## The forms of a scalar word -/

section Scalar

variable (w : BitVec 32)

/-- The SR word of a word's fields is the word. -/
theorem encodeSR_fields : encodeSR (field w 0 7) (field w 25 7) (field w 7 6) (field w 13 6) (field w 19 6) = .scalar w := by
  simp only [encodeSR, field_append_field]
  exact congrArg _ (field_whole w)

theorem encodeSI_fields : encodeSI (field w 0 7) (field w 7 6) (field w 13 6) (field w 19 13) = .scalar w := by
  simp only [encodeSI, field_append_field]
  exact congrArg _ (field_whole w)

theorem encodeSU_fields : encodeSU (field w 0 7) (field w 7 6) (field w 13 19) = .scalar w := by
  simp only [encodeSU, field_append_field]
  exact congrArg _ (field_whole w)

theorem encodeSJ_fields : encodeSJ (field w 0 7) (field w 7 25) = .scalar w := by
  simp only [encodeSJ, field_append_field]
  exact congrArg _ (field_whole w)

theorem split_fields {op : BitVec 7} (h : field w 0 7 = op) : field w 29 3 ++ field w 18 11 ++ field w 7 11 ++ op = w := by
  subst h
  simp only [field_append_field]
  exact field_whole w

/-- The parts of LD and ST. -/
theorem access_fields {op : BitVec 7} (h : field w 0 7 = op) : field w 30 2 ++ field w 28 2 ++ field w 27 1 ++ field w 25 2 ++
    field w 24 1 ++ field w 19 5 ++ field w 13 6 ++ field w 7 6 ++ op = w := by
  subst h
  simp only [field_append_field]
  exact field_whole w

/-- An atomic's word has 9 in bits 6 to 2 of its opcode, above the order. -/
theorem encodeAmo_fields (h : 0x24 ≤ (field w 0 7).toNat ∧ (field w 0 7).toNat ≤ 0x27) :
    encodeAmo (field w 28 4) (field w 0 2) (field w 26 2) (field w 25 1) (field w 7 6) (field w 13 6) (field w 19 6) = .scalar w := by
  have h5 : 0x09#5 = field w 2 5 := by
    apply BitVec.eq_of_toNat_eq
    rw [field_toNat] at h ⊢
    have : (0x09#5).toNat = 9 := rfl
    omega
  simp only [encodeAmo, h5, field_append_field]
  exact congrArg _ (field_whole w)

end Scalar

/-- A field of a word is the number that it holds. -/
theorem ofNat_field {w : Nat} (x : BitVec w) (lo n : Nat) : BitVec.ofNat n (field x lo n).toNat = field x lo n :=
  (BitVec.ofNat_toNat _ _).trans (BitVec.setWidth_eq _)

/-- A field that holds a number is that number. -/
theorem field_eq_ofNat {w lo n k : Nat} {x : BitVec w} (h : (field x lo n).toNat = k) : field x lo n = .ofNat n k := by
  rw [← h, ofNat_field]

/-- Either branch of a choice encodes to the word. -/
theorem encode_ite {p : Prop} [Decidable p] {i j : Instr} {e : Encoded} (hi : p → encode i = some e) (hj : ¬ p → encode j = some e) :
    encode (if p then i else j) = some e := by
  split
  · next h => exact hi h
  · next h => exact hj h

/-- Encoding what a scalar word decodes to gives back the word: by the branches of the decoder. -/
theorem encode_decodeScalar (w : BitVec 32) : encode (decodeScalar w) = some (.scalar w) := by
  have hSR := encodeSR_fields w
  have hbad : encode (.unassignedEncoding (.scalar w)) = some (.scalar w) := rfl
  unfold decodeScalar
  dsimp only
  refine encode_ite (fun h => encode_atCode (fun c hc => (encode_intTable _ hc _ _ _).trans ?_) hbad) fun _ => ?_
  · rw [← hSR, ofNat_field, field_eq_ofNat h]
  refine encode_ite (fun h => encode_atCode (fun c hc => (encode_systemTable _ hc _ _ _).trans ?_) hbad) fun _ => ?_
  · rw [← hSR, ofNat_field, field_eq_ofNat h]
  refine encode_ite (fun h => encode_atCode (fun c hc => (encode_treeTable _ hc _ _ _).trans ?_) hbad) fun _ => ?_
  · rw [← hSR, ofNat_field, field_eq_ofNat h]
  refine encode_ite (fun h => ?_) fun _ => encode_ite (fun h => ?_) fun _ => encode_ite (fun h => ?_) fun _ => ?_
  · exact congrArg (some ∘ Encoded.scalar) (split_fields w (field_eq_ofNat h))
  · exact congrArg (some ∘ Encoded.scalar) (access_fields w (field_eq_ofNat h))
  · exact congrArg (some ∘ Encoded.scalar) (access_fields w (field_eq_ofNat h))
  refine encode_ite (fun h => encode_atCode (fun c hc => (encode_amoTable _ hc _ _ _ _ _ _).trans ?_) hbad) fun _ => ?_
  · rw [ofNat_field, encodeAmo_fields w h]
  refine encode_ite (fun h => ?_) fun _ => encode_ite (fun h => ?_) fun _ => ?_
  · rw [← hSR, field_eq_ofNat h]; rfl
  · rw [← hSR, field_eq_ofNat h]; rfl
  refine encode_ite (fun h => encode_ite (fun h7 => ?_) fun _ => hbad) fun _ =>
    encode_ite (fun h => encode_ite (fun h7 => ?_) fun _ => hbad) fun _ => ?_
  · rw [← hSR, field_eq_ofNat h, field_eq_ofNat h7]; rfl
  · rw [← hSR, field_eq_ofNat h, field_eq_ofNat h7]; rfl
  refine encode_atCode (fun c hc => (encode_siTable _ hc _ _ _).trans ?_) <|
    encode_atCode (fun c hc => (encode_sbTable _ hc _ _ _).trans ?_) <|
    encode_atCode (fun c hc => (encode_suTable _ hc _ _).trans ?_) <|
    encode_atCode (fun c hc => (encode_sjTable _ hc _).trans ?_) hbad
  · rw [ofNat_field, encodeSI_fields]
  · rw [ofNat_field, encodeSI_fields]
  · rw [ofNat_field, encodeSU_fields]
  · rw [ofNat_field, encodeSJ_fields]

/-! ## Lane words and command words -/

theorem encode_decodeLane (w : BitVec 96) : encode (decodeLane w) = some (.lane w) := by
  refine encode_atCode (fun c hc => (encode_laneTable _ hc _).trans ?_) rfl
  simp only [encodeLane, laneFields, laneOpc, ofNat_field, field_append_field]
  exact congrArg (some ∘ Encoded.lane) (field_whole w)

/-- The command word of a word's fields is the word, where its major opcode is custom-0. -/
theorem encodeCommand_fields {w : BitVec 32} (h : field w 0 7 = 0x0B#7) :
    encodeCommand (field w 25 7) (field w 12 3) (field w 7 5) (field w 15 5) (field w 20 5) = .command w := by
  rw [encodeCommand, ← h]
  simp only [field_append_field]
  exact congrArg _ (field_whole w)

/-- SWAIT has its condition in the low bits of funct7, whose other bits are zero. -/
theorem swait_fields {w : BitVec 32} (h : field w 0 7 = 0x0B#7) (h3 : field w 12 3 = 2#3) (h7 : (field w 25 7).toNat < 4) :
    0#4 ++ field w 25 3 ++ field w 20 5 ++ field w 15 5 ++ 2#3 ++ field w 7 5 ++ 0x0B#7 = w := by
  have hz : 0#4 = field w 28 4 := by
    apply BitVec.eq_of_toNat_eq
    rw [field_toNat] at h7 ⊢
    have : (0#4).toNat = 0 := rfl
    omega
  rw [hz, ← h3, ← h]
  simp only [field_append_field]
  exact field_whole w

theorem encode_decodeCommand {w : BitVec 32} {i : Instr} (hi : decodeCommand w = some i) : encode i = some (.command w) := by
  unfold decodeCommand at hi
  dsimp only at hi
  split_ifs at hi with h h3 h3 h3 h3 h3
  all_goals
    cases hi
    have h := field_eq_ofNat (not_not.1 h)
  · rw [← encodeCommand_fields h, field_eq_ofNat h3.1, field_eq_ofNat h3.2]; rfl
  · rw [← encodeCommand_fields h, field_eq_ofNat h3.1, field_eq_ofNat h3.2]; rfl
  · rw [← encodeCommand_fields h, field_eq_ofNat h3.1, field_eq_ofNat h3.2]; rfl
  · exact congrArg (some ∘ Encoded.command) (swait_fields h (field_eq_ofNat h3.1) h3.2)
  · rw [← encodeCommand_fields h, field_eq_ofNat h3.1, field_eq_ofNat h3.2]; rfl
  · rfl

/-! ## Decoding what an instruction encodes to -/

/-- Decoding the word of a well-formed instruction gives it back: by the form of its word. An event of the device has none. -/
theorem encodeDecode_statement (i : Instr) : EncodeDecode.Statement i := by
  cases i with
  | add | sub | and | or | xor | andn | shl | shr | sar | rol | ror | slt | sltu | seq | min | max | minu | maxu
    | mul | mulh | mulhu | div | divu | rem | remu | clz | ctz | popc | sext =>
    exact statement_some rfl (decode_int _ _ _ _ _ rfl)
  | join | spawn | evpop | setfmt | vcommit | ringadv | endPath | trap | eret | brk | prog =>
    exact statement_some rfl (decode_system _ _ _ _ _ rfl)
  | tnopen | tnfork | tnappend | tnprune | tncommit | tnretire | tnbind | tnstat | tntok =>
    exact statement_some rfl (decode_tree _ _ _ _ _ rfl)
  | addi | andi | ori | xori | shli | shri | sari | slti | sltiu | jr | waitf | crr | crw =>
    exact statement_some rfl (decode_si _ _ _ _ _ rfl rfl)
  | beq | bne | blt | bge | bltu | bgeu => exact statement_some rfl (decode_sb _ _ _ _ _ rfl rfl rfl)
  | lui | addpc => exact statement_some rfl (decode_su _ _ _ _ rfl rfl rfl rfl)
  | j | call | lc => exact statement_some rfl (decode_sj _ _ _ rfl rfl rfl rfl rfl)
  | amoadd | amoand | amoor | amoxor | amomin | amomax | amominu | amomaxu | amoswap | amocas =>
    exact statement_some rfl (decode_amo _ _ _ _ _ _ _ _ rfl)
  | vadd | vsub | vmul | vmulh | vmad | vdiv | vrem | vmin | vmax | vabs | vneg | vadds | vsubs | vand | vor | vxor
    | vnot | vandn | vshl | vshr | vrol | vclz | vpopc | vbrev | vbfx | vmov | vsel | vcmpeq | vcmpne | vcmplt
    | vcmple | vcmpgt | vcmpge | vfadd | vfsub | vfmul | vfma | vfmin | vfmax | vfabs | vfneg | vfdiv | vfsqrt
    | vfrsq | vfexp2 | vflog2 | vfcmpeq | vfcmpne | vfcmplt | vfcmple | vfcmpgt | vfcmpge | vcvt | vld | vst | vld2
    | vst2 | vld4 | vst4 | vaadd | vaand | vaor | vaxor | vamin | vamax | vaswap | vacas | vlaor | vlaand | vlaxor
    | vspill | vfill | bwait | cpk | coll | vbar | vnbar | vfence | binit | badd | mzero | mloop | mloopp | mrd | mwr
    | mstat | qld | qst | qmov | qtrn | qadd | qscl | qmul | qmad | qchol | qlup | qsolc | qsoll | qdet | vballot
    | vprefix | vshfli | vshflx | vshflu | vshfld | vlaneid | vpand | vpor | vpxor | vpandn | vxset | vxadd | vxmov
    | tnmask => exact statement_some rfl (decode_lane _ _ _ rfl)
  | split => exact EncodeDecode.split _ _ _
  | ld => exact EncodeDecode.ld _ _ _ _ _ _ _ _
  | st => exact EncodeDecode.st _ _ _ _ _ _ _ _
  | fence => exact EncodeDecode.fence _ _ _ _
  | tfence => exact EncodeDecode.tfence _ _ _ _
  | tshoot => exact EncodeDecode.tshoot _ _ _
  | tsync => exact EncodeDecode.tsync _ _ _
  | rfetch => exact EncodeDecode.rfetch _ _ _
  | bfxu => exact EncodeDecode.bfxu _ _ _
  | bfxs => exact EncodeDecode.bfxs _ _ _
  | swait => exact EncodeDecode.swait _ _ _ _
  | disp => exact EncodeDecode.disp _ _ _
  | unassignedEncoding => exact EncodeDecode.unassignedEncoding _
  | illegalInstruction => exact EncodeDecode.illegalInstruction _
  | _ => exact statement_none rfl

/-- Settles O56: one direction by the form of the instruction, the other by the branches of the three decoders. -/
theorem decodeEncode : Obligations.DecodeEncode :=
  ⟨encodeDecode_statement, encode_decodeScalar, encode_decodeLane, fun _ _ => encode_decodeCommand⟩

/-- Settles O55: each word is the encoding of its instruction, by the form of the word. -/
theorem decodeWords : Obligations.DecodeWords :=
  ⟨Option.some.inj (decode_tree 0x00#7 10 4 5 _ rfl), Option.some.inj (decode_tree 0x01#7 0 4 6 _ rfl),
    Option.some.inj (decode_tree 0x07#7 9 7 0 _ rfl), Option.some.inj (decode_system 0x07#7 0 5 0 _ rfl),
    Option.some.inj (decode_system 0x0A#7 0 3 0 _ rfl), Option.some.inj (decode_int 0x1C#7 0 0 0 _ rfl),
    Option.some.inj (EncodeDecode.unassignedEncoding (.scalar 0x3A000001#32) rfl _ rfl),
    Option.some.inj (decode_lane 0x000#10
      { md := 0, vd := 4, gn := 0, gp := 0, ty := 0, bsel := 0, ss := 0, vc := 0, vb := 2, va := 1, imm := 0 } .vadd rfl),
    Option.some.inj (decode_lane 0x281#10
      { md := 0, vd := 0, gn := 0, gp := 0, ty := 0, bsel := 0, ss := 6, vc := 0, vb := 0, va := 0, imm := 0x100 } .cpk rfl),
    Option.some.inj (EncodeDecode.unassignedEncoding (.lane 0x50#96) rfl _ rfl),
    EncodeDecode.rfetch 10 11 12 rfl _ rfl, EncodeDecode.illegalInstruction 0xFE00000B#32 rfl _ rfl⟩

end Sys2Proof.Laws
end

section
/-! SUPPORT. What the operations on a queue processor do: a completed instruction, an exception, and the view of its accesses (R54 to
R56). -/
namespace Sys2Proof.Machine

/-! ## Fields of a register -/

/-- A register with a field replaced: what is above the field, the field, and what is below it. -/
theorem putBits_toNat (w : Word64) {lo n : Nat} (hn : 0 < n) (h : lo + n ≤ 64) (v : Nat) :
    (putBits w lo n v).toNat = 2 ^ lo * (2 ^ n * (w.toNat / 2 ^ lo / 2 ^ n) + v % 2 ^ n) + w.toNat % 2 ^ lo := by
  have hlow := Nat.mod_lt w.toNat (Nat.two_pow_pos lo)
  have hlt : 2 ^ lo * (2 ^ n * (w.toNat / 2 ^ lo / 2 ^ n) + v % 2 ^ n) + w.toNat % 2 ^ lo < 2 ^ 64 := by
    have hhigh : w.toNat / 2 ^ lo / 2 ^ n < 2 ^ (64 - (lo + n)) := by
      rw [Nat.div_div_eq_div_mul, ← Nat.pow_add]
      exact Nat.div_lt_of_lt_mul (by rw [← Nat.pow_add, Nat.add_sub_cancel' h]; exact w.isLt)
    have hfield : 2 ^ n * (w.toNat / 2 ^ lo / 2 ^ n) + v % 2 ^ n + 1 ≤ 2 ^ n * 2 ^ (64 - (lo + n)) := by
      have := Nat.mod_lt v (Nat.two_pow_pos n)
      have := Nat.mul_le_mul_left (2 ^ n) (Nat.succ_le_of_lt hhigh)
      rw [Nat.succ_eq_add_one, Nat.mul_add, Nat.mul_one] at this
      omega
    have := Nat.mul_le_mul_left (2 ^ lo) hfield
    rw [← Nat.mul_assoc, ← Nat.pow_add, ← Nat.pow_add, Nat.add_sub_cancel' h, Nat.mul_add, Nat.mul_one] at this
    omega
  have hx := Nat.div_add_mod w.toNat (2 ^ lo)
  have hq := congrArg (2 ^ lo * ·) (Nat.div_add_mod (w.toNat / 2 ^ lo) (2 ^ n))
  simp only [Nat.mul_add] at hq hlt ⊢
  unfold putBits bits
  dsimp only
  rw [show lo + n - 1 + 1 - lo = n by omega, BitVec.toNat_ofNat, Nat.mul_comm _ (2 ^ lo), Nat.mul_comm _ (2 ^ lo), Nat.mod_eq_of_lt]
  · omega
  · omega

/-- The bits of a register with a field replaced. -/
theorem putBits_getLsbD (w : Word64) {lo n : Nat} (hn : 0 < n) (h : lo + n ≤ 64) (v i : Nat) :
    (putBits w lo n v).getLsbD i = if lo ≤ i ∧ i < lo + n then v.testBit (i - lo) else w.getLsbD i := by
  have hw : w.toNat = 2 ^ lo * (2 ^ n * (w.toNat / 2 ^ lo / 2 ^ n) + w.toNat / 2 ^ lo % 2 ^ n) + w.toNat % 2 ^ lo := by
    rw [Nat.div_add_mod, Nat.div_add_mod]
  have hlow := Nat.mod_lt w.toNat (Nat.two_pow_pos lo)
  have hold : ∀ q, (2 ^ n * q + v % 2 ^ n).testBit (i - lo) = if i - lo < n then v.testBit (i - lo) else q.testBit (i - lo - n) := by
    intro q
    rw [Nat.testBit_two_pow_mul_add _ (Nat.mod_lt _ (Nat.two_pow_pos n)), Nat.testBit_mod_two_pow]
    split <;> simp [*]
  have hnew : w.getLsbD i = if i < lo then (w.toNat % 2 ^ lo).testBit i else
      if i - lo < n then (w.toNat / 2 ^ lo % 2 ^ n).testBit (i - lo) else (w.toNat / 2 ^ lo / 2 ^ n).testBit (i - lo - n) := by
    rw [BitVec.getLsbD, ← Nat.testBit_two_pow_mul_add _ (Nat.mod_lt _ (Nat.two_pow_pos n)),
      ← Nat.testBit_two_pow_mul_add _ hlow, ← hw]
  rw [BitVec.getLsbD, putBits_toNat w hn h, Nat.testBit_two_pow_mul_add _ hlow, hold, hnew]
  by_cases hlo : i < lo
  · rw [if_pos hlo, if_pos hlo, if_neg (by omega)]
  · rw [if_neg hlo, if_neg hlo]
    by_cases hi : i - lo < n
    · rw [if_pos hi, if_pos (by omega)]
    · rw [if_neg hi, if_neg (by omega), if_neg hi]

/-- The field that is put in a register. -/
theorem putBits_field (w : Word64) {lo n : Nat} (hn : 0 < n) (h : lo + n ≤ 64) (v : Nat) :
    (putBits w lo n v).toNat / 2 ^ lo % 2 ^ n = v % 2 ^ n := by
  rw [putBits_toNat w hn h, Nat.mul_add_div (Nat.two_pow_pos lo), Nat.div_eq_of_lt (Nat.mod_lt _ (Nat.two_pow_pos lo)), Nat.add_zero,
    Nat.mul_add_mod, Nat.mod_mod]

/-- The base of a vector register. -/
theorem base_toNat (v : Word64) : (v &&& ~~~3#64).toNat = v.toNat / 4 * 4 := by
  have h : v &&& ~~~3#64 = v >>> 2 <<< 2 := by
    refine BitVec.eq_of_getLsbD_eq fun i hi => ?_
    have h3 : (3#64).getLsbD i = decide (i < 2) := Nat.testBit_two_pow_sub_one 2 i
    rw [BitVec.getLsbD_and, BitVec.getLsbD_not, BitVec.getLsbD_shiftLeft, BitVec.getLsbD_ushiftRight, h3]
    by_cases h2 : i < 2
    · simp [h2]
    · simp [h2, hi, Nat.add_sub_cancel' (Nat.not_lt.1 h2)]
  rw [h]
  have := v.isLt
  simp only [BitVec.toNat_shiftLeft, BitVec.toNat_ushiftRight, Nat.shiftLeft_eq, Nat.shiftRight_eq_div_pow]
  omega

/-! ## Registers of a queue processor -/

theorem reg5_toNat_inj {r q : Reg5} : r.toNat = q.toNat ↔ r = q := ⟨BitVec.eq_of_toNat_eq, congrArg _⟩

/-- A write of a register changes the registers alone. -/
theorem setR_is (k : Hart) (rd : Reg5) (v : Word64) : ∃ x, k.setR rd v = { k with x := x } := by
  unfold Hart.setR; split
  · exact ⟨k.x, rfl⟩
  · exact ⟨_, rfl⟩

/-- A register read after a write of one. -/
theorem setR_r {k : Hart} (hx : Tab.wf 0 k.x = true) (rd r : Reg5) (v : Word64) :
    (k.setR rd v).r r = if r = rd ∧ r ≠ 0 then v else k.r r := by
  unfold Hart.setR Hart.r
  by_cases hr : r = 0
  · rw [if_pos hr, if_pos hr, if_neg (fun h => h.2 hr)]
  rw [if_neg hr, if_neg hr]
  by_cases hd : rd = 0
  · rw [if_pos hd, if_neg (fun h => hr (h.1.trans hd))]
  · rw [if_neg hd, Tab.get_set 0 k.x (Tab.wf_rising hx)]
    simp only [reg5_toNat_inj, ne_eq, hr, not_false_eq_true, and_true]

/-- An instruction that retires changes minstret alone. -/
theorem retire_is (k : Hart) : ∃ c, k.retire = { k with csr := c } := by
  unfold Hart.retire; split
  · exact ⟨k.csr, rfl⟩
  · exact ⟨_, rfl⟩

theorem retire_csr {k : Hart} (hc : Tab.wf 0 k.csr = true) (n : Nat) : Tab.get 0 k.retire.csr n =
    if n = 0xB02 ∧ (Tab.get 0 k.csr 0x320).getLsbD 2 = false then Tab.get 0 k.csr n + 1 else Tab.get 0 k.csr n := by
  unfold Hart.retire
  by_cases hinhibit : (Tab.get 0 k.csr 0x320).getLsbD 2 = true
  · rw [if_pos hinhibit, if_neg (fun h => Bool.false_ne_true (h.2.symm.trans hinhibit))]
  · rw [if_neg hinhibit, Tab.get_set 0 k.csr (Tab.wf_rising hc)]
    by_cases hn : n = 0xB02
    · subst hn
      rw [if_pos rfl, if_pos ⟨rfl, Bool.eq_false_of_not_eq_true hinhibit⟩]
    · rw [if_neg hn, if_neg (fun h => hn h.1)]

/-- A command instruction that completes writes rd and goes on (R55). -/
theorem complete_wrote {k : Hart} (hx : Tab.wf 0 k.x = true) (hc : Tab.wf 0 k.csr = true) (rd : Reg5) (v : Word64) :
    hartWrote k (k.complete rd v) rd v := by
  obtain ⟨x, hset⟩ := setR_is k rd v
  have hr := setR_r hx rd (v := v)
  obtain ⟨c, hretire⟩ := retire_is { k with x := x, pc := k.pc + 4, swait := none }
  have hcsr := retire_csr (k := { k with x := x, pc := k.pc + 4, swait := none }) hc
  have hdone : k.complete rd v = { k with x := x, pc := k.pc + 4, swait := none, csr := c } := by
    rw [Hart.complete, hset, hretire]
  rw [hretire] at hcsr
  rw [hset] at hr
  rw [hdone]
  exact ⟨rfl, hr, hcsr⟩

/-! ## Exceptions -/

/-- The bits of a register with one bit replaced. -/
theorem putBit_getLsbD (w : Word64) {lo : Nat} (h : lo < 64) (v i : Nat) :
    (putBits w lo 1 v).getLsbD i = if i = lo then v.testBit 0 else w.getLsbD i := by
  rw [putBits_getLsbD w Nat.one_pos h]
  by_cases hi : i = lo
  · subst hi; rw [if_pos ⟨Nat.le_refl i, Nat.lt_succ_self i⟩, if_pos rfl, Nat.sub_self]
  · rw [if_neg hi, if_neg (by omega)]

/-- A bit that is kept in another place. -/
theorem bits_testBit_zero (w : Word64) (n : Nat) : (bits n n w.toNat).testBit 0 = w.getLsbD n := by
  rw [bits_testBit, BitVec.getLsbD, Nat.add_sub_cancel_left, decide_eq_true Nat.one_pos, Bool.true_and, Nat.add_zero]

/-- An exception that machine mode takes (R56). -/
theorem trapM_raised (k : Hart) (cause : Nat) (tval : Word64) :
    raisedToMachine k (k.trapM false cause tval) cause tval := by
  have hbit : ∀ i, (k.trapM false cause tval).mstatus.getLsbD i =
      if 11 ≤ i ∧ i < 13 then k.mode.code.testBit (i - 11) else if i = 3 then false
      else if i = 7 then k.mstatus.getLsbD 3 else k.mstatus.getLsbD i := fun i => by
    rw [Hart.trapM, putBits_getLsbD _ (by decide) (by decide), putBit_getLsbD _ (by decide), putBit_getLsbD _ (by decide),
      bits_testBit_zero, Nat.zero_testBit]
  have hmode : k.mode.code % 2 ^ 2 = k.mode.code := by cases k.mode <;> rfl
  refine ⟨rfl, rfl, ?_, rfl, rfl, base_toNat _, by rw [hbit]; rfl, by rw [hbit]; rfl, ?_, fun n h3 h7 h11 h12 => ?_⟩
  · exact congrArg (BitVec.ofNat 64) (Nat.zero_add cause)
  · exact (putBits_field _ (by decide) (by decide) _).trans hmode
  · rw [hbit, if_neg (by omega), if_neg h3, if_neg h7]

/-- An exception that medeleg gives to supervisor mode (R56). -/
theorem trapS_raised {k : Hart} (hm : k.mode ≠ .machine) (hc : Tab.wf 0 k.csr = true) (cause : Nat) (tval : Word64) :
    raisedToSupervisor k (k.trapS false cause tval) cause tval := by
  have hbit : ∀ i, (k.trapS false cause tval).mstatus.getLsbD i =
      if i = 8 then k.mode.code.testBit 0 else if i = 1 then false
      else if i = 5 then k.mstatus.getLsbD 1 else k.mstatus.getLsbD i := fun i => by
    rw [Hart.trapS, putBit_getLsbD _ (by decide), putBit_getLsbD _ (by decide), putBit_getLsbD _ (by decide),
      bits_testBit_zero, Nat.zero_testBit]
  have hmode : k.mode.code.testBit 0 = decide (k.mode = .supervisor) := by
    cases h : k.mode with
    | machine => exact absurd h hm
    | _ => rfl
  refine ⟨rfl, rfl, base_toNat _, fun n => ?_, by rw [hbit]; rfl, by rw [hbit]; rfl, by rw [hbit]; exact hmode,
    fun n h1 h5 h8 => by rw [hbit, if_neg h8, if_neg h1, if_neg h5]⟩
  have h141 := Tab.wf_set 0 k.csr 0x141 k.pc hc
  have h142 := Tab.wf_set 0 _ 0x142 (BitVec.ofNat 64 (0 + cause)) h141
  show Tab.get 0 (Tab.set 0 0x143 tval (Tab.set 0 0x142 (BitVec.ofNat 64 (0 + cause)) (Tab.set 0 0x141 k.pc k.csr))) n = _
  rw [Tab.get_set 0 _ (Tab.wf_rising h142), Tab.get_set 0 _ (Tab.wf_rising h141), Tab.get_set 0 _ (Tab.wf_rising hc), Nat.zero_add]
  by_cases h3 : n = 0x143
  · subst h3; rfl
  by_cases h2 : n = 0x142
  · subst h2; rfl
  simp only [if_neg h3, if_neg h2]

/-- A synchronous exception is taken in machine mode, or in supervisor mode where medeleg says so (R55, R56). -/
theorem exception_raised {k : Hart} (hc : Tab.wf 0 k.csr = true) (cause : Nat) (tval : Word64) :
    hartRaised k (k.exception cause tval) cause tval := by
  unfold hartRaised Hart.exception Hart.trap Hart.delegated
  by_cases h : k.mode ≠ .machine ∧ (Tab.get 0 k.csr 0x302).toNat.testBit cause = true
  · have hd : (k.mode != .machine && (Tab.get 0 k.csr 0x302).toNat.testBit cause) = true := by simpa using h
    rw [if_pos h, if_neg Bool.false_ne_true, if_pos hd]
    exact trapS_raised h.1 hc cause tval
  · have hd : ¬ (k.mode != .machine && (Tab.get 0 k.csr 0x302).toNat.testBit cause) = true := by simpa using h
    rw [if_neg h, if_neg Bool.false_ne_true, if_neg hd]
    exact trapM_raised k cause tval

/-! ## The state with a queue processor changed -/

theorem hart_of_find {s : State} {h : Nat} {k : Hart} (hk : AMap.find s.sched.harts h = some k) : s.hart h = k := by
  rw [State.hart, hk, Option.getD_some]

theorem modHart_hart_same (s : State) (h : Nat) (f : Hart → Hart) : (s.modHart h f).hart h = f (s.hart h) := by
  rw [modHart_hart, if_pos rfl]

theorem modHart_becomes (s : State) (h : Nat) (f : Hart → Hart) : hartBecomes s (s.modHart h f) h (f (s.hart h)) :=
  ⟨rfl, rfl, modHart_hart_same s h f, fun j hj => by rw [modHart_hart, if_neg hj]⟩

/-- The exception of a queue processor is all that happens (R56). -/
theorem raises_of {o : Outcome} {s : State} {h : Nat} {k : Hart} {cause : Nat} {tval : Word64}
    (ho : o = .next (hartRaise s h cause tval)) (hk : s.hart h = k) (hc : Tab.wf 0 k.csr = true) :
    ∃ t k', o = .next t ∧ hartBecomes s t h k' ∧ hartRaised k k' cause tval := by
  have hbecomes := modHart_becomes s h (fun k => k.exception cause tval)
  rw [hk] at hbecomes
  exact ⟨_, _, ho, hbecomes, exception_raised hc cause tval⟩

/-- A command instruction completes, and nothing else happens. -/
theorem completes_of {o : Outcome} {s : State} {h : Nat} {k : Hart} {rd : Reg5} {v : Word64} (ho : o = .next (hartDone s h rd v))
    (hk : s.hart h = k) (hx : Tab.wf 0 k.x = true) (hc : Tab.wf 0 k.csr = true) :
    ∃ t k', o = .next t ∧ hartBecomes s t h k' ∧ hartWrote k k' rd v := by
  have hbecomes := modHart_becomes s h (fun k => k.complete rd v)
  rw [hk] at hbecomes
  exact ⟨_, _, ho, hbecomes, complete_wrote hx hc rd v⟩

/-! ## Command instructions -/

theorem commandOp_eq {s : State} {h : Nat} {k : Hart} (hh : s.ctx.hart = h) (hk : AMap.find s.sched.harts h = some k)
    (f : Nat → Hart → State) : commandOp s f =
      .next (if k.mode = .user then hartRaise s h 2 (BitVec.setWidth 64 (s.hartWord h)) else f h k) := by
  rw [commandOp, withHart, hh, hk]

/-- A command instruction in machine or supervisor mode does what it says. -/
theorem commandOp_ready {s : State} {h : Nat} {k : Hart} (hr : hartReady s h k) (f : Nat → Hart → State) :
    commandOp s f = .next (f h k) := by
  obtain ⟨hh, hk, hm, -, -⟩ := hr
  rw [commandOp_eq hh hk, if_neg hm]

/-- In user mode a command instruction is illegal (R55). -/
theorem commandOp_user {s : State} {h : Nat} {k : Hart} (hh : s.ctx.hart = h) (hk : AMap.find s.sched.harts h = some k)
    (hm : k.mode = .user) (hc : Tab.wf 0 k.csr = true) {o : Outcome} (ho : ∃ f, o = commandOp s f) :
    ∃ t k', o = .next t ∧ hartBecomes s t h k' ∧ hartRaised k k' 2 (BitVec.setWidth 64 (s.hartWord h)) := by
  obtain ⟨f, rfl⟩ := ho
  exact raises_of (by rw [commandOp_eq hh hk, if_pos hm]) (hart_of_find hk) hc

/-! ## BFX (R58) -/

theorem bits_low (hi w : Nat) : bits hi 0 w = w % 2 ^ (hi + 1) := by rw [bits, Nat.pow_zero, Nat.div_one]; rfl

/-- The code of a number in two's complement is the word that the number stands for. -/
theorem ofNat_ofSigned (n : Nat) (i : Int) : BitVec.ofNat n (ofSigned n i) = BitVec.ofInt n i := by
  apply BitVec.eq_of_toNat_eq
  rw [BitVec.toNat_ofInt, BitVec.toNat_ofNat, ofSigned, Nat.mod_eq_of_lt]
  have := Nat.two_pow_pos n
  have := Int.emod_lt_of_pos i (b := ((2 ^ n : Nat) : Int)) (by omega)
  omega

/-- BFX takes the field that rs2 names, or raises exception 27 (R58). -/
theorem bfx_eq {s : State} {h : Nat} {k : Hart} (hr : hartReady s h k) (sg : Bool) (rd rs1 rs2 : Reg5) :
    let spec := (k.r rs2).toNat
    let wd := spec / 2 ^ 6 % 2 ^ 7
    let x := (k.r rs1).toNat / 2 ^ (spec % 2 ^ 6) % 2 ^ wd
    bfx sg rd rs1 rs2 s = .next (if 2 ^ 13 ≤ spec ∨ wd = 0 ∨ 64 < spec % 2 ^ 6 + wd then hartRaise s h 27 (k.r rs2)
      else hartDone s h rd (if sg then .ofInt 64 (toSigned wd x) else .ofNat 64 x)) := by
  have hhigh : bits 63 13 (k.r rs2).toNat ≠ 0 ↔ 2 ^ 13 ≤ (k.r rs2).toNat := by
    have := (k.r rs2).isLt
    simp only [bits]; omega
  rw [bfx, commandOp_ready hr]
  simp only [bits_low, hhigh, apply_ite (BitVec.ofNat 64), ofNat_ofSigned]
  rfl

/-- R55, R56, R58: BFX, command instructions in user mode, and words that encode nothing. -/
theorem commandFields : Says.CommandFields := by
  refine ⟨fun s h k rd rs1 rs2 hr => ?_, fun s h k c rd rs1 rs2 hh hk hm hc i hi => ?_, fun s h k x hh hk hc => ?_⟩
  · have hu := bfx_eq hr false rd rs1 rs2
    have hs := bfx_eq hr true rd rs1 rs2
    obtain ⟨-, hk, -, hx, hc⟩ := hr
    have hk := hart_of_find hk
    dsimp only at hu hs ⊢
    refine ⟨fun h13 h1 h64 => ?_, fun hbad i hi => ?_⟩
    · rw [if_neg (by omega)] at hu hs
      exact ⟨completes_of hu hk hx hc, completes_of hs hk hx hc⟩
    · rw [if_pos hbad] at hu hs
      simp only [List.mem_cons, List.not_mem_nil, or_false] at hi
      rcases hi with rfl | rfl
      · exact raises_of hu hk hc
      · exact raises_of hs hk hc
  · simp only [List.mem_cons, List.not_mem_nil, or_false] at hi
    refine commandOp_user hh hk hm hc ?_
    rcases hi with rfl | rfl | rfl | rfl | rfl
    · exact ⟨_, exec_rfetch rd rs1 rs2 s⟩
    · exact ⟨_, (exec_bfxu rd rs1 rs2 s).trans (execBfxu.eq_def rd rs1 rs2 s)⟩
    · exact ⟨_, (exec_bfxs rd rs1 rs2 s).trans (execBfxs.eq_def rd rs1 rs2 s)⟩
    · exact ⟨_, exec_swait c rd rs1 rs2 s⟩
    · exact ⟨_, exec_disp rd rs1 rs2 s⟩
  · exact raises_of (by rw [exec_illegalInstruction, execIllegalInstruction, withHart, hh, hk]) (hart_of_find hk) hc

/-- R55, R58: the codes of BFXU and BFXS. -/
theorem fieldCodes : Says.FieldCodes := fun rd rs1 rs2 =>
  ⟨Laws.EncodeDecode.bfxu rd rs1 rs2 rfl _ rfl, Laws.EncodeDecode.bfxs rd rs1 rs2 rfl _ rfl⟩

/-! ## The view of a queue processor (R54) -/

theorem limit_le (d : Dev) : d.limit ≤ 0x9000000000 := by unfold Dev.limit; split <;> decide

theorem viewOf_low {d : Dev} {a : Nat} (h : a < 2 ^ 62) : viewOf d a = if a < d.limit then .dev a else .bad := by
  have h63 : a.testBit 63 = false := Nat.testBit_lt_two_pow (by omega)
  have h62 : a.testBit 62 = false := Nat.testBit_lt_two_pow h
  rw [viewOf, h63, h62, bits_low 61, Nat.mod_eq_of_lt h]; rfl

theorem viewOf_dev {d : Dev} {a : Nat} (h : a < d.limit) : viewOf d a = .dev a := by
  have := limit_le d
  rw [viewOf_low (by omega), if_pos h]

theorem viewOf_past {d : Dev} {a : Nat} (h : d.limit ≤ a) (h62 : a < 2 ^ 62) : viewOf d a = .bad := by
  rw [viewOf_low h62, if_neg (Nat.not_lt.2 h)]

/-- An address of local SRAM leads there, and no other address does (R54). -/
theorem viewOf_sram_iff (d : Dev) (v : Word64) (off : Nat) : viewOf d v.toNat = .sram off ↔ sramAddr v off := by
  have hv := v.isLt
  constructor
  · intro h
    unfold viewOf at h
    split at h
    · cases h
    · next h63 =>
      split at h
      · next h62 =>
        split at h
        · next hz =>
          rw [Nat.testBit_eq_decide_div_mod_eq, decide_eq_true_eq] at h63 h62
          simp only [bits, ViewTarget.sram.injEq] at h hz
          unfold sramAddr
          omega
        · cases h
      · split at h <;> cases h
  · rintro ⟨h, hoff⟩
    have h63 : v.toNat.testBit 63 = false := Nat.testBit_lt_two_pow (by omega)
    have h62 : v.toNat.testBit 62 = true := by
      rw [h, Nat.testBit_two_pow_add_eq, Nat.testBit_lt_two_pow (by omega)]; rfl
    have hz : bits 61 18 v.toNat = 0 := by simp only [bits]; omega
    have hlow : bits 17 0 v.toNat = off := by simp only [bits]; omega
    rw [viewOf, h63, h62, hz, hlow]; rfl

/-- A read of device memory within its bounds meets no lost line (R54). -/
theorem viewError_dev {s : State} {a n : Nat} (h : a + n ≤ s.dev.limit)
    (hbad : ∀ l ∈ s.mem.badLines, l < lineOf a ∨ lineOf (a + n - 1) < l) : s.viewError (.dev a) n = false := by
  simp only [State.viewError, Bool.or_eq_false_iff, decide_eq_false_iff_not, Nat.not_lt, List.any_eq_false, Bool.and_eq_true,
    decide_eq_true_eq, not_and, Nat.not_le]
  exact ⟨h, fun l hl hle => (hbad l hl).resolve_left (Nat.not_lt.2 hle)⟩

/-- A unit that lies in one line is sound when the line is (R54). -/
theorem viewError_line {s : State} {a n : Nat} (hn : 1 ≤ n) (h : a + n ≤ s.dev.limit) (hfit : a % 64 + n ≤ 64)
    (hbad : s.mem.badLines.contains (a / 64) = false) : s.viewError (.dev a) n = false := by
  refine viewError_dev h fun l hl => ?_
  have hne : l ≠ a / 64 := fun e => by simp [← e, hl] at hbad
  unfold lineOf
  omega

/-- An access to device memory changes no byte (R28, R136). -/
theorem viewTouch_is (s : State) (t : ViewTarget) : ∃ m o, s.viewTouch t = { s with mem := m, out := o } ∧
    m.bytes = s.mem.bytes ∧ m.host = s.mem.host := by
  cases t with
  | dev pa =>
    obtain ⟨l, g, o, h⟩ := obtain_is s pa
    exact ⟨(s.obtain pa).mem.touch pa, o, by rw [State.viewTouch, h], by rw [h]; rfl, by rw [h]; rfl⟩
  | _ => exact ⟨s.mem, s.out, rfl, rfl, rfl⟩

end Sys2Proof.Machine
end

section
/-! SUPPORT. The accesses of a queue processor to device memory, SWAIT, and words of the base set (R54, R59). -/
namespace Sys2Proof.Machine

/-! ## SWAIT (R59) -/

theorem swaitHolds_iff (c : Nat) (v x : Word64) : swaitHolds c v x = true ↔ meetsCondition c v x := by
  unfold swaitHolds meetsCondition
  split_ifs
  · exact beq_iff_eq
  · exact bne_iff_ne
  · exact BitVec.slt_iff_toInt_lt
  · rw [Bool.not_eq_true', ← Bool.not_eq_true, BitVec.slt_iff_toInt_lt, Int.not_lt]

/-- The value of a signal in device memory, as a queue processor or a packet reads it (R59, R69). -/
theorem viewRead_value (s : State) (h a : Nat) : BitVec.ofNat 64 (ofBytes (s.viewRead h (.dev a) 8)) = valueAt s a := by
  rw [State.viewRead, State.readPa_eq]; rfl

section Swait

variable {s : State} {h : Nat} {w : SwaitState} {off : Nat} (ha : w.addr.toNat = off)
  (halign : off % 16 = 0) (hlim : off + 8 ≤ s.dev.limit) (hbad : s.mem.badLines.contains (off / 64) = false)
include ha halign hlim hbad

/-- One read of a signal by SWAIT: it completes once the comparison holds, and keeps the last value read otherwise. -/
theorem swaitRead_dev : swaitRead s h w =
    if swaitHolds w.cond.toNat (valueAt s off) w.cmp then hartDone (s.viewTouch (.dev off)) h w.rd (valueAt s off)
    else (s.viewTouch (.dev off)).modHart h (fun k => { k with swait := some { w with last := valueAt s off } }) := by
  have hview : viewOf s.dev w.addr.toNat = .dev off := by rw [ha]; exact viewOf_dev (by omega)
  have herr : s.viewError (.dev off) 8 = false := viewError_line (by omega) hlim (by omega) hbad
  rw [swaitRead, hview]
  dsimp only
  rw [herr, viewRead_value]
  rfl

theorem swaitRead_completes {k : Hart} (hk : s.hart h = k) (hx : Tab.wf 0 k.x = true) (hc : Tab.wf 0 k.csr = true)
    (hcond : meetsCondition w.cond.toNat (valueAt s off) w.cmp) : memoryKept s (swaitRead s h w) ∧ (swaitRead s h w).teams = s.teams ∧
      hartWrote k ((swaitRead s h w).hart h) w.rd (valueAt s off) := by
  obtain ⟨m, o, htouch, hbytes, hhost⟩ := viewTouch_is s (.dev off)
  rw [swaitRead_dev ha halign hlim hbad, if_pos ((swaitHolds_iff _ _ _).2 hcond), htouch]
  refine ⟨⟨hbytes, hhost⟩, rfl, ?_⟩
  have hk' : ({ s with mem := m, out := o } : State).hart h = k := hk
  rw [hartDone, modHart_hart_same, hk']
  exact complete_wrote hx hc w.rd _

theorem swaitRead_waits {k : Hart} (hk : s.hart h = k) (hcond : ¬ meetsCondition w.cond.toNat (valueAt s off) w.cmp) :
    memoryKept s (swaitRead s h w) ∧ (swaitRead s h w).hart h = { k with swait := some { w with last := valueAt s off } } := by
  obtain ⟨m, o, htouch, hbytes, hhost⟩ := viewTouch_is s (.dev off)
  rw [swaitRead_dev ha halign hlim hbad, if_neg (mt (swaitHolds_iff _ _ _).1 hcond), htouch]
  refine ⟨⟨hbytes, hhost⟩, ?_⟩
  have hk' : ({ s with mem := m, out := o } : State).hart h = k := hk
  rw [modHart_hart_same, hk']

end Swait

/-- What SWAIT does in machine or supervisor mode (R59). -/
theorem swait_eq {s : State} {h : Nat} {k : Hart} (hr : hartReady s h k) (c : BitVec 3) (rd ra rb : Reg5) :
    exec (.swait c rd ra rb) s = .next (
      if 4 ≤ c.toNat then hartRaise s h 2 (BitVec.setWidth 64 (s.hartWord h))
      else if (k.r ra).toNat % 16 ≠ 0 ∨ viewOf s.dev (k.r ra).toNat = .bad then hartRaise s h 26 (k.r ra)
      else swaitRead s h { cond := c, rd := rd, addr := k.r ra, cmp := k.r rb, last := 0 }) := by
  rw [exec_swait, execSwait, commandOp_ready hr]

/-- R59: SWAIT, its rereads and its timeout. -/
theorem signalWait : Says.SignalWait := by
  intro s h k c rd ra rb off hr
  have hexec := swait_eq hr c rd ra rb
  obtain ⟨-, hfind, -, hx, hc⟩ := hr
  have hk := hart_of_find hfind
  refine ⟨fun h4 => ?_, fun h4 hbad => ?_, fun h4 ha halign hlim h62 hline => ?_⟩
  · rw [if_pos h4] at hexec
    exact raises_of hexec hk hc
  · have hbad' : (k.r ra).toNat % 16 ≠ 0 ∨ viewOf s.dev (k.r ra).toNat = .bad :=
      hbad.imp_right fun h => viewOf_past h.1 h.2
    rw [if_neg (Nat.not_le.2 h4), if_pos hbad'] at hexec
    exact raises_of hexec hk hc
  · have hgood : ¬ ((k.r ra).toNat % 16 ≠ 0 ∨ viewOf s.dev (k.r ra).toNat = .bad) := by
      rw [ha, viewOf_dev (by omega)]
      simp [halign]
    rw [if_neg (Nat.not_le.2 h4), if_neg hgood] at hexec
    refine ⟨fun hcond => ?_, fun hcond => ?_, fun x last hs => ?_⟩
    · obtain ⟨hmem, hteams, hwrote⟩ := swaitRead_completes (w := ⟨c, rd, k.r ra, k.r rb, 0⟩) ha halign hlim hline hk hx hc hcond
      exact ⟨_, _, hexec, hmem, rfl, hwrote, hteams⟩
    · exact ⟨_, hexec, swaitRead_waits ha halign hlim hline hk hcond⟩
    · have hreread : exec (.swaitReread h) s = .next (swaitRead s h { cond := c, rd := rd, addr := k.r ra, cmp := x, last := last }) := by
        rw [exec_swaitReread, execSwaitReread, hk, hs]
      have htimeout : exec (.swaitTimeout h) s = .next (if k.qpwto = 0 then s else hartDone s h rd last) := by
        rw [exec_swaitTimeout, execSwaitTimeout, hk, hs]
      refine ⟨fun hcond => ?_, fun hcond => ?_, fun hq => ?_, fun hq => ?_⟩
      · obtain ⟨hmem, -, hwrote⟩ := swaitRead_completes (w := ⟨c, rd, k.r ra, x, last⟩) ha halign hlim hline hk hx hc hcond
        exact ⟨_, _, hreread, hmem, rfl, hwrote⟩
      · exact ⟨_, hreread, swaitRead_waits ha halign hlim hline hk hcond⟩
      · rw [if_neg hq] at htimeout
        exact completes_of htimeout hk hx hc
      · rw [htimeout, if_pos hq]

/-! ## Ordinary accesses (R54) -/

/-- A write of a unit of the device stores its bytes, and changes memory, the L1 copies and what is shown to the outside (R110). -/
theorem writeUnit_stores {s : State} (h : s.mem.wf = true) (pa : Nat) (bs : List Byte) :
    ∃ m c o, s.writeUnit pa bs = { s with mem := m, cores := c, out := o } ∧ m.wf = true ∧ m.host = s.mem.host ∧
      bytesStored s (s.writeUnit pa bs) pa bs := by
  obtain ⟨m, c, o, hwr⟩ := writeUnit_is s pa bs
  obtain ⟨hbytes, hhost⟩ := writeLines_bytes s [] 0 pa bs
  have hmem : (s.writeUnit pa bs).mem = m := by rw [hwr]
  have hwf : (s.writeUnit pa bs).mem.wf = true := writeLines_wf h [] 0 pa bs
  have hb : (s.writeUnit pa bs).mem.bytes = Tab.setList 0 pa bs s.mem.bytes := hbytes
  refine ⟨m, c, o, hwr, hmem ▸ hwf, hmem ▸ hhost, fun x => ?_⟩
  rw [byteAt, hb]
  exact Tab.get_setList 0 bs pa x _ ((Memory.wf_iff _).1 h).1

/-- Whether a line is held depends on the line alone (R46). -/
theorem lineHeld_line (s : State) {a b : Nat} (h : a / 64 = b / 64) : s.lineHeld a = s.lineHeld b := by
  have hline : lineOf a = lineOf b := h
  unfold State.lineHeld State.leaseBlocked
  rw [hline]

/-- A write within a line waits where its line is held (R46). -/
theorem rangeLeased_line {s : State} {a n : Nat} (hfit : a % 64 + n ≤ 64) (hheld : s.lineHeld a = false) :
    s.rangeLeased a n = false := by
  rw [State.rangeLeased, Bool.and_eq_false_iff]
  by_cases hn : n = 0
  · exact .inl (by simp [hn])
  · refine .inr (List.any_eq_false.2 fun i hi => ?_)
    have hi0 : i = 0 := by rw [List.mem_range] at hi; omega
    rw [lineHeld_line s (b := a) (by omega), hheld]
    exact Bool.false_ne_true

/-- The value that a load or an atomic gives a register (R54). -/
theorem qpValue_eq (n : Nat) (sg : Bool) (b : List Byte) :
    qpValue n sg b = if sg = true then .ofInt 64 (toSigned (8 * n) (ofBytes b)) else .ofNat 64 (ofBytes b) := by
  rw [qpValue, apply_ite (BitVec.ofNat 64), ofNat_ofSigned]

section Access

variable {s : State} {h n : Nat} {k : Hart} {a : Word64} (hdark : s.dev.dark = false) (hn : n ∈ [1, 2, 4, 8]) (ha : a.toNat % n = 0)
include hdark

theorem load_done (rd : Reg5) (sg : Bool) {u : State} {b : List Byte} (hr : s.qpLoad h a n = .done u b) :
    exec (.queueProcessorAccess h { addr := a, size := n, op := .load rd sg }) s =
      .next (u.modHart h (fun k => k.setR rd (qpValue n sg b))) := by
  simp only [exec_queueProcessorAccess, execQueueProcessorAccess, hr, hdark, Bool.false_eq_true, if_false]

theorem load_faults (rd : Reg5) (sg : Bool) {c : Nat} (hr : s.qpLoad h a n = .fault c) :
    exec (.queueProcessorAccess h { addr := a, size := n, op := .load rd sg }) s = .next (hartRaise s h c a) := by
  simp only [exec_queueProcessorAccess, execQueueProcessorAccess, hr, hdark, Bool.false_eq_true, if_false]

theorem store_done (x : Word64) {u : State} {b : List Byte} (hr : s.qpStore h a (toBytes n x.toNat) = .done u b) :
    exec (.queueProcessorAccess h { addr := a, size := n, op := .store x }) s = .next (u.modHart h id) := by
  simp only [exec_queueProcessorAccess, execQueueProcessorAccess, hr, hdark, Bool.false_eq_true, if_false]
  rfl

theorem store_faults (x : Word64) {c : Nat} (hr : s.qpStore h a (toBytes n x.toNat) = .fault c) :
    exec (.queueProcessorAccess h { addr := a, size := n, op := .store x }) s = .next (hartRaise s h c a) := by
  simp only [exec_queueProcessorAccess, execQueueProcessorAccess, hr, hdark, Bool.false_eq_true, if_false]

theorem amo_done (op : AtomicOp) (x c : Word64) (rd : Reg5) {u : State} {b : List Byte} (hr : s.qpAmo h a n op x c = .done u b) :
    exec (.queueProcessorAccess h { addr := a, size := n, op := .amo op x c rd }) s =
      .next (u.modHart h (fun k => k.setR rd (qpValue n true b))) := by
  simp only [exec_queueProcessorAccess, execQueueProcessorAccess, hr, hdark, Bool.false_eq_true, if_false]

end Access

/-- A unit of a power of two up to eight bytes, at a multiple of itself, lies in one line. -/
theorem unit_fits {n a : Nat} (hn : n ∈ [1, 2, 4, 8]) (ha : a % n = 0) : 1 ≤ n ∧ a % 64 + n ≤ 64 := by
  simp only [List.mem_cons, List.not_mem_nil, or_false] at hn
  rcases hn with rfl | rfl | rfl | rfl <;> omega

/-- R54: ordinary accesses of a queue processor to device memory and past it. -/
theorem queueProcessorAccess : Says.QueueProcessorAccess := by
  intro s h k a n hfind hx hc hn ha hdark
  have hk := hart_of_find hfind
  obtain ⟨hn1, hfit⟩ := unit_fits hn ha
  refine ⟨fun hlim hline hwf => ?_, fun hlim h62 => ?_⟩
  · have hview : viewOf s.dev a.toNat = .dev a.toNat := viewOf_dev (by omega)
    have herr := viewError_line hn1 hlim hfit hline
    have hread := State.readPa_eq s a.toNat n
    refine ⟨fun rd sg => ?_, fun x hheld => ?_, fun x rd hheld => ?_⟩
    · obtain ⟨m, o, htouch, hbytes, hhost⟩ := viewTouch_is s (.dev a.toNat)
      have hload : s.qpLoad h a n = .done { s with mem := m, out := o } (s.readPa a.toNat n) := by
        rw [State.qpLoad, hview, herr, htouch]; rfl
      have hk' : ({ s with mem := m, out := o } : State).hart h = k := hk
      refine ⟨_, load_done hdark rd sg hload, ⟨hbytes, hhost⟩, rfl, fun r => ?_⟩
      rw [modHart_hart_same, hk', setR_r hx, qpValue_eq, hread]
    · obtain ⟨m, c, o, hwr, -, hhost, hstored⟩ := writeUnit_stores hwf a.toNat (toBytes n x.toNat)
      have hstore : s.qpStore h a (toBytes n x.toNat) = .done (s.writeUnit a.toNat (toBytes n x.toNat)) [] := by
        have hblock : s.rangeLeased a.toNat n = false := rangeLeased_line hfit hheld
        simp [State.qpStore, viewFits, hview, length_toBytes, hlim, State.viewBlocked, hheld, hblock, State.viewWrite]
      refine ⟨_, store_done hdark x hstore, hstored, ?_, ?_, ?_⟩
      · rw [hwr]; exact hhost
      · rw [hwr]; rfl
      · rw [hwr, modHart_hart_same]; exact hk
    · have hsum : toBytes n ((ofBytes (s.readPa a.toNat n) + x.toNat % 2 ^ (8 * n)) % 2 ^ (8 * n)) =
          toBytes n (ofBytes (s.readPa a.toNat n) + x.toNat) := by
        rw [Nat.add_mod_mod, Nat.pow_mul, toBytes_mod]
      rw [hread] at hsum
      obtain ⟨m, c, o, hwr, -, hhost, hstored⟩ := writeUnit_stores hwf a.toNat
        (toBytes n (ofBytes ((List.range n).map (fun i => byteAt s (a.toNat + i))) + x.toNat))
      have hamo : s.qpAmo h a n .add x 0 = .done (s.writeUnit a.toNat
          (toBytes n (ofBytes ((List.range n).map (fun i => byteAt s (a.toNat + i))) + x.toNat)))
          ((List.range n).map (fun i => byteAt s (a.toNat + i))) := by
        simp only [State.qpAmo, hview, herr, State.viewRead, hread, State.viewBlocked, hheld, atomicNew, State.viewWrite, hsum,
          Bool.false_eq_true, if_false]
      refine ⟨_, amo_done hdark .add x 0 rd hamo, hstored, ?_, fun r => ?_⟩
      · rw [hwr]; exact hhost
      · have hk' : ({ s with mem := m, cores := c, out := o } : State).hart h = k := hk
        rw [hwr, modHart_hart_same, hk', setR_r hx, qpValue_eq, if_pos rfl]
  · have hview := viewOf_past hlim h62
    refine ⟨fun rd sg => ?_, fun x => ?_⟩
    · have hload : s.qpLoad h a n = .fault 5 := by rw [State.qpLoad, hview]; rfl
      exact raises_of (load_faults hdark rd sg hload) hk hc
    · have hstore : s.qpStore h a (toBytes n x.toNat) = .fault 7 := by simp [State.qpStore, viewFits, hview]
      exact raises_of (store_faults hdark x hstore) hk hc

end Sys2Proof.Machine
end

section
/-! SUPPORT. Words of the base set that a queue processor executes (R54). -/
namespace Sys2Proof.Machine

/-- A word of 32 bits is executed as it stands (R54). -/
theorem runBase_full {s : State} {h : Nat} {w : BitVec 32} (hw : w.toNat % 4 = 3) :
    s.runBase h w = (baseOp s h w 4).getD (hartRaise s h 2 (BitVec.setWidth 64 w)) := by
  have hexpand : expandWord w = some w := by rw [expandWord, hw]; rfl
  have hlen : parcelBytes w.toNat = 4 := if_pos hw
  rw [State.runBase, hexpand, Option.bind_some, hlen]
  cases baseOp s h w 4 <;> rfl

/-- The low bits of a word of 32 bits are those of its opcode. -/
theorem opcode_mod {w : BitVec 32} {op : BitVec 7} (h : field w 0 7 = op) : w.toNat % 4 = op.toNat % 4 := by
  have := congrArg BitVec.toNat h
  rw [Laws.field_toNat] at this
  omega

section Base

variable {s : State} {h : Nat} {k : Hart} {w : BitVec 32} (hk : s.hart h = k)
include hk

theorem runBase_add (hop : field w 0 7 = 0x33) (h3 : f3Of w = 0) (h7 : f7Of w = 0) :
    s.runBase h w = s.modHart h (fun _ => k.goTo (rdOf w) (k.r (rs1Of w) + k.r (rs2Of w)) (k.pc + 4)) := by
  have hn : (field w 0 7).toNat = 0x33 := by rw [hop]; rfl
  have hint : integerValue k w = some (k.r (rs1Of w) + k.r (rs2Of w)) := by
    simp [integerValue, hn, h3, h7, aluOp]
  rw [runBase_full (opcode_mod hop)]
  simp only [baseOp, hn, hk, hint]
  rfl

theorem runBase_beq (hop : field w 0 7 = 0x63) (h3 : f3Of w = 0) :
    s.runBase h w = s.modHart h (fun _ => k.goTo 0 0 (k.pc + (if k.r (rs1Of w) = k.r (rs2Of w) then immB w else 4))) := by
  have hn : (field w 0 7).toNat = 0x63 := by rw [hop]; rfl
  have hjump : jumpHart k w 4 = some (k.goTo 0 0 (k.pc + (if k.r (rs1Of w) = k.r (rs2Of w) then immB w else 4))) := by
    simp [jumpHart, hn, h3, branchTaken]
  rw [runBase_full (opcode_mod hop)]
  simp only [baseOp, hn, hk]
  rw [show BitVec.ofNat 64 4 = 4 from rfl, hjump]
  rfl

/-- CSRRW of qpwto is legal in machine mode alone (R59). -/
theorem csrOp_qpwto (h3 : f3Of w = 1) (hcsr : field w 20 12 = 0x7C0) (pc : Word64) : csrOp s h w pc =
    if k.mode = .machine then some (s.modHart h (fun _ => { k with qpwto := k.r (rs1Of w) }.goTo (rdOf w) k.qpwto pc)) else none := by
  have hn : bits 31 20 w.toNat = 0x7C0 := by
    have := congrArg BitVec.toNat hcsr
    rw [Laws.field_toNat] at this
    exact this
  have hbarred : k.csrBarred 0x7C0 true = !(k.mode == .machine) := by
    cases hm : k.mode <;> simp [Hart.csrBarred, Hart.counterBarred, hm, HartMode.code, bits]
  have hs : (if 0x7C0 = 0xB00 ∨ 0x7C0 = 0xC00 ∨ 0x7C0 = 0xC01 then
      s.passTime.modHart h (fun k => k.passCycles (1 + Config.cycleAdvance s.fresh)) else s) = s := if_neg (by decide)
  have hread : s.csrRead h 0x7C0 = some k.qpwto := by rw [State.csrRead, hk]
  have hwrites : (1 % 4 == 1 || (rs1Of w).toNat != 0) = true := rfl
  rw [csrOp]
  simp only [h3, hn, hs, hk, hwrites, hbarred, hread]
  by_cases hm : k.mode = .machine
  · simp [hm, Hart.csrWrite, State.modHart, hk]
  · simp [hm]

theorem runBase_csrrw_qpwto (hop : field w 0 7 = 0x73) (h3 : f3Of w = 1) (hcsr : field w 20 12 = 0x7C0) : s.runBase h w =
    if k.mode = .machine then s.modHart h (fun _ => { k with qpwto := k.r (rs1Of w) }.goTo (rdOf w) k.qpwto (k.pc + 4))
    else s.modHart h (fun _ => k.exception 2 (BitVec.setWidth 64 w)) := by
  have hn : (field w 0 7).toNat = 0x73 := by rw [hop]; rfl
  have hne : f3Of w ≠ 0 := by omega
  rw [runBase_full (opcode_mod hop)]
  simp only [baseOp, hn, hk, systemOp, if_pos hne, csrOp_qpwto hk h3 hcsr]
  split
  · rfl
  · simp [hartRaise, State.modHart, hk]

end Base

/-- R54, R59: ADD, BEQ and CSRRW of qpwto. -/
theorem baseInstructions : Says.BaseInstructions := by
  intro s h k w hfind
  have hk := hart_of_find hfind
  refine ⟨runBase_add hk, runBase_beq hk, fun hop h3 hcsr hm => ?_, fun hop h3 hcsr hm => ?_⟩
  · rw [runBase_csrrw_qpwto hk hop h3 hcsr, if_pos hm]
  · rw [runBase_csrrw_qpwto hk hop h3 hcsr, if_neg hm]

/-- Settles O31, from BFX, its codes, the base set, ordinary accesses and SWAIT. -/
theorem queueProcessors : Obligations.QueueProcessors :=
  ⟨commandFields, fieldCodes, baseInstructions, queueProcessorAccess, signalWait⟩

end Sys2Proof.Machine
end

section
/-! SUPPORT. Queue registers, launch stores and a queue's reset (R61, R64, R73). -/
namespace Sys2Proof.Machine

/-! ## The state with a queue changed -/

theorem modQueue_queue_same (s : State) (q : Nat) (f : Queue → Queue) : (s.modQueue q f).queue q = f (s.queue q) := by
  rw [modQueue_queue, if_pos rfl]

theorem modQueue_queue_other (s : State) {q j : Nat} (h : j ≠ q) (f : Queue → Queue) : (s.modQueue q f).queue j = s.queue j := by
  rw [modQueue_queue, if_neg h]

theorem modQueue_only (s : State) (q : Nat) (f : Queue → Queue) : onlyQueue s (s.modQueue q f) q :=
  ⟨rfl, fun _ hj => modQueue_queue_other s hj f⟩

/-! ## What the host asks for (R11, R14, R61) -/

theorem deaf_iff (d : Dev) : d.deaf = true ↔ d.dark = true ∨ d.bstep = 0 := by
  rw [Dev.deaf, Bool.or_eq_true, beq_iff_eq]

theorem qctlRefused_iff (v : BitVec 64) : qctlRefused v = true ↔
    ¬ (4 ≤ v.toNat % 2 ^ 32 / 2 ^ 27 ∧ v.toNat % 2 ^ 32 / 2 ^ 27 ≤ 16 ∧ v.toNat % 2 ^ 32 / 2 ^ 16 % 2 ^ 11 ≤ 1023) := by
  have hlog : bits 31 27 v.toNat = v.toNat % 2 ^ 32 / 2 ^ 27 := by simp only [bits]; omega
  have hvector : bits 26 16 v.toNat = v.toNat % 2 ^ 32 / 2 ^ 16 % 2 ^ 11 := by simp only [bits]; omega
  rw [qctlRefused, hlog, hvector, Bool.or_eq_true, Bool.or_eq_true, decide_eq_true_eq, decide_eq_true_eq, decide_eq_true_eq]
  omega

/-- The low half of a value, which QCTL keeps. -/
theorem setWidth_field_low (v : BitVec 64) : BitVec.setWidth 64 (field v 0 32 : BitVec 32) = .ofNat 64 (v.toNat % 2 ^ 32) := by
  apply BitVec.eq_of_toNat_eq
  rw [BitVec.toNat_setWidth, Laws.field_toNat, BitVec.toNat_ofNat]
  omega

theorem qctlEn_iff (k : Queue) : qctlEn k = true ↔ k.qctl.toNat % 2 = 1 := by
  rw [qctlEn, BitVec.getLsbD, Nat.testBit_zero, decide_eq_true_eq]

/-! ## Launch stores (R23, R64) -/

/-- A store to LAUNCH is accepted when it is whole, of the expected index, and of packets that the ring has room for. -/
theorem launchAccepted_iff {k : Queue} {x : LaunchTlp} (hused : (k.qwr - k.qrd).toNat ≤ 2 ^ (k.qctl.toNat / 2 ^ 27 % 2 ^ 5))
    (hsize : 2 ^ (k.qctl.toNat / 2 ^ 27 % 2 ^ 5) ≤ 2 ^ 16) : launchAccepted k x = true ↔
      x.off = 0 ∧ x.len = 64 ∧ x.tlps = 1 ∧ x.allBe = true ∧ k.qctl.toNat % 2 = 1 ∧ k.rstBusy = false ∧
        x.data.toNat / 2 ^ 32 % 2 ^ 32 = k.qwr.toNat ∧ 1 ≤ x.data.toNat / 2 ^ 16 % 2 ^ 16 ∧
        (k.qwr - k.qrd).toNat + x.data.toNat / 2 ^ 16 % 2 ^ 16 ≤ 2 ^ (k.qctl.toNat / 2 ^ 27 % 2 ^ 5) := by
  have hidx : BitVec.ofNat 32 (bits 63 32 x.data.toNat) = k.qwr ↔ x.data.toNat / 2 ^ 32 % 2 ^ 32 = k.qwr.toNat := by
    have := k.qwr.isLt
    rw [← BitVec.toNat_inj, BitVec.toNat_ofNat, bits]
    omega
  have hroom : (k.qwr + BitVec.ofNat 32 (bits 31 16 x.data.toNat) - k.qrd).toNat =
      (k.qwr - k.qrd).toNat + x.data.toNat / 2 ^ 16 % 2 ^ 16 := by
    have hmoved : k.qwr + BitVec.ofNat 32 (bits 31 16 x.data.toNat) - k.qrd =
        (k.qwr - k.qrd) + BitVec.ofNat 32 (bits 31 16 x.data.toNat) := by
      rw [BitVec.sub_eq_add_neg, BitVec.sub_eq_add_neg, BitVec.add_assoc, BitVec.add_assoc, BitVec.add_comm (-k.qrd)]
    rw [hmoved, BitVec.toNat_add, BitVec.toNat_ofNat, bits]
    omega
  simp only [launchAccepted, hroom, Bool.and_eq_true, beq_iff_eq, decide_eq_true_eq, Bool.not_eq_true', qctlEn_iff, hidx, and_assoc]
  rfl

/-- LDROP counts a dropped store, up to its largest value (R64). -/
theorem ldrop_counts (v : BitVec 16) : (if v = 0xFFFF then 0xFFFF else v + 1) = BitVec.ofNat 16 (min 65535 (v.toNat + 1)) := by
  have := v.isLt
  apply BitVec.eq_of_toNat_eq
  split
  · next h => subst h; rfl
  · next h =>
    have hne : v.toNat ≠ 65535 := fun e => h (BitVec.eq_of_toNat_eq e)
    rw [BitVec.toNat_ofNat, BitVec.toNat_add, Nat.min_eq_right (by omega)]
    rfl

section LaunchStore

variable {s : State} {q : Nat} {x : LaunchTlp} (hq : q < 1024) (hx : x.off < 64) (hd : s.dev.deaf = false)
include hq hx hd

theorem launchStore_accepted {a : Nat} (h : launchAccepted (s.queue q) x = true) (ha : ringEntry (s.queue q) (s.queue q).qwr = a)
    (hlim : a < s.dev.limit) : exec (.launchStore q x) s = .next (if s.lineHeld a = true then s else
      (s.writeUnit a (toBytes 64 x.data.toNat)).modQueue q (fun k =>
        { k with inline_ := some (k.qwr, toBytes 64 x.data.toNat), qwr := k.qwr + BitVec.ofNat 32 (bits 31 16 x.data.toNat),
                 rel := max k.rel (s.writeUnit a (toBytes 64 x.data.toNat)).dev.hostT })) := by
  have hview := viewOf_dev hlim
  rw [exec_launchStore, execLaunchStore, onLink_heard hd]
  simp only [ha, hview]
  rw [if_neg (by omega), if_pos h]
  rfl

theorem launchStore_dropped (h : ¬ launchAccepted (s.queue q) x = true) : exec (.launchStore q x) s =
    .next (s.modQueue q (fun k => { k with ldrop := if k.ldrop = 0xFFFF then 0xFFFF else k.ldrop + 1 })) := by
  rw [exec_launchStore, execLaunchStore, onLink_heard hd]
  dsimp only
  rw [if_neg (by omega), if_neg h]

end LaunchStore

/-! ## Resets (R73) -/

/-- A queue without launches has its packets cancelled, and nothing else. -/
theorem cancelQueue_idle {s : State} {q : Nat} (hl : ∀ e ∈ s.sched.launches, e.2.queue ≠ q) :
    s.cancelQueue q = s.modQueue q (fun k => { k with packets := k.packets.map Packet.cancelled, skip := 0 }) := by
  have hkept : s.sched.launches.filter (fun e => !(e.2.queue == q && e.2.rebuild.isNone && !e.2.begun)) = s.sched.launches :=
    List.filter_eq_self.2 fun e he => by simp [hl e he]
  have hnone : ∀ f, (s.modQueue q f).launchesOf q = [] := fun f => by
    rw [State.launchesOf, List.map_eq_nil_iff, List.filter_eq_nil_iff]
    exact fun e he => by simp [hl e he]
  rw [State.cancelQueue, hkept]
  dsimp only
  rw [hnone]; rfl

/-- A queue that registered no rebuild launch has none to leave. -/
theorem unregisterRebuilds_idle {s : State} {q : Nat} (hl : ∀ e ∈ s.sched.launches, e.2.queue ≠ q)
    (hk : ∀ e ∈ s.kv.slots, e.2.regQueue ≠ some q) : s.unregisterRebuilds q = s := by
  have hlaunches : s.sched.launches.filter (fun e => e.2.queue == q && e.2.rebuild.isSome) = [] :=
    List.filter_eq_nil_iff.2 fun e he => by simp [hl e he]
  have hslots : s.kv.slots.filter (fun e => e.2.regQueue == some q) = [] :=
    List.filter_eq_nil_iff.2 fun e he => by simp [hk e he]
  rw [State.unregisterRebuilds, hlaunches]
  dsimp only [List.foldl_nil]
  rw [hslots]; rfl

/-- A queue without packets, launches and engine operations is reset at once. -/
theorem queueReset_idle {s : State} {q : Nat} (hq : q < 1024) (hd : s.dev.deaf = false) (hb : (s.queue q).rstBusy = false)
    (hp : (s.queue q).packets = []) (hl : ∀ e ∈ s.sched.launches, e.2.queue ≠ q)
    (hk : ∀ e ∈ s.kv.slots, e.2.regQueue ≠ some q) (hc : s.eng.copies = []) (hf : s.fab.colls = []) (ho : s.eng.locks = [])
    (hn : s.eng.pend = []) : ∃ t, exec (.queueReset q) s = .next (t.finishReset q) ∧
      (t.queue q = { s.queue q with rstBusy := true, packets := [], skip := 0 }) ∧ (∀ j, j ≠ q → t.queue j = s.queue j) ∧
      memoryKept s t ∧ t.teams = s.teams := by
  have hstart : s.startReset q = (s.modQueue q (fun k => { k with rstBusy := true })).modQueue q
      (fun k => { k with packets := k.packets.map Packet.cancelled, skip := 0 }) := by
    have hcancel := cancelQueue_idle (s := s.modQueue q (fun k => { k with rstBusy := true })) hl
    exact (congrArg (State.unregisterRebuilds · q) hcancel).trans (unregisterRebuilds_idle hl hk)
  have hqueue : (s.startReset q).queue q = { s.queue q with rstBusy := true, packets := [], skip := 0 } := by
    rw [hstart, modQueue_queue_same, modQueue_queue_same, hp]; rfl
  have hwaits : (s.startReset q).resetWaits q = false := by
    have hpend : (s.startReset q).eng = s.eng ∧ (s.startReset q).fab = s.fab := by rw [hstart]; exact ⟨rfl, rfl⟩
    simp [State.resetWaits, hqueue, hpend, hc, hf, ho, hn]
  refine ⟨s.startReset q, ?_, hqueue, fun j hj => ?_, ?_, ?_⟩
  · rw [exec_queueReset, execQueueReset, onLink_heard hd, if_neg (by omega), hb]
    simp only [Bool.false_eq_true, if_false, hwaits]
  · rw [hstart, modQueue_queue_other _ hj, modQueue_queue_other _ hj]
  · rw [hstart]; exact ⟨rfl, rfl⟩
  · rw [hstart]; rfl

/-- A queue as a reset leaves it (R73). -/
def Queue.afterReset (k : Queue) : Queue :=
  { k with packets := [], qwr := k.qrd, fetchIdx := k.qrd, inline_ := none, ldrop := 0, qerr := 0, rstBusy := false, rstDone := true,
           skip := 0 }

/-- The end of a reset of a queue without packets. -/
theorem finishReset_idle {s : State} {q : Nat} (hp : (s.queue q).packets = []) :
    memoryKept s (s.finishReset q) ∧ (s.finishReset q).teams = s.teams ∧ (∀ j, j ≠ q → (s.finishReset q).queue j = s.queue j) ∧
      (s.finishReset q).queue q = (s.queue q).afterReset := by
  obtain ⟨u, hu⟩ : ∃ u, s.modQueue q (fun k => { k with packets := k.packets.map (fun p => { p with st := s.resetEnding p }) }) = u :=
    ⟨_, rfl⟩
  have hqueue : u.queue q = s.queue q := by
    rw [← hu, modQueue_queue_same, hp, List.map_nil]
    exact congrArg (fun ps => { s.queue q with packets := ps }) hp.symm
  have hother : ∀ j, j ≠ q → u.queue j = s.queue j := fun j hj => by rw [← hu, modQueue_queue_other s hj]
  have hmem : memoryKept s u := by rw [← hu]; exact ⟨rfl, rfl⟩
  have hteams : u.teams = s.teams := by rw [← hu]; rfl
  rw [State.finishReset, hu]
  dsimp only
  rw [hqueue, hp, List.foldl_nil]
  refine ⟨hmem, hteams, fun j hj => (modQueue_queue_other _ hj _).trans (hother j hj), (modQueue_queue_same _ q _).trans ?_⟩
  exact congrArg Queue.afterReset hqueue

/-- Settles O33, from QCTL's refusals, the launch stores that are accepted and dropped, and the reset of an idle queue. -/
theorem queueControl : Obligations.QueueControl := by
  refine ⟨fun s q v x hdark i hi => ?_, fun s q v hq hd => ?_, fun s q a x hq hx hd => ?_,
    fun s q hq hd hb hp hl hk hc hf ho hn => ?_⟩
  · have hdeaf : s.dev.deaf = true := (deaf_iff _).2 hdark
    simp only [List.mem_cons, List.not_mem_nil, or_false] at hi
    rcases hi with rfl | rfl | rfl <;> exact if_pos hdeaf
  · have hexec : exec (.qctlWrite q v) s = .next (if qctlRefused v = true then s else
        s.modQueue q (fun k => { k with qctl := .ofNat 64 (v.toNat % 2 ^ 32) })) := by
      rw [exec_qctlWrite, execQctlWrite, onLink_heard hd, setWidth_field_low]
      simp only [Nat.not_le.2 hq, or_false]
    refine ⟨fun hgood => ?_, fun hbad => ?_⟩
    · rw [if_neg (mt (qctlRefused_iff v).1 (not_not_intro hgood))] at hexec
      exact ⟨_, hexec, modQueue_only s q _, modQueue_queue_same s q _⟩
    · rw [hexec, if_pos ((qctlRefused_iff v).2 hbad)]
  · intro k count size used accepted hused hsize
    have hacc : launchAccepted (s.queue q) x = true ↔ accepted := launchAccepted_iff hused hsize
    refine ⟨fun h ha hlim hheld => ?_, fun h ha hlim hheld hwf => ?_, fun h => ?_⟩
    · rw [launchStore_accepted hq hx hd (hacc.2 h) ha (by omega), if_pos hheld]
    · obtain ⟨m, c, o, hwr, -, hhost, hstored⟩ := writeUnit_stores hwf a (toBytes 64 x.data.toNat)
      refine ⟨_, launchStore_accepted hq hx hd (hacc.2 h) ha (by omega), ?_⟩
      rw [if_neg (by simp [hheld])]
      refine ⟨hstored, by rw [hwr]; exact hhost, by rw [hwr]; rfl, fun j hj => ?_, ?_⟩
      · rw [modQueue_queue_other _ hj, hwr]; rfl
      · rw [modQueue_queue_same, hwr]; rfl
    · refine ⟨_, launchStore_dropped hq hx hd (mt hacc.1 h), modQueue_only s q _, ?_⟩
      rw [modQueue_queue_same, ldrop_counts]
  · obtain ⟨t, hexec, hqueue, hother, hmem, hteams⟩ := queueReset_idle hq hd hb hp hl hk hc hf ho hn
    obtain ⟨hmem', hteams', hother', hqueue'⟩ := finishReset_idle (s := t) (by rw [hqueue])
    refine ⟨_, hexec, ⟨hmem'.1.trans hmem.1, hmem'.2.trans hmem.2⟩, hteams'.trans hteams,
      fun j hj => (hother' j hj).trans (hother j hj), ?_⟩
    rw [hqueue', hqueue]; rfl

end Sys2Proof.Machine
end

section
/-! SUPPORT. SIGNAL, WAIT, COND and BARRIER-AND packets (R66, R67, R71). -/
namespace Sys2Proof.Machine

/-! ## Words of a packet -/

theorem ofBytes_eq_zero_iff (bs : List Byte) : ofBytes bs = 0 ↔ bs.all (fun x => x == 0) = true := by
  induction bs with
  | nil => exact ⟨fun _ => rfl, fun _ => rfl⟩
  | cons b bs ih =>
    rw [List.all_cons, Bool.and_eq_true, ← ih, beq_iff_eq, ← BitVec.toNat_inj]
    show b.toNat + 256 * ofBytes bs = 0 ↔ b.toNat = 0 ∧ _
    omega

theorem word_lt (b : List Byte) (n : Nat) : word b n < 2 ^ 64 := by
  rw [word, ofBytes_take]
  exact Nat.mod_lt _ (by decide)

/-- The bytes from a word on are zero when the word is and those after it are. -/
theorem zeroFrom_step (b : List Byte) (n : Nat) : zeroFrom b n = true ↔ word b n = 0 ∧ zeroFrom b (n + 1) = true := by
  have hrest : (b.drop (8 * n)).drop 8 = b.drop (8 * (n + 1)) := by rw [List.drop_drop]; congr 1
  rw [zeroFrom, zeroFrom, ← hrest, word, ofBytes_eq_zero_iff, ← Bool.and_eq_true, ← List.all_append, List.take_append_drop]

/-- The bytes of a packet from word 5 on are zero when its last three words are. -/
theorem zeroFrom_five {b : List Byte} (h : b.length = 64) : zeroFrom b 5 = true ↔ word b 5 = 0 ∧ word b 6 = 0 ∧ word b 7 = 0 := by
  have hend : zeroFrom b 8 = true := by rw [zeroFrom, List.drop_eq_nil_of_le (by omega)]; rfl
  rw [zeroFrom_step, zeroFrom_step, zeroFrom_step, and_iff_left hend]

theorem zeroFrom_five_of {b : List Byte} (h : b.length = 64) (hbad : word b 5 ≠ 0 ∨ word b 6 ≠ 0 ∨ word b 7 ≠ 0) :
    (!zeroFrom b 5) = true := by
  rw [Bool.not_eq_true', ← Bool.not_eq_true, zeroFrom_five h]
  omega

theorem pktType_eq (b : List Byte) : pktType b = word b 0 % 2 ^ 8 := bits_low 7 _

/-! ## Signals in device memory -/

/-- A unit of device memory that a packet can read is sound, and its line is free. -/
theorem deviceWord_view {s : State} {a n : Nat} (h : deviceWord s a n) (hn : 0 < n) :
    viewOf s.dev a = .dev a ∧ s.viewError (.dev a) n = false ∧ s.viewBlocked (.dev a) = false := by
  obtain ⟨hlim, hbad, hheld⟩ := h
  exact ⟨viewOf_dev (by omega), viewError_dev hlim hbad, hheld⟩

theorem addrBad_of_mod {d : Dev} {n a : Nat} (h : a % n ≠ 0) : addrBad d n a = true := by simp [addrBad, h]

theorem addrBad_dev {d : Dev} {n a : Nat} (h : a % n = 0) (hview : viewOf d a = .dev a) : addrBad d n a = false := by
  simp [addrBad, h, hview]

theorem signalValue_dev {s : State} {a : Nat} (h : viewOf s.dev a = .dev a) (q : Nat) : s.signalValue q a = valueAt s a := by
  rw [State.signalValue, h, viewRead_value]

/-- What a packet's reads leave as it was: memory, teams, launches, and the packets and the skip count of its queue. -/
def readsOnly (s t : State) (q : Nat) : Prop :=
  memoryKept s t ∧ t.teams = s.teams ∧ (t.queue q).packets = (s.queue q).packets ∧ (t.queue q).skip = (s.queue q).skip ∧ t.dev = s.dev

theorem readsOnly.trans {s t u : State} {q : Nat} (h : readsOnly s t q) (h' : readsOnly t u q) : readsOnly s u q := by
  obtain ⟨⟨hb, hh⟩, ht, hp, hs, hd⟩ := h
  obtain ⟨⟨hb', hh'⟩, ht', hp', hs', hd'⟩ := h'
  exact ⟨⟨hb'.trans hb, hh'.trans hh⟩, ht'.trans ht, hp'.trans hp, hs'.trans hs, hd'.trans hd⟩

theorem readsOnly_foldl {f : State → Nat → State} {q : Nat} (h : ∀ s a, readsOnly s (f s a) q) (l : List Nat) (s : State) :
    readsOnly s (l.foldl f s) q := by
  induction l generalizing s with
  | nil => exact ⟨⟨rfl, rfl⟩, rfl, rfl, rfl, rfl⟩
  | cons a l ih => exact (h s a).trans (ih (f s a))

theorem viewTouch_reads (s : State) (q : Nat) (t : ViewTarget) : readsOnly s (s.viewTouch t) q := by
  obtain ⟨m, o, h, hbytes, hhost⟩ := viewTouch_is s t
  rw [h]
  exact ⟨⟨hbytes, hhost⟩, rfl, rfl, rfl, rfl⟩

theorem passSignal_reads (s : State) (q a : Nat) : readsOnly s (s.passSignal q a) q := by
  refine (viewTouch_reads s q (viewOf s.dev a)).trans ⟨⟨rfl, rfl⟩, rfl, ?_, ?_, rfl⟩
  · rw [State.passSignal, modQueue_queue_same]
  · rw [State.passSignal, modQueue_queue_same]

/-! ## The one packet of a queue -/

theorem packet_one {k : Queue} {p : Packet} (h : k.packets = [p]) : k.packet p.idx = some p := by
  rw [Queue.packet, h, List.find?_cons_of_pos (by simp)]

/-- The only packet of a queue begins under an event of its type (R68). -/
theorem onPacket_begins {s : State} {q idx ty : Nat} {p : Packet} (h : onePacket s q idx ty p) (h1 : 1 ≤ ty) (h7 : ty ≤ 7)
    (run : State → Queue → Packet → State) : s.onPacket q idx ty run = run s (s.queue q) p := by
  obtain ⟨hp, hi, hst, hskip, hty, hgood⟩ := h
  rw [State.onPacket, ← hi]
  dsimp only
  rw [packet_one hp]
  simp only [pktType_eq, hty, hst, hskip, hgood, hp, ne_eq, not_true_eq_false, false_and, if_false, List.takeWhile_cons, bne_self_eq_false,
    Bool.false_eq_true, Packet.mayBegin, List.all_nil, Bool.not_true, or_false]
  exact if_neg (by omega)

/-- The only packet of a queue fails with RESERVED_FIELD when its header is malformed (R63, R68). -/
theorem onPacket_refuses {s : State} {q idx ty : Nat} {p : Packet} (hp : (s.queue q).packets = [p]) (hi : p.idx = .ofNat 32 idx)
    (hst : p.st = .fetched) (hskip : (s.queue q).skip = 0) (hty : word p.bytes 0 % 2 ^ 8 = ty) (hbad : headerBad s.dev p.bytes = true)
    (run : State → Queue → Packet → State) : s.onPacket q idx ty run = s.endUnbegun q p.idx 2 TrapClass.reservedField.code := by
  rw [State.onPacket, ← hi]
  dsimp only
  rw [packet_one hp]
  simp only [pktType_eq, hty, hst, hskip, hbad, hp, ne_eq, not_true_eq_false, false_and, if_false, List.takeWhile_cons, bne_self_eq_false,
    Bool.false_eq_true, Packet.mayBegin, List.all_nil, Bool.not_true, or_true, if_true]

section Ends

variable {s : State} {q : Nat} {p : Packet} (hp : (s.queue q).packets = [p])
include hp

theorem modPacket_one (f : Packet → Packet) : ((s.queue q).modPacket p.idx f).packets = [f p] := by
  rw [Queue.modPacket, hp, List.map_singleton, if_pos rfl]

/-- The only packet of a queue begins, and nothing else happens. -/
theorem markBegun_one (item : Option Nat) :
    memoryKept s (s.markBegun q p item) ∧ (s.markBegun q p item).teams = s.teams ∧ packetIs (s.markBegun q p item) q p .begun := by
  refine ⟨⟨rfl, rfl⟩, rfl, { p with st := .begun, item := item }, ?_, rfl, rfl, rfl⟩
  rw [State.markBegun, modQueue_queue_same, modPacket_one hp]

/-- The only packet of a queue begins and ends at once. -/
theorem endNow_one (o c rel : Nat) : memoryKept s (s.endNow q p o c rel) ∧ (s.endNow q p o c rel).teams = s.teams ∧
    packetIs (s.endNow q p o c rel) q p (.ended o c 0) ∧ ((s.endNow q p o c rel).queue q).skip = (s.queue q).skip := by
  have hqueue : (s.endNow q p o c rel).queue q =
      { s.queue q with packets := [{ p with st := .ended o c 0, item := none, rel := rel }] } := by
    rw [State.endNow, State.endPacket, modQueue_queue_same, State.markBegun, modQueue_queue_same, modPacket_one hp, List.map_singleton,
      if_pos ⟨rfl, rfl⟩]
    rfl
  refine ⟨⟨rfl, rfl⟩, rfl, ⟨{ p with st := .ended o c 0, item := none, rel := rel }, ?_, rfl, rfl, rfl⟩, ?_⟩
  · rw [hqueue]
  · rw [hqueue]

/-- The only packet of a queue ends before it begins. -/
theorem endUnbegun_one (o c : Nat) : memoryKept s (s.endUnbegun q p.idx o c) ∧ (s.endUnbegun q p.idx o c).teams = s.teams ∧
    packetIs (s.endUnbegun q p.idx o c) q p (.ended o c 0) := by
  refine ⟨⟨rfl, rfl⟩, rfl, { p with st := .ended o c 0, rel := (s.queue q).rel }, ?_, rfl, rfl, rfl⟩
  rw [State.endUnbegun, modQueue_queue_same]
  exact modPacket_one hp _

/-- The only packet of a queue, which waits, fails with TIMER (R67). -/
theorem timeOut_one {idx ty : Nat} (hi : p.idx = .ofNat 32 idx) (hst : p.st = .begun) (hty : word p.bytes 0 % 2 ^ 8 = ty)
    {tmo : List Byte → Nat} (ht : tmo p.bytes ≠ 0) :
    onlyQueue s (s.timeOut q idx ty tmo) q ∧ packetIs (s.timeOut q idx ty tmo) q p (.ended 2 TrapClass.timer.code 0) := by
  have htime : s.timeOut q idx ty tmo = s.endPacket q p.idx 2 TrapClass.timer.code 0 (s.queue q).rel := by
    rw [State.timeOut, ← hi, packet_one hp]
    exact if_pos ⟨hst, (pktType_eq _).trans hty, ht⟩
  rw [htime]
  refine ⟨modQueue_only s q _, { p with st := .ended 2 TrapClass.timer.code 0, rel := (s.queue q).rel }, ?_, rfl, rfl, rfl⟩
  rw [State.endPacket, modQueue_queue_same, hp, List.map_singleton, if_pos ⟨rfl, hst⟩]

end Ends

/-- A packet ends with RESERVED_FIELD, and neither memory nor a team changes (R66, R69). -/
def packetRefused (s : State) (q : Nat) (p : Packet) (o : Outcome) : Prop :=
  ∃ t, o = .next t ∧ memoryKept s t ∧ t.teams = s.teams ∧ packetIs t q p (.ended 2 TrapClass.reservedField.code 0)

theorem packetRefused_of {s : State} {q : Nat} {p : Packet} {o : Outcome} (hp : (s.queue q).packets = [p])
    (h : o = .next (s.failPacket q p .reservedField)) : packetRefused s q p o := ⟨_, h, endUnbegun_one hp _ _⟩

/-- A header with a reserved bit set, or a misaligned completion signal, is malformed (R63). -/
theorem headerBad_of {d : Dev} {b : List Byte} (h : word b 0 / 2 ^ 8 % 4 ≠ 0 ∨ word b 0 / 2 ^ 12 % 16 ≠ 0 ∨ word b 1 % 16 ≠ 0) :
    headerBad d b = true := by
  have h8 : bits 9 8 (pw b 0) = word b 0 / 2 ^ 8 % 4 := rfl
  have h12 : bits 15 12 (pw b 0) = word b 0 / 2 ^ 12 % 16 := rfl
  have hsig : pktCsig b = word b 1 := rfl
  rw [headerBad, h8, h12, hsig]
  simp only [Bool.or_eq_true, bne_iff_ne]
  rcases h with h | h | h
  · exact .inl (.inl (.inr h))
  · exact .inl (.inl (.inl h))
  · exact .inl (.inr h)

/-! ## The four packets -/

section Packets

variable {s : State} {q idx : Nat} {p : Packet}

/-- A signal keeps the release time of what the device wrote to it (R426). -/
def State.stampSignal (s : State) (a rel : Nat) : State :=
  { s with sched := { s.sched with sigT := Tab.set 0 a (max (Tab.get 0 s.sched.sigT a) rel) s.sched.sigT } }

theorem signalPacket_begins (h : onePacket s q idx 3 p) : exec (.signalPacket q idx) s = .next (
    if addrBad s.dev 16 (word p.bytes 2) ∨ 3 ≤ word p.bytes 4 ∨ !zeroFrom p.bytes 5 then s.failPacket q p .reservedField
    else if s.viewError (viewOf s.dev (word p.bytes 2)) 8 then s.failPacket q p .uncorrectable
    else if s.viewBlocked (viewOf s.dev (word p.bytes 2)) then s
    else
      let x := BitVec.ofNat 64 (word p.bytes 3)
      let v := s.signalValue q (word p.bytes 2)
      let u := s.viewWrite (server q) (viewOf s.dev (word p.bytes 2))
        (toBytes 8 (if word p.bytes 4 = 0 then x else if word p.bytes 4 = 1 then v + x else v - x).toNat)
      (u.stampSignal (word p.bytes 2) (s.queue q).rel).endNow q p 1 0 (s.queue q).rel) := by
  rw [exec_signalPacket, execSignalPacket, onPacket_begins h (by decide) (by decide)]
  rfl

theorem waitPacket_begins (h : onePacket s q idx 4 p) : exec (.waitPacket q idx) s = .next (
    if addrBad s.dev 16 (word p.bytes 2) ∨ word p.bytes 4 / 4 % 2 ^ 30 ≠ 0 ∨ !zeroFrom p.bytes 5 then s.failPacket q p .reservedField
    else if s.viewError (viewOf s.dev (word p.bytes 2)) 8 then s.failPacket q p .uncorrectable
    else if swaitHolds (word p.bytes 4 % 4) (s.signalValue q (word p.bytes 2)) (.ofNat 64 (word p.bytes 3)) then
      (s.passSignal q (word p.bytes 2)).endNow q p 1 0 (s.queue q).rel
    else (s.viewTouch (viewOf s.dev (word p.bytes 2))).markBegun q p none) := by
  rw [exec_waitPacket, execWaitPacket, onPacket_begins h (by decide) (by decide)]
  dsimp only
  rw [bits_low 1]
  rfl

theorem condPacket_begins (h : onePacket s q idx 5 p) : exec (.condPacket q idx) s = .next (
    if addrBad s.dev 4 (word p.bytes 2) ∨ word p.bytes 4 = 0 ∨ 2 ^ 16 ≤ word p.bytes 4 ∨ !zeroFrom p.bytes 5 then
      s.failPacket q p .reservedField
    else if s.viewError (viewOf s.dev (word p.bytes 2)) 4 then s.failPacket q p .uncorrectable
    else
      let v := ofBytes (s.viewRead (server q) (viewOf s.dev (word p.bytes 2)) 4)
      let u := (s.passSignal q (word p.bytes 2)).endNow q p 1 0 (s.queue q).rel
      if (v &&& word p.bytes 3 / 2 ^ 32) = word p.bytes 3 % 2 ^ 32 then u
      else u.modQueue q (fun k => { k with skip := word p.bytes 4 })) := by
  have hhigh : bits 63 32 (pw p.bytes 3) = word p.bytes 3 / 2 ^ 32 :=
    Nat.mod_eq_of_lt (Nat.div_lt_of_lt_mul (word_lt p.bytes 3))
  rw [exec_condPacket, execCondPacket, onPacket_begins h (by decide) (by decide)]
  dsimp only
  rw [bits_low 31, hhigh]
  rfl

theorem barrierAndPacket_begins (h : onePacket s q idx 7 p) : exec (.barrierAndPacket q idx) s = .next (
    let sigs := barrierSignals p.bytes
    if sigs.any (addrBad s.dev 16) ∨ word p.bytes 7 / 2 ^ 32 ≠ 0 then s.failPacket q p .reservedField
    else if sigs.any (fun a => s.viewError (viewOf s.dev a) 8) then s.failPacket q p .uncorrectable
    else if sigs.all (fun a => s.signalValue q a == 0) then
      (sigs.foldl (fun s a => s.passSignal q a) s).endNow q p 1 0 (s.queue q).rel
    else (sigs.foldl (fun s a => s.viewTouch (viewOf s.dev a)) s).markBegun q p none) := by
  have hhigh : bits 63 32 (pw p.bytes 7) = word p.bytes 7 / 2 ^ 32 :=
    Nat.mod_eq_of_lt (Nat.div_lt_of_lt_mul (word_lt p.bytes 7))
  rw [exec_barrierAndPacket, execBarrierAndPacket, onPacket_begins h (by decide) (by decide)]
  dsimp only
  rw [hhigh]

/-- The signals of a BARRIER-AND packet are its words 2 to 6 that are not zero. -/
theorem mem_barrierSignals {b : List Byte} {a : Nat} : a ∈ barrierSignals b ↔ ∃ i < 5, word b (2 + i) = a ∧ a ≠ 0 := by
  have hpw : ∀ n, pw b n = word b n := fun _ => rfl
  simp only [barrierSignals, List.mem_filter, List.mem_map, List.mem_range, bne_iff_ne, hpw]
  exact ⟨fun ⟨⟨i, hi, ha⟩, hne⟩ => ⟨i, hi, ha, hne⟩, fun ⟨i, hi, ha, hne⟩ => ⟨⟨i, hi, ha⟩, hne⟩⟩

/-- SIGNAL writes VALUE and ends (R67). -/
theorem signalPacket_writes (h : onePacket s q idx 3 p) (h16 : word p.bytes 2 % 16 = 0) (hw : deviceWord s (word p.bytes 2) 8)
    (hop : word p.bytes 4 < 3) (hz : zeroFrom p.bytes 5 = true) (hwf : s.mem.wf = true) :
    let x : Word64 := .ofNat 64 (word p.bytes 3)
    let v := valueAt s (word p.bytes 2)
    ∃ t, exec (.signalPacket q idx) s = .next t ∧ packetIs t q p (.ended 1 0 0) ∧ t.mem.host = s.mem.host ∧ t.teams = s.teams ∧
      bytesStored s t (word p.bytes 2)
        (toBytes 8 (if word p.bytes 4 = 0 then x else if word p.bytes 4 = 1 then v + x else v - x).toNat) := by
  obtain ⟨hview, herr, hfree⟩ := deviceWord_view hw (by decide)
  intro x v
  have hexec := signalPacket_begins h
  rw [addrBad_dev h16 hview, if_neg (by simp [hz, hop]), hview, herr, if_neg Bool.false_ne_true, hfree, if_neg Bool.false_ne_true,
    signalValue_dev hview] at hexec
  obtain ⟨m, c, o, hwr, -, hhost, hstored⟩ := writeUnit_stores hwf (word p.bytes 2)
    (toBytes 8 (if word p.bytes 4 = 0 then x else if word p.bytes 4 = 1 then v + x else v - x).toNat)
  rw [hwr] at hstored
  simp only [State.viewWrite] at hexec
  rw [hwr] at hexec
  obtain ⟨⟨hb, hh⟩, hteams, hend, -⟩ := endNow_one (s := ({ s with mem := m, cores := c, out := o } : State).stampSignal (word p.bytes 2)
    (s.queue q).rel)
    (show (s.queue q).packets = [p] from h.1) 1 0 (s.queue q).rel
  exact ⟨_, hexec, hend, hh.trans hhost, hteams, hstored⟩

/-- WAIT ends when VALUE meets its condition, and waits otherwise (R67). -/
theorem waitPacket_waits (h : onePacket s q idx 4 p) (h16 : word p.bytes 2 % 16 = 0) (hw : deviceWord s (word p.bytes 2) 8)
    (hop : word p.bytes 4 / 4 % 2 ^ 30 = 0) (hz : zeroFrom p.bytes 5 = true) :
    ∃ t, exec (.waitPacket q idx) s = .next t ∧ memoryKept s t ∧
      (meetsCondition (word p.bytes 4 % 4) (valueAt s (word p.bytes 2)) (.ofNat 64 (word p.bytes 3)) → packetIs t q p (.ended 1 0 0)) ∧
      (¬ meetsCondition (word p.bytes 4 % 4) (valueAt s (word p.bytes 2)) (.ofNat 64 (word p.bytes 3)) → packetIs t q p .begun) := by
  obtain ⟨hview, herr, -⟩ := deviceWord_view hw (by decide)
  have hexec := waitPacket_begins h
  rw [addrBad_dev h16 hview, if_neg (by simp only [hz, hop]; decide), hview, herr, if_neg Bool.false_ne_true, signalValue_dev hview,
    ← hview] at hexec
  by_cases hc : meetsCondition (word p.bytes 4 % 4) (valueAt s (word p.bytes 2)) (.ofNat 64 (word p.bytes 3))
  · rw [if_pos ((swaitHolds_iff _ _ _).2 hc)] at hexec
    obtain ⟨⟨hb, hh⟩, -, hpk, -⟩ := passSignal_reads s q (word p.bytes 2)
    obtain ⟨⟨hb', hh'⟩, -, hend, -⟩ := endNow_one (hpk.trans h.1) 1 0 (s.queue q).rel
    exact ⟨_, hexec, ⟨hb'.trans hb, hh'.trans hh⟩, fun _ => hend, fun hn => absurd hc hn⟩
  · rw [if_neg (mt (swaitHolds_iff _ _ _).1 hc)] at hexec
    obtain ⟨⟨hb, hh⟩, -, hpk, -⟩ := viewTouch_reads s q (viewOf s.dev (word p.bytes 2))
    obtain ⟨⟨hb', hh'⟩, -, hbegun⟩ := markBegun_one (hpk.trans h.1) none
    exact ⟨_, hexec, ⟨hb'.trans hb, hh'.trans hh⟩, fun hy => absurd hy hc, fun _ => hbegun⟩

/-- COND ends, and a condition that fails sets the skip count of its queue (R71). -/
theorem condPacket_skips (h : onePacket s q idx 5 p) (h4 : word p.bytes 2 % 4 = 0) (hw : deviceWord s (word p.bytes 2) 4)
    (h1 : 1 ≤ word p.bytes 4) (hn : word p.bytes 4 < 2 ^ 16) (hz : zeroFrom p.bytes 5 = true) :
    let v := ofBytes ((List.range 4).map (fun i => byteAt s (word p.bytes 2 + i)))
    ∃ t, exec (.condPacket q idx) s = .next t ∧ memoryKept s t ∧ packetIs t q p (.ended 1 0 0) ∧
      (t.queue q).skip = if (v &&& word p.bytes 3 / 2 ^ 32) = word p.bytes 3 % 2 ^ 32 then 0 else word p.bytes 4 := by
  obtain ⟨hview, herr, -⟩ := deviceWord_view hw (by decide)
  obtain ⟨hp, -, -, hskip, -, -⟩ := id h
  intro v
  have hexec := condPacket_begins h
  rw [addrBad_dev h4 hview, if_neg (by simp [hz]; omega), hview, herr, if_neg Bool.false_ne_true, State.viewRead, State.readPa_eq]
    at hexec
  obtain ⟨⟨hb, hh⟩, -, hpk, hsk, -⟩ := passSignal_reads s q (word p.bytes 2)
  obtain ⟨⟨hb', hh'⟩, -, hend, hsk'⟩ := endNow_one (hpk.trans hp) 1 0 (s.queue q).rel
  by_cases hc : (v &&& word p.bytes 3 / 2 ^ 32) = word p.bytes 3 % 2 ^ 32
  · refine ⟨_, hexec, ?_⟩
    dsimp only
    rw [if_pos hc, if_pos hc]
    exact ⟨⟨hb'.trans hb, hh'.trans hh⟩, hend, hsk'.trans (hsk.trans hskip)⟩
  · refine ⟨_, hexec, ?_⟩
    dsimp only
    rw [if_neg hc, if_neg hc]
    obtain ⟨p', hone, hbytes, hidx, hst⟩ := hend
    refine ⟨⟨hb'.trans hb, hh'.trans hh⟩, ⟨p', ?_, hbytes, hidx, hst⟩, ?_⟩
    · rw [modQueue_queue_same]; exact hone
    · rw [modQueue_queue_same]

/-- BARRIER-AND ends when every signal that it names is 0, and waits otherwise (R67). -/
theorem barrierAndPacket_waits (h : onePacket s q idx 7 p) (hz : word p.bytes 7 / 2 ^ 32 = 0)
    (hsigs : ∀ a ∈ barrierSignals p.bytes, a % 16 = 0 ∧ deviceWord s a 8) :
    ∃ t, exec (.barrierAndPacket q idx) s = .next t ∧ memoryKept s t ∧
      ((∀ a ∈ barrierSignals p.bytes, valueAt s a = 0) → packetIs t q p (.ended 1 0 0)) ∧
      (∀ a ∈ barrierSignals p.bytes, valueAt s a ≠ 0 → packetIs t q p .begun) := by
  have hview : ∀ a ∈ barrierSignals p.bytes, viewOf s.dev a = .dev a ∧ s.viewError (.dev a) 8 = false := fun a ha =>
    let ⟨hv, he, _⟩ := deviceWord_view (hsigs a ha).2 (by decide)
    ⟨hv, he⟩
  have haddr : (barrierSignals p.bytes).any (addrBad s.dev 16) = false :=
    List.any_eq_false.2 fun a ha => by rw [addrBad_dev (hsigs a ha).1 (hview a ha).1]; exact Bool.false_ne_true
  have herr : (barrierSignals p.bytes).any (fun a => s.viewError (viewOf s.dev a) 8) = false :=
    List.any_eq_false.2 fun a ha => by rw [(hview a ha).1, (hview a ha).2]; exact Bool.false_ne_true
  have hall : (barrierSignals p.bytes).all (fun a => s.signalValue q a == 0) = true ↔
      ∀ a ∈ barrierSignals p.bytes, valueAt s a = 0 := by
    rw [List.all_eq_true]
    exact forall₂_congr fun a ha => by rw [signalValue_dev (hview a ha).1, beq_iff_eq]
  have hexec := barrierAndPacket_begins h
  dsimp only at hexec
  rw [haddr, if_neg (by simp only [hz]; decide), herr, if_neg Bool.false_ne_true] at hexec
  simp only [hall] at hexec
  by_cases hc : ∀ a ∈ barrierSignals p.bytes, valueAt s a = 0
  · rw [if_pos hc] at hexec
    obtain ⟨⟨hb, hh⟩, -, hpk, -⟩ := readsOnly_foldl (fun s a => passSignal_reads s q a) (barrierSignals p.bytes) s
    obtain ⟨⟨hb', hh'⟩, -, hend, -⟩ := endNow_one (hpk.trans h.1) 1 0 (s.queue q).rel
    exact ⟨_, hexec, ⟨hb'.trans hb, hh'.trans hh⟩, fun _ => hend, fun a ha hne => absurd (hc a ha) hne⟩
  · rw [if_neg hc] at hexec
    obtain ⟨⟨hb, hh⟩, -, hpk, -⟩ := readsOnly_foldl (fun s a => viewTouch_reads s q (viewOf s.dev a)) (barrierSignals p.bytes) s
    obtain ⟨⟨hb', hh'⟩, -, hbegun⟩ := markBegun_one (hpk.trans h.1) none
    exact ⟨_, hexec, ⟨hb'.trans hb, hh'.trans hh⟩, fun hy => absurd hy hc, fun _ _ _ => hbegun⟩

/-- A malformed header ends each of the four with RESERVED_FIELD (R63, R66). -/
theorem header_refused (hp : (s.queue q).packets = [p]) (hi : p.idx = .ofNat 32 idx) (hst : p.st = .fetched)
    (hskip : (s.queue q).skip = 0) (hbad : headerBad s.dev p.bytes = true) {e : Nat × Instr}
    (he : e ∈ [(3, Instr.signalPacket q idx), (4, .waitPacket q idx), (5, .condPacket q idx), (7, .barrierAndPacket q idx)])
    (hty : word p.bytes 0 % 2 ^ 8 = e.1) : packetRefused s q p (exec e.2 s) := by
  have hrefuse : ∀ run, s.onPacket q idx e.1 run = s.failPacket q p .reservedField :=
    onPacket_refuses hp hi hst hskip hty hbad
  refine packetRefused_of hp ?_
  simp only [List.mem_cons, List.not_mem_nil, or_false] at he
  rcases he with rfl | rfl | rfl | rfl
  · exact (exec_signalPacket q idx s).trans (congrArg _ (hrefuse _))
  · exact (exec_waitPacket q idx s).trans (congrArg _ (hrefuse _))
  · exact (exec_condPacket q idx s).trans (congrArg _ (hrefuse _))
  · exact (exec_barrierAndPacket q idx s).trans (congrArg _ (hrefuse _))

end Packets

/-- Settles O34, from what each of the four does when it begins, and what its header and body refuse. -/
theorem signalPackets : Obligations.SignalPackets := by
  intro s q idx p w
  refine ⟨fun a h ha h16 hw hop h5 h6 h7 hwf hlen => ?_, fun hlen => ⟨fun h hbad => ?_, fun h hbad => ?_, fun h hbad => ?_,
    fun h hbad => ?_, fun hp hi hst hskip hbad e he hty => header_refused hp hi hst hskip (headerBad_of hbad) he hty⟩,
    fun a h ha h16 hw hop h5 h6 h7 hlen => ?_, fun hp hi hst => ⟨fun hty ht => ?_, fun hty ht => ?_⟩,
    fun a h ha h4 hw h1 hn h5 h6 h7 hlen => ?_, fun h hz hsigs => ?_⟩
  · subst ha
    exact signalPacket_writes h h16 hw hop ((zeroFrom_five hlen).2 ⟨h5, h6, h7⟩) hwf
  · refine packetRefused_of h.1 ((signalPacket_begins h).trans (congrArg _ (if_pos ?_)))
    exact hbad.imp addrBad_of_mod (Or.imp_right (zeroFrom_five_of hlen))
  · refine packetRefused_of h.1 ((waitPacket_begins h).trans (congrArg _ (if_pos ?_)))
    exact hbad.imp addrBad_of_mod (Or.imp_right (zeroFrom_five_of hlen))
  · refine packetRefused_of h.1 ((condPacket_begins h).trans (congrArg _ (if_pos ?_)))
    exact hbad.imp addrBad_of_mod (Or.imp_right (Or.imp_right (zeroFrom_five_of hlen)))
  · refine packetRefused_of h.1 ((barrierAndPacket_begins h).trans (congrArg _ (if_pos ?_)))
    refine hbad.imp_left fun ⟨i, hi, hmod⟩ => List.any_eq_true.2 ⟨_, mem_barrierSignals.2 ⟨i, hi, rfl, ?_⟩, addrBad_of_mod hmod⟩
    exact fun h0 => hmod ((congrArg (· % 16) h0).trans (Nat.zero_mod 16))
  · subst ha
    obtain ⟨t, hexec, hmem, hends, hwaits⟩ := waitPacket_waits h h16 hw hop ((zeroFrom_five hlen).2 ⟨h5, h6, h7⟩)
    exact ⟨fun hc => ⟨t, hexec, hmem, hends hc⟩, fun hc => ⟨t, hexec, hmem, hwaits hc⟩⟩
  · exact ⟨_, rfl, timeOut_one hp hi hst hty ht⟩
  · exact ⟨_, rfl, timeOut_one hp hi hst hty (by rw [bits_low 31]; exact ht)⟩
  · subst ha
    exact condPacket_skips h h4 hw h1 hn ((zeroFrom_five hlen).2 ⟨h5, h6, h7⟩)
  · obtain ⟨t, hexec, hmem, hends, hwaits⟩ := barrierAndPacket_waits h hz fun a ha => by
      obtain ⟨i, hi, rfl, hne⟩ := mem_barrierSignals.1 ha
      exact hsigs i hi hne
    refine ⟨fun hzero => ⟨t, hexec, hmem, hends fun a ha => ?_⟩, fun i hi hne hv => ⟨t, hexec, hmem, hwaits _ ?_ hv⟩⟩
    · obtain ⟨i, hi, rfl, hne⟩ := mem_barrierSignals.1 ha
      exact hzero i hi hne
    · exact mem_barrierSignals.2 ⟨i, hi, rfl, hne⟩

end Sys2Proof.Machine
end

section
/-! SUPPORT. LAUNCH and COPY packets, and a packet's completion (R65, R67 to R69). -/
namespace Sys2Proof.Machine

/-! ## What the checks of a launch leave as it was (R78) -/

/-- A state in which translations have been made: memory, the L1 copies and what is shown to the outside may differ, and nothing else. -/
def translated (s t : State) : Prop := ∃ m c o, t = { s with mem := m, cores := c, out := o }

theorem translated_refl (s : State) : translated s s := ⟨s.mem, s.cores, s.out, rfl⟩

theorem translated.trans {s t u : State} (h : translated s t) (h' : translated t u) : translated s u := by
  obtain ⟨m, c, o, rfl⟩ := h
  obtain ⟨m', c', o', rfl⟩ := h'
  exact ⟨m', c', o', rfl⟩

theorem viewTouch_translated (s : State) (t : ViewTarget) : translated s (s.viewTouch t) := by
  obtain ⟨m, o, h, -⟩ := viewTouch_is s t
  exact ⟨m, s.cores, o, h⟩

theorem noteWalk_translated (s : State) (asid vpn : Nat) : translated s (s.noteWalk asid vpn) := by
  unfold State.noteWalk
  exact foldl_keeps (translated s) _ _ _ (translated_refl s) fun t a h => h.trans (viewTouch_translated t (.dev a))

theorem writeEntry_translated (s : State) (pa : Nat) (e : BitVec 64) : translated s (s.writeEntry pa e) :=
  writeHome_is s [] 0 pa (toBytes 8 e.toNat)

theorem walkFor_translated (s : State) (asid va : Nat) (kind : AccKind) : translated s (s.walkFor asid va kind).1 := by
  have hnote := noteWalk_translated s asid (va / 0x10000)
  unfold State.walkFor
  generalize walk s asid false (va / 0x10000) = w at *
  generalize s.noteWalk asid (va / 0x10000) = t at *
  cases w with
  | fault => exact hnote
  | uncorrectable => exact hnote
  | leaf e pa vpn =>
    dsimp only
    split_ifs
    · exact hnote
    · exact hnote
    · exact hnote.trans ⟨_, t.cores, t.out, rfl⟩
    · exact (hnote.trans (writeEntry_translated t pa _)).trans ⟨_, _, _, rfl⟩

theorem translated_of_walkFor {s t : State} {asid va : Nat} {kind : AccKind} {r : Except TrapClass (Option Nat)}
    (h : s.walkFor asid va kind = (t, r)) : translated s t := by
  have := walkFor_translated s asid va kind
  rwa [h] at this

/-- The last checks of a descriptor: its entry point and its literal page can be fetched (R78). -/
def State.checkBases (s : State) (asid : Nat) (k : Kdesc) : State × Except TrapClass Kdesc :=
  match s.walkFor asid k.sentry.toNat .fetch with
  | (s, .error _) => (s, .error .protection)
  | (s, .ok _) =>
    match s.walkFor asid k.lbase.toNat .fetch with
    | (s, .error _) => (s, .error .protection)
    | (s, .ok _) => (s, .ok k)

theorem checkBases_translated (s : State) (asid : Nat) (k : Kdesc) : translated s (s.checkBases asid k).1 := by
  unfold State.checkBases
  split
  · next h => exact translated_of_walkFor h
  next h =>
  split
  · next h' => exact (translated_of_walkFor h).trans (translated_of_walkFor h')
  · next h' => exact (translated_of_walkFor h).trans (translated_of_walkFor h')

/-- The checks of a launch translate, and change nothing else (R78). -/
theorem checkLaunch_translated (s : State) (asid : Nat) (csig : Bool) (b : List Byte) : translated s (s.checkLaunch asid csig b).1 := by
  unfold State.checkLaunch
  split
  · exact translated_refl s
  split
  · exact translated_refl s
  split
  · next h => exact translated_of_walkFor h
  next s1 pa h =>
  have hwalk := translated_of_walkFor h
  cases pa with
  | none =>
    simp only [Bool.false_eq_true, if_false]
    split_ifs
    · exact hwalk
    · exact hwalk
    · exact hwalk.trans (checkBases_translated s1 asid _)
  | some a =>
    have hread := hwalk.trans (viewTouch_translated s1 (.dev a))
    dsimp only
    split_ifs
    · exact hread
    · exact hread
    · exact hread
    · exact hread.trans (checkBases_translated _ asid _)

/-! ## LAUNCH packets (R65) -/

/-- The launch of a packet begins, with its packet (R65). -/
def State.beginLaunch (s : State) (q : Nat) (p : Packet) (acq n : Nat) : State :=
  (s.modLaunch n (fun l => { l with begun := true, acq := acq })).markBegun q p (some n)

/-- The launch of the only packet of a queue begins. -/
theorem beginLaunch_one {s : State} {q : Nat} {p : Packet} (hp : (s.queue q).packets = [p]) (acq : Nat) {n : Nat} {l : Launch}
    (hl : s.launch n = some l) : memoryKept s (s.beginLaunch q p acq n) ∧ (s.beginLaunch q p acq n).teams = s.teams ∧
      packetIs (s.beginLaunch q p acq n) q p .begun ∧
      (s.beginLaunch q p acq n).launch n = some { l with begun := true, acq := acq } := by
  obtain ⟨hmem, hteams, hbegun⟩ := markBegun_one (s := s.modLaunch n (fun l => { l with begun := true, acq := acq }))
    (show (s.queue q).packets = [p] from hp) (some n)
  refine ⟨hmem, hteams, hbegun, ?_⟩
  refine (modLaunch_launch s n n _).trans ?_
  rw [if_pos rfl, hl, Option.map_some]

/-- A journal that does not record is never full (R258). -/
theorem journalFull_off {s : State} (h : s.dbg.jctl = 0) (n : Nat) : s.journalFull n = false := by
  rw [State.journalFull, h]; rfl

section LaunchPacket

variable {s : State} {q idx : Nat} {p : Packet} (h : onePacket s q idx 1 p) (hj : s.dbg.jctl = 0)
include h hj

/-- The launch that DISP made for a packet begins (R65). -/
theorem launchPacket_dispatched {n : Nat} {l : Launch} (hl : s.sched.launches = [(n, l)]) (hq : l.queue = q) (hpkt : l.pkt = some p.idx)
    (hb : l.begun = false) : exec (.launchPacket q idx) s = .next (s.beginLaunch q p (s.queue q).rel n) := by
  have hfind : s.sched.launches.find? (fun e => e.2.queue == q && e.2.pkt == some p.idx && !e.2.begun) = some (n, l) := by
    rw [hl, List.find?_cons_of_pos (by simp [hq, hpkt, hb])]
  obtain ⟨-, -, hst, -⟩ := id h
  rw [exec_launchPacket, execLaunchPacket, onPacket_begins h (by decide) (by decide)]
  dsimp only
  rw [hst, journalFull_off hj, if_neg (by decide), hfind]
  exact congrArg _ (journal_off (s := s.beginLaunch q p (s.queue q).rel n) hj ..)

/-- A packet that DISP was not handed is checked, and its launch is made and begins (R65). -/
theorem launchPacket_checked {s1 : State} {n : Nat} {d : Kdesc} (hl : s.sched.launches = []) (hsw : s.dev.switching = false)
    (hw : s.checkWaits (qctlAsid (s.queue q)) p.bytes = false)
    (hc : s.checkLaunch (qctlAsid (s.queue q)) true p.bytes = (s1, .ok d)) (hn : AMap.freeBelow s1.sched.launches 4096 = some n) :
    ∃ u, s1.addLaunch (newLaunch q (s.queue q) (some p.idx) p.bytes d 0) = some (u, n) ∧
      exec (.launchPacket q idx) s = .next (u.beginLaunch q p (s.queue q).rel n) := by
  obtain ⟨u, hadd⟩ : ∃ u, s1.addLaunch (newLaunch q (s.queue q) (some p.idx) p.bytes d 0) = some (u, n) :=
    ⟨_, by rw [State.addLaunch, hn, Option.map_some]⟩
  have hstall : s.dispStalls = false := by rw [State.dispStalls, hl, hsw]; rfl
  obtain ⟨m, c, o, hs1⟩ := checkLaunch_translated s (qctlAsid (s.queue q)) true p.bytes
  rw [hc] at hs1
  obtain ⟨-, -, hst, -⟩ := id h
  refine ⟨u, hadd, ?_⟩
  rw [exec_launchPacket, execLaunchPacket, onPacket_begins h (by decide) (by decide)]
  dsimp only
  rw [hst, journalFull_off hj, if_neg (by decide), hl, List.find?_nil]
  dsimp only
  rw [hstall, hw, hc]
  dsimp only
  rw [hadd]
  refine congrArg _ (journal_off ?_ ..)
  obtain ⟨m', -, hu⟩ := Option.map_eq_some_iff.1 hadd
  cases hu
  exact (congrArg (fun t : State => t.dbg.jctl) hs1).trans hj

end LaunchPacket

/-- A launch that takes a free handle: it holds what it was made with, and nothing else of the packets changes (R60). -/
theorem addLaunch_launch {s u : State} {l : Launch} {n : Nat} (h : s.addLaunch l = some (u, n)) :
    memoryKept s u ∧ u.teams = s.teams ∧ (∀ j, u.queue j = s.queue j) ∧ (∀ j, u.hart j = s.hart j) ∧
      (∀ j, u.launch j = if j = n then some { l with order := s.sched.dispCount } else s.launch j) := by
  obtain ⟨m, -, hu⟩ := Option.map_eq_some_iff.1 h
  cases hu
  exact ⟨⟨rfl, rfl⟩, rfl, fun j => rfl, fun j => rfl, fun j => AMap.find_insert _ _ _ _⟩

/-! ## COPY packets (R67) -/

/-- Ranges that are registered change the engines, and not their copies (R237). -/
theorem register_is (s : State) (o : LockOwner) (rs : List LockRange) :
    ∃ e, s.register o rs = { s with eng := e } ∧ e.copies = s.eng.copies := by
  unfold State.register
  dsimp only
  split
  · exact ⟨s.eng, rfl, rfl⟩
  · exact ⟨_, rfl, rfl⟩

theorem copyPacket_begins {s : State} {q idx : Nat} {p : Packet} (h : onePacket s q idx 2 p) :
    let w := word p.bytes
    exec (.copyPacket q idx) s = .next (
      if w 4 = 0 ∨ 2 ^ 40 ≤ w 4 ∨ !zeroFrom p.bytes 5 ∨ !viewFits s.dev (w 2) (w 4) ∨ !viewFits s.dev (w 3) (w 4) then
        s.failPacket q p .reservedField
      else if w 2 < w 3 + w 4 ∧ w 3 < w 2 + w 4 then s.failPacket q p .operandOverlap
      else
        let c : Copy := { packetCopy q p.idx p.bytes with id := s.eng.nextId }
        let u := { s with eng := { s.eng with nextId := c.id + 1, copies := s.eng.copies ++ [c] } }
        (u.register (.copy c.id) (viewLocks s.dev false (w 2) (w 4) ++ viewLocks s.dev true (w 3) (w 4))).markBegun q p (some c.id)) := by
  obtain ⟨-, -, hst, -⟩ := id h
  rw [exec_copyPacket, execCopyPacket, onPacket_begins h (by decide) (by decide)]
  dsimp only
  rw [hst, if_neg (by decide)]
  rfl

/-- Bytes of device memory within its limit lie in the range of their target (R54). -/
theorem viewFits_dev {d : Dev} {a n : Nat} (hn : 1 ≤ n) (h : a + n ≤ d.limit) : viewFits d a n = true := by
  rw [viewFits, viewOf_dev (by omega)]
  exact decide_eq_true h

theorem word_ofNat_toNat (b : List Byte) (n : Nat) : (BitVec.ofNat 64 (word b n)).toNat = word b n := by
  rw [BitVec.toNat_ofNat, Nat.mod_eq_of_lt (word_lt b n)]

section CopyPacket

variable {s : State} {q idx : Nat} {p : Packet} (h : onePacket s q idx 2 p) (hlen : p.bytes.length = 64) (h1 : 1 ≤ word p.bytes 4)
  (hsrc : word p.bytes 2 + word p.bytes 4 ≤ s.dev.limit) (hdst : word p.bytes 3 + word p.bytes 4 ≤ s.dev.limit)
  (h40 : word p.bytes 4 < 2 ^ 40) (h5 : word p.bytes 5 = 0) (h6 : word p.bytes 6 = 0) (h7 : word p.bytes 7 = 0)
include hlen h1 hsrc hdst h40 h5 h6 h7

/-- A COPY packet of device memory to device memory is well formed (R66). -/
theorem copyPacket_good : ¬ (word p.bytes 4 = 0 ∨ 2 ^ 40 ≤ word p.bytes 4 ∨ (!zeroFrom p.bytes 5) = true ∨
    (!viewFits s.dev (word p.bytes 2) (word p.bytes 4)) = true ∨ (!viewFits s.dev (word p.bytes 3) (word p.bytes 4)) = true) := by
  rw [(zeroFrom_five hlen).2 ⟨h5, h6, h7⟩, viewFits_dev h1 hsrc, viewFits_dev h1 hdst]
  simp only [Bool.not_true, Bool.false_eq_true, or_false]
  omega

include h

theorem copyPacket_enters (hoff : word p.bytes 2 + word p.bytes 4 ≤ word p.bytes 3 ∨ word p.bytes 3 + word p.bytes 4 ≤ word p.bytes 2) :
    ∃ t c, exec (.copyPacket q idx) s = .next t ∧ memoryKept s t ∧ packetIs t q p .begun ∧ t.eng.copies = s.eng.copies ++ [c] ∧
      c.src.toNat = word p.bytes 2 ∧ c.dst.toNat = word p.bytes 3 ∧ c.total = word p.bytes 4 ∧ c.mode = 0 ∧
      c.packet = some (q, p.idx) ∧ c.moved = 0 := by
  have hexec := copyPacket_begins h
  dsimp only at hexec
  rw [if_neg (copyPacket_good hlen h1 hsrc hdst h40 h5 h6 h7), if_neg (by omega)] at hexec
  obtain ⟨e, hreg, hcopies⟩ := register_is
    { s with eng := { s.eng with nextId := s.eng.nextId + 1, copies := s.eng.copies ++ [{ packetCopy q p.idx p.bytes with id := s.eng.nextId }] } }
    (.copy s.eng.nextId)
    (viewLocks s.dev false (word p.bytes 2) (word p.bytes 4) ++ viewLocks s.dev true (word p.bytes 3) (word p.bytes 4))
  rw [hreg] at hexec
  obtain ⟨hmem, -, hbegun⟩ := markBegun_one (s := { s with eng := e }) (show (s.queue q).packets = [p] from h.1) (some s.eng.nextId)
  exact ⟨_, _, hexec, hmem, hbegun, hcopies, word_ofNat_toNat _ 2, word_ofNat_toNat _ 3, rfl, rfl, rfl, rfl⟩

theorem copyPacket_overlaps (h23 : word p.bytes 2 < word p.bytes 3 + word p.bytes 4)
    (h32 : word p.bytes 3 < word p.bytes 2 + word p.bytes 4) : ∃ t, exec (.copyPacket q idx) s = .next t ∧ memoryKept s t ∧
      packetIs t q p (.ended 2 TrapClass.operandOverlap.code 0) := by
  have hexec := copyPacket_begins h
  dsimp only at hexec
  rw [if_neg (copyPacket_good hlen h1 hsrc hdst h40 h5 h6 h7), if_pos ⟨h23, h32⟩] at hexec
  obtain ⟨hmem, -, hend⟩ := endUnbegun_one h.1 2 TrapClass.operandOverlap.code
  exact ⟨_, hexec, hmem, hend⟩

end CopyPacket

/-! ## The completion of launches and packets (R65, R68, R69) -/

/-- The only packet of a queue, which has begun, ends. -/
theorem endPacket_one {s : State} {q : Nat} {p : Packet} (hp : (s.queue q).packets = [p]) (hst : p.st = .begun) (o c : Nat)
    (task : BitVec 32) (rel : Nat) : memoryKept s (s.endPacket q p.idx o c task rel) ∧
      packetIs (s.endPacket q p.idx o c task rel) q p (.ended o c task) := by
  refine ⟨⟨rfl, rfl⟩, { p with st := .ended o c task, rel := rel }, ?_, rfl, rfl, rfl⟩
  rw [State.endPacket, modQueue_queue_same, hp, List.map_singleton, if_pos ⟨rfl, hst⟩]

/-- How a launch's packet ends. -/
theorem ending_eq (l : Launch) : PktState.ended l.ending.1 l.ending.2.1 l.ending.2.2 = match l.failed with
    | some (c, task) => .ended 2 c task
    | none => if l.cancelled = true then .ended 3 TrapClass.cancelled.code 0 else .ended 1 0 0 := by
  unfold Launch.ending
  cases l.failed with
  | some e => rfl
  | none => dsimp only; split <;> rfl

/-- A launch that is over leaves the dispatcher, and its packet ends (R65). -/
theorem launchCompletion_ends {s : State} {n : Nat} {l : Launch} {p : Packet} (hl : s.launch n = some l) (hover : s.launchOver n l = true)
    (hr : l.rebuild = none) (hpkt : l.pkt = some p.idx) (hp : (s.queue l.queue).packets = [p]) (hst : p.st = .begun)
    (hrise : AMap.rising s.sched.launches = true) : ∃ t, exec (.launchCompletion n) s = .next t ∧ memoryKept s t ∧ t.launch n = none ∧
      (∀ m, m ≠ n → t.launch m = s.launch m) ∧ packetIs t l.queue p (.ended l.ending.1 l.ending.2.1 l.ending.2.2) := by
  have hexec : exec (.launchCompletion n) s = .next (({ s with sched := { s.sched with launches := AMap.erase n s.sched.launches } } :
      State).endPacket l.queue p.idx l.ending.1 l.ending.2.1 l.ending.2.2 (max l.acq l.rel)) := by
    rw [exec_launchCompletion, execLaunchCompletion, hl]
    dsimp only
    rw [if_pos ⟨hover, by rw [hr]; rfl⟩, State.endLaunch, hpkt]
  obtain ⟨hmem, hend⟩ := endPacket_one (s := { s with sched := { s.sched with launches := AMap.erase n s.sched.launches } }) hp hst
    l.ending.1 l.ending.2.1 l.ending.2.2 (max l.acq l.rel)
  have hfind := AMap.find_erase s.sched.launches hrise n
  exact ⟨_, hexec, hmem, (hfind n).trans (if_pos rfl), fun m hm => (hfind m).trans (if_neg hm), hend⟩

/-- Two writes, of bytes and of the bytes before them. -/
theorem bytesStored_append {s t u : State} {a : Nat} {as bs : List Byte} (h : bytesStored s t (a + as.length) bs)
    (h' : bytesStored t u a as) : bytesStored s u a (as ++ bs) := by
  intro x
  rw [h' x, h x, List.length_append]
  by_cases hlow : a ≤ x ∧ x < a + as.length
  · rw [if_pos hlow, if_pos (by omega), List.getD_append _ _ _ _ (by omega)]
  · rw [if_neg hlow]
    by_cases hhigh : a + as.length ≤ x ∧ x < a + as.length + bs.length
    · rw [if_pos hhigh, if_pos (by omega), List.getD_append_right _ _ _ _ (by omega)]
      congr 1
      omega
    · rw [if_neg hhigh, if_neg (by omega)]

/-- A packet's end is written to its signal: the outcome behind VALUE, and VALUE less one (R69). -/
theorem writeSignal_stores {s : State} {a : Nat} (h0 : a ≠ 0) (hlim : a + 16 ≤ s.dev.limit) (hwf : s.mem.wf = true) (q o c : Nat)
    (task : BitVec 32) (rel : Nat) : ∃ m cs out, s.writeSignal q a o c task rel =
        ({ s with mem := m, cores := cs, out := out } : State).stampSignal a rel ∧
      bytesStored s (s.writeSignal q a o c task rel) a
        (toBytes 8 (valueAt s a - 1).toNat ++ toBytes 8 (o + c * 2 ^ 8 + task.toNat * 2 ^ 32)) := by
  obtain ⟨m, cs, out, hwr, hwf', -, hstored⟩ := writeUnit_stores hwf (a + 8) (toBytes 8 (o + c * 2 ^ 8 + task.toNat * 2 ^ 32))
  obtain ⟨m', cs', out', hwr', -, -, hstored'⟩ := writeUnit_stores (s := { s with mem := m, cores := cs, out := out }) hwf' a
    (toBytes 8 (valueAt s a - 1).toNat)
  have heq : s.writeSignal q a o c task rel = ({ s with mem := m', cores := cs', out := out' } : State).stampSignal a rel := by
    rw [State.writeSignal, if_neg h0, viewOf_dev (a := a) (by omega), viewOf_dev (a := a + 8) (by omega)]
    dsimp only
    rw [viewRead_value]
    simp only [State.viewWrite]
    rw [hwr, hwr']
    rfl
  refine ⟨m', cs', out', heq, ?_⟩
  rw [heq]
  rw [hwr] at hstored
  rw [hwr'] at hstored'
  exact bytesStored_append (by rw [length_toBytes]; exact hstored) hstored'

/-- The only packet of a queue is reported: its signal is written, and QRD passes it (R69). -/
theorem reportPacket_one {s : State} {q a o c : Nat} {task : BitVec 32} {p : Packet} (hp : (s.queue q).packets = [p])
    (hst : p.st = .ended o c task) (ha : word p.bytes 1 = a) (h0 : a ≠ 0) (h16 : a % 16 = 0) (hlim : a + 16 ≤ s.dev.limit)
    (hwf : s.mem.wf = true) : ((s.reportPacket q p).queue q).packets = [] ∧
      ((s.reportPacket q p).queue q).qrd = (s.queue q).qrd + 1 ∧ (s.reportPacket q p).teams = s.teams ∧
      bytesStored s (s.reportPacket q p) a
        (toBytes 8 (valueAt s a - 1).toNat ++ toBytes 8 (o + c * 2 ^ 8 + task.toNat * 2 ^ 32)) := by
  obtain ⟨m, cs, out, hwr, hstored⟩ := writeSignal_stores h0 hlim hwf q o c task p.rel
  have hsig : pktCsig p.bytes = a := ha
  obtain ⟨u, hu, hqueue, hteams, hbytes⟩ : ∃ u : State, s.reportPacket q p = u.modQueue q (fun k =>
        { k.modPacket p.idx (fun x => { x with st := .reported }) with rel := max k.rel p.rel }.retired) ∧
      u.queue q = s.queue q ∧ u.teams = s.teams ∧ u.mem = (s.writeSignal q a o c task p.rel).mem := by
    unfold State.reportPacket
    rw [hst]
    dsimp only
    rw [hsig, if_pos h16]
    refine ⟨_, rfl, ?_⟩
    split
    · rw [hwr]; exact ⟨rfl, rfl, rfl⟩
    · rw [hwr]; exact ⟨rfl, rfl, rfl⟩
  rw [hu, modQueue_queue_same, hqueue]
  have hretire : retire ((s.queue q).modPacket p.idx (fun x => { x with st := .reported })).packets (s.queue q).qrd =
      ([], (s.queue q).qrd + 1) := by
    rw [modPacket_one hp]; rfl
  refine ⟨congrArg Prod.fst hretire, congrArg Prod.snd hretire, hteams, fun x => ?_⟩
  rw [← hstored x]
  show Tab.get 0 u.mem.bytes x = _
  rw [hbytes]
  rfl

/-- A packet whose signal's line is free is reported, unless its queue waits after a ring error (R68, R69). -/
theorem packetCompletion_eq {s : State} {q idx a : Nat} {p : Packet} (hp : (s.queue q).packets = [p]) (hi : p.idx = .ofNat 32 idx)
    (ha : word p.bytes 1 = a) (hlim : a < s.dev.limit) (hheld : s.lineHeld a = false) : exec (.packetCompletion q idx) s =
      .next (if (s.queue q).qerr = 1 ∧ s.resetWaits q = true then s else s.reportPacket q p) := by
  have hsig : pktCsig p.bytes = a := ha
  rw [exec_packetCompletion, execPacketCompletion, ← hi, packet_one hp]
  dsimp only
  rw [hsig, viewOf_dev hlim, State.viewBlocked, hheld]
  simp only [Bool.false_eq_true, false_and, false_or]

/-- Settles O35, from LAUNCH with and without DISP, COPY, the end of a launch and the report of a packet. -/
theorem launchAndCompletion : Obligations.LaunchAndCompletion := by
  refine ⟨fun s q idx n p l h hj hl hq hpkt hb => ?_, fun s s1 q idx n p d h hj hl hsw hw hc hn => ?_,
    fun s q idx p h hlen => ?_,
    fun s n idx l p hl hover hr hpkt hp hi hst hrise => ?_,
    fun s q idx a o c task p hp hi hst ho hc ha h0 h16 hlim hheld hwf => ⟨fun herr hcopy => ?_, fun herr => ?_⟩⟩
  · have hlaunch : s.launch n = some l := by rw [State.launch, hl, AMap.find, if_pos rfl]
    exact ⟨_, launchPacket_dispatched h hj hl hq hpkt hb, beginLaunch_one h.1 _ hlaunch⟩
  · obtain ⟨u, hadd, hexec⟩ := launchPacket_checked h hj hl hsw hw hc hn
    obtain ⟨m, cs, out, hs1⟩ := checkLaunch_translated s (qctlAsid (s.queue q)) true p.bytes
    have hqueue : s1.queue q = s.queue q := by
      have hs1 : s1 = { s with mem := m, cores := cs, out := out } := by rw [← hs1]; exact (congrArg Prod.fst hc).symm
      rw [hs1]; rfl
    obtain ⟨⟨hb, hh⟩, -, hqu, -, hlu⟩ := addLaunch_launch hadd
    have hlaunch := (hlu n).trans (if_pos rfl)
    obtain ⟨⟨hb', hh'⟩, -, hbegun, hl'⟩ := beginLaunch_one (by rw [hqu, hqueue, h.1]) (s.queue q).rel hlaunch
    exact ⟨_, _, hexec, ⟨hb'.trans hb, hh'.trans hh⟩, hbegun, hl', rfl, rfl, rfl, rfl⟩
  · intro w h1 hsrc hdst h40 h5 h6 h7
    exact ⟨copyPacket_enters h hlen h1 hsrc hdst h40 h5 h6 h7, copyPacket_overlaps h hlen h1 hsrc hdst h40 h5 h6 h7⟩
  · obtain ⟨t, hexec, hmem, hgone, hother, hend⟩ := launchCompletion_ends hl hover hr (hi ▸ hpkt) hp hst hrise
    rw [ending_eq] at hend
    exact ⟨t, hexec, hmem, hgone, hother, hend⟩
  · obtain ⟨d, hd, i, hdi⟩ := hcopy
    have hwaits : s.resetWaits q = true := by
      unfold State.resetWaits
      simp only [Bool.or_eq_true]
      exact .inl (.inl (.inl (.inl (List.any_eq_true.2 ⟨d, hd, by rw [hdi]; exact beq_self_eq_true q⟩))))
    rw [packetCompletion_eq hp hi ha (by omega) hheld, if_pos ⟨herr, hwaits⟩]
  · refine ⟨_, packetCompletion_eq hp hi ha (by omega) hheld, ?_⟩
    rw [if_neg (fun h => by rw [herr] at h; exact absurd h.1 (by decide))]
    exact reportPacket_one hp hst ha h0 h16 hlim hwf

end Sys2Proof.Machine
end

section
/-! SUPPORT. What the cancelling of launches leaves of the queue processors (R68, R73, R247). -/
namespace Sys2Proof.Machine

theorem foldl_harts {α : Type} {f : State → α → State} (hf : ∀ s a, (f s a).sched.harts = s.sched.harts) (as : List α) (s : State) :
    (as.foldl f s).sched.harts = s.sched.harts :=
  foldl_keeps (fun t : State => t.sched.harts = s.sched.harts) f as s rfl fun t a h => (hf t a).trans h

theorem report_harts (s : State) (team : BitVec 32) (r : List Byte) : (s.report team r).sched.harts = s.sched.harts := by
  obtain ⟨m, c, o, f, d, h⟩ := report_is s team r
  rw [h]

theorem poolWrite_harts (s : State) (id : BitVec 32) (off : Nat) (bs : List Byte) (rel : Nat) :
    (s.poolWrite id off bs rel).sched.harts = s.sched.harts := by
  unfold State.poolWrite; split <;> rfl

theorem countDown_harts (s : State) (id : BitVec 32) (off n errs rel : Nat) :
    (s.countDown id off n errs rel).sched.harts = s.sched.harts := by
  unfold State.countDown
  dsimp only
  split
  · rfl
  · exact poolWrite_harts s _ _ _ _

theorem dropCopies_harts (s : State) (id : BitVec 32) : (s.dropCopies id).sched.harts = s.sched.harts := by
  unfold State.dropCopies
  dsimp only
  split
  · exact foldl_harts (fun t c => (countDown_harts _ _ _ _ _ _).trans (poolWrite_harts t _ _ _ _)) _ s
  · rfl

theorem modCore_harts (s : State) (c : Nat) (f : Core → Core) : (s.modCore c f).sched.harts = s.sched.harts := rfl

theorem leaveCore_harts (s : State) (core key : Nat) (t : Team) : (s.leaveCore core key t).sched.harts = s.sched.harts := rfl

theorem leaveCores_harts (s : State) (key : Nat) (t : Team) : (s.leaveCores key t).sched.harts = s.sched.harts := by
  unfold State.leaveCores
  exact foldl_harts (fun u c => leaveCore_harts u c key t) _ s

theorem passPts_harts (s : State) (key : Nat) (t : Team) (pts : Nat) : (s.passPts key t pts).sched.harts = s.sched.harts := by
  unfold State.passPts
  exact foldl_harts (fun u c => modCore_harts u c _) _ s

theorem settleVacate_harts (s : State) : s.settleVacate.sched.harts = s.sched.harts := by
  unfold State.settleVacate
  dsimp only
  generalize hv : (if s.sched.vacating.all (fun c => (s.teamsOn c).isEmpty) then
    { s with sched := { s.sched with vacating := [] } } else s : State) = v
  have h : v.sched.harts = s.sched.harts := by rw [← hv]; split <;> rfl
  split
  · generalize hu : List.foldl _ _ _ = u
    have hvu : u.sched.harts = v.sched.harts := hu ▸ foldl_harts (fun w c => modCore_harts w c _) _ v
    exact hvu.trans h
  · exact h

theorem settleNb_harts (s : State) (h nb : Nat) : (s.settleNb h nb).sched.harts = s.sched.harts := by
  unfold State.settleNb
  split
  · rfl
  · split <;> rfl

theorem afterEnd_harts (s : State) (t : Team) : (s.afterEnd t).sched.harts = s.sched.harts := by
  unfold State.afterEnd
  exact (settleVacate_harts _).trans (settleNb_harts _ _ _)

theorem removeTeam_harts (s : State) (key : Nat) : (s.removeTeam key).sched.harts = s.sched.harts := by
  unfold State.removeTeam
  split
  · rfl
  · next t _ =>
    refine (afterEnd_harts _ _).trans ?_
    exact (foldl_harts (fun u p => passPts_harts u key t _) _ _).trans (leaveCores_harts s key t)

theorem discardTeam_harts (s : State) (key : Nat) : (s.discardTeam key).sched.harts = s.sched.harts := by
  unfold State.discardTeam
  split
  · rfl
  · exact (removeTeam_harts _ key).trans (dropCopies_harts s _)

theorem reportTrap_harts (s : State) (key pi : Nat) (cls : TrapClass) (lane : Nat) (va : BitVec 64) :
    (s.reportTrap key pi cls lane va).sched.harts = s.sched.harts := by
  unfold State.reportTrap
  split
  · rfl
  · dsimp only
    split
    · exact report_harts s _ _
    · exact report_harts s _ _

theorem cancelTeam_harts (s : State) (key : Nat) : (s.cancelTeam key).sched.harts = s.sched.harts := by
  unfold State.cancelTeam
  split
  · rfl
  · exact (discardTeam_harts _ key).trans (reportTrap_harts s _ _ _ _ _)

theorem cancelSavedTeam_harts (s : State) (t : Team) : (s.cancelSavedTeam t).sched.harts = s.sched.harts := by
  unfold State.cancelSavedTeam
  refine (afterEnd_harts _ t).trans ?_
  exact (dropCopies_harts _ t.teamId).trans (report_harts s _ _)

theorem cancelLaunch_harts (s : State) (h : Nat) : (s.cancelLaunch h).sched.harts = s.sched.harts := by
  have hsaved : ∀ (u : State) hit, (u.cancelSaved hit).sched.harts = u.sched.harts := fun u hit =>
    foldl_harts cancelSavedTeam_harts _ u
  exact (hsaved _ _).trans (foldl_harts (fun u (e : Nat × Team) => cancelTeam_harts u e.1) _ s)

/-- A queue whose work is cancelled: its packets have been, and its launches are on their way (R68, R73). -/
theorem cancelQueue_keeps (s : State) (q : Nat) : (s.cancelQueue q).sched.harts = s.sched.harts ∧
    (s.cancelQueue q).queue q = { s.queue q with packets := (s.queue q).packets.map Packet.cancelled, skip := 0 } := by
  obtain ⟨u, hu, hharts, hqueue⟩ : ∃ u : State, s.cancelQueue q = (u.launchesOf q).foldl (fun s h => s.cancelLaunch h) u ∧
      u.sched.harts = s.sched.harts ∧
      u.queue q = { s.queue q with packets := (s.queue q).packets.map Packet.cancelled, skip := 0 } :=
    ⟨_, rfl, rfl, modQueue_queue_same _ q _⟩
  have hqueues := (WindsDown.foldl cancelLaunch_windsDown (u.launchesOf q) u).queues
  rw [hu]
  refine ⟨(foldl_harts cancelLaunch_harts _ u).trans hharts, ?_⟩
  rw [← hqueue, State.queue, State.queue, hqueues]

end Sys2Proof.Machine
end

section
/-! SUPPORT. RFETCH and DISP (R56, R57, R60, R64). -/
namespace Sys2Proof.Machine

/-! ## Queues and buffers that an instruction names (R56) -/

theorem queueRefused_iff (h : Nat) (v : Word64) : queueRefused h v = true ↔ 1024 ≤ v.toNat ∨ v.toNat % 8 ≠ h := by
  rw [queueRefused, Bool.or_eq_true, decide_eq_true_eq, bne_iff_ne]
  rfl

theorem queueRefused_served {h q : Nat} {v : Word64} (hv : v.toNat = q) (hq : q < 1024) (hh : q % 8 = h) : queueRefused h v = false := by
  rw [← Bool.not_eq_true, queueRefused_iff]
  omega

theorem sramBuffer_some {d : Dev} {v : Word64} {off : Nat} (hv : sramAddr v off) (h64 : off % 64 = 0) : sramBuffer d v = some off := by
  rw [sramBuffer, (viewOf_sram_iff d v off).2 hv]
  exact if_pos h64

theorem sramBuffer_none {d : Dev} {v : Word64} (h : ∀ off, sramAddr v off → off % 64 ≠ 0) : sramBuffer d v = none := by
  unfold sramBuffer
  split
  · next off hoff => exact if_neg (h off ((viewOf_sram_iff d v off).1 hoff))
  · rfl

/-! ## RFETCH (R57) -/

/-- A packet has arrived in local SRAM and in its queue, with its header in rd (R57). -/
def packetArrives (s t : State) (h q off : Nat) (k : Hart) (rd : Reg5) (b : List Byte) : Prop :=
  memoryKept s t ∧ t.teams = s.teams ∧
    (∀ r, (t.hart h).r r = if r = rd ∧ r ≠ 0 then .ofNat 64 (ofBytes (b.take 8)) else k.r r) ∧
    (t.hart h).pc = k.pc + 4 ∧
    (∀ y, Tab.get 0 (t.hart h).sram y = if off ≤ y ∧ y < off + 64 then b.getD (y - off) 0 else Tab.get 0 k.sram y) ∧
    (t.queue q).fetchIdx = (s.queue q).fetchIdx + 1 ∧
    ∃ p, (t.queue q).packets = (s.queue q).packets ++ [p] ∧ p.bytes = b ∧ p.idx = (s.queue q).fetchIdx ∧ p.st = .fetched

/-- A queue whose next packet has been fetched. -/
def Queue.fetches (k : Queue) (b : List Byte) (rel : Nat) (inlined : Bool) : Queue :=
  { k with
    packets := k.packets ++ [{ idx := k.fetchIdx, bytes := b, st := .fetched, item := none, rel := 0 }],
    fetchIdx := k.fetchIdx + 1,
    rel := max k.rel rel,
    inline_ := if inlined then none else k.inline_ }

/-- A queue processor whose local SRAM has taken a packet. -/
def Hart.receives (k : Hart) (off : Nat) (b : List Byte) : Hart := { k with sram := Tab.setList 0 off b k.sram }

theorem fetched_eq (s : State) (h q off : Nat) (rd : Reg5) (b : List Byte) (rel : Nat) (inlined : Bool) :
    fetched s h q off rd b rel inlined =
      hartDone ((s.modHart h (fun k => k.receives off b)).modQueue q (fun k => k.fetches b rel inlined)) h rd (.ofNat 64 (pw b 0)) := rfl

theorem fetched_arrives {s : State} {h : Nat} {k : Hart} (hk : s.hart h = k) (hx : Tab.wf 0 k.x = true) (hc : Tab.wf 0 k.csr = true)
    (hs : Tab.wf 0 k.sram = true) {b : List Byte} (hb : b.length = 64) (q off : Nat) (rd : Reg5) (rel : Nat) (inlined : Bool) :
    packetArrives s (fetched s h q off rd b rel inlined) h q off k rd b ∧
      ((fetched s h q off rd b rel inlined).queue q).inline_ = if inlined then none else (s.queue q).inline_ := by
  have hhart : (fetched s h q off rd b rel inlined).hart h = (k.receives off b).complete rd (.ofNat 64 (pw b 0)) := by
    have hreceives := modHart_hart_same s h (fun k => k.receives off b)
    rw [hk] at hreceives
    rw [fetched_eq, hartDone, modHart_hart_same]
    exact congrArg (Hart.complete · rd (.ofNat 64 (pw b 0))) hreceives
  have hqueue : (fetched s h q off rd b rel inlined).queue q = (s.queue q).fetches b rel inlined :=
    modQueue_queue_same (s.modHart h (fun k => k.receives off b)) q (fun k => k.fetches b rel inlined)
  obtain ⟨hsame, hr, -⟩ := complete_wrote (k := k.receives off b) hx hc rd (.ofNat 64 (pw b 0))
  rw [← hhart] at hsame hr
  have hpc := congrArg Hart.pc hsame
  have hsram := congrArg Hart.sram hsame
  refine ⟨⟨⟨rfl, rfl⟩, rfl, hr, hpc, fun y => ?_, ?_, ?_⟩, ?_⟩
  · have hget := Tab.get_setList 0 b off y k.sram hs
    rw [hb] at hget
    exact (congrArg (Tab.get 0 · y) hsram).trans hget
  · rw [hqueue]; rfl
  · rw [hqueue]; exact ⟨_, rfl, rfl, rfl, rfl⟩
  · rw [hqueue]; rfl

/-- An entry of a ring in device memory can be read when no line of it is lost. -/
theorem viewError_entry {s : State} {a : Nat} (hlim : a + 64 ≤ s.dev.limit)
    (hbad : ∀ i < 64, s.mem.badLines.contains ((a + i) / 64) = false) : s.viewError (.dev a) 64 = false := by
  refine viewError_dev hlim fun l hl => ?_
  have hne : ∀ i < 64, l ≠ (a + i) / 64 := fun i hi e => by
    have := hbad i hi
    rw [← e, List.contains_iff_mem.2 hl] at this
    exact Bool.noConfusion this
  have h0 := hne 0 (by decide)
  have h63 := hne 63 (by decide)
  unfold lineOf
  omega

theorem viewError_lost {s : State} {a n : Nat} (hn : 0 < n) (hbad : s.mem.badLines.contains (a / 64) = true) :
    s.viewError (.dev a) n = true := by
  rw [State.viewError, Bool.or_eq_true]
  refine .inr (List.any_eq_true.2 ⟨a / 64, List.contains_iff_mem.1 hbad, ?_⟩)
  rw [Bool.and_eq_true, decide_eq_true_eq, decide_eq_true_eq]
  exact ⟨Nat.le_refl _, Nat.div_le_div_right (by omega)⟩

section Rfetch

variable {s : State} {h q off : Nat} {k : Hart} {rd ra rb : Reg5} (hr : hartReady s h k)
include hr

theorem rfetch_eq : exec (.rfetch rd ra rb) s = .next (
    if queueRefused h (k.r ra) || !qctlEn (s.queue (k.r ra).toNat) then hartRaise s h 24 (k.r ra)
    else
      match sramBuffer s.dev (k.r rb) with
      | none => hartRaise s h 26 (k.r rb)
      | some off =>
        let q := (k.r ra).toNat
        let u := s.queue q
        if u.fetchIdx = u.qwr ∨ u.qerr ≠ 0 ∨ u.rstBusy then hartDone s h rd 0
        else
          match u.inline_.filter (fun i => i.1 == u.fetchIdx) with
          | some i => fetched s h q off rd i.2 0 true
          | none =>
            let t := viewOf s.dev (ringEntry u u.fetchIdx)
            if s.viewError t 64 then
              hartRaise ((s.modQueue q (fun k => { k with qerr := 1 })).cancelQueue q) h 25 (BitVec.ofNat 64 q)
            else fetched (s.viewTouch t) h q off rd (s.viewRead h t 64) (s.viewStamp t) false) := by
  rw [exec_rfetch, execRfetch, commandOp_ready hr] <;> rfl

/-- RFETCH of a queue that is not served here, or not enabled (R56, R57). -/
theorem rfetch_refused (hbad : (1024 ≤ (k.r ra).toNat ∨ (k.r ra).toNat % 8 ≠ h) ∨ (s.queue (k.r ra).toNat).qctl.toNat % 2 = 0) :
    ∃ t k', exec (.rfetch rd ra rb) s = .next t ∧ hartBecomes s t h k' ∧ hartRaised k k' 24 (k.r ra) := by
  have hcond : (queueRefused h (k.r ra) || !qctlEn (s.queue (k.r ra).toNat)) = true := by
    rw [Bool.or_eq_true, queueRefused_iff, Bool.not_eq_true', ← Bool.not_eq_true, qctlEn_iff]
    exact hbad.imp_right fun h => by omega
  have hexec := rfetch_eq (rd := rd) (ra := ra) (rb := rb) hr
  rw [if_pos hcond] at hexec
  obtain ⟨-, hfind, -, -, hc⟩ := hr
  exact raises_of hexec (hart_of_find hfind) hc

variable (hq : (k.r ra).toNat = q) (h1024 : q < 1024) (hserve : q % 8 = h) (hen : (s.queue q).qctl.toNat % 2 = 1)
include hq h1024 hserve hen

omit hr in
theorem rfetch_served : (queueRefused h (k.r ra) || !qctlEn (s.queue (k.r ra).toNat)) = false := by
  rw [queueRefused_served hq h1024 hserve, hq, (qctlEn_iff _).2 hen]
  rfl

/-- RFETCH into a buffer that is misaligned or outside local SRAM (R56). -/
theorem rfetch_misplaced (hbuf : ∀ off, sramAddr (k.r rb) off → off % 64 ≠ 0) :
    ∃ t k', exec (.rfetch rd ra rb) s = .next t ∧ hartBecomes s t h k' ∧ hartRaised k k' 26 (k.r rb) := by
  have hexec := rfetch_eq (rd := rd) (ra := ra) (rb := rb) hr
  rw [rfetch_served hq h1024 hserve hen, if_neg Bool.false_ne_true, sramBuffer_none hbuf] at hexec
  obtain ⟨-, hfind, -, -, hc⟩ := hr
  exact raises_of hexec (hart_of_find hfind) hc

variable (hbuf : sramAddr (k.r rb) off) (h64 : off % 64 = 0)
include hbuf h64

/-- RFETCH of a ring that holds no packet (R57). -/
theorem rfetch_empty (hidx : (s.queue q).fetchIdx = (s.queue q).qwr) :
    ∃ t k', exec (.rfetch rd ra rb) s = .next t ∧ hartBecomes s t h k' ∧ hartWrote k k' rd 0 := by
  have hexec := rfetch_eq (rd := rd) (ra := ra) (rb := rb) hr
  rw [rfetch_served hq h1024 hserve hen, if_neg Bool.false_ne_true, sramBuffer_some hbuf h64, hq] at hexec
  dsimp only at hexec
  rw [if_pos (.inl hidx)] at hexec
  obtain ⟨-, hfind, -, hx, hc⟩ := hr
  exact completes_of hexec (hart_of_find hfind) hx hc

variable (hidx : (s.queue q).fetchIdx ≠ (s.queue q).qwr) (herr : (s.queue q).qerr = 0) (hbusy : (s.queue q).rstBusy = false)
include hidx herr hbusy

/-- RFETCH of a packet that the ring holds (R57). -/
theorem rfetch_next : exec (.rfetch rd ra rb) s = .next (
    match (s.queue q).inline_.filter (fun i => i.1 == (s.queue q).fetchIdx) with
    | some i => fetched s h q off rd i.2 0 true
    | none =>
      let t := viewOf s.dev (ringEntry (s.queue q) (s.queue q).fetchIdx)
      if s.viewError t 64 then
        hartRaise ((s.modQueue q (fun k => { k with qerr := 1 })).cancelQueue q) h 25 (k.r ra)
      else fetched (s.viewTouch t) h q off rd (s.viewRead h t 64) (s.viewStamp t) false) := by
  have hval : BitVec.ofNat 64 q = k.r ra := by rw [← hq, BitVec.ofNat_toNat, BitVec.setWidth_eq]
  have hgo : ¬ ((s.queue q).fetchIdx = (s.queue q).qwr ∨ (s.queue q).qerr ≠ 0 ∨ (s.queue q).rstBusy = true) := by
    simp [hidx, herr, hbusy]
  have hexec := rfetch_eq (rd := rd) (ra := ra) (rb := rb) hr
  rw [rfetch_served hq h1024 hserve hen, if_neg Bool.false_ne_true, sramBuffer_some hbuf h64, hq] at hexec
  dsimp only at hexec
  rw [if_neg hgo, hval] at hexec
  exact hexec

/-- RFETCH of a packet that the inline slot holds (R57). -/
theorem rfetch_inline (hs : Tab.wf 0 k.sram = true) {b : List Byte} (hin : (s.queue q).inline_ = some ((s.queue q).fetchIdx, b))
    (hb : b.length = 64) : ∃ t, exec (.rfetch rd ra rb) s = .next t ∧ packetArrives s t h q off k rd b ∧
      (t.queue q).inline_ = none := by
  have hexec := rfetch_next (rd := rd) hr hq h1024 hserve hen hbuf h64 hidx herr hbusy
  rw [hin, Option.filter_some, if_pos (beq_self_eq_true _)] at hexec
  obtain ⟨-, hfind, -, hx, hc⟩ := hr
  obtain ⟨harr, hslot⟩ := fetched_arrives (hart_of_find hfind) hx hc hs hb q off rd 0 true
  exact ⟨_, hexec, harr, hslot⟩

variable {a : Nat} (hin : ∀ i, (s.queue q).inline_ = some i → i.1 ≠ (s.queue q).fetchIdx)
  (ha : ringEntry (s.queue q) (s.queue q).fetchIdx = a) (hlim : a + 64 ≤ s.dev.limit)
include hin ha hlim

/-- RFETCH of a packet that only the ring holds (R57). -/
theorem rfetch_entry : exec (.rfetch rd ra rb) s = .next (
    if s.viewError (.dev a) 64 then
      hartRaise ((s.modQueue q (fun k => { k with qerr := 1 })).cancelQueue q) h 25 (k.r ra)
    else fetched (s.viewTouch (.dev a)) h q off rd ((List.range 64).map (fun i => byteAt s (a + i))) (s.viewStamp (.dev a)) false) := by
  have hnone : (s.queue q).inline_.filter (fun i => i.1 == (s.queue q).fetchIdx) = none :=
    Option.filter_eq_none_iff.2 fun i hi => by simp [hin i hi]
  rw [rfetch_next (rd := rd) hr hq h1024 hserve hen hbuf h64 hidx herr hbusy, hnone, ha, viewOf_dev (by omega)]
  simp only [State.viewRead, State.readPa_eq]

theorem rfetch_ring (hs : Tab.wf 0 k.sram = true) (hbad : ∀ i < 64, s.mem.badLines.contains ((a + i) / 64) = false) :
    ∃ t, exec (.rfetch rd ra rb) s = .next t ∧
      packetArrives s t h q off k rd ((List.range 64).map (fun i => byteAt s (a + i))) ∧
      (t.queue q).inline_ = (s.queue q).inline_ := by
  have hexec := rfetch_entry (rd := rd) hr hq h1024 hserve hen hbuf h64 hidx herr hbusy hin ha hlim
  rw [viewError_entry hlim hbad, if_neg Bool.false_ne_true] at hexec
  obtain ⟨-, hfind, -, hx, hc⟩ := hr
  obtain ⟨m, o, htouch, hbytes, hhost⟩ := viewTouch_is s (.dev a)
  rw [htouch] at hexec
  obtain ⟨⟨⟨hb, hh⟩, harr⟩, hslot⟩ := fetched_arrives (s := { s with mem := m, out := o }) (hart_of_find hfind) hx hc hs
    (b := (List.range 64).map (fun i => byteAt s (a + i))) (by rw [List.length_map, List.length_range]) q off rd
    (s.viewStamp (.dev a)) false
  exact ⟨_, hexec, ⟨⟨hb.trans hbytes, hh.trans hhost⟩, harr⟩, hslot⟩

theorem rfetch_lost (hbad : s.mem.badLines.contains (a / 64) = true) : ∃ t, exec (.rfetch rd ra rb) s = .next t ∧
    hartRaised k (t.hart h) 25 (k.r ra) ∧ (t.queue q).qerr = 1 ∧ (t.queue q).fetchIdx = (s.queue q).fetchIdx := by
  have hexec := rfetch_entry (rd := rd) hr hq h1024 hserve hen hbuf h64 hidx herr hbusy hin ha hlim
  rw [viewError_lost (by decide) hbad, if_pos rfl] at hexec
  obtain ⟨-, hfind, -, -, hc⟩ := hr
  obtain ⟨hharts, hqueue⟩ := cancelQueue_keeps (s.modQueue q (fun k => { k with qerr := 1 })) q
  have hhart : ((s.modQueue q (fun k => { k with qerr := 1 })).cancelQueue q).hart h = k := by
    rw [State.hart, hharts]
    exact hart_of_find hfind
  rw [modQueue_queue_same] at hqueue
  refine ⟨_, hexec, ?_, ?_, ?_⟩
  · rw [hartRaise, modHart_hart_same, hhart]
    exact exception_raised hc 25 (k.r ra)
  · exact congrArg Queue.qerr hqueue
  · have hkept := congrArg Queue.fetchIdx hqueue
    exact hkept

end Rfetch

/-! ## DISP (R60) -/

theorem ofBytes_drop (n : Nat) (bs : List Byte) : ofBytes (bs.drop n) = ofBytes bs / 256 ^ n := by
  induction n generalizing bs with
  | zero => rw [List.drop_zero, Nat.pow_zero, Nat.div_one]
  | succ n ih =>
    cases bs with
    | nil => exact (Nat.zero_div _).symm
    | cons b bs =>
      have hb : (b.toNat + 256 * ofBytes bs) / 256 = ofBytes bs := by have := b.isLt; omega
      rw [List.drop_succ_cons, ih, Nat.pow_succ, Nat.mul_comm, ← Nat.div_div_eq_div_mul]
      show _ = (b.toNat + 256 * ofBytes bs) / 256 / 256 ^ n
      rw [hb]

/-- SEQ of a packet lies in its bytes 4 to 7 (R63). -/
theorem pktSeq_eq (b : List Byte) : pktSeq b = .ofNat 32 (ofBytes ((b.drop 4).take 4)) := by
  have hheader : pw b 0 = ofBytes b % 256 ^ 8 := ofBytes_take 8 b
  rw [pktSeq, hheader, ofBytes_take, ofBytes_drop, bits]
  congr 1
  omega

/-- The launch of a packet that DISP finds is the first of its queue and index. -/
theorem packetLaunch_first {s : State} {q n : Nat} {i : BitVec 32} {l : Launch} {pre post : AMap Launch}
    (hl : s.sched.launches = pre ++ (n, l) :: post) (hq : l.queue = q) (hi : l.pkt = some i)
    (hpre : ∀ e ∈ pre, e.2.queue ≠ q ∨ e.2.pkt ≠ some i) : s.packetLaunch q i = some n := by
  have hfind : s.sched.launches.find? (fun e => e.2.queue == q && e.2.pkt == some i) = some (n, l) := by
    rw [List.find?_eq_some_iff_append]
    refine ⟨by simp [hq, hi], pre, post, hl, fun e he => ?_⟩
    rw [Bool.not_eq_true', Bool.and_eq_false_iff, beq_eq_false_iff_ne, beq_eq_false_iff_ne]
    exact hpre e he
  rw [State.packetLaunch, hfind]; rfl

theorem packetLaunch_none {s : State} {q : Nat} {i : BitVec 32} (h : ∀ e ∈ s.sched.launches, e.2.queue ≠ q ∨ e.2.pkt ≠ some i) :
    s.packetLaunch q i = none := by
  rw [State.packetLaunch, Option.map_eq_none_iff, List.find?_eq_none]
  intro e he
  rw [Bool.and_eq_true, beq_iff_eq, beq_iff_eq, not_and_or]
  exact h e he

theorem packet_some {k : Queue} {i : BitVec 32} {p : Packet} (h : k.packet i = some p) : p ∈ k.packets ∧ p.idx = i := by
  have hidx : (p.idx == i) = true := List.find?_some (p := fun x : Packet => x.idx == i) h
  exact ⟨List.mem_of_find?_eq_some h, beq_iff_eq.1 hidx⟩

/-- A packet of the queue that waits to begin is the one that DISP makes a launch of. -/
theorem undispatched_some {k : Queue} {i : BitVec 32} (h : ∃ p ∈ k.packets, p.idx = i)
    (hst : ∀ p ∈ k.packets, p.idx = i → p.st = .fetched) : k.undispatched i = some i := by
  obtain ⟨p, hp, hi⟩ := h
  obtain ⟨p', hfind⟩ : ∃ p', k.packet i = some p' :=
    Option.isSome_iff_exists.1 (List.find?_isSome.2 ⟨p, hp, by rw [hi]; exact beq_self_eq_true i⟩)
  obtain ⟨hp', hi'⟩ := packet_some hfind
  rw [Queue.undispatched, hfind, Option.filter_some, hst p' hp' hi', if_pos (beq_self_eq_true _), Option.map_some, hi']

theorem undispatched_none {k : Queue} {i : BitVec 32} (h : ∀ p ∈ k.packets, p.idx = i → p.st ≠ .fetched) : k.undispatched i = none := by
  rw [Queue.undispatched, Option.map_eq_none_iff, Option.filter_eq_none_iff]
  intro p hfind
  obtain ⟨hp, hi⟩ := packet_some hfind
  rw [beq_iff_eq]
  exact h p hp hi

/-- What DISP does once the checks of a packet have an outcome (R60). -/
def dispResult (h q : Nat) (u : Queue) (rd : Reg5) (b : List Byte) (r : State × Except TrapClass Kdesc) : State :=
  match r with
  | (s1, .error c) => hartDone s1 h rd (dispRefused c)
  | (s1, .ok d) =>
    match s1.packetLaunch q (pktSeq b) with
    | some n => hartDone s1 h rd (BitVec.ofNat 64 n)
    | none =>
      match s1.addLaunch (dispLaunch q u b d) with
      | none => s1
      | some (s2, n) => hartDone s2 h rd (BitVec.ofNat 64 n)

/-- The packet has its launch already. -/
theorem dispResult_known {s1 : State} {q n : Nat} {b : List Byte} (hn : s1.packetLaunch q (pktSeq b) = some n) (h : Nat) (u : Queue)
    (rd : Reg5) (d : Kdesc) : dispResult h q u rd b (s1, .ok d) = hartDone s1 h rd (.ofNat 64 n) := by
  rw [dispResult, hn]

/-- No handle is free. -/
theorem dispResult_full {s1 : State} {q : Nat} {u : Queue} {b : List Byte} {d : Kdesc}
    (hnone : s1.packetLaunch q (pktSeq b) = none) (hadd : s1.addLaunch (dispLaunch q u b d) = none) (h : Nat) (rd : Reg5) :
    dispResult h q u rd b (s1, .ok d) = s1 := by
  rw [dispResult, hnone]
  dsimp only
  rw [hadd]

/-- The packet gets a launch. -/
theorem dispResult_new {s1 s2 : State} {q n : Nat} {u : Queue} {b : List Byte} {d : Kdesc}
    (hnone : s1.packetLaunch q (pktSeq b) = none) (hadd : s1.addLaunch (dispLaunch q u b d) = some (s2, n)) (h : Nat) (rd : Reg5) :
    dispResult h q u rd b (s1, .ok d) = hartDone s2 h rd (.ofNat 64 n) := by
  rw [dispResult, hnone]
  dsimp only
  rw [hadd]

section Disp

variable {s : State} {h q off : Nat} {k : Hart} {rd ra rb : Reg5} (hr : hartReady s h k)
include hr

/-- DISP for a queue that is not served here (R56, R60). -/
theorem disp_refused (hbad : 1024 ≤ (k.r rb).toNat ∨ (k.r rb).toNat % 8 ≠ h) :
    ∃ t k', exec (.disp rd ra rb) s = .next t ∧ hartBecomes s t h k' ∧ hartRaised k k' 24 (k.r rb) := by
  have hexec : exec (.disp rd ra rb) s = .next (hartRaise s h 24 (k.r rb)) := by
    rw [exec_disp, execDisp, commandOp_ready hr]
    dsimp only
    rw [if_pos ((queueRefused_iff _ _).2 hbad)]
  obtain ⟨-, hfind, -, -, hc⟩ := hr
  exact raises_of hexec (hart_of_find hfind) hc

/-- The checks of DISP leave the queue processor as it was. -/
theorem checkLaunch_hart {b : List Byte} {s1 : State} {r : Except TrapClass Kdesc} (hc : s.checkLaunch (qctlAsid (s.queue q)) true b = (s1, r)) :
    s1.hart h = k := by
  obtain ⟨m, c, o, hs1⟩ := checkLaunch_translated s (qctlAsid (s.queue q)) true b
  rw [hc] at hs1
  obtain ⟨-, hfind, -⟩ := hr
  exact (congrArg (State.hart · h) hs1).trans (hart_of_find hfind)

variable (hq : (k.r rb).toNat = q) (h1024 : q < 1024) (hserve : q % 8 = h)
include hq h1024 hserve

/-- DISP of a buffer that is misaligned or outside local SRAM (R56). -/
theorem disp_misplaced (hbuf : ∀ off, sramAddr (k.r ra) off → off % 64 ≠ 0) :
    ∃ t k', exec (.disp rd ra rb) s = .next t ∧ hartBecomes s t h k' ∧ hartRaised k k' 26 (k.r ra) := by
  have hexec : exec (.disp rd ra rb) s = .next (hartRaise s h 26 (k.r ra)) := by
    rw [exec_disp, execDisp, commandOp_ready hr]
    dsimp only
    rw [queueRefused_served hq h1024 hserve, if_neg Bool.false_ne_true, sramBuffer_none hbuf]
  obtain ⟨-, hfind, -, -, hc⟩ := hr
  exact raises_of hexec (hart_of_find hfind) hc

variable (hbuf : sramAddr (k.r ra) off) (h64 : off % 64 = 0) (hstall : s.dispStalls = false) {b : List Byte}
  (hb : Tab.getList 0 k.sram off 64 = b) (hwait : s.checkWaits (qctlAsid (s.queue q)) b = false)
include hbuf h64 hstall hb hwait

/-- DISP of a packet in local SRAM, with nothing to wait for (R60). -/
theorem disp_checks : exec (.disp rd ra rb) s =
    .next (dispResult h q (s.queue q) rd b (s.checkLaunch (qctlAsid (s.queue q)) true b)) := by
  rw [exec_disp, execDisp, commandOp_ready hr]
  dsimp only
  rw [queueRefused_served hq h1024 hserve, if_neg Bool.false_ne_true, sramBuffer_some hbuf h64, hq]
  dsimp only
  rw [hb, hstall, hwait, Bool.or_self, if_neg Bool.false_ne_true]
  generalize s.checkLaunch (qctlAsid (s.queue q)) true b = r
  obtain ⟨s1, c | d⟩ := r
  · dsimp only [dispResult]
  · cases hn : s1.packetLaunch q (pktSeq b) with
    | some n =>
      rw [dispResult_known hn]
      dsimp only
      rw [hn]
    | none =>
      cases hadd : s1.addLaunch (dispLaunch q (s.queue q) b d) with
      | none =>
        rw [dispResult_full hn hadd]
        dsimp only
        rw [hn]
        dsimp only
        rw [hadd]
      | some e =>
        rw [dispResult_new hn hadd]
        dsimp only
        rw [hn]
        dsimp only
        rw [hadd]

/-- DISP of a packet that a check refuses gives the class of the check (R60, R78). -/
theorem disp_error {s1 : State} {c : TrapClass} (hc : s.checkLaunch (qctlAsid (s.queue q)) true b = (s1, .error c)) :
    ∃ t k', exec (.disp rd ra rb) s = .next t ∧ hartBecomes s1 t h k' ∧ hartWrote k k' rd (.ofNat 64 (2 ^ 63 + c.code)) := by
  have hexec := disp_checks (rd := rd) hr hq h1024 hserve hbuf h64 hstall hb hwait
  have hk := checkLaunch_hart hr hc
  rw [hc] at hexec
  obtain ⟨-, -, -, hx, hcsr⟩ := hr
  exact completes_of hexec hk hx hcsr

variable {s1 : State} {d : Kdesc} (hc : s.checkLaunch (qctlAsid (s.queue q)) true b = (s1, .ok d))
include hc

/-- DISP of a packet that has its launch gives the launch's handle (R60). -/
theorem disp_known {n : Nat} (hn : s1.packetLaunch q (pktSeq b) = some n) :
    ∃ t k', exec (.disp rd ra rb) s = .next t ∧ hartBecomes s1 t h k' ∧ hartWrote k k' rd (.ofNat 64 n) := by
  have hexec := disp_checks (rd := rd) hr hq h1024 hserve hbuf h64 hstall hb hwait
  have hk := checkLaunch_hart hr hc
  rw [hc, dispResult_known hn] at hexec
  obtain ⟨-, -, -, hx, hcsr⟩ := hr
  exact completes_of hexec hk hx hcsr

/-- DISP makes a launch of a packet that has none, and gives its handle (R60). -/
theorem disp_new {n : Nat} (hnone : s1.packetLaunch q (pktSeq b) = none) (hn : AMap.freeBelow s1.sched.launches 4096 = some n) :
    ∃ t, exec (.disp rd ra rb) s = .next t ∧ memoryKept s1 t ∧
      (∀ m, t.launch m = if m = n then some { dispLaunch q (s.queue q) b d with order := s1.sched.dispCount } else s1.launch m) ∧
      (∀ r, (t.hart h).r r = if r = rd ∧ r ≠ 0 then .ofNat 64 n else k.r r) ∧ (t.hart h).pc = k.pc + 4 := by
  obtain ⟨u, hadd⟩ : ∃ u, s1.addLaunch (dispLaunch q (s.queue q) b d) = some (u, n) :=
    ⟨_, by rw [State.addLaunch, hn, Option.map_some]⟩
  have hexec := disp_checks (rd := rd) hr hq h1024 hserve hbuf h64 hstall hb hwait
  have hk := checkLaunch_hart hr hc
  rw [hc, dispResult_new hnone hadd] at hexec
  obtain ⟨-, -, -, hx, hcsr⟩ := hr
  obtain ⟨hmem, -, -, hhart, hlaunch⟩ := addLaunch_launch hadd
  obtain ⟨hsame, hregs, -⟩ := complete_wrote hx hcsr rd (.ofNat 64 n)
  have hdone : (hartDone u h rd (.ofNat 64 n)).hart h = k.complete rd (.ofNat 64 n) := by
    rw [hartDone, modHart_hart_same, hhart, hk]
  refine ⟨_, hexec, hmem, hlaunch, fun r => ?_, ?_⟩
  · rw [hdone]; exact hregs r
  · rw [hdone]; exact congrArg Hart.pc hsame

end Disp

/-- What DISP makes of a packet of the queue that waits to begin (R60). -/
theorem dispLaunch_waiting {q : Nat} {k : Queue} {b : List Byte} (d : Kdesc) (h : ∃ p ∈ k.packets, p.idx = pktSeq b)
    (hst : ∀ p ∈ k.packets, p.idx = pktSeq b → p.st = .fetched) : (dispLaunch q k b d).pkt = some (pktSeq b) ∧
      (dispLaunch q k b d).begun = k.rstBusy ∧ (dispLaunch q k b d).cancelled = k.rstBusy := by
  have hpkt := undispatched_some h hst
  refine ⟨hpkt, ?_, ?_⟩
  · rw [dispLaunch, hpkt]; rfl
  · rw [dispLaunch, Queue.spent, hpkt]; exact Bool.or_false _

/-- What DISP makes of words that are no packet that waits (R60, R64). -/
theorem dispLaunch_spent {q : Nat} {k : Queue} {b : List Byte} (d : Kdesc)
    (hst : ∀ p ∈ k.packets, p.idx = pktSeq b → p.st ≠ .fetched) (hb : k.rstBusy = false) : (dispLaunch q k b d).pkt = none ∧
      (dispLaunch q k b d).begun = true ∧
      (dispLaunch q k b d).cancelled = decide ((k.fetchIdx - 1 - pktSeq b).toNat < 2 ^ 31) := by
  have hpkt := undispatched_none hst
  refine ⟨hpkt, ?_, ?_⟩
  · rw [dispLaunch, hpkt]; rfl
  · rw [dispLaunch, Queue.spent, hpkt, hb]; rfl

/-- Settles O32, from RFETCH of the slot, the ring and a lost line, and DISP by the outcome of its checks. -/
theorem fetchAndDispatch : Obligations.FetchAndDispatch := by
  intro s h k rd ra rb hr
  refine ⟨fun q off hq h1024 hserve hen hbuf h64 => ?_, fun q off hq h1024 hserve hbuf h64 hstall => ?_,
    fun hbad => ⟨rfetch_refused hr (.inl hbad), disp_refused hr hbad⟩, fun hen => rfetch_refused hr (.inr hen),
    fun h1024 hserve hbuf => ⟨fun hen => rfetch_misplaced hr rfl h1024 hserve hen hbuf, disp_misplaced hr rfl h1024 hserve hbuf⟩⟩
  · refine ⟨rfetch_empty hr hq h1024 hserve hen hbuf h64, fun hidx herr hbusy hs => ⟨fun b hin hb => ?_, fun a hin ha _ hlim => ?_⟩⟩
    · exact rfetch_inline hr hq h1024 hserve hen hbuf h64 hidx herr hbusy hs hin hb
    · exact ⟨rfetch_ring hr hq h1024 hserve hen hbuf h64 hidx herr hbusy hin ha hlim hs,
        rfetch_lost hr hq h1024 hserve hen hbuf h64 hidx herr hbusy hin ha hlim⟩
  · intro b seq u asid hwait
    have hseq : pktSeq b = seq := pktSeq_eq b
    have hbytes : Tab.getList 0 k.sram off 64 = b := Tab.getList_eq 0 k.sram off 64
    refine ⟨fun s1 c hc => disp_error hr hq h1024 hserve hbuf h64 hstall hbytes hwait hc, fun s1 d hc =>
      ⟨fun pre n l post hl hlq hpkt hpre => ?_, fun n hnone hn => ?_⟩⟩
    · exact disp_known hr hq h1024 hserve hbuf h64 hstall hbytes hwait hc (hseq ▸ packetLaunch_first hl hlq hpkt hpre)
    · obtain ⟨t, hexec, hmem, hlaunch, hregs, hpc⟩ :=
        disp_new hr hq h1024 hserve hbuf h64 hstall hbytes hwait hc (hseq ▸ packetLaunch_none hnone) hn
      refine ⟨t, _, hexec, hmem, (hlaunch n).trans (if_pos rfl), rfl, rfl, rfl, rfl, fun hp hst => ?_, fun hst hbusy => ?_,
        fun m hm => (hlaunch m).trans (if_neg hm), hregs, hpc⟩
      · rw [← hseq] at hp hst ⊢
        exact dispLaunch_waiting (q := q) d hp hst
      · rw [← hseq] at hst ⊢
        exact dispLaunch_spent (q := q) d hst hbusy

end Sys2Proof.Machine
end

section
/-! SUPPORT. What each agent that moves comes to (R54, R86, R87, R261, R262). -/
namespace Sys2Proof.Machine

theorem step_move {s : State} {m : Move} {rest : List Move} (h : s.agenda = m :: rest) :
    step s = runIssue (({ s with agenda := rest } : State).issueMove m) := by
  rw [step, State.nextIssue, h]

/-- Where no timer is due, none waits for the team (R251). -/
theorem timerWaits_notDue {s : State} {t : Team} (h : timersDue s t = 0) (pi : Nat) (p : Path) : s.timerWaits t pi p = false := by
  simp [State.timerWaits, h]

/-! ## A path and a datapath -/

/-- A fetch of four bytes from a page that may be executed, kept and sound (R261, R262). -/
theorem fetchPiece_bytes {s s1 : State} {w : Who} {va pa : Nat} {leaf : BitVec 64} (hva : va < 2 ^ 52)
    (ht : s.translate { core := w.core, asid := w.team.asid, host := false, va := va, kind := .fetch, lpr := none } =
      (s1, .ok pa leaf)) (hdisc : leafDisc leaf = false) (hbad : lineOf pa ∉ s1.mem.badLines) :
    s.fetchPiece w va 4 =
      (s1.viewTouch (.dev pa), .bytes ((List.range 4).map (fun k => byteAt s1 (pa + k)))) := by
  rw [State.fetchPiece, if_neg (Nat.not_le.2 hva), Nat.mod_eq_of_lt hva, ht]
  simp [hdisc, hbad, State.readPa_eq]

/-- A path that neither a timer nor a comparator stops issues what its fetch decodes to (R86, R262). -/
theorem issueScalar_fetched {s s0 s1 : State} {core slot pi : Nat} {w : Who} {b : List Byte}
    (h0 : (s.noteIssue core slot pi).atPath core slot pi = s0) (hw : issuer s0 = some w) (hdue : timersDue s0 w.team = 0)
    (hcmp : s0.comparatorHit w.team.asid w.path.spc = none) (hf : s0.fetchPiece w w.path.spc.toNat 4 = (s1, .bytes b)) :
    s.issueScalar core slot pi = .scalar (decodeScalar (.ofNat 32 (ofBytes b))) (s1.countTrial w) := by
  have hbefore : beforeScalar s0 w = none := by simp [beforeScalar, timerWaits_notDue hdue, hcmp]
  simp only [State.issueScalar, h0, hw, hbefore, hf]

/-- A datapath issues the lane word at the head of its clause (R87). -/
theorem issueLane_head {s : State} {core slot pi : Nat} {tm : Team} {p : Path} {c : Clause} {x : BitVec 96}
    {xs : List (BitVec 96)} (hrun : (s.core core).running = some (slot, pi)) (ht : s.team (teamKey core slot) = some tm)
    (hp : AMap.find tm.paths pi = some p) (hc : p.run = some c) (hb : c.body = x :: xs) (hdue : timersDue s tm = 0) :
    s.issueLane core = .run (decodeLane x) (s.atPath core slot pi) := by
  have hhead : laneHead s core = some (slot, pi, x) := by simp [laneHead, hrun, State.path, ht, hp, hc, hb]
  have ht' : (s.atPath core slot pi).team (teamKey core slot) = some tm := ht
  have hwait : (s.atPath core slot pi).timerWaits tm pi p = false := timerWaits_notDue hdue pi p
  simp [State.issueLane, hhead, ht', hp, hwait]

/-! ## A queue processor -/

/-- A command word, which its low seven bits name, is four bytes long (R54, R55). -/
theorem decodeCommand_long {w : BitVec 32} {i : Instr} (h : decodeCommand w = some i) : w.toNat % 4 = 3 := by
  have hop : (field w 0 7).toNat = 0x0B := by
    unfold decodeCommand at h
    split at h
    · cases h
    · next hne => exact not_not.1 hne
  have hlow : (field w 0 7).toNat = w.toNat % 2 ^ 7 := by simp [field]
  omega

/-- The word that a queue processor fetches where four bytes begin a long instruction (R54). -/
theorem hartWord_long {s : State} {h : Nat} {b : List Byte} (hr : s.viewRead h (viewOf s.dev (s.hart h).pc.toNat) 4 = b)
    (hl : b.length = 4) (hlow : (BitVec.ofNat 32 (ofBytes b)).toNat % 4 = 3) : s.hartWord h = .ofNat 32 (ofBytes b) := by
  have hbytes : parcelBytes (ofBytes (b.take 1)) = 4 := by
    rw [ofBytes_take, parcelBytes, if_pos]
    rw [BitVec.toNat_ofNat] at hlow
    omega
  rw [State.hartWord, hr, hbytes, List.take_of_length_le hl.le]

/-- An access to device memory changes nothing that a queue processor fetches (R28, R136). -/
theorem viewTouch_hartWord (s : State) (h : Nat) (t : ViewTarget) : (s.viewTouch t).hartWord h = s.hartWord h := by
  obtain ⟨m, o, heq, hbytes, hhost⟩ := viewTouch_is s t
  have hread : ∀ v n, ({ s with mem := m, out := o } : State).viewRead h v n = s.viewRead h v n := by
    intro v n
    cases v with
    | host a => simp only [State.viewRead, State.readHost, hhost]
    | dev pa => simp only [State.viewRead, State.readPa, hbytes]
    | sram off => rfl
    | bad => rfl
  rw [heq]
  simp only [State.hartWord, hread]
  rfl

section Hart

variable {s : State} {h : Nat} {w : BitVec 32} (hdark : s.dev.dark = false) (hirq : (s.hart h).interrupt = none)
  (hsw : (s.hart h).swait = none) (herr : s.hartFetchError h = false) (hw : s.hartWord h = w)
include hdark hirq hsw herr hw

/-- A queue processor that runs on issues its next word as a command instruction, or as one of the base set (R54). -/
theorem issueHart_word :
    let u := ({ s with ctx := { s.ctx with hart := h } } : State).viewTouch (viewOf s.dev (s.hart h).pc.toNat)
    (∀ i, decodeCommand w = some i → s.issueHart h = .run i u) ∧ (decodeCommand w = none → s.issueHart h = .base h w u) := by
  generalize hu : ({ s with ctx := { s.ctx with hart := h } } : State) = u
  have hk : u.hart h = s.hart h := by rw [← hu]; rfl
  have herr' : u.hartFetchError h = false := by rw [← hu]; exact herr
  have hw' : u.hartWord h = w := by rw [← hu]; exact hw
  refine ⟨fun i hi => ?_, fun hnone => ?_⟩
  · simp only [State.issueHart, hu, hk, hdark, hirq, hsw, herr', viewTouch_hartWord, hw', Option.isSome_none,
      Bool.false_eq_true, if_false, hi]
  · simp only [State.issueHart, hu, hk, hdark, hirq, hsw, herr', viewTouch_hartWord, hw', Option.isSome_none,
      Bool.false_eq_true, if_false, hnone]

end Hart

/-- An enabled interrupt of a queue processor comes before its next word (R54, R59). -/
theorem issueHart_interrupt {s : State} {h c : Nat} (hdark : s.dev.dark = false) (hirq : (s.hart h).interrupt = some c) :
    s.issueHart h = .other (({ s with ctx := { s.ctx with hart := h } } : State).modHart h (fun k => k.trap true c 0)) := by
  generalize hu : ({ s with ctx := { s.ctx with hart := h } } : State) = u
  have hk : u.hart h = s.hart h := by rw [← hu]; rfl
  simp only [State.issueHart, hu, hk, hdark, hirq, Bool.false_eq_true, if_false]

/-! ## A step -/

/-- Settles O57: the first move of the agenda gives its issue, by the agent that moves. -/
theorem stepRunsDecoded : Obligations.StepRunsDecoded := by
  refine ⟨?path, ?lane, ?hart, ?interrupt, fun s i rest ha => ?event, fun s i rest ha => ?input, fun t hs => ⟨fun u => ?note, ?ends⟩⟩
  case path =>
    intro s core slot pi pa rest w s1 leaf i ha hready s0 hw hdue hcmp hva ht hdisc hbad hi u
    have hissue := issueScalar_fetched rfl hw hdue hcmp (fetchPiece_bytes hva ht hdisc hbad)
    have hready' : ({ s with agenda := rest } : State).pathReady (teamKey core slot) pi = true := hready
    rw [step_move ha]
    simp only [State.issueMove, hready', if_true, hissue, hi]
    rfl
  case lane =>
    intro s core slot pi rest tm p c x xs ha hrun ht hp hc hb hdue
    have hissue := issueLane_head (s := { s with agenda := rest }) hrun ht hp hc hb hdue
    rw [step_move ha]
    simp only [State.issueMove, hissue]
    rfl
  case hart =>
    intro s h w rest ha hdark hirq hsw herr u
    have hissue := fun x (hx : s.hartWord h = x) =>
      issueHart_word (s := { s with agenda := rest }) (h := h) (w := x) hdark hirq hsw herr hx
    have hcommand : ∀ b : List Byte, s.viewRead h (viewOf s.dev (s.hart h).pc.toNat) 4 = b → b.length = 4 →
        w = .ofNat 32 (ofBytes b) → ∀ i, decodeCommand w = some i →
        step s = afterNext State.afterStep (exec i (u.viewTouch (viewOf s.dev (s.hart h).pc.toNat))) := by
      rintro b hb hl rfl i hi
      have hword := hartWord_long hb hl (decodeCommand_long hi)
      rw [step_move ha, State.issueMove, (hissue _ hword).1 i hi]
      rfl
    refine ⟨fun pa hpa hword => ?_, fun off hoff hfit hword => ?_, fun hword hnone => ?_⟩
    · rw [hpa] at hcommand
      exact hcommand _ (State.readPa_eq s pa 4) (by simp) hword
    · have hview := (viewOf_sram_iff s.dev _ off).2 hoff
      rw [hview] at hcommand
      exact hcommand _ (Tab.getList_eq 0 _ off 4) (by simp) hword
    · rw [step_move ha, State.issueMove, (hissue w hword).2 hnone]
      rfl
  case interrupt =>
    intro s h c rest ha hdark hirq
    rw [step_move ha, State.issueMove, issueHart_interrupt (s := { s with agenda := rest }) hdark hirq]
    rfl
  case event => rw [step_move ha]; rfl
  case input => rw [step_move ha]; rfl
  case note => simp [State.noteStep, hs]
  case ends => exact fun htr hd => afterStep_nothingInHand hs htr hd

end Sys2Proof.Machine
end

section
/-! SUPPORT. A core's own events: the choice and start of a clause, its completion, and a tick (R11, R87, R108, R193, R194, R250). -/
namespace Sys2Proof.Machine

theorem AMap.find_single {α : Type} (k j : Nat) (v : α) : AMap.find [(k, v)] j = if j = k then some v else none := by
  simp only [AMap.find, eq_comm]

/-- A map whose values change by their keys. -/
theorem AMap.find_map_key {α : Type} (g : Nat → α → α) (m : AMap α) (k : Nat) :
    AMap.find (m.map (fun e => (e.1, g e.1 e.2))) k = (AMap.find m k).map (g k) := by
  induction m with
  | nil => rfl
  | cons e t ih =>
    simp only [List.map_cons, AMap.find, ih]
    split
    · next h => rw [h]; rfl
    · rfl

/-- The one entry of a list that a search accepts is what it finds. -/
theorem find?_unique {α : Type} {l : List α} {p : α → Bool} {a : α} (ha : a ∈ l) (h : ∀ b ∈ l, p b = true ↔ b = a) :
    l.find? p = some a := by
  have hsome : (l.find? p).isSome = true := List.find?_isSome.2 ⟨a, ha, (h a ha).2 rfl⟩
  obtain ⟨b, hb⟩ := Option.isSome_iff_exists.1 hsome
  rw [hb, (h b (List.mem_of_find?_eq_some hb)).1 (List.find?_some hb)]

theorem findSome?_unique {α β : Type} {l : List α} {f : α → Option β} {a : α} (ha : a ∈ l) (h : ∀ b ∈ l, b ≠ a → f b = none) :
    l.findSome? f = f a := by
  cases hf : l.findSome? f with
  | none => exact ((List.findSome?_eq_none_iff.1 hf) a ha).symm
  | some x =>
    obtain ⟨b, hb, hx⟩ := List.exists_of_findSome?_eq_some hf
    by_cases hba : b = a
    · rw [← hba, hx]
    · rw [h b hb hba] at hx; cases hx

theorem mem_rotate {n start k : Nat} : k ∈ rotate n start ↔ k < n := by
  simp only [rotate, List.mem_map, List.mem_range]
  constructor
  · rintro ⟨i, hi, rfl⟩
    exact Nat.mod_lt _ (by omega)
  · intro hk
    have hstart : (start + 1) % n < n := Nat.mod_lt _ (by omega)
    by_cases hle : (start + 1) % n ≤ k
    · refine ⟨k - (start + 1) % n, by omega, ?_⟩
      rw [← Nat.mod_add_mod, Nat.add_sub_cancel' hle, Nat.mod_eq_of_lt hk]
    · refine ⟨k + n - (start + 1) % n, by omega, ?_⟩
      rw [← Nat.mod_add_mod, show (start + 1) % n + (k + n - (start + 1) % n) = k + n by omega, Nat.add_mod_right,
        Nat.mod_eq_of_lt hk]

/-! ## The choice of a clause (R87, R193, R194) -/

/-- A team runs when it is neither saved nor restored, and no team of its neighbourhood is being restored (R92, R95). -/
theorem awake_of {s : State} {tm : Team} (hp : tm.phase = .running)
    (h : ∀ e ∈ s.teams, e.2.launch = tm.launch → e.2.nbh = tm.nbh → e.2.phase ≠ .restoring) : s.awake tm = true := by
  simp only [State.awake, hp, decide_true, Bool.true_and, Bool.not_eq_true', List.any_eq_false, Bool.and_eq_true, beq_iff_eq,
    decide_eq_true_eq, not_and, and_imp]
  exact h

/-- Each path of a team with nothing to issue again and no event due may go on (R95, R251). -/
theorem mayGo_of {tm : Team} (hr : tm.replays = []) (hd : tm.dueFirst = false) (pi : Nat) : tm.mayGo pi = true := by
  simp [Team.mayGo, hr, hd]

theorem clauseEligible_iff (p : Path) (c : Clause) : p.clauseEligible c = true ↔
    ∀ n < 12, (c.wait.getLsbD n = true → p.outstanding n = 0) ∧ (c.names n = true → p.outstanding n < 63) := by
  simp only [Path.clauseEligible, List.all_eq_true, List.mem_range, Bool.and_eq_true, Bool.or_eq_true, Bool.not_eq_true',
    beq_iff_eq, decide_eq_true_eq, ← Bool.not_eq_true, ← imp_iff_not_or]

section LonePath

variable {s : State} {core slot pi : Nat} {tm : Team} {p : Path} (h : lonePath s core slot tm pi p)
include h

/-- The only team of a core takes the datapath's turn, where the datapath of each of its cores is free (R87, R88). -/
theorem chooseClause_lone (ha : s.awake tm = true) (hgo : ∀ j, tm.mayGo j = true) : chooseClause s core =
    if (teamCores core tm).any (fun c => (s.core c).running.isSome) = true then none
    else if s.canRun (teamKey core slot) tm p = true then some (slot, pi) else none := by
  obtain ⟨hslot, hpi, ht, hnone, hpaths, -, hstop⟩ := h
  have hother : ∀ j ∈ rotate 16 (s.core core).lastClauseSlot, j ≠ slot → s.team (teamKey core j) = none :=
    fun j hj hne => hnone j (mem_rotate.1 hj) hne
  have ht' : s.team (teamKey core slot) = some tm := ht
  rw [chooseClause, hstop, if_neg Bool.false_ne_true, findSome?_unique (mem_rotate.2 hslot)
    (fun j hj hne => by rw [hother j hj hne])]
  simp only [ht', ha, Bool.not_true, Bool.false_or, hgo, Bool.true_and]
  split
  · rfl
  · split
    · next hrun =>
      rw [find?_unique (List.mem_range.2 hpi) (fun j _ => ?_), Option.map_some]
      rw [hpaths, AMap.find_single]
      by_cases hj : j = pi
      · simp [hj, hrun]
      · simp [hj]
    · next hrun =>
      rw [List.find?_eq_none.2, Option.map_none]
      intro j _
      rw [hpaths, AMap.find_single]
      by_cases hj : j = pi
      · simp [hj, hrun]
      · simp [hj]

/-- A clause that starts on the datapaths of its team's cores (R87, R88). -/
theorem runClause_lone : ((s.runClause (teamKey core slot) pi).core core).running = some (slot, pi) ∧
    (tm.k.pair = true → ((s.runClause (teamKey core slot) pi).core (core + 1)).running = some (tm.oddSlot, pi)) := by
  obtain ⟨hslot, -, ht, -⟩ := h
  have ht' : s.team (teamKey core slot) = some tm := ht
  have hcore : keyCore (teamKey core slot) = core := by simp only [keyCore, teamKey]; omega
  have hkey : keySlot (teamKey core slot) = slot := by simp only [keySlot, teamKey]; omega
  simp only [State.runClause, ht', hcore, teamCores, Team.slotOn, hkey]
  split
  · simp [modCore_core]
  · next hpair => simp [modCore_core, hpair]

end LonePath

/-- CLAUSE_START on a core with one team, by the rules of R87, R193 and R194. -/
theorem clauseStart_lone {s : State} {core slot pi : Nat} {tm : Team} {p : Path} {c : Clause} {cs : List Clause}
    (h : lonePath s core slot tm pi p) (hrun : p.run = none) (hpark : p.park = none) (hstop : p.stop = none)
    (hq : p.queue = c :: cs) (ha : s.awake tm = true) (hgo : ∀ j, tm.mayGo j = true) :
    let idle := (s.core core).running = none ∧ (tm.k.pair = true → (s.core (core + 1)).running = none)
    let free := p.clauseEligible c = true ∧ s.clauseWaitsRegs (teamKey core slot) tm c = false
    (free → idle → exec (.clauseStart core) s =
      .next ((s.runClause (teamKey core slot) pi).modPath (teamKey core slot) pi Path.startClause)) ∧
    (¬ free ∨ ¬ idle → exec (.clauseStart core) s = .next s) := by
  have hchoose := chooseClause_lone h ha hgo
  have hcan : s.canRun (teamKey core slot) tm p =
      (p.clauseEligible c && !s.clauseWaitsRegs (teamKey core slot) tm c) := by
    simp [State.canRun, hpark, hrun, hq, hstop]
  have hany : (teamCores core tm).any (fun c => (s.core c).running.isSome) = true ↔
      ¬ ((s.core core).running = none ∧ (tm.k.pair = true → (s.core (core + 1)).running = none)) := by
    unfold teamCores
    split
    · next hp => simp [hp, Option.isSome_iff_ne_none]; tauto
    · next hp => simp [hp, Option.isSome_iff_ne_none]
  intro idle free
  refine ⟨fun hf hi => ?_, fun hn => ?_⟩
  · have hfree : s.canRun (teamKey core slot) tm p = true := by rw [hcan, hf.1, hf.2]; rfl
    rw [if_neg (fun hb => hany.1 hb hi), if_pos hfree] at hchoose
    rw [exec_clauseStart, execClauseStart, hi.1, hchoose]
    rfl
  · rw [exec_clauseStart, execClauseStart]
    split
    · rfl
    · have hnone : chooseClause s core = none := by
        rw [hchoose]
        split
        · rfl
        · next hb =>
          have hi : idle := not_not.1 (fun hi => hb (hany.2 hi))
          have hf : ¬ free := hn.resolve_right (not_not.2 hi)
          have hcannot : ¬ s.canRun (teamKey core slot) tm p = true := fun hc => hf (by
            rw [hcan, Bool.and_eq_true, Bool.not_eq_true'] at hc
            exact hc)
          exact if_neg hcannot
      rw [hnone]

/-! ## The completion of a clause (R193) -/

theorem completeClause_first {p : Path} {pre post : List Clause} {c : Clause} (h : p.done = pre ++ c :: post) (hc : c.pend = 0)
    (hpre : ∀ d ∈ pre, d.pend ≠ 0) : p.completeClause = { p with done := pre ++ post } := by
  have hidx : p.done.findIdx? (fun c => c.pend == 0) = some pre.length := by
    rw [h, List.findIdx?_append, List.findIdx?_eq_none_iff.2 (by simpa using hpre)]
    simp [List.findIdx?_cons, hc]
  simp only [Path.completeClause, hidx]
  rw [h, List.eraseIdx_append_of_length_le le_rfl]
  simp

theorem completeClause_none {p : Path} (h : ∀ d ∈ p.done, d.pend ≠ 0) : p.completeClause = p := by
  have hidx : p.done.findIdx? (fun c => c.pend == 0) = none := List.findIdx?_eq_none_iff.2 (by simpa using h)
  rw [Path.completeClause, hidx]

/-- A path changed is read back, and every other team stays. -/
theorem modPath_reads {s : State} {key pi : Nat} {p : Path} (hp : s.path key pi = some p) (f : Path → Path) :
    (s.modPath key pi f).path key pi = some (f p) ∧ ∀ k, k ≠ key → (s.modPath key pi f).team k = s.team k := by
  refine ⟨?_, fun k hk => by simp [State.modPath, modTeam_team, hk]⟩
  obtain ⟨t, ht, hfind⟩ := Option.bind_eq_some_iff.1 hp
  simp [State.path, State.modPath, modTeam_team, ht, Team.modPath, AMap.find_modify, hfind]

/-- R87, R193, R194: the start and the completion of a clause. -/
theorem clauseEvents : Says.ClauseEvents := by
  refine ⟨?_, fun s core slot pi p hp => ⟨?_, ?_⟩⟩
  · intro s core slot pi tm p c cs h hrun hpark hstop hq hnb hr hd idle free
    obtain ⟨hslot, hpi, ht, hnone, hpaths, hphase, hstopped⟩ := id h
    obtain ⟨hstart, hstay⟩ := clauseStart_lone h hrun hpark hstop hq (awake_of hphase hnb) (mayGo_of hr hd)
    rw [clauseEligible_iff] at hstart hstay
    refine ⟨fun hf hi => ?_, hstay⟩
    obtain ⟨hrest, -⟩ := runClause_is s (teamKey core slot) pi
    obtain ⟨hcore, hodd⟩ := runClause_lone h
    have hteams : (s.runClause (teamKey core slot) pi).teams = s.teams := (congrArg State.teams hrest :)
    have hmem : (s.runClause (teamKey core slot) pi).mem = s.mem := (congrArg State.mem hrest :)
    have hp : (s.runClause (teamKey core slot) pi).path (teamKey core slot) pi = some p := by
      rw [State.path, State.team, hteams]
      exact Option.bind_eq_some_iff.2 ⟨tm, ht, by simp [hpaths, AMap.find_single]⟩
    obtain ⟨hpath, hother⟩ := modPath_reads hp Path.startClause
    refine ⟨_, _, hstart hf hi, ⟨congrArg Memory.bytes hmem, congrArg Memory.host hmem⟩, hcore, hodd, hpath, ?_, fun k hk => ?_⟩
    · rw [Path.startClause, hrun, hq]
    · rw [hother k hk, State.team, hteams]; rfl
  · intro pre c post hdone hc hpre
    obtain ⟨hpath, hother⟩ := modPath_reads hp Path.completeClause
    exact ⟨_, rfl, rfl, by rw [← completeClause_first hdone hc hpre]; exact hpath, hother⟩
  · intro hdone
    obtain ⟨hpath, hother⟩ := modPath_reads hp Path.completeClause
    exact ⟨_, rfl, by rw [completeClause_none hdone] at hpath; exact hpath, hother⟩

/-! ## A tick (R11, R108, R250) -/

theorem tickPaths_find (m : AMap Path) (j : Nat) : AMap.find (tickPaths m) j = (AMap.find m j).map Path.tick :=
  AMap.find_map Path.tick m j

/-- A tick of a core reaches the teams of the core alone (R108). -/
theorem ctimeTick_teams (m : AMap Team) (core k : Nat) :
    AMap.find (m.map (fun e => if keyCore e.1 = core then (e.1, e.2.tick) else e)) k =
      (AMap.find m k).map (fun t => if keyCore k = core then t.tick else t) := by
  have hkey : (fun e : Nat × Team => if keyCore e.1 = core then (e.1, e.2.tick) else e) =
      fun e => (e.1, if keyCore e.1 = core then e.2.tick else e.2) := by
    funext e
    split <;> rfl
  rw [hkey]
  exact AMap.find_map_key (fun k t => if keyCore k = core then t.tick else t) m k

/-- R11, R108, R250, R3, R245: a tick of a core, and a word that encodes nothing. -/
theorem tickAndUnassigned : Says.TickAndUnassigned := by
  refine ⟨fun s core => ?_, fun s w x hw => ?_, fun s w x hw => ?_⟩
  · rw [exec_ctimeTick, execCtimeTick]
    by_cases hd0 : s.dev.power = .d0
    · rw [if_neg (not_not.2 hd0)]
      refine ⟨_, rfl, ⟨rfl, rfl⟩, fun hne => absurd hd0 hne, fun _ => ⟨?_, fun k tm htm => ?_⟩⟩
      · simp only [State.core, State.modCore, State.setCore, AMap.find_insert_same, Option.getD_some]
        rfl
      · have hteam := ctimeTick_teams s.teams core k
        rw [show AMap.find s.teams k = some tm from htm, Option.map_some] at hteam
        refine ⟨fun hne => hteam.trans (by rw [if_neg (by exact hne)]), fun heq => ?_⟩
        rw [if_pos (by exact heq)] at hteam
        refine ⟨_, hteam, rfl, rfl, rfl, rfl, rfl, fun j p hp => ⟨p.tick, ?_, rfl, rfl, rfl⟩⟩
        exact (tickPaths_find tm.paths j).trans (by rw [hp]; rfl)
    · rw [if_pos hd0]
      exact ⟨_, rfl, ⟨rfl, rfl⟩, fun _ => ⟨rfl, rfl⟩, fun h => absurd h hd0⟩
  · rw [exec_unassignedEncoding, execUnassignedEncoding, withIssuer_eq hw]
  · rw [exec_unassignedEncoding, execUnassignedEncoding, withIssuer_eq hw]
    simp only [trapLane, Path.clauseLane, lanesOf, List.head?_filter]

/-- Settles O30, from the events of a clause, a tick and a word that encodes nothing. -/
theorem coreEvents : Obligations.CoreEvents := ⟨clauseEvents, tickAndUnassigned⟩

end Sys2Proof.Machine
end

section
/-! SUPPORT. The lane region of a team that starts (R98, R102, R103). -/
namespace Sys2Proof.Machine

/-! ## Walks and spans -/

/-- A walk reads memory, the table base and the service level alone (R122). -/
theorem walk_congr {s t : State} (hm : t.mem = s.mem) (hd : t.dev = s.dev) (hx : t.xl = s.xl) (asid : Nat) (host : Bool) (vpn : Nat) :
    walk t asid host vpn = walk s asid host vpn := by
  have hrd : t.readPa64 = s.readPa64 := by funext pa; simp only [State.readPa64, State.readPa, hm]
  have hleaf : checkLeaf t = checkLeaf s := by
    funext rd host level own idx vpn e
    simp only [checkLeaf, hm, hd]
  have hnode : ∀ fuel level node, walkNode t s.readPa64 host vpn fuel level node = walkNode s s.readPa64 host vpn fuel level node := by
    intro fuel
    induction fuel with
    | zero => intro level node; rfl
    | succ fuel ih => intro level node; simp only [walkNode, hleaf, hm, ih]
  simp only [walk, walkWith, hrd, hnode, hm, hx]

/-- Teams of one descriptor, ASID and index of their area have one lane region (R102, R103). -/
theorem privateSpans_congr {s t : State} {a b : Team} (hm : t.mem = s.mem) (hd : t.dev = s.dev) (hx : t.xl = s.xl)
    (hk : b.k = a.k) (hasid : b.asid = a.asid) (hpriv : b.privIdx = a.privIdx) : t.privateSpans b = s.privateSpans a := by
  have hwalk : walk t = walk s := by funext asid host vpn; exact walk_congr hm hd hx asid host vpn
  have harea : b.area = a.area := by rw [Team.area, hk, hpriv]; rfl
  unfold State.privateSpans
  rw [harea, hk, hasid, hwalk, hm]

theorem privateSpans_none {s : State} {t : Team} (h : t.k.pl = 0) : s.privateSpans t = [] := by
  simp [State.privateSpans, h]

/-! ## The bytes of the lane region -/

theorem pieces_within {fuel a : Nat} {bs : List Byte} {q : Nat × List Byte} (h : q ∈ pieces fuel a bs) :
    a ≤ q.1 ∧ q.1 + q.2.length ≤ a + bs.length := by
  induction fuel generalizing a bs with
  | zero => cases h
  | succ fuel ih =>
    cases bs with
    | nil => cases h
    | cons b bs =>
      rw [pieces, List.mem_cons] at h
      rcases h with rfl | h
      · exact ⟨le_rfl, by simp only [List.length_take]; omega⟩
      · obtain ⟨hlo, hhi⟩ := ih h
        rw [List.length_drop] at hhi
        by_cases hlen : 64 - a % 64 ≤ (b :: bs).length
        · omega
        · have hnil : (b :: bs).drop (64 - a % 64) = [] := List.drop_eq_nil_of_le (by omega)
          rw [hnil] at h
          cases fuel <;> cases h

/-- A change of every core that leaves its bins. -/
theorem find_map_bins (m : AMap Core) (d : Nat) {f : Core → Core} (hf : ∀ c, (f c).bins = c.bins) :
    ((AMap.find (m.map (fun e => (e.1, f e.2))) d).getD Core.reset).bins = ((AMap.find m d).getD Core.reset).bins := by
  rw [AMap.find_map f]
  cases AMap.find m d with
  | none => rfl
  | some c => exact hf c

/-- No byte outside some spans has changed, and nothing but memory, the writes that wait for leases, the L1 copies and the counter of
free values. -/
def blurred (spans : List (Nat × Nat)) (s t : State) : Prop :=
  ∃ m f c n, t = { s with mem := m, fab := f, cores := c, fresh := n } ∧ m.wf = true ∧ m.host = s.mem.host ∧
    (∀ d, (t.core d).bins = (s.core d).bins) ∧
    ∀ x, (∀ p ∈ spans, x < p.1 ∨ p.1 + p.2 ≤ x) → Tab.get 0 m.bytes x = Tab.get 0 s.mem.bytes x

theorem blurred_refl {s : State} (h : s.mem.wf = true) (spans : List (Nat × Nat)) : blurred spans s s :=
  ⟨s.mem, s.fab, s.cores, s.fresh, rfl, h, rfl, fun _ => rfl, fun _ _ => rfl⟩

theorem blurred.trans {spans : List (Nat × Nat)} {s t u : State} (h : blurred spans s t) (g : blurred spans t u) :
    blurred spans s u := by
  obtain ⟨m, f, c, n, rfl, -, hhost, hbins, hout⟩ := h
  obtain ⟨m', f', c', n', rfl, hwf', hhost', hbins', hout'⟩ := g
  exact ⟨m', f', c', n', rfl, hwf', hhost'.trans hhost, fun d => (hbins' d).trans (hbins d),
    fun x hx => (hout' x hx).trans (hout x hx)⟩

theorem blurred.wf {spans : List (Nat × Nat)} {s t : State} (h : blurred spans s t) : t.mem.wf = true := by
  obtain ⟨m, f, c, n, rfl, hwf, -⟩ := h
  exact hwf

/-- A piece of a span takes its bytes, or waits for a lease (R46, R98). -/
theorem put_blurred {spans : List (Nat × Nat)} {s : State} (h : s.mem.wf = true) {p : Nat × Nat} (hp : p ∈ spans)
    {q : Nat × List Byte} (hq : p.1 ≤ q.1 ∧ q.1 + q.2.length ≤ p.1 + p.2) :
    blurred spans s (if s.lineHeld q.1 then s.deviceLine q else { s with mem := s.mem.put q.1 q.2 }) := by
  obtain ⟨hlo, hhi⟩ := hq
  split
  · next hheld =>
    rw [State.deviceLine, if_pos hheld]
    exact ⟨s.mem, _, s.cores, s.fresh, rfl, h, rfl, fun _ => rfl, fun _ _ => rfl⟩
  · refine ⟨s.mem.put q.1 q.2, s.fab, s.cores, s.fresh, rfl, Memory.put_wf h _ _, rfl, fun _ => rfl, fun x hx => ?_⟩
    have := hx p hp
    exact Tab.get_setList_outside 0 q.2 q.1 x _ ((Memory.wf_iff _).1 h).1 (by omega)

/-- The bytes of a team's lane region are undefined when it starts, and no other byte changes (R98). -/
theorem blurPrivate_blurred {s : State} (h : s.mem.wf = true) (t : Team) : blurred (s.privateSpans t) s (s.blurPrivate t) := by
  unfold State.blurPrivate
  split
  · exact blurred_refl h _
  · generalize s.privateSpans t = spans
    dsimp only
    generalize hu : List.foldl _ s spans = u
    have hblur : blurred spans s u := by
      rw [← hu]
      refine List.foldlRecOn spans _ (motive := blurred spans s) (blurred_refl h _) (fun v hv p hp => ?_)
      refine hv.trans (List.foldlRecOn _ _ (motive := blurred spans v) ?_ (fun w hw q hq => ?_))
      · exact ⟨v.mem, v.fab, v.cores, v.fresh + 1, rfl, hv.wf, rfl, fun _ => rfl, fun _ _ => rfl⟩
      · have hin := pieces_within hq
        rw [List.length_map, List.length_range] at hin
        exact hw.trans (put_blurred hw.wf hp hin)
    refine hblur.trans ⟨u.mem, u.fab, _, u.fresh, rfl, hblur.wf, rfl, fun d => ?_, fun _ _ => rfl⟩
    exact find_map_bins u.cores d (f := fun c => { c with l1 := c.l1.filter _ }) (fun _ => rfl)

end Sys2Proof.Machine
end

section
/-! SUPPORT. A device with no team: which launch and which cores take the next neighbourhood (R77 to R84). -/
namespace Sys2Proof.Machine

/-! ## Slots and areas -/

section NoTeams

variable {s : State} (h : s.teams = [])
include h

theorem teamsOn_noTeams (c : Nat) : s.teamsOn c = [] := by simp [State.teamsOn, h]

theorem freeOn_noTeams (c : Nat) : s.freeOn c = some 0 := by
  rw [State.freeOn, List.range_succ_eq_map, List.find?_cons_of_pos]
  simp [State.slotTaken, teamsOn_noTeams h]

theorem freeSlots_noTeams (c : Nat) : s.freeSlots [c] = some (0, 0) := by
  simp [State.freeSlots, freeOn_noTeams h]

theorem spareSpawn_noTeams {n : Nat} {k : Kdesc} (hk : 1 ≤ k.spsl) (c : Nat) : s.spareSpawn n k c = true := by
  simp only [State.spareSpawn, teamsOn_noTeams h, List.filter_nil, List.length_nil, decide_eq_true_eq]
  omega

/-- A core with no claim takes one more team of a launch whose claim fits on it (R77, R80). -/
theorem coreFits_noTeams {n c : Nat} {k : Kdesc} (hbins : (s.core c).bins = []) (hopen : s.closed c = false) (hslots : k.slots ≤ 16)
    (hunits : k.units ≤ 192) : s.coreFits n k c = true := by
  have hclaim : s.claimants c = [] := by simp [State.claimants, teamsOn_noTeams h, hbins]
  simp [State.coreFits, hopen, State.slotsUsed, State.claimFits, teamsOn_noTeams h, hclaim, hslots, hunits]

end NoTeams

theorem freeArea_unused {l : Launch} (h : l.privUsed = []) : l.freeArea = some 0 := by
  rw [Launch.freeArea, List.range_succ_eq_map, List.find?_cons_of_pos]
  simp [h]

/-- No core is closed where none is fenced or vacated (R80, R89, R90). -/
theorem closed_emptyCores {s : State} (h : emptyCores s) (c : Nat) : s.closed c = false := by
  obtain ⟨-, -, -, hvac, hcv, -, -, -, hfenced⟩ := h
  simp [State.closed, hvac, hcv, hfenced c]

/-- The first rectangle of one core is core 0 (R80). -/
theorem candidates_single (d : Dev) : ∃ rest, candidates d false (1, 1) = [0] :: rest := by
  unfold candidates
  split
  · exact ⟨_, rfl⟩
  · exact ⟨_, rfl⟩

/-! ## The launch that waits -/

/-- Where nothing is saved and no neighbourhood has returned, none leaves the waiting set (R84). -/
theorem dropEnded_nothingSaved {s : State} (hs : s.sched.saved = []) (hl : ∀ e ∈ s.sched.launches, e.2.returned = []) :
    s.dropEnded = s := by
  have hmap : s.sched.launches.map (fun e =>
      let gone := e.2.returned.filter (fun nb => (s.savedOf e.1 nb).isEmpty)
      (e.1, { e.2 with returned := e.2.returned.filter (fun nb => !gone.contains nb),
                       liveNb := e.2.liveNb.filter (fun nb => !gone.contains nb) })) = s.sched.launches := by
    refine (List.map_congr_left fun e he => ?_).trans (List.map_id _)
    obtain ⟨n, l⟩ := e
    have hr : l.returned = [] := hl _ he
    have hsame : ({ l with returned := [] } : Launch) = l := by rw [← hr]
    simpa [hr] using hsame
  have hsaved : ({ s with sched := { s.sched with saved := s.sched.saved.filter (fun e => !e.2.2.isEmpty) } } : State) = s := by
    rw [hs, List.filter_nil, ← hs]
  unfold State.dropEnded
  simp only [hsaved, hmap]

theorem savedOf_nothingSaved {s : State} (h : s.sched.saved = []) (n nb : Nat) : s.savedOf n nb = [] := by
  simp [State.savedOf, h]

theorem binsOnly_nothingSaved {s : State} (h : s.sched.savedBins = []) (n : Nat) (l : Launch) : s.binsOnly n l = false := by
  simp [State.binsOnly, h]

/-- The only launch is the first that waits, when it waits (R84). -/
theorem firstWaiting_only {s : State} {n : Nat} {l : Launch} (h : s.sched.launches = [(n, l)]) (hw : s.waits n l = true)
    (hr : l.rank ≤ 4) : s.firstWaiting = some (n, l) := by
  have hold : ∀ r, s.oldest r = if l.rank = r then some (n, l) else none := by
    intro r
    by_cases hr : l.rank = r
    · simp [State.oldest, h, hw, hr]
    · simp [State.oldest, h, hr]
  have hmem : l.rank ∈ [4, 3, 2, 1, 0] := by simp only [List.mem_cons, List.not_mem_nil, or_false]; omega
  rw [State.firstWaiting, findSome?_unique hmem (fun r _ hne => by rw [hold, if_neg (Ne.symm hne)]), hold, if_pos rfl]

theorem rank_le {l : Launch} (h : l.prio ≤ 3) : l.rank ≤ 4 := by
  unfold Launch.rank
  split <;> omega

/-- A launch that has begun waits while a neighbourhood of it has never been placed (R84). -/
theorem waits_next {s : State} {n : Nat} {l : Launch} (hb : l.begun = true) (hc : l.cancelled = false)
    (hn : l.nextNb < l.gx * l.gy * l.gz) (hh : l.k.nbh ≤ 5) (hsw : s.dev.switching = false) : s.waits n l = true := by
  simp [State.waits, hb, hc, hn, hsw, Nat.not_lt.2 hh]

end Sys2Proof.Machine
end

section
/-! SUPPORT. The teams that start on a device with no other team (R81, R98, R201). -/
namespace Sys2Proof.Machine

/-! ## A team is seated -/

/-- R98 in the words of the claim: no byte changes but those of the team's lane region. -/
theorem blurPrivate_private {s : State} (h : s.mem.wf = true) (t : Team) : privateBlurred s (s.blurPrivate t) t := by
  obtain ⟨m, f, c, n, heq, -, hhost, -, hout⟩ := blurPrivate_blurred h t
  refine ⟨by rw [heq]; exact hhost, fun hpl => ?_, fun x hx => by rw [heq]; exact hout x hx⟩
  rw [State.blurPrivate, privateSpans_none hpl]
  exact ⟨rfl, rfl⟩

/-- What a lane region's bytes are is seen in memory alone. -/
theorem privateBlurred_congr {s s1 u v : State} {a b : Team} (h : privateBlurred s1 u a) (hm : s1.mem = s.mem) (hd : s1.dev = s.dev)
    (hx : s1.xl = s.xl) (hv : v.mem = u.mem) (hk : b.k = a.k) (hasid : b.asid = a.asid) (hpriv : b.privIdx = a.privIdx) :
    privateBlurred s v b := by
  obtain ⟨hhost, hnone, hout⟩ := h
  have hspans : s.privateSpans b = s1.privateSpans a := privateSpans_congr hm.symm hd.symm hx.symm hk hasid hpriv
  rw [hm] at hhost
  simp only [memoryKept, hm] at hnone
  refine ⟨by rw [hv]; exact hhost, fun hpl => ?_, fun x hx => ?_⟩
  · rw [memoryKept, hv]
    exact hnone (by rw [← hk]; exact hpl)
  · rw [hspans] at hx
    have := hout x hx
    rwa [byteAt, byteAt, hm, ← hv] at this

theorem takesTeam_bins (c : Core) (n : Nat) : (c.takesTeam n).bins = c.bins := by
  unfold Core.takesTeam
  dsimp only
  split <;> rfl

/-- A team is seated on a device with no other: it takes the slot, its lane region is undefined, and queues, launches and bins stay. -/
structure SeatedAlone (s u : State) (key : Nat) (t : Team) : Prop where
  teams : u.teams = [(key, t)]
  sched : u.sched = s.sched
  dbg : u.dbg = s.dbg
  mem : privateBlurred s u t
  bins : ∀ d, (u.core d).bins = (s.core d).bins

theorem seatNew_alone {s : State} (hwf : s.mem.wf = true) (hteams : s.teams = []) (c : Nat) (t : Team) :
    SeatedAlone s (s.seatNew [c] (0, 0) t) (teamKey c 0) { t with oddSlot := 0 } := by
  have hpriv := blurPrivate_private hwf t
  obtain ⟨m, f, cs, n, heq, -, -, hbins, -⟩ := blurPrivate_blurred hwf t
  refine ⟨?_, ?_, ?_, ?_, fun d => ?_⟩
  · rw [State.seatNew, heq]
    simp only [State.seat, State.setTeam, List.foldl_cons, List.foldl_nil, modCore_teams, hteams]
    rfl
  · rw [State.seatNew, heq]; rfl
  · rw [State.seatNew, heq]; rfl
  · exact privateBlurred_congr hpriv rfl rfl rfl rfl rfl rfl rfl
  · rw [← hbins d]
    have hcore := modCore_core { s.blurPrivate t with dev := (s.blurPrivate t).dev.wake } c d (fun k => k.takesTeam t.launch)
    refine (congrArg Core.bins hcore).trans ?_
    split
    · next hd => rw [hd]; exact takesTeam_bins _ _
    · rfl

/-! ## The state of R81 -/

theorem maskBelow_lanes {n i : Nat} (hi : i < 1024) : (maskBelow n).getLsbD i = decide (i < n) := by
  rw [maskBelow, BitVec.getLsbD_ofNat, decide_eq_true hi, Bool.true_and, Nat.testBit_two_pow_sub_one]

/-- A team starts fresh where its tables are empty and its one path is new (R81, R100). -/
theorem freshTeam_start {tm : Team} {p : Path} {sregs : Tab Word64} {pc : Word64} {n pts launch nbh tidx asid born privIdx : Nat}
    {id : BitVec 32} {k : Kdesc} {bin : Bool} (hp : p = { Path.start pc (maskBelow n) resetFmt pts with sregs := sregs })
    (ht : { tm with vregs := [], rebuild := none, entry := 0, args := [], spawned := [], endedLanes := 0, paths := [] } =
      Team.start launch k nbh tidx asid id born privIdx bin) (hpaths : tm.paths = [(0, p)]) : freshTeam tm p pc n := by
  have hpregs : tm.pregs = [] := (congrArg Team.pregs ht :)
  have hxregs : tm.xregs = [] := (congrArg Team.xregs ht :)
  have hscratch : tm.scratch = [] := (congrArg Team.scratch ht :)
  subst hp
  refine ⟨hpaths, rfl, fun i hi => maskBelow_lanes hi, rfl, rfl, rfl, rfl, rfl, rfl, rfl, rfl, fun l k hk => ?_, fun l k => ?_,
    fun o => by rw [hscratch]; rfl, (congrArg Team.version ht :), (congrArg Team.phase ht :), (congrArg Team.handler ht :),
    (congrArg Team.taint ht :), (congrArg Team.late ht :), (congrArg Team.ecom ht :)⟩
  · rw [Team.p, if_neg hk, hpregs]; rfl
  · rw [Team.x, hxregs]; rfl

/-! ## A neighbourhood's team -/

/-- The team of a neighbourhood of one team as it starts (R81). -/
def neighbourTeam (n nb : Nat) (l : Launch) (id : BitVec 32) (born pts : Nat) : Team :=
  { Team.start n l.k nb 0 l.asid id born 0 false with rebuild := l.rebuild, paths := [(0, neighbourPath l nb 0 pts)] }

/-- The registers of a neighbourhood's path: the argument address and the coordinates, and the team's index, which is 0 (R81). -/
theorem neighbourPath_s (l : Launch) (nb pts : Nat) (r : Reg6) : (neighbourPath l nb 0 pts).s r =
    if r = 1 then l.args
    else if r = 2 then .ofNat 64 (nb % l.gx + nb / l.gx % l.gy * 2 ^ 24 + nb / (l.gx * l.gy) * 2 ^ 48) else 0 := by
  have h0 : Tab.wf 0 (Path.start l.k.sentry (maskBelow l.k.lanes) resetFmt pts).sregs = true := rfl
  have h1 := setS_wf _ h0 1 l.args
  rw [neighbourPath, setS_s _ (setS_wf _ h1 2 _), setS_s _ h1, setS_s _ h0]
  have hnil : (Path.start l.k.sentry (maskBelow l.k.lanes) resetFmt pts).s r = 0 := by
    rw [Path.s]; split <;> rfl
  rw [hnil]
  by_cases h3 : r = 3
  · subst h3; rfl
  · by_cases h2 : r = 2
    · subst h2; rfl
    · by_cases h1 : r = 1
      · subst h1; rfl
      · rw [if_neg fun q => h3 q.1, if_neg fun q => h2 q.1, if_neg fun q => h1 q.1, if_neg h1, if_neg h2]

theorem neighbourPath_start (l : Launch) (nb pts : Nat) : ∃ m, neighbourPath l nb 0 pts =
    { Path.start l.k.sentry (maskBelow l.k.lanes) resetFmt pts with sregs := m } := ⟨_, rfl⟩

theorem neighbourTeam_fresh (n nb : Nat) (l : Launch) (id : BitVec 32) (born pts : Nat) :
    freshTeam (neighbourTeam n nb l id born pts) (neighbourPath l nb 0 pts) l.k.sentry l.k.lanes := by
  obtain ⟨m, hm⟩ := neighbourPath_start l nb pts
  exact freshTeam_start (launch := n) (nbh := nb) (tidx := 0) (asid := l.asid) (born := born) (privIdx := 0) (id := id) (k := l.k)
    (bin := false) hm rfl rfl

end Sys2Proof.Machine
end

section
/-! SUPPORT. PLACEMENT and the starts of bins, on a device with no team (R79 to R84, R201). -/
namespace Sys2Proof.Machine

/-! ## PLACEMENT (R79, R80, R81) -/

/-- Only launches, the counters of tasks and the counter of free values differ: what a team's start takes before it is seated. -/
structure TakesTask (s u : State) : Prop where
  mem : u.mem = s.mem
  dev : u.dev = s.dev
  xl : u.xl = s.xl
  dbg : u.dbg = s.dbg
  teams : u.teams = s.teams
  saved : u.sched.savedBins = s.sched.savedBins

/-- The one team of a neighbourhood on core 0 (R79, R81). -/
theorem startTeam_alone {s : State} {n nb : Nat} {l l0 : Launch} (hteams : s.teams = []) (hl : s.launch n = some l0)
    (hpriv : l0.privUsed = []) (hpair : l.k.pair = false) : ∃ u id born pts,
      s.startTeam n nb l [0] 0 = some (u.seatNew [0] (0, 0) (neighbourTeam n nb l id born pts)) ∧ TakesTask s u ∧
      u.sched = (s.modLaunch n (fun l => { l with privUsed := 0 :: l.privUsed })).sched := by
  have hcores : l.k.teamCoresAt [0] 0 = [0] := by simp [Kdesc.teamCoresAt, hpair]
  have harea : (s.launch n).bind Launch.freeArea = some 0 := by rw [hl, Option.bind_some, freeArea_unused hpriv]
  refine ⟨(s.takeTask 0 0).1.tick.modLaunch n (fun l => { l with privUsed := 0 :: l.privUsed }), (s.takeTask 0 0).2, s.fresh,
    ((s.takeTask 0 0).1.tick.modLaunch n (fun l => { l with privUsed := 0 :: l.privUsed })).startPts 0 l, ?_,
    ⟨rfl, rfl, rfl, rfl, rfl, rfl⟩, rfl⟩
  simp only [State.startTeam, hcores, freeSlots_noTeams hteams, harea]
  rfl

theorem returnBins_none {s : State} (h : s.sched.savedBins = []) (n : Nat) (r : List Nat) : s.returnBins n r = s := by
  have hs : ({ s with sched := { s.sched with savedBins := [] } } : State) = s := by rw [← h]
  rw [State.returnBins, h]
  exact hs

theorem journalPlacement_off {s : State} (h : s.dbg.jctl = 0) (n nb : Nat) (r : List Nat) : s.journalPlacement n nb r = s := by
  simp [State.journalPlacement, Debug.replaying, State.journal, h, bits]

section Placement

variable {s : State} {n : Nat} {l : Launch} (h : emptyCores s) (hr : l.returned = [])
include h hr

/-- The first core takes a neighbourhood of one team where no core holds a claim (R80). -/
theorem nextRect_alone (hbins : ∀ c, (s.core c).bins = []) (hpriv : l.privUsed = []) (hpair : l.k.pair = false) (htpc : l.k.tpc = 1)
    (hw : l.k.nbw = 0) (hh : l.k.nbh = 0) (hspsl : l.k.spsl ≤ 15) (hunits : l.k.units ≤ 192) : s.nextRect n l = some [0] := by
  obtain ⟨hteams, hsaved, hsavedBins, -⟩ := id h
  have hareas : l.areasFree = true := by simp [Launch.areasFree, hpriv, Kdesc.nt, hpair, hw, hh, htpc]
  have hbin : s.nextIsBin n l = false := by simp [State.nextIsBin, hr, binsOnly_nothingSaved hsavedBins]
  have hfits : s.rectFits n l.k false [0] = true := by
    have := coreFits_noTeams (n := n) (k := l.k) hteams (hbins 0) (closed_emptyCores h 0)
      (by rw [Kdesc.slots, htpc]; omega) hunits
    simp [State.rectFits, this]
  obtain ⟨rest, hcand⟩ := candidates_single s.dev
  have hshape : l.k.shape false = (1, 1) := by simp [Kdesc.shape, hw, hh]
  rw [State.nextRect, if_pos hareas, State.findRect, hbin, hpair, hshape, hcand, List.find?_cons_of_pos hfits]

/-- The next neighbourhood of one team goes to core 0 (R79, R84). -/
theorem placeNext_alone (hl : s.sched.launches = [(n, l)]) (hpriv : l.privUsed = []) (hpair : l.k.pair = false)
    (htpc : l.k.tpc = 1) (hw : l.k.nbw = 0) (hh : l.k.nbh = 0) (hwf : s.mem.wf = true) : ∃ t id born pts, s.placeNext n l [0] = some t ∧
      t.teams = [(0, neighbourTeam n l.nextNb l id born pts)] ∧ privateBlurred s t (neighbourTeam n l.nextNb l id born pts) ∧
      t.dbg = s.dbg ∧
      t.launch n = some { l with nextNb := l.nextNb + 1, liveNb := l.nextNb :: l.liveNb, privUsed := [0], waitFrom := none } := by
  obtain ⟨hteams, -, hsavedBins, -⟩ := id h
  have hlaunch : s.launch n = some l := by rw [State.launch, hl, AMap.find_single, if_pos rfl]
  have hnt : List.range l.k.nt = [0] := by rw [Kdesc.nt, hpair, hw, hh, htpc]; rfl
  obtain ⟨u, id, born, pts, hstart, htask, hsched⟩ := startTeam_alone (l := l) (nb := l.nextNb) hteams hlaunch hpriv hpair
  have hseat := seatNew_alone (by rw [htask.mem]; exact hwf) (htask.teams.trans hteams) 0 (neighbourTeam n l.nextNb l id born pts)
  generalize u.seatNew [0] (0, 0) (neighbourTeam n l.nextNb l id born pts) = v at hstart hseat
  have hnone : ∀ f, (v.modLaunch n f).sched.savedBins = [] := fun f => by
    rw [show (v.modLaunch n f).sched.savedBins = v.sched.savedBins from rfl, hseat.sched, htask.saved, hsavedBins]
  refine ⟨v.modLaunch n (fun l => { l with nextNb := l.nextNb + 1, liveNb := l.nextNb :: l.liveNb, waitFrom := none }), id, born,
    pts, ?_, hseat.teams, privateBlurred_congr hseat.mem htask.mem htask.dev htask.xl rfl rfl rfl rfl,
    hseat.dbg.trans htask.dbg, ?_⟩
  · rw [State.placeNext, hr]
    dsimp only
    rw [binsOnly_nothingSaved hsavedBins, if_neg Bool.false_ne_true, hnt]
    simp only [foldSteps, hstart, Option.map_some, returnBins_none (hnone _)]
  · have hv : v.launch n = some { l with privUsed := 0 :: l.privUsed } := by
      rw [State.launch, hseat.sched, hsched]
      show (s.modLaunch n _).launch n = _
      rw [modLaunch_launch, if_pos rfl, hlaunch]
      rfl
    rw [modLaunch_launch, if_pos rfl, hv, Option.map_some, hpriv]

end Placement

/-- PLACEMENT of the next neighbourhood of the only launch (R79, R80, R81). -/
theorem placement_alone {s t : State} {n : Nat} {l : Launch} (h : emptyCores s) (hbins : ∀ c, (s.core c).bins = [])
    (hl : s.sched.launches = [(n, l)]) (hbegun : l.begun = true) (hcan : l.cancelled = false) (hr : l.returned = [])
    (hpriv : l.privUsed = []) (hnext : l.nextNb < l.gx * l.gy * l.gz) (hprio : l.prio ≤ 3) (hpair : l.k.pair = false)
    (htpc : l.k.tpc = 1) (hw : l.k.nbw = 0) (hh : l.k.nbh = 0) (hspsl : l.k.spsl ≤ 15) (hunits : l.k.units ≤ 192)
    (hplace : s.placeNext n l [0] = some t) (hdbg : t.dbg = s.dbg) : exec .placement s = .next t := by
  obtain ⟨-, hsaved, hsavedBins, -, -, hstop, hswitch, hj, -⟩ := id h
  have hdrop : s.dropEnded = s := dropEnded_nothingSaved hsaved (by rw [hl]; simpa using hr)
  have hfull : s.journalFull 11 = false := by simp [State.journalFull, hj, bits]
  have hreplay : s.dbg.replaying = false := by simp [Debug.replaying, hj, bits]
  have hfirst : s.firstWaiting = some (n, l) :=
    firstWaiting_only hl (waits_next hbegun hcan hnext (by omega) hswitch) (rank_le hprio)
  have hrect := nextRect_alone (n := n) h hr hbins hpriv hpair htpc hw hh hspsl hunits
  simp only [exec_placement, execPlacement, hdrop, hstop, hfull, hfirst, hreplay, hrect, binsOnly_nothingSaved hsavedBins, hplace,
    journalPlacement_off (hdbg ▸ hj), Bool.or_false, Bool.false_eq_true, if_false, Option.map_some, Option.getD_some]

/-- With no launch, nothing is placed (R84). -/
theorem placement_noLaunch {s : State} (h : emptyCores s) (hl : s.sched.launches = []) : exec .placement s = .next s := by
  obtain ⟨-, hsaved, -⟩ := h
  have hdrop : s.dropEnded = s := dropEnded_nothingSaved hsaved (by rw [hl]; simp)
  have hfirst : s.firstWaiting = none := by simp [State.firstWaiting, State.oldest, hl]
  rw [exec_placement, execPlacement, hdrop, hfirst]
  exact congrArg Host.Outcome.next (ite_self s)

/-! ## Bins (R82, R83, R201) -/

theorem kdescOf_launch {s : State} {n : Nat} {l : Launch} (h : s.launch n = some l) : s.kdescOf n = l.k := by
  rw [State.kdescOf, h]; rfl

/-- The timer of a bin launches it, and every other bin stays (R82). -/
theorem binTimerExpiry_bin {s : State} {core bin : Nat} {b : Bin} {l : Launch} (hb : (s.core core).bins[bin]? = some b)
    (hl : s.launch b.launch = some l) : ∃ t, exec (.binTimerExpiry core bin) s = .next t ∧ { t with cores := s.cores } = s ∧
      (∀ c, c ≠ core → t.core c = s.core c) ∧ { t.core core with bins := (s.core core).bins } = s.core core ∧
      ∀ j, (t.core core).bins[j]? = if j = bin ∧ l.k.btimer ≤ b.timer then some { b with launched := true }
        else (s.core core).bins[j]? := by
  refine ⟨_, rfl, rfl, fun c hc => by rw [modCore_core, if_neg hc], ?_, fun j => ?_⟩
  · rw [modCore_core, if_pos rfl]
  · rw [modCore_core, if_pos rfl]
    simp only [List.getElem?_modify]
    by_cases hj : j = bin
    · subst hj
      simp only [hb, kdescOf_launch hl, true_and, if_true, Option.map_eq_map, Option.map_some]
      split <;> rfl
    · simp [hj, Ne.symm hj]

/-- The lanes of a bin that are all spawned keep their order (R201). -/
theorem binOrder_spawned {b : Bin} {vs : List (BitVec 32)} (h : b.lanes = vs.map .spawned) : binOrder b = vs.map .spawned := by
  simp [binOrder, h, List.filter_map, Function.comp_def]

theorem binTeam_spawned {b : Bin} {vs : List (BitVec 32)} (h : b.lanes = vs.map .spawned) (n : Nat) (k : Kdesc) (id : BitVec 32)
    (born area : Nat) (r : Option Nat) : (binTeam b n k id born area r).contLanes = [] ∧
      (binTeam b n k id born area r).spawned = vs.zipIdx.map (fun e => (e.2, e.1)) := by
  simp only [binTeam, binOrder_spawned h, List.zipIdx_map, List.filterMap_map]
  exact ⟨List.filterMap_eq_nil_iff.2 (fun _ _ => rfl), (by rw [← List.filterMap_eq_map]; rfl)⟩

theorem loadSpawned_is (t : Team) (ls : List (Nat × BitVec 32)) : ∃ m, t.loadSpawned ls = { t with vregs := m } := by
  unfold Team.loadSpawned
  refine foldl_keeps (fun u : Team => ∃ m, u = { t with vregs := m }) _ _ _ ⟨t.vregs, rfl⟩ ?_
  rintro _ e ⟨m, rfl⟩
  exact ⟨_, rfl⟩

/-- Spawned lanes take their values whatever the team's paths are (R304). -/
theorem loadSpawned_paths (t : Team) (ls : List (Nat × BitVec 32)) (m : AMap Path) :
    ({ t with paths := m } : Team).loadSpawned ls = { t.loadSpawned ls with paths := m } := by
  induction ls generalizing t with
  | nil => rfl
  | cons e ls ih => exact ih (t.setV e.1 0 e.2)

/-- Spawned lanes take their values in v0, from a first lane on (R304). -/
theorem loadSpawned_v (vs : List (BitVec 32)) (n : Nat) {t : Team} (h : Tab.wf 0 t.vregs = true) {i k : Nat} (hk : k < 256) :
    (t.loadSpawned ((vs.zipIdx n).map (fun e => (e.2, e.1)))).v i k =
      if k = 0 ∧ n ≤ i ∧ i < n + vs.length then vs.getD (i - n) 0 else t.v i k := by
  induction vs generalizing n t with
  | nil => rw [if_neg (by simp only [List.length_nil]; omega)]; rfl
  | cons v vs ih =>
    rw [List.zipIdx_cons, List.map_cons]
    refine (ih (n + 1) (setV_wf t h n 0 v)).trans ?_
    rw [setV_v t h n 0 v i k (by decide) hk, List.length_cons]
    by_cases hlater : k = 0 ∧ n + 1 ≤ i ∧ i < n + 1 + vs.length
    · rw [if_pos hlater, if_pos (by omega), show i - n = i - (n + 1) + 1 by omega, List.getD_cons_succ]
    · rw [if_neg hlater]
      by_cases hfirst : i = n ∧ k = 0
      · obtain ⟨rfl, rfl⟩ := hfirst
        rw [if_pos ⟨rfl, rfl⟩, if_pos (by omega), Nat.sub_self, List.getD_cons_zero]
      · rw [if_neg hfirst, if_neg (by omega)]

theorem oddSlot_zero {t : Team} (h : t.oddSlot = 0) : ({ t with oddSlot := 0 } : Team) = t := by
  cases t
  cases h
  rfl

/-- A bin team with no continuation lanes runs at once, with its spawned lanes' values (R201). -/
theorem loadBinTeam_spawned {s : State} {key : Nat} {t : Team} (h : s.team key = some t) (hc : t.contLanes = []) :
    s.loadBinTeam key =
      s.setTeam key ((t.loadSpawned t.spawned).modPath 0 (fun p => { p with fmt := resetFmt, wait := none })) := by
  simp only [State.loadBinTeam, h, hc, State.loadContinuations]
  rfl

/-- The frame of a bin is in s1 to s4 (R201). -/
theorem frame_s {p : Path} {f1 f2 f3 f4 : Word64}
    (h : p.sregs = [f1, f2, f3, f4].zipIdx.foldl (fun m e => Tab.set 0 (e.2 + 1) e.1 m) []) (r : Reg6) :
    p.s r = if r = 1 then f1 else if r = 2 then f2 else if r = 3 then f3 else if r = 4 then f4 else 0 := by
  have h1 : Tab.wf 0 (Tab.set 0 1 f1 []) = true := Tab.wf_set 0 _ _ _ rfl
  have h2 := Tab.wf_set 0 _ 2 f2 h1
  have h3 := Tab.wf_set 0 _ 3 f3 h2
  have hget : Tab.get 0 p.sregs r.toNat =
      if r.toNat = 4 then f4 else if r.toNat = 3 then f3 else if r.toNat = 2 then f2 else if r.toNat = 1 then f1 else 0 := by
    rw [h]
    refine (Tab.get_set 0 _ (Tab.wf_rising h3) 4 _ f4).trans ?_
    rw [Tab.get_set 0 _ (Tab.wf_rising h2), Tab.get_set 0 _ (Tab.wf_rising h1), Tab.get_set 0 _ rfl]
    rfl
  have hne : ∀ (k : Reg6) (n : Nat), k.toNat = n → r ≠ k → r.toNat ≠ n := fun k n hk hr e =>
    hr (BitVec.eq_of_toNat_eq (e.trans hk.symm))
  rw [Path.s, hget]
  by_cases r0 : r = 0
  · subst r0; rfl
  by_cases r1 : r = 1
  · subst r1; rfl
  by_cases r2 : r = 2
  · subst r2; rfl
  by_cases r3 : r = 3
  · subst r3; rfl
  by_cases r4 : r = 4
  · subst r4; rfl
  rw [if_neg r0, if_neg (hne 4 4 rfl r4), if_neg (hne 3 3 rfl r3), if_neg (hne 2 2 rfl r2), if_neg (hne 1 1 rfl r1), if_neg r1, if_neg r2,
    if_neg r3, if_neg r4]

/-- The team of a bin of spawned lanes once it has its lanes' values (R201). -/
def spawnedTeam (b : Bin) (l : Launch) (id : BitVec 32) (born pts : Nat) : Team :=
  let t := binTeam b b.launch l.k id born 0 l.rebuild
  { t.loadSpawned t.spawned with
    paths := [(0, { binPath t t.binLanes pts resetFmt with wait := none })] }

section BinStart

variable {s : State} {core : Nat} {b : Bin} {l : Launch} {vs : List (BitVec 32)} (hlanes : b.lanes = vs.map .spawned)
include hlanes

theorem spawnedTeam_is (l : Launch) (id : BitVec 32) (born pts : Nat) : ∃ m, spawnedTeam b l id born pts =
    { binTeam b b.launch l.k id born 0 l.rebuild with
      vregs := m, paths := [(0, { binPath (binTeam b b.launch l.k id born 0 l.rebuild) vs.length pts resetFmt with wait := none })] } := by
  obtain ⟨hcont, hspawned⟩ := binTeam_spawned hlanes b.launch l.k id born 0 l.rebuild
  obtain ⟨m, hm⟩ := loadSpawned_is (binTeam b b.launch l.k id born 0 l.rebuild) (binTeam b b.launch l.k id born 0 l.rebuild).spawned
  have hn : (binTeam b b.launch l.k id born 0 l.rebuild).binLanes = vs.length := by simp [Team.binLanes, hcont, hspawned]
  refine ⟨m, ?_⟩
  rw [spawnedTeam, hm, hn]

theorem spawnedTeam_fresh (l : Launch) (id : BitVec 32) (born pts : Nat) : ∃ p,
    freshTeam (spawnedTeam b l id born pts) p b.entry vs.length ∧
      p.sregs = b.frame.zipIdx.foldl (fun m e => Tab.set 0 (e.2 + 1) e.1 m) [] := by
  obtain ⟨m, hm⟩ := spawnedTeam_is hlanes l id born pts
  obtain ⟨hcont, -⟩ := binTeam_spawned hlanes b.launch l.k id born 0 l.rebuild
  rw [hm]
  refine ⟨{ binPath (binTeam b b.launch l.k id born 0 l.rebuild) vs.length pts resetFmt with wait := none }, ?_, rfl⟩
  refine freshTeam_start (launch := b.launch) (nbh := 2 ^ 32 + id.toNat) (tidx := 0) (asid := b.asid) (born := born) (privIdx := 0)
    (id := id) (k := l.k) (bin := true) (pts := pts) (sregs := b.frame.zipIdx.foldl (fun m e => Tab.set 0 (e.2 + 1) e.1 m) []) rfl ?_ rfl
  refine Eq.trans ?_ (show ({ Team.start b.launch l.k (2 ^ 32 + id.toNat) 0 b.asid id born 0 true with
    contLanes := (binTeam b b.launch l.k id born 0 l.rebuild).contLanes } : Team) = _ by rw [hcont]; rfl)
  rfl

theorem spawnedTeam_v (l : Launch) (id : BitVec 32) (born pts i : Nat) {k : Nat} (hk : k < 256) :
    (spawnedTeam b l id born pts).v i k = if k = 0 then vs.getD i 0 else 0 := by
  obtain ⟨-, hspawned⟩ := binTeam_spawned hlanes b.launch l.k id born 0 l.rebuild
  have hload := loadSpawned_v vs 0 (t := binTeam b b.launch l.k id born 0 l.rebuild) rfl (i := i) hk
  rw [← hspawned] at hload
  refine hload.trans ?_
  have hzero : (binTeam b b.launch l.k id born 0 l.rebuild).v i k = 0 := rfl
  rw [hzero]
  by_cases hk0 : k = 0
  · by_cases hi : i < vs.length
    · rw [if_pos (by omega), if_pos hk0, Nat.sub_zero]
    · rw [if_neg (by omega), if_pos hk0, List.getD_eq_default _ _ (by omega)]
  · rw [if_neg (fun h => hk0 h.1), if_neg hk0]

/-- The team of a bin of spawned lanes on an empty device (R201). -/
theorem startBinTeam_alone (hwf : s.mem.wf = true) (hteams : s.teams = []) (id : BitVec 32) (born : Nat) :
    SeatedAlone s (s.startBinTeam [core] (0, 0) l (binTeam b b.launch l.k id born 0 l.rebuild)) (teamKey core 0)
      (spawnedTeam b l id born (s.startPts core l)) := by
  obtain ⟨hcont, -⟩ := binTeam_spawned hlanes b.launch l.k id born 0 l.rebuild
  rw [spawnedTeam, State.startBinTeam]
  generalize ht : binTeam b b.launch l.k id born 0 l.rebuild = t at hcont ⊢
  dsimp only [List.headD_cons]
  generalize hq : binPath t t.binLanes (s.startPts core l) resetFmt = q
  have hpaths : t.setPath 0 { q with wait := some .starting } = { t with paths := [(0, { q with wait := some .starting })] } := by
    rw [← ht]; rfl
  have hodd : t.oddSlot = 0 := by rw [← ht]; rfl
  have hfmt : q.fmt = resetFmt := by rw [← hq]; rfl
  have hseat := seatNew_alone hwf hteams core (t.setPath 0 { q with wait := some .starting })
  rw [oddSlot_zero (by rw [hpaths]; exact hodd)] at hseat
  generalize s.seatNew [core] (0, 0) (t.setPath 0 { q with wait := some .starting }) = u at hseat ⊢
  rw [hpaths] at hseat
  obtain ⟨husteams, hsched, hdbg, hmem, hbins⟩ := hseat
  have hteam : u.team (teamKey core 0) = some { t with paths := [(0, { q with wait := some .starting })] } := by
    rw [State.team, husteams, AMap.find_single, if_pos rfl]
  rw [loadBinTeam_spawned hteam hcont]
  have hloaded : (({ t with paths := [(0, { q with wait := some .starting })] } : Team).loadSpawned t.spawned).modPath 0
      (fun p => { p with fmt := resetFmt, wait := none }) =
      { t.loadSpawned t.spawned with paths := [(0, { q with wait := none })] } := by
    rw [loadSpawned_paths, ← hfmt]
    rfl
  obtain ⟨m, hm⟩ := loadSpawned_is t t.spawned
  refine ⟨?_, hsched, hdbg, privateBlurred_congr hmem rfl rfl rfl rfl ?_ ?_ ?_, hbins⟩
  · rw [State.setTeam, husteams, hloaded]
    simp [AMap.insert]
  all_goals rw [hm]

end BinStart

theorem takeTask_bins (s : State) (core slot c : Nat) : ((s.takeTask core slot).1.core c).bins = (s.core c).bins := by
  rw [State.takeTask, modCore_core]
  split
  · next h => rw [h]
  · rfl

/-- BIN_TEAM_START of the one launched bin of a core (R83). -/
theorem binTeamStart_alone {s : State} {core : Nat} {b : Bin} {l : Launch} (h : emptyCores s) (hb : (s.core core).bins = [b])
    (hlaunched : b.launched = true) (hl : s.launch b.launch = some l) (hspsl : 1 ≤ l.k.spsl) (hpair : l.k.pair = false)
    (hpriv : l.privUsed = []) : ∃ u id born, exec (.binTeamStart core) s =
      .next (u.startBinTeam [core] (0, 0) l (binTeam b b.launch l.k id born 0 l.rebuild)) ∧ TakesTask s u ∧
      (u.core core).bins = [] := by
  obtain ⟨hteams, -, -, -, -, hstop, -⟩ := id h
  have hload : s.loadingOn core = none := by simp [State.loadingOn, hteams]
  have hstart : s.startable core b = true := by
    rw [State.startable, hlaunched, kdescOf_launch hl, spareSpawn_noTeams hteams hspsl]; rfl
  refine ⟨((s.takeTask core 0).1.tick.modLaunch b.launch (fun l => { l with privUsed := 0 :: l.privUsed })).modCore core
    (fun c => { c with bins := c.bins.erase b }), (s.takeTask core 0).2, s.fresh, ?_, ⟨rfl, rfl, rfl, rfl, rfl, rfl⟩, ?_⟩
  · rw [exec_binTeamStart, execBinTeamStart, closed_emptyCores h, hstop, if_neg (by simp), hload, hb,
      List.find?_cons_of_pos hstart]
    simp only [hl, hpair, Bool.false_eq_true, if_false, freeSlots_noTeams hteams, freeArea_unused hpriv]
  · rw [modCore_core, if_pos rfl]
    have hbins : (((s.takeTask core 0).1.tick.modLaunch b.launch (fun l => { l with privUsed := 0 :: l.privUsed })).core core).bins =
        [b] := by
      rw [← hb]
      exact takeTask_bins s core 0 core
    rw [hbins]
    simp

/-! ## The claim -/

/-- Settles O37, from PLACEMENT, BIN_TIMER_EXPIRY and BIN_TEAM_START on a device with no team. -/
theorem placement : Obligations.Placement := by
  refine ⟨?_, fun s h hl => placement_noLaunch h hl, fun s core bin b l hb hl => binTimerExpiry_bin hb hl, ?_⟩
  · intro s n l h hbins hl hbegun hcan hr hpriv hnext hprio hpair htpc hw hh hspsl hunits hwf
    obtain ⟨t, id, born, pts, hplace, hteams, hmem, hdbg, hlaunch⟩ := placeNext_alone h hr hl hpriv hpair htpc hw hh hwf
    have hexec := placement_alone h hbins hl hbegun hcan hr hpriv hnext hprio hpair htpc hw hh hspsl hunits hplace hdbg
    refine ⟨t, _, _, hexec, hmem, ?_, fun k hk => ?_, neighbourTeam_fresh n l.nextNb l id born pts, fun _ _ => rfl, rfl, rfl, rfl, rfl,
      rfl, rfl, neighbourPath_s l l.nextNb pts, hlaunch⟩
    · rw [State.team, hteams, AMap.find_single, if_pos rfl]
    · rw [State.team, hteams, AMap.find_single, if_neg hk]
  · intro s core b l vs f1 f2 f3 f4 h _ hb hlaunched hlanes _ hframe hl hspsl hpair hpriv hwf
    obtain ⟨u, id, born, hexec, htask, hubins⟩ := binTeamStart_alone h hb hlaunched hl hspsl hpair hpriv
    have hseat := startBinTeam_alone (s := u) (core := core) (l := l) hlanes (by rw [htask.mem]; exact hwf)
      (htask.teams.trans h.1) id born
    obtain ⟨p, hfresh, hsregs⟩ := spawnedTeam_fresh hlanes l id born (u.startPts core l)
    obtain ⟨m, hm⟩ := spawnedTeam_is hlanes l id born (u.startPts core l)
    refine ⟨_, spawnedTeam b l id born (u.startPts core l), p, hexec,
      privateBlurred_congr hseat.mem htask.mem htask.dev htask.xl rfl rfl rfl rfl, ?_, fun k hk => ?_, ?_, hfresh, ?_, ?_, ?_,
      fun r => frame_s (by rw [hsregs, hframe]) r, fun i k hk => spawnedTeam_v hlanes l id born _ i hk⟩
    · rw [State.team, hseat.teams, AMap.find_single]; exact if_pos rfl
    · rw [State.team, hseat.teams, AMap.find_single]; exact if_neg hk
    · exact (hseat.bins core).trans hubins
    all_goals rw [hm]; rfl

end Sys2Proof.Machine
end

section
/-! SUPPORT. Cores that are vacated: what happens to the teams on them, and to no other (R89 to R91). -/
namespace Sys2Proof.Machine

/-! ## Teams that leave their cores or stop to be saved -/

/-- Of the teams that stay resident, those hit are stopped to be saved, and the others are as they were; memory stays. -/
structure Evicts (hit : Nat → Team → Prop) (s t : State) : Prop where
  mem : memoryKept s t
  copies : t.eng.copies = s.eng.copies
  rising : AMap.rising s.teams = true → AMap.rising t.teams = true
  stays : AMap.rising s.teams = true → ∀ k tm, t.team k = some tm →
    s.team k = some tm ∧ ¬ hit k tm ∨ ∃ u, s.team k = some u ∧ hit k u ∧ tm = { u with phase := .saving }

/-- What leaves the teams, the copies and memory as they are evicts nothing. -/
theorem Evicts.of_eq {s t : State} (hm : memoryKept s t) (he : t.eng.copies = s.eng.copies) (ht : t.teams = s.teams) :
    Evicts (fun _ _ => False) s t where
  mem := hm
  copies := he
  rising := fun h => by rwa [ht]
  stays := fun _ k tm h => .inl ⟨by rwa [State.team, ht] at h, id⟩

theorem memoryKept_refl (s : State) : memoryKept s s := ⟨rfl, rfl⟩

theorem memoryKept_trans {s t u : State} (h : memoryKept s t) (g : memoryKept t u) : memoryKept s u :=
  ⟨g.1.trans h.1, g.2.trans h.2⟩

theorem Evicts.refl (s : State) : Evicts (fun _ _ => False) s s := .of_eq (memoryKept_refl s) rfl rfl

/-- Teams hit by the one or the other. -/
theorem Evicts.trans {p q : Nat → Team → Prop} {s t u : State} (h : Evicts p s t) (g : Evicts q t u) :
    Evicts (fun k tm => p k tm ∨ q k tm) s u where
  mem := memoryKept_trans h.mem g.mem
  copies := g.copies.trans h.copies
  rising := fun hs => g.rising (h.rising hs)
  stays := fun hs k tm hk => by
    rcases g.stays (h.rising hs) k tm hk with ⟨ht, hnq⟩ | ⟨v, ht, hv, rfl⟩
    · rcases h.stays hs k tm ht with ⟨hs', hnp⟩ | ⟨w, hs', hw, rfl⟩
      · exact .inl ⟨hs', not_or.2 ⟨hnp, hnq⟩⟩
      · exact .inr ⟨w, hs', .inl hw, rfl⟩
    · rcases h.stays hs k v ht with ⟨hs', -⟩ | ⟨w, hs', hw, rfl⟩
      · exact .inr ⟨v, hs', .inr hv, rfl⟩
      · exact .inr ⟨w, hs', .inl hw, rfl⟩

/-- What is hit matters of the resident teams alone. -/
theorem Evicts.congr {p q : Nat → Team → Prop} {s t : State} (h : Evicts p s t)
    (hpq : AMap.rising s.teams = true → ∀ k tm, s.team k = some tm → (p k tm ↔ q k tm)) : Evicts q s t where
  mem := h.mem
  copies := h.copies
  rising := h.rising
  stays := fun hs k tm hk => by
    rcases h.stays hs k tm hk with ⟨hs', hn⟩ | ⟨u, hs', hu, rfl⟩
    · exact .inl ⟨hs', fun hq => hn ((hpq hs k tm hs').2 hq)⟩
    · exact .inr ⟨u, hs', (hpq hs k u hs').1 hu, rfl⟩

/-- What follows leaves the teams, the copies and memory as they are. -/
theorem Evicts.then_eq {p : Nat → Team → Prop} {s t u : State} (h : Evicts p s t) (hm : memoryKept t u)
    (he : u.eng.copies = t.eng.copies) (ht : u.teams = t.teams) : Evicts p s u :=
  (h.trans (.of_eq hm he ht)).congr (fun _ _ _ _ => or_iff_left id)

/-- No team has a copy in flight: every copy is a packet's (R67, R179). -/
def noTeamCopies (s : State) : Prop := ∀ c ∈ s.eng.copies, c.packet.isSome = true

theorem Evicts.keepsCopies {p : Nat → Team → Prop} {s t : State} (h : Evicts p s t) (hs : noTeamCopies s) : noTeamCopies t := by
  rwa [noTeamCopies, h.copies]

/-- The entries of a list are evicted one after the other. -/
theorem Evicts.foldl {α : Type} {p : α → Nat → Team → Prop} {f : State → α → State} (l : List α)
    (hf : ∀ a s, noTeamCopies s → Evicts (p a) s (f s a)) {s : State} (hs : noTeamCopies s) :
    Evicts (fun k tm => ∃ a ∈ l, p a k tm) s (l.foldl f s) := by
  induction l generalizing s with
  | nil => exact (Evicts.refl s).congr (fun _ _ _ _ => by simp)
  | cons a l ih =>
    have hfirst := hf a s hs
    exact (hfirst.trans (ih (hfirst.keepsCopies hs))).congr (fun _ k tm _ => by simp only [List.mem_cons, exists_eq_or_imp])

/-! ## What an eviction is made of -/

theorem modCore_foldl_is (cs : List Nat) (f : Nat → Core → Core) (s : State) :
    ∃ c, cs.foldl (fun s c => s.modCore c (f c)) s = { s with cores := c } :=
  foldl_keeps (fun t : State => ∃ c, t = { s with cores := c }) _ cs s ⟨s.cores, rfl⟩ (by rintro _ _ ⟨c, rfl⟩; exact ⟨_, rfl⟩)

/-- A team that leaves its cores changes them alone. -/
theorem leaveCores_is (s : State) (key : Nat) (t : Team) : ∃ c, s.leaveCores key t = { s with cores := c } := by
  unfold State.leaveCores
  refine foldl_keeps (fun u : State => ∃ c, u = { s with cores := c }) _ _ s ⟨s.cores, rfl⟩ ?_
  rintro _ _ ⟨c, rfl⟩
  exact ⟨_, rfl⟩

/-- A team that is unseated leaves its slot and its cores, with its entries of the event queue (R92, R241). -/
theorem unseat_is {s : State} {key : Nat} {t : Team} (h : s.team key = some t) : ∃ c ev,
    s.unseat key = { s with cores := c, teams := AMap.erase key s.teams, sched := { s.sched with savedEv := ev } } := by
  obtain ⟨c, hc⟩ := leaveCores_is s key t
  rw [State.unseat, h]
  dsimp only
  rw [hc]
  exact ⟨c, _, rfl⟩

theorem keepTeam_is (s : State) (t : Team) : ∃ m, s.keepTeam t = { s with sched := { s.sched with saved := m } } := ⟨_, rfl⟩

/-- With no copy of a team in flight, none ends (R179). -/
theorem dropCopies_none {s : State} (h : noTeamCopies s) (id : BitVec 32) : s.dropCopies id = s := by
  have hnone : s.eng.copies.any (fun c => c.teamId == id && c.packet.isNone) = false := by
    rw [List.any_eq_false]
    intro c hc
    simp [Option.isNone_eq_false_iff.2 (h c hc)]
  unfold State.dropCopies
  dsimp only
  rw [hnone]
  rfl

/-! ## One team -/

/-- A team leaves its slot, and nothing of the other teams, the copies or memory changes. -/
theorem unseat_evicts (s : State) (key : Nat) : Evicts (fun k _ => k = key) s (s.unseat key) := by
  cases h : s.team key with
  | none =>
    have hsame : s.unseat key = s := by rw [State.unseat, h]
    rw [hsame]
    refine (Evicts.refl s).congr (fun _ k tm hk => iff_of_false id ?_)
    rintro rfl
    rw [h] at hk
    cases hk
  | some t =>
    obtain ⟨c, ev, heq⟩ := unseat_is h
    rw [heq]
    refine ⟨memoryKept_refl s, rfl, AMap.rising_erase _ _, fun hs k tm hk => ?_⟩
    have hfind := AMap.find_erase s.teams hs key k
    rw [State.team, hfind] at hk
    split at hk
    · cases hk
    · next hne => exact .inl ⟨hk, hne⟩

/-- A team that is discarded leaves its slot: its accesses are cancelled and it is kept (R91). -/
theorem discardOne_evicts {s : State} (h : noTeamCopies s) (key : Nat) (t : Team) :
    Evicts (fun k _ => k = key) s
      ((((s.dropCopies t.teamId).cancelAccesses t.teamId).unseat key).keepTeam t.afresh) := by
  rw [dropCopies_none h]
  have hcancel : Evicts (fun _ _ => False) s (s.cancelAccesses t.teamId) := .of_eq ⟨rfl, rfl⟩ rfl rfl
  obtain ⟨m, hkeep⟩ := keepTeam_is ((s.cancelAccesses t.teamId).unseat key) t.afresh
  rw [hkeep]
  exact ((hcancel.trans (unseat_evicts _ key)).congr (fun _ _ _ _ => or_iff_right id)).then_eq ⟨rfl, rfl⟩ rfl rfl

/-- A team that is saved stops, and its clause leaves the datapaths (R92). -/
theorem saveOne_evicts (s : State) (key : Nat) (t : Team) : Evicts (fun k _ => k = key) s
    ((teamCores (keyCore key) t).foldl (fun s c => s.modCore c (fun k => k.leaveClause (t.slotOn key c)))
      (s.modTeam key (fun t => { t with phase := .saving }))) := by
  obtain ⟨c, hc⟩ := modCore_foldl_is (teamCores (keyCore key) t) (fun c k => k.leaveClause (t.slotOn key c))
    (s.modTeam key (fun t => { t with phase := .saving }))
  rw [hc]
  refine ⟨memoryKept_refl s, rfl, AMap.rising_modify _ _ _, fun _ k tm hk => ?_⟩
  have hteam := modTeam_team s key k (fun t => { t with phase := .saving })
  have hk' : (s.modTeam key (fun t => { t with phase := .saving })).team k = some tm := hk
  rw [hteam] at hk'
  split at hk'
  · next hkey =>
    obtain ⟨u, hu, rfl⟩ := Option.map_eq_some_iff.1 hk'
    exact .inr ⟨u, hkey ▸ hu, hkey, rfl⟩
  · next hne => exact .inl ⟨hk', hne⟩

/-! ## A neighbourhood, and cores -/

/-- The teams of a neighbourhood are those at the keys where it has one. -/
theorem neighbourhood_keys {s : State} (n : Nat × Nat) (hs : AMap.rising s.teams = true) {k : Nat} {tm : Team}
    (h : s.team k = some tm) :
    (∃ e ∈ s.teams.filter (fun e => e.2.launch == n.1 && e.2.nbh == n.2), k = e.1) ↔ (tm.launch, tm.nbh) = n := by
  constructor
  · rintro ⟨e, he, rfl⟩
    obtain ⟨hmem, hn⟩ := List.mem_filter.1 he
    have hfind := AMap.find_of_mem hs (k := e.1) (v := e.2) hmem
    cases hfind.symm.trans h
    simp only [Bool.and_eq_true, beq_iff_eq] at hn
    exact Prod.ext hn.1 hn.2
  · rintro rfl
    exact ⟨(k, tm), List.mem_filter.2 ⟨AMap.mem_of_find h, by simp⟩, rfl⟩

theorem discardNeighbourhood_evicts {s : State} (h : noTeamCopies s) (n nb : Nat) :
    Evicts (fun _ tm => (tm.launch, tm.nbh) = (n, nb)) s (s.discardNeighbourhood n nb) := by
  have hfold := Evicts.foldl (p := fun (e : Nat × Team) k _ => k = e.1)
    (s.teams.filter (fun e => e.2.launch == n && e.2.nbh == nb)) (fun e s hs => discardOne_evicts hs e.1 e.2) h
  exact (hfold.congr (fun hs k tm hk => neighbourhood_keys (n, nb) hs hk)).then_eq ⟨rfl, rfl⟩ rfl rfl

/-- A neighbourhood on vacated cores is discarded or saved, and no other team is touched (R89, R91, R92). -/
theorem evict_evicts {s : State} (h : noTeamCopies s) (n : Nat × Nat) :
    Evicts (fun _ tm => (tm.launch, tm.nbh) = n) s (s.evict n) := by
  unfold State.evict
  dsimp only
  split
  · exact discardNeighbourhood_evicts h n.1 n.2
  · have hclear : Evicts (fun _ _ => False) s s.clearSavePartition := .of_eq ⟨rfl, rfl⟩ rfl rfl
    have hfold := Evicts.foldl (p := fun (e : Nat × Team) k _ => k = e.1)
      (s.teams.filter (fun e => e.2.launch == n.1 && e.2.nbh == n.2)) (fun e s _ => saveOne_evicts s e.1 e.2)
      (hclear.keepsCopies h)
    exact (hclear.trans hfold).congr (fun hs k tm hk => (or_iff_right id).trans (neighbourhood_keys n hs hk))

theorem saveBins_fenced (s : State) (core k : Nat) : ((s.saveBins core).core k).fenced = (s.core k).fenced := by
  refine (congrArg Core.fenced (modCore_core s core k (fun c => { c with bins := [] }))).trans ?_
  split
  · next h => rw [h]
  · rfl

/-- The bins of cores are saved, and no core is fenced or opened (R91). -/
theorem saveBins_is (cs : List Nat) (s : State) :
    ∃ c b, cs.foldl (fun s c => s.saveBins c) s = { s with cores := c, sched := { s.sched with savedBins := b } } ∧
      ∀ k, ((cs.foldl (fun s c => s.saveBins c) s).core k).fenced = (s.core k).fenced := by
  refine foldl_keeps (fun t : State => ∃ c b, t = { s with cores := c, sched := { s.sched with savedBins := b } } ∧
    ∀ k, (t.core k).fenced = (s.core k).fenced) _ cs s ⟨s.cores, s.sched.savedBins, rfl, fun _ => rfl⟩ ?_
  rintro t core ⟨c, b, rfl, hfenced⟩
  exact ⟨_, _, rfl, fun k => (saveBins_fenced _ core k).trans (hfenced k)⟩

/-- The end of a vacating changes cores and the scheduler alone (R89, R90). -/
theorem settleVacate_is (s : State) : ∃ c d, s.settleVacate = { s with cores := c, sched := d } := by
  unfold State.settleVacate
  dsimp only
  split
  · split
    · obtain ⟨c, hc⟩ := modCore_foldl_is s.sched.cvCores (fun _ k => { k with fenced := true })
        { s with sched := { s.sched with vacating := [] } }
      rw [hc]
      exact ⟨c, _, rfl⟩
    · exact ⟨s.cores, _, rfl⟩
  · split
    · obtain ⟨c, hc⟩ := modCore_foldl_is s.sched.cvCores (fun _ k => { k with fenced := true }) s
      rw [hc]
      exact ⟨c, _, rfl⟩
    · exact ⟨s.cores, s.sched, rfl⟩

/-- Cores that are vacated: the teams of the neighbourhoods on them are discarded, or stop to be saved (R89, R90). -/
theorem vacate_evicts {s : State} (h : noTeamCopies s) (cores : List Nat) :
    Evicts (fun _ tm => (tm.launch, tm.nbh) ∈ s.neighbourhoodsOn cores) s (s.vacate cores) := by
  obtain ⟨c, b, hbins, -⟩ := saveBins_is cores s
  generalize hd : ({ s.sched with savedBins := b } : Sched) = d at hbins
  unfold State.vacate
  dsimp only
  rw [hbins]
  have hfirst : Evicts (fun _ _ => False) s { s with cores := c, sched := d } := .of_eq (memoryKept_refl s) rfl rfl
  have hfold := Evicts.foldl (p := fun n _ tm => (tm.launch, tm.nbh) = n) (s.neighbourhoodsOn cores)
    (fun n s hs => evict_evicts hs n) (hfirst.keepsCopies h)
  obtain ⟨c', d', hsettle⟩ := settleVacate_is ((s.neighbourhoodsOn cores).foldl (fun s n => s.evict n) { s with cores := c, sched := d })
  rw [hsettle]
  exact ((hfirst.trans hfold).congr (fun _ _ _ _ => by simp)).then_eq ⟨rfl, rfl⟩ rfl rfl

theorem mem_neighbourhoodsOn {s : State} {cores : List Nat} {k : Nat} {tm : Team} (h : s.team k = some tm)
    (hc : (teamCores (keyCore k) tm).any cores.contains = true) : (tm.launch, tm.nbh) ∈ s.neighbourhoodsOn cores := by
  rw [State.neighbourhoodsOn, List.mem_eraseDups]
  exact List.mem_map.2 ⟨(k, tm), List.mem_filter.2 ⟨AMap.mem_of_find h, hc⟩, rfl⟩

/-- Where whole neighbourhoods are on the cores, the teams on them are stopped or gone, and every other team stays (R89). -/
theorem vacate_teams {s : State} (h : noTeamCopies s) (hs : AMap.rising s.teams = true) {cores : List Nat}
    (hwhole : ∀ e ∈ s.teams, (e.2.launch, e.2.nbh) ∈ s.neighbourhoodsOn cores →
      (teamCores (keyCore e.1) e.2).any cores.contains = true) {k : Nat} {tm : Team} (hk : (s.vacate cores).team k = some tm) :
    if (teamCores (keyCore k) tm).any cores.contains then tm.phase = .saving else s.team k = some tm := by
  rcases (vacate_evicts h cores).stays hs k tm hk with ⟨hk', hno⟩ | ⟨u, hk', hhit, rfl⟩
  · rw [if_neg (fun hc => hno (mem_neighbourhoodsOn hk' hc))]
    exact hk'
  · have hcores : (teamCores (keyCore k) { u with phase := .saving }).any cores.contains = true :=
      hwhole (k, u) (AMap.mem_of_find hk') hhit
    rw [if_pos hcores]

/-! ## A pre-emption (R89) -/

/-- What waits, and from when, is the scheduler's alone (R89). -/
theorem noteWaits_is (s : State) (now : Nat) : ∃ d, s.dropEnded.noteWaits now = { s with sched := d } := by
  refine foldl_keeps (fun t : State => ∃ d, t = { s with sched := d }) _ _ _ ⟨_, rfl⟩ ?_
  rintro _ x ⟨d, rfl⟩
  unfold State.noteWait
  split
  · exact ⟨d, rfl⟩
  · exact ⟨_, rfl⟩

section Preemption

variable {s s1 : State} {now h : Nat} {l : Launch} (hs1 : s.dropEnded.noteWaits now = s1) (hfirst : s1.firstWaiting = some (h, l))
  (hvac : s1.sched.vacating = []) (hstop : s1.dev.stopped = false)
include hs1 hfirst hvac hstop

/-- The oldest neighbourhood of the highest class, when it has waited its time and does not fit, has cores vacated (R89). -/
theorem preemption_vacates {t t0 : Nat} {cores : List Nat} (hwait : l.waitFrom = some (l.nextNumber, t0))
    (hafter : preemptAfter l.rank = some t) (htime : t0 + t ≤ now) (hnext : s1.nextRect h l = none)
    (hvict : s1.victims h l = some cores) : exec (.preemptionDecision now) s =
      .next (({ s1 with sched := { s1.sched with vacating := cores } } : State).vacate cores) := by
  simp only [exec_preemptionDecision, execPreemptionDecision, hs1, hvac, hstop, hfirst, hafter, hwait, hnext, hvict,
    Nat.not_lt.2 htime, List.isEmpty_nil, not_true_eq_false, Option.isSome_none, ne_eq, Bool.false_eq_true, or_self, if_false]

/-- PRIO 0 never pre-empts, and neither does a neighbourhood that fits or has not waited its time (R89). -/
theorem preemption_waits (hno : preemptAfter l.rank = none ∨ (s1.nextRect h l).isSome = true ∨
    ∃ t t0 nb, preemptAfter l.rank = some t ∧ l.waitFrom = some (nb, t0) ∧ now < t0 + t) :
    exec (.preemptionDecision now) s = .next s1 := by
  simp only [exec_preemptionDecision, execPreemptionDecision, hs1, hvac, hstop, hfirst, List.isEmpty_nil, not_true_eq_false,
    Bool.false_eq_true, or_self, if_false]
  refine congrArg Host.Outcome.next ?_
  rcases hno with hno | hfits | ⟨t, t0, nb, ha, hw, htime⟩
  · rw [hno]
  · split
    · rw [if_pos (.inr (.inr hfits))]
    · rfl
  · rw [ha, hw]
    exact if_pos (.inr (.inl htime))

end Preemption

/-! ## A request to vacate and fence (R90) -/

theorem eraseDups_nodup {α : Type} [BEq α] [LawfulBEq α] {l : List α} (h : l.Nodup) : l.eraseDups = l := by
  induction l with
  | nil => rfl
  | cons a l ih =>
    obtain ⟨ha, hl⟩ := List.nodup_cons.1 h
    have hfilter : l.filter (fun b => !b == a) = l := by
      refine List.filter_eq_self.2 (fun b hb => ?_)
      have hne : b ≠ a := fun e => ha (e ▸ hb)
      simpa using hne
    rw [List.eraseDups_cons, hfilter, ih hl]

/-- Cores changed in turn, by a change that is the same when it is made twice. -/
theorem modCore_foldl_core {f : Core → Core} (hf : ∀ c, f (f c) = f c) (cs : List Nat) (s : State) (k : Nat) :
    (cs.foldl (fun s c => s.modCore c f) s).core k = if k ∈ cs then f (s.core k) else s.core k := by
  induction cs generalizing s with
  | nil => simp
  | cons c cs ih =>
    rw [List.foldl_cons, ih, modCore_core]
    by_cases hc : k = c
    · subst hc; simp [hf]
    · simp [hc]

/-- The cores that a request names (R90). -/
def requestCores (v : BitVec 64) : List Nat := (List.range (bits 40 32 v.toNat + 1)).map (fun i => bits 8 0 v.toNat + i)

theorem mem_requestCores {v : BitVec 64} {c : Nat} :
    c ∈ requestCores v ↔ v.toNat % 2 ^ 9 ≤ c ∧ c ≤ v.toNat % 2 ^ 9 + v.toNat / 2 ^ 32 % 2 ^ 9 := by
  simp only [requestCores, bits, List.mem_map, List.mem_range, pow_zero, Nat.div_one]
  constructor
  · rintro ⟨i, hi, rfl⟩
    omega
  · rintro ⟨hlo, hhi⟩
    exact ⟨c - v.toNat % 2 ^ 9, by omega, by omega⟩

theorem requestCores_nodup (v : BitVec 64) : (requestCores v).Nodup :=
  List.Nodup.map (fun _ _ h => Nat.add_left_cancel h) List.nodup_range

/-- A request that is taken: no reserved bit, no core past 383, and none in progress (R90). -/
def requestGood (s : State) (v : BitVec 64) : Prop :=
  v.toNat / 2 ^ 9 % 2 ^ 23 = 0 ∧ v.toNat / 2 ^ 41 % 2 ^ 22 = 0 ∧ v.toNat % 2 ^ 9 + v.toNat / 2 ^ 32 % 2 ^ 9 ≤ 383 ∧
    s.sched.cvBusy = false

theorem requestGood_iff (s : State) (v : BitVec 64) : requestGood s v ↔
    ¬ (bits 62 41 v.toNat ≠ 0 ∨ bits 31 9 v.toNat ≠ 0 ∨ 383 < bits 8 0 v.toNat + bits 40 32 v.toNat ∨ s.sched.cvBusy = true) := by
  simp only [requestGood, bits, ne_eq, not_or, not_not, Nat.not_lt, Bool.not_eq_true, pow_zero, Nat.div_one]
  exact and_left_comm

theorem cvRequest_refused {s : State} {v : BitVec 64} (h : ¬ requestGood s v) :
    s.cvRequest v = { s with sched := { s.sched with cvErr := true } } := by
  rw [requestGood_iff, not_not] at h
  exact if_pos h

theorem cvRequest_unfence {s : State} {v : BitVec 64} (h : requestGood s v) (h63 : v.getLsbD 63 = true) :
    s.cvRequest v =
      (let u := (requestCores v).foldl (fun s c => s.modCore c (fun k => { k with fenced := false })) s
       { u with sched := { u.sched with cvDone := u.sched.cvDone + 1 } }) := by
  rw [requestGood_iff] at h
  exact (if_neg h).trans (if_pos h63)

theorem cvRequest_fence {s : State} {v : BitVec 64} (h : requestGood s v) (h63 : v.getLsbD 63 = false) :
    s.cvRequest v = ({ s with sched := { s.sched with cvCores := s.widen 384 (requestCores v), cvBusy := true } } : State).vacate
      (s.widen 384 (requestCores v)) := by
  rw [requestGood_iff] at h
  exact (if_neg h).trans (if_neg (by rw [h63]; exact Bool.false_ne_true))

/-- Cores that hold no team have no neighbourhood, and do not widen (R89). -/
theorem neighbourhoodsOn_none {s : State} {cores : List Nat} (h : ∀ e ∈ s.teams, ∀ c ∈ teamCores (keyCore e.1) e.2, c ∉ cores) :
    s.neighbourhoodsOn cores = [] := by
  have hnone : s.teams.filter (fun e => (teamCores (keyCore e.1) e.2).any cores.contains) = [] := by
    refine List.filter_eq_nil_iff.2 (fun e he => ?_)
    simpa using h e he
  rw [State.neighbourhoodsOn, hnone]
  rfl

theorem widen_none {s : State} {cores : List Nat} (n : Nat) (hd : cores.Nodup)
    (h : ∀ e ∈ s.teams, ∀ c ∈ teamCores (keyCore e.1) e.2, c ∉ cores) : s.widen (n + 1) cores = cores := by
  have hmore : s.widenOnce cores = cores := by
    simp [State.widenOnce, neighbourhoodsOn_none h, eraseDups_nodup hd]
  simp [State.widen, hmore]

theorem teamsOn_none {s : State} {cores : List Nat} (h : ∀ e ∈ s.teams, ∀ c ∈ teamCores (keyCore e.1) e.2, c ∉ cores) {c : Nat}
    (hc : c ∈ cores) : s.teamsOn c = [] := by
  refine List.filter_eq_nil_iff.2 (fun e he hmem => ?_)
  exact h e he c (by simpa using hmem) hc

/-- The cores of a request that hold no team are fenced at once (R90). -/
theorem settleVacate_request {s : State} (hv : s.sched.vacating = []) (hb : s.sched.cvBusy = true)
    (hempty : ∀ c ∈ s.sched.cvCores, s.teamsOn c = []) : s.settleVacate =
      { s.sched.cvCores.foldl (fun s c => s.modCore c (fun k => { k with fenced := true })) s with
        sched := { s.sched with cvCores := [], cvBusy := false, cvDone := s.sched.cvDone + 1 } } := by
  have hsame : ({ s with sched := { s.sched with vacating := [] } } : State) = s := by rw [← hv]
  have hall : s.sched.cvCores.all (fun c => (s.teamsOn c).isEmpty) = true := by
    simpa using hempty
  obtain ⟨c, hc⟩ := modCore_foldl_is s.sched.cvCores (fun _ k => { k with fenced := true }) s
  unfold State.settleVacate
  dsimp only
  rw [hsame, ite_self]
  refine (if_pos (by rw [hb, hall]; rfl)).trans ?_
  rw [hc]

/-- A vacating of cores with no team, for a request (R90). -/
theorem vacate_request {s : State} {cores : List Nat} (hv : s.sched.vacating = []) (hb : s.sched.cvBusy = true)
    (hcv : s.sched.cvCores = cores) (h : ∀ e ∈ s.teams, ∀ c ∈ teamCores (keyCore e.1) e.2, c ∉ cores) :
    memoryKept s (s.vacate cores) ∧ (s.vacate cores).teams = s.teams ∧
      (∀ c, ((s.vacate cores).core c).fenced = if c ∈ cores then true else (s.core c).fenced) ∧
      (s.vacate cores).sched.cvDone = s.sched.cvDone + 1 ∧ (s.vacate cores).sched.cvBusy = false ∧
      (s.vacate cores).sched.cvErr = s.sched.cvErr := by
  obtain ⟨c, b, hbins, hfenced⟩ := saveBins_is cores s
  have hvacate : s.vacate cores = (cores.foldl (fun s c => s.saveBins c) s).settleVacate := by
    rw [State.vacate, neighbourhoodsOn_none h]; rfl
  generalize cores.foldl (fun s c => s.saveBins c) s = w at hbins hfenced hvacate
  have hwcv : w.sched.cvCores = cores := by rw [hbins]; exact hcv
  have hempty : ∀ c ∈ w.sched.cvCores, w.teamsOn c = [] := fun c hin => by
    rw [hwcv] at hin
    rw [State.teamsOn, hbins]
    exact teamsOn_none h hin
  rw [settleVacate_request (by rw [hbins]; exact hv) (by rw [hbins]; exact hb) hempty, hwcv] at hvacate
  have hcore := modCore_foldl_core (f := fun k => { k with fenced := true }) (fun _ => rfl) cores w
  obtain ⟨c', hc'⟩ := modCore_foldl_is cores (fun _ k => { k with fenced := true }) w
  rw [hc'] at hcore hvacate
  rw [hvacate]
  refine ⟨by rw [hbins]; exact ⟨rfl, rfl⟩, by rw [hbins], fun k => ?_, by rw [hbins], rfl, by rw [hbins]⟩
  refine (congrArg Core.fenced (hcore k)).trans ?_
  rw [apply_ite Core.fenced, hfenced k]

/-- R89, R90: pre-emption, and requests to vacate and fence. -/
theorem vacatingCores : Says.VacatingCores := by
  refine ⟨?_, ?_⟩
  · intro s now h l s1 hvac hstop hfirst hrising hcopies
    obtain ⟨d, hd⟩ := noteWaits_is s now
    have hs1 : s1 = { s with sched := d } := hd
    refine ⟨fun t0 cores hnext hwait hrank hvict hwhole => ?_, fun hno => ?_⟩
    · obtain ⟨t, hafter, htime⟩ : ∃ t, preemptAfter l.rank = some t ∧ t0 + t ≤ now := by
        rcases hrank with ⟨hr, ht⟩ | ⟨hlo, hhi, ht⟩
        · exact ⟨0, by rw [hr]; rfl, ht⟩
        · exact ⟨100, by rw [preemptAfter, if_neg (by omega), if_neg (by omega)], ht⟩
      have hexec := preemption_vacates rfl hfirst hvac hstop hwait hafter htime hnext hvict
      have hteams : s1.teams = s.teams := by rw [hs1]
      have heng : s1.eng = s.eng := by rw [hs1]
      generalize hu : ({ s1 with sched := { s1.sched with vacating := cores } } : State) = u at hexec
      have hut : u.teams = s.teams := by rw [← hu]; exact hteams
      have huc : noTeamCopies u := by rw [← hu]; exact (show noTeamCopies s1 by rw [noTeamCopies, heng]; exact hcopies)
      have hmem : memoryKept s u := by rw [← hu, hs1]; exact ⟨rfl, rfl⟩
      have hnbs : u.neighbourhoodsOn cores = s.neighbourhoodsOn cores := by rw [State.neighbourhoodsOn, hut]; rfl
      refine ⟨_, hexec, memoryKept_trans hmem (vacate_evicts huc cores).mem, fun k tm hk => ?_⟩
      have hteam := vacate_teams huc (by rw [hut, ← hteams]; exact hrising) (cores := cores) (by rw [hut, hnbs]; exact hwhole) hk
      rwa [State.team, hut] at hteam
    · have hexec := preemption_waits (s := s) (now := now) rfl hfirst hvac hstop (by
        rcases hno with hr | ⟨t0, hwait, hlo, hhi, htime⟩ | hfits
        · exact .inl (by rw [hr]; rfl)
        · exact .inr (.inr ⟨100, t0, _, by rw [preemptAfter, if_neg (by omega), if_neg (by omega)], hwait, htime⟩)
        · exact .inr (.inl hfits))
      refine ⟨s1, hexec, ?_, ?_, ?_⟩
      all_goals rw [hs1]
      exact ⟨rfl, rfl⟩
  · intro s v hdeaf first last good
    have hmem : ∀ c, c ∈ requestCores v ↔ first ≤ c ∧ c ≤ last := fun c => mem_requestCores
    refine ⟨fun h63 hgood hvac hno => ?_, fun h63 hgood => ?_, fun hbad i hi => ?_⟩
    · have hout : ∀ e ∈ s.teams, ∀ c ∈ teamCores (keyCore e.1) e.2, c ∉ requestCores v := fun e he c hc hin => by
        have hrange := (hmem c).1 hin
        have := hno e he c hc
        omega
      obtain ⟨hkept, hteams, hfenced, hdone⟩ := vacate_request
        (s := { s with sched := { s.sched with cvCores := requestCores v, cvBusy := true } }) hvac rfl rfl hout
      refine ⟨_, ?_, hkept, hteams, fun c => ?_, hdone⟩
      · rw [exec_vacateAndFence, execVacateAndFence, onLink_heard hdeaf, h63, if_neg Bool.false_ne_true, cvRequest_fence hgood h63,
          widen_none 383 (requestCores_nodup v) hout]
      · rw [hfenced c]
        exact if_congr (hmem c) rfl rfl
    · obtain ⟨c, hc⟩ := modCore_foldl_is (requestCores v) (fun _ k => { k with fenced := false }) s
      have hcore := modCore_foldl_core (f := fun k => { k with fenced := false }) (fun _ => rfl) (requestCores v) s
      have hexec : exec (.unfence v) s = .next (s.cvRequest v) := by
        rw [exec_unfence, execUnfence, onLink_heard hdeaf, if_pos h63]
      rw [cvRequest_unfence hgood h63] at hexec
      dsimp only at hexec
      rw [hc] at hexec hcore
      exact ⟨_, hexec, rfl, fun k => (hcore k).trans (if_congr (hmem k) rfl rfl), rfl⟩
    · have hrefused : s.cvRequest v = { s with sched := { s.sched with cvErr := true } } := cvRequest_refused hbad
      split at hi
      · next h63 =>
        rw [List.mem_singleton.1 hi, exec_unfence, execUnfence, onLink_heard hdeaf, if_pos h63, hrefused]
      · next h63 =>
        rw [List.mem_singleton.1 hi, exec_vacateAndFence, execVacateAndFence, onLink_heard hdeaf, if_neg h63, hrefused]

end Sys2Proof.Machine
end

section
/-! SUPPORT. The save and the restore of a context (R92, R95). -/
namespace Sys2Proof.Machine

/-! ## CONTEXT_SAVE (R92) -/

/-- What is kept of a map by its keys is found as it was. -/
theorem AMap.find_filter_key {α : Type} (q : Nat → Bool) (m : AMap α) (k : Nat) :
    AMap.find (m.filter (fun e => q e.1)) k = if q k = true then AMap.find m k else none := by
  induction m with
  | nil => simp
  | cons e m ih =>
    obtain ⟨j, v⟩ := e
    by_cases hj : j = k
    · subst hj
      by_cases hq : q j = true
      · simp [hq, AMap.find]
      · simp [hq, ih]
    · by_cases hq : q j = true
      · simp [hq, AMap.find, hj, ih]
      · simp [hq, AMap.find, hj, ih]

/-- With the whole scratchpad in the save set, no byte of it is lost (R92). -/
theorem keepSaved_scratch {t : Team} (h : t.k.save = 0xFF) {o : Nat} (ho : o < t.k.scrt * 2 ^ 14) :
    Tab.get 0 t.keepSaved.scratch o = Tab.get 0 t.scratch o := by
  have hsize : t.k.savedScratch = t.k.scrt * 0x4000 := by rw [Kdesc.savedScratch, if_pos h]
  rw [Tab.get, Team.keepSaved, AMap.find_filter_key (fun n => decide (n < t.k.savedScratch)), if_pos]
  · rfl
  · rw [hsize]; exact decide_eq_true ho

/-- A team's accesses in flight are cancelled, and every other stays (R92). -/
theorem cancelAccesses_pend (s : State) (id : BitVec 32) :
    ∀ p ∈ (s.cancelAccesses id).allPend, p.teamId ≠ id ∧ p ∈ s.allPend := by
  intro p hp
  rcases List.mem_append.1 hp with hpend | hlines
  · obtain ⟨hmem, hne⟩ := List.mem_filter.1 hpend
    exact ⟨by simpa using hne, List.mem_append_left _ hmem⟩
  · obtain ⟨e, he, hfill⟩ := List.mem_flatMap.1 hlines
    obtain ⟨e0, he0, rfl⟩ := List.mem_map.1 he
    obtain ⟨f, hf, hw⟩ := List.mem_flatMap.1 hfill
    obtain ⟨f0, hf0, rfl⟩ := List.mem_map.1 hf
    obtain ⟨hmem, hne⟩ := List.mem_filter.1 hw
    exact ⟨by simpa using hne,
      List.mem_append_right _ (List.mem_flatMap.2 ⟨e0, he0, List.mem_flatMap.2 ⟨f0, hf0, hmem⟩⟩)⟩

/-- The last team of a neighbourhood that leaves its slot changes its launch alone (R84, R95). -/
theorem settleNb_is (s : State) (h nb : Nat) : ∃ l, s.settleNb h nb = { s with sched := { s.sched with launches := l } } := by
  unfold State.settleNb
  split
  · exact ⟨s.sched.launches, rfl⟩
  · split <;> exact ⟨_, rfl⟩

theorem settleVacate_saved (s : State) : s.settleVacate.sched.saved = s.sched.saved := by
  unfold State.settleVacate
  dsimp only
  split
  · split
    · obtain ⟨c, hc⟩ := modCore_foldl_is s.sched.cvCores (fun _ k => { k with fenced := true })
        { s with sched := { s.sched with vacating := [] } }
      rw [hc]
    · rfl
  · split
    · obtain ⟨c, hc⟩ := modCore_foldl_is s.sched.cvCores (fun _ k => { k with fenced := true }) s
      rw [hc]
    · rfl

/-- A team as a save keeps it (R92, R95). -/
def savedTeam (s : State) (core : Nat) (tm : Team) : Team :=
  ({ tm with
    phase := .saved, replays := tm.replays ++ s.accessesOf tm.teamId, savedAt := core,
    inShare := min tm.savedBytes (s.mem.saveShare - s.shareUsed core) } : Team).keepSaved

/-- The state that a save leaves: the team out of its slot, and kept (R92). -/
theorem contextSave_saves {s : State} {core slot : Nat} {tm : Team} (ht : s.team (teamKey core slot) = some tm)
    (hp : tm.phase = .saving) (hstep : s.dbg.stepping = none) (hsaved : s.sched.saved = []) :
    ∃ t, exec (.contextSave core slot) s = .next t ∧ t.mem = (s.cancelAccesses tm.teamId).mem ∧
      t.eng = (s.cancelAccesses tm.teamId).eng ∧ t.teams = AMap.erase (teamKey core slot) s.teams ∧
      t.sched.saved = [(tm.launch, tm.nbh, [savedTeam s core tm])] := by
  have ht' : (s.cancelAccesses tm.teamId).team (teamKey core slot) = some tm := ht
  obtain ⟨c, ev, hunseat⟩ := unseat_is ht'
  have hkeep : ((s.cancelAccesses tm.teamId).unseat (teamKey core slot)).keepTeam (savedTeam s core tm) =
      { (s.cancelAccesses tm.teamId).unseat (teamKey core slot) with
        sched := { ((s.cancelAccesses tm.teamId).unseat (teamKey core slot)).sched with
          saved := [(tm.launch, tm.nbh, [savedTeam s core tm])] } } := by
    have hnone : ((s.cancelAccesses tm.teamId).unseat (teamKey core slot)).sched.saved = [] := by rw [hunseat]; exact hsaved
    simp only [State.keepTeam, hnone, List.any_nil, Bool.false_eq_true, if_false, List.nil_append]
    rfl
  have hexec : exec (.contextSave core slot) s = .next (((((s.cancelAccesses tm.teamId).unseat (teamKey core slot)).keepTeam
      (savedTeam s core tm)).settleNb tm.launch tm.nbh).settleVacate) := by
    simp only [exec_contextSave, execContextSave, ht, hp, hstep, Option.map_none, ne_eq, not_true_eq_false, reduceCtorEq, or_self,
      if_false]
    rfl
  rw [hkeep] at hexec
  generalize hu : ({ (s.cancelAccesses tm.teamId).unseat (teamKey core slot) with
        sched := { ((s.cancelAccesses tm.teamId).unseat (teamKey core slot)).sched with
          saved := [(tm.launch, tm.nbh, [savedTeam s core tm])] } } : State) = u at hexec
  obtain ⟨l, hl⟩ := settleNb_is u tm.launch tm.nbh
  rw [hl] at hexec
  obtain ⟨c', d', hsettle⟩ := settleVacate_is { u with sched := { u.sched with launches := l } }
  have hsavedEq := settleVacate_saved { u with sched := { u.sched with launches := l } }
  refine ⟨_, hexec, ?_, ?_, ?_, ?_⟩
  · rw [hsettle, ← hu, hunseat]
  · rw [hsettle, ← hu, hunseat]
  · rw [hsettle, ← hu, hunseat]; rfl
  · rw [hsavedEq, ← hu]

/-! ## CONTEXT_RESTORE (R95) -/

/-- A restored path holds what it held, but for what its parks wait for, other than the driver's answer (R92, R95, R134). -/
theorem restored_path (p : Path) : p.restored.spc = p.spc ∧ p.restored.mask = p.mask ∧ p.restored.sregs = p.sregs ∧
    p.restored.fmt = p.fmt ∧ p.restored.queue = p.queue ∧ p.restored.park = p.park.filter (fun k => k.hold == .pageFault) := by
  rw [Path.restored, Path.replay]
  cases hpark : p.park with
  | none => exact ⟨rfl, rfl, rfl, rfl, rfl, hpark⟩
  | some k =>
    dsimp only
    split
    · next hne =>
      have hk : (k.hold == Hold.pageFault) = false := by simpa using hne
      exact ⟨rfl, rfl, rfl, rfl, rfl, (Option.filter_some_neg (by simp [hk])).symm⟩
    · next heq =>
      have hk : (k.hold == Hold.pageFault) = true := by simpa using heq
      exact ⟨rfl, rfl, rfl, rfl, rfl, hpark.trans (Option.filter_some_pos (p := fun k : Park => k.hold == .pageFault) hk).symm⟩

/-- Events that return to the queue of a core change neither memory nor a team (R241). -/
theorem refillEvents_keeps (s : State) (key : Nat) :
    (s.refillEvents key).mem = s.mem ∧ (s.refillEvents key).teams = s.teams := by
  unfold State.refillEvents
  split
  · exact ⟨rfl, rfl⟩
  · dsimp only
    split <;> exact ⟨rfl, rfl⟩

/-- No timer of a team fires when none is due (R251). -/
theorem fireTimers_notDue {s : State} {key : Nat} {t : Team} (h : s.team key = some t) (hdue : timersDue s t = 0) :
    s.fireTimers key = s := by
  rw [State.fireTimers, h]
  dsimp only
  split
  · rfl
  · split
    · rfl
    · exact if_pos (.inl hdue)

/-- With nothing to issue again, a restore issues nothing (R95). -/
theorem reissueAll_none {s : State} {key : Nat} {t : Team} (h : s.team key = some t) (hr : t.replays = []) :
    s.reissueAll key = s.modTeam key (fun t => { t with replays := [] }) := by
  simp [State.reissueAll, h, hr]

/-- A path that returns from a restore, no younger than its team's time (R95, R426). -/
def Path.resumed (wT : Nat) (p : Path) : Path := { p.restored with pts := max p.pts wT }

/-- A restored team for which no return is held: its paths resume, and nothing else of it changes (R95). -/
theorem restored_eq {t : Team} (h : t.heldReturns = []) :
    t.restored = { t with
      phase := .running, paths := t.paths.map (fun e => (e.1, e.2.resumed t.wT)),
      handler := t.handler.map (fun h => { h with saved := h.saved.map (fun e => (e.1, e.2.resumed t.wT)) }), heldReturns := [] } := by
  rw [Team.restored, h]
  rfl

/-- A team as the restore of its context leaves it when nothing is held for it and none of its timers is due (R95). -/
def Team.resumed (t : Team) : Team := { t.restored with inShare := 0, dueFirst := false, replays := [] }

/-- What ends a restore leaves memory and every other team as they are, when the team has nothing to issue again and no timer is set
(R95, R241, R251). -/
theorem restoreEnd_keeps {s : State} {key : Nat} {t : Team} (h : s.team key = some t) (hr : t.replays = []) (hc : t.tcmp = 0)
    (hd : t.tdln = 0) :
    (((s.reissueAll key).refillEvents key).fireTimers key).mem = s.mem ∧
      ∀ k, (((s.reissueAll key).refillEvents key).fireTimers key).team k =
        if k = key then some { t with replays := [] } else s.team k := by
  have hteam : ∀ k, (s.modTeam key (fun t => { t with replays := [] })).team k =
      if k = key then some { t with replays := [] } else s.team k := fun k => by
    rw [modTeam_team, h]
    rfl
  rw [reissueAll_none h hr]
  obtain ⟨hmem, hteams⟩ := refillEvents_keeps (s.modTeam key (fun t => { t with replays := [] })) key
  have hrefilled : ∀ k, ((s.modTeam key (fun t => { t with replays := [] })).refillEvents key).team k =
      if k = key then some { t with replays := [] } else s.team k := fun k => by
    rw [State.team, hteams]
    exact hteam k
  rw [fireTimers_notDue ((hrefilled key).trans (if_pos rfl)) (by simp [timersDue, hc, hd])]
  exact ⟨hmem, hrefilled⟩

/-- The restore of a team with nothing held for it and no timer (R95). -/
theorem contextRestore_restores {s : State} {core slot : Nat} {tm : Team} (ht : s.team (teamKey core slot) = some tm)
    (hp : tm.phase = .restoring) (hheld : tm.heldReturns = []) (hr : tm.replays = []) (hc : tm.tcmp = 0) (hd : tm.tdln = 0) :
    ∃ t, exec (.contextRestore core slot) s = .next t ∧ t.mem = s.mem ∧
      ∀ k, t.team k = if k = teamKey core slot then some tm.resumed else s.team k := by
  have hdue : timersDue s tm = 0 := by simp [timersDue, hc, hd]
  have hback : ∀ k, ((s.modTeam (teamKey core slot) Team.restored).modTeam (teamKey core slot)
      (fun t => { t with inShare := 0, dueFirst := false })).team k =
        if k = teamKey core slot then some { tm.restored with inShare := 0, dueFirst := false } else s.team k := fun k => by
    simp only [modTeam_team, ht, if_pos]
    split <;> rfl
  have hrest := restored_eq hheld
  obtain ⟨hmem, hteam⟩ := restoreEnd_keeps ((hback _).trans (if_pos rfl)) (by rw [hrest]; exact hr) (by rw [hrest]; exact hc)
    (by rw [hrest]; exact hd)
  refine ⟨_, ?_, hmem, fun k => (hteam k).trans ?_⟩
  · rw [exec_contextRestore, execContextRestore, ht]
    simp [hp, hdue]
  · rw [hback k]
    split <;> rfl

/-- R92, R95: the save and the restore of a context. -/
theorem saveAndRestore : Says.SaveAndRestore := by
  intro s core slot tm _ ht hrising
  refine ⟨fun hp hstep hsaved => ?_, fun hp => ?_, fun hp hheld hr hc hd => ?_, fun hp hr => ?_⟩
  · obtain ⟨t, hexec, hmem, heng, hteams, hkept⟩ := contextSave_saves ht hp hstep hsaved
    have hteam : ∀ k, t.team k = if k = teamKey core slot then none else s.team k := fun k => by
      rw [State.team, hteams]
      exact AMap.find_erase s.teams hrising (teamKey core slot) k
    have hpend : t.allPend = (s.cancelAccesses tm.teamId).allPend := by rw [State.allPend, hmem, heng]; rfl
    refine ⟨t, _, hexec, ?_, (hteam _).trans (if_pos rfl), fun k hk => (hteam k).trans (if_neg hk), hkept, rfl, rfl, ?_, ?_⟩
    · rw [memoryKept, hmem]; exact ⟨rfl, rfl⟩
    · rw [hpend]; exact cancelAccesses_pend s tm.teamId
    · exact fun hsave o ho => keepSaved_scratch hsave ho
  · rw [exec_contextSave, execContextSave, show s.team (teamKey core slot) = some tm from ht]
    exact congrArg Host.Outcome.next (if_pos (.inl hp))
  · obtain ⟨t, hexec, hmem, hteam⟩ := contextRestore_restores ht hp hheld hr hc hd
    refine ⟨t, _, hexec, ?_, (hteam _).trans (if_pos rfl), fun k hk => (hteam k).trans (if_neg hk), ?_⟩
    · rw [memoryKept, hmem]; exact ⟨rfl, rfl⟩
    · rw [Team.resumed, restored_eq hheld]
      refine ⟨rfl, rfl, rfl, rfl, rfl, rfl, rfl, rfl, rfl, fun j p hj => ⟨p.resumed tm.wT, ?_, restored_path p⟩⟩
      exact (AMap.find_map (Path.resumed tm.wT) tm.paths j).trans (congrArg (Option.map _) hj)
  · rw [exec_contextRestore, execContextRestore, show s.team (teamKey core slot) = some tm from ht]
    exact congrArg Host.Outcome.next ((if_neg (fun h => h.2 (hr h.1))).trans (if_pos hp))

/-- Settles O38, from vacating cores and from the save and the restore of a context. -/
theorem preemptionAndContexts : Obligations.PreemptionAndContexts := ⟨vacatingCores, saveAndRestore⟩

end Sys2Proof.Machine
end

section
/-! SUPPORT. What the writes of the device's units show to the outside, and which bits of the frame table they keep. -/
namespace Sys2Proof.Machine

/-! ## What a write shows to the outside -/

/-- What a state has shown to the outside, another has shown too, before anything else. -/
def showsMore (s t : State) : Prop := ∃ o, t.out = o ++ s.out

theorem showsMore.trans {s t u : State} (h : showsMore s t) (g : showsMore t u) : showsMore s u := by
  obtain ⟨o, ho⟩ := h
  obtain ⟨o', ho'⟩ := g
  exact ⟨o' ++ o, by rw [ho', ho, List.append_assoc]⟩

theorem obtain_shows (s : State) (pa : Nat) : showsMore s (s.obtain pa) := by
  unfold State.obtain
  split
  · exact ⟨[_], rfl⟩
  · exact ⟨[], rfl⟩

theorem writeLine_shows (s : State) (cs : List Nat) (pts pa : Nat) (bs : List Byte) :
    showsMore s (s.writeLine cs pts pa bs).1 :=
  foldl_keeps (showsMore s) _ cs _ ⟨[], rfl⟩ (fun _ _ h => h)

theorem writeHome_shows (s : State) (cs : List Nat) (pts pa : Nat) (bs : List Byte) :
    showsMore s (s.writeHome cs pts pa bs).1 :=
  (obtain_shows s pa).trans (writeLine_shows (s.obtain pa) cs pts pa bs)

/-- A write of one of the device's units withdraws nothing that the outside has been shown (R28). -/
theorem writeUnit_shows (s : State) (pa : Nat) (bs : List Byte) : showsMore s (s.writeUnit pa bs) :=
  foldl_keeps (fun r : State × Nat => showsMore s r.1) _ _ (s, 0) ⟨[], rfl⟩
    (fun r p h => h.trans (writeHome_shows r.1 [] 0 p.1 p.2))

/-! ## Frame table bytes -/

theorem touch_frameByte {m : Memory} (h : m.wf = true) (pa f : Nat) :
    (m.touch pa).frameByte f = if f = frameOf pa then m.frameByte f ||| 4 else m.frameByte f := by
  obtain ⟨-, -, -, hframes⟩ := (Memory.wf_iff m).1 h
  refine (Tab.get_set 0 m.frames (Tab.wf_rising hframes) (frameOf pa) f _).trans ?_
  split
  · next hf => rw [hf]
  · rfl

/-- An access sets FA, and no other bit of a frame's byte changes (R136). -/
theorem touch_frameBit {m : Memory} (h : m.wf = true) (pa f : Nat) {k : Nat} (hk : k ≠ 2) :
    ((m.touch pa).frameByte f).getLsbD k = (m.frameByte f).getLsbD k := by
  have h4 : (4 : Byte).getLsbD k = false := by
    rw [show (4 : Byte) = BitVec.twoPow 8 2 from rfl, BitVec.getLsbD_twoPow]
    simp [Ne.symm hk]
  rw [touch_frameByte h]
  split
  · rw [BitVec.getLsbD_or, h4, Bool.or_false]
  · rfl

theorem writeHome_frameBit {s : State} (h : s.mem.wf = true) (cs : List Nat) (pts pa : Nat) (bs : List Byte) (f : Nat) {k : Nat}
    (hk : k ≠ 2) : ((s.writeHome cs pts pa bs).1.mem.frameByte f).getLsbD k = (s.mem.frameByte f).getLsbD k := by
  obtain ⟨-, -, -, hframes⟩ := obtain_tables s pa
  rw [State.writeHome, writeLine_mem, touch_frameBit (Memory.setStamps_wf (Memory.put_wf (obtain_wf h pa) _ _) _ _) _ _ hk]
  show (Tab.get 0 (s.obtain pa).mem.frames f).getLsbD k = _
  rw [hframes]
  rfl

theorem writeLines_frameBit {s : State} (h : s.mem.wf = true) (cs : List Nat) (pts pa : Nat) (bs : List Byte) (f : Nat) {k : Nat}
    (hk : k ≠ 2) : ((s.writeLines cs pts pa bs).1.mem.frameByte f).getLsbD k = (s.mem.frameByte f).getLsbD k := by
  unfold State.writeLines
  refine (foldl_keeps (fun r : State × Nat => r.1.mem.wf = true ∧ (r.1.mem.frameByte f).getLsbD k = (s.mem.frameByte f).getLsbD k) _ _
    (s, 0) ⟨h, rfl⟩ ?_).2
  rintro r p ⟨hwf, hbit⟩
  exact ⟨writeHome_wf hwf _ _ _ _, (writeHome_frameBit hwf _ _ _ _ f hk).trans hbit⟩

/-- A write of one of the device's units changes no bit of a frame's byte but FA (R136). -/
theorem writeUnit_frameBit {s : State} (h : s.mem.wf = true) (pa : Nat) (bs : List Byte) (f : Nat) {k : Nat} (hk : k ≠ 2) :
    ((s.writeUnit pa bs).mem.frameByte f).getLsbD k = (s.mem.frameByte f).getLsbD k := by
  have hframes : (s.writeUnit pa bs).mem.frames = (s.writeLines [] 0 pa bs).1.mem.frames := rfl
  rw [Memory.frameByte, hframes]
  exact writeLines_frameBit h [] 0 pa bs f hk

/-! ## Rings -/

/-- An entry of a ring that no lease covers is written at once (R46). -/
theorem ringPut_unleased {s : State} {base log size head : Nat} {bs : List Byte}
    (h : s.rangeLeased (base + head % 2 ^ log * size) bs.length = false) :
    s.ringPut base log size head bs = s.writeUnit (base + head % 2 ^ log * size) bs :=
  if_neg (by rw [h]; exact Bool.false_ne_true)

end Sys2Proof.Machine
end

section
/-! SUPPORT. Shoot-downs: what their start sweeps, what begins and ends them (R127 to R130). -/
namespace Sys2Proof.Machine

/-! ## Walk generations (R129) -/

theorem nodup_eraseDups {α : Type} [BEq α] [LawfulBEq α] (l : List α) : l.eraseDups.Nodup := by
  match l with
  | [] => exact List.nodup_nil
  | a :: l =>
    rw [List.eraseDups_cons, List.nodup_cons, List.mem_eraseDups]
    exact ⟨by simp, nodup_eraseDups _⟩
  termination_by l.length
  decreasing_by exact Nat.lt_succ_of_le (List.length_filter_le _ _)

/-- Counters that are raised one after the other, each once, are one higher. -/
theorem get_foldl_raise {m : Tab (BitVec 32)} (h : Tab.wf 0 m = true) {l : List Nat} (hl : l.Nodup) (j : Nat) :
    Tab.get 0 (l.foldl (fun m i => Tab.set 0 i (Tab.get 0 m i + 1) m) m) j = Tab.get 0 m j + if j ∈ l then 1 else 0 := by
  induction l generalizing m with
  | nil => simp
  | cons i l ih =>
    obtain ⟨hi, hl⟩ := List.nodup_cons.1 hl
    rw [List.foldl_cons, ih (Tab.wf_set 0 m _ _ h) hl, Tab.get_set 0 m (Tab.wf_rising h)]
    by_cases hj : j = i
    · simp [hj, hi]
    · simp [hj]

theorem genIndex_lt (asid vpn : Nat) : genIndex asid vpn < 1024 := Nat.mod_lt _ (by decide)

theorem genRange_lt {asid first count i : Nat} (h : i ∈ genRange asid first count) : i < 1024 := by
  unfold genRange at h
  split at h
  · exact List.mem_range.1 h
  · obtain ⟨k, -, rfl⟩ := List.mem_map.1 h
    exact genIndex_lt _ _

/-- The counter of every page of a range is one of those that the range touches. -/
theorem genIndex_mem_genRange (asid : Nat) {first count page : Nat} (h : count = 0 ∨ first ≤ page ∧ page < first + count) :
    genIndex asid page ∈ genRange asid first count := by
  unfold genRange
  split
  · exact List.mem_range.2 (genIndex_lt _ _)
  · next h0 =>
    obtain ⟨hlo, hhi⟩ := h.resolve_left h0
    refine List.mem_map.2 ⟨page / 2 ^ 13 - first / 2 ^ 13, List.mem_range.2 (by omega), ?_⟩
    have hpage : first / 2 ^ 13 + (page / 2 ^ 13 - first / 2 ^ 13) = page / 2 ^ 13 := by omega
    rw [hpage, genIndex, genIndex, Nat.mul_div_cancel _ (by decide)]

/-- The counters of a range on both dies, each listed once. -/
theorem nodup_genRange (asid first count : Nat) :
    ((genRange asid first count).eraseDups.flatMap (fun i => [i, 1024 + i])).Nodup := by
  have hlt : ∀ i ∈ (genRange asid first count).eraseDups, i < 1024 := fun i hi => genRange_lt (List.mem_eraseDups.1 hi)
  refine List.nodup_flatMap.2 ⟨fun i _ => by simp, (nodup_eraseDups _).imp_of_mem fun {a b} ha hb hab => ?_⟩
  have := hlt a ha
  have := hlt b hb
  simp [Function.onFun]
  omega

/-! ## What a shoot-down sweeps (R128) -/

theorem sweep_kept (s : State) (asid first count : Nat) : memoryKept s (s.sweep asid first count) := ⟨rfl, rfl⟩

/-- The generation of each page of the range rises on both dies. -/
theorem sweep_walkGen {s : State} (h : Tab.wf 0 s.xl.walkGen = true) (asid : Nat) {first count page : Nat}
    (hpage : count = 0 ∨ first ≤ page ∧ page < first + count) {die : Nat} (hdie : die < 2) :
    Tab.get 0 (s.sweep asid first count).xl.walkGen (genIndex asid page + 1024 * die) =
      Tab.get 0 s.xl.walkGen (genIndex asid page + 1024 * die) + 1 := by
  refine (get_foldl_raise h (nodup_genRange asid first count) _).trans ?_
  rw [if_pos (List.mem_flatMap.2 ⟨_, List.mem_eraseDups.2 (genIndex_mem_genRange asid hpage), ?_⟩)]
  rcases (by omega : die = 0 ∨ die = 1) with rfl | rfl
  · simp
  · simp [Nat.add_comm]

/-- A core's state after a sweep. -/
def Core.swept (c : Core) (asid first count : Nat) : Core :=
  { c with tlb := c.tlb.filter (fun e => !e.inRange asid first count),
           lpr := c.lpr.filter (fun l => !l.2.inRange asid first count),
           l1 := c.l1.filter (fun l => !l.inRange asid first count) }

theorem sweep_core (s : State) (asid first count c : Nat) : (s.sweep asid first count).core c = (s.core c).swept asid first count := by
  have hcores : (s.sweep asid first count).cores = s.cores.map (fun e => (e.1, e.2.swept asid first count)) := rfl
  rw [State.core, hcores, AMap.find_map (fun k : Core => k.swept asid first count), State.core]
  cases AMap.find s.cores c <;> rfl

theorem TlbEntry.inRange_iff (e : TlbEntry) (asid first count : Nat) : e.inRange asid first count = true ↔
    (e.asid = asid ∨ leafG e.leaf = true) ∧ (count = 0 ∨ e.vpn < first + count ∧ first < e.vpn + pagesOf e.ps) := by
  simp [TlbEntry.inRange]

theorem L1Line.inRange_iff (l : L1Line) (asid first count : Nat) : l.inRange asid first count = true ↔
    l.asid = asid ∧ l.space ≠ 5 ∧ (count = 0 ∨ first ≤ l.vline / 1024 ∧ l.vline / 1024 < first + count) := by
  simp [L1Line.inRange, and_assoc]

theorem mem_swept_tlb {c : Core} {asid first count : Nat} {e : TlbEntry} :
    e ∈ (c.swept asid first count).tlb ↔ e ∈ c.tlb ∧ ¬ e.inRange asid first count = true := by
  simp [Core.swept]

theorem mem_swept_l1 {c : Core} {asid first count : Nat} {l : L1Line} :
    l ∈ (c.swept asid first count).l1 ↔ l ∈ c.l1 ∧ ¬ l.inRange asid first count = true := by
  simp [Core.swept]

/-! ## The start of a shoot-down (R127, R128) -/

/-- The state once a shoot-down has swept its pages and is listed. -/
def State.shotDown (s : State) (asid first count : Nat) (h : Shoot) : State :=
  { s.sweep asid first count with
    xl := { (s.sweep asid first count).xl with nextShoot := s.xl.nextShoot + 1, shoots := s.xl.shoots ++ [h] } }

/-- A shoot-down that begins in a state, of these pages. -/
def begunShoot (s : State) (asid first count : Nat) (who : Option (Nat × Nat)) (h : Shoot) : Prop :=
  h.id = s.xl.nextShoot ∧ h.asid = asid ∧ h.first = first ∧ h.count = count ∧ h.issuer = who ∧ h.begun = true

/-- The driver's shoot-down is listed, with what it waits for. -/
theorem beginShoot_driver (s : State) (asid first count : Nat) :
    ∃ h, begunShoot s asid first count none h ∧ s.beginShoot asid first count none = s.shotDown asid first count h :=
  ⟨{ id := s.xl.nextShoot, asid := asid, first := first, count := count, issuer := none, engines := _, begun := true, peers := _ },
    ⟨rfl, rfl, rfl, rfl, rfl, rfl⟩, rfl⟩

/-- A path's shoot-down is listed, with what it waits for, and the path holds it. -/
theorem beginShoot_path (s : State) (asid first count k pi : Nat) : ∃ h, begunShoot s asid first count (some (k, pi)) h ∧
    s.beginShoot asid first count (some (k, pi)) =
      (s.shotDown asid first count h).modPath k pi (fun p => { p with shoots := p.shoots ++ [s.xl.nextShoot] }) :=
  ⟨{ id := s.xl.nextShoot, asid := asid, first := first, count := count, issuer := some (k, pi), engines := _, begun := true,
     peers := _ }, ⟨rfl, rfl, rfl, rfl, rfl, rfl⟩, rfl⟩

theorem shotDown_core (s : State) (asid first count : Nat) (h : Shoot) (c : Nat) :
    (s.shotDown asid first count h).core c = (s.core c).swept asid first count := sweep_core s asid first count c

theorem shotDown_listed (s : State) (asid first count : Nat) (h : Shoot) : h ∈ (s.shotDown asid first count h).xl.shoots :=
  List.mem_append_right _ (List.mem_singleton_self h)

/-- No entry of the range stays in a TLB of a core or a die (R127). -/
theorem shotDown_tlbs (s : State) (asid first count : Nat) (h : Shoot) : let t := s.shotDown asid first count h
    (∀ c, ∀ e ∈ (t.core c).tlb, e.inRange asid first count = false) ∧
      (∀ e ∈ t.xl.dieTlb0, e.inRange asid first count = false) ∧ ∀ e ∈ t.xl.dieTlb1, e.inRange asid first count = false := by
  have hkept : ∀ (l : List TlbEntry), ∀ e ∈ l.filter (fun e => !e.inRange asid first count), e.inRange asid first count = false :=
    fun l e he => by simpa using (List.mem_filter.1 he).2
  refine ⟨fun c => ?_, hkept _, hkept _⟩
  rw [shotDown_core]
  exact hkept _

@[simp] theorem modPath_core (s : State) (k pi : Nat) (f : Path → Path) (c : Nat) : (s.modPath k pi f).core c = s.core c := rfl

@[simp] theorem onPath_core (s : State) (w : Who) (f : Path → Path) (c : Nat) : (s.onPath w f).core c = s.core c := rfl

theorem onPath_path {s : State} {w : Who} {p : Path} (h : s.path w.key w.pi = some p) (f : Path → Path) :
    (s.onPath w f).path w.key w.pi = some (f p) := by rw [State.onPath, modPath_path, h, Option.map_some]

/-- A range that TSHOOT accepts, of an address in a space that it may name (R313). -/
def shootable (a : Word64) (n : Nat) : Prop :=
  n ≤ 65536 ∧ (n = 0 ∨ a.toNat / 2 ^ 16 % 2 ^ 36 + n ≤ 2 ^ 36) ∧ a.toNat / 2 ^ 60 ∈ [0, 1, 2, 4] ∧ a.toNat / 2 ^ 52 % 2 ^ 8 = 0

/-- TSHOOT of a range that it accepts begins the shoot-down of a path that has ended its clauses and holds fewer than four. -/
theorem tshoot_begins {s : State} {w : Who} {sa sb : Reg6} (h : scalarReady s w [sa, sb])
    (hrange : shootable (w.path.s sa) (w.path.s sb).toNat) (hended : w.path.ended = true) (hroom : w.path.shoots.length < 4) :
    exec (.tshoot 0 sa sb) s = .next (((s.seeTables w).beginShoot w.team.asid ((w.path.s sa).toNat / 2 ^ 16 % 2 ^ 36)
      (w.path.s sb).toNat (some (w.key, w.pi))).onPath w Path.next) := by
  obtain ⟨hn, hfirst, hspace, hzero⟩ := hrange
  have hspace' : spaceOf (w.path.s sa) = 0 ∨ spaceOf (w.path.s sa) = 1 ∨ spaceOf (w.path.s sa) = 2 ∨ spaceOf (w.path.s sa) = 4 := by
    have hlt := (w.path.s sa).isLt
    rw [spaceOf, Laws.field_toNat, Nat.mod_eq_of_lt (by omega)]
    simpa using hspace
  have hfield : field (w.path.s sa) 52 8 = 0 := BitVec.eq_of_toNat_eq ((Laws.field_toNat _ _ _).trans hzero)
  have h1 : ¬ (65536 < (w.path.s sb).toNat ∨ ((w.path.s sb).toNat ≠ 0 ∧
      2 ^ 36 < (field (w.path.s sa) 16 36 : BitVec 36).toNat + (w.path.s sb).toNat)) := by
    rw [Laws.field_toNat]; omega
  have h2 : ¬ ((spaceOf (w.path.s sa) ≠ 0 ∧ spaceOf (w.path.s sa) ≠ 1 ∧ spaceOf (w.path.s sa) ≠ 2 ∧ spaceOf (w.path.s sa) ≠ 4) ∨
      field (w.path.s sa) 52 8 ≠ 0) := by
    rintro (hs | hf)
    · omega
    · exact hf hfield
  rw [exec_tshoot, execTshoot]
  refine (scalarOp_ready h _).trans ?_
  rw [if_neg h1, if_neg h2, hended, if_neg (by decide), if_neg (by omega), Laws.field_toNat]

/-- R127, R128, R313, R314: TSHOOT and TSYNC. -/
theorem shootDownInstructions : Says.ShootDowns := by
  refine ⟨fun s w sa sb h => ?_, fun s w h => ?_⟩
  · intro a n first hn hfirst hspace hzero hended hroom
    obtain ⟨x, ⟨hid, hasid, -, -, hissuer, -⟩, hbegin⟩ := beginShoot_path (s.seeTables w) w.team.asid first n w.key w.pi
    obtain ⟨hcores, hdie0, hdie1⟩ := shotDown_tlbs (s.seeTables w) w.team.asid first n x
    have hpath : ((s.seeTables w).shotDown w.team.asid first n x).path w.key w.pi = some { w.path with tableOld := [] } :=
      onPath_path (issuer_path h.1) _
    have hexec := tshoot_begins h ⟨hn, hfirst, hspace, hzero⟩ hended hroom
    refine ⟨_, _, hexec, ?_, ?_, rfl, ?_⟩
    · rw [hbegin]; exact sweep_kept s w.team.asid first n
    · rw [hbegin]; exact onPath_path (onPath_path (w := w) hpath _) Path.next
    · rw [hbegin]
      simp only [onPath_core, onPath_xl, modPath_core, modPath_xl]
      exact ⟨hcores, hdie0, hdie1, x, shotDown_listed _ _ _ _ x, hid, hissuer, hasid⟩
  · have hready : ∀ f, scalarOp s false [] f = .next (f w) := fun f => by simp [scalarOp, withIssuer_eq h, Path.anyMarked]
    refine ⟨fun hnone => ⟨_, ?_, pathBecomes_onPath h Path.next⟩, fun hsome =>
      ⟨_, ?_, pathBecomes_onPath h fun p => { p with wait := some .tsync }⟩⟩
    · refine (hready _).trans ?_
      rw [hnone]; rfl
    · refine (hready _).trans ?_
      rw [if_neg (by simpa using hsome)]; rfl

/-! ## The driver's shoot-downs (R130) -/

/-- What a write of TSREQ is refused for: a reserved bit, a count out of range, or eight requests before it (R130, R138). -/
theorem tsreqWrite_refused {s : State} (hd : s.dev.deaf = false) {v : BitVec 64}
    (h : 65536 < v.toNat ∨ s.xl.tsva.toNat % 2 ^ 16 ≠ 0 ∨ 8 ≤ s.xl.driverShoots.length) :
    exec (.tsreqWrite v) s = .next { s with xl := { s.xl with tsErr := true } } := by
  rw [exec_tsreqWrite, execTsreqWrite, onLink_heard hd]
  refine congrArg Host.Outcome.next (if_pos (.inr ?_))
  rwa [bits_low]

/-- A write of TSREQ begins a shoot-down when none of the driver's runs. -/
theorem tsreqWrite_begins {s : State} (hd : s.dev.deaf = false) {v : BitVec 64}
    (h : ¬ (65536 < v.toNat ∨ s.xl.tsva.toNat % 2 ^ 16 ≠ 0 ∨ 8 ≤ s.xl.driverShoots.length)) (hnone : s.xl.driverShoots = []) :
    exec (.tsreqWrite v) s =
      .next (s.beginShoot (s.xl.tsva.toNat / 2 ^ 52) (s.xl.tsva.toNat / 2 ^ 16 % 2 ^ 36) v.toNat none) := by
  have hva := s.xl.tsva.isLt
  have hasid : bits 63 52 s.xl.tsva.toNat = s.xl.tsva.toNat / 2 ^ 52 := Nat.mod_eq_of_lt (by omega)
  have hhigh : bits 63 17 v.toNat = 0 := by
    rw [bits, Nat.div_eq_of_lt (by omega), Nat.zero_mod]
  have hlow : bits 15 0 s.xl.tsva.toNat = s.xl.tsva.toNat % 2 ^ 16 := bits_low _ _
  rw [exec_tsreqWrite, execTsreqWrite, onLink_heard hd]
  refine congrArg Host.Outcome.next ((if_neg ?_).trans ?_)
  · rw [hhigh, hlow]; omega
  · rw [State.queueShoot, hnone, hasid]; rfl

theorem driverShoots_one {x : Xlate} {h : Shoot} (hs : x.shoots = [h]) (hm : x.mig = none) :
    x.driverShoots = if h.issuer = none then [h] else [] := by
  rw [Xlate.driverShoots, hs, hm]
  cases hi : h.issuer <;> simp [hi]

/-- SHOOTDOWN_COMPLETE waits for the engines, the accesses in flight and the held writes that its shoot-down has noted (R128). -/
theorem shootdownComplete_waits {s : State} {h : Shoot} (hs : s.xl.shoots = [h])
    (hwait : (∃ e ∈ h.engines, s.engineBusy e = true) ∨ ∃ x ∈ h.peers, ∃ w ∈ s.fab.held, w.peer = some x) :
    exec (.shootdownComplete h.id) s = .next s := by
  have hbusy : (!h.begun || h.engines.any s.engineBusy || h.peers.any s.holdsPeer) = true := by
    rcases hwait with ⟨e, he, hb⟩ | ⟨x, hx, w, hw, hp⟩
    · simp [List.any_eq_true.2 ⟨e, he, hb⟩]
    · have hholds : s.holdsPeer x = true := List.any_eq_true.2 ⟨w, hw, by simp [hp]⟩
      simp [List.any_eq_true.2 ⟨x, hx, hholds⟩]
  rw [exec_shootdownComplete, execShootdownComplete, hs]
  simp [hbusy]

/-- What SHOOTDOWN_COMPLETE ends, by the one that asked for it (R128, R130). -/
theorem shootdownComplete_ends {s : State} {h : Shoot} (hs : s.xl.shoots = [h]) (hm : s.xl.mig = none) (hb : h.begun = true)
    (he : ∀ e ∈ h.engines, s.engineBusy e = false) (hp : ∀ x ∈ h.peers, ∀ w ∈ s.fab.held, w.peer ≠ some x) :
    exec (.shootdownComplete h.id) s = .next (
      if h.issuer = none then { s with xl := { s.xl with shoots := [], tsDone := s.xl.tsDone + 1 } }
      else { s with xl := { s.xl with shoots := [] } }.mapPaths (Path.dropShoot h.id)) := by
  have hholds : ∀ x ∈ h.peers, s.holdsPeer x = false := fun x hx => List.any_eq_false.2 fun w hw => by simpa using hp x hx w hw
  have hidle : (!h.begun || h.engines.any s.engineBusy || h.peers.any s.holdsPeer) = false := by
    simp only [hb, Bool.not_true, Bool.false_or, Bool.or_eq_false_iff]
    exact ⟨List.any_eq_false.2 fun e h => by simp [he e h], List.any_eq_false.2 fun x h => by simp [hholds x h]⟩
  have hfind : s.xl.shoots.find? (fun x => x.id == h.id) = some h := by simp [hs]
  have hleft : s.xl.shoots.filter (fun x => x.id != h.id) = [] := by simp [hs]
  rw [exec_shootdownComplete, execShootdownComplete, hfind]
  refine congrArg Host.Outcome.next ((if_neg (by rw [hidle]; exact Bool.false_ne_true)).trans ?_)
  rw [driverShoots_one hs hm, hleft]
  split
  · simp [State.nextDriverShoot, Xlate.driverShoots]
  · simp

theorem mapPaths_path {s : State} {k pi : Nat} {p : Path} (h : s.path k pi = some p) (f : Path → Path) :
    (s.mapPaths f).path k pi = some (f p) := by
  obtain ⟨tm, ht, hp⟩ := Option.bind_eq_some_iff.1 h
  have hteam : (s.mapPaths f).team k = some (tm.mapPaths f) := by
    rw [State.team, State.mapPaths, AMap.find_map (Team.mapPaths f), show AMap.find s.teams k = some tm from ht]; rfl
  rw [State.path, hteam]
  exact (AMap.find_map f tm.paths pi).trans (by rw [hp]; rfl)

/-- R127 to R130, R138: TSREQ and SHOOTDOWN_COMPLETE. -/
theorem shootdownEvents : Says.ShootdownEvents := by
  refine ⟨fun s v hd => ⟨tsreqWrite_refused hd, fun hgood hnone hwf => ?_⟩,
    fun s h hs hm hb => ⟨shootdownComplete_waits hs, fun he hp => ?_⟩⟩
  · obtain ⟨h, ⟨-, hasid, hfirst, hcount, hissuer, hbegun⟩, hbegin⟩ := beginShoot_driver s (s.xl.tsva.toNat / 2 ^ 52)
      (s.xl.tsva.toNat / 2 ^ 16 % 2 ^ 36) v.toNat
    have hexec := tsreqWrite_begins hd hgood hnone
    rw [hbegin] at hexec
    refine ⟨_, h, hexec, sweep_kept _ _ _ _, rfl, rfl, rfl, hbegun, hissuer, hasid, hfirst, hcount,
      fun page hpage die hdie => sweep_walkGen hwf _ hpage hdie, fun c e => ?_, fun c l => ?_⟩
    · rw [shotDown_core, mem_swept_tlb, TlbEntry.inRange_iff]
    · rw [shotDown_core, mem_swept_l1, L1Line.inRange_iff]
  · have hexec := shootdownComplete_ends hs hm hb he hp
    refine ⟨fun hnone => ?_, fun hsome => ?_⟩
    · rw [hexec, if_pos hnone]
    · rw [if_neg hsome] at hexec
      exact ⟨_, hexec, ⟨rfl, rfl⟩, rfl, rfl, fun k pi p hpath =>
        mapPaths_path (s := { s with xl := { s.xl with shoots := [] } }) hpath (Path.dropShoot h.id)⟩

/-- Settles O10, from TSHOOT and TSYNC, and from what begins and ends the driver's shoot-downs. -/
theorem shootDowns : Obligations.ShootDowns := ⟨shootDownInstructions, shootdownEvents⟩

end Sys2Proof.Machine
end

section
/-! SUPPORT. Fault records and their answers (R134, R135, R138). -/
namespace Sys2Proof.Machine

/-! ## Leases and the paths that wait behind them (R46) -/

/-- Whether a range is leased depends on the fabric, and on which waiting writes still stand. -/
theorem rangeLeased_congr {s t : State} (hfab : t.fab = s.fab) (hturn : ∀ h, t.turnStands h = s.turnStands h) (pa n : Nat) :
    t.rangeLeased pa n = s.rangeLeased pa n := by
  simp only [State.rangeLeased, State.lineHeld, State.leaseBlocked, hfab, hturn]

/-- A change of a path that leaves its clause and its wait leaves the writes that stand for it. -/
theorem turnStands_modPath {s : State} {key : Nat} {tm : Team} (hteams : s.teams = [(key, tm)]) (pi : Nat) {f : Path → Path}
    (hf : ∀ p : Path, (f p).run = p.run ∧ (f p).wait = p.wait) (h : HeldWrite) :
    (s.modPath key pi f).turnStands h = s.turnStands h := by
  have hmod : (s.modPath key pi f).teams = [(key, tm.modPath pi f)] := by rw [State.modPath, modTeam_lone hteams]
  have hany : ∀ (q : Path → Bool), (∀ p, q (f p) = q p) →
      ∀ j, (AMap.find (tm.modPath pi f).paths j).any q = (AMap.find tm.paths j).any q := by
    intro q hq j
    rw [Team.modPath, AMap.find_modify]
    split
    · next hj =>
      rw [hj]
      cases AMap.find tm.paths pi with
      | none => rfl
      | some p => exact hq p
    · rfl
  unfold State.turnStands
  split
  · rfl
  · next id j lane _ =>
    have hwaits := hany (fun p => if lane then p.run.isSome else p.wait == some .lease) (fun p => by simp only [hf p]) j
    simp only [hmod, hteams, List.any_cons, List.any_nil, hwaits]
    rfl

/-! ## The only fault that waits -/

/-- The state once the fault of a path has the next identifier. -/
def State.numbered (s : State) (key pi : Nat) : State :=
  s.modPath key pi (Path.setFault fun i => { i with fid := some s.xl.nextFid })

/-- The state once the record of a fault is in the ring (R135). -/
def State.recorded (s : State) (fid : BitVec 32) : State :=
  ({ s with xl := { s.xl with pfhead := s.xl.pfhead + 1, nextFid := fid + 1 } }).emit (.deviceEvent (bits 21 16 s.xl.pfctl.toNat))

section LoneFault

variable {s : State} {key pi : Nat} {tm : Team} {p : Path} {k : Park} {i : FaultInfo} (h : loneFault s key pi tm p k i)
include h

theorem path_loneFault : s.path key pi = some p := by
  obtain ⟨hteams, hpaths, -⟩ := h
  simp [State.path, team_lone hteams, hpaths, AMap.find]

theorem faults_loneFault : s.faults = [(.path tm.teamId pi, i)] := by
  obtain ⟨hteams, hpaths, hhandler, hsaved, hpark, hhold, hinfo, hcopies, hcolls⟩ := h
  have hfault : p.fault = some i := by simp [Path.fault, hpark, Option.filter, hhold, hinfo]
  simp [State.faults, State.savedTeams, faultsOf, hteams, hpaths, hhandler, hsaved, hcopies, hcolls, hfault]

/-- A change of the path at which the fault waits. -/
theorem modById_loneFault (f : Path → Path) : s.modById tm.teamId (fun t => t.modPath pi f) = s.modPath key pi f := by
  obtain ⟨hteams, -⟩ := h
  rw [State.modById, whereIs_lone hteams rfl]
  rfl

theorem faultOwner_loneFault : s.faultOwner (.path tm.teamId pi) = (tm.asid, pi, tm.taskId) := by
  obtain ⟨hteams, -⟩ := h
  simp [State.faultOwner, whereIs_lone hteams rfl, Whereabouts.team]

/-- The change of the path leaves every other team, and everything but the teams. -/
theorem modPath_loneFault (f : Path → Path) : onlyTeam s (s.modPath key pi f) key ∧ (s.modPath key pi f).path key pi = some (f p) :=
  ⟨⟨rfl, fun j hj => (modTeam_team s key j _).trans (if_neg hj)⟩, by rw [modPath_path, path_loneFault h, Option.map_some]⟩

/-! ## Fault records (R134, R135) -/

theorem faultRecordPost_numbered (hfid : i.fid ≠ none) : exec .faultRecordPost s = .next s := by
  rw [exec_faultRecordPost, execFaultRecordPost, faults_loneFault h]
  simp [hfid]

/-- A fault waits for its record while reports are off or the ring is full. -/
theorem faultRecordPost_waits (hfid : i.fid = none) (hwait : s.xl.pfctl.getLsbD 0 = false ∨
    2 ^ (s.xl.pfctl.toNat / 2 ^ 8 % 2 ^ 5) ≤ (s.xl.pfhead - s.xl.pftail).toNat) : exec .faultRecordPost s = .next s := by
  have hfind : s.faults.find? (fun e => e.2.fid.isNone) = some (.path tm.teamId pi, i) := by simp [faults_loneFault h, hfid]
  rw [exec_faultRecordPost, execFaultRecordPost, hfind]
  refine congrArg Host.Outcome.next (if_pos ?_)
  rcases hwait with hen | hsize
  · rw [hen]; rfl
  · rw [Bool.or_eq_true]; exact .inr (decide_eq_true hsize)

/-- A fault without a record takes the next identifier, and its record enters a ring with space (R134, R135). -/
theorem faultRecordPost_writes (hfid : i.fid = none) (hen : s.xl.pfctl.getLsbD 0 = true)
    (hsize : (s.xl.pfhead - s.xl.pftail).toNat < 2 ^ (s.xl.pfctl.toNat / 2 ^ 8 % 2 ^ 5)) {pa : Nat}
    (hpa : s.xl.pfbase.toNat + s.xl.pfhead.toNat % 2 ^ (s.xl.pfctl.toNat / 2 ^ 8 % 2 ^ 5) * 32 = pa)
    (hfree : s.rangeLeased pa 32 = false) :
    exec .faultRecordPost s =
      .next (((s.numbered key pi).writeUnit pa (faultRecord i s.xl.nextFid tm.asid pi tm.taskId)).recorded s.xl.nextFid) := by
  obtain ⟨hteams, -⟩ := id h
  have hfind : s.faults.find? (fun e => e.2.fid.isNone) = some (.path tm.teamId pi, i) := by simp [faults_loneFault h, hfid]
  have hroom : ¬ (!s.xl.pfctl.getLsbD 0 || decide (2 ^ bits 12 8 s.xl.pfctl.toNat ≤ (s.xl.pfhead - s.xl.pftail).toNat)) = true := by
    rw [hen, Bool.or_eq_true, decide_eq_true_eq]
    exact fun hc => hc.elim Bool.false_ne_true (Nat.not_le.2 hsize)
  have hnumber : s.numberFault (.path tm.teamId pi) s.xl.nextFid = s.numbered key pi := modById_loneFault h _
  have hlease : (s.numbered key pi).rangeLeased pa 32 = false :=
    (rangeLeased_congr (s := s) (t := s.numbered key pi) rfl (turnStands_modPath hteams pi fun _ => ⟨rfl, rfl⟩) pa 32).trans hfree
  have hput : (s.numberFault (.path tm.teamId pi) s.xl.nextFid).ringPut s.xl.pfbase.toNat (bits 12 8 s.xl.pfctl.toNat) 32
      s.xl.pfhead.toNat (faultRecord i s.xl.nextFid tm.asid pi tm.taskId) =
      (s.numbered key pi).writeUnit pa (faultRecord i s.xl.nextFid tm.asid pi tm.taskId) := by
    subst hpa
    rw [hnumber]
    exact ringPut_unleased hlease
  rw [exec_faultRecordPost, execFaultRecordPost, hfind, ← hput]
  refine congrArg Host.Outcome.next ((if_neg hroom).trans ?_)
  rw [faultOwner_loneFault h]
  rfl

/-- The record that is written, and what else its post changes. -/
theorem faultRecordPost_posts (hfid : i.fid = none) (hen : s.xl.pfctl.getLsbD 0 = true)
    (hsize : (s.xl.pfhead - s.xl.pftail).toNat < 2 ^ (s.xl.pfctl.toNat / 2 ^ 8 % 2 ^ 5)) {pa : Nat}
    (hpa : s.xl.pfbase.toNat + s.xl.pfhead.toNat % 2 ^ (s.xl.pfctl.toNat / 2 ^ 8 % 2 ^ 5) * 32 = pa)
    (hfree : s.rangeLeased pa 32 = false) (hwf : s.mem.wf = true) :
    ∃ t, exec .faultRecordPost s = .next t ∧ bytesStored s t pa (faultRecord i s.xl.nextFid tm.asid pi tm.taskId) ∧
      t.xl = { s.xl with pfhead := s.xl.pfhead + 1, nextFid := s.xl.nextFid + 1 } ∧
      (∃ o, t.out = .deviceEvent (s.xl.pfctl.toNat / 2 ^ 16 % 2 ^ 6) :: (o ++ s.out)) ∧
      t.path key pi = some { p with park := some { k with info := some { i with fid := some s.xl.nextFid } } } := by
  have hexec := faultRecordPost_writes h hfid hen hsize hpa hfree
  obtain ⟨m, c, o, his, -, -, hbytes⟩ := writeUnit_stores (s := s.numbered key pi) hwf pa
    (faultRecord i s.xl.nextFid tm.asid pi tm.taskId)
  obtain ⟨o', ho'⟩ := writeUnit_shows (s.numbered key pi) pa (faultRecord i s.xl.nextFid tm.asid pi tm.taskId)
  rw [his] at hexec hbytes ho'
  refine ⟨_, hexec, hbytes, rfl, ⟨o', congrArg (List.cons _) ho'⟩, (modPath_loneFault h _).2.trans ?_⟩
  obtain ⟨-, -, -, -, hpark, -, hinfo, -⟩ := h
  simp [Path.setFault, hpark, hinfo]

/-! ## The driver's answers (R134, R138) -/

theorem findFault_loneFault (fid : BitVec 32) :
    s.findFault fid = if i.fid = some fid then some (.path tm.teamId pi, i) else none := by
  rw [State.findFault, faults_loneFault h]
  split
  · next hf => simp [hf]
  · next hf => simp [hf]

theorem pfReplay_frees (hd : s.dev.deaf = false) {fid : BitVec 32} (hfid : i.fid = some fid) :
    exec (.pfReplay fid) s = .next (s.modPath key pi Path.unpark) := by
  rw [exec_pfReplay, execPfReplay, onLink_heard hd, findFault_loneFault h, if_pos hfid]
  exact congrArg Host.Outcome.next (modById_loneFault h Path.unpark)

theorem pfFail_traps (hd : s.dev.deaf = false) {fid : BitVec 32} (hfid : i.fid = some fid) :
    exec (.pfFail fid) s = .next (s.trapError key pi .pageFault i.lane i.va) := by
  obtain ⟨hteams, -⟩ := id h
  have hsame : s.modTeam key (fun t => t) = s := by rw [modTeam_lone hteams, ← hteams]
  have hfail : s.failPath tm.teamId pi i false = (s.modTeam key (fun t => t)).trapError key pi .pageFault i.lane i.va := by
    rw [State.failPath, whereIs_lone hteams rfl]
    rfl
  rw [exec_pfFail, execPfFail, onLink_heard hd, findFault_loneFault h, if_pos hfid]
  exact congrArg Host.Outcome.next (hfail.trans (by rw [hsame]))

/-- An identifier that no fault has is ignored. -/
theorem answers_unknown (hd : s.dev.deaf = false) {fid : BitVec 32} (hfid : i.fid ≠ some fid) :
    exec (.pfReplay fid) s = .next s ∧ exec (.pfFail fid) s = .next s := by
  rw [exec_pfReplay, execPfReplay, exec_pfFail, execPfFail, onLink_heard hd, onLink_heard hd, findFault_loneFault h, if_neg hfid]
  exact ⟨rfl, rfl⟩

end LoneFault

/-- R134, R135, R138: fault records and the driver's answers. -/
theorem faultRing : Says.FaultRing := by
  intro s key pi tm p k i h x size hd
  refine ⟨fun hfid hen hsize hwf hfree => faultRecordPost_posts h hfid hen hsize rfl hfree hwf,
    fun hfid => faultRecordPost_waits h hfid, fun fid hfid => ⟨faultRecordPost_numbered h ?_, ?_, pfFail_traps h hd hfid⟩,
    fun fid => answers_unknown h hd⟩
  · rw [hfid]
    exact Option.some_ne_none fid
  · exact ⟨_, pfReplay_frees h hd hfid, modPath_loneFault h Path.unpark⟩

end Sys2Proof.Machine
end

section
/-! SUPPORT. Scythe, the scan of frames under the clock hand (R137, R138). -/
namespace Sys2Proof.Machine

/-! ## SCCTL -/

/-- The bits of a number from `k` to `k + n - 1`, as a mask keeps them. -/
theorem and_mask (v k n : Nat) : v &&& (2 ^ n - 1) * 2 ^ k = v / 2 ^ k % 2 ^ n * 2 ^ k := by
  apply Nat.eq_of_testBit_eq
  intro i
  rw [Nat.testBit_and, Nat.testBit_mul_two_pow, Nat.testBit_mul_two_pow, Nat.testBit_two_pow_sub_one, Nat.testBit_mod_two_pow,
    Nat.testBit_div_two_pow]
  by_cases hk : k ≤ i
  · simp [hk, Bool.and_comm]
  · simp [hk]

/-- The fields of SCCTL that a write keeps: RATE, WM, LOG2SZ and EN (R138). -/
theorem scctl_fields (v : BitVec 64) : v &&& 0xFFFF_FFFF_0000_1F01#64 =
    .ofNat 64 (v.toNat / 2 ^ 32 * 2 ^ 32 + v.toNat / 2 ^ 8 % 2 ^ 5 * 2 ^ 8 + v.toNat % 2) := by
  have hv := v.isLt
  have hmask : (0xFFFF_FFFF_0000_1F01#64).toNat = (2 ^ 32 - 1) * 2 ^ 32 ||| ((2 ^ 5 - 1) * 2 ^ 8 ||| (2 ^ 1 - 1) * 2 ^ 0) := by decide
  have hhigh : v.toNat / 2 ^ 32 % 2 ^ 32 = v.toNat / 2 ^ 32 := Nat.mod_eq_of_lt (by omega)
  have hsum : v.toNat / 2 ^ 32 * 2 ^ 32 + v.toNat / 2 ^ 8 % 2 ^ 5 * 2 ^ 8 + v.toNat % 2 =
      v.toNat / 2 ^ 32 * 2 ^ 32 ||| (v.toNat / 2 ^ 8 % 2 ^ 5 * 2 ^ 8 ||| v.toNat % 2) := by
    rw [Nat.mul_comm (v.toNat / 2 ^ 8 % 2 ^ 5), ← Nat.two_pow_add_eq_or_of_lt (by omega), Nat.mul_comm (v.toNat / 2 ^ 32),
      ← Nat.two_pow_add_eq_or_of_lt (by omega), Nat.add_assoc]
  apply BitVec.eq_of_toNat_eq
  rw [BitVec.toNat_ofNat, Nat.mod_eq_of_lt (by omega), hsum, BitVec.toNat_and, hmask, Nat.and_or_distrib_left, Nat.and_or_distrib_left,
    and_mask, and_mask, and_mask, hhigh, pow_zero, Nat.div_one, Nat.mul_one, pow_one]

/-- What SCCTL refuses: RATE 0, LOG2SZ out of range, or a WM that the ring has no room for (R138). -/
theorem scctlRefused_iff (v : BitVec 64) : scctlRefused v = true ↔ ¬ (v.toNat / 2 ^ 48 ≠ 0 ∧ 6 ≤ v.toNat / 2 ^ 8 % 2 ^ 5 ∧
    v.toNat / 2 ^ 8 % 2 ^ 5 ≤ 20 ∧ v.toNat / 2 ^ 32 % 2 ^ 16 < 2 ^ (v.toNat / 2 ^ 8 % 2 ^ 5)) := by
  have hv := v.isLt
  have hrate : bits 63 48 v.toNat = v.toNat / 2 ^ 48 := Nat.mod_eq_of_lt (by omega)
  have hlog : bits 12 8 v.toNat = v.toNat / 2 ^ 8 % 2 ^ 5 := rfl
  have hwm : bits 47 32 v.toNat = v.toNat / 2 ^ 32 % 2 ^ 16 := rfl
  have hpos := Nat.two_pow_pos (v.toNat / 2 ^ 8 % 2 ^ 5)
  simp only [scctlRefused, hrate, hlog, hwm, Bool.or_eq_true, beq_iff_eq, decide_eq_true_eq]
  omega

theorem scctlWrite_heard {s : State} (hd : s.dev.deaf = false) (v : BitVec 64) :
    exec (.scctlWrite v) s = .next (if scctlRefused v then s
      else { s with xl := { s.xl with scctl := v &&& 0xFFFF_FFFF_0000_1F01#64 } }) := by
  rw [exec_scctlWrite, execScctlWrite, onLink_heard hd]

/-! ## A step of the scan -/

section Sweep

variable {s : State}

/-- The scan runs: EN = 1, and fewer frames than WM are queued (R137). -/
def State.scans (s : State) : Prop :=
  s.xl.scctl.toNat % 2 = 1 ∧ (s.xl.schead - s.xl.sctail).toNat < s.xl.scctl.toNat / 2 ^ 32 % 2 ^ 16

/-- The hand's frame is managed, and neither a table frame nor queued. -/
def State.scansFrame (s : State) : Bool :=
  (s.mem.frameByte s.xl.schand).getLsbD 1 && !(s.mem.frameByte s.xl.schand).getLsbD 0 && !(s.mem.frameByte s.xl.schand).getLsbD 3

/-- The byte of the hand's frame is set. -/
def State.setHandByte (s : State) (b : Byte) : State :=
  { s with mem := { s.mem with frames := Tab.set 0 s.xl.schand b s.mem.frames } }

/-- The hand moves on to the next frame of the service level. -/
def State.moveHand (s : State) (hand : Nat) : State := { s with xl := { s.xl with schand := (hand + 1) % (s.dev.limit / 2 ^ 16) } }

theorem scytheSweepStep_rests (h : ¬ s.scans) : exec .scytheSweepStep s = .next s := by
  rw [exec_scytheSweepStep, execScytheSweepStep]
  refine congrArg Host.Outcome.next (if_pos ?_)
  rw [bits]
  unfold State.scans at h
  omega

theorem scytheSweepStep_scans (h : s.scans) : exec .scytheSweepStep s = .next (
    (if s.scansFrame then
      (if (s.mem.frameByte s.xl.schand).getLsbD 2 then s.setHandByte (s.mem.frameByte s.xl.schand &&& 0xFB#8)
       else
         let r := (s.setHandByte (s.mem.frameByte s.xl.schand ||| 8#8)).ringPut s.xl.scbase.toNat (bits 12 8 s.xl.scctl.toNat) 4
           s.xl.schead.toNat (toBytes 4 s.xl.schand)
         { r with xl := { r.xl with schead := r.xl.schead + 1 } })
     else s).moveHand s.xl.schand) := by
  rw [exec_scytheSweepStep, execScytheSweepStep]
  refine congrArg Host.Outcome.next (if_neg ?_)
  rw [bits]
  unfold State.scans at h
  omega

theorem setHandByte_frameByte (hwf : s.mem.wf = true) (b : Byte) (f : Nat) :
    (s.setHandByte b).mem.frameByte f = if f = s.xl.schand then b else s.mem.frameByte f := by
  obtain ⟨-, -, -, hframes⟩ := (Memory.wf_iff s.mem).1 hwf
  exact Tab.get_set 0 s.mem.frames (Tab.wf_rising hframes) s.xl.schand f b

/-- A frame's byte with FA cleared. -/
theorem clearFa_eq : ∀ b : Byte, b.getLsbD 2 = true → b &&& 0xFB#8 = .ofNat 8 (b.toNat - 4) := by decide

/-- A queued frame's number is in the ready ring, and its byte says so. -/
theorem scytheSweepStep_queues (h : s.scans) (htakes : s.scansFrame = true) (hfa : (s.mem.frameByte s.xl.schand).getLsbD 2 = false)
    (hwf : s.mem.wf = true) {pa : Nat} (hpa : s.xl.scbase.toNat + s.xl.schead.toNat % 2 ^ (s.xl.scctl.toNat / 2 ^ 8 % 2 ^ 5) * 4 = pa)
    (hfree : s.rangeLeased pa 4 = false) :
    ∃ t, exec .scytheSweepStep s = .next t ∧ t.teams = s.teams ∧
      t.xl = { s.xl with schand := (s.xl.schand + 1) % (s.dev.limit / 2 ^ 16), schead := s.xl.schead + 1 } ∧
      (t.mem.frameByte s.xl.schand).getLsbD 3 = true ∧ bytesStored s t pa (toBytes 4 s.xl.schand) := by
  have hwf' : (s.setHandByte (s.mem.frameByte s.xl.schand ||| 8#8)).mem.wf = true := Memory.frames_wf hwf _ _
  obtain ⟨m, c, o, his, -, -, hbytes⟩ := writeUnit_stores hwf' pa (toBytes 4 s.xl.schand)
  have hqueued := writeUnit_frameBit hwf' pa (toBytes 4 s.xl.schand) s.xl.schand (k := 3) (by decide)
  have hput : (s.setHandByte (s.mem.frameByte s.xl.schand ||| 8#8)).ringPut s.xl.scbase.toNat (bits 12 8 s.xl.scctl.toNat) 4
      s.xl.schead.toNat (toBytes 4 s.xl.schand) =
      (s.setHandByte (s.mem.frameByte s.xl.schand ||| 8#8)).writeUnit pa (toBytes 4 s.xl.schand) := by
    subst hpa
    exact ringPut_unleased hfree
  have hexec := scytheSweepStep_scans h
  rw [if_pos htakes, hfa, if_neg Bool.false_ne_true] at hexec
  dsimp only at hexec
  rw [hput, his] at hexec
  rw [his] at hbytes hqueued
  refine ⟨_, hexec, rfl, rfl, hqueued.trans ?_, hbytes⟩
  rw [setHandByte_frameByte hwf, if_pos rfl, BitVec.getLsbD_or]
  simp

end Sweep

/-- R137, R138: SCCTL, SCTAIL and a step of the scan. -/
theorem scythe : Says.Scythe := by
  refine ⟨fun s v hd => ⟨fun hgood => ?_, fun hbad => ?_, fun n => ?_⟩, fun s hwf => ⟨scytheSweepStep_rests, fun hruns htakes => ?_,
    fun hruns htakes hfa => ?_, fun hruns htakes hfa hfree => scytheSweepStep_queues hruns htakes hfa hwf rfl hfree⟩⟩
  · have hkept : ¬ scctlRefused v = true := fun hr => (scctlRefused_iff v).1 hr hgood
    rw [scctlWrite_heard hd, if_neg hkept, scctl_fields]
  · rw [scctlWrite_heard hd, if_pos ((scctlRefused_iff v).2 hbad)]
  · rw [exec_sctailWrite, execSctailWrite, onLink_heard hd]
  · rw [scytheSweepStep_scans hruns, if_neg (by rw [State.scansFrame, htakes]; exact Bool.false_ne_true)]
    rfl
  · have hexec := scytheSweepStep_scans hruns
    rw [if_pos (show s.scansFrame = true from htakes), if_pos hfa] at hexec
    refine ⟨_, hexec, ⟨rfl, rfl⟩, rfl, rfl, fun f => (setHandByte_frameByte hwf _ f).trans ?_⟩
    rw [clearFa_eq _ hfa]

/-- Settles O40, from the fault ring and the driver's answers, and from Scythe. -/
theorem faultRingAndScythe : Obligations.FaultRingAndScythe := ⟨faultRing, scythe⟩

end Sys2Proof.Machine
end

section
/-! SUPPORT. Whole frames that the page engine copies (R132, R150). -/
namespace Sys2Proof.Machine

/-! ## Parts of a table -/

theorem AMap.find_filter_keys {α : Type} (m : AMap α) (q : Nat → Bool) (k : Nat) :
    AMap.find (m.filter (fun e => q e.1)) k = if q k = true then AMap.find m k else none := by
  induction m with
  | nil => simp
  | cons e t ih =>
    rw [List.filter_cons]
    by_cases hk : e.1 = k
    · subst hk
      by_cases hq : q e.1 = true
      · simp [hq, AMap.find]
      · rw [if_neg hq, ih, if_neg hq, if_neg hq]
    · split
      · simp only [AMap.find, hk, if_false, ih]
      · simp only [AMap.find, hk, if_false, ih]

/-- A read of a table whose keys from `lo` up to `hi` have been cleared. -/
theorem Tab.get_clear {α : Type} (d : α) (lo hi : Nat) (m : Tab α) (x : Nat) :
    Tab.get d (Tab.clear lo hi m) x = if lo ≤ x ∧ x < hi then d else Tab.get d m x := by
  have hfind := AMap.find_filter_keys m (fun k => decide (k < lo) || decide (hi ≤ k)) x
  rw [Tab.get, Tab.clear, hfind]
  by_cases hx : lo ≤ x ∧ x < hi
  · rw [if_neg (by simp; omega), if_pos hx]; rfl
  · rw [if_pos (by simp; omega), if_neg hx]; rfl

/-- A read after the entries of a list, from `a` on, have been written from `b` on. -/
theorem Tab.get_foldl_move {α : Type} [DecidableEq α] (d : α) {m : Tab α} (hm : Tab.wf d m = true) (a b : Nat) {l : AMap α}
    (hl : AMap.rising l = true) (ha : ∀ e ∈ l, a ≤ e.1) (x : Nat) :
    Tab.get d (l.foldl (fun m e => Tab.set d (e.1 - a + b) e.2 m) m) x =
      if b ≤ x then (AMap.find l (x - b + a)).getD (Tab.get d m x) else Tab.get d m x := by
  induction l generalizing m with
  | nil => simp
  | cons e t ih =>
    obtain ⟨hlt, ht⟩ := (AMap.rising_cons_iff e.1 e.2 t).1 hl
    have hae := ha e List.mem_cons_self
    rw [List.foldl_cons, ih (Tab.wf_set d m _ _ hm) ht (fun e he => ha e (List.mem_cons_of_mem _ he)),
      Tab.get_set d m (Tab.wf_rising hm)]
    by_cases hk : e.1 = x - b + a
    · by_cases hb : b ≤ x
      · have hnone : AMap.find t (x - b + a) = none := AMap.find_lt_head hl (Nat.le_of_eq hk.symm)
        rw [if_pos hb, if_pos hb, hnone, AMap.find, if_pos hk, if_pos (by omega)]
        rfl
      · rw [if_neg hb, if_neg hb, if_neg (by omega)]
    · by_cases hb : b ≤ x
      · rw [if_pos hb, if_pos hb, if_neg (by omega), AMap.find, if_neg hk]
      · rw [if_neg hb, if_neg hb, if_neg (by omega)]

/-! ## Accesses to every line of a frame -/

theorem obtainFrame_tables (s : State) (f : Nat) :
    (s.obtainFrame f).mem.bytes = s.mem.bytes ∧ (s.obtainFrame f).mem.host = s.mem.host := by
  unfold State.obtainFrame
  split
  · refine foldl_keeps (fun t : State => t.mem.bytes = s.mem.bytes ∧ t.mem.host = s.mem.host) _ _ _ ⟨rfl, rfl⟩ ?_
    rintro t i ⟨hbytes, hhost⟩
    obtain ⟨hb, hh, -⟩ := obtain_tables t (f * 0x10000 + i * 64)
    exact ⟨hb.trans hbytes, hh.trans hhost⟩
  · exact ⟨rfl, rfl⟩

theorem obtainFrame_translated (s : State) (f : Nat) : translated s (s.obtainFrame f) := by
  unfold State.obtainFrame
  split
  · refine foldl_keeps (translated s) _ _ _ (translated_refl s) (fun t i ht => ht.trans ?_)
    obtain ⟨l, g, o, hobt⟩ := obtain_is t (f * 0x10000 + i * 64)
    exact ⟨_, t.cores, o, hobt⟩
  · exact translated_refl s

/-- The timestamps of a frame's lines and FA are the only parts of memory that a write of the page engine changes beside its bytes. -/
theorem stampFrame_tables (s : State) (f pts : Nat) :
    (s.stampFrame f pts).mem.bytes = s.mem.bytes ∧ (s.stampFrame f pts).mem.host = s.mem.host := by
  obtain ⟨hbytes, hhost⟩ := obtainFrame_tables s f
  unfold State.stampFrame
  generalize List.range 1024 = r
  refine foldl_keeps (fun m : Memory => m.bytes = s.mem.bytes ∧ m.host = s.mem.host) _ _ _ ⟨hbytes, hhost⟩ ?_
  rintro m i hm
  exact hm

theorem zeroFrame_bytes (s : State) (f pts : Nat) :
    (s.zeroFrame f pts).mem.bytes = Tab.clear (f * 0x10000) ((f + 1) * 0x10000) s.mem.bytes :=
  (stampFrame_tables _ f pts).1

theorem zeroFrame_host (s : State) (f pts : Nat) : (s.zeroFrame f pts).mem.host = s.mem.host :=
  (stampFrame_tables _ f pts).2

/-! ## The copy of a frame -/

/-- A copy of a frame changes memory, and what is shown to the outside for host bias (R28). -/
theorem copyFrame_translated (s : State) (src dst pts : Nat) : translated s (s.copyFrame src dst pts) := by
  obtain ⟨m, c, o, hsrc⟩ := obtainFrame_translated s src
  unfold State.copyFrame State.zeroFrame State.stampFrame
  rw [hsrc]
  dsimp only
  obtain ⟨m', c', o', hdst⟩ := obtainFrame_translated ({ s with
    mem := { m.touch (src * 0x10000) with bytes := Tab.clear (dst * 0x10000) ((dst + 1) * 0x10000) (m.touch (src * 0x10000)).bytes },
    cores := c, out := o }) dst
  rw [hdst]
  exact ⟨_, c', o', rfl⟩

theorem copyFrame_host (s : State) (src dst pts : Nat) : (s.copyFrame src dst pts).mem.host = s.mem.host := by
  unfold State.copyFrame
  dsimp only
  rw [zeroFrame_host]
  exact (obtainFrame_tables s src).2

/-- The copy has the bytes that the frame had, and every other frame keeps its own (R132, R150). -/
theorem copyFrame_byteAt {s : State} (h : s.mem.wf = true) (src dst pts x : Nat) : byteAt (s.copyFrame src dst pts) x =
    if x / 2 ^ 16 = dst then byteAt s (x % 2 ^ 16 + src * 2 ^ 16) else byteAt s x := by
  obtain ⟨hwf, -⟩ := (Memory.wf_iff s.mem).1 h
  have hbytes : (s.copyFrame src dst pts).mem.bytes = (s.mem.bytes.filter
      (fun e => decide (src * 0x10000 ≤ e.1) && decide (e.1 < (src + 1) * 0x10000))).foldl
      (fun m e => Tab.set 0 (e.1 - src * 0x10000 + dst * 0x10000) e.2 m)
      (Tab.clear (dst * 0x10000) ((dst + 1) * 0x10000) s.mem.bytes) := by
    have hsrc : ∀ m : Memory, m.bytes = s.mem.bytes → (m.touch (src * 0x10000)).bytes = s.mem.bytes := fun m hm => hm
    unfold State.copyFrame
    dsimp only
    rw [zeroFrame_bytes]
    dsimp only
    rw [hsrc _ (obtainFrame_tables s src).1]
  have hrising := AMap.rising_filter (fun e => decide (src * 0x10000 ≤ e.1) && decide (e.1 < (src + 1) * 0x10000)) s.mem.bytes
    (Tab.wf_rising hwf)
  have hfrom : ∀ e ∈ s.mem.bytes.filter (fun e => decide (src * 0x10000 ≤ e.1) && decide (e.1 < (src + 1) * 0x10000)),
      src * 0x10000 ≤ e.1 := by
    intro e he
    have := (List.mem_filter.1 he).2
    simp at this
    exact this.1
  rw [byteAt, hbytes, Tab.get_foldl_move 0 (Tab.wf_clear 0 _ _ _ hwf) _ _ hrising hfrom, Tab.get_clear,
    AMap.find_filter_keys s.mem.bytes (fun k => decide (src * 0x10000 ≤ k) && decide (k < (src + 1) * 0x10000))]
  by_cases hx : x / 2 ^ 16 = dst
  · have hkey : x - dst * 0x10000 + src * 0x10000 = x % 2 ^ 16 + src * 2 ^ 16 := by omega
    rw [if_pos hx, if_pos (by omega), if_pos (by simp; omega), if_pos (by omega), hkey]
    rfl
  · rw [if_neg hx]
    by_cases hb : dst * 0x10000 ≤ x
    · have hout : ¬ (decide (src * 0x10000 ≤ x - dst * 0x10000 + src * 0x10000) &&
          decide (x - dst * 0x10000 + src * 0x10000 < (src + 1) * 0x10000)) = true := by
        rw [Bool.and_eq_true, decide_eq_true_eq, decide_eq_true_eq]
        omega
      rw [if_pos hb, if_neg hout, if_neg (by omega)]
      rfl
    · rw [if_neg hb, if_neg (by omega)]
      rfl

end Sys2Proof.Machine
end

section
/-! SUPPORT. Migrations of a frame: their request, the grant of their locks, and their end (R132, R237). -/
namespace Sys2Proof.Machine

theorem readPa64_eq (s : State) (pa : Nat) : s.readPa64 pa = valueAt s pa := by rw [State.readPa64, State.readPa_eq]; rfl

/-! ## The request (R132, R138) -/

/-- What the checks of a migration ask of the leaf at an address and of the new frame. -/
def migrates (s : State) (pte new : Nat) : Prop :=
  new < 2 ^ 24 ∧ pte % 8 = 0 ∧ pte < s.dev.limit ∧ (valueAt s pte).toNat % 4 = 1 ∧ (valueAt s pte).toNat / 2 ^ 12 % 4 = 0 ∧
    (valueAt s pte).toNat / 2 ^ 16 * 2 ^ 16 < s.dev.limit ∧ new * 2 ^ 16 < s.dev.limit ∧ (s.mem.frameByte new).getLsbD 0 = false

/-- A leaf that a migration accepts is valid, and no table entry (R119). -/
theorem leaf_low_bits (e : BitVec 64) : (leafV e = true ∧ leafT e = false) ↔ e.toNat % 4 = 1 := by
  have hv : leafV e = decide (e.toNat / 2 ^ 0 % 2 = 1) := Nat.testBit_eq_decide_div_mod_eq
  have ht : leafT e = decide (e.toNat / 2 ^ 1 % 2 = 1) := Nat.testBit_eq_decide_div_mod_eq
  rw [hv, ht, decide_eq_true_eq, decide_eq_false_iff_not]
  omega

theorem leafFrame_eq (e : BitVec 64) : leafFrame e = e.toNat / 2 ^ 16 * 0x10000 := by
  have := e.isLt
  rw [leafFrame, Laws.field_toNat, Nat.mod_eq_of_lt (by omega)]

theorem isTable_frame (m : Memory) (f : Nat) : m.isTable (f * 0x10000) = (m.frameByte f).getLsbD 0 := by
  rw [Memory.isTable, frameOf, Nat.mul_div_cancel _ (by decide)]

/-- The checks of a migration fail for each condition that does not hold (R132), and for a reserved bit (R138). -/
theorem migrationFails_iff (s : State) (v : BitVec 64) : migrationFails s v = true ↔ ¬ migrates s s.xl.migpte.toNat v.toNat := by
  have hv := v.isLt
  have hhigh : bits 63 24 v.toNat = v.toNat / 2 ^ 24 := Nat.mod_eq_of_lt (by omega)
  have hps : leafPs (valueAt s s.xl.migpte.toNat) = (valueAt s s.xl.migpte.toNat).toNat / 2 ^ 12 % 4 := Laws.field_toNat _ _ _
  rw [← Bool.not_eq_false, not_iff_not]
  by_cases hnew : v.toNat < 2 ^ 24
  · have hzero : v.toNat / 2 ^ 24 = 0 := Nat.div_eq_of_lt hnew
    have hlow : bits 23 0 v.toNat = v.toNat := (bits_low 23 _).trans (Nat.mod_eq_of_lt hnew)
    simp only [migrationFails, migrates, Bool.or_eq_false_iff, bne_eq_false_iff_eq, decide_eq_false_iff_not, Bool.not_eq_false',
      Nat.not_le, readPa64_eq, leafFrame_eq, isTable_frame, hhigh, hzero, hlow, hps, hnew, ← leaf_low_bits, true_and, and_assoc]
    rfl
  · have hset : ¬ v.toNat / 2 ^ 24 = 0 := by omega
    simp only [migrationFails, migrates, Bool.or_eq_false_iff, bne_eq_false_iff_eq, hhigh, hset, hnew, false_and]

/-- A migration that passes its checks names both frames and waits for write locks on them (R132). -/
theorem migreqWrite_registers {s : State} (hd : s.dev.deaf = false) {v : BitVec 64} (hm : s.xl.mig = none)
    (hgood : migrates s s.xl.migpte.toNat v.toNat) :
    ∃ t m r, exec (.migreqWrite v) s = .next t ∧ memoryKept s t ∧ t.teams = s.teams ∧ t.xl = { s.xl with mig := some m } ∧
      m.oldFrame = (valueAt s s.xl.migpte.toNat).toNat / 2 ^ 16 ∧ m.newFrame = v.toNat ∧ m.shoot = none ∧
      t.eng.locks = s.eng.locks ++ [r] ∧ r.owner = .migration ∧ r.granted = false ∧
      r.ranges = [lineRange true .device ((valueAt s s.xl.migpte.toNat).toNat / 2 ^ 16 * 0x10000) 0x10000,
        lineRange true .device (v.toNat * 0x10000) 0x10000] := by
  have hpass : ¬ migrationFails s v = true := fun hf => (migrationFails_iff s v).1 hf hgood
  have hold : leafFrame (s.readPa64 s.xl.migpte.toNat) / 0x10000 = (valueAt s s.xl.migpte.toNat).toNat / 2 ^ 16 := by
    rw [readPa64_eq, leafFrame_eq, Nat.mul_div_cancel _ (by decide)]
  obtain ⟨hnew, -⟩ := hgood
  have hlow : bits 23 0 v.toNat = v.toNat := (bits_low 23 _).trans (Nat.mod_eq_of_lt hnew)
  obtain ⟨m, o, hview, hbytes, hhost⟩ := viewTouch_is s (.dev s.xl.migpte.toNat)
  rw [exec_migreqWrite, execMigreqWrite, onLink_heard hd, hm, Option.isSome_none, if_neg Bool.false_ne_true, if_neg hpass]
  dsimp only
  rw [hold, hlow, hview]
  exact ⟨_, _, _, rfl, ⟨hbytes, hhost⟩, rfl, rfl, rfl, rfl, rfl, rfl, rfl, rfl, rfl⟩

/-- A range of whole lines is not widened (R237). -/
theorem lineRange_lines (write : Bool) (p : LockPlace) {lo n : Nat} (hlo : lo % 64 = 0) (hn : n % 64 = 0) :
    lineRange write p lo n = { write := write, place := p, lo := lo, hi := lo + n } := by
  have hlow : lo / 64 * 64 = lo := by omega
  have hhigh : (lo + n + 63) / 64 * 64 = lo + n := by omega
  rw [lineRange, hlow, hhigh]

/-! ## The grant of the locks (R132, R237) -/

/-- A leaf that names another frame keeps its other fields (R119). -/
theorem withFrame_toNat (leaf : BitVec 64) {f : Nat} (hf : f < 2 ^ 24) : (withFrame leaf f).toNat = leaf.toNat % 2 ^ 16 + f * 2 ^ 16 := by
  have hlow : leaf.toNat &&& (0xFFFF#64).toNat = leaf.toNat % 2 ^ 16 := Nat.and_two_pow_sub_one_eq_mod _ 16
  have hf64 : f * 0x10000 % 2 ^ 64 = 2 ^ 16 * f := by omega
  rw [withFrame, BitVec.toNat_or, BitVec.toNat_and, hlow, BitVec.toNat_ofNat, hf64, Nat.lor_comm,
    ← Nat.two_pow_add_eq_or_of_lt (Nat.mod_lt _ (Nat.two_pow_pos 16)), Nat.mul_comm, Nat.add_comm]

/-- A valid leaf is rewritten at its home slice (R125, R132). -/
theorem migrateLeaf_rewrites {s : State} {m : Migration} {pte : Nat} (hpte : s.xl.migpte.toNat = pte)
    (hv : leafV (valueAt s pte) = true) (hm : m.newFrame < 2 ^ 24) (hwf : s.mem.wf = true) :
    translated s (s.migrateLeaf m) ∧ (s.migrateLeaf m).mem.host = s.mem.host ∧
      bytesStored s (s.migrateLeaf m) pte (toBytes 8 ((valueAt s pte).toNat % 2 ^ 16 + m.newFrame * 2 ^ 16)) := by
  have heq : s.migrateLeaf m = s.writeEntry pte (withFrame (valueAt s pte) m.newFrame) := by
    rw [State.migrateLeaf, readPa64_eq, hpte, if_pos hv]
  rw [heq, ← withFrame_toNat (valueAt s pte) hm]
  refine ⟨writeEntry_translated _ _ _, writeHome_host _ _ _ _ _, fun x => ?_⟩
  rw [byteAt, State.writeEntry, writeHome_bytes]
  exact Tab.get_setList 0 _ _ x _ ((Memory.wf_iff _).1 hwf).1

/-- A device without teams has no version to commit for a migration. -/
theorem commitFrame_none {s : State} (hteams : s.teams = []) (hsaved : s.sched.saved = []) (f : Nat) :
    s.frameCommitBlocked f = false ∧ s.commitFrame f = s := by
  simp [State.frameCommitBlocked, State.commitFrame, State.savedTeams, hteams, hsaved]

/-- The page of MIGVA is shot down, as the migration's own (R132). -/
def State.shootMoved (s : State) (m : Migration) : State :=
  State.beginShoot { s with xl := { s.xl with mig := some { m with shoot := some s.xl.nextShoot } } } (bits 63 52 s.xl.migva.toNat)
    (bits 51 16 s.xl.migva.toNat) 1 none

/-- The leaf that a migration reads is still there once the frame has been copied, unless it lies in the new frame. -/
theorem copyFrame_valueAt {s : State} (hwf : s.mem.wf = true) (src : Nat) {dst pa : Nat} (pts : Nat) (h8 : pa % 8 = 0)
    (hpa : pa / 2 ^ 16 ≠ dst) : valueAt (s.copyFrame src dst pts) pa = valueAt s pa := by
  refine congrArg (fun l => BitVec.ofNat 64 (ofBytes l)) (List.map_congr_left fun i hi => ?_)
  have hi8 := List.mem_range.1 hi
  rw [copyFrame_byteAt hwf, if_neg (by omega)]

/-- The copy and the leaf of a migration (R132). -/
theorem moved_bytes {s : State} {m : Migration} {pte : Nat} (hpte : s.xl.migpte.toNat = pte) (hwf : s.mem.wf = true)
    (h8 : pte % 8 = 0) (hv : leafV (valueAt s pte) = true) (hm : m.newFrame < 2 ^ 24) (hne : pte / 2 ^ 16 ≠ m.newFrame) (pts : Nat) :
    let u := (s.copyFrame m.oldFrame m.newFrame pts).migrateLeaf m
    translated s u ∧ u.mem.host = s.mem.host ∧ ∀ x, byteAt u x = if pte ≤ x ∧ x < pte + 8 then
        (toBytes 8 ((valueAt s pte).toNat % 2 ^ 16 + m.newFrame * 2 ^ 16)).getD (x - pte) 0
      else if x / 2 ^ 16 = m.newFrame then byteAt s (x % 2 ^ 16 + m.oldFrame * 2 ^ 16) else byteAt s x := by
  have hcopy := copyFrame_translated s m.oldFrame m.newFrame pts
  have hleaf := copyFrame_valueAt hwf m.oldFrame pts h8 hne
  have hpte' : (s.copyFrame m.oldFrame m.newFrame pts).xl.migpte.toNat = pte := by
    obtain ⟨_, _, _, hc⟩ := hcopy
    rw [hc]
    exact hpte
  obtain ⟨htrans, hhost, hstored⟩ := migrateLeaf_rewrites hpte' (by rw [hleaf]; exact hv) hm (copyFrame_wf hwf _ _ pts)
  refine ⟨hcopy.trans htrans, hhost.trans (copyFrame_host s _ _ pts), fun x => ?_⟩
  rw [hstored, hleaf, length_toBytes, copyFrame_byteAt hwf]

/-- What the granted locks of a migration let it do, on a device without teams: the copy, the leaf, and the shoot-down. -/
theorem migrate_moves {s : State} (m : Migration) (hteams : s.teams = []) (hsaved : s.sched.saved = [])
    (hheld : s.lineHeld s.xl.migpte.toNat = false) : s.migrate m =
      ((s.copyFrame m.oldFrame m.newFrame (s.frameStamp m.oldFrame)).migrateLeaf m).shootMoved m := by
  obtain ⟨hfree, hcommit⟩ := commitFrame_none hteams hsaved m.oldFrame
  rw [State.migrate, hfree, hheld, Bool.or_self, if_neg Bool.false_ne_true, hcommit]
  rfl

theorem shootMoved_shoots (s : State) (m : Migration) : ∃ h, h.begun = true ∧ h.count = 1 ∧
    memoryKept s (s.shootMoved m) ∧ (s.shootMoved m).eng = s.eng ∧ (s.shootMoved m).xl.shoots = s.xl.shoots ++ [h] ∧
    (s.shootMoved m).xl.mig = some { m with shoot := some h.id } ∧ (s.shootMoved m).xl.migErr = s.xl.migErr := by
  obtain ⟨h, ⟨hid, -, -, hcount, -, hbegun⟩, hbegin⟩ := beginShoot_driver
    { s with xl := { s.xl with mig := some { m with shoot := some s.xl.nextShoot } } } (bits 63 52 s.xl.migva.toNat)
    (bits 51 16 s.xl.migva.toNat) 1
  rw [State.shootMoved, hbegin]
  refine ⟨h, hbegun, hcount, ⟨rfl, rfl⟩, rfl, rfl, ?_, rfl⟩
  rw [hid]
  rfl

/-- The state once the only registration is granted. -/
def State.grantOne (s : State) (r : LockReg) : State := { s with eng := { s.eng with locks := [{ r with granted := true }] } }

theorem rangeLockGrant_migrates {s : State} {r : LockReg} {m : Migration} (hlocks : s.eng.locks = [r]) (howner : r.owner = .migration)
    (hwaits : r.granted = false) (hgrant : s.grantable [] r = true) (hm : s.xl.mig = some m) :
    exec .rangeLockGrant s = .next ((s.grantOne r).migrate m) := by
  have hnext : s.nextGrant = some r := by simp [State.nextGrant, hlocks, hwaits, hgrant]
  rw [exec_rangeLockGrant, execRangeLockGrant, hnext]
  dsimp only
  rw [howner, hm, hlocks]
  simp [State.grantOne]

/-! ## The end of a migration (R132) -/

/-- RANGE_LOCK_RELEASE takes a migration that holds its locks on (R132). -/
theorem rangeLockRelease_migrates {s : State} {r : LockReg} {m : Migration} (hlocks : s.eng.locks = [r]) (howner : r.owner = .migration)
    (hgranted : r.granted = true) (hm : s.xl.mig = some m) : exec (.rangeLockRelease r.id) s = .next (s.migrateOn m) := by
  have hfind : s.eng.locks.find? (fun l => l.id == r.id) = some r := by simp [hlocks]
  have howned : s.orphan r = false := by simp [State.orphan, howner, hm]
  rw [exec_rangeLockRelease, execRangeLockRelease, hfind]
  dsimp only
  rw [howned, if_neg Bool.false_ne_true, if_pos ⟨howner, hgranted⟩, hm]
  rfl

theorem migrateEnd_ends {s : State} {r : LockReg} (hlocks : s.eng.locks = [r]) (howner : r.owner = .migration) :
    s.migrateEnd.mem = s.mem ∧ s.migrateEnd.eng.locks = [] ∧
      s.migrateEnd.xl = { s.xl with migDone := s.xl.migDone + 1, mig := none } := by
  refine ⟨rfl, ?_, rfl⟩
  show s.eng.locks.filter (fun l => !(l.owner == LockOwner.migration)) = []
  simp [hlocks, howner]

/-! ## The claim -/

/-- Settles O41, from the request of a migration, what the grant of its locks moves, and its end. -/
theorem migrations : Obligations.Migrations := by
  refine ⟨fun s v hd => ⟨fun hruns => ?_, fun hm hbad => ?_, fun hm hgood => ?_⟩,
    fun s r m hlocks howner hwaits hgrant hm hshoot hteams hsaved hwf => ?_,
    fun s r m id hlocks howner hgranted hm hshoot => ⟨fun hover => ?_, fun hlisted => ?_⟩⟩
  · rw [exec_migreqWrite, execMigreqWrite, onLink_heard hd, if_pos (Option.isSome_iff_ne_none.2 hruns)]
  · rw [exec_migreqWrite, execMigreqWrite, onLink_heard hd, hm, Option.isSome_none, if_neg Bool.false_ne_true,
      if_pos ((migrationFails_iff s v).2 hbad)]
  · obtain ⟨t, m, r, hexec, hkept, hteams, hxl, hold, hnew, hshoot, hlocks, howner, hwaits, hranges⟩ := migreqWrite_registers hd hm hgood
    refine ⟨t, m, r, hexec, hkept, hteams, hxl, hold, hnew, hshoot, hlocks, howner, hwaits, ?_⟩
    rw [hranges, lineRange_lines _ _ (by omega) (by decide), lineRange_lines _ _ (by omega) (by decide)]
    simp only [Nat.reducePow]
  · intro pte leaf h8 hv hnew _ hne hheld
    obtain ⟨⟨mem, c, o, hu⟩, hhost, hbytes⟩ := moved_bytes (s := s.grantOne r) rfl hwf h8 hv hnew hne
      ((s.grantOne r).frameStamp m.oldFrame)
    have hexec := rangeLockGrant_migrates hlocks howner hwaits hgrant hm
    rw [migrate_moves (s := s.grantOne r) m hteams hsaved hheld, hu] at hexec
    rw [hu] at hhost hbytes
    obtain ⟨h, hbegun, hcount, ⟨hkept, hkept'⟩, heng, hshoots, hmig, herr⟩ := shootMoved_shoots
      ({ s.grantOne r with mem := mem, cores := c, out := o }) m
    refine ⟨_, h, hexec, congrArg Engines.locks heng, fun x => ?_, hkept'.trans hhost, hshoots, hbegun, hcount, hmig, herr⟩
    rw [byteAt, hkept]
    exact hbytes x
  · have hdone : s.xl.shoots.any (fun h => h.id == id) = false := List.any_eq_false.2 fun h hh => by simpa using hover h hh
    have hon : s.migrateOn m = s.migrateEnd := by
      rw [State.migrateOn, hshoot]
      exact if_neg (by rw [hdone]; exact Bool.false_ne_true)
    exact ⟨_, (rangeLockRelease_migrates hlocks howner hgranted hm).trans (congrArg _ hon), migrateEnd_ends hlocks howner⟩
  · obtain ⟨h, hh, hid⟩ := hlisted
    have hon : s.migrateOn m = s := by
      rw [State.migrateOn, hshoot]
      exact if_pos (List.any_eq_true.2 ⟨h, hh, by rw [hid]; exact beq_self_eq_true id⟩)
    exact (rangeLockRelease_migrates hlocks howner hgranted hm).trans (congrArg _ hon)

end Sys2Proof.Machine
end

section
/-! SUPPORT. TNRETIRE where a team table lists one key twice: the end of the team bound to the slot takes the issuing team's entry. -/
namespace Sys2Proof.Machine

/-- A team without a path, bound to the trunk of slot 0. -/
def boundTeam : Team := { Team.plain with teamId := 2#32, paths := [], binding := some (0, 0) }

/-- Slot 0 is open and empty, and key 0 lists the issuing team before the team bound to the slot. -/
def doubledKey : State :=
  { State.reset with
    cores := [], teams := [(0, Team.plain), (0, boundTeam)],
    kv := { Kv.reset with kvctl := 1, slots := [(0, { Slot.blank with state := 1 })] } }

/-- The issuing path of `doubledKey`. -/
def doubledWho : Who :=
  { core := 0, slot := 0, key := 0, pi := 0, team := Team.plain, path := Path.start 0 (maskBelow 32) resetFmt 0 }

theorem doubledKey_scalarReady (rs : List Reg6) : scalarReady doubledKey doubledWho rs :=
  ⟨rfl, fun _ _ => by simp [Path.marked, Path.started, doubledWho, Path.start], rfl⟩

theorem doubledKey_treeReady : treeReady doubledKey doubledWho := by
  unfold treeReady; decide +kernel

theorem doubledKey_slotReached : slotReached doubledKey doubledWho 0 := by
  unfold slotReached slotOpenTo; decide +kernel

theorem doubledKey_handle : handleOf (doubledWho.path.s 0) 0 0 0 := by
  unfold handleOf; decide +kernel

/-- The retirement cancels the team bound to the slot by its key, and with it goes the issuing path. -/
theorem doubledKey_retire_path :
    (match exec (.tnretire 0 0 0) doubledKey with
      | .next t => t.path 0 0
      | _ => some doubledWho.path) = none := by
  decide +kernel

end Sys2Proof.Machine
end

section
namespace Sys2Proof.Machine

/-- Refutes O16: TNRETIRE and TNCOMMIT do not ask that the keys of the resident teams rise, as TNPRUNE and the statements about held
accesses do. Where key 0 lists the issuing team and, after it, a team bound to the slot, TNRETIRE cancels the bound team by its key,
which takes the issuing team from the table: no path of it goes on at next. -/
theorem not_treeEndsAndReads : ¬ Obligations.TreeEndsAndReads := by
  intro h
  obtain ⟨-, -, retires⟩ := h.1
  obtain ⟨t, ht, ⟨q, hq, -⟩, -⟩ := retires doubledKey doubledWho 0 0 (doubledKey_scalarReady _) doubledKey_treeReady
    (fun g => by simp [doubledWho, Path.start]) doubledKey_handle doubledKey_slotReached rfl rfl (by decide +kernel)
  have hnone := doubledKey_retire_path
  rw [ht] at hnone
  exact absurd (hq.symm.trans hnone) (Option.some_ne_none q)

end Sys2Proof.Machine
end

section
/-! SUPPORT. What the operations of token trees change: slots and nodes, maps and free lists, and the image in the KV region. -/
namespace Sys2Proof.Machine

/-! ## Slots and nodes -/

/-- A map whose values change by their keys. -/
theorem AMap.find_map_keyed {α : Type} {g : Nat × α → Nat × α} (hg : ∀ e, (g e).1 = e.1) (m : AMap α) (k : Nat) :
    AMap.find (m.map g) k = (AMap.find m k).map (fun v => (g (k, v)).2) := by
  induction m with
  | nil => rfl
  | cons e t ih =>
    obtain ⟨j, v⟩ := e
    have hj : (g (j, v)).1 = j := hg (j, v)
    simp only [List.map_cons, AMap.find, hj, ih]
    split
    · next h => rw [h]; rfl
    · rfl

theorem slot_of_slots {s t : State} (h : t.kv.slots = s.kv.slots) (n : Nat) : t.slot n = s.slot n := by rw [State.slot, State.slot, h]

theorem slot_of_insert {s t : State} {n : Nat} {k : Slot} (h : t.kv.slots = AMap.insert n k s.kv.slots) (j : Nat) :
    t.slot j = if j = n then k else s.slot j := by
  rw [State.slot, h, AMap.find_insert]
  split
  · rfl
  · rfl

theorem setNode_node (k : Slot) (n m : Nat) (v : Node) : (k.setNode n v).node m = if m = n then v else k.node m := by
  rw [Slot.node, Slot.setNode, AMap.find_insert]
  split
  · rfl
  · rfl

/-- The nodes of a slot changed one by one, where a free node that is not listed stays free. -/
theorem node_map {g : Nat × Node → Nat × Node} (hg : ∀ e, (g e).1 = e.1) {k k' : Slot} (h : k'.nodes = k.nodes.map g) (n : Nat)
    (hblank : (g (n, Node.blank)).2 = Node.blank) : k'.node n = (g (n, k.node n)).2 := by
  rw [Slot.node, Slot.node, h, AMap.find_map_keyed hg]
  cases AMap.find k.nodes n with
  | none => exact hblank.symm
  | some v => rfl

theorem setNode_mapFrames (k : Slot) (n : Nat) (v : Node) (fs : List Nat) :
    ({ k.setNode n v with mapFrames := fs } : Slot) = ({ k with mapFrames := fs } : Slot).setNode n v := rfl

/-! ## Writes of the device's own units -/

/-- `t` is `s` but for what writes of the device's own units change: memory, the cores' copies, what is shown to the outside, and what
the owner holds for leases. -/
def deviceWrote (s t : State) : Prop := ∃ m c o f, t = { s with mem := m, cores := c, out := o, fab := f }

theorem deviceWrote.refl (s : State) : deviceWrote s s := ⟨s.mem, s.cores, s.out, s.fab, rfl⟩

theorem deviceWrote.trans {s t u : State} (h : deviceWrote s t) (g : deviceWrote t u) : deviceWrote s u := by
  obtain ⟨m, c, o, f, rfl⟩ := h
  obtain ⟨m', c', o', f', rfl⟩ := g
  exact ⟨m', c', o', f', rfl⟩

theorem deviceWrote.kv {s t : State} (h : deviceWrote s t) : t.kv = s.kv := by obtain ⟨m, c, o, f, rfl⟩ := h; rfl

theorem dropKv_wrote (s : State) (slot : Nat) : deviceWrote s (s.dropKv slot) := ⟨s.mem, _, s.out, s.fab, rfl⟩

/-- The image of a slot is written by writes of the device (R140). -/
theorem mirror_wrote (s : State) (slot : Nat) : deviceWrote s (s.mirror slot) :=
  foldl_keeps (fun t => deviceWrote s t) _ _ _ (deviceWrite_is s _ _) fun _ _ ht =>
    foldl_keeps (fun t => deviceWrote s t) _ _ _ (ht.trans (deviceWrite_is _ _ _)) fun _ _ hu => hu.trans (deviceWrite_is _ _ _)

/-! ## What the node engine changes -/

/-- `t` is `s` but for KV space and what writes of the device's own units change. -/
def treeOnly (s t : State) : Prop := ∃ kv m c o f, t = { s with kv := kv, mem := m, cores := c, out := o, fab := f }

theorem treeOnly.refl (s : State) : treeOnly s s := ⟨s.kv, s.mem, s.cores, s.out, s.fab, rfl⟩

theorem treeOnly.trans {s t u : State} (h : treeOnly s t) (g : treeOnly t u) : treeOnly s u := by
  obtain ⟨kv, m, c, o, f, rfl⟩ := h
  obtain ⟨kv', m', c', o', f', rfl⟩ := g
  exact ⟨kv', m', c', o', f', rfl⟩

theorem treeOnly_of_wrote {s t : State} (h : deviceWrote s t) : treeOnly s t := by
  obtain ⟨m, c, o, f, rfl⟩ := h
  exact ⟨s.kv, m, c, o, f, rfl⟩

theorem treeOnly_modKv (s : State) (f : Kv → Kv) : treeOnly s (s.modKv f) := ⟨f s.kv, s.mem, s.cores, s.out, s.fab, rfl⟩

theorem treeOnly.teams {s t : State} (h : treeOnly s t) : t.teams = s.teams := by obtain ⟨kv, m, c, o, f, rfl⟩ := h; rfl

theorem treeOnly.sched {s t : State} (h : treeOnly s t) : t.sched = s.sched := by obtain ⟨kv, m, c, o, f, rfl⟩ := h; rfl

theorem treeOnly.eng {s t : State} (h : treeOnly s t) : t.eng = s.eng := by obtain ⟨kv, m, c, o, f, rfl⟩ := h; rfl

theorem treeOnly.path {s t : State} (h : treeOnly s t) (key pi : Nat) : t.path key pi = s.path key pi := by
  rw [State.path, State.team, h.teams]; rfl

theorem treeOnly.foldl {α : Type} {f : State → α → State} (hf : ∀ s a, treeOnly s (f s a)) (as : List α) (s : State) :
    treeOnly s (as.foldl f s) :=
  foldl_keeps (fun t => treeOnly s t) f as s (.refl s) (fun t a ht => ht.trans (hf t a))

theorem putSlot_treeOnly (s : State) (n : Nat) (k : Slot) : treeOnly s (s.putSlot n k) :=
  (treeOnly_modKv s _).trans (treeOnly_of_wrote (mirror_wrote _ _))

theorem putSlot_kv (s : State) (n : Nat) (k : Slot) : (s.putSlot n k).kv = { s.kv with slots := AMap.insert n k s.kv.slots } :=
  (mirror_wrote _ _).kv

theorem putSlot_slot (s : State) (n j : Nat) (k : Slot) : (s.putSlot n k).slot j = if j = n then k else s.slot j :=
  slot_of_insert (congrArg Kv.slots (putSlot_kv s n k)) j

theorem mirror_slot (s : State) (n j : Nat) : (s.mirror n).slot j = s.slot j := slot_of_slots (congrArg Kv.slots (mirror_wrote s n).kv) j

theorem dropKv_slot (s : State) (n j : Nat) : (s.dropKv n).slot j = s.slot j := rfl

/-! ## Free lists, counts and maps -/

theorem setFree_free (k : Kv) (die : Nat) (l : List Nat) : (k.setFree die l).free die = l := by
  unfold Kv.setFree Kv.free
  split <;> simp_all

theorem setFree_slots (k : Kv) (die : Nat) (l : List Nat) : (k.setFree die l).slots = k.slots := by
  unfold Kv.setFree; split <;> rfl

/-- KV space but for the slots, the count words and the free lists. -/
def Kv.rest (k : Kv) : Kv := { k with slots := [], counts := [], free0 := [], free1 := [] }

theorem setCount_rest (k : Kv) (f : Nat) (w : BitVec 32) : (k.setCount f w).rest = k.rest := rfl

theorem setFree_rest (k : Kv) (die : Nat) (l : List Nat) : (k.setFree die l).rest = k.rest := by
  unfold Kv.setFree; split <;> rfl

theorem kvbase_of_rest {k k' : Kv} (h : k'.rest = k.rest) : k'.kvbase = k.kvbase := by
  have hbase : k'.rest.kvbase = k.rest.kvbase := by rw [h]
  exact hbase

theorem lowWater_is (s : State) (a b : Nat) : ∃ o, s.lowWater a b = { s with out := o } := by
  unfold State.lowWater
  dsimp only
  split
  · exact ⟨_, rfl⟩
  · exact ⟨s.out, rfl⟩

/-- An allocation takes the frame on top of the die's list (R140). -/
theorem popFree_is {s t : State} {die f : Nat} {w : BitVec 32} (h : s.popFree die w = some (t, f)) :
    ∃ fs o, s.kv.free die = f :: fs ∧ t = { s with kv := (s.kv.setCount f w).setFree die fs, out := o } := by
  unfold State.popFree at h
  split at h
  · cases h
  · next g fs hfree =>
    obtain ⟨o, ho⟩ := lowWater_is (s.modKv (fun k => (k.setCount g w).setFree die fs)) (fs.length + 1) fs.length
    rw [ho] at h
    cases h
    exact ⟨fs, o, hfree, rfl⟩

theorem popFree_cons {s : State} {die f : Nat} {fs : List Nat} (h : s.kv.free die = f :: fs) (w : BitVec 32) :
    ∃ o, s.popFree die w = some ({ s with kv := (s.kv.setCount f w).setFree die fs, out := o }, f) := by
  obtain ⟨o, ho⟩ := lowWater_is (s.modKv (fun k => (k.setCount f w).setFree die fs)) (fs.length + 1) fs.length
  refine ⟨o, ?_⟩
  unfold State.popFree
  rw [h]
  dsimp only
  rw [ho]
  rfl

theorem popFree_nil {s : State} {die : Nat} (h : s.kv.free die = []) (w : BitVec 32) : s.popFree die w = none := by
  unfold State.popFree; rw [h]

/-- A node takes a map, with blocks and map frames of the slot: KV space has changed in nothing else but counts and free lists. -/
def mapTaken (s t : State) (slot n : Nat) (m : List MapEnt) : Prop :=
  (∃ kv o, t = { s with kv := kv, out := o }) ∧ t.kv.rest = s.kv.rest ∧
    ∃ bs fs, ∀ j, t.slot j = if j = slot then
        { (s.slot slot).setNode n { (s.slot slot).node n with map := m, blocks := bs } with mapFrames := fs } else s.slot j

/-- A map that is put in, where the slot has changed in its map frames at most. -/
theorem mapTaken_put {s u : State} {slot n : Nat} {m : List MapEnt} {fs : List Nat} (bs : List Nat)
    (hu : ∃ kv o, u = { s with kv := kv, out := o }) (hrest : u.kv.rest = s.kv.rest)
    (hslot : ∀ j, u.slot j = if j = slot then { s.slot slot with mapFrames := fs } else s.slot j) :
    mapTaken s (u.modKv (fun kv => { kv with
      slots := AMap.insert slot ((u.slot slot).setNode n { (s.slot slot).node n with map := m, blocks := bs }) kv.slots })) slot n m := by
  refine ⟨?_, hrest, bs, fs, fun j => ?_⟩
  · obtain ⟨kv, o, rfl⟩ := hu; exact ⟨_, o, rfl⟩
  · rw [slot_of_insert (s := u) rfl, hslot slot, if_pos rfl]
    split
    · rfl
    · next h => rw [hslot, if_neg h]

/-- What a node's new map changes (R146). -/
theorem setMap_taken {s t : State} {slot n : Nat} {m : List MapEnt} (h : s.setMap slot n m = some t) : mapTaken s t slot n m := by
  have hhere : ∀ j, s.slot j = if j = slot then { s.slot slot with mapFrames := (s.slot slot).mapFrames } else s.slot j := by
    intro j; split
    · next hj => rw [hj]
    · rfl
  unfold State.setMap at h
  dsimp only at h
  split at h
  · cases h; exact mapTaken_put _ ⟨s.kv, s.out, rfl⟩ rfl hhere
  · split at h
    · cases h; exact mapTaken_put _ ⟨s.kv, s.out, rfl⟩ rfl hhere
    · split at h
      · cases h
      · next u f hpop =>
        obtain ⟨fs, o, -, hu⟩ := popFree_is hpop
        have hslot : ∀ j, u.slot j = s.slot j := slot_of_slots (by rw [hu]; exact setFree_slots _ _ _)
        have hrest : u.kv.rest = s.kv.rest := by rw [hu]; exact setFree_rest _ _ _
        cases h
        refine mapTaken_put (fs := (s.slot slot).mapFrames ++ [f]) _ (by rw [hu]; exact ⟨_, o, rfl⟩) hrest fun j => ?_
        rw [slot_of_insert (s := u) rfl, hslot, hslot]

/-- A node takes a map while its die's free list holds a frame for the blocks. -/
theorem setMap_some {s : State} {slot : Nat} (h : s.kv.free (slot % 2) ≠ []) (n : Nat) (m : List MapEnt) : ∃ t, s.setMap slot n m = some t := by
  unfold State.setMap
  dsimp only
  split
  · exact ⟨_, rfl⟩
  · split
    · exact ⟨_, rfl⟩
    · cases hfree : s.kv.free (slot % 2) with
      | nil => exact absurd hfree h
      | cons f fs =>
        obtain ⟨o, hpop⟩ := popFree_cons hfree 0x90000#32
        rw [hpop]
        exact ⟨_, rfl⟩

/-! ## References that go (R150, R156, R158) -/

/-- A team with the bytes of its version that pass a test. -/
def Team.keepWrites (p : Nat × Byte → Bool) (t : Team) : Team := { t with version := t.version.filter p }

/-- The teams, resident and saved, with the bytes of their versions that pass a test. -/
def State.keepWrites (p : Nat × Byte → Bool) (s : State) : State :=
  { s with
    teams := s.teams.map (fun e => (e.1, e.2.keepWrites p)),
    sched := { s.sched with saved := s.sched.saved.map (fun e => (e.1, e.2.1, e.2.2.map (Team.keepWrites p))) } }

theorem Team.keepWrites_true (t : Team) : t.keepWrites (fun _ => true) = t := by simp [Team.keepWrites]

theorem Team.keepWrites_keepWrites (p q : Nat × Byte → Bool) (t : Team) :
    (t.keepWrites p).keepWrites q = t.keepWrites (fun b => q b && p b) := by
  simp [Team.keepWrites, List.filter_filter]

theorem keepWrites_true (s : State) : s.keepWrites (fun _ => true) = s := by
  have hteam : Team.keepWrites (fun _ => true) = id := funext Team.keepWrites_true
  simp [State.keepWrites, hteam]

theorem keepWrites_keepWrites (p q : Nat × Byte → Bool) (s : State) :
    (s.keepWrites p).keepWrites q = s.keepWrites (fun b => q b && p b) := by
  simp [State.keepWrites, List.map_map, Function.comp_def, Team.keepWrites_keepWrites]

/-- `t` is `s` but for KV space outside its slots and for bytes of versions that are cancelled. -/
def unrefs (s t : State) : Prop := ∃ kv p, t = { s.keepWrites p with kv := kv } ∧ kv.slots = s.kv.slots ∧ kv.rest = s.kv.rest

theorem unrefs.refl (s : State) : unrefs s s := ⟨s.kv, fun _ => true, by rw [keepWrites_true], rfl, rfl⟩

theorem unrefs.trans {s t u : State} (h : unrefs s t) (g : unrefs t u) : unrefs s u := by
  obtain ⟨kv, p, rfl, hslots, hrest⟩ := h
  obtain ⟨kv', p', rfl, hslots', hrest'⟩ := g
  refine ⟨kv', fun b => p' b && p b, ?_, hslots'.trans hslots, hrest'.trans hrest⟩
  rw [← keepWrites_keepWrites]
  rfl

theorem unrefs.foldl {α : Type} {f : State → α → State} (hf : ∀ s a, unrefs s (f s a)) (as : List α) (s : State) :
    unrefs s (as.foldl f s) :=
  foldl_keeps (fun t => unrefs s t) f as s (.refl s) (fun t a ht => ht.trans (hf t a))

theorem unrefs.slot {s t : State} (h : unrefs s t) (j : Nat) : t.slot j = s.slot j := by
  obtain ⟨kv, p, rfl, hslots, -⟩ := h
  exact slot_of_slots hslots j

theorem pushFree_unrefs (s : State) (f : Nat) : unrefs s (s.pushFree f) :=
  ⟨(s.pushFree f).kv, fun _ => true, by rw [keepWrites_true]; rfl, setFree_slots _ _ _, setFree_rest _ _ _⟩

theorem unref_unrefs (s : State) (f : Nat) : unrefs s (s.unref f) := by
  unfold State.unref
  dsimp only
  split
  · exact (pushFree_unrefs s f).trans ⟨(s.pushFree f).kv, fun b => frameOf b.1 != f, rfl, rfl, rfl⟩
  · exact ⟨(s.modKv (fun k => k.setCount f (s.kv.count f - 1))).kv, fun _ => true, by rw [keepWrites_true]; rfl, rfl, rfl⟩

/-- Teams keep everything but bytes of their versions. -/
theorem keepWrites_cut (s : State) (p : Nat × Byte → Bool) : onlyVersionsCut s (s.keepWrites p) := fun key tm h =>
  ⟨tm.keepWrites p, (AMap.find_map (Team.keepWrites p) s.teams key).trans (by rw [show AMap.find s.teams key = some tm from h]; rfl), rfl,
    fun _ hx => (List.mem_filter.1 hx).1⟩

theorem onlyVersionsCut_of_teams {s t u : State} (h : onlyVersionsCut s t) (hu : u.teams = t.teams) : onlyVersionsCut s u := by
  intro key tm htm
  rw [show u.team key = t.team key by rw [State.team, hu]; rfl]
  exact h key tm htm

theorem unrefs.cut {s t : State} (h : unrefs s t) : onlyVersionsCut s t := by
  obtain ⟨kv, p, rfl, -, -⟩ := h
  exact keepWrites_cut s p

/-! ## The ends of prunes and retirements -/

theorem lockedPa_nil {s : State} (h : s.eng.locks = []) (lo hi : Nat) (b : Bool) : s.lockedPa lo hi b = false := by
  rw [State.lockedPa, State.locked, h]; rfl

/-- References go, and then a slot is replaced. -/
def freesThenPuts (s t : State) (slot : Nat) (k : Slot) : Prop :=
  ∃ u, unrefs s u ∧ treeOnly u t ∧ ∀ j, t.slot j = if j = slot then k else s.slot j

theorem freesThenPuts_putSlot {s u : State} (h : unrefs s u) (slot : Nat) (k : Slot) : freesThenPuts s (u.putSlot slot k) slot k :=
  ⟨u, h, putSlot_treeOnly u slot k, fun j => by rw [putSlot_slot, h.slot]⟩

theorem freesThenPuts.cut {s t : State} {slot : Nat} {k : Slot} (h : freesThenPuts s t slot k) : onlyVersionsCut s t := by
  obtain ⟨u, hu, ht, -⟩ := h
  exact onlyVersionsCut_of_teams hu.cut ht.teams

/-- A slot that a retirement has freed. -/
def Slot.released (k : Slot) : Slot :=
  { Slot.blank with gen := k.gen, rebuilds := k.rebuilds, rel := k.rel, nodes := k.nodes.map (fun e => (e.1, Node.blank)) }

/-- A slot whose dead nodes are free. -/
def Slot.deadFreed (k : Slot) : Slot := { k with nodes := k.nodes.map (fun e => if e.2.state == 2 then (e.1, Node.blank) else e) }

theorem released_node (k : Slot) (n : Nat) : k.released.node n = Node.blank :=
  node_map (k := k) (g := fun e => (e.1, Node.blank)) (fun _ => rfl) rfl n rfl

theorem deadFreed_node (k : Slot) (n : Nat) : k.deadFreed.node n = if (k.node n).state = 2 then Node.blank else k.node n := by
  have h := node_map (k := k) (k' := k.deadFreed) (g := fun e => if e.2.state == 2 then (e.1, Node.blank) else e)
    (fun e => by split <;> rfl) rfl n rfl
  rw [h]
  dsimp only
  by_cases h2 : (k.node n).state = 2
  · rw [if_pos h2, if_pos (beq_iff_eq.2 h2)]
  · rw [if_neg h2, if_neg (mt beq_iff_eq.1 h2)]

theorem releaseSlot_frees {s : State} {slot : Nat} (hlocks : s.eng.locks = []) (h2 : (s.slot slot).state = 2) :
    freesThenPuts s (s.releaseSlot slot) slot (s.slot slot).released := by
  have hfree : ∀ l : List Nat, l.any (fun f => s.lockedPa (f * 0x10000) ((f + 1) * 0x10000) false) = false := fun l =>
    List.any_eq_false.2 fun f _ => by rw [lockedPa_nil hlocks]; exact Bool.false_ne_true
  unfold State.releaseSlot
  dsimp only
  rw [if_neg (by rw [hfree]; simp [h2])]
  exact freesThenPuts_putSlot ((unrefs.foldl unref_unrefs _ s).trans (unrefs.foldl pushFree_unrefs _ _)) slot _

theorem releaseDead_frees {s : State} (hlocks : s.eng.locks = []) (slot : Nat) :
    freesThenPuts s (s.releaseDead slot) slot (s.slot slot).deadFreed := by
  have hfree : ∀ l : List Nat, l.any (fun f => s.lockedPa (f * 0x10000) ((f + 1) * 0x10000) false) = false := fun l =>
    List.any_eq_false.2 fun f _ => by rw [lockedPa_nil hlocks]; exact Bool.false_ne_true
  unfold State.releaseDead
  dsimp only
  rw [if_neg (by rw [hfree]; exact Bool.false_ne_true)]
  exact freesThenPuts_putSlot (unrefs.foldl unref_unrefs _ s) slot _

end Sys2Proof.Machine
end

section
/-! SUPPORT. The pool of KV frames: KVBASE, donations, reclaims and KVFRD (R140, R141, R148). -/
namespace Sys2Proof.Machine

/-! ## Count words and free lists after a change -/

theorem count_setCount_pos (k : Kv) (f : Nat) {w : BitVec 32} (hw : w ≠ 0) (g : Nat) :
    (k.setCount f w).count g = if g = f then w else k.count g := by
  rw [Kv.count, Kv.setCount, Tab.get, Tab.set, if_neg hw, AMap.find_insert]
  split
  · rfl
  · rfl

theorem count_setCount {k : Kv} (h : Tab.wf 0 k.counts = true) (f : Nat) (w : BitVec 32) (g : Nat) :
    (k.setCount f w).count g = if g = f then w else k.count g := Tab.get_set 0 _ (Tab.wf_rising h) f g w

theorem setFree_count (k : Kv) (die : Nat) (l : List Nat) (g : Nat) : (k.setFree die l).count g = k.count g := by
  unfold Kv.setFree; split <;> rfl

theorem setFree_counts (k : Kv) (die : Nat) (l : List Nat) : (k.setFree die l).counts = k.counts := by
  unfold Kv.setFree; split <;> rfl

theorem setCount_free (k : Kv) (f : Nat) (w : BitVec 32) (die : Nat) : (k.setCount f w).free die = k.free die := rfl

theorem setFree_free_other (k : Kv) {die d : Nat} (h : die = 0 ↔ d ≠ 0) (l : List Nat) : (k.setFree die l).free d = k.free d := by
  unfold Kv.setFree Kv.free
  by_cases hd : d = 0
  · rw [if_neg (fun h0 => h.1 h0 hd), if_pos hd, if_pos hd]
  · rw [if_pos (h.2 hd), if_neg hd, if_neg hd]

/-! ## Paths that replay -/

theorem replay_freed (which : Hold → Bool) (p : Path) : freed which p (p.replay which) := by
  unfold freed Path.replay
  cases p.park with
  | none => rfl
  | some k =>
    by_cases hk : which k.hold = true
    · rw [if_pos (by simpa using hk)]; exact if_pos hk
    · rw [if_neg (by simpa using hk)]; exact if_neg hk

/-- A team whose paths replay, in its path table and in the block that its handler keeps. -/
def Team.replay (which : Hold → Bool) (t : Team) : Team :=
  { t with paths := replayPaths which t.paths, handler := t.handler.map (fun h => { h with saved := replayPaths which h.saved }) }

theorem replayHeld_teams (s : State) (which : Hold → Bool) :
    (s.replayHeld which).teams = s.teams.map (fun e => (e.1, e.2.replay which)) := rfl

theorem replayHeld_path {s : State} {k pi : Nat} {p : Path} (h : s.path k pi = some p) (which : Hold → Bool) :
    (s.replayHeld which).path k pi = some (p.replay which) := by
  obtain ⟨tm, htm, hp⟩ := Option.bind_eq_some_iff.1 h
  have hteam : (s.replayHeld which).team k = some (tm.replay which) := by
    rw [State.team, replayHeld_teams, AMap.find_map (Team.replay which), show AMap.find s.teams k = some tm from htm]; rfl
  rw [State.path, hteam]
  exact (AMap.find_map (Path.replay which) tm.paths pi).trans (by rw [hp]; rfl)

/-! ## The registers of the pool -/

theorem kvbaseWrite_takes {s : State} (hd : s.dev.deaf = false) {v : BitVec 64} (hv : v.toNat % 2 ^ 16 = 0)
    (hslots : ∀ e ∈ s.kv.slots, e.2.state = 0) : exec (.kvbaseWrite v) s = .next { s with kv := { s.kv with kvbase := v } } := by
  have hnone : s.kv.slots.any (fun e => e.2.state != 0) = false := List.any_eq_false.2 fun e he => by simp [hslots e he]
  rw [exec_kvbaseWrite, execKvbaseWrite, onLink_heard hd, hnone, if_neg (by simpa using hv)]
  rfl

theorem kvbaseWrite_ignored {s : State} (hd : s.dev.deaf = false) {v : BitVec 64}
    (h : v.toNat % 2 ^ 16 ≠ 0 ∨ ∃ e ∈ s.kv.slots, e.2.state ≠ 0) : exec (.kvbaseWrite v) s = .next s := by
  rw [exec_kvbaseWrite, execKvbaseWrite, onLink_heard hd, if_pos]
  rw [Bool.or_eq_true, List.any_eq_true]
  rcases h with h | ⟨e, he, hs⟩
  · exact .inr (by simpa using h)
  · exact .inl ⟨e, he, by simpa using hs⟩

theorem donationRefused_iff (s : State) (f : Nat) : donationRefused s f = true ↔
    s.dev.limit ≤ f * 2 ^ 16 ∨ (s.mem.frameByte f).getLsbD 0 = true ∨ (s.kv.count f).getLsbD 19 = true := by
  have hframe : frameOf (f * 0x10000) = f := Nat.mul_div_cancel f (by decide)
  rw [donationRefused, Memory.isTable, hframe, Bool.or_eq_true, Bool.or_eq_true, decide_eq_true_eq, or_assoc]
  rfl

theorem kvDonate_takes {s : State} (hd : s.dev.deaf = false) {v : BitVec 64} {f : Nat} (hf : f = v.toNat % 2 ^ 24)
    (h : ¬ donationRefused s f = true) :
    exec (.kvDonate v) s = .next ((s.pushFree f).replayHeld (fun h => h == .freeFrame (dieOfPa (f * 2 ^ 16)))) := by
  rw [exec_kvDonate, execKvDonate, onLink_heard hd, bits_low, ← hf]
  exact congrArg Host.Outcome.next (if_neg h)

theorem kvDonate_refused {s : State} (hd : s.dev.deaf = false) {v : BitVec 64} {f : Nat} (hf : f = v.toNat % 2 ^ 24)
    (h : donationRefused s f = true) : exec (.kvDonate v) s = .next { s with kv := { s.kv with err := true } } := by
  rw [exec_kvDonate, execKvDonate, onLink_heard hd, bits_low, ← hf]
  exact congrArg Host.Outcome.next (if_pos h)

/-- What a frame given back to the pool changes of the pool (R140, R141). -/
theorem pushFree_pool (s : State) (f : Nat) : (s.pushFree f).kv.free (dieOfPa (f * 2 ^ 16)) = f :: s.kv.free (dieOfPa (f * 2 ^ 16)) ∧
    (∀ g, (s.pushFree f).kv.count g = if g = f then 0xC0000 else s.kv.count g) ∧ (s.pushFree f).kv.err = s.kv.err := by
  refine ⟨setFree_free _ _ _, fun g => (setFree_count _ _ _ g).trans (count_setCount_pos _ f (by decide) g), ?_⟩
  have hrest : (s.pushFree f).kv.rest = s.kv.rest := setFree_rest (s.kv.setCount f 0xC0000#32) _ _
  show (s.pushFree f).kv.rest.err = s.kv.rest.err
  rw [hrest]

theorem pushFree_free_other (s : State) (f : Nat) {d : Nat} (hd : dieOfPa (f * 2 ^ 16) = 0 ↔ d ≠ 0) :
    (s.pushFree f).kv.free d = s.kv.free d := setFree_free_other _ hd _

theorem die_lt_two {s : State} {f : Nat} (h : f * 2 ^ 16 < s.dev.limit) : dieOfPa (f * 2 ^ 16) < 2 := by
  have hlimit : s.dev.limit ≤ 0x9000000000 := by unfold Dev.limit; split <;> decide
  unfold dieOfPa
  omega

theorem kvReclaim_takes {s : State} (hd : s.dev.deaf = false) {v : BitVec 64} {g : Nat} {gs : List Nat}
    (h : s.kv.free (v.toNat % 2) = g :: gs) : ∃ o, exec (.kvReclaim v) s = .next
      { s with kv := { ((s.kv.setCount g 0).setFree (v.toNat % 2) gs) with reclaimed := some g }, out := o } := by
  obtain ⟨o, hpop⟩ := popFree_cons h 0
  refine ⟨o, ?_⟩
  rw [exec_kvReclaim, execKvReclaim, onLink_heard hd, bits_low]
  show Host.Outcome.next (match s.popFree (v.toNat % 2) 0 with | none => _ | some (s1, f) => _) = _
  rw [hpop]
  rfl

theorem kvReclaim_none {s : State} (hd : s.dev.deaf = false) {v : BitVec 64} (h : s.kv.free (v.toNat % 2) = []) :
    exec (.kvReclaim v) s = .next { s with kv := { s.kv with reclaimed := none } } := by
  rw [exec_kvReclaim, execKvReclaim, onLink_heard hd, bits_low]
  show Host.Outcome.next (match s.popFree (v.toNat % 2) 0 with | none => _ | some (s1, f) => _) = _
  rw [popFree_nil h]
  rfl

theorem kvfrdWrite_takes {s : State} (hd : s.dev.deaf = false) (v : BitVec 64) :
    exec (.kvfrdWrite v) s = .next { s with kv := { s.kv with kvfrd := .ofNat 24 v.toNat } } := by
  rw [exec_kvfrdWrite, execKvfrdWrite, onLink_heard hd, State.modKv,
    show v.extractLsb' 0 24 = .ofNat 24 v.toNat by simp [BitVec.extractLsb']]

/-- R140, R141, R148: the pool. -/
theorem kvPool : Says.KvPool := by
  intro s v hd f die bad
  refine ⟨kvbaseWrite_takes hd, kvbaseWrite_ignored hd, fun hgood => ?_, fun hbad => kvDonate_refused hd rfl ((donationRefused_iff s f).2 hbad),
    fun g gs hfree hwf => ?_, kvReclaim_none hd, kvfrdWrite_takes hd v⟩
  · obtain ⟨hpush, hcount, herr⟩ := pushFree_pool s f
    have hdie : die < 2 := die_lt_two (Nat.lt_of_not_le fun h => hgood (.inl h))
    refine ⟨_, kvDonate_takes hd rfl (mt (donationRefused_iff s f).1 hgood), rfl, hpush, fun d hd2 hne => ?_, setFree_slots _ _ _, herr,
      hcount, fun k pi p hp => ⟨_, replayHeld_path (s := s.pushFree f) hp _, replay_freed _ p⟩⟩
    exact pushFree_free_other s f (by omega)
  · obtain ⟨o, hexec⟩ := kvReclaim_takes hd hfree
    refine ⟨_, hexec, rfl, rfl, setFree_free _ _ _, ?_, rfl, fun x => ?_⟩
    · exact setFree_free_other (s.kv.setCount g 0) (by omega) gs
    · exact (setFree_count _ _ _ x).trans (count_setCount hwf g 0 x)

end Sys2Proof.Machine
end

section
/-! SUPPORT. Rebuilds of KV frames, and what PRUNE_RELEASE frees (R156, R158, R160). -/
namespace Sys2Proof.Machine

/-! ## The start of a rebuild -/

theorem treeOnly_of_translated {s t : State} (h : translated s t) : treeOnly s t := by
  obtain ⟨m, c, o, rfl⟩ := h
  exact ⟨s.kv, m, c, o, s.fab, rfl⟩

theorem translated_kv {s t : State} (h : translated s t) : t.kv = s.kv := by obtain ⟨m, c, o, rfl⟩ := h; rfl

theorem stampFrame_translated (s : State) (f pts : Nat) : translated s (s.stampFrame f pts) :=
  (obtainFrame_translated s f).trans ⟨_, (s.obtainFrame f).cores, (s.obtainFrame f).out, rfl⟩

theorem zeroFrame_translated (s : State) (f pts : Nat) : translated s (s.zeroFrame f pts) :=
  translated.trans (t := { s with mem := { s.mem with bytes := Tab.clear (f * 0x10000) ((f + 1) * 0x10000) s.mem.bytes } })
    ⟨_, s.cores, s.out, rfl⟩ (stampFrame_translated _ f pts)

/-- A frame is marked as being rebuilt (R160, step 1). -/
def State.markRb (s : State) (f : Nat) : State := { s with kv := s.kv.setCount f (s.kv.count f ||| 0x20000) }

/-- A word with RB set is not zero. -/
theorem rb_set (w : BitVec 32) : (w ||| 0x20000#32).getLsbD 17 = true := by
  rw [BitVec.getLsbD_or, show (0x20000#32).getLsbD 17 = true by decide, Bool.or_true]

theorem rb_set_ne (w : BitVec 32) : w ||| 0x20000#32 ≠ 0 := fun h => by
  have := rb_set w
  rw [h] at this
  exact absurd this (by decide)

theorem rb_clear (w : BitVec 32) : (w &&& ~~~0x20000#32).getLsbD 17 = false := by
  rw [BitVec.getLsbD_and, show (~~~0x20000#32).getLsbD 17 = false by decide, Bool.and_false]

theorem failRebuild_slot (s : State) (slot f : Nat) : (s.failRebuild slot f).slot slot =
    { s.slot slot with fail := true, lost := f :: (s.slot slot).lost,
                       rebuilding := (s.slot slot).rebuilding.filter (fun x => x.2.1 != f) } :=
  (putSlot_slot s slot slot _).trans (if_pos rfl)

theorem failRebuild_sched (s : State) (slot f : Nat) : (s.failRebuild slot f).sched = s.sched := (putSlot_treeOnly s slot _).sched

theorem failRebuild_counts (s : State) (slot f : Nat) : (s.failRebuild slot f).kv.counts = s.kv.counts :=
  show (s.putSlot slot _).kv.counts = _ by rw [putSlot_kv]

section Start

variable {s : State} {frame slot plane block : Nat} (hholder : s.frameHolder frame = some (slot, plane, block))
  (hlost : (s.slot slot).lost.contains frame = false)
include hholder hlost

/-- A frame of a slot without a rebuild launch fails the slot. -/
theorem kvRebuildStart_fails (hnone : (s.slot slot).rebuilding = none) (hreg : (s.slot slot).regQueue = none) :
    exec (.kvRebuildStart frame) s = .next ((s.markRb frame).failRebuild slot frame) := by
  rw [exec_kvRebuildStart, execKvRebuildStart, hholder]
  dsimp only
  rw [if_neg (by rw [hnone, hlost]; simp), if_pos (.inr (by rw [hreg]; rfl))]
  rfl

/-- A frame of a slot that rebuilds another frame is marked, and nothing else. -/
theorem kvRebuildStart_marks {x : Nat × Nat × Nat} (hx : (s.slot slot).rebuilding = some x) (hne : x.2.1 ≠ frame) (hplane : plane ≠ 255)
    (hreg : (s.slot slot).regQueue ≠ none) : exec (.kvRebuildStart frame) s = .next (s.markRb frame) := by
  rw [exec_kvRebuildStart, execKvRebuildStart, hholder]
  dsimp only
  rw [if_neg (by rw [hx, hlost]; simp [hne]), if_neg (by simp [hplane, hreg]), if_pos (by rw [hx]; rfl)]
  rfl

/-- A frame of a slot with a rebuild launch is replaced, and the launch is injected. -/
theorem kvRebuildStart_injects (hnone : (s.slot slot).rebuilding = none) (hplane : plane ≠ 255) {q : Nat}
    (hreg : (s.slot slot).regQueue = some q) {s1 t : State} {g : Nat} (hrep : (s.markRb frame).replaceLost slot frame = some (s1, g))
    (hinj : s1.injectRebuild slot plane block frame g q = some t) : exec (.kvRebuildStart frame) s = .next t := by
  rw [exec_kvRebuildStart, execKvRebuildStart, hholder]
  dsimp only
  rw [if_neg (by rw [hnone, hlost]; simp), if_neg (by simp [hplane, hreg]), if_neg (by rw [hnone]; exact Bool.false_ne_true)]
  show Host.Outcome.next ((((s.markRb frame).replaceLost slot frame).bind _).getD _) = _
  rw [hrep, hreg, Option.bind_some, Option.getD_some, hinj]
  rfl

end Start

/-- A frame put in the place of a lost one changes KV space and what writes of the device change. -/
theorem replaceLost_treeOnly {s t : State} {slot f g : Nat} (h : s.replaceLost slot f = some (t, g)) :
    treeOnly s t ∧ t.kv.kvbase = s.kv.kvbase := by
  obtain ⟨⟨u, g'⟩, hpop, heq⟩ := Option.map_eq_some_iff.1 h
  obtain ⟨fs, o, -, rfl⟩ := popFree_is (Option.filter_eq_some_iff.1 hpop).1
  obtain ⟨rfl, rfl⟩ := Prod.mk.inj heq
  generalize hv : ({ s with kv := (s.kv.setCount g' (0xA0000#32 + BitVec.ofNat 32 (s.kv.refc f))).setFree (slot % 2) fs, out := o } : State) = v
  have hsv : treeOnly s v := by rw [← hv]; exact ⟨_, s.mem, s.cores, o, s.fab, rfl⟩
  have hbase : v.kv.kvbase = s.kv.kvbase := by rw [← hv]; exact kvbase_of_rest (setFree_rest _ _ _)
  have hzero := zeroFrame_translated v g' 0
  generalize hz : v.zeroFrame g' 0 = z at *
  constructor
  · exact ((((hsv.trans (treeOnly_of_translated hzero)).trans (treeOnly_modKv _ _)).trans (treeOnly_modKv _ _)).trans
      (treeOnly_of_wrote (dropKv_wrote _ slot))).trans (putSlot_treeOnly _ slot _)
  · rw [putSlot_kv, ← hbase, ← translated_kv hzero]
    rfl

/-- Step 3 of a rebuild up to its launch: the record is numbered and written (R160, R161). -/
def State.recordRebuild (s : State) (slot plane block f g : Nat) : State :=
  let k := { s.slot slot with rebuilds := (s.slot slot).rebuilds + 1 }
  (s.putSlot slot k).deviceWrite (s.recordAt slot) (rebuildRecord k slot plane block f g)

theorem recordRebuild_treeOnly (s : State) (slot plane block f g : Nat) : treeOnly s (s.recordRebuild slot plane block f g) :=
  (putSlot_treeOnly s slot _).trans (treeOnly_of_wrote (deviceWrite_is _ _ _))

theorem recordRebuild_kvbase (s : State) (slot plane block f g : Nat) : (s.recordRebuild slot plane block f g).kv.kvbase = s.kv.kvbase := by
  rw [State.recordRebuild, deviceWrote.kv (deviceWrite_is _ _ _), putSlot_kv]

theorem addLaunch_is {s : State} {n : Nat} (h : AMap.freeBelow s.sched.launches 4096 = some n) (l : Launch) :
    ∃ t, s.addLaunch l = some (t, n) ∧ t.launch n = some { l with order := s.sched.dispCount } := by
  refine ⟨_, by rw [State.addLaunch, h]; rfl, ?_⟩
  exact AMap.find_insert_same _ _ _

/-- The registered launch enters the dispatcher as an RT launch that has begun, with the record's address (R160, step 3). -/
theorem injectRebuild_enters {s u : State} {slot plane block f g q n : Nat} {d : Kdesc}
    (hwaits : (s.recordRebuild slot plane block f g).checkWaits (qctlAsid (s.queue q)) (s.slot slot).image = false)
    (hcheck : (s.recordRebuild slot plane block f g).checkLaunch (qctlAsid (s.queue q)) false (s.slot slot).image = (u, .ok d))
    (hn : AMap.freeBelow u.sched.launches 4096 = some n) :
    ∃ t l, s.injectRebuild slot plane block f g q = some t ∧ (t.slot slot).rebuilding = some (f, g, n) ∧ t.launch n = some l ∧
      l.rebuild = some slot ∧ l.rt = true ∧ l.begun = true ∧ l.k = d ∧ l.queue = q ∧
      l.args = .ofNat 64 (s.kv.kvbase.toNat + 0x40000 + slot * 64) := by
  have hqueue : (s.recordRebuild slot plane block f g).queue q = s.queue q := by
    rw [State.queue, (recordRebuild_treeOnly s slot plane block f g).sched]; rfl
  have hbase : u.kv.kvbase = s.kv.kvbase := by
    have htr := checkLaunch_translated (s.recordRebuild slot plane block f g) (qctlAsid (s.queue q)) false (s.slot slot).image
    rw [hcheck] at htr
    rw [translated_kv htr, recordRebuild_kvbase]
  obtain ⟨t, hadd, hl⟩ := addLaunch_is hn
    { newLaunch q (u.queue q) none (s.slot slot).image d 0 with
      rt := true, begun := true, rebuild := some slot, args := BitVec.ofNat 64 (u.recordAt slot) }
  refine ⟨t.putSlot slot { t.slot slot with rebuilding := some (f, g, n) }, _, ?_, ?_,
    by rw [State.launch, (putSlot_treeOnly _ _ _).sched]; exact hl, rfl, rfl, rfl, rfl, rfl, ?_⟩
  · rw [← hqueue] at hwaits hcheck
    unfold State.injectRebuild
    rw [State.recordRebuild] at *
    dsimp only at *
    rw [if_neg (by rw [hwaits]; exact Bool.false_ne_true), hcheck]
    dsimp only
    rw [hadd]
    rfl
  · rw [putSlot_slot, if_pos rfl]
  · show BitVec.ofNat 64 (u.kv.kvbase.toNat + 0x40000 + slot * 64) = _
    rw [hbase]

/-! ## The end of a rebuild -/

/-- The rebuild of a slot's frame has ended well: RB clears, and what was parked replays (R160). -/
def State.rebuilt (s : State) (slot g : Nat) : State :=
  (({ s with kv := s.kv.setCount g (s.kv.count g &&& ~~~0x20000#32) } : State).putSlot slot
    { s.slot slot with rebuilding := none }).replayHeld (fun x => x == Hold.kvRebuilding)

theorem rebuilt_slot (s : State) (slot g : Nat) : (s.rebuilt slot g).slot slot = { s.slot slot with rebuilding := none } :=
  (putSlot_slot _ slot slot _).trans (if_pos rfl)

theorem rebuilt_sched (s : State) (slot g : Nat) : (s.rebuilt slot g).sched = s.sched := (putSlot_treeOnly _ slot _).sched

theorem rebuilt_count {s : State} (hwf : Tab.wf 0 s.kv.counts = true) (slot g : Nat) :
    (s.rebuilt slot g).kv.count g = s.kv.count g &&& ~~~0x20000#32 := by
  show (State.putSlot _ slot _).kv.count g = _
  rw [putSlot_kv]
  exact (count_setCount hwf g _ g).trans (if_pos rfl)

section Ends

variable {s : State} {slot h : Nat} {l : Launch} (hls : s.sched.launches = [(h, l)])
include hls

theorem kvRebuildEnd_waits (hover : s.launchOver h l = false) : exec (.kvRebuildEnd slot) s = .next s := by
  rw [exec_kvRebuildEnd, execKvRebuildEnd, hls, List.find?_cons_of_neg (by simp [hover])]
  rfl

/-- The only launch, which is over, leaves the dispatcher, and its slot's rebuild has ended or has failed. -/
theorem kvRebuildEnd_ends (hreb : l.rebuild = some slot) (hover : s.launchOver h l = true) {f g : Nat} (hr : (s.slot slot).rebuilding = some (f, g, h)) :
    exec (.kvRebuildEnd slot) s = .next (
      if l.failed.isSome ∨ l.cancelled = true then
        ({ s with sched := { s.sched with launches := [] } } : State).failRebuild slot g
      else ({ s with sched := { s.sched with launches := [] } } : State).rebuilt slot g) := by
  have hslot : ({ s with sched := { s.sched with launches := [] } } : State).slot slot = s.slot slot := rfl
  rw [exec_kvRebuildEnd, execKvRebuildEnd, hls, List.find?_cons_of_pos (by simp [hover, hreb])]
  dsimp only
  rw [show AMap.erase h [(h, l)] = [] from if_pos rfl, hslot, hr]
  dsimp only
  rw [if_neg (fun hne => hne rfl)]
  rfl

end Ends

/-- R160: what a rebuild launch that is over comes to. -/
theorem rebuildEnds {s : State} {slot h f g : Nat} {l : Launch} (hls : s.sched.launches = [(h, l)]) (hreb : l.rebuild = some slot)
    (hover : s.launchOver h l = true) (hr : (s.slot slot).rebuilding = some (f, g, h)) (hwf : Tab.wf 0 s.kv.counts = true) :
    ∃ t, exec (.kvRebuildEnd slot) s = .next t ∧ t.sched.launches = [] ∧ (t.slot slot).rebuilding = none ∧
      (t.slot slot).nodes = (s.slot slot).nodes ∧
      (l.failed = none → l.cancelled = false → (t.kv.count g).getLsbD 17 = false ∧ (t.slot slot).fail = (s.slot slot).fail) ∧
      (l.failed ≠ none ∨ l.cancelled = true → (t.slot slot).fail = true) := by
  have hexec := kvRebuildEnd_ends hls hreb hover hr
  by_cases hbad : l.failed.isSome ∨ l.cancelled = true
  · rw [if_pos hbad] at hexec
    have hslot := failRebuild_slot { s with sched := { s.sched with launches := [] } } slot g
    refine ⟨_, hexec, congrArg Sched.launches (failRebuild_sched _ slot g), ?_, by rw [hslot]; rfl, fun hf hc => ?_, fun _ => by rw [hslot]⟩
    · rw [hslot]
      show (s.slot slot).rebuilding.filter _ = none
      rw [hr]
      simp
    · rw [hf, hc] at hbad
      simp at hbad
  · rw [if_neg hbad] at hexec
    have hslot := rebuilt_slot { s with sched := { s.sched with launches := [] } } slot g
    refine ⟨_, hexec, congrArg Sched.launches (rebuilt_sched _ slot g), by rw [hslot], by rw [hslot]; rfl,
      fun _ _ => ⟨?_, by rw [hslot]; rfl⟩, fun h => absurd h (by rwa [← Option.isSome_iff_ne_none])⟩
    rw [rebuilt_count (show Tab.wf 0 ({ s with sched := { s.sched with launches := [] } } : State).kv.counts = true from hwf), rb_clear]

/-! ## PRUNE_RELEASE -/

theorem pruneRelease_slot {s : State} {slot : Nat} (h : (s.slot slot).state = 2) :
    exec (.pruneRelease slot) s = .next (s.releaseSlot slot) := by
  rw [exec_pruneRelease, execPruneRelease, if_pos h]

theorem pruneRelease_dead {s : State} {slot : Nat} (h : (s.slot slot).state ≠ 2) (hdead : ∃ e ∈ (s.slot slot).nodes, e.2.state = 2) :
    exec (.pruneRelease slot) s = .next (s.releaseDead slot) := by
  obtain ⟨e, he, h2⟩ := hdead
  have hany : (s.slot slot).nodes.any (fun e => e.2.state == 2) = true := List.any_eq_true.2 ⟨e, he, beq_iff_eq.2 h2⟩
  rw [exec_pruneRelease, execPruneRelease, if_neg h, if_pos hany]

theorem pruneRelease_none {s : State} {slot : Nat} (h : (s.slot slot).state ≠ 2) (hlive : ∀ e ∈ (s.slot slot).nodes, e.2.state ≠ 2) :
    exec (.pruneRelease slot) s = .next s := by
  have hnone : (s.slot slot).nodes.any (fun e => e.2.state == 2) = false := List.any_eq_false.2 fun e he => by simpa using hlive e he
  rw [exec_pruneRelease, execPruneRelease, if_neg h, hnone, if_neg Bool.false_ne_true]

/-- R156, R158, R160: rebuilds, and PRUNE_RELEASE. -/
theorem kvRebuilds : Says.KvRebuilds := by
  refine ⟨fun s frame h => by rw [exec_kvRebuildStart, execKvRebuildStart, h],
    fun s frame slot plane block hholder hnone hlost => ⟨fun hreg => ?_, fun q s1 g s3 d n hreg hplane hrep => ?_⟩,
    fun s frame slot plane block x hholder hx hne hlost hplane hreg hwf => ?_,
    fun s slot h f g h' l hls hreb => ⟨kvRebuildEnd_waits hls, fun hover hr hh hwf => ?_⟩,
    fun s slot hlocks => ⟨fun h2 => ?_, fun h2 hdead => ?_, pruneRelease_none⟩⟩
  · have hslot := failRebuild_slot (s.markRb frame) slot frame
    refine ⟨_, kvRebuildStart_fails hholder hlost hnone hreg, by rw [hslot], ?_, ?_, ?_⟩
    · rw [hslot]
      show (s.slot slot).rebuilding.filter _ = none
      rw [hnone]; rfl
    · rw [Kv.count, failRebuild_counts]
      exact (congrArg (·.getLsbD 17) ((count_setCount_pos s.kv frame (rb_set_ne _) frame).trans (if_pos rfl))).trans (rb_set _)
    · rw [failRebuild_sched]; rfl
  · intro k s2 asid hwaits hcheck hn
    obtain ⟨htree, hbase⟩ := replaceLost_treeOnly hrep
    have hasid : asid = qctlAsid (s1.queue q) := by
      rw [State.queue, htree.sched]; rfl
    rw [hasid] at hwaits hcheck
    obtain ⟨t, l, hinj, hrest⟩ := injectRebuild_enters (f := frame) (g := g) (block := block) (plane := plane) hwaits hcheck hn
    rw [hbase] at hrest
    exact ⟨t, l, kvRebuildStart_injects hholder hlost hnone hplane hreg hrep hinj, hrest⟩
  · exact ⟨_, kvRebuildStart_marks hholder hlost hx hne hplane hreg, rfl, rfl, fun g => by
      rw [show (s.markRb frame).kv.count g = _ from count_setCount hwf frame _ g]
      split
      · next h => rw [h]
      · rfl⟩
  · subst hh
    exact rebuildEnds hls hreb hover hr hwf
  · have hfrees := releaseSlot_frees hlocks h2
    obtain ⟨u, -, -, hslot⟩ := id hfrees
    have hhere := (hslot slot).trans (if_pos rfl)
    refine ⟨_, pruneRelease_slot h2, by rw [hhere]; rfl, by rw [hhere]; rfl, fun n => ?_, fun j hj => (hslot j).trans (if_neg hj), hfrees.cut⟩
    rw [hhere, released_node]; rfl
  · have hfrees := releaseDead_frees hlocks slot
    obtain ⟨u, -, -, hslot⟩ := id hfrees
    have hhere := (hslot slot).trans (if_pos rfl)
    refine ⟨_, pruneRelease_dead h2 hdead, by rw [hhere]; rfl, fun n => ?_, fun j hj => (hslot j).trans (if_neg hj), hfrees.cut⟩
    rw [hhere, deadFreed_node]

/-- Settles O42, from the registers of the pool, and from what begins and ends rebuilds and prunes. -/
theorem kvPoolAndRebuilds : Obligations.KvPoolAndRebuilds := ⟨kvPool, kvRebuilds⟩

end Sys2Proof.Machine
end

section
/-! SUPPORT. The operations on a token tree, each as what it makes of the slots (R142, R144, R153, R156 to R158). -/
namespace Sys2Proof.Machine

/-! ## Opening and forking -/

/-- A slot that an open has taken. -/
def Slot.opened (k : Slot) (asid npl rlog2 rel births : Nat) : Slot :=
  { Slot.blank with
    state := 1, asid := asid, npl := npl, rlog2 := rlog2, gen := k.gen + 1, rebuilds := k.rebuilds, rel := max k.rel rel,
    nodes := [(0, { Node.blank with state := 1, anc := 1, born := births + 1 })] }

theorem opened_trunk (k : Slot) (asid npl rlog2 rel births : Nat) : ((k.opened asid npl rlog2 rel births).node 0).state = 1 ∧
    ((k.opened asid npl rlog2 rel births).node 0).len = 0 := ⟨rfl, rfl⟩

theorem opened_other (k : Slot) (asid npl rlog2 rel births : Nat) {n : Nat} (hn : n ≠ 0) :
    ((k.opened asid npl rlog2 rel births).node n).state = 0 := by
  rw [Slot.node, show AMap.find (k.opened asid npl rlog2 rel births).nodes n = none from if_neg (Ne.symm hn)]
  rfl

theorem treeOpen_done {s : State} {slot : Nat} (h0 : (s.slot slot).state = 0) (hsvc : s.dev.svc = 1 → slot % 2 = 0)
    (asid npl rlog2 rel : Nat) : ∃ t, s.treeOpen slot asid npl rlog2 rel = .done t (BitVec.setWidth 64 ((s.slot slot).gen + 1)) ∧
      treeOnly s t ∧ ∀ j, t.slot j = if j = slot then (s.slot slot).opened asid npl rlog2 rel s.kv.births else s.slot j := by
  refine ⟨(s.modKv (fun kv => { kv with births := kv.births + 1 })).putSlot slot ((s.slot slot).opened asid npl rlog2 rel s.kv.births),
    ?_, (treeOnly_modKv _ _).trans (putSlot_treeOnly _ _ _), fun j => putSlot_slot _ _ _ _⟩
  unfold State.treeOpen
  rw [if_neg (by simp only [h0]; omega)]
  rfl

/-- A node that a fork has taken, before it has a map. -/
def Node.forked (par : Node) (p c births : Nat) : Node :=
  { state := 1, len := 0, start := par.start + par.len, parent := p, anc := par.anc ||| BitVec.twoPow 256 c, map := [], blocks := [],
    born := births + 1 }

theorem ref_slots (s : State) (f : Nat) : (s.ref f).kv.slots = s.kv.slots := rfl

theorem foldl_ref_slot (ents : List MapEnt) (s : State) (j : Nat) : (ents.foldl (fun s e => s.ref e.frame) s).slot j = s.slot j :=
  slot_of_slots (foldl_keeps (fun t => t.kv.slots = s.kv.slots) _ ents s rfl fun t e ht => (ref_slots t e.frame).trans ht) j

theorem foldl_ref_treeOnly (ents : List MapEnt) (s : State) : treeOnly s (ents.foldl (fun s e => s.ref e.frame) s) :=
  treeOnly.foldl (fun _ _ => treeOnly_modKv _ _) ents s

theorem mapTaken.treeOnly {s t : State} {slot n : Nat} {m : List MapEnt} (h : mapTaken s t slot n m) : treeOnly s t := by
  obtain ⟨⟨kv, o, rfl⟩, -⟩ := h
  exact ⟨kv, s.mem, s.cores, o, s.fab, rfl⟩

theorem treeFork_done {s : State} {slot p c : Nat} (hc : c ≠ 0) (hfree : ((s.slot slot).node c).state = 0)
    (hlive : ((s.slot slot).node p).state = 1) (hroom : s.kv.free (slot % 2) ≠ []) (rel : Nat) :
    ∃ t m bs, s.treeFork slot p c rel = .done t 0 ∧ treeOnly s t ∧ (∀ j, j ≠ slot → t.slot j = s.slot j) ∧
      ∀ n, (t.slot slot).node n = if n = c then { ((s.slot slot).node p).forked p c s.kv.births with map := m, blocks := bs }
        else (s.slot slot).node n := by
  unfold State.treeFork
  dsimp only
  rw [if_neg (by simp [hc, hfree, hlive]), if_neg (by simp [hfree])]
  generalize hents : (splitPlanes (s.slot slot) (((s.slot slot).node p).start + ((s.slot slot).node p).len)).filterMap _ = ents
  generalize hs1 : s.modKv _ = s1
  have htree1 : treeOnly s s1 := by rw [← hs1]; exact treeOnly_modKv _ _
  have hfree1 : s1.kv.free (slot % 2) ≠ [] := by rw [← hs1]; exact hroom
  have hslot1 : ∀ j, s1.slot j = if j = slot then { (s.slot slot).setNode c (((s.slot slot).node p).forked p c s.kv.births) with
      rel := max (s.slot slot).rel rel } else s.slot j := by
    rw [← hs1]; exact fun j => slot_of_insert (s := s) rfl j
  obtain ⟨s2, hset⟩ := setMap_some hfree1 c ents
  have htaken := setMap_taken hset
  obtain ⟨-, -, bs, fs, hslot2⟩ := id htaken
  rw [hset]
  have hslot : ∀ j, (((ents.foldl (fun s e => s.ref e.frame) s2).dropKv slot).mirror slot).slot j = s2.slot j := fun j => by
    rw [mirror_slot, dropKv_slot, foldl_ref_slot]
  refine ⟨_, ents, bs, rfl, ?_, fun j hj => ?_, fun n => ?_⟩
  · exact (((htree1.trans htaken.treeOnly).trans (foldl_ref_treeOnly ents s2)).trans (treeOnly_of_wrote (dropKv_wrote _ slot))).trans
      (treeOnly_of_wrote (mirror_wrote _ slot))
  · rw [hslot, hslot2, if_neg hj, hslot1, if_neg hj]
  · rw [hslot, hslot2, if_pos rfl, hslot1, if_pos rfl]
    show ((({ s.slot slot with rel := max (s.slot slot).rel rel } : Slot).setNode c _).setNode c _).node n = _
    rw [setNode_node, setNode_node]
    split
    · rw [show ({ (s.slot slot).setNode c (((s.slot slot).node p).forked p c s.kv.births) with rel := max (s.slot slot).rel rel } : Slot).node c
        = ((s.slot slot).node p).forked p c s.kv.births from (setNode_node _ c c _).trans (if_pos rfl)]
    · rfl

/-! ## Prunes and commits where no team is concerned -/

theorem cancelBound_eq (s : State) (slot : Nat) (hit : Nat → Bool) : s.cancelBound slot hit =
    ((s.teams.filter (fun e => e.2.boundAt slot hit)).foldl (fun s e => s.cancelTeam e.1) s).cancelSaved (fun t => t.boundAt slot hit) := rfl

theorem boundAt_none {t : Team} (h : t.binding = none) (slot : Nat) (hit : Nat → Bool) : t.boundAt slot hit = false := by
  rw [Team.boundAt, h]

theorem cancelBound_none {s : State} (hb : ∀ e ∈ s.teams, e.2.binding = none) (hsaved : s.sched.saved = []) (slot : Nat) (hit : Nat → Bool) :
    s.cancelBound slot hit = s := by
  have hnone : s.teams.filter (fun e => e.2.boundAt slot hit) = [] :=
    List.filter_eq_nil_iff.2 fun e he => by rw [boundAt_none (hb e he)]; exact Bool.false_ne_true
  have hsv : s.savedTeams = [] := by rw [State.savedTeams, hsaved]; rfl
  rw [cancelBound_eq, hnone, List.foldl_nil, State.cancelSaved, hsv]
  rfl

theorem trapHeldOn_none {s : State} {slot : Nat} {hit : Nat → Bool} (hh : ∀ e ∈ s.teams, e.2.heldOn slot hit = [])
    (hsaved : s.sched.saved = []) : s.trapHeldOn slot hit = s := by
  have hfold : ∀ (l : List (Nat × Team)) (u : State), (∀ e ∈ l, e.2.heldOn slot hit = []) → l.foldl (fun s e =>
      (e.2.heldOn slot hit).foldl (fun s h => s.trapError e.1 h.1 .kvUnmapped h.2.1 h.2.2) s) u = u := by
    intro l
    induction l with
    | nil => exact fun u _ => rfl
    | cons e l ih =>
      intro u hl
      rw [List.foldl_cons, hl e List.mem_cons_self, List.foldl_nil]
      exact ih u fun e he => hl e (List.mem_cons_of_mem _ he)
  have hsv : s.savedTeams = [] := by rw [State.savedTeams, hsaved]; rfl
  unfold State.trapHeldOn
  dsimp only
  rw [hfold s.teams s hh, hsv]
  rfl

/-- A path that holds no access on a slot holds none on some of its nodes. -/
theorem heldOn_of_all {t : Team} {slot : Nat} (h : t.heldOn slot (fun _ => true) = []) (hit : Nat → Bool) : t.heldOn slot hit = [] := by
  rw [Team.heldOn, List.filterMap_eq_nil_iff] at *
  intro p hp
  have hall := h p hp
  simp only [Path.heldOn, Option.map_eq_none_iff, Option.bind_eq_none_iff, List.find?_eq_none, Bool.and_true] at *
  intro ks hks e he hhit
  exact hall ks hks e he (Bool.and_eq_true_iff.1 hhit).1

/-- A slot some of whose live nodes are dead. -/
def Slot.pruned (k : Slot) (hit : Nat → Bool) (rel : Nat) : Slot :=
  { k with nodes := k.nodes.map (fun e => if hit e.1 && e.2.state == 1 then (e.1, { e.2 with state := 2 }) else e), rel := max k.rel rel }

theorem pruned_node (k : Slot) (hit : Nat → Bool) (rel n : Nat) :
    (k.pruned hit rel).node n = if hit n = true ∧ (k.node n).state = 1 then { k.node n with state := 2 } else k.node n := by
  have h := node_map (k := k) (k' := k.pruned hit rel)
    (g := fun e => if hit e.1 && e.2.state == 1 then (e.1, { e.2 with state := 2 }) else e)
    (fun e => by dsimp only; split <;> rfl) rfl n (by dsimp only; rw [show (Node.blank.state == 1) = false from rfl, Bool.and_false]; rfl)
  rw [h]
  dsimp only
  by_cases hn : hit n = true ∧ (k.node n).state = 1
  · rw [if_pos hn, if_pos (by rw [hn.1, hn.2]; rfl)]
  · rw [if_neg hn, if_neg (by simpa using hn)]

/-- What no team is bound to and no path holds an access on. -/
def slotQuiet (s : State) (slot : Nat) : Prop :=
  (∀ e ∈ s.teams, e.2.binding = none) ∧ (∀ e ∈ s.teams, e.2.heldOn slot (fun _ => true) = []) ∧ s.sched.saved = []

theorem slotQuiet.keepWrites {s : State} {slot : Nat} (h : slotQuiet s slot) (p : Nat × Byte → Bool) : slotQuiet (s.keepWrites p) slot := by
  obtain ⟨hb, hh, hsaved⟩ := h
  refine ⟨fun e he => ?_, fun e he => ?_, by simp [State.keepWrites, hsaved]⟩
  · obtain ⟨a, ha, rfl⟩ := List.mem_map.1 he
    exact hb a ha
  · obtain ⟨a, ha, rfl⟩ := List.mem_map.1 he
    exact hh a ha

theorem slotQuiet_congr {s t : State} {slot : Nat} (h : slotQuiet s slot) (ht : t.teams = s.teams) (hs : t.sched.saved = s.sched.saved) :
    slotQuiet t slot := by rwa [slotQuiet, ht, hs]

theorem slotQuiet.treeOnly {s t : State} {slot : Nat} (h : slotQuiet s slot) (ht : treeOnly s t) : slotQuiet t slot :=
  slotQuiet_congr h ht.teams (congrArg Sched.saved ht.sched)

theorem slotQuiet.unrefs {s t : State} {slot : Nat} (h : slotQuiet s slot) (ht : unrefs s t) : slotQuiet t slot := by
  obtain ⟨kv, p, rfl, -, -⟩ := ht
  exact slotQuiet_congr (h.keepWrites p) rfl rfl

/-- The ends of a slot's nodes concern no team. -/
theorem slotQuiet.ends {s : State} {slot : Nat} (h : slotQuiet s slot) (hit : Nat → Bool) :
    (s.cancelBound slot hit).trapHeldOn slot hit = s := by
  obtain ⟨hb, hh, hsaved⟩ := h
  rw [cancelBound_none hb hsaved, trapHeldOn_none (fun e he => heldOn_of_all (hh e he) hit) hsaved]

theorem pruneNodes_quiet {s : State} {slot : Nat} (h : slotQuiet s slot) (hit : Nat → Bool) (rel : Nat) :
    s.pruneNodes slot hit rel = (s.dropKv slot).putSlot slot ((s.slot slot).pruned hit rel) :=
  (h.treeOnly ((treeOnly_of_wrote (dropKv_wrote s slot)).trans (putSlot_treeOnly _ slot _))).ends hit

theorem pruneNodes_treeOnly {s : State} {slot : Nat} (h : slotQuiet s slot) (hit : Nat → Bool) (rel : Nat) :
    treeOnly s (s.pruneNodes slot hit rel) ∧
      ∀ j, (s.pruneNodes slot hit rel).slot j = if j = slot then (s.slot slot).pruned hit rel else s.slot j := by
  rw [pruneNodes_quiet h]
  exact ⟨(treeOnly_of_wrote (dropKv_wrote s slot)).trans (putSlot_treeOnly _ slot _), fun j => putSlot_slot _ slot j _⟩

theorem treePrune_done {s : State} {slot n : Nat} (h : slotQuiet s slot) (hn : n ≠ 0) (hlive : ((s.slot slot).node n).state = 1) (rel : Nat) :
    ∃ t, s.treePrune slot n rel = .done t 0 ∧ treeOnly s t ∧ (∀ j, j ≠ slot → t.slot j = s.slot j) ∧
      ∀ m, ((t.slot slot).node m).state =
        if ((s.slot slot).node m).state = 1 ∧ ((s.slot slot).node m).anc.getLsbD n = true then 2 else ((s.slot slot).node m).state := by
  obtain ⟨htree, hslot⟩ := pruneNodes_treeOnly h
    (fun m => ((s.slot slot).node m).anc.getLsbD n && ((s.slot slot).node m).state == 1) rel
  refine ⟨_, by rw [State.treePrune, if_neg (by simp [hn, hlive])], htree, fun j hj => (hslot j).trans (if_neg hj), fun m => ?_⟩
  rw [hslot, if_pos rfl, pruned_node]
  by_cases hm : ((s.slot slot).node m).state = 1 ∧ ((s.slot slot).node m).anc.getLsbD n = true
  · rw [if_pos hm, if_pos ⟨by rw [hm.1, hm.2]; rfl, hm.1⟩]
  · rw [if_neg hm, if_neg fun h => hm ⟨h.2, (Bool.and_eq_true_iff.1 h.1).1⟩]

theorem rebind_quiet {s : State} {slot : Nat} (h : slotQuiet s slot) (path : List Nat) : s.rebind slot path = s := by
  obtain ⟨hb, -, hsaved⟩ := h
  have hnone : s.teams.filter (fun e => e.2.boundOn slot path) = [] :=
    List.filter_eq_nil_iff.2 fun e he => by rw [Team.boundOn, hb e he]; exact Bool.false_ne_true
  unfold State.rebind
  dsimp only
  rw [hnone, List.foldl_nil, hsaved]
  rfl

theorem rebindBlocked_quiet {s : State} {slot : Nat} (h : slotQuiet s slot) (path : List Nat) : s.rebindBlocked slot path = false := by
  obtain ⟨hb, -, hsaved⟩ := h
  rw [State.rebindBlocked, hsaved]
  refine List.any_eq_false.2 fun t ht => ?_
  rw [List.flatMap_nil, List.append_nil] at ht
  obtain ⟨e, he, rfl⟩ := List.mem_map.1 ht
  rw [Team.boundOn, hb e he]
  exact Bool.false_ne_true

/-- The nodes of a path but for the trunk are free, and the trunk ends where the path did. -/
def Slot.joined (k : Slot) (path : List Nat) (n rel : Nat) : Slot :=
  ({ k with nodes := k.nodes.map (fun e => if e.1 ≠ 0 ∧ path.contains e.1 then (e.1, Node.blank) else e), rel := max k.rel rel } : Slot).setNode
    0 { k.node 0 with len := (k.node n).start + (k.node n).len, start := 0, anc := 1 }

theorem joined_node (k : Slot) (path : List Nat) (n rel : Nat) {m : Nat} (hm : m ≠ 0) :
    (k.joined path n rel).node m = if m ∈ path then Node.blank else k.node m := by
  rw [Slot.joined, setNode_node, if_neg hm]
  refine (node_map (k := k) (g := fun e => if e.1 ≠ 0 ∧ path.contains e.1 then (e.1, Node.blank) else e)
    (fun e => by split <;> rfl) rfl m (by split <;> rfl)).trans ?_
  by_cases hin : m ∈ path
  · rw [if_pos hin, if_pos ⟨hm, by simpa using hin⟩]
  · rw [if_neg hin, if_neg (by simpa [hm] using hin)]

theorem joined_trunk (k : Slot) (path : List Nat) (n rel : Nat) : (k.joined path n rel).node 0 =
    { k.node 0 with len := (k.node n).start + (k.node n).len, start := 0, anc := 1 } := (setNode_node _ 0 0 _).trans (if_pos rfl)

theorem unrefs.queues {s t : State} (h : unrefs s t) : t.sched.queues = s.sched.queues := by obtain ⟨kv, p, rfl, -, -⟩ := h; rfl

/-- A commit of a node's path where no team is concerned (R153, R157). -/
theorem treeCommit_done {s : State} {slot n : Nat} (h : slotQuiet s slot) (hn : n ≠ 0) (hlive : ((s.slot slot).node n).state = 1)
    (hroom : s.kv.free (slot % 2) ≠ []) (rel : Nat) :
    ∃ t, s.treeCommit slot n rel = .done t 0 ∧ t.sched.queues = s.sched.queues ∧
      ((t.slot slot).node 0).len = ((s.slot slot).node n).start + ((s.slot slot).node n).len ∧
      ∀ m, m ≠ 0 → ((t.slot slot).node m).state =
        if m ∈ pathTo (s.slot slot) 256 n then 0 else if ((s.slot slot).node m).state = 1 then 2 else ((s.slot slot).node m).state := by
  unfold State.treeCommit
  dsimp only
  rw [if_neg (by simp [hlive]), if_neg hn, rebindBlocked_quiet h, if_neg Bool.false_ne_true]
  generalize pathTo (s.slot slot) 256 n = path
  generalize commitMap (s.slot slot) path = new
  generalize List.foldl (fun (l : List MapEnt) e => l.erase e) _ new = gone
  generalize hs1 : State.modKv (s.dropKv slot) _ = s1
  have htree1 : treeOnly s s1 := by rw [← hs1]; exact (treeOnly_of_wrote (dropKv_wrote s slot)).trans (treeOnly_modKv _ _)
  have hfree1 : s1.kv.free (slot % 2) ≠ [] := by rw [← hs1]; exact hroom
  have hslot1 : s1.slot slot = (s.slot slot).joined path n rel := by
    rw [← hs1]; exact (slot_of_insert (s := s.dropKv slot) rfl slot).trans (if_pos rfl)
  obtain ⟨s2, hset⟩ := setMap_some hfree1 0 new
  have htaken := setMap_taken hset
  obtain ⟨-, -, bs, fs, hslot2⟩ := id htaken
  have hunrefs : unrefs s2 (gone.foldl (fun s e => s.unref e.frame) s2) := unrefs.foldl (fun s e => unref_unrefs s e.frame) gone s2
  have hquiet : slotQuiet (gone.foldl (fun s e => s.unref e.frame) s2) slot := ((h.treeOnly htree1).treeOnly htaken.treeOnly).unrefs hunrefs
  rw [hset]
  dsimp only
  rw [rebind_quiet hquiet]
  obtain ⟨hprune, hslot3⟩ := pruneNodes_treeOnly hquiet
    (fun m => m != 0 && !path.contains m && ((s.slot slot).node m).state == 1) rel
  have hnode : ∀ m, (((gone.foldl (fun s e => s.unref e.frame) s2).slot slot).node m) =
      if m = 0 then { ((s.slot slot).joined path n rel).node 0 with map := new, blocks := bs } else ((s.slot slot).joined path n rel).node m := by
    intro m
    rw [hunrefs.slot, hslot2, if_pos rfl, hslot1]
    exact setNode_node _ 0 m _
  refine ⟨_, rfl, ?_, ?_, fun m hm => ?_⟩
  · rw [(treeOnly_of_wrote (mirror_wrote _ slot)).sched, hprune.sched, hunrefs.queues, htaken.treeOnly.sched, htree1.sched]
  · rw [mirror_slot, hslot3, if_pos rfl, pruned_node, hnode, if_pos rfl, if_neg fun h0 => absurd h0.1 (by simp), joined_trunk]
  · rw [mirror_slot, hslot3, if_pos rfl, pruned_node, hnode, if_neg hm, joined_node _ _ _ _ hm]
    by_cases hin : m ∈ path
    · rw [if_pos hin, if_pos hin, if_neg fun h0 => absurd h0.2 (by decide)]
      rfl
    · rw [if_neg hin, if_neg hin]
      by_cases hone : ((s.slot slot).node m).state = 1
      · rw [if_pos hone, if_pos ⟨by simp [hm, hin, hone], hone⟩]
      · rw [if_neg hone, if_neg fun h0 => hone h0.2]

/-- A retirement of a slot whose frames no lock holds, where no team is concerned (R158). -/
theorem treeRetire_done {s : State} {slot : Nat} (h : slotQuiet s slot) (hlocks : s.eng.locks = []) (rel : Nat) :
    (s.treeRetire slot rel).sched.queues = s.sched.queues ∧
      ∃ k : Slot, k.gen = (s.slot slot).gen ∧ ∀ j, (s.treeRetire slot rel).slot j = if j = slot then k.released else s.slot j := by
  unfold State.treeRetire
  dsimp only
  generalize hu : (s.dropKv slot).putSlot slot _ = u
  have htree : treeOnly s u := by rw [← hu]; exact (treeOnly_of_wrote (dropKv_wrote s slot)).trans (putSlot_treeOnly _ slot _)
  have hslot : ∀ j, u.slot j = if j = slot then
      { s.slot slot with state := 2, rbl := 0, image := [], regQueue := none, rel := max (s.slot slot).rel rel } else s.slot j := by
    rw [← hu]; exact fun j => putSlot_slot _ slot j _
  rw [(h.treeOnly htree).ends]
  have hstate : (u.slot slot).state = 2 := by rw [hslot, if_pos rfl]
  obtain ⟨v, hv, htreev, hslotv⟩ := releaseSlot_frees (by rw [htree.eng, hlocks]) hstate
  refine ⟨by rw [htreev.sched, hv.queues, htree.sched], u.slot slot, by rw [hslot, if_pos rfl], fun j => ?_⟩
  rw [hslotv]
  split
  · rfl
  · next hj => rw [hslot, if_neg hj]

end Sys2Proof.Machine
end

section
/-! SUPPORT. TREE packets (R66, R162, R374). -/
namespace Sys2Proof.Machine

/-! ## A TREE packet performs -/

theorem unclaim_slot (s : State) (slot j : Nat) :
    (s.unclaim slot).slot j = if j = slot then { s.slot slot with claim := none } else s.slot j := by
  unfold State.unclaim
  split
  · next hnone =>
    split
    · next hj =>
      rw [hj]
      generalize s.slot slot = k at *
      cases k
      simp_all
    · rfl
  · next hsome =>
    have hfind : (AMap.find s.kv.slots slot).isSome := by
      cases h : AMap.find s.kv.slots slot with
      | some v => rfl
      | none => exact absurd (by rw [State.slot, h]; rfl) hsome
    obtain ⟨k, hk⟩ := Option.isSome_iff_exists.1 hfind
    simp only [State.slot, State.modKv, AMap.find_modify, hk]
    split
    · rfl
    · rfl

theorem unclaim_queues (s : State) (slot : Nat) : (s.unclaim slot).sched = s.sched := by unfold State.unclaim; split <;> rfl

section Request

variable {s : State} {q idx op slot nd nd2 arg : Nat} {p : Packet} (h : treeRequest s q idx op slot nd nd2 arg p)
include h

theorem treeRequest_one : (s.queue q).packets = [p] := h.1.1

/-- The fields of a TREE packet (R66). -/
theorem treeRequest_fields (hop : op < 2 ^ 8) : treeOpOf p.bytes = op ∧ treeSlot p.bytes = slot ∧ treeNode p.bytes = nd ∧
    treeNode2 p.bytes = nd2 ∧ bits 63 36 (pw p.bytes 2) = 0 ∧ pw p.bytes 3 = arg := by
  obtain ⟨-, -, -, -, hword, hslot, hnode, hnode2, harg, -, -⟩ := h
  have hw : pw p.bytes 2 = op + slot * 2 ^ 8 + nd * 2 ^ 20 + nd2 * 2 ^ 28 := hword
  refine ⟨?_, ?_, ?_, ?_, ?_, harg⟩ <;>
    · simp only [treeOpOf, Machine.treeSlot, treeNode, treeNode2, bits, hw]
      omega

theorem treeRequest_zeros : zeroFrom p.bytes 4 = true := by
  obtain ⟨-, hlen, -, -, -, -, -, -, -, hz, -⟩ := h
  rw [zeroFrom_step, zeroFrom_five hlen]
  exact ⟨hz 4 (by omega) (by omega), hz 5 (by omega) (by omega), hz 6 (by omega) (by omega), hz 7 (by omega) (by omega)⟩

theorem treeRequest_check : treeCheck s slot (qctlAsid (s.queue q)) (op == 0) = none := by
  obtain ⟨-, -, hen, -, -, -, -, -, -, -, hopen⟩ := h
  have hbit : s.kv.kvctl.getLsbD 0 = true := by
    rw [BitVec.getLsbD, Nat.testBit_zero]
    exact decide_eq_true hen
  unfold treeCheck
  rw [if_neg (by simp [hbit])]
  by_cases hop : op = 0
  · rw [hop]; rfl
  · obtain ⟨hstate, hasid⟩ := hopen hop
    rw [if_neg (by simpa using hop), if_neg (by simp [hstate])]
    have ha : qctlAsid (s.queue q) = (s.queue q).qctl.toNat / 2 ^ 4 % 2 ^ 12 := rfl
    rw [ha]
    exact if_neg (by omega)

/-- A TREE packet that its operation takes goes through every check (R66, R159, R373). -/
theorem treePacket_performs (hop : op ≤ 5) {node : Bool} (hnode : node = true ∨ nd = 0) (f : State → Queue → Packet → State) :
    treePacket s q idx op node f = f s (s.queue q) p := by
  obtain ⟨hopOf, hslot, hnd, -, hhigh, -⟩ := treeRequest_fields h (by omega)
  have hclaim := h.2.2.2.1
  obtain ⟨-, -, hst, -⟩ := id h.1
  rw [treePacket, onPacket_begins h.1 (by decide) (by decide)]
  dsimp only
  rw [hopOf, hslot, hnd, hhigh, hst, hclaim, treeRequest_zeros h, treeRequest_check h, if_neg (fun hne => hne.1 rfl), if_neg (by decide),
    if_neg Bool.false_ne_true, if_neg (by rcases hnode with rfl | rfl <;> simp <;> omega)]

end Request

/-- A TREE packet that is done ends, and the slots stay. -/
theorem treeDone_ends {s : State} {q : Nat} {p : Packet} (hq : (s.queue q).packets = [p]) (slot rel : Nat) :
    packetIs (s.treeDone q p slot rel) q p (.ended 1 0 0) ∧ ∀ j, (s.treeDone q p slot rel).slot j = s.slot j := by
  refine ⟨(endNow_one (s := s.modQueue q (fun k => { k with rel := max k.rel (s.slot slot).rel })) ?_ 1 0 rel).2.2.1, fun _ => rfl⟩
  rw [modQueue_queue_same]
  exact hq

theorem queue_of_queues {s t : State} (h : t.sched.queues = s.sched.queues) (q : Nat) : t.queue q = s.queue q := by
  rw [State.queue, State.queue, h]

/-- An operation that is done ends its packet, and its slot is held no longer. -/
theorem treeResult_done {s t : State} {q : Nat} {p : Packet} (hq : (s.queue q).packets = [p]) (ht : t.sched.queues = s.sched.queues)
    (k : Queue) (v : Word64) : packetIs (treeResult s q k p (.done t v)) q p (.ended 1 0 0) ∧
      ∀ j, (treeResult s q k p (.done t v)).slot j =
        if j = treeSlot p.bytes then { t.slot (treeSlot p.bytes) with claim := none } else t.slot j := by
  obtain ⟨hend, hslot⟩ := treeDone_ends (s := t.unclaim (treeSlot p.bytes))
    ((congrArg Queue.packets (queue_of_queues (by rw [unclaim_queues, ht]) q)).trans hq) (treeSlot p.bytes) k.rel
  exact ⟨hend, fun j => (hslot j).trans (unclaim_slot t _ j)⟩

/-- The word ARG of a TREE_OPEN packet (R66). -/
theorem openArg {a : Nat} (h1 : 1 ≤ a % 256) (h2 : a % 256 ≤ 254) (h3 : 8 ≤ a / 256) (h4 : a / 256 ≤ 14) :
    bits 7 0 a = a % 256 ∧ bits 11 8 a = a / 256 ∧
      ¬ (bits 63 12 a ≠ 0 ∨ bits 7 0 a = 0 ∨ 254 < bits 7 0 a ∨ bits 11 8 a < 8 ∨ 14 < bits 11 8 a) := by
  simp only [bits]
  omega

/-! ## The six operations -/

section Operations

variable {s : State} {q idx slot nd nd2 arg : Nat} {p : Packet}

theorem treeOpen_packet (h : treeRequest s q idx 0 slot 0 nd2 arg p) (h0 : (s.slot slot).state = 0)
    (hsvc : s.dev.svc = 1 → slot % 2 = 0) (h1 : 1 ≤ arg % 256) (h2 : arg % 256 ≤ 254) (h3 : 8 ≤ arg / 256) (h4 : arg / 256 ≤ 14) :
    ∃ t rel, exec (.treeOpen q idx) s = .next t ∧ packetIs t q p (.ended 1 0 0) ∧ ∀ j, t.slot j = if j = slot then
      (s.slot slot).opened ((s.queue q).qctl.toNat / 2 ^ 4 % 2 ^ 12) (arg % 256) (arg / 256) rel s.kv.births else s.slot j := by
  obtain ⟨-, hslot, -, -, -, harg⟩ := treeRequest_fields h (by decide)
  obtain ⟨hnpl, hrlog, hgood⟩ := openArg h1 h2 h3 h4
  obtain ⟨t, hdone, htree, ht⟩ := treeOpen_done h0 hsvc (qctlAsid (s.queue q)) (arg % 256) (arg / 256) (s.queue q).rel
  have hexec : exec (.treeOpen q idx) s = .next (treeResult s q (s.queue q) p (.done t (BitVec.setWidth 64 ((s.slot slot).gen + 1)))) := by
    rw [exec_treeOpen, execTreeOpen, treePacket_performs h (by decide) (.inr rfl)]
    dsimp only
    rw [hslot, harg, if_neg hgood, hnpl, hrlog, hdone]
  obtain ⟨hend, hres⟩ := treeResult_done (t := t) (treeRequest_one h) (congrArg Sched.queues htree.sched) (s.queue q)
    (BitVec.setWidth 64 ((s.slot slot).gen + 1))
  rw [hslot] at hres
  refine ⟨_, (s.queue q).rel, hexec, hend, fun j => ?_⟩
  rw [hres, ht slot, if_pos rfl, ht j]
  split
  · rfl
  · rfl

/-- A packet whose operation is done: what its operation makes of the nodes and the other slots stands at its end. -/
theorem treeResult_nodes {t : State} {v : Word64} (hq : (s.queue q).packets = [p]) (ht : t.sched.queues = s.sched.queues) (k : Queue)
    (hslot : treeSlot p.bytes = slot) : packetIs (treeResult s q k p (.done t v)) q p (.ended 1 0 0) ∧
      (∀ n, ((treeResult s q k p (.done t v)).slot slot).node n = (t.slot slot).node n) ∧
      ∀ j, j ≠ slot → (treeResult s q k p (.done t v)).slot j = t.slot j := by
  obtain ⟨hend, hres⟩ := treeResult_done hq ht k v
  rw [hslot] at hres
  refine ⟨hend, fun n => ?_, fun j hj => (hres j).trans (if_neg hj)⟩
  rw [hres, if_pos rfl]
  rfl

theorem treeRetire_packet (h : treeRequest s q idx 4 slot 0 nd2 arg p) (hquiet : slotQuiet s slot) (hlocks : s.eng.locks = [])
    (hitem : p.item = none) : ∃ t k, exec (.treeRetire q idx) s = .next t ∧ packetIs t q p (.ended 1 0 0) ∧
      k.gen = (s.slot slot).gen ∧ ∀ j, t.slot j = if j = slot then Slot.released k else s.slot j := by
  obtain ⟨-, hslot, -⟩ := treeRequest_fields h (by decide)
  obtain ⟨hqueues, k, hgen, ht⟩ := treeRetire_done hquiet hlocks (s.queue q).rel
  obtain ⟨hend, hdone⟩ := treeDone_ends (s := s.treeRetire slot (s.queue q).rel)
    ((congrArg Queue.packets (queue_of_queues hqueues q)).trans (treeRequest_one h)) slot (s.queue q).rel
  refine ⟨_, k, ?_, hend, hgen, fun j => (hdone j).trans (ht j)⟩
  rw [exec_treeRetire, execTreeRetire, treePacket_performs h (by decide) (.inr rfl)]
  dsimp only
  rw [hslot, hitem]
  exact congrArg Host.Outcome.next (if_neg (by rw [ht, if_pos rfl]; exact fun h0 => absurd (show (0 : Nat) = 2 from h0) (by decide)))

/-- A slot without a rebuild launch. -/
def Slot.unregistered (k : Slot) (rel : Nat) : Slot := { k with rbl := 0, image := [], regQueue := none, rel := max k.rel rel }

theorem registerRebuildLaunch_clears (h : treeRequest s q idx 5 slot 0 0 0 p) : ∃ t rel, exec (.registerRebuildLaunch q idx) s = .next t ∧
    packetIs t q p (.ended 1 0 0) ∧ ∀ j, t.slot j = if j = slot then (s.slot slot).unregistered rel else s.slot j := by
  obtain ⟨-, hslot, -, hnode2, -, harg⟩ := treeRequest_fields h (by decide)
  have htree := putSlot_treeOnly s slot ((s.slot slot).unregistered (s.queue q).rel)
  obtain ⟨hend, hdone⟩ := treeDone_ends (s := s.putSlot slot ((s.slot slot).unregistered (s.queue q).rel))
    ((congrArg Queue.packets (queue_of_queues (congrArg Sched.queues htree.sched) q)).trans (treeRequest_one h)) slot (s.queue q).rel
  refine ⟨_, (s.queue q).rel, ?_, hend, fun j => (hdone j).trans (putSlot_slot s slot j _)⟩
  rw [exec_registerRebuildLaunch, execRegisterRebuildLaunch, treePacket_performs h (by decide) (.inr rfl)]
  dsimp only
  rw [hslot, hnode2, harg, if_neg (fun hne => hne rfl), if_pos rfl]
  rfl

end Operations

/-- Settles O36: a TREE packet goes through its checks, performs as its instruction does, and ends. -/
theorem treePackets : Obligations.TreePackets := by
  intro s q idx slot node node2 arg p _ hheld k done
  refine ⟨fun h h0 hsvc h1 h2 h3 h4 => ?_, fun h hroom hc hfree hlive => ?_, fun h hn hlive hb hsaved => ?_,
    fun h hn hlive hb hsaved hroom => ?_, fun h hb hsaved hlocks hitem => ?_, fun h => ?_⟩
  · obtain ⟨t, rel, hexec, hend, ht⟩ := treeOpen_packet h h0 hsvc h1 h2 h3 h4
    have hhere := (ht slot).trans (if_pos rfl)
    refine ⟨t, hexec, hend, ?_, ?_, ?_, ?_, ?_, ?_, fun j hj => (ht j).trans (if_neg hj)⟩ <;> rw [hhere] <;> rfl
  · obtain ⟨-, hslot, hnode, hnode2, -⟩ := treeRequest_fields h (by decide)
    obtain ⟨t, m, bs, hdone, htree, hother, ht⟩ := treeFork_done (p := node) (c := node2) (by omega) hfree hlive hroom (s.queue q).rel
    obtain ⟨hend, hnodes, hslots⟩ := treeResult_nodes (v := 0) (treeRequest_one h) (congrArg Sched.queues htree.sched) (s.queue q) hslot
    refine ⟨_, ?_, hend, ?_, ?_, ?_, ?_, fun n hn => ?_, fun j hj => (hslots j hj).trans (hother j hj)⟩
    · rw [exec_treeFork, execTreeFork, treePacket_performs h (by decide) (.inl rfl), hslot, hnode, hnode2, hdone]
    · rw [hnodes, ht, if_pos rfl]; rfl
    · rw [hnodes, ht, if_pos rfl]; rfl
    · rw [hnodes, ht, if_pos rfl]; rfl
    · rw [hnodes, ht, if_pos rfl]; rfl
    · rw [hnodes, ht, if_neg hn]
  · obtain ⟨-, hslot, hnode, -⟩ := treeRequest_fields h (by decide)
    obtain ⟨t, hdone, htree, hother, ht⟩ := treePrune_done ⟨hb, hheld, hsaved⟩ hn hlive (s.queue q).rel
    obtain ⟨hend, hnodes, hslots⟩ := treeResult_nodes (v := 0) (treeRequest_one h) (congrArg Sched.queues htree.sched) (s.queue q) hslot
    refine ⟨_, ?_, hend, fun j hj => (hslots j hj).trans (hother j hj), fun m => by rw [hnodes, ht]⟩
    rw [exec_treePrune, execTreePrune, treePacket_performs h (by decide) (.inl rfl), hslot, hnode, hdone]
  · obtain ⟨-, hslot, hnode, -⟩ := treeRequest_fields h (by decide)
    obtain ⟨t, hdone, hqueues, htrunk, ht⟩ := treeCommit_done ⟨hb, hheld, hsaved⟩ hn hlive hroom (s.queue q).rel
    obtain ⟨hend, hnodes, -⟩ := treeResult_nodes (v := 0) (treeRequest_one h) hqueues (s.queue q) hslot
    refine ⟨_, ?_, hend, by rw [hnodes, htrunk], fun m hm => by rw [hnodes, ht m hm]⟩
    rw [exec_treeCommit, execTreeCommit, treePacket_performs h (by decide) (.inl rfl), hslot, hnode, hdone]
  · obtain ⟨t, k', hexec, hend, hgen, ht⟩ := treeRetire_packet h ⟨hb, hheld, hsaved⟩ hlocks hitem
    have hhere := (ht slot).trans (if_pos rfl)
    exact ⟨t, hexec, hend, by rw [hhere]; rfl, by rw [hhere]; exact hgen, fun j hj => (ht j).trans (if_neg hj)⟩
  · obtain ⟨t, rel, hexec, hend, ht⟩ := registerRebuildLaunch_clears h
    have hhere := (ht slot).trans (if_pos rfl)
    refine ⟨t, hexec, hend, ?_, ?_, ?_, ?_, fun j hj => (ht j).trans (if_neg hj)⟩ <;> rw [hhere] <;> rfl

end Sys2Proof.Machine
end

section
/-! SUPPORT. Which bytes the image of a slot covers in the KV region (R140, R142, R143, R146). -/
namespace Sys2Proof.Machine

/-! ## Bytes that a write of the device leaves -/

/-- A write changes no byte outside its own. -/
theorem byteAt_outside {s t : State} {pa : Nat} {bs : List Byte} (h : bytesStored s t pa bs) {x : Nat} (hx : x < pa ∨ pa + bs.length ≤ x) :
    byteAt t x = byteAt s x := by rw [h x, if_neg (by omega)]

theorem writeUnit_outside {s : State} (h : s.mem.wf = true) {pa : Nat} {bs : List Byte} {x : Nat} (hx : x < pa ∨ pa + bs.length ≤ x) :
    byteAt (s.writeUnit pa bs) x = byteAt s x := by
  obtain ⟨-, -, -, -, -, -, hstored⟩ := writeUnit_stores h pa bs
  exact byteAt_outside hstored hx

/-- A write of the device's own units changes no byte outside its own, whether it waits or not. -/
theorem deviceWrite_outside {s : State} (h : s.mem.wf = true) {pa : Nat} {bs : List Byte} {x : Nat} (hx : x < pa ∨ pa + bs.length ≤ x) :
    byteAt (s.deviceWrite pa bs) x = byteAt s x := by
  unfold State.deviceWrite
  split
  · have hfold : ∀ (l : List (Nat × List Byte)) (u : State), u.mem.wf = true → (∀ p ∈ l, x < p.1 ∨ p.1 + p.2.length ≤ x) →
        byteAt (l.foldl State.deviceLine u) x = byteAt u x := by
      intro l
      induction l with
      | nil => exact fun u _ _ => rfl
      | cons p l ih =>
        intro u hu hl
        have hline : byteAt (u.deviceLine p) x = byteAt u x ∧ (u.deviceLine p).mem.wf = true := by
          unfold State.deviceLine
          split
          · exact ⟨rfl, hu⟩
          · exact ⟨writeUnit_outside hu (hl p List.mem_cons_self), writeOutside_wf hu _ _⟩
        rw [List.foldl_cons, ih _ hline.2 fun q hq => hl q (List.mem_cons_of_mem _ hq), hline.1]
    refine hfold _ s h fun p hp => ?_
    obtain ⟨hlo, hhi⟩ := pieces_within hp
    omega
  · exact writeUnit_outside h hx

/-! ## The image of a slot -/

theorem length_slotEntry (k : Slot) : k.entry.length = 64 := by simp [Slot.entry, length_toBytes]

theorem length_nodeEntry (n : Node) : n.entry.length = 64 := by simp [Node.entry, length_toBytes]

theorem length_mapEntry (e : MapEnt) : e.entry.length = 8 := length_toBytes _ _

/-- A map block is one of the node's, and takes a line. -/
theorem mapBlocks_line {bs : List Nat} {m : List MapEnt} {b : Nat × List Byte} (h : b ∈ mapBlocks bs m) : b.1 ∈ bs ∧ b.2.length = 64 := by
  induction bs generalizing m with
  | nil => cases h
  | cons a bs ih =>
    rcases List.mem_cons.1 h with rfl | h
    · refine ⟨List.mem_cons_self, ?_⟩
      have hents : ∀ l : List MapEnt, (l.flatMap MapEnt.entry).length = 8 * l.length := fun l => by
        induction l with
        | nil => rfl
        | cons e l ih => rw [List.flatMap_cons, List.length_append, ih, length_mapEntry, List.length_cons]; omega
      have hseven : (m.take 7).length ≤ 7 := by rw [List.length_take]; omega
      simp only [List.length_append, length_toBytes, hents, List.length_replicate]
      omega
    · obtain ⟨hmem, hlen⟩ := ih h
      exact ⟨List.mem_cons_of_mem _ hmem, hlen⟩

/-- The bytes that lie off every line of a slot's image keep, and memory keeps its canonical form. -/
theorem mirror_outside {s : State} (h : s.mem.wf = true) (slot : Nat) {x : Nat} (hx : ∀ a ∈ slotImage s slot, x < a ∨ a + 64 ≤ x) :
    byteAt (s.mirror slot) x = byteAt s x ∧ (s.mirror slot).mem.wf = true := by
  have hwrite : ∀ (u : State) (a : Nat) (bs : List Byte), bs.length = 64 → (x < a ∨ a + 64 ≤ x) →
      byteAt u x = byteAt s x ∧ u.mem.wf = true → byteAt (u.deviceWrite a bs) x = byteAt s x ∧ (u.deviceWrite a bs).mem.wf = true :=
    fun u a bs hlen ha hu => ⟨(deviceWrite_outside hu.2 (by omega)).trans hu.1, deviceWrite_wf hu.2 _ _⟩
  have hkeep : ∀ {β : Type} (f : State → β → State) (l : List β) (u : State), (∀ b ∈ l, ∀ v : State,
      byteAt v x = byteAt s x ∧ v.mem.wf = true → byteAt (f v b) x = byteAt s x ∧ (f v b).mem.wf = true) →
      byteAt u x = byteAt s x ∧ u.mem.wf = true → byteAt (l.foldl f u) x = byteAt s x ∧ (l.foldl f u).mem.wf = true := by
    intro β f l
    induction l with
    | nil => exact fun u _ hu => hu
    | cons b l ih =>
      exact fun u hf hu => ih _ (fun c hc => hf c (List.mem_cons_of_mem _ hc)) (hf b List.mem_cons_self u hu)
  have hnode : ∀ e ∈ (s.slot slot).nodes, ∀ a, a = s.kv.kvbase.toNat + 0x80000 + slot * 0x4000 + e.1 * 64 ∨ a ∈ e.2.blocks →
      x < a ∨ a + 64 ≤ x := fun e he a ha =>
    hx a (List.mem_cons_of_mem _ (List.mem_flatMap.2 ⟨e, he, by rcases ha with rfl | ha <;> simp [*]⟩))
  unfold State.mirror
  refine hkeep _ _ _ (fun e he v hv => ?_) (hwrite s _ _ (length_slotEntry _) (hx _ List.mem_cons_self) ⟨rfl, h⟩)
  refine hkeep _ _ _ (fun b hb u hu => ?_) (hwrite v _ _ (length_nodeEntry _) (hnode e he _ (.inl rfl)) hv)
  obtain ⟨hmem, hlen⟩ := mapBlocks_line hb
  exact hwrite u _ _ hlen (hnode e he _ (.inr hmem)) hu

end Sys2Proof.Machine
end

section
/-! SUPPORT. Copies on write, from the request to its end (R150, R151). -/
namespace Sys2Proof.Machine

/-! ## Grants of locks (R237) -/

theorem leasedIn_none {s : State} (ht : s.fab.tmax = []) (hh : s.fab.held = []) (lo hi : Nat) : s.leasedIn lo hi = false := by
  rw [State.leasedIn, ht, hh]; rfl

/-- A registration that no held lock and no lease is in the way of is granted, while its die has room. -/
theorem grantable_alone {s : State} {r : LockReg} (hheld : ∀ l ∈ s.eng.locks, l.granted = false) (hroom : r.ranges.length ≤ 4096)
    (ht : s.fab.tmax = []) (hh : s.fab.held = []) : s.grantable [] r = true := by
  have hnone : s.eng.locks.filter (·.granted) = [] := List.filter_eq_nil_iff.2 fun l hl => by rw [hheld l hl]; exact Bool.false_ne_true
  have huse : ∀ die, gorseUse s.dev [] die + gorseUse s.dev [r] die ≤ 4096 := fun die => by
    have hle : gorseUse s.dev [r] die ≤ r.ranges.length := by
      rw [gorseUse, List.flatMap_singleton]
      exact List.length_filter_le _ _
    show 0 + _ ≤ _
    omega
  have hlease : r.ranges.any s.lockLeased = false := List.any_eq_false.2 fun x _ => by
    rw [State.lockLeased, leasedIn_none ht hh, Bool.and_false]; exact Bool.false_ne_true
  unfold State.grantable
  dsimp only
  rw [hnone, hlease]
  simp [huse]

/-! ## The one request of the page engine -/

/-- The path table after both replays of a request that leaves. -/
theorem replay_replay (a b : Hold → Bool) (p : Path) : (p.replay a).replay b = p.replay (fun h => b h || a h) := by
  unfold Path.replay
  cases hp : p.park with
  | none => simp [hp]
  | some k =>
    by_cases ha : a k.hold = true
    · simp [ha, Path.unpark]
    · simp [ha, hp]

section One

variable {s : State} {c : KvCopy} (hc : s.kv.copies = [c])
include hc

theorem copyWaits_one (f : Nat) : s.copyWaits c f = false := by
  have hfew : ∀ q : KvCopy → Bool, ¬ 16 ≤ (s.kv.copies.filter q).length := fun q => by
    have := List.length_filter_le q s.kv.copies
    rw [hc, List.length_singleton] at this
    rw [hc]
    omega
  rw [State.copyWaits, decide_eq_false (hfew _), Bool.and_false, Bool.or_false, hc]
  simp

/-- A request leaves the page engine with its locks, and what waited for either replays. -/
theorem dropCopy_one : (s.dropCopy c.id).mem = s.mem ∧ (s.dropCopy c.id).kv = { s.kv with copies := [] } ∧
    (s.dropCopy c.id).eng.locks = s.eng.locks.filter (fun l => !(l.owner == LockOwner.kvCopy c.id)) ∧
    ∀ k pi p, s.path k pi = some p →
      ∃ q, (s.dropCopy c.id).path k pi = some q ∧ freed (fun h => h == .kvCopy || h == .rangeLocked) p q := by
  refine ⟨rfl, ?_, rfl, fun k pi p hp => ⟨_, ?_, replay_freed _ p⟩⟩
  · show { s.kv with copies := s.kv.copies.filter (fun x => x.id != c.id) } = _
    rw [hc]
    simp
  · rw [← replay_replay]
    exact replayHeld_path (replayHeld_path
      (s := { s.modKv (fun k => { k with copies := k.copies.filter (fun x => x.id != c.id) }) with
        eng := { s.eng with locks := s.eng.locks.filter (fun l => !(l.owner == LockOwner.kvCopy c.id)) } }) hp _) _

/-- What KV_COPY of the one request does, by what its lookup finds. -/
theorem kvCopy_none (h : s.copySource c = none) : exec (.kvCopy c.id) s = .next (s.abandonCopy c) := by
  rw [exec_kvCopy, execKvCopy, hc, List.find?_cons_of_pos (by simp)]
  dsimp only
  rw [h]

theorem kvCopy_rb {m f : Nat} (h : s.copySource c = some (m, f)) (hrb : s.kv.rb f = true) :
    exec (.kvCopy c.id) s = .next (if (s.slot c.slot).lost.contains f then s.abandonCopy c else s) := by
  rw [exec_kvCopy, execKvCopy, hc, List.find?_cons_of_pos (by simp)]
  dsimp only
  rw [h]
  dsimp only
  rw [if_pos hrb]

/-- A request without a frame yet takes one, and registers its locks. -/
theorem kvCopy_takes {m f : Nat} (h : s.copySource c = some (m, f)) (hrb : s.kv.rb f = false)
    (hpend : s.lockPending (.kvCopy c.id) = false) (hdest : c.dest = none) :
    exec (.kvCopy c.id) s = .next (((s.popFree (c.slot % 2) 0x80001#32).map (fun r =>
      (r.1.modKv (fun k => { k with copies := k.copies.map (fun x => if x.id = c.id then { x with dest := some r.2 } else x) })).register
        (.kvCopy c.id) (copyLocks f r.2))).getD s) := by
  rw [exec_kvCopy, execKvCopy, hc, List.find?_cons_of_pos (by simp)]
  dsimp only
  rw [h]
  dsimp only
  rw [hrb, if_neg Bool.false_ne_true, copyWaits_one hc, hpend, if_neg (by simp), hdest]
  dsimp only
  cases s.popFree (c.slot % 2) 0x80001#32 with
  | none => rfl
  | some r => rfl

/-- A request that holds its locks copies, and ends. -/
theorem kvCopy_copies {m f g : Nat} (h : s.copySource c = some (m, f)) (hrb : s.kv.rb f = false)
    (hpend : s.lockPending (.kvCopy c.id) = false) (hdest : c.dest = some g)
    (hholds : (copyLocks f g).all (fun r => s.holdsLock (.kvCopy c.id) r) = true) {t : State} (ht : s.copyOnWrite c m f g = some t) :
    exec (.kvCopy c.id) s = .next (t.dropCopy c.id) := by
  rw [exec_kvCopy, execKvCopy, hc, List.find?_cons_of_pos (by simp)]
  dsimp only
  rw [h]
  dsimp only
  rw [hrb, if_neg Bool.false_ne_true, copyWaits_one hc, hpend, if_neg (by simp), hdest]
  dsimp only
  rw [hholds, if_neg (by decide), ht]

/-- A request that is no longer needed gives back what it took. -/
theorem abandonCopy_one : (s.abandonCopy c).mem = s.mem ∧ (s.abandonCopy c).kv.copies = [] ∧
    (s.abandonCopy c).eng.locks = s.eng.locks.filter (fun l => !(l.owner == LockOwner.kvCopy c.id)) ∧
    (c.dest = none → (s.abandonCopy c).kv.counts = s.kv.counts) ∧
    (∀ g, c.dest = some g → (s.abandonCopy c).kv.free (dieOfPa (g * 2 ^ 16)) = g :: s.kv.free (dieOfPa (g * 2 ^ 16))) ∧
    ∀ k pi p, s.path k pi = some p →
      ∃ q, (s.abandonCopy c).path k pi = some q ∧ freed (fun h => h == .kvCopy || h == .rangeLocked) p q := by
  unfold State.abandonCopy
  cases hdest : c.dest with
  | none =>
    obtain ⟨hmem, hkv, hlocks, hpaths⟩ := dropCopy_one hc
    exact ⟨hmem, by rw [hkv], hlocks, fun _ => by rw [hkv], nofun, hpaths⟩
  | some g =>
    have hpush : (s.pushFree g).kv.copies = [c] := by
      have hrest : (s.pushFree g).kv.rest = s.kv.rest := setFree_rest (s.kv.setCount g 0xC0000#32) _ _
      show (s.pushFree g).kv.rest.copies = _
      rw [hrest]
      exact hc
    obtain ⟨hmem, hkv, hlocks, hpaths⟩ := dropCopy_one hpush
    refine ⟨hmem, by rw [hkv], hlocks, nofun, fun g' hg => ?_, hpaths⟩
    cases hg
    rw [hkv]
    exact (pushFree_pool s g).1

end One

theorem kvLocks_eq (f g : Nat) : copyLocks f g = kvLocks f g := rfl

/-- The request takes the frame on top of the list, and its locks are granted. -/
theorem kvCopy_takes_frame {s : State} {c : KvCopy} (hc : s.kv.copies = [c]) {m f : Nat} (h : s.copySource c = some (m, f))
    (hrb : s.kv.rb f = false) (hdest : c.dest = none) (hlocks : s.eng.locks = []) {g : Nat} {gs : List Nat}
    (hfree : s.kv.free (c.slot % 2) = g :: gs) (ht : s.fab.tmax = []) (hh : s.fab.held = []) :
    ∃ t r, exec (.kvCopy c.id) s = .next t ∧ t.mem = s.mem ∧ t.teams = s.teams ∧ t.kv.slots = s.kv.slots ∧
      t.kv.free (c.slot % 2) = gs ∧ t.kv.free (1 - c.slot % 2) = s.kv.free (1 - c.slot % 2) ∧
      (∀ x, t.kv.count x = if x = g then 0x80001 else s.kv.count x) ∧ t.kv.copies = [{ c with dest := some g }] ∧
      t.eng.locks = [r] ∧ r.owner = .kvCopy c.id ∧ r.granted = true ∧ r.ranges = kvLocks f g := by
  have hpend : s.lockPending (.kvCopy c.id) = false := by rw [State.lockPending, hlocks]; rfl
  obtain ⟨o, hpop⟩ := popFree_cons hfree 0x80001#32
  have hexec := kvCopy_takes hc h hrb hpend hdest
  rw [hpop, Option.map_some, Option.getD_some] at hexec
  have hcopies : ((s.kv.setCount g 0x80001#32).setFree (c.slot % 2) gs).copies = [c] := by
    show ((s.kv.setCount g 0x80001#32).setFree (c.slot % 2) gs).rest.copies = [c]
    rw [setFree_rest]
    exact hc
  generalize hkv : (s.kv.setCount g 0x80001#32).setFree (c.slot % 2) gs = kv at *
  generalize hu : State.modKv _ _ = u at hexec
  have hueng : u.eng = s.eng := by rw [← hu]; rfl
  have hgrant : u.grantable [] { id := s.eng.nextLock, owner := .kvCopy c.id, ranges := copyLocks f g, granted := false } = true :=
    grantable_alone (by rw [hueng, hlocks]; exact fun l hl => by cases hl) (show 2 ≤ 4096 by decide) (by rw [← hu]; exact ht) (by rw [← hu]; exact hh)
  have hreg : u.register (.kvCopy c.id) (copyLocks f g) =
      u.addLock { id := s.eng.nextLock, owner := .kvCopy c.id, ranges := copyLocks f g, granted := true } := by
    unfold State.register
    dsimp only
    rw [if_neg (by simp [copyLocks]), hueng, hlocks, hgrant]
  refine ⟨_, _, hexec, ?_, ?_, ?_, ?_, ?_, fun x => ?_, ?_, by rw [hreg, State.addLock, hueng, hlocks]; rfl, rfl, rfl, rfl⟩ <;> rw [hreg, ← hu]
  · rfl
  · rfl
  · show kv.slots = _; rw [← hkv, setFree_slots]; rfl
  · show kv.free _ = _; rw [← hkv, setFree_free]
  · show kv.free _ = _; rw [← hkv, setFree_free_other _ (by omega)]; rfl
  · show kv.count x = _; rw [← hkv, setFree_count]; exact count_setCount_pos _ _ (by decide) x
  · show kv.copies.map _ = _
    rw [hcopies, List.map_singleton, if_pos rfl]

/-! ## The copy -/

/-- What a lookup finds stands in the map of the node that it names. -/
theorem lookupUp_names {k : Slot} {plane block fuel n m f : Nat} (h : lookupUp k plane block fuel n = some (m, f)) :
    mapFind (k.node m).map plane block = some f := by
  induction fuel generalizing n with
  | zero => cases h
  | succ fuel ih =>
    unfold lookupUp at h
    split at h
    · next hf => cases h; exact hf
    · split at h
      · cases h
      · exact ih h

theorem copySource_names {s : State} {c : KvCopy} {m f : Nat} (h : s.copySource c = some (m, f)) :
    mapFind ((s.slot c.slot).node m).map c.plane c.block = some f := by
  unfold State.copySource at h
  dsimp only at h
  split at h
  · cases h
  · exact lookupUp_names (Option.filter_eq_some_iff.1 h).1

/-- A map of one entry takes a free block of the slot. -/
theorem setMap_one {s : State} {slot n : Nat} (hblocks : ((s.slot slot).node n).blocks = []) (hfree : (s.slot slot).freeBlocks ≠ [])
    (e : MapEnt) : s.setMap slot n [e] = some (s.modKv (fun kv => { kv with
      slots := AMap.insert slot ((s.slot slot).setNode n { (s.slot slot).node n with map := [e], blocks := (s.slot slot).freeBlocks.take 1 }) kv.slots })) := by
  have hneed : ceilDiv ([e] : List MapEnt).length 7 = 1 := by rw [List.length_singleton]; rfl
  have hone : 1 ≤ (s.slot slot).freeBlocks.length := List.length_pos_iff.2 hfree
  unfold State.setMap
  dsimp only
  rw [hneed, hblocks, if_neg (by decide), if_pos (by simpa using hone)]
  rfl

theorem mem_freeBlocks {k : Slot} {b : Nat} (h : b ∈ k.freeBlocks) : ∃ f ∈ k.mapFrames, ∃ i < 1024, b = f * 2 ^ 16 + i * 64 := by
  obtain ⟨f, hf, hb⟩ := List.mem_flatMap.1 (List.mem_filter.1 h).1
  obtain ⟨i, hi, rfl⟩ := List.mem_map.1 hb
  exact ⟨f, hf, i, List.mem_range.1 hi, rfl⟩

/-- A frame clear of the image of a slot has no byte of it. -/
theorem slotImage_clear {s : State} {n g x : Nat} (h : clearOfImage s (s.slot n) n g) (hx : x / 2 ^ 16 = g) :
    ∀ a ∈ slotImage s n, x < a ∨ a + 64 ≤ x := by
  obtain ⟨hregion, hn, hnodes, -⟩ := h
  have hin : ∀ a, s.kv.kvbase.toNat ≤ a → a + 64 ≤ s.kv.kvbase.toNat + 0x4080000 → x < a ∨ a + 64 ≤ x := fun a hlo hhi => by
    by_contra hcon
    exact hregion x (by omega) (by omega) hx
  intro a ha
  rcases List.mem_cons.1 ha with rfl | ha
  · exact hin _ (by omega) (by omega)
  · obtain ⟨e, he, ha⟩ := List.mem_flatMap.1 ha
    obtain ⟨h256, hblocks⟩ := hnodes e he
    rcases List.mem_cons.1 ha with rfl | ha
    · exact hin _ (by omega) (by omega)
    · obtain ⟨h64, hne⟩ := hblocks a ha
      omega

/-- A node that takes a map of one entry in a free block leaves a frame clear of the slot's image. -/
theorem clearOfImage_setNode {s t : State} {n node g : Nat} {v : Node} (h : clearOfImage s (s.slot n) n g) (hnode : node < 256)
    (hbase : t.kv.kvbase = s.kv.kvbase) (hslot : t.slot n = (s.slot n).setNode node v)
    (hblocks : ∀ b ∈ v.blocks, b ∈ (s.slot n).freeBlocks) : clearOfImage t (t.slot n) n g := by
  obtain ⟨hregion, hn, hnodes, hframes⟩ := h
  rw [hslot]
  refine ⟨by rw [hbase]; exact hregion, hn, fun e he => ?_, hframes⟩
  rcases AMap.mem_insert he with rfl | he
  · refine ⟨hnode, fun b hb => ?_⟩
    obtain ⟨f, hf, i, hi, rfl⟩ := mem_freeBlocks (hblocks b hb)
    have := hframes f hf
    omega
  · exact hnodes e he

theorem noteFill_kv (s : State) (f : Nat) : ∃ ft, (s.noteFill f).kv = { s.kv with fillT := ft } := ⟨_, rfl⟩

theorem noteFill_eng (s : State) (f : Nat) : (s.noteFill f).eng = s.eng := rfl

theorem noteFill_mem (s : State) (f : Nat) : (s.noteFill f).mem = s.mem := rfl

/-- The copy on write of a node without a map: the fresh frame gets the shared frame's bytes, and the node names it (R150). -/
theorem copyOnWrite_copies {s : State} {c : KvCopy} {m f g : Nat} (hm : m ≠ c.node)
    (hmap : ((s.slot c.slot).node c.node).map = []) (hblocks : ((s.slot c.slot).node c.node).blocks = [])
    (hfree : (s.slot c.slot).freeBlocks ≠ []) (hwf : s.mem.wf = true) (hnode : c.node < 256)
    (hg : clearOfImage s (s.slot c.slot) c.slot g) (hf : clearOfImage s (s.slot c.slot) c.slot f) :
    ∃ t, s.copyOnWrite c m f g = some t ∧ t.kv.copies = s.kv.copies ∧ t.eng = s.eng ∧ t.kv.counts = s.kv.counts ∧
      mapFind ((t.slot c.slot).node c.node).map c.plane c.block = some g ∧
      (∀ n, n ≠ c.node → (t.slot c.slot).node n = (s.slot c.slot).node n) ∧
      ∀ x, x / 2 ^ 16 = g ∨ x / 2 ^ 16 = f → byteAt t x = byteAt (s.copyFrame f g c.pts) x := by
  generalize hs1 : (s.copyFrame f g c.pts).noteFill g = s1
  have hcopied := copyFrame_translated s f g c.pts
  obtain ⟨ft, hkv1⟩ : ∃ ft, s1.kv = { s.kv with fillT := ft } := by
    obtain ⟨ft, hfill⟩ := noteFill_kv (s.copyFrame f g c.pts) g
    exact ⟨ft, by rw [← hs1, hfill, translated_kv hcopied]⟩
  have heng1 : s1.eng = s.eng := by rw [← hs1, noteFill_eng]; exact (treeOnly_of_translated hcopied).eng
  have hslot1 : ∀ j, s1.slot j = s.slot j := slot_of_slots (by rw [hkv1])
  generalize he : ({ plane := c.plane, block := c.block, frame := g } : MapEnt) = e
  generalize hv : ({ (s.slot c.slot).node c.node with map := [e], blocks := (s.slot c.slot).freeBlocks.take 1 } : Node) = v
  have hset : s1.setMap c.slot c.node [e] = some (s1.modKv (fun kv => { kv with
      slots := AMap.insert c.slot ((s.slot c.slot).setNode c.node v) kv.slots })) := by
    rw [setMap_one (by rw [hslot1, hblocks]) (by rw [hslot1]; exact hfree), hslot1, hv]
  generalize hs2 : s1.modKv (fun kv => { kv with slots := AMap.insert c.slot ((s.slot c.slot).setNode c.node v) kv.slots }) = s2 at hset
  have hslot2 : s2.slot c.slot = (s.slot c.slot).setNode c.node v := by
    rw [← hs2]; exact (slot_of_insert (s := s1) rfl c.slot).trans (if_pos rfl)
  have hbase2 : s2.kv.kvbase = s.kv.kvbase := by rw [← hs2]; show s1.kv.kvbase = _; rw [hkv1]
  have hmem2 : s2.mem = (s.copyFrame f g c.pts).mem := by
    rw [← hs2, modKv_mem, ← hs1, noteFill_mem]
  have hwf2 : s2.mem.wf = true := by rw [hmem2]; exact copyFrame_wf hwf f g c.pts
  have hclear : ∀ d, clearOfImage s (s.slot c.slot) c.slot d → clearOfImage s2 (s2.slot c.slot) c.slot d := fun d hd =>
    clearOfImage_setNode hd hnode hbase2 hslot2 (by rw [← hv]; exact fun b hb => List.mem_of_mem_take hb)
  have hwrote : deviceWrote s2 ((s2.dropKv c.slot).mirror c.slot) := (dropKv_wrote s2 c.slot).trans (mirror_wrote _ _)
  have hkv2 : s2.kv = { s1.kv with slots := s2.kv.slots } := by rw [← hs2]; rfl
  have hslot3 : ((s2.dropKv c.slot).mirror c.slot).slot c.slot = (s.slot c.slot).setNode c.node v := by
    rw [mirror_slot, dropKv_slot, hslot2]
  refine ⟨(s2.dropKv c.slot).mirror c.slot, ?_, ?_, ?_, ?_, ?_, fun n hn => ?_, fun x hx => ?_⟩
  · unfold State.copyOnWrite
    dsimp only
    rw [hs1, hslot1, hmap, mapPut, he, hset, Option.map_some, if_neg hm]
  · rw [hwrote.kv, hkv2, hkv1]
  · rw [(treeOnly_of_wrote hwrote).eng, ← hs2]; exact heng1
  · rw [hwrote.kv, hkv2, hkv1]
  · rw [hslot3, setNode_node, if_pos rfl, ← hv, ← he]
    simp [mapFind]
  · rw [hslot3, setNode_node, if_neg hn]
  · have hout : ∀ a ∈ slotImage (s2.dropKv c.slot) c.slot, x < a ∨ a + 64 ≤ x := by
      rcases hx with hx | hx
      · exact slotImage_clear (hclear g hg) hx
      · exact slotImage_clear (hclear f hf) hx
    rw [(mirror_outside (s := s2.dropKv c.slot) hwf2 c.slot hout).1, byteAt, byteAt, ← hmem2]
    rfl

/-- A request that holds its locks copies, and ends with its locks. -/
theorem kvCopy_ends {s : State} {c : KvCopy} (hc : s.kv.copies = [c]) {m f g : Nat} {r : LockReg} (h : s.copySource c = some (m, f))
    (hrb : s.kv.rb f = false) (hdest : c.dest = some g) (hlocks : s.eng.locks = [r]) (howner : r.owner = .kvCopy c.id)
    (hranges : r.ranges = kvLocks f g) (hgranted : r.granted = true) (hne : g ≠ f)
    (hmap : ((s.slot c.slot).node c.node).map = []) (hblocks : ((s.slot c.slot).node c.node).blocks = [])
    (hfree : (s.slot c.slot).freeBlocks ≠ []) (hwf : s.mem.wf = true) (hnode : c.node < 256)
    (hg : clearOfImage s (s.slot c.slot) c.slot g) (hf : clearOfImage s (s.slot c.slot) c.slot f) :
    ∃ t, exec (.kvCopy c.id) s = .next t ∧ t.kv.copies = [] ∧ t.eng.locks = [] ∧ t.kv.count g = s.kv.count g ∧
      mapFind ((t.slot c.slot).node c.node).map c.plane c.block = some g ∧
      (∀ n, n ≠ c.node → (t.slot c.slot).node n = (s.slot c.slot).node n) ∧
      ∀ i < 2 ^ 16, byteAt t (g * 2 ^ 16 + i) = byteAt s (f * 2 ^ 16 + i) ∧
        byteAt t (f * 2 ^ 16 + i) = byteAt s (f * 2 ^ 16 + i) := by
  have hm : m ≠ c.node := fun heq => by
    have hfind := copySource_names h
    rw [heq, hmap] at hfind
    cases hfind
  obtain ⟨t, hcow, hcopies, heng, hcounts, hnames, hnodes, hbytes⟩ := copyOnWrite_copies hm hmap hblocks hfree hwf hnode hg hf
  have hpend : s.lockPending (.kvCopy c.id) = false := by simp [State.lockPending, hlocks, hgranted]
  have hholds : (copyLocks f g).all (fun x => s.holdsLock (.kvCopy c.id) x) = true := by
    simp [State.holdsLock, hlocks, howner, hgranted, hranges, kvLocks, copyLocks]
  obtain ⟨hmem, hkv, hleft, -⟩ := dropCopy_one (hcopies.trans hc)
  have hslot : ∀ j, (t.dropCopy c.id).slot j = t.slot j := slot_of_slots (by rw [hkv])
  have hbyte : ∀ x, byteAt (t.dropCopy c.id) x = byteAt t x := fun x => by rw [byteAt, hmem]; rfl
  refine ⟨_, kvCopy_copies hc h hrb hpend hdest hholds hcow, by rw [hkv], ?_, ?_, by rw [hslot]; exact hnames,
    fun n hn => by rw [hslot]; exact hnodes n hn, fun i hi => ⟨?_, ?_⟩⟩
  · rw [hleft, heng, hlocks]
    simp [howner]
  · rw [hkv, Kv.count, Kv.count, hcounts]
  · rw [hbyte, hbytes _ (.inl (by omega)), copyFrame_byteAt hwf, if_pos (by omega)]
    congr 1
    omega
  · rw [hbyte, hbytes _ (.inr (by omega)), copyFrame_byteAt hwf, if_neg (by omega)]

/-- R150, R151: copies on write. -/
theorem kvCopies : Says.KvCopies := by
  intro s c hc
  refine ⟨fun m f h hrb hdest hlocks => ⟨fun hnone => ?_, fun g gs hfree _ ht hh _ => kvCopy_takes_frame hc h hrb hdest hlocks hfree ht hh⟩,
    fun m f g r h hrb hdest hlocks howner hranges hgranted hne hmap hblocks hfree hwf hnode hg hf =>
      kvCopy_ends hc h hrb hdest hlocks howner hranges hgranted hne hmap hblocks hfree hwf hnode hg hf,
    fun m f h hrb hlost => ?_, fun h hlocks => ?_⟩
  · have hpend : s.lockPending (.kvCopy c.id) = false := by rw [State.lockPending, hlocks]; rfl
    rw [kvCopy_takes hc h hrb hpend hdest, popFree_nil hnone]
    rfl
  · rw [kvCopy_rb hc h hrb, hlost, if_neg Bool.false_ne_true]
  · have hexec : exec (.kvCopy c.id) s = .next (s.abandonCopy c) := by
      rcases h with h | ⟨m, f, h, hrb, hlost⟩
      · exact kvCopy_none hc h
      · rw [kvCopy_rb hc h hrb, if_pos hlost]
    obtain ⟨hmem, hcopies, hleft, hcounts, hfree, hpaths⟩ := abandonCopy_one hc
    exact ⟨_, hexec, hmem, hcopies, by rw [hleft, hlocks]; rfl, hcounts, hfree, hpaths⟩

end Sys2Proof.Machine
end

section
/-! SUPPORT. Gorse's grants and releases, and the copy engine (R237, R239). -/
namespace Sys2Proof.Machine

/-! ## Gorse -/

/-- The only registration is granted, and its owner goes on by itself (R237). -/
theorem rangeLockGrant_grants {s : State} {r : LockReg} (hlocks : s.eng.locks = [r]) (hwaits : r.granted = false)
    (howner : r.owner = .flip ∨ ∃ n, r.owner = .copy n) (ht : s.fab.tmax = []) (hh : s.fab.held = []) (hroom : r.ranges.length ≤ 4096) :
    exec .rangeLockGrant s = .next { s with eng := { s.eng with locks := [{ r with granted := true }] } } := by
  have hgrant : s.grantable [] r = true := grantable_alone (by rw [hlocks]; simpa using hwaits) hroom ht hh
  have hnext : s.nextGrant = some r := by simp [State.nextGrant, hlocks, hwaits, hgrant]
  rw [exec_rangeLockGrant, execRangeLockGrant, hnext]
  dsimp only
  rcases howner with howner | ⟨n, howner⟩ <;>
    · rw [howner, hlocks]
      simp [howner]

/-- A registration that conflicts with one that is held waits (R237). -/
theorem rangeLockGrant_waits {s : State} {r r' : LockReg} {x y : LockRange} (hlocks : s.eng.locks = [r, r']) (hheld : r.granted = true)
    (hwaits : r'.granted = false) (howner : r.owner ≠ r'.owner) (hx : x ∈ r.ranges) (hy : y ∈ r'.ranges) (hclash : x.clash y = true) :
    exec .rangeLockGrant s = .next s := by
  have hregs : r.clash r' = true := by
    rw [LockReg.clash, Bool.and_eq_true]
    exact ⟨bne_iff_ne.2 howner, List.any_eq_true.2 ⟨x, hx, List.any_eq_true.2 ⟨y, hy, hclash⟩⟩⟩
  have hrefused : s.grantable [r] r' = false := by simp [State.grantable, hlocks, hheld, hwaits, hregs]
  have hnext : s.nextGrant = none := by simp [State.nextGrant, hlocks, hheld, hwaits, hrefused]
  rw [exec_rangeLockGrant, execRangeLockGrant, hnext]

section Release

variable {s : State} {r : LockReg} {n : Nat} (hlocks : s.eng.locks = [r]) (howner : r.owner = .copy n)
include hlocks howner

theorem rangeLockRelease_ended (hended : ∀ c ∈ s.eng.copies, c.id ≠ n) :
    exec (.rangeLockRelease r.id) s = .next (s.releaseLocks (fun x => x.id == r.id)) := by
  have hcopy : s.copy n = none := List.find?_eq_none.2 fun c hc => by simpa using hended c hc
  have horphan : s.orphan r = true := by
    rw [State.orphan, howner]
    show (s.copy n).isNone = true
    rw [hcopy]
    rfl
  rw [exec_rangeLockRelease, execRangeLockRelease, hlocks, List.find?_cons_of_pos (by simp)]
  exact congrArg Host.Outcome.next (if_pos horphan)

theorem rangeLockRelease_waits (hgoes : ∃ c ∈ s.eng.copies, c.id = n) : exec (.rangeLockRelease r.id) s = .next s := by
  obtain ⟨c, hc, hid⟩ := hgoes
  have horphan : s.orphan r = false := by
    have hsome : (s.copy n).isSome := List.find?_isSome.2 ⟨c, hc, by simpa using hid⟩
    rw [State.orphan, howner]
    exact Option.isNone_eq_false_iff.2 hsome
  rw [exec_rangeLockRelease, execRangeLockRelease, hlocks, List.find?_cons_of_pos (by simp)]
  dsimp only
  rw [if_neg (by rw [horphan]; exact Bool.false_ne_true), if_neg (by rw [howner]; simp)]

end Release

/-! ## A copy of device memory -/

theorem copy_one {s : State} {c : Copy} (h : s.eng.copies = [c]) : s.copy c.id = some c := by simp [State.copy, h]

theorem modCopy_one {s : State} {c : Copy} (h : s.eng.copies = [c]) (f : Copy → Copy) :
    s.modCopy c.id f = { s with eng := { s.eng with copies := [f c] } } := by simp [State.modCopy, h]

/-- A version without bytes overlays nothing (R175). -/
theorem overlay_nil (pa : Nat) (bs : List Byte) : overlay [] pa bs = bs := by
  induction bs generalizing pa with
  | nil => rfl
  | cons b bs ih => rw [overlay, ih]; rfl

theorem whereIs_none {s : State} {id : BitVec 32} (h : ∀ e ∈ s.teams, e.2.teamId ≠ id) (hsaved : s.sched.saved = []) :
    s.whereIs id = .ended := by
  have hfind : s.teams.find? (fun e => e.2.teamId == id) = none := List.find?_eq_none.2 fun e he => by simpa using h e he
  have hsv : s.savedTeams = [] := by rw [State.savedTeams, hsaved]; rfl
  rw [State.whereIs, hfind]
  dsimp only
  rw [hsv]
  rfl

section PacketCopy

variable {s : State} {c : Copy} {q : Nat} {idx : BitVec 32} {r : LockReg} (h : packetCopyHeld s c q idx r)
include h

theorem packetCopy_one : s.eng.copies = [c] := h.1

theorem packetCopy_ended : s.whereIs c.teamId = .ended := by
  obtain ⟨-, -, -, -, -, -, -, -, -, -, -, hgone, hsaved⟩ := h
  exact whereIs_none hgone hsaved

theorem packetCopy_runs (hf : c.failed = none) (hm : c.moved < c.total) :
    s.copyLine c = s.movePiece c 0 := by
  have hended := packetCopy_ended h
  obtain ⟨-, -, hmode, hpause, hlocks, hgranted, -⟩ := h
  have hpend : s.lockPending (.copy c.id) = false := by simp [State.lockPending, hlocks, hgranted]
  have hrest : s.restoring c.teamId = false := by rw [State.restoring, hended]
  unfold State.copyLine
  rw [if_neg (by rw [hf, hpause, hpend, hrest]; simp; omega), if_neg (by omega), if_neg (by omega)]

/-- The copy holds the line of each of its bytes. -/
theorem packetCopy_holds {write : Bool} {a n : Nat} (ha : a = (if write = true then c.dst.toNat else c.src.toNat) + c.moved)
    (hn : c.moved + n ≤ c.total) {u : State} (hu : u.eng = s.eng) : u.holdsLock (.copy c.id) (lineRange write .device a n) = true := by
  obtain ⟨-, -, -, -, hlocks, hgranted, howner, -, -, -, hranges, -⟩ := h
  rw [State.holdsLock, hu, hlocks, List.any_cons, howner, hgranted, hranges]
  cases write with
  | false =>
    have : a = c.src.toNat + c.moved := ha
    simp [lineRange]
    omega
  | true =>
    have : a = c.dst.toNat + c.moved := ha
    simp [lineRange]
    omega

/-- A line of the copy needs no further lock. -/
theorem packetCopy_partLocks {write : Bool} {a n : Nat} (ha : a = (if write = true then c.dst.toNat else c.src.toNat) + c.moved)
    (hn : c.moved + n ≤ c.total) {u : State} (hu : u.eng = s.eng) : u.partLocks c write false a n (.dev a 0) = (u, []) := by
  unfold State.partLocks
  exact if_pos (packetCopy_holds h ha hn hu)

/-- What a line of the copy takes: how many bytes, from where, to where. -/
theorem packetCopy_piece (hm : c.moved < c.total) :
    c.piece 0 = (c.src.toNat + c.moved, c.dst.toNat + c.moved, c.total - c.moved) := by
  obtain ⟨-, -, hmode, -, -, -, -, hsrc, hdst, -⟩ := h
  have hlimit := limit_le s.dev
  have hat : ∀ x : BitVec 64, x.toNat + c.total ≤ s.dev.limit → (((x.toNat : Int) + (c.moved : Int)) % (2 ^ 64 : Int)).toNat = x.toNat + c.moved :=
    fun x hx => by omega
  unfold Copy.piece
  dsimp only
  rw [if_pos hmode, hat _ hsrc, hat _ hdst]

theorem packetCopy_follows {u : State} (hu : u.dev = s.dev) {write : Bool} (hb : write = false → u.mem.badLines = []) {a : Nat}
    (ha : a < s.dev.limit) (n : Nat) : u.followCopy c write a n = (u, .at_ (.dev a 0)) := by
  obtain ⟨-, hpacket, -⟩ := h
  have hsound : ¬ ((!write) = true ∧ u.mem.badLines.contains (lineOf a) = true) := fun ⟨hw, hc⟩ => by
    rw [hb (by simpa using hw)] at hc
    exact absurd hc (by simp)
  unfold State.followCopy
  rw [hpacket]
  dsimp only
  rw [hu, viewOf_dev ha]
  dsimp only
  rw [if_neg hsound]

end PacketCopy

/-- A team that has ended is not tainted. -/
theorem taintId_ended {s : State} {id : BitVec 32} (h : s.whereIs id = .ended) : s.taintId id = s := by
  rw [State.taintId, State.modById, h]

theorem whereIs_congr {s t : State} (ht : t.teams = s.teams) (hs : t.sched = s.sched) (id : BitVec 32) : t.whereIs id = s.whereIs id := by
  simp only [State.whereIs, State.savedTeams, ht, hs]

/-- A copy for a team that has ended writes at the home slice (R110, R179). -/
theorem engineWrite_home {s : State} {id : BitVec 32} (h : s.whereIs id = .ended) (pts pa : Nat) (bs : List Byte) :
    ∃ w, s.engineWrite id false pts (.dev pa 0) bs = ((s.writeLines [] pts pa bs).1, w) := by
  obtain ⟨m, c, o, hwr⟩ := writeLines_is s [] pts pa bs
  have hended : (s.writeLines [] pts pa bs).1.whereIs id = .ended := by rw [hwr]; exact h
  unfold State.engineWrite
  dsimp only
  split
  · exact ⟨_, by rw [taintId_ended hended]⟩
  · rw [h]; exact ⟨_, rfl⟩

theorem engineHeld_home {s : State} {id : BitVec 32} (h : s.whereIs id = .ended) (pa : Nat) :
    s.engineHeld id false (.dev pa 0) = s.lineHeld pa := by
  unfold State.engineHeld
  dsimp only
  split
  · rfl
  · rw [h]

/-- A COPY packet's bytes count as moved (R239). -/
theorem noteMoved_packet {s : State} {c : Copy} (h : s.eng.copies = [c]) (hp : c.packet.isSome) (n w : Nat) :
    s.noteMoved c n w = { s with eng := { s.eng with copies := [{ c with moved := c.moved + n, rel := max c.rel w }] } } := by
  unfold State.noteMoved
  rw [if_pos (.inr hp), modCopy_one h]

section PacketCopy

variable {s : State} {c : Copy} {q : Nat} {idx : BitVec 32} {r : LockReg} (h : packetCopyHeld s c q idx r)
include h

/-- Bytes of the copy are put at its destination, and count as moved (R239). -/
theorem packetCopy_puts {m : Memory} {o : List OutMsg} (hwf : m.wf = true) {bs : List Byte} (hn : c.moved + bs.length ≤ c.total)
    (hm : c.moved < c.total) (hheld : s.lineHeld (c.dst.toNat + c.moved) = false) :
    ∃ t c', State.putPiece { s with mem := m, out := o } c (c.dst.toNat + c.moved) bs = t ∧ t.teams = s.teams ∧ t.mem.host = m.host ∧
      bytesStored { s with mem := m, out := o } t (c.dst.toNat + c.moved) bs ∧ t.eng.copies = [c'] ∧
      { c' with rel := c.rel } = { c with moved := c.moved + bs.length } := by
  generalize hu : ({ s with mem := m, out := o } : State) = u
  have heng : u.eng = s.eng := by rw [← hu]
  have hended : u.whereIs c.teamId = .ended := by rw [← packetCopy_ended h, ← hu]; rfl
  have hfree : u.lineHeld (c.dst.toNat + c.moved) = false := by rw [← hheld, ← hu]; rfl
  have hmem : u.mem = m := by rw [← hu]
  have hteams : u.teams = s.teams := by rw [← hu]
  have hparts := packetCopy_partLocks h (write := true) (a := c.dst.toNat + c.moved) rfl hn heng
  have hfollow : u.followCopy c true (c.dst.toNat + c.moved) bs.length = (u, .at_ (.dev (c.dst.toNat + c.moved) 0)) := by
    refine packetCopy_follows h (by rw [← hu]) (by simp) ?_ _
    obtain ⟨-, -, -, -, -, -, -, -, hdst, -⟩ := h
    omega
  obtain ⟨hone, hpacket, hmode, -⟩ := h
  have hwritten : c.written u (c.dst.toNat + c.moved) bs = bs := by rw [Copy.written, if_neg (by omega)]
  obtain ⟨w, hwrite⟩ := engineWrite_home (s := u.tick) hended c.pts (c.dst.toNat + c.moved) bs
  obtain ⟨hbytes, hhost⟩ := writeLines_bytes u.tick [] c.pts (c.dst.toNat + c.moved) bs
  obtain ⟨m', c', o', hwr⟩ := writeLines_is u.tick [] c.pts (c.dst.toNat + c.moved) bs
  generalize (u.tick.writeLines [] c.pts (c.dst.toNat + c.moved) bs).1 = v at hwrite hbytes hhost hwr
  have hput : u.putPiece c (c.dst.toNat + c.moved) bs = v.noteMoved c bs.length w := by
    unfold State.putPiece
    rw [hfollow]
    dsimp only
    rw [hparts, if_neg (by simp), engineHeld_home hended, hfree, if_neg Bool.false_ne_true, hwritten, hwrite]
  have hcopies : v.eng.copies = [c] := by rw [hwr, ← hone, ← heng]; rfl
  rw [hput, noteMoved_packet hcopies (by rw [hpacket]; rfl)]
  refine ⟨_, _, rfl, ?_, ?_, fun x => ?_, rfl, rfl⟩
  · show v.teams = _; rw [hwr, ← hteams]; rfl
  · show v.mem.host = _; rw [hhost, ← hmem]; rfl
  · show Tab.get 0 v.mem.bytes x = _
    rw [hbytes]
    exact Tab.get_setList 0 bs _ x _ ((Memory.wf_iff _).1 (show u.mem.wf = true by rw [hmem]; exact hwf)).1

/-- A line of the copy is read, and then put. -/
theorem packetCopy_line (hm : c.moved < c.total) {n : Nat} (hn : n = min (c.total - c.moved)
    (min (64 - (c.src.toNat + c.moved) % 64) (64 - (c.dst.toNat + c.moved) % 64))) : s.movePiece c 0 =
      (s.viewTouch (.dev (c.src.toNat + c.moved))).putPiece c (c.dst.toNat + c.moved)
        ((List.range n).map (fun i => byteAt s (c.src.toNat + c.moved + i))) := by
  have hread : s.engineRead c.teamId (.dev (c.src.toNat + c.moved) 0) n =
      (List.range n).map (fun i => byteAt s (c.src.toNat + c.moved + i)) := by
    rw [State.engineRead, State.versionOf, packetCopy_ended h, overlay_nil, State.readPa_eq]
  have hparts := packetCopy_partLocks h (write := false) (a := c.src.toNat + c.moved) rfl (show c.moved + n ≤ c.total by omega) (u := s) rfl
  have hfollow : s.followCopy c false (c.src.toNat + c.moved) n = (s, .at_ (.dev (c.src.toNat + c.moved) 0)) := by
    refine packetCopy_follows h rfl (fun _ => ?_) ?_ n
    · obtain ⟨-, -, -, -, -, -, -, -, -, hbad, -⟩ := h
      exact hbad
    · obtain ⟨-, -, -, -, -, -, -, hsrc, -⟩ := h
      omega
  unfold State.movePiece
  rw [packetCopy_piece h hm]
  dsimp only
  rw [← hn, hfollow]
  dsimp only
  rw [hparts, if_neg (by simp), hread]
  rfl

/-- A line of the copy moves (R239). -/
theorem copyLineWrite_moves (hf : c.failed = none) (hm : c.moved < c.total) (hwf : s.mem.wf = true)
    (hheld : s.lineHeld (c.dst.toNat + c.moved) = false) {n : Nat} (hn : n = min (c.total - c.moved)
      (min (64 - (c.src.toNat + c.moved) % 64) (64 - (c.dst.toNat + c.moved) % 64))) :
    ∃ t c', exec (.copyLineWrite c.id) s = .next t ∧ t.teams = s.teams ∧ t.mem.host = s.mem.host ∧
      bytesStored s t (c.dst.toNat + c.moved) ((List.range n).map (fun i => byteAt s (c.src.toNat + c.moved + i))) ∧
      t.eng.copies = [c'] ∧ { c' with rel := c.rel } = { c with moved := c.moved + n } := by
  have hline := packetCopy_line h hm hn
  obtain ⟨m, o, htouch, hbytes, hhost⟩ := viewTouch_is s (.dev (c.src.toNat + c.moved))
  have hmwf : m.wf = true := by
    have hwf' := viewTouch_wf hwf (.dev (c.src.toNat + c.moved))
    rwa [htouch] at hwf'
  generalize hbs : (List.range n).map (fun i => byteAt s (c.src.toNat + c.moved + i)) = bs at hline
  have hlen : bs.length = n := by rw [← hbs, List.length_map, List.length_range]
  obtain ⟨t, c', hput, hteams, hhost', hstored, hcopies, hc'⟩ := packetCopy_puts h (o := o) hmwf (bs := bs) (by omega) hm hheld
  rw [hlen] at hc'
  refine ⟨t, c', ?_, hteams, hhost'.trans hhost, fun x => ?_, hcopies, hc'⟩
  · rw [exec_copyLineWrite, execCopyLineWrite, copy_one (packetCopy_one h)]
    dsimp only
    rw [packetCopy_runs h hf hm, hline, htouch, hput]
  · rw [hstored x]
    exact ite_congr rfl (fun _ => rfl) (fun _ => congrArg (fun b => Tab.get 0 b x) hbytes)

/-- The copy ends with its packet, and its locks go (R239). -/
theorem packetCopy_ends {p : Packet} (hq : (s.queue q).packets = [p]) (hidx : p.idx = idx) (hst : p.st = .begun) (status trap errs : Nat) :
    (s.endCopy c status trap errs).mem = s.mem ∧ (s.endCopy c status trap errs).eng.copies = [] ∧
      (s.endCopy c status trap errs).eng.locks = [] ∧ ((s.endCopy c status trap errs).queue q).packets =
        [{ p with st := .ended (if errs = 0 then 1 else 2) trap 0, rel := c.rel }] := by
  obtain ⟨hone, hpacket, -, -, hlocks, -, howner, -⟩ := h
  unfold State.endCopy
  rw [hpacket]
  dsimp only
  refine ⟨rfl, ?_, ?_, ?_⟩
  · show s.eng.copies.filter (fun x => x.id != c.id) = []
    rw [hone]; simp
  · show s.eng.locks.filter (fun l => !(l.owner == LockOwner.copy c.id)) = []
    rw [hlocks]; simp [howner]
  · show ((State.endPacket { s with eng := { s.eng with copies := s.eng.copies.filter (fun x => x.id != c.id) } } q idx
      (if errs = 0 then 1 else 2) trap 0 c.rel).queue q).packets = _
    rw [State.endPacket, modQueue_queue_same]
    show (s.queue q).packets.map _ = _
    rw [hq, List.map_singleton, if_pos ⟨hidx, hst⟩]

end PacketCopy

theorem copyCompletion_ends {s : State} {c : Copy} (h : s.eng.copies = [c]) (hf : c.failed = none) (hpause : c.pause = none)
    (hm : c.moved = c.total) : exec (.copyCompletion c.id) s = .next (s.endCopy c 1 0 0) := by
  rw [exec_copyCompletion, execCopyCompletion, copy_one h]
  exact congrArg Host.Outcome.next (if_pos ⟨by rw [hf]; rfl, by rw [hpause]; rfl, hm⟩)

theorem copyCompletion_waits {s : State} {c : Copy} (h : s.eng.copies = [c]) (hm : c.moved ≠ c.total) :
    exec (.copyCompletion c.id) s = .next s := by
  rw [exec_copyCompletion, execCopyCompletion, copy_one h]
  exact congrArg Host.Outcome.next (if_neg fun hall => hm hall.2.2)

theorem copyFailure_ends {s : State} {c : Copy} (h : s.eng.copies = [c]) {k : TrapClass} (hf : c.failed = some k) :
    exec (.copyFailure c.id) s = .next (s.endCopy c 2 k.code 1) := by
  rw [exec_copyFailure, execCopyFailure, copy_one h]
  dsimp only
  rw [hf]

theorem copyFailure_waits {s : State} {c : Copy} (h : s.eng.copies = [c]) (hf : c.failed = none) :
    exec (.copyFailure c.id) s = .next s := by
  rw [exec_copyFailure, execCopyFailure, copy_one h]
  dsimp only
  rw [hf]

/-! ## The end of a record (R239) -/

theorem barCounted_get {t : Team} (h : Tab.wf 0 t.scratch = true) (off n errs rel : Nat) {x : Nat} (hx : x < off ∨ off + 9 ≤ x) :
    Tab.get 0 (t.barCounted off n errs rel).scratch x = Tab.get 0 t.scratch x := by
  rw [Team.barCounted, scrPut_get h]
  split
  · next hin =>
    have hlen : x - off < 16 := by simp [length_toBytes, scr_length] at hin; omega
    have hsplit : ∀ v : List Byte, v.length = 9 → (v ++ (t.scr off 16).drop 9).getD (x - off) 0 = (t.scr off 16).getD (x - off) 0 := by
      intro v hv
      rw [List.getD_append_right _ _ _ _ (by omega), hv, List.getD_eq_getElem?_getD, List.getElem?_drop, List.getD_eq_getElem?_getD]
      congr 2
      omega
    rw [hsplit _ (by simp [length_toBytes]), scr_eq]
    simp [List.getD_eq_getElem?_getD, hlen]
    congr 1
    omega
  · rfl

/-- The team of a record that ends, with STATUS and TRAP in its record and the rest of its bytes counted down (R239). -/
def Copy.endedTeam (c : Copy) (tm : Team) (status trap errs rel : Nat) : Team :=
  (tm.scrPut (c.recOff + 30) [BitVec.ofNat 8 trap, BitVec.ofNat 8 status] rel).barCounted c.bar (c.total - c.counted) errs rel

/-- A record that is ready to end, ends (R239, R241). -/
theorem endCopy_ready {s : State} {c : Copy} {key : Nat} {tm : Team} (hpacket : c.packet = none) (hteams : s.teams = [(key, tm)])
    (hid : tm.teamId = c.teamId) (hphase : tm.phase = .running) (hscope : c.scope = 0) (hevt : c.evt = false)
    (hrec : c.recOff + 64 ≤ tm.scrSize) (hbar : c.bar + 16 ≤ tm.scrSize) (status trap errs : Nat) :
    ∃ l rel, s.endCopy c status trap errs = (State.modById { s with
        sched := { s.sched with launches := l }, teams := [(key, c.endedTeam tm status trap errs rel)],
        eng := { s.eng with copies := s.eng.copies.filter (fun x => x.id != c.id) } } c.teamId
      (fun t => { t with seq := t.seq.filter (fun m => m.kind != .drain c.id) })).replayHeld (fun h => h == Hold.engineSlot) := by
  have hgo : ¬ (s.restoring c.teamId ∨ (c.evt ∧ s.eventFull c.teamId) ∨ s.completionBlocked c.teamId c.scope) := by
    simp [State.restoring, whereIs_lone hteams hid, hphase, hevt, State.completionBlocked, hscope]
  have hcommit : s.completionCommit c.teamId c.path c.scope = (s, 0) := by rw [State.completionCommit, if_pos hscope]
  have hcount := fun (T : Nat) (u : State)
      (hu : u.teams = [(key, tm.scrPut (c.recOff + 30) [BitVec.ofNat 8 trap, BitVec.ofNat 8 status] T)]) =>
    countDown_lone hu hid hbar (c.total - c.counted) errs T
  unfold State.endCopy
  rw [hpacket]
  dsimp only
  rw [if_neg hgo, hcommit]
  simp only [hevt, Bool.false_eq_true, if_false]
  rw [poolWrite_lone (s := s.modLaunch _ _) hteams hid (show c.recOff + 30 + 2 ≤ _ by omega), hcount]
  · exact ⟨_, _, rfl⟩
  · rfl

section EndedRecord

variable {c : Copy} {tm : Team} (hwf : Tab.wf 0 tm.scratch = true) (hapart : c.recOff + 64 ≤ c.bar ∨ c.bar + 16 ≤ c.recOff)
  (status trap errs rel : Nat)
include hwf hapart

/-- The record of a copy that ends holds TRAP and STATUS (R239). -/
theorem endedCopy_record : Tab.get 0 (c.endedTeam tm status trap errs rel).scratch (c.recOff + 30) = .ofNat 8 trap ∧
    Tab.get 0 (c.endedTeam tm status trap errs rel).scratch (c.recOff + 31) = .ofNat 8 status := by
  constructor
  · rw [Copy.endedTeam, barCounted_get (scrPut_wf hwf _ _ _) _ _ _ _ (by omega), scrPut_get hwf, if_pos (by simp)]
    simp
  · rw [Copy.endedTeam, barCounted_get (scrPut_wf hwf _ _ _) _ _ _ _ (by omega), scrPut_get hwf, if_pos (by simp)]
    simp

/-- The barrier object of a copy that ends counts the rest of its bytes, and a failure (R239). -/
theorem endedCopy_bar : BitVec.ofNat 64 (ofBytes ((c.endedTeam tm status trap errs rel).scr c.bar 8)) =
      .ofNat 64 (ofBytes (tm.scr c.bar 8)) - .ofNat 64 (c.total - c.counted) ∧
    Tab.get 0 (c.endedTeam tm status trap errs rel).scratch (c.bar + 8) =
      .ofNat 8 (min 255 ((Tab.get 0 tm.scratch (c.bar + 8)).toNat + errs)) := by
  constructor
  · rw [Copy.endedTeam, barCounted_cnt (scrPut_wf hwf _ _ _), scrPut_scr_apart hwf _ _ _ (by simp; omega)]
  · rw [Copy.endedTeam, barCounted_errc (scrPut_wf hwf _ _ _), scrPut_get hwf, if_neg (by simp; omega)]

omit hapart in
/-- The other bytes of the scratchpad stay. -/
theorem endedCopy_rest {o : Nat} (hrec : o < c.recOff + 30 ∨ c.recOff + 32 ≤ o) (hbar : o < c.bar ∨ c.bar + 9 ≤ o) :
    Tab.get 0 (c.endedTeam tm status trap errs rel).scratch o = Tab.get 0 tm.scratch o := by
  rw [Copy.endedTeam, barCounted_get (scrPut_wf hwf _ _ _) _ _ _ _ hbar, scrPut_get hwf, if_neg (by simp; omega)]

end EndedRecord

/-- What is left once a record has ended: memory and the locks stay, and its team's scratchpad says how it ended. -/
theorem endCopy_record {s : State} {c : Copy} {key : Nat} {tm : Team} (hcopies : s.eng.copies = [c]) (hpacket : c.packet = none)
    (hteams : s.teams = [(key, tm)]) (hid : tm.teamId = c.teamId) (hphase : tm.phase = .running) (hscope : c.scope = 0)
    (hevt : c.evt = false) (hrec : c.recOff + 64 ≤ tm.scrSize) (hbar : c.bar + 16 ≤ tm.scrSize) (status trap errs : Nat) :
    ∃ b rel, (s.endCopy c status trap errs).mem = s.mem ∧ (s.endCopy c status trap errs).eng.copies = [] ∧
      (s.endCopy c status trap errs).eng.locks = s.eng.locks ∧ (s.endCopy c status trap errs).team key = some b ∧
      b.scratch = (c.endedTeam tm status trap errs rel).scratch ∧ b.vregs = tm.vregs ∧ b.version = tm.version := by
  obtain ⟨l, rel, hend⟩ := endCopy_ready hpacket hteams hid hphase hscope hevt hrec hbar status trap errs
  have hnone : s.eng.copies.filter (fun x => x.id != c.id) = [] := by rw [hcopies]; simp
  rw [hend, State.modById, whereIs_lone (key := key) (tm := c.endedTeam tm status trap errs rel) rfl hid]
  dsimp only
  rw [modTeam_lone (key := key) (tm := c.endedTeam tm status trap errs rel) rfl]
  obtain ⟨b, hb, hscratch, hvregs, hversion⟩ := replayHeld_lone (key := key)
    (tm := { c.endedTeam tm status trap errs rel with seq := (c.endedTeam tm status trap errs rel).seq.filter (fun m => m.kind != .drain c.id) })
    (s := { s with
      sched := { s.sched with launches := l },
      teams := [(key, { c.endedTeam tm status trap errs rel with
        seq := (c.endedTeam tm status trap errs rel).seq.filter (fun m => m.kind != .drain c.id) })],
      eng := { s.eng with copies := s.eng.copies.filter (fun x => x.id != c.id) } }) rfl (fun h => h == Hold.engineSlot)
  exact ⟨b, rel, rfl, hnone, rfl, team_lone hb, hscratch, hvregs, hversion⟩

/-! ## The claims -/

/-- R237, R239: Gorse and the copy engine. -/
theorem engines : Says.Engines := by
  refine ⟨fun s r hlocks hwaits howner ht hh hroom => rangeLockGrant_grants hlocks hwaits howner ht hh hroom,
    fun s r r' x y hlocks hheld hwaits howner hx hy hplace hwrite hlo hhi => rangeLockGrant_waits hlocks hheld hwaits howner hx hy ?_,
    fun s r n hlocks howner => ⟨fun hended => ?_, rangeLockRelease_waits hlocks howner⟩,
    fun s c q idx r h => ⟨fun hf hm hwf hheld => copyLineWrite_moves h hf hm hwf hheld rfl, fun p hq hidx hst => ⟨fun hf hm => ?_, fun k hf => ?_⟩⟩,
    fun s c h => ⟨copyFailure_waits h, copyCompletion_waits h⟩,
    fun s c key tm hcopies hpacket hpause hteams hid hphase hscope hevt hwf hrec hbar hapart st tr errs i hcase => ?_⟩
  · rw [LockRange.clash, hplace, beq_self_eq_true, decide_eq_true hlo, decide_eq_true hhi]
    simpa using hwrite
  · refine ⟨_, rangeLockRelease_ended hlocks howner hended, rfl, ?_, fun k pi p hp => ⟨_, ?_, replay_freed _ p⟩⟩
    · show s.eng.locks.filter (fun l => !(l.id == r.id)) = []
      rw [hlocks]; simp
    · exact replayHeld_path (s := { s with eng := { s.eng with locks := s.eng.locks.filter (fun l => !(l.id == r.id)) } }) hp _
  · obtain ⟨hmem, hcopies, hlocks, hpackets⟩ := packetCopy_ends h hq hidx hst 1 0 0
    obtain ⟨hone, -, -, hpause, -⟩ := h
    exact ⟨_, copyCompletion_ends hone hf hpause hm, hmem, hcopies, hlocks, hpackets⟩
  · obtain ⟨hmem, hcopies, hlocks, hpackets⟩ := packetCopy_ends h hq hidx hst 2 k.code 1
    exact ⟨_, copyFailure_ends (packetCopy_one h) hf, hmem, hcopies, hlocks, hpackets⟩
  · have hexec : exec i s = .next (s.endCopy c st tr errs) := by
      rcases hcase with ⟨hf, hm, rfl, rfl, rfl, rfl⟩ | ⟨k, hf, rfl, rfl, rfl, rfl⟩
      · exact copyCompletion_ends hcopies hf hpause hm
      · exact copyFailure_ends hcopies hf
    obtain ⟨b, rel, hmem, hnone, hlocks, hb, hscratch, hvregs, hversion⟩ :=
      endCopy_record hcopies hpacket hteams hid hphase hscope hevt hrec hbar st tr errs
    obtain ⟨htrap, hstatus⟩ := endedCopy_record hwf hapart st tr errs rel
    obtain ⟨hcnt, herrc⟩ := endedCopy_bar hwf hapart st tr errs rel
    refine ⟨_, b, hexec, hmem, hnone, hlocks, hb, by rw [hscratch, htrap], by rw [hscratch, hstatus], ?_, by rw [hscratch, herrc],
      hvregs, hversion, fun o ho ho' => by rw [hscratch, endedCopy_rest hwf st tr errs rel ho ho']⟩
    rw [Team.scr, hscratch]
    exact hcnt

/-- Settles O43, from copies on write, and from Gorse and the copy engine. -/
theorem kvCopiesAndEngines : Obligations.KvCopiesAndEngines := ⟨kvCopies, engines⟩

end Sys2Proof.Machine
end

section
/-! SUPPORT. What a release's commit and the reads of a TNAPPEND leave of the state: KV space, and of every path all but its clock and
the table words it reads as they were. -/
namespace Sys2Proof.Machine

/-! ## What reads and commits leave -/

/-- A path without its clock and without the table words that its walks read as they were. -/
def Path.still (p : Path) : Path := { p with pts := 0, tableOld := [] }

/-- KV space, the device's own state and debugging are as before, and every path too, but for its clock and the table words it reads as they were. -/
def quiet (s t : State) : Prop :=
  t.kv = s.kv ∧ t.dev = s.dev ∧ t.dbg = s.dbg ∧ ∀ key pi, (t.path key pi).map Path.still = (s.path key pi).map Path.still

theorem quiet.refl (s : State) : quiet s s := ⟨rfl, rfl, rfl, fun _ _ => rfl⟩

theorem quiet.trans {s t u : State} (h : quiet s t) (g : quiet t u) : quiet s u := by
  obtain ⟨hkv, hdev, hdbg, hpath⟩ := h
  obtain ⟨gkv, gdev, gdbg, gpath⟩ := g
  exact ⟨gkv.trans hkv, gdev.trans hdev, gdbg.trans hdbg, fun key pi => (gpath key pi).trans (hpath key pi)⟩

theorem quiet_of_teams {s t : State} (hkv : t.kv = s.kv) (hdev : t.dev = s.dev) (hdbg : t.dbg = s.dbg) (h : t.teams = s.teams) : quiet s t :=
  ⟨hkv, hdev, hdbg, fun key pi => by rw [State.path, State.team, h]; rfl⟩

/-- A change of a team that leaves what its paths do. -/
theorem quiet_modTeam (s : State) (key : Nat) {f : Team → Team}
    (hf : ∀ (t : Team) (pi : Nat), (AMap.find (f t).paths pi).map Path.still = (AMap.find t.paths pi).map Path.still) :
    quiet s (s.modTeam key f) := by
  refine ⟨rfl, rfl, rfl, fun k pi => ?_⟩
  rw [State.path, State.path, modTeam_team]
  split
  · next hk =>
    rw [hk]
    cases s.team key with
    | none => rfl
    | some t => exact hf t pi
  · rfl

theorem modPath_still {f : Path → Path} (hf : ∀ p, (f p).still = p.still) (t : Team) (i pi : Nat) :
    (AMap.find (t.modPath i f).paths pi).map Path.still = (AMap.find t.paths pi).map Path.still := by
  rw [Team.modPath, AMap.find_modify]
  split
  · next hi =>
    rw [hi, Option.map_map]
    exact Option.map_congr fun p _ => hf p
  · rfl

theorem quiet_modPath (s : State) (key i : Nat) {f : Path → Path} (hf : ∀ p, (f p).still = p.still) : quiet s (s.modPath key i f) :=
  quiet_modTeam s key fun t pi => modPath_still hf t i pi

theorem quiet_acquireT (s : State) (key pi T : Nat) : quiet s (s.acquireT key pi T) := quiet_modPath s key pi fun _ => rfl

/-- The issuing path after what is quiet. -/
theorem quiet.path {s t : State} (h : quiet s t) {key pi : Nat} {p : Path} (hp : s.path key pi = some p) :
    ∃ q, t.path key pi = some q ∧ q.still = p.still := by
  obtain ⟨-, -, -, hpath⟩ := h
  have hmap := hpath key pi
  rw [hp, Option.map_some] at hmap
  exact Option.map_eq_some_iff.1 hmap

/-! ## Translations -/

/-- `t` is `s` but for memory, the cores, the die TLBs, what is shown to the outside and the count of free choices. -/
def walked (s t : State) : Prop := ∃ m c o x n, t = { s with mem := m, cores := c, out := o, xl := x, fresh := n }

theorem walked.refl (s : State) : walked s s := ⟨s.mem, s.cores, s.out, s.xl, s.fresh, rfl⟩

theorem walked.trans {s t u : State} (h : walked s t) (g : walked t u) : walked s u := by
  obtain ⟨m, c, o, x, n, rfl⟩ := h
  obtain ⟨m', c', o', x', n', rfl⟩ := g
  exact ⟨m', c', o', x', n', rfl⟩

theorem walked_of_translated {s t : State} (h : translated s t) : walked s t := by
  obtain ⟨m, c, o, rfl⟩ := h
  exact ⟨m, c, o, s.xl, s.fresh, rfl⟩

theorem walked.quiet {s t : State} (h : walked s t) : quiet s t := by
  obtain ⟨m, c, o, x, n, rfl⟩ := h
  exact quiet_of_teams rfl rfl rfl rfl

theorem modCore_walked (s : State) (c : Nat) (f : Core → Core) : walked s (s.modCore c f) := ⟨s.mem, _, s.out, s.xl, s.fresh, rfl⟩

theorem tick_walked (s : State) : walked s s.tick := ⟨s.mem, s.cores, s.out, s.xl, s.fresh + 1, rfl⟩

theorem fillTlb_walked (s : State) (c : Nat) (l : Option Nat) (e : TlbEntry) : walked s (s.fillTlb c l e) :=
  ⟨s.mem, _, s.out, _, _, rfl⟩

theorem dropLeaf_walked (s : State) (c l : Nat) : walked s (s.dropLeaf c l) := ⟨s.mem, _, s.out, _, s.fresh, rfl⟩

theorem walked_ite {s t u : State} (c : Prop) [Decidable c] (ht : walked s t) (hu : walked s u) : walked s (if c then t else u) := by
  split
  · exact ht
  · exact hu

theorem walked_res {s : State} {x y : State × Xres} {c : Prop} [Decidable c] (hx : walked s x.1) (hy : walked s y.1) :
    walked s (if c then x else y).1 := by
  split
  · exact hx
  · exact hy

theorem walkAccess_walked (s : State) (r : Xreq) : walked s (s.walkAccess r).1 := by
  have hnote := walked_of_translated (noteWalk_translated s r.asid (r.va / 0x10000))
  unfold State.walkAccess
  dsimp only
  generalize s.noteWalk r.asid (r.va / 0x10000) = u at *
  split
  · exact hnote
  · exact hnote
  · next e pa v _ =>
    split
    · exact hnote
    · generalize (if leafDisc e = true then e else withAD e r.kind.writes) = e'
      refine walked_res (c := e' ≠ e ∧ u.lineHeld pa = true) hnote ?_
      refine (walked.trans (t := if e' = e then u else u.writeEntry pa e') ?_ (fillTlb_walked _ _ _ _)).trans
        (walked_ite (r.host = true) (.refl _) ⟨_, _, _, _, _, rfl⟩)
      exact walked_ite _ hnote (hnote.trans (walked_of_translated (writeEntry_translated u _ _)))

theorem hitAccess_walked (s : State) (r : Xreq) (e : TlbEntry) : walked s (s.hitAccess r e).1 := by
  unfold State.hitAccess
  split
  · exact .refl s
  · split
    · split
      · exact (dropLeaf_walked s _ _).trans (walkAccess_walked _ r)
      · split
        · exact .refl s
        · exact ((walked_of_translated (writeEntry_translated s _ _)).trans (dropLeaf_walked _ _ _)).trans (fillTlb_walked _ _ _ _)
    · dsimp only
      split
      · exact .refl s
      · exact modCore_walked s _ _

theorem translate_walked (s : State) (r : Xreq) : walked s (s.translate r).1 := by
  unfold State.translate
  dsimp only
  split
  · exact hitAccess_walked s r _
  · split
    · split
      · exact walkAccess_walked s r
      · exact hitAccess_walked s r _
    · split
      · split
        · exact walkAccess_walked s r
        · split
          · exact .refl s
          · exact ((modCore_walked s _ _).trans (tick_walked _)).trans (hitAccess_walked _ r _)
      · exact walkAccess_walked s r

/-! ## Loads -/

theorem drainTables_quiet (s : State) (w : Who) : quiet s (s.drainTables w) := by
  unfold State.drainTables
  split
  · exact .refl s
  · exact (tick_walked s).quiet.trans (quiet_modPath _ _ _ fun _ => rfl)

theorem followPage_quiet (s : State) (w : Who) (a : Acc) (space va : Nat) : quiet s (s.followPage w a space va).1 := by
  have hdrain := drainTables_quiet s w
  unfold State.followPage
  dsimp only
  generalize s.drainTables w = u at *
  generalize hr : Xreq.mk _ _ _ _ _ _ _ = r
  have hstep := hdrain.trans (translate_walked u r).quiet
  generalize u.translate r = x at *
  obtain ⟨v, res⟩ := x
  cases res with
  | ok pa leaf =>
    dsimp only
    repeat' split
    all_goals exact hstep
  | fault _ _ _ => exact hstep
  | protection => exact hstep
  | uncorrectable => exact hstep
  | leased => exact hstep

theorem followWords_quiet (w : Who) (a : Acc) (n : Nat) : ∀ (s : State) (va : Nat), quiet s (s.followWords w a va n).1 := by
  induction n with
  | zero => exact fun s va => .refl s
  | succ n ih =>
    intro s va
    have hpage := followPage_quiet s w { a with size := 4, tableOk := false } 7 va
    unfold State.followWords
    dsimp only
    split
    · next s1 t hfound =>
      rw [hfound] at hpage
      have hrest := hpage.trans (ih s1 (va + 4 * w.team.k.lanes))
      split
      · next hwords => rw [hwords] at hrest; exact hrest
      · exact hrest
    · exact hpage

/-- An access outside KV space, followed to its target. -/
theorem follow_quiet (s : State) (w : Who) {a : Acc} (h : spaceOf a.addr ≠ 5) : quiet s (s.follow w a).1 := by
  unfold State.follow
  dsimp only
  split
  · exact .refl s
  · next h5 => exact absurd h5 h
  · split
    · exact .refl s
    · split
      · exact .refl s
      · exact .refl s
  · split
    · exact followPage_quiet s w a 7 _
    · exact followWords_quiet w a _ s _
  · exact followPage_quiet s w a _ _

theorem l2Access_quiet (s : State) (a : L2Access) : quiet s (s.l2Access a) := by
  obtain ⟨l, g, n, o, h⟩ := l2Access_is s a
  rw [h]
  exact quiet_of_teams rfl rfl rfl rfl

theorem loadCommitted_quiet (s : State) (a : LoadArgs) : quiet s (s.loadCommitted a).1 := by
  have hsync : quiet s (s.modPath a.key a.path (fun p => { p with pts := max p.pts a.sync })) := quiet_modPath s _ _ fun _ => rfl
  unfold State.loadCommitted
  dsimp only
  generalize s.modPath a.key a.path _ = u at *
  split
  · split
    · exact hsync
    · exact hsync.trans (quiet_modPath u _ _ fun _ => rfl)
  · have hread : ∀ (m : Memory) (T : Nat),
        quiet s (({ u with mem := m } : State).modPath a.key a.path (fun p => { p with pts := max p.pts T })) := fun m T =>
      (hsync.trans (quiet_of_teams (t := { u with mem := m }) rfl rfl rfl rfl)).trans (quiet_modPath _ _ _ fun _ => rfl)
    split
    · exact ((hread _ _).trans (tick_walked _).quiet).trans (modCore_walked _ _ _).quiet
    · exact hread _ _

theorem loadDev_quiet (s : State) (w : Who) (a : Acc) (pa space va : Nat) (leaf : BitVec 64) : quiet s (s.loadDev w a pa space va leaf).1 :=
  (l2Access_quiet s _).trans (loadCommitted_quiet _ _)

/-- A weak load that performs at once. -/
theorem performLoad_quiet {s t : State} {w : Who} {a : Acc} {x : Target} {b : List Byte} {dest : LoadDest} (hweak : a.strong = false)
    (hord : a.ord = 0) (h : s.performLoad w a x dest = (t, some b)) : quiet s t := by
  have hsync : s.syncOut w a = s := by rw [State.syncOut, hweak]; rfl
  have hacq : acquires a.ord = false := by rw [hord]; rfl
  unfold State.performLoad at h
  cases x with
  | zeros => cases h; exact .refl s
  | gone => cases h; exact (tick_walked s).quiet
  | scratch k off =>
    dsimp only at h
    rw [hacq, if_neg Bool.false_ne_true] at h
    cases h
    exact .refl s
  | dev pa space va leaf => cases h; exact loadDev_quiet s w a pa space va leaf
  | words ws =>
    obtain ⟨rfl, -⟩ := Prod.mk.inj h
    refine foldl_keeps (fun r : State × List Byte => quiet s r.1) _ _ _ (.refl s) fun r x hr => ?_
    cases x with
    | none => exact hr
    | some e => exact hr.trans (loadDev_quiet _ w _ _ 7 _ _)
  | host addr va leaf =>
    dsimp only at h
    split at h
    · cases h; rw [hsync]; exact .refl s
    · cases h
  | remote node off =>
    dsimp only at h
    split at h
    · cases h; rw [hsync]; exact .refl s
    · cases h

end Sys2Proof.Machine
end

section
/-! SUPPORT. The parts of a tree instruction (R159, R372 to R374): its handle, its checks, its release, and how it goes on. -/
namespace Sys2Proof.Machine

/-! ## The token identifiers of a TNAPPEND -/

/-- Tokens are read in the space of the first, or in the one above it. -/
theorem tokenAcc_space {a : Word64} (ha : a.toNat / 2 ^ 60 ∈ [0, 6]) {i : Nat} (hi : i < 2 ^ 12) : spaceOf (tokenAcc a i).addr ≠ 5 := by
  have hnat : (tokenAcc a i).addr.toNat = (a.toNat + 4 * i) % 2 ^ 64 := by
    rw [tokenAcc, BitVec.toNat_add, BitVec.toNat_ofNat, Nat.mod_eq_of_lt (a := 4 * i) (by omega)]
  have hlt := a.isLt
  rw [spaceOf, Laws.field_toNat, hnat]
  simp only [List.mem_cons, List.not_mem_nil, or_false] at ha
  omega

/-- Reads of token identifiers that all perform give one for each (R374). -/
theorem readTokens_quiet {w : Who} {a : Word64} (ha : a.toNat / 2 ^ 60 ∈ [0, 6]) {n : Nat} : ∀ {i : Nat} {s t : State} {ts : List (BitVec 32)},
    i + n ≤ 2 ^ 12 → readTokens w a i n s = .tokens t ts → quiet s t ∧ ts.length = n := by
  induction n with
  | zero =>
    intro i s t ts _ h
    cases h
    exact ⟨.refl s, rfl⟩
  | succ n ih =>
    intro i s t ts hi h
    have hfollow := follow_quiet s w (tokenAcc_space ha (i := i) (by omega))
    unfold readTokens at h
    dsimp only at h
    split at h
    · cases h
    · split at h
      · cases h
      · cases h
      · cases h
      · next s1 x hfound =>
        rw [hfound] at hfollow
        split at h
        · cases h
        · split at h
          · cases h
          · next s2 b hload =>
            split at h
            · next s3 us hrest =>
              cases h
              obtain ⟨hquiet, hlen⟩ := ih (by omega) hrest
              exact ⟨(hfollow.trans (performLoad_quiet rfl rfl hload)).trans hquiet, congrArg (· + 1) hlen⟩
            · next hno => exact absurd h (hno t ts)

/-! ## The commit of a release -/

theorem commitLines_translated (s : State) (cs : List Nat) (pts : Nat) (v : AMap Byte) : translated s (s.commitLines cs pts v).1 :=
  foldl_keeps (fun r : State × Nat => translated s r.1) _ _ _ (translated_refl s) fun _ _ hr => hr.trans (writeHome_is _ _ _ _ _)

theorem commitVersion_quiet (s : State) (key pi : Nat) : quiet s (s.commitVersion key pi) ∧ (s.commitVersion key pi).fab = s.fab := by
  unfold State.commitVersion
  split
  · exact ⟨.refl s, rfl⟩
  · next t _ =>
    have hlines := commitLines_translated s (teamCores (keyCore key) t) (((AMap.find t.paths pi).map (·.pts)).getD 0) t.version
    refine ⟨(walked_of_translated hlines).quiet.trans (quiet_modTeam _ key fun tm i => ?_), ?_⟩
    · show (AMap.find (tm.modPath pi _).paths i).map Path.still = _
      refine modPath_still (f := fun p => { p with pts := max p.pts _ }) (fun p => ?_) tm pi i
      rfl
    · obtain ⟨m, c, o, h⟩ := hlines
      show (s.commitLines _ _ _).1.fab = s.fab
      rw [h]

theorem newTask_quiet (s : State) (key : Nat) : quiet s (s.newTask key) ∧ (s.newTask key).fab = s.fab := by
  unfold State.newTask
  split
  · exact ⟨.refl s, rfl⟩
  · exact ⟨((modCore_walked s _ _).trans (tick_walked _)).quiet.trans (quiet_modTeam _ key fun _ _ => rfl), rfl⟩

theorem commitRelease_quiet (s : State) (key pi : Nat) : quiet s (s.commitRelease key pi) ∧ (s.commitRelease key pi).fab = s.fab := by
  obtain ⟨hcommit, hfab⟩ := commitVersion_quiet s key pi
  obtain ⟨hnew, hfab'⟩ := newTask_quiet (s.commitVersion key pi) key
  exact ⟨(hcommit.trans hnew).trans (quiet_acquireT _ key pi _), hfab'.trans hfab⟩

theorem commitRelease_wf {s : State} (h : s.mem.wf = true) (key pi : Nat) : (s.commitRelease key pi).mem.wf = true := commit_wf h key pi

/-! ## The checks before a tree instruction -/

theorem treeOp_ready {s : State} {w : Who} {rs : List Reg6} (h : scalarReady s w rs) (hh : w.team.handler = none) (f : Who → State) :
    treeOp s false rs f = .next (f w) := by
  rw [treeOp, scalarOp_ready h, hh]
  rfl

/-- The fields of a handle (R372). -/
theorem handleOf_fields {h : Word64} {slot node km1 : Nat} (hh : handleOf h slot node km1) :
    hSlot h = slot ∧ hNode h = node ∧ hKm1 h = km1 ∧ field h 32 32 = 0 := by
  obtain ⟨hnat, hnode, hslot, hkm1⟩ := hh
  refine ⟨?_, ?_, ?_, BitVec.eq_of_toNat_eq ?_⟩
  · rw [hSlot, Laws.field_toNat]; omega
  · rw [hNode, Laws.field_toNat]; omega
  · rw [hKm1, Laws.field_toNat]; omega
  · rw [Laws.field_toNat]
    show h.toNat / 2 ^ 32 % 2 ^ 32 = 0
    omega

/-- A handle's unused fields are zero. -/
theorem handleRefused_not {h : Word64} {slot node km1 : Nat} (hh : handleOf h slot node km1) {useKm1 useNode : Bool}
    (hkm1 : useKm1 = true ∨ km1 = 0) (hnode : useNode = true ∨ node = 0) : handleRefused h useKm1 useNode = false := by
  obtain ⟨-, hn, hk, hhigh⟩ := handleOf_fields hh
  rw [handleRefused, hn, hk, hhigh]
  rcases hkm1 with rfl | rfl <;> rcases hnode with rfl | rfl <;> simp

theorem kvctl_on {s : State} (h : s.kv.kvctl.toNat % 2 = 1) : s.kv.kvctl.getLsbD 0 = true := by
  rw [BitVec.getLsbD, Nat.testBit_zero]
  exact decide_eq_true h

theorem treeCheck_opening {s : State} (h : s.kv.kvctl.toNat % 2 = 1) (slot asid : Nat) : treeCheck s slot asid true = none := by
  rw [treeCheck, if_neg (by simp [kvctl_on h]), if_pos rfl]

theorem treeCheck_open {s : State} {w : Who} {slot : Nat} (h : s.kv.kvctl.toNat % 2 = 1) (ho : slotOpenTo s w slot) :
    treeCheck s slot w.team.asid false = none := by
  obtain ⟨hstate, hasid⟩ := ho
  rw [treeCheck, if_neg (by simp [kvctl_on h]), if_neg Bool.false_ne_true, if_neg (by simp [hstate]), if_neg (by omega)]

/-- Checks that find nothing find nothing the second time. -/
theorem pathCheck_none {s : State} {w : Who} {slot : Nat} {opening : Bool} (h : treeCheck s slot w.team.asid opening = none) :
    pathCheck s w slot opening = none := by
  rw [pathCheck, h, ite_self]

/-- An instruction on a slot that it reaches goes through the common checks (R159, R373). -/
theorem onSlot_reached {s : State} {w : Who} {h : Word64} {slot node km1 : Nat} (hh : handleOf h slot node km1) {useKm1 useNode : Bool}
    (hkm1 : useKm1 = true ∨ km1 = 0) (hnode : useNode = true ∨ node = 0) (hen : s.kv.kvctl.toNat % 2 = 1) (hr : slotReached s w slot)
    (f : State) : onSlot s w h useKm1 useNode f = f := by
  obtain ⟨hopen, hclaim⟩ := hr
  obtain ⟨hslot, -⟩ := handleOf_fields hh
  rw [onSlot, handleRefused_not hh hkm1 hnode, if_neg Bool.false_ne_true, hslot, hclaim, if_neg Bool.false_ne_true,
    pathCheck_none (treeCheck_open hen hopen)]

/-! ## The end of a changing operation -/

/-- The clock of the issuing path in a state. -/
def Who.clock (w : Who) (s : State) : Nat := ((s.path w.key w.pi).map (·.pts)).getD 0

/-- The state in which a changing operation that is done goes on: it has acquired the slot's release. -/
def treeAcquired (s : State) (w : Who) (slot : Nat) (t : State) : State := (t.unclaim slot).acquireT w.key w.pi (s.slot slot).rel

/-- A changing operation with nothing to wait for (R159, R374). -/
theorem treeChange_performs {s : State} {w : Who} {slot : Nat} {op : State → Nat → TreeRes} {s2 t : State} {v2 v : Word64}
    (hflight : s.inFlight w false = []) (hblocked : s.commitBlocked w.key = false) (hfirst : op s w.path.pts = .done s2 v2)
    (hop : op (s.commitRelease w.key w.pi) (w.clock (s.commitRelease w.key w.pi)) = .done t v) (fin : State → Word64 → State) :
    treeChange s w (some slot) op fin = fin (treeAcquired s w slot t) v := by
  unfold treeChange
  rw [hfirst]
  dsimp only
  rw [hflight, hblocked]
  rw [Who.clock] at hop
  rw [hop]
  rfl

theorem unclaim_treeOnly (s : State) (slot : Nat) : treeOnly s (s.unclaim slot) := by
  unfold State.unclaim
  split
  · exact .refl s
  · exact treeOnly_modKv s _

/-- The issuing path after a changing operation. -/
theorem treeAcquired_path {s0 s t : State} {w : Who} {slot : Nat} (hpath : s0.path w.key w.pi = some w.path)
    (hs : quiet s0 s) (ht : treeOnly (s.commitRelease w.key w.pi) t) :
    ∃ q, (treeAcquired s w slot t).path w.key w.pi = some q ∧ q.still = w.path.still := by
  obtain ⟨p, hp, hstill⟩ := (hs.trans (commitRelease_quiet s w.key w.pi).1).path hpath
  have hp' : (t.unclaim slot).path w.key w.pi = some p := by rw [(unclaim_treeOnly t slot).path, ht.path, hp]
  obtain ⟨q, hq, hstill'⟩ := (quiet_acquireT (t.unclaim slot) w.key w.pi (s.slot slot).rel).path hp'
  exact ⟨q, hq, hstill'.trans hstill⟩

theorem Path.still_fields {p q : Path} (h : p.still = q.still) : p.spc = q.spc ∧ p.mask = q.mask ∧ p.sregs = q.sregs := by
  have hspc : p.still.spc = q.still.spc := by rw [h]
  have hmask : p.still.mask = q.still.mask := by rw [h]
  have hsregs : p.still.sregs = q.still.sregs := by rw [h]
  exact ⟨hspc, hmask, hsregs⟩

theorem Path.s_still {p q : Path} (h : p.still = q.still) (r : Reg6) : p.s r = q.s r := by
  obtain ⟨-, -, hsregs⟩ := Path.still_fields h
  rw [Path.s, Path.s, hsregs]

/-- A path that is the issuing one but for its clock goes on at next with its register written. -/
theorem goesOnWith_writeNext {s t : State} {w : Who} {rs : List Reg6} (h : scalarReady s w rs) {q : Path}
    (hq : t.path w.key w.pi = some q) (hstill : q.still = w.path.still) (sd : Reg6) (v : Word64) :
    goesOnWith (writeNext t w sd v) w sd v := by
  obtain ⟨-, -, hwf⟩ := h
  obtain ⟨hspc, hmask, hsregs⟩ := Path.still_fields hstill
  have hwrite : (q.setS sd v).mask = q.mask := by unfold Path.setS; split <;> rfl
  refine ⟨_, onPath_path hq _, congrArg (· + 4) ((setS_spc q sd v).trans hspc), rfl, hwrite.trans hmask, fun r => ?_⟩
  rw [← Path.s_still hstill r]
  exact setS_s q (by rw [hsregs]; exact hwf) sd r v

/-- An instruction without a destination goes on at next. -/
theorem goesOnWith_treeNext {t : State} {w : Who} {q : Path} (hq : t.path w.key w.pi = some q) (hstill : q.still = w.path.still)
    (v : Word64) : goesOnWith (treeNext w t v) w 0 0 := by
  obtain ⟨hspc, hmask, -⟩ := Path.still_fields hstill
  refine ⟨_, onPath_path hq _, congrArg (· + 4) hspc, rfl, hmask, fun r => ?_⟩
  rw [if_neg (by rintro ⟨rfl, h⟩; exact h rfl), ← Path.s_still hstill r]
  rfl

/-- The slots after a changing operation: those that the operation leaves, and its own is held no longer. -/
theorem treeAcquired_slot (s : State) (w : Who) (slot : Nat) (t : State) (j : Nat) :
    (treeAcquired s w slot t).slot j = if j = slot then { t.slot slot with claim := none } else t.slot j := unclaim_slot t slot j

end Sys2Proof.Machine
end

section
/-! SUPPORT. TNOPEN and TNFORK (R142, R144, R374). -/
namespace Sys2Proof.Machine

theorem slot_of_quiet {s t : State} (h : quiet s t) (j : Nat) : t.slot j = s.slot j := by
  obtain ⟨hkv, -⟩ := h
  exact slot_of_slots (by rw [hkv]) j

/-- What an instruction without reads goes on from, and with which slots. -/
theorem treeAcquired_ends {s : State} {w : Who} {rs : List Reg6} (h : scalarReady s w rs) {slot : Nat} {t : State}
    (ht : treeOnly (s.commitRelease w.key w.pi) t) :
    ∃ q, (treeAcquired s w slot t).path w.key w.pi = some q ∧ q.still = w.path.still := by
  obtain ⟨hissuer, -⟩ := h
  exact treeAcquired_path (issuer_path hissuer) (.refl s) ht

/-- The operand of TNOPEN: planes and record size (R374). -/
theorem openOperand {b : Word64} (h1 : 1 ≤ b.toNat % 256) (h2 : b.toNat % 256 ≤ 254) (h3 : 8 ≤ b.toNat / 256) (h4 : b.toNat / 256 ≤ 14) :
    (field b 0 8).toNat = b.toNat % 256 ∧ (field b 8 4).toNat = b.toNat / 256 ∧ field b 12 52 = 0 := by
  refine ⟨?_, ?_, BitVec.eq_of_toNat_eq ?_⟩
  · rw [Laws.field_toNat]; omega
  · rw [Laws.field_toNat]; omega
  · rw [Laws.field_toNat]
    show b.toNat / 2 ^ 12 % 2 ^ 52 = 0
    omega

/-- The ASID that TNOPEN opens a slot for (R374). -/
def Who.openAsid (w : Who) : Nat := if w.team.asid = 0 then w.team.tnasid.toNat else w.team.asid

theorem tnopen_opens {s : State} {w : Who} {sd sa sb : Reg6} {slot : Nat} (h : scalarReady s w [sd, sa, sb]) (hr : treeReady s w)
    (hh : handleOf (w.path.s sa) slot 0 0) (h0 : (s.slot slot).state = 0) (hclaim : s.claimed slot w.claim = false)
    (hsvc : s.dev.svc = 1 → slot % 2 = 0) (h1 : 1 ≤ (w.path.s sb).toNat % 256) (h2 : (w.path.s sb).toNat % 256 ≤ 254)
    (h3 : 8 ≤ (w.path.s sb).toNat / 256) (h4 : (w.path.s sb).toNat / 256 ≤ 14) :
    ∃ t rel, exec (.tnopen sd sa sb) s = .next t ∧ goesOnWith t w sd (.ofNat 64 ((s.slot slot).gen + 1).toNat) ∧
      ∀ j, t.slot j = if j = slot then
        (s.slot slot).opened w.openAsid ((w.path.s sb).toNat % 256) ((w.path.s sb).toNat / 256) rel s.kv.births else s.slot j := by
  obtain ⟨hhandler, hen, hflight, hblocked⟩ := hr
  obtain ⟨hslot, -⟩ := handleOf_fields hh
  obtain ⟨hnpl, hrlog, hhigh⟩ := openOperand h1 h2 h3 h4
  have hquiet := (commitRelease_quiet s w.key w.pi).1
  obtain ⟨hkv, hdev, -⟩ := id hquiet
  have hsame := slot_of_quiet hquiet slot
  obtain ⟨u, hfirst, -⟩ := treeOpen_done h0 hsvc w.openAsid ((w.path.s sb).toNat % 256) ((w.path.s sb).toNat / 256) w.path.pts
  obtain ⟨t, hdone, htree, ht⟩ := treeOpen_done (s := s.commitRelease w.key w.pi) (by rw [hsame, h0]) (by rw [hdev]; exact hsvc)
    w.openAsid ((w.path.s sb).toNat % 256) ((w.path.s sb).toNat / 256) (w.clock (s.commitRelease w.key w.pi))
  obtain ⟨q, hq, hstill⟩ := treeAcquired_ends h (slot := slot) htree
  have hword : BitVec.setWidth 64 ((s.slot slot).gen + 1) = .ofNat 64 ((s.slot slot).gen + 1).toNat :=
    BitVec.eq_of_toNat_eq (by rw [BitVec.toNat_setWidth, BitVec.toNat_ofNat])
  refine ⟨writeNext (treeAcquired s w slot t) w sd (.ofNat 64 ((s.slot slot).gen + 1).toNat), w.clock (s.commitRelease w.key w.pi), ?_,
    goesOnWith_writeNext h hq hstill sd _, fun j => ?_⟩
  · rw [exec_tnopen, execTnopen, treeOp_ready h hhandler]
    dsimp only
    rw [handleRefused_not hh (.inr rfl) (.inr rfl), if_neg Bool.false_ne_true, hslot, hclaim, if_neg Bool.false_ne_true,
      pathCheck_none (treeCheck_opening hen slot _)]
    dsimp only
    rw [hnpl, hrlog, hhigh, if_neg (fun hbad => hbad.elim (· rfl) (by omega))]
    rw [hsame, hword] at hdone
    exact congrArg Host.Outcome.next (treeChange_performs
      (op := fun s rel => s.treeOpen slot w.openAsid ((w.path.s sb).toNat % 256) ((w.path.s sb).toNat / 256) rel)
      hflight hblocked hfirst hdone _)
  · show (treeAcquired s w slot t).slot j = _
    rw [treeAcquired_slot, ht slot, if_pos rfl, ht j, hkv, hsame]
    split
    · rfl
    · exact slot_of_quiet hquiet j

/-- The operand of TNFORK: the node (R374). -/
theorem forkOperand {b : Word64} (h : b.toNat < 256) : (field b 0 8).toNat = b.toNat ∧ field b 8 56 = 0 := by
  refine ⟨?_, BitVec.eq_of_toNat_eq ?_⟩
  · rw [Laws.field_toNat]; omega
  · rw [Laws.field_toNat]
    show b.toNat / 2 ^ 8 % 2 ^ 56 = 0
    omega

theorem tnfork_forks {s : State} {w : Who} {sa sb : Reg6} {slot p : Nat} (h : scalarReady s w [sa, sb]) (hr : treeReady s w)
    (hh : handleOf (w.path.s sa) slot p 0) (hreach : slotReached s w slot) (hroom : s.kv.free (slot % 2) ≠ [])
    (h1 : 1 ≤ (w.path.s sb).toNat) (h2 : (w.path.s sb).toNat < 256) (hfree : ((s.slot slot).node (w.path.s sb).toNat).state = 0)
    (hlive : ((s.slot slot).node p).state = 1) :
    ∃ t m bs, exec (.tnfork 0 sa sb) s = .next t ∧ goesOnWith t w 0 0 ∧ (∀ j, j ≠ slot → t.slot j = s.slot j) ∧
      ∀ n, (t.slot slot).node n = if n = (w.path.s sb).toNat then
        { ((s.slot slot).node p).forked p (w.path.s sb).toNat s.kv.births with map := m, blocks := bs } else (s.slot slot).node n := by
  obtain ⟨hhandler, hen, hflight, hblocked⟩ := hr
  obtain ⟨hslot, hnode, -⟩ := handleOf_fields hh
  obtain ⟨hc, hhigh⟩ := forkOperand h2
  have hquiet := (commitRelease_quiet s w.key w.pi).1
  obtain ⟨hkv, -⟩ := id hquiet
  have hsame := slot_of_quiet hquiet slot
  obtain ⟨u, _, _, hfirst, -⟩ := treeFork_done (p := p) (by omega) hfree hlive hroom w.path.pts
  obtain ⟨t, m, bs, hdone, htree, hother, ht⟩ := treeFork_done (s := s.commitRelease w.key w.pi) (slot := slot) (p := p)
    (c := (w.path.s sb).toNat) (by omega) (by rw [hsame, hfree]) (by rw [hsame, hlive]) (by rw [hkv]; exact hroom)
    (w.clock (s.commitRelease w.key w.pi))
  obtain ⟨q, hq, hstill⟩ := treeAcquired_ends h (slot := slot) htree
  refine ⟨treeNext w (treeAcquired s w slot t) 0, m, bs, ?_, goesOnWith_treeNext hq hstill 0, fun j hj => ?_, fun n => ?_⟩
  · rw [exec_tnfork, execTnfork]
    show treeOp s false [sa, sb] _ = _
    rw [treeOp_ready h hhandler]
    dsimp only
    rw [onSlot_reached hh (.inr rfl) (.inl rfl) hen hreach, hhigh, if_neg (fun hne => hne rfl), hslot, hnode, hc]
    rw [treeChange_performs (op := fun s rel => s.treeFork slot p (w.path.s sb).toNat rel) hflight hblocked hfirst hdone]
  · show (treeAcquired s w slot t).slot j = _
    rw [treeAcquired_slot, if_neg hj, hother j hj, slot_of_quiet hquiet]
  · show ((treeAcquired s w slot t).slot slot).node n = _
    rw [treeAcquired_slot, if_pos rfl]
    show (t.slot slot).node n = _
    rw [ht, hsame, hkv]

end Sys2Proof.Machine
end

section
/-! SUPPORT. TNAPPEND (R144, R145, R374): what an append changes, and the instruction over it. -/
namespace Sys2Proof.Machine

/-! ## What the token plane's writes change of a slot -/

/-- `t` is `s` but for what tree operations change, and of the slots nothing but the map and map blocks of one node, and map frames. -/
def mapOnly (s t : State) (slot n : Nat) : Prop :=
  treeOnly s t ∧ (∀ j, j ≠ slot → t.slot j = s.slot j) ∧ (∀ m, m ≠ n → (t.slot slot).node m = (s.slot slot).node m) ∧
    ∃ mp bs, (t.slot slot).node n = { (s.slot slot).node n with map := mp, blocks := bs }

theorem mapOnly_of_slots {s t : State} (h : treeOnly s t) (hs : t.kv.slots = s.kv.slots) (slot n : Nat) : mapOnly s t slot n :=
  ⟨h, fun j _ => slot_of_slots hs j, fun m _ => by rw [slot_of_slots hs], _, _, by rw [slot_of_slots hs]⟩

theorem mapOnly.trans {s t u : State} {slot n : Nat} (h : mapOnly s t slot n) (g : mapOnly t u slot n) : mapOnly s u slot n := by
  obtain ⟨htree, hslots, hnodes, _, _, hnode⟩ := h
  obtain ⟨gtree, gslots, gnodes, mp, bs, gnode⟩ := g
  exact ⟨htree.trans gtree, fun j hj => (gslots j hj).trans (hslots j hj), fun m hm => (gnodes m hm).trans (hnodes m hm), mp, bs,
    by rw [gnode, hnode]⟩

theorem mapOnly_of_taken {s t : State} {slot n : Nat} {mp : List MapEnt} (h : mapTaken s t slot n mp) : mapOnly s t slot n := by
  have htree := h.treeOnly
  obtain ⟨-, -, bs, fs, hslot⟩ := h
  have hnode : ∀ m, (t.slot slot).node m = if m = n then { (s.slot slot).node n with map := mp, blocks := bs } else (s.slot slot).node m :=
    fun m => by rw [hslot, if_pos rfl]; exact setNode_node _ n m _
  exact ⟨htree, fun j hj => (hslot j).trans (if_neg hj), fun m hm => (hnode m).trans (if_neg hm), mp, bs, (hnode n).trans (if_pos rfl)⟩

/-- A fresh frame is taken and filled (R148). -/
theorem freshFrame_treeOnly {s u : State} {die f : Nat} {word : BitVec 32} (h : s.popFree die word = some (u, f)) (pts : Nat) :
    treeOnly s ((u.zeroFrame f pts).noteFill f) ∧ ((u.zeroFrame f pts).noteFill f).kv.slots = s.kv.slots := by
  obtain ⟨fs, o, -, hu⟩ := popFree_is h
  have htree : treeOnly s u := by rw [hu]; exact ⟨_, s.mem, s.cores, o, s.fab, rfl⟩
  have hslots : u.kv.slots = s.kv.slots := by rw [hu]; exact setFree_slots _ _ _
  have hzero := zeroFrame_translated u f pts
  have hzkv : (u.zeroFrame f pts).kv = u.kv := translated_kv hzero
  generalize u.zeroFrame f pts = z at *
  exact ⟨(htree.trans (treeOnly_of_translated hzero)).trans (treeOnly_modKv z _), (congrArg Kv.slots hzkv).trans hslots⟩

/-- A translation that gives an address changes the map of the node that it is for, at most (R148). -/
theorem kvTranslate_mapOnly {s t : State} {r : KvReq} {pts pa : Nat} (h : s.kvTranslate r pts = (t, .ok pa)) :
    mapOnly s t r.addr.slot r.addr.node := by
  unfold State.kvTranslate at h
  dsimp only at h
  split at h
  · cases h
  · split at h
    · split at h
      · cases h
      · split at h
        · cases h
        · split at h
          · cases h
          · next u f hpop =>
            split at h
            · cases h
            · split at h
              · cases h
              · next v hset =>
                cases h
                obtain ⟨htree, hslots⟩ := freshFrame_treeOnly hpop pts
                exact ((mapOnly_of_slots htree hslots _ _).trans (mapOnly_of_taken (setMap_taken hset))).trans
                  (mapOnly_of_slots (treeOnly_of_wrote (mirror_wrote v _)) (congrArg Kv.slots (mirror_wrote v _).kv) _ _)
    · repeat' split at h
      all_goals cases h
      exact mapOnly_of_slots (.refl s) rfl _ _

theorem writeLines_mapOnly (s : State) (cs : List Nat) (pts pa : Nat) (bs : List Byte) (slot n : Nat) :
    mapOnly s (s.writeLines cs pts pa bs).1 slot n := by
  have hlines : translated s (s.writeLines cs pts pa bs).1 := writeLines_is s cs pts pa bs
  exact mapOnly_of_slots (treeOnly_of_translated hlines) (congrArg Kv.slots (translated_kv hlines)) _ _

theorem putToken_mapOnly {s t : State} {slot n pos pts x : Nat} {tok : BitVec 32} (h : s.putToken slot n pos tok pts = .put t x) :
    mapOnly s t slot n := by
  unfold State.putToken at h
  dsimp only at h
  split at h
  · next u pa hok =>
    split at h
    · cases h
    · cases h
      exact (kvTranslate_mapOnly hok).trans (writeLines_mapOnly u _ _ _ _ slot n)
  all_goals cases h

theorem putTokens_mapOnly {slot n pts : Nat} {toks : List (BitVec 32)} : ∀ {s t : State} {pos x y : Nat},
    s.putTokens slot n pos toks pts x = .put t y → mapOnly s t slot n := by
  induction toks with
  | nil =>
    intro s t pos x y h
    cases h
    exact mapOnly_of_slots (.refl s) rfl _ _
  | cons tok toks ih =>
    intro s t pos x y h
    unfold State.putTokens at h
    split at h
    · next hput => exact (putToken_mapOnly hput).trans (ih h)
    · next hno => exact absurd h (hno t y)

/-! ## An append that is done -/

/-- A slot some node of which is longer, and whose release time is as late as one at least. -/
def Slot.grown (k : Slot) (n more rel : Nat) : Slot :=
  { k.setNode n { k.node n with len := (k.node n).len + more } with rel := max k.rel rel }

/-- The state in which an append's identifiers enter the token plane. -/
def State.grow (s : State) (slot n more rel : Nat) : State :=
  s.modKv (fun kv => { kv with slots := AMap.insert slot ((s.slot slot).grown n more rel) kv.slots })

theorem grow_slot (s : State) (slot n more rel j : Nat) :
    (s.grow slot n more rel).slot j = if j = slot then (s.slot slot).grown n more rel else s.slot j := slot_of_insert (s := s) rfl j

theorem grown_node (k : Slot) (n more rel m : Nat) :
    (k.grown n more rel).node m = if m = n then { k.node n with len := (k.node n).len + more } else k.node m := setNode_node k n m _

/-- An append that is done has put its identifiers in, and then the slot's image (R144). -/
theorem treeAppend_put {s t : State} {slot n rel pts : Nat} {toks : List (BitVec 32)} {v : Word64}
    (h : s.treeAppend slot n toks rel pts = .done t v) :
    ∃ u x, (s.grow slot n toks.length rel).putTokens slot n (((s.slot slot).node n).start + ((s.slot slot).node n).len) toks pts 0 = .put u x ∧
      t = u.putSlot slot { u.slot slot with rel := max (u.slot slot).rel x } ∧
      v = .ofNat 64 (((s.slot slot).node n).start + ((s.slot slot).node n).len + toks.length) := by
  unfold State.treeAppend at h
  dsimp only at h
  split at h
  · cases h
  · split at h
    · cases h
    · cases h
    · cases h
    · next u x hput =>
      obtain ⟨rfl, rfl⟩ := TreeRes.done.inj h
      exact ⟨u, x, hput, rfl, rfl⟩

/-- What an append changes of the slots. -/
theorem treeAppend_done {s t : State} {slot n rel pts : Nat} {toks : List (BitVec 32)} {v : Word64}
    (h : s.treeAppend slot n toks rel pts = .done t v) :
    treeOnly s t ∧ v = .ofNat 64 (((s.slot slot).node n).start + ((s.slot slot).node n).len + toks.length) ∧
      (∀ j, j ≠ slot → t.slot j = s.slot j) ∧ (∀ m, m ≠ n → (t.slot slot).node m = (s.slot slot).node m) ∧
      ∃ mp bs, (t.slot slot).node n =
        { (s.slot slot).node n with len := ((s.slot slot).node n).len + toks.length, map := mp, blocks := bs } := by
  obtain ⟨u, x, hput, rfl, hv⟩ := treeAppend_put h
  obtain ⟨htree, hslots, hnodes, mp, bs, hnode⟩ := putTokens_mapOnly hput
  have hhere : ∀ m, ((u.putSlot slot { u.slot slot with rel := max (u.slot slot).rel x }).slot slot).node m = (u.slot slot).node m :=
    fun m => by rw [putSlot_slot, if_pos rfl]; rfl
  have hgrown : ∀ m, ((s.grow slot n toks.length rel).slot slot).node m = if m = n then
      { (s.slot slot).node n with len := ((s.slot slot).node n).len + toks.length } else (s.slot slot).node m :=
    fun m => by rw [grow_slot, if_pos rfl, grown_node]
  refine ⟨((treeOnly_modKv s _).trans htree).trans (putSlot_treeOnly u slot _), hv, fun j hj => ?_, fun m hm => ?_, mp, bs, ?_⟩
  · rw [putSlot_slot, if_neg hj, hslots j hj, grow_slot, if_neg hj]
  · rw [hhere, hnodes m hm, hgrown, if_neg hm]
  · rw [hhere, hnode, hgrown, if_pos rfl]

/-! ## The instruction -/

theorem watchStop_none (s : State) (w : Who) (lane : Bool) : watchStop s w [] lane = s := by
  unfold watchStop
  rw [ite_self]

theorem watchMatch_detached {s : State} {w : Who} (h : s.dbg.attached ≠ some (.ofNat 12 w.team.asid)) (as : List Acc) :
    watchMatch s w as = [] := if_pos h

theorem unclaim_mem (s : State) (slot : Nat) : (s.unclaim slot).mem = s.mem := by unfold State.unclaim; split <;> rfl

section Append

variable {s s1 s2 s3 : State} {w : Who} {sd sa sb : Reg6} {slot n km1 : Nat} {ts : List (BitVec 32)} {v2 v3 : Word64}

/-- A TNAPPEND goes through its checks and its reads, and goes on from the append under the path's clock (R374). -/
theorem tnappend_performs (h : scalarReady s w [sd, sa, sb]) (hr : treeReady s w) (hh : handleOf (w.path.s sa) slot n km1)
    (hreach : slotReached s w slot) (hspace : (w.path.s sb).toNat / 2 ^ 60 ∈ [0, 6]) (halign : (w.path.s sb).toNat % 4 = 0)
    (hcheck : appendCheck s slot n (km1 + 1) = true) (hdbg : s.dbg.attached ≠ some (.ofNat 12 w.team.asid))
    (hread : readTokens w (w.path.s sb) 0 (km1 + 1) s = .tokens s1 ts) (hflight : s1.inFlight w false = [])
    (hblocked : s1.commitBlocked w.key = false) (hfirst : s1.treeAppend slot n ts w.path.pts w.path.pts = .done s2 v2)
    (hop : (s1.commitRelease w.key w.pi).treeAppend slot n ts (w.clock (s1.commitRelease w.key w.pi))
      (w.clock (s1.commitRelease w.key w.pi)) = .done s3 v3) :
    exec (.tnappend sd sa sb) s = .next (writeNext (treeAcquired s1 w slot s3) w sd v3) := by
  obtain ⟨hhandler, hen, hflight0, -⟩ := hr
  obtain ⟨hslot, hnode, hkm1, -⟩ := handleOf_fields hh
  have hlt : km1 < 4096 := hh.2.2.2
  obtain ⟨⟨-, -, hdbg1, -⟩, -⟩ := readTokens_quiet hspace (by omega) hread
  have hnat : (spaceOf (w.path.s sb) = 0) ∨ spaceOf (w.path.s sb) = 6 := by
    rw [spaceOf, Laws.field_toNat]
    simp only [List.mem_cons, List.not_mem_nil, or_false] at hspace
    omega
  have hacq : s.acquiring w false = false := by rw [State.acquiring, hflight0]; rfl
  rw [exec_tnappend, execTnappend, treeOp_ready h hhandler]
  dsimp only
  rw [onSlot_reached hh (.inl rfl) (.inl rfl) hen hreach, if_neg (by omega), if_neg (by omega), hslot, hnode, hkm1, hcheck,
    if_neg (by decide), hacq, if_neg Bool.false_ne_true, hread]
  dsimp only
  rw [watchMatch_detached (by rw [hdbg1]; exact hdbg), watchStop_none]
  exact congrArg Host.Outcome.next (treeChange_performs (op := fun s rel => s.treeAppend slot n ts rel rel) hflight hblocked hfirst hop _)

/-- What a TNAPPEND leaves (R144, R374). -/
theorem tnappend_grows (h : scalarReady s w [sd, sa, sb]) (hh : handleOf (w.path.s sa) slot n km1)
    (hspace : (w.path.s sb).toNat / 2 ^ 60 ∈ [0, 6]) (hread : readTokens w (w.path.s sb) 0 (km1 + 1) s = .tokens s1 ts)
    (hop : (s1.commitRelease w.key w.pi).treeAppend slot n ts (w.clock (s1.commitRelease w.key w.pi))
      (w.clock (s1.commitRelease w.key w.pi)) = .done s3 v3) :
    let t := writeNext (treeAcquired s1 w slot s3) w sd v3
    goesOnWith t w sd v3 ∧ t.kv = (s3.unclaim slot).kv ∧ t.mem = s3.mem ∧ ts.length = km1 + 1 ∧
      v3 = .ofNat 64 (((s.slot slot).node n).start + ((s.slot slot).node n).len + (km1 + 1)) ∧
      (∀ j, j ≠ slot → t.slot j = s.slot j) ∧ (∀ m, m ≠ n → (t.slot slot).node m = (s.slot slot).node m) ∧
      (t.slot slot).node n = (s3.slot slot).node n ∧
      ∃ mp bs, (t.slot slot).node n =
        { (s.slot slot).node n with len := ((s.slot slot).node n).len + (km1 + 1), map := mp, blocks := bs } := by
  have hlt : km1 < 4096 := hh.2.2.2
  obtain ⟨hissuer, -⟩ := id h
  obtain ⟨hquiet, hlen⟩ := readTokens_quiet hspace (by omega) hread
  have hsame := slot_of_quiet (hquiet.trans (commitRelease_quiet s1 w.key w.pi).1)
  obtain ⟨htree, hv, hother, hnodes, mp, bs, hnode⟩ := treeAppend_done hop
  obtain ⟨q, hq, hstill⟩ := treeAcquired_path (slot := slot) (issuer_path hissuer) hquiet htree
  have hslot : ∀ j, (writeNext (treeAcquired s1 w slot s3) w sd v3).slot j =
      if j = slot then { s3.slot slot with claim := none } else s3.slot j := treeAcquired_slot s1 w slot s3
  have hhere : ∀ m, ((writeNext (treeAcquired s1 w slot s3) w sd v3).slot slot).node m = (s3.slot slot).node m :=
    fun m => by rw [hslot, if_pos rfl]; rfl
  rw [hsame, hlen] at hv hnode
  refine ⟨goesOnWith_writeNext h hq hstill sd v3, rfl, unclaim_mem s3 slot, hlen, hv, fun j hj => ?_, fun m hm => ?_, hhere n, mp, bs,
    (hhere n).trans hnode⟩
  · rw [hslot, if_neg hj, hother j hj, hsame]
  · rw [hhere, hnodes m hm, hsame]

end Append

end Sys2Proof.Machine
end

section
/-! SUPPORT. Token identifiers that one block takes (R144, R145, R374), and the growth of token trees. -/
namespace Sys2Proof.Machine

/-! ## One identifier -/

/-- Where the identifier of a position lies in a frame of the token plane (R145). -/
def tokenPa (f pos : Nat) : Nat := f * 0x10000 + pos % 2 ^ 14 * 4

/-- A position of a live node whose frame the node's own map names, which no other node shares and no rebuild or lease holds up. -/
structure tokenFits (s : State) (slot n f pos : Nat) : Prop where
  isOpen : (s.slot slot).state = 1
  live : ((s.slot slot).node n).state = 1
  after : ((s.slot slot).node n).start ≤ pos
  before : pos < ((s.slot slot).node n).start + ((s.slot slot).node n).len
  named : mapFind ((s.slot slot).node n).map 255 (pos / 2 ^ 14) = some f
  own : s.kv.refc f ≤ 1
  whole : s.kv.rb f = false
  nothingHeld : s.fab.held = []
  unleased : s.leaseBlocked (tokenPa f pos) = false

theorem leaseBlocked_fab {s t : State} (h : t.fab = s.fab) (pa : Nat) : t.leaseBlocked pa = s.leaseBlocked pa := by
  rw [State.leaseBlocked, State.leaseBlocked, h]

theorem tokenFits_congr {s t : State} {slot n f pos : Nat} (h : tokenFits s slot n f pos) (hkv : t.kv = s.kv) (hfab : t.fab = s.fab) :
    tokenFits t slot n f pos := by
  have hslot : t.slot slot = s.slot slot := slot_of_slots (by rw [hkv]) slot
  obtain ⟨hopen, hlive, hafter, hbefore, hnamed, hown, hwhole, hheld, hfree⟩ := h
  constructor
  · rw [hslot, hopen]
  · rw [hslot, hlive]
  · rw [hslot]; exact hafter
  · rw [hslot]; exact hbefore
  · rw [hslot]; exact hnamed
  · rw [hkv]; exact hown
  · rw [hkv]; exact hwhole
  · rw [hfab]; exact hheld
  · rw [leaseBlocked_fab hfab]; exact hfree

/-- The request of a tree operation for an identifier's place (R148). -/
def tokenReq (slot n pos : Nat) : KvReq :=
  { addr := { plane := 255, slot := slot, node := n, pos := pos, off := 0 }, size := 4, write := true, asid := 0, tree := true, rebuild := none }

theorem kvPa_token (slot n pos f : Nat) : kvPa 4 (tokenReq slot n pos).addr f = tokenPa f pos := by simp [kvPa, tokenReq, tokenPa]

theorem kvTranslate_fits {s : State} {slot n f pos : Nat} (h : tokenFits s slot n f pos) (pts : Nat) :
    s.kvTranslate (tokenReq slot n pos) pts = (s, .ok (tokenPa f pos)) := by
  have hcheck : kvCheck s (tokenReq slot n pos) = none := by
    have hbefore := h.before
    have hafter := h.after
    unfold kvCheck tokenReq
    dsimp only
    rw [if_neg (by simp [h.isOpen]), if_neg (by simp), if_neg (by simp), if_neg (by simp [planeShape]), if_neg (by simp [h.live]),
      if_neg (by omega), if_neg (by simp), if_neg (by omega)]
  have hshape : planeShape (s.slot (tokenReq slot n pos).addr.slot) (tokenReq slot n pos).addr.plane (tokenReq slot n pos).addr.pos =
      (4, pos / 2 ^ 14) := rfl
  have hlookup : lookupUp (s.slot (tokenReq slot n pos).addr.slot) (tokenReq slot n pos).addr.plane (pos / 2 ^ 14) 256
      (tokenReq slot n pos).addr.node = some (n, f) := by
    have hnamed : mapFind ((s.slot (tokenReq slot n pos).addr.slot).node (tokenReq slot n pos).addr.node).map
      (tokenReq slot n pos).addr.plane (pos / 2 ^ 14) = some f := h.named
    rw [lookupUp, hnamed]
    rfl
  have hown := h.own
  unfold State.kvTranslate
  rw [hcheck]
  dsimp only
  rw [hshape, hlookup]
  dsimp only
  rw [h.whole, if_neg (by simp), if_neg (by simp [tokenReq]), if_neg (by simp [tokenReq]; omega), kvPa_token]

/-- An identifier that fits enters committed memory at its place. -/
theorem putToken_fits {s : State} {slot n f pos : Nat} (h : tokenFits s slot n f pos) (hwf : s.mem.wf = true) (tok : BitVec 32) (pts : Nat) :
    ∃ t x, s.putToken slot n pos tok pts = .put t x ∧ t.kv = s.kv ∧ t.fab = s.fab ∧ t.mem.wf = true ∧
      bytesStored s t (tokenPa f pos) (toBytes 4 tok.toNat) := by
  obtain ⟨hbytes, -⟩ := writeLines_bytes s [] pts (tokenPa f pos) (toBytes 4 tok.toNat)
  obtain ⟨m, c, o, hwrite⟩ := writeLines_is s [] pts (tokenPa f pos) (toBytes 4 tok.toNat)
  have hfree : s.lineHeld (tokenPa f pos) = false := by rw [State.lineHeld, h.unleased, h.nothingHeld]; rfl
  refine ⟨(s.writeLines [] pts (tokenPa f pos) (toBytes 4 tok.toNat)).1,
    max (s.writeLines [] pts (tokenPa f pos) (toBytes 4 tok.toNat)).2 (s.kv.fillStamp (frameOf (tokenPa f pos))), ?_, by rw [hwrite], by rw [hwrite],
    writeLines_wf hwf _ _ _ _, fun a => ?_⟩
  · unfold State.putToken
    have htran := kvTranslate_fits h pts
    unfold tokenReq at htran
    dsimp only
    rw [htran]
    dsimp only
    rw [hfree]
    rfl
  · rw [byteAt, hbytes]
    exact Tab.get_setList 0 _ _ a _ ((Memory.wf_iff _).1 hwf).1

/-! ## All of them -/

/-- Bytes that are stored are read. -/
theorem readPa_stored {s t : State} {pa : Nat} {bs : List Byte} (h : bytesStored s t pa bs) : t.readPa pa bs.length = bs := by
  refine List.ext_getElem ?_ fun i hi hi' => ?_
  · rw [State.readPa_eq, List.length_map, List.length_range]
  · simp only [State.readPa_eq, List.getElem_map, List.getElem_range]
    rw [h, if_pos (by omega), Nat.add_sub_cancel_left, List.getD_eq_getElem _ _ hi']

theorem readPa_congr {s t : State} {pa n : Nat} (h : ∀ i < n, byteAt t (pa + i) = byteAt s (pa + i)) : t.readPa pa n = s.readPa pa n := by
  rw [State.readPa_eq, State.readPa_eq]
  exact List.map_congr_left fun i hi => h i (List.mem_range.1 hi)

/-- Positions of one block lie one after the other. -/
theorem tokenPa_add {f pos i : Nat} (h : pos / 2 ^ 14 = (pos + i) / 2 ^ 14) : tokenPa f (pos + i) = tokenPa f pos + 4 * i := by
  unfold tokenPa
  omega

/-- Identifiers that fit, of one block, enter committed memory one after the other. -/
theorem putTokens_fit {slot n f pts : Nat} {toks : List (BitVec 32)} : ∀ {s : State} {pos : Nat} (x : Nat), s.mem.wf = true →
    (∀ i < toks.length, tokenFits s slot n f (pos + i) ∧ pos / 2 ^ 14 = (pos + i) / 2 ^ 14) →
    ∃ t y, s.putTokens slot n pos toks pts x = .put t y ∧ t.kv = s.kv ∧ t.mem.wf = true ∧
      (∀ a, a < tokenPa f pos ∨ tokenPa f pos + 4 * toks.length ≤ a → byteAt t a = byteAt s a) ∧
      ∀ i < toks.length, t.readPa (tokenPa f pos + 4 * i) 4 = toBytes 4 (toks.getD i 0).toNat := by
  induction toks with
  | nil => exact fun {s pos} x hwf _ => ⟨s, x, rfl, rfl, hwf, fun _ _ => rfl, fun i hi => absurd hi (Nat.not_lt_zero i)⟩
  | cons tok toks ih =>
    intro s pos x hwf hfits
    have hfit : tokenFits s slot n f pos := (hfits 0 (Nat.succ_pos _)).1
    obtain ⟨s1, y1, hput, hkv1, hfab1, hwf1, hstored⟩ := putToken_fits hfit hwf tok pts
    have hlen : (toBytes 4 tok.toNat).length = 4 := length_toBytes 4 _
    have hrest : ∀ i < toks.length, tokenFits s1 slot n f (pos + 1 + i) ∧ (pos + 1) / 2 ^ 14 = (pos + 1 + i) / 2 ^ 14 := fun i hi => by
      obtain ⟨hnext, hblock⟩ := hfits (i + 1) (Nat.succ_lt_succ hi)
      rw [show pos + 1 + i = pos + (i + 1) by omega]
      exact ⟨tokenFits_congr hnext hkv1 hfab1, by omega⟩
    obtain ⟨t, y, hputs, hkv, hwft, hout, hin⟩ := ih (max x y1) hwf1 hrest
    have hstep : toks ≠ [] → tokenPa f (pos + 1) = tokenPa f pos + 4 := fun hne => by
      obtain ⟨-, hblock⟩ := hfits 1 (Nat.succ_lt_succ (List.length_pos_iff.2 hne))
      exact tokenPa_add hblock
    have hkeep : ∀ a, a < tokenPa f pos + 4 ∨ tokenPa f pos + 4 * (toks.length + 1) ≤ a → byteAt t a = byteAt s1 a := fun a ha => by
      by_cases hne : toks = []
      · subst hne
        cases hputs
        rfl
      · have := hstep hne
        exact hout a (by omega)
    refine ⟨t, y, ?_, hkv.trans hkv1, hwft, fun a ha => ?_, fun i hi => ?_⟩
    · rw [State.putTokens, hput]
      exact hputs
    · rw [List.length_cons] at ha
      rw [hkeep a (by omega), byteAt_outside hstored (by omega)]
    · cases i with
      | zero =>
        have hfirst : t.readPa (tokenPa f pos) 4 = s1.readPa (tokenPa f pos) 4 := readPa_congr fun j hj => hkeep _ (by omega)
        have hread := readPa_stored hstored
        rw [hlen] at hread
        rw [Nat.mul_zero, Nat.add_zero, hfirst, hread, List.getD_cons_zero]
      | succ i =>
        have hi' : i < toks.length := Nat.lt_of_succ_lt_succ hi
        have hread := hin i hi'
        rw [hstep (by rintro rfl; exact absurd hi' (Nat.not_lt_zero i))] at hread
        rw [show tokenPa f pos + 4 * (i + 1) = tokenPa f pos + 4 + 4 * i by omega, hread, List.getD_cons_succ]

/-! ## An append that one block takes -/

/-- A node that is not free is one of its slot's. -/
theorem node_mem {k : Slot} {n : Nat} (h : (k.node n).state = 1) : (n, k.node n) ∈ k.nodes := by
  unfold Slot.node at *
  cases hfind : AMap.find k.nodes n with
  | none => rw [hfind] at h; cases h
  | some nd => exact AMap.mem_of_find hfind

/-- The state with a slot replaced, before its image is written. -/
def State.insertSlot (s : State) (slot : Nat) (k : Slot) : State := s.modKv (fun kv => { kv with slots := AMap.insert slot k kv.slots })

/-- The bytes off a slot's image keep when the slot is replaced. -/
theorem putSlot_outside {s : State} (h : s.mem.wf = true) (slot : Nat) (k : Slot) {x : Nat}
    (hx : ∀ a ∈ slotImage (s.insertSlot slot k) slot, x < a ∨ a + 64 ≤ x) : byteAt (s.putSlot slot k) x = byteAt s x :=
  (mirror_outside (s := s.insertSlot slot k) h slot hx).1

/-- A slot's image lies where it did when one of its nodes has another length. -/
theorem slotImage_grown {s t : State} {slot n more rel : Nat} (hlive : ((s.slot slot).node n).state = 1)
    (hbase : t.kv.kvbase = s.kv.kvbase) (hnodes : (t.slot slot).nodes = ((s.slot slot).grown n more rel).nodes) {a : Nat}
    (ha : a ∈ slotImage t slot) : a ∈ slotImage s slot := by
  unfold slotImage at *
  rw [hbase, hnodes] at ha
  rcases List.mem_cons.1 ha with rfl | ha
  · exact List.mem_cons_self
  · obtain ⟨e, he, hae⟩ := List.mem_flatMap.1 ha
    refine List.mem_cons_of_mem _ (List.mem_flatMap.2 ?_)
    rcases AMap.mem_insert he with rfl | he
    · exact ⟨_, node_mem hlive, hae⟩
    · exact ⟨e, he, hae⟩

/-- What an append finds that a block of its node takes: what `tokenFits` asks of the grown node, and the room of the node's own check. -/
structure blockTakes (s : State) (slot n f km1 : Nat) : Prop where
  isOpen : (s.slot slot).state = 1
  live : ((s.slot slot).node n).state = 1
  childless : (s.slot slot).liveChild n = false
  room : ((s.slot slot).node n).start + ((s.slot slot).node n).len + (km1 + 1) ≤ 2 ^ 18 - 1
  oneBlock : (((s.slot slot).node n).start + ((s.slot slot).node n).len) / 2 ^ 14 =
    (((s.slot slot).node n).start + ((s.slot slot).node n).len + km1) / 2 ^ 14
  named : mapFind ((s.slot slot).node n).map 255 ((((s.slot slot).node n).start + ((s.slot slot).node n).len) / 2 ^ 14) = some f
  own : s.kv.refc f ≤ 1
  whole : s.kv.rb f = false
  apart : ∀ a ∈ slotImage s slot, a + 64 ≤ f * 0x10000 ∨ (f + 1) * 0x10000 ≤ a

theorem appendCheck_takes {s : State} {slot n f km1 : Nat} (h : blockTakes s slot n f km1) : appendCheck s slot n (km1 + 1) = true := by
  have hroom := h.room
  rw [appendCheck, h.live, h.childless]
  simpa using by omega

/-- The grown node's new positions fit. -/
theorem blockTakes.fits {s u : State} {slot n f km1 : Nat} (h : blockTakes s slot n f km1) (hkv : u.kv = s.kv) (hheld : u.fab.held = [])
    (hlease : ∀ i ≤ km1, u.leaseBlocked (tokenPa f (((s.slot slot).node n).start + ((s.slot slot).node n).len + i)) = false)
    (rel : Nat) {i : Nat} (hi : i ≤ km1) :
    tokenFits (u.grow slot n (km1 + 1) rel) slot n f (((s.slot slot).node n).start + ((s.slot slot).node n).len + i) := by
  have hslot : (u.grow slot n (km1 + 1) rel).slot slot = (s.slot slot).grown n (km1 + 1) rel := by
    rw [grow_slot, if_pos rfl, slot_of_slots (s := s) (by rw [hkv])]
  have hnode : ((u.grow slot n (km1 + 1) rel).slot slot).node n =
      { (s.slot slot).node n with len := ((s.slot slot).node n).len + (km1 + 1) } := by rw [hslot, grown_node, if_pos rfl]
  have hblock := h.oneBlock
  constructor
  · rw [hslot]; exact h.isOpen
  · rw [hnode]; exact h.live
  · rw [hnode]; dsimp only; omega
  · rw [hnode]; dsimp only; omega
  · rw [hnode, show (((s.slot slot).node n).start + ((s.slot slot).node n).len + i) / 2 ^ 14 =
      (((s.slot slot).node n).start + ((s.slot slot).node n).len) / 2 ^ 14 by omega]
    exact h.named
  · show u.kv.refc f ≤ 1
    rw [hkv]; exact h.own
  · show u.kv.rb f = false
    rw [hkv]; exact h.whole
  · exact hheld
  · exact (leaseBlocked_fab (s := u) rfl _).trans (hlease i hi)

/-- An append that one block takes is done, and its identifiers stand in the token plane (R144, R145). -/
theorem treeAppend_takes {s u : State} {slot n f km1 : Nat} {toks : List (BitVec 32)} (h : blockTakes s slot n f km1)
    (hlen : toks.length = km1 + 1) (hkv : u.kv = s.kv) (hwf : u.mem.wf = true) (hheld : u.fab.held = [])
    (hlease : ∀ i ≤ km1, u.leaseBlocked (tokenPa f (((s.slot slot).node n).start + ((s.slot slot).node n).len + i)) = false)
    (rel : Nat) : ∃ t v, u.treeAppend slot n toks rel rel = .done t v ∧
      (t.slot slot).node n = { (s.slot slot).node n with len := ((s.slot slot).node n).len + (km1 + 1) } ∧
      ∀ i ≤ km1, t.readPa (tokenPa f (((s.slot slot).node n).start + ((s.slot slot).node n).len + i)) 4 =
        toBytes 4 (toks.getD i 0).toNat := by
  have hsame : u.slot slot = s.slot slot := slot_of_slots (by rw [hkv]) slot
  have hblock := h.oneBlock
  have hcheck : appendCheck u slot n toks.length = true := by
    rw [hlen]
    have := appendCheck_takes h
    rwa [appendCheck, ← hsame] at this
  generalize hpos : ((s.slot slot).node n).start + ((s.slot slot).node n).len = pos at *
  obtain ⟨t, x, hput, htkv, htwf, -, hread⟩ := putTokens_fit (s := u.grow slot n (km1 + 1) rel) (pos := pos) (toks := toks) (slot := slot)
    (n := n) (f := f) (pts := rel) 0 hwf fun i hi => by
      have hfit := h.fits hkv hheld (by rw [hpos]; exact hlease) rel (i := i) (by omega)
      rw [hpos] at hfit
      exact ⟨hfit, by omega⟩
  generalize hk : ({ t.slot slot with rel := max (t.slot slot).rel x } : Slot) = k
  have hnodes : k.nodes = ((s.slot slot).grown n (km1 + 1) rel).nodes := by
    rw [← hk]
    show (t.slot slot).nodes = _
    rw [slot_of_slots (s := u.grow slot n (km1 + 1) rel) (by rw [htkv]), grow_slot, if_pos rfl, hsame]
  have happend : u.treeAppend slot n toks rel rel = .done (t.putSlot slot k) (.ofNat 64 (pos + toks.length)) := by
    unfold State.treeAppend
    dsimp only
    rw [hcheck, if_neg (by decide), hsame, hpos]
    rw [← hlen, State.grow, hsame, Slot.grown] at hput
    rw [hput]
    dsimp only
    rw [hk]
  refine ⟨_, _, happend, ?_, fun i hi => ?_⟩
  · rw [putSlot_slot, if_pos rfl, Slot.node, hnodes]
    exact (grown_node (s.slot slot) n (km1 + 1) rel n).trans (if_pos rfl)
  · have hplace : tokenPa f (pos + i) = tokenPa f pos + 4 * i := tokenPa_add (by omega)
    have hhigh : f * 0x10000 ≤ tokenPa f (pos + i) ∧ tokenPa f (pos + i) + 4 ≤ (f + 1) * 0x10000 := by
      unfold tokenPa; omega
    rw [← hread i (by omega), ← hplace]
    refine readPa_congr fun j hj => ?_
    refine putSlot_outside htwf slot k fun a ha => ?_
    have hin := slotImage_grown (s := s) (t := t.insertSlot slot k) (more := km1 + 1) (rel := rel) h.live
      (show t.kv.kvbase = s.kv.kvbase by rw [htkv, ← hkv]; rfl)
      ((congrArg Slot.nodes ((slot_of_insert (s := t) rfl slot).trans (if_pos rfl))).trans hnodes) ha
    have := h.apart a hin
    omega

/-! ## Growth -/

theorem tokensAppended : Says.TokensAppended := by
  intro s s1 w sd sa sb slot n km1 f ts h hr hh hreach hspace halign hdbg nd hlive hchild hroom hblock hnamed hown hwhole hapart hread hwf
    hheld hlease hflight hblocked
  have htakes : blockTakes s slot n f km1 := ⟨hreach.1.1, hlive, hchild, hroom, hblock, hnamed, hown, hwhole, hapart⟩
  obtain ⟨hquiet, hlen⟩ := readTokens_quiet hspace (by have := hh.2.2.2; omega) hread
  obtain ⟨hkv1, -⟩ := hquiet
  obtain ⟨⟨hkvc, -⟩, hfabc⟩ := commitRelease_quiet s1 w.key w.pi
  obtain ⟨s2, v2, hfirst, -⟩ := treeAppend_takes htakes hlen hkv1 hwf hheld hlease w.path.pts
  obtain ⟨s3, v3, hop, hnode3, htoks⟩ := treeAppend_takes htakes hlen (hkvc.trans hkv1) (commitRelease_wf hwf w.key w.pi)
    (by rw [hfabc, hheld]) (fun i hi => (leaseBlocked_fab hfabc _).trans (hlease i hi)) (w.clock (s1.commitRelease w.key w.pi))
  obtain ⟨hgoes, -, hmem, -, hv, hother, hnodes, hnode, -⟩ := tnappend_grows h hh hspace hread hop
  rw [hnode3] at hnode
  refine ⟨_, tnappend_performs h hr hh hreach hspace halign (appendCheck_takes htakes) hdbg hread hflight hblocked hfirst hop, ?_, ?_, ?_,
    hnodes, hother, hlen, fun i hi => ?_⟩
  · rw [hv] at hgoes
    rw [hv]
    exact hgoes
  · rw [hnode]
  · rw [hnode]
  · rw [← htoks i hi]
    exact readPa_congr fun j _ => by rw [byteAt, byteAt, hmem]

theorem treeGrows : Says.TreeGrowth := by
  refine ⟨?_, ?_, ?_⟩
  · intro s w sd sa sb slot h hr hh h0 hclaim hsvc npl rlog2 h1 h2 h3 h4
    obtain ⟨t, rel, hexec, hgoes, ht⟩ := tnopen_opens h hr hh h0 hclaim hsvc h1 h2 h3 h4
    have hhere := (ht slot).trans (if_pos rfl)
    have hnodes : ∀ m, (t.slot slot).node m = if m = 0 then { Node.blank with state := 1, anc := 1, born := s.kv.births + 1 } else Node.blank :=
      fun m => by rw [hhere]; exact setNode_node Slot.blank 0 m _
    refine ⟨t, hexec, hgoes, ?_, ?_, ?_, ?_, ?_, ?_, ?_, fun m hm => ?_, fun j hj => (ht j).trans (if_neg hj)⟩
    · rw [hhere]; rfl
    · rw [hhere]; rfl
    · rw [hhere]; rfl
    · rw [hhere]; rfl
    · rw [hhere]; rfl
    · rw [hnodes, if_pos rfl]
    · rw [hnodes, if_pos rfl]; rfl
    · rw [hnodes, if_neg hm]; rfl
  · intro s w sa sb slot p h hr hh hreach hroom c h1 h2 hfree hlive
    obtain ⟨t, m, bs, hexec, hgoes, hother, ht⟩ := tnfork_forks h hr hh hreach hroom h1 h2 hfree hlive
    have hnew := (ht c).trans (if_pos rfl)
    refine ⟨t, hexec, hgoes, ?_, ?_, ?_, ?_, ?_, fun m hm => (ht m).trans (if_neg hm), hother⟩ <;> rw [hnew] <;> rfl
  · intro s s1 s2 s3 w sd sa sb slot n km1 ts v2 v3 h hr hh hreach hspace halign hcheck hdbg hread hflight hblocked hfirst hop nd
    obtain ⟨hissuer, -⟩ := id h
    obtain ⟨hquiet, -⟩ := readTokens_quiet hspace (by have := hh.2.2.2; omega) hread
    obtain ⟨p, hp, -⟩ := (hquiet.trans (commitRelease_quiet s1 w.key w.pi).1).path (issuer_path hissuer)
    have hclock : w.clock (s1.commitRelease w.key w.pi) = p.pts := by rw [Who.clock, hp]; rfl
    have hdone := hop p hp
    rw [← hclock] at hdone
    obtain ⟨hgoes, hkv, hmem, hlen, hv, hother, hnodes, -, mp, bs, hnode⟩ := tnappend_grows h hh hspace hread hdone
    refine ⟨_, tnappend_performs h hr hh hreach hspace halign hcheck hdbg hread hflight hblocked hfirst hdone, hgoes, hkv, hmem,
      by rw [hv, hlen], hlen, ?_, ?_, ?_, ?_, ?_, hnodes, hother⟩ <;> rw [hnode]

/-- Settles O15: TNOPEN and TNFORK through what their operations make of the slot, TNAPPEND through what its reads and its release's commit
leave and the identifiers' places in one block. -/
theorem treeGrowth : Obligations.TreeGrowth := ⟨treeGrows, tokensAppended⟩

end Sys2Proof.Machine
end

section
/-! SUPPORT. The commit of a release: what it makes of memory, of its team and of the rest of the device (R110, R176). -/
namespace Sys2Proof.Machine

/-! ## Memory -/

theorem length_overlay (v : AMap Byte) (pa : Nat) (bs : List Byte) : (overlay v pa bs).length = bs.length := by
  induction bs generalizing pa with
  | nil => rfl
  | cons b bs ih => simp [overlay, ih]

theorem overlay_getD (v : AMap Byte) (pa : Nat) (bs : List Byte) {i : Nat} (hi : i < bs.length) :
    (overlay v pa bs).getD i 0 = (AMap.find v (pa + i)).getD (bs.getD i 0) := by
  induction bs generalizing pa i with
  | nil => exact absurd hi (Nat.not_lt_zero i)
  | cons b bs ih =>
    cases i with
    | zero => rfl
    | succ i =>
      have hrest := ih (pa + 1) (Nat.lt_of_succ_lt_succ hi)
      rw [Nat.add_right_comm] at hrest
      exact hrest

/-- A write at the home slice stores its bytes (R110). -/
theorem writeHome_stores {s : State} (h : s.mem.wf = true) (cs : List Nat) (pts pa : Nat) (bs : List Byte) :
    bytesStored s (s.writeHome cs pts pa bs).1 pa bs := fun x => by
  rw [byteAt, writeHome_bytes]
  exact Tab.get_setList 0 bs pa x _ ((Memory.wf_iff _).1 h).1

theorem length_readPa (s : State) (pa n : Nat) : (s.readPa pa n).length = n := by
  rw [State.readPa_eq, List.length_map, List.length_range]

/-- A line of a version performs: its bytes enter committed memory (R176). -/
theorem writeHome_overlay {s : State} (h : s.mem.wf = true) (cs : List Nat) (pts line : Nat) (v : AMap Byte) (x : Nat) :
    byteAt (s.writeHome cs pts (line * 64) (overlay v (line * 64) (s.readPa (line * 64) 64))).1 x =
      if lineOf x = line then (AMap.find v x).getD (byteAt s x) else byteAt s x := by
  rw [writeHome_stores h cs pts (line * 64) _ x, length_overlay, length_readPa]
  by_cases hx : lineOf x = line
  · have hin : line * 64 ≤ x ∧ x < line * 64 + 64 := by unfold lineOf at hx; omega
    rw [if_pos hin, if_pos hx, overlay_getD v _ _ (by rw [length_readPa]; omega), Nat.add_sub_cancel' hin.1, State.readPa_eq,
      List.getD_eq_getElem _ _ (by rw [List.length_map, List.length_range]; omega)]
    simp only [List.getElem_map, List.getElem_range, Nat.add_sub_cancel' hin.1]
  · have hout : ¬ (line * 64 ≤ x ∧ x < line * 64 + 64) := by unfold lineOf at hx; omega
    rw [if_neg hout, if_neg hx]

/-- One line of a version performs, in the fold that a commit is. -/
def commitLine (cs : List Nat) (pts : Nat) (v : AMap Byte) (r : State × Nat) (line : Nat) : State × Nat :=
  let q := r.1.writeHome cs pts (line * 64) (overlay v (line * 64) (r.1.readPa (line * 64) 64))
  (q.1, max r.2 q.2)

theorem commitLines_eq (s : State) (cs : List Nat) (pts : Nat) (v : AMap Byte) :
    s.commitLines cs pts v = (versionLines v).foldl (commitLine cs pts v) (s, 0) := rfl

theorem foldl_commitLine_bytes (cs : List Nat) (pts : Nat) (v : AMap Byte) (x : Nat) (ls : List Nat) (r : State × Nat)
    (h : r.1.mem.wf = true) : byteAt (ls.foldl (commitLine cs pts v) r).1 x =
      if lineOf x ∈ ls then (AMap.find v x).getD (byteAt r.1 x) else byteAt r.1 x := by
  induction ls generalizing r with
  | nil => exact (if_neg List.not_mem_nil).symm
  | cons line ls ih =>
    rw [List.foldl_cons, ih (commitLine cs pts v r line) (writeHome_wf h _ _ _ _)]
    unfold commitLine
    dsimp only
    rw [writeHome_overlay h]
    by_cases hhead : lineOf x = line
    · cases AMap.find v x <;> simp [hhead]
    · simp [hhead]

/-- A commit's writes make the version perform, whichever of its bytes share lines (R176). -/
theorem commitLines_performs {s : State} (h : s.mem.wf = true) (cs : List Nat) (pts : Nat) (v : AMap Byte) :
    versionPerformed s (s.commitLines cs pts v).1 v := by
  intro x
  rw [commitLines_eq, foldl_commitLine_bytes cs pts v x _ _ h]
  cases hfind : AMap.find v x with
  | none => exact ite_self _
  | some b => exact if_pos (List.mem_eraseDups.2 (List.mem_map.2 ⟨(x, b), AMap.mem_of_find hfind, rfl⟩))

/-! ## The team -/

/-- The team once its version has performed: the times of its paths and of its writes may have changed (R176, R426). -/
def Team.performed (t : Team) (ps : AMap Path) (wT : Nat) : Team := { t with paths := ps, version := [], verId := none, wT := wT }

theorem commitVersion_team {s : State} {key : Nat} {t : Team} (h : s.team key = some t) (pi : Nat) :
    (∃ ps wT, (s.commitVersion key pi).team key = some (t.performed ps wT)) ∧
      ∀ k, k ≠ key → (s.commitVersion key pi).team k = s.team k := by
  unfold State.commitVersion
  rw [h]
  dsimp only
  have hlines := commitLines_translated s (teamCores (keyCore key) t) (((AMap.find t.paths pi).map (·.pts)).getD 0) t.version
  generalize s.commitLines (teamCores (keyCore key) t) (((AMap.find t.paths pi).map (·.pts)).getD 0) t.version = r at *
  obtain ⟨u, n⟩ := r
  obtain ⟨m, c, o, rfl⟩ := hlines
  refine ⟨⟨AMap.modify pi (fun p => { p with pts := max p.pts n }) t.paths, max t.wT n, ?_⟩, fun k hk => ?_⟩
  · rw [modTeam_team, if_pos rfl]
    exact congrArg (Option.map _) h
  · rw [modTeam_team, if_neg hk]
    rfl

theorem newTask_team {s : State} {key : Nat} {t : Team} (h : s.team key = some t) :
    ∃ task born, (s.newTask key).team key = some (t.begin task born) := by
  refine ⟨(s.takeTask (taskHome t.teamId).1 (taskHome t.teamId).2).2, s.fresh, ?_⟩
  rw [State.newTask, h]
  dsimp only
  rw [modTeam_team, if_pos rfl, tick_team, State.takeTask, modCore_team, h, Option.map_some]

/-- The commit of a release leaves a team without a version, in a new task (R176, R242). -/
theorem commitRelease_team {s : State} {key : Nat} {t : Team} (h : s.team key = some t) (pi : Nat) :
    ∃ ps wT task born, (s.commitRelease key pi).team key = some ((t.performed ps wT).begin task born) := by
  obtain ⟨⟨ps, wT, hcommit⟩, -⟩ := commitVersion_team h pi
  obtain ⟨task, born, hnew⟩ := newTask_team hcommit
  refine ⟨AMap.modify pi (fun p => { p with pts := max p.pts wT }) ps, wT, task, born, ?_⟩
  rw [State.commitRelease, State.passWrites, State.acquireT, State.modPath, modTeam_team, if_pos rfl, State.commit, hnew]
  rfl

/-! ## The rest -/

theorem commitVersion_sched (s : State) (key pi : Nat) : (s.commitVersion key pi).sched = s.sched := by
  unfold State.commitVersion
  split
  · rfl
  · next t _ =>
    obtain ⟨m, c, o, hlines⟩ := commitLines_translated s (teamCores (keyCore key) t) (((AMap.find t.paths pi).map (·.pts)).getD 0) t.version
    rw [modTeam_sched, hlines]

theorem commitRelease_sched (s : State) (key pi : Nat) : (s.commitRelease key pi).sched = s.sched := by
  refine Eq.trans ?_ (commitVersion_sched s key pi)
  show ((s.commitVersion key pi).newTask key).sched = _
  unfold State.newTask
  split <;> rfl

theorem commitVersion_performs {s : State} (h : s.mem.wf = true) {key : Nat} {t : Team} (ht : s.team key = some t) (pi : Nat) :
    versionPerformed s (s.commitVersion key pi) t.version := by
  unfold State.commitVersion
  rw [ht]
  exact commitLines_performs h _ _ _

/-- The commit of a release makes the version of its team perform (R176). -/
theorem commitRelease_performs {s : State} (h : s.mem.wf = true) {key : Nat} {t : Team} (ht : s.team key = some t) (pi : Nat) :
    versionPerformed s (s.commitRelease key pi) t.version := fun x => by
  have hmem : (s.commitRelease key pi).mem = (s.commitVersion key pi).mem := newTask_mem _ key
  rw [byteAt, hmem]
  exact commitVersion_performs h ht pi x

end Sys2Proof.Machine
end

section
/-! SUPPORT. SPLIT (R197, R302): its checks, and the paths that it makes. -/
namespace Sys2Proof.Machine

/-! ## Masks of lanes -/

theorem maskOf_bit (ls : List Nat) {l : Nat} (hl : l < 1024) : (maskOf ls).getLsbD l = decide (l ∈ ls) := by
  have hfold : ∀ m : Mask, (ls.foldl (fun m l => m ||| BitVec.twoPow 1024 l) m).getLsbD l = (m.getLsbD l || decide (l ∈ ls)) := by
    induction ls with
    | nil => simp
    | cons a ls ih =>
      intro m
      rw [List.foldl_cons, ih, BitVec.getLsbD_or, BitVec.getLsbD_twoPow]
      by_cases ha : l = a
      · simp [← ha, hl]
      · simp [ha, Ne.symm ha]
  rw [maskOf, hfold 0]
  simp

theorem mask_without (m : Mask) (ls : List Nat) {l : Nat} (hl : l < 1024) :
    (m &&& ~~~(maskOf ls)).getLsbD l = (m.getLsbD l && decide (l ∉ ls)) := by
  rw [BitVec.getLsbD_and, BitVec.getLsbD_not, maskOf_bit ls hl, decide_eq_true hl, Bool.true_and, decide_not]

theorem mask_with (m : Mask) (ls : List Nat) {l : Nat} (hl : l < 1024) :
    (m ||| maskOf ls).getLsbD l = (m.getLsbD l || decide (l ∈ ls)) := by
  rw [BitVec.getLsbD_or, maskOf_bit ls hl]

/-! ## The checks of SPLIT -/

theorem field_high_zero {x : Word64} (h : x.toNat < 2 ^ 52) : field x 52 12 = 0 :=
  BitVec.eq_of_toNat_eq (by rw [Laws.field_toNat, Nat.div_eq_of_lt h]; rfl)

theorem wordOff_eq {n : Nat} (off : BitVec n) : wordOff off = .ofInt 64 (off.toInt * 4) := by
  rw [BitVec.ofInt_mul]
  rfl

/-- SPLIT of the lanes `ts`, where the predicate is true, and `fs`, once its checks have passed (R197). -/
def splitLanes (s : State) (w : Who) (ts fs : List Nat) (target join : Word64) : State :=
  if ts = [] then s.onPath w Path.next
  else if fs = [] then s.onPath w (fun p => p.goto target)
  else
    if w.path.ejPart.isSome then ejectSplit s w ts target join
    else match w.team.freePath with
    | none => if w.team.k.spsl = 0 then trapScalar s w .reservedField else ejectSplit s w ts target join
    | some c =>
      if ts.length < w.team.k.ejt ∧ w.team.k.spsl ≠ 0 then ejectSplit s w ts target join
      else
        s.modTeam w.key (fun t =>
          (t.modPath w.pi (fun p => { p.next with mask := maskOf fs, jcnt := p.jcnt + 1 })).setPath c
            (w.path.child w.pi (maskOf ts) target join))

theorem split_passes {s : State} {w : Who} {pn : BitVec 3} {toff joff : BitVec 11} (h : issuer s = some w) (hh : w.team.handler = none)
    (hidle : w.path.idle = true) (hpend : w.path.pendScalar = [])
    (htarget : (w.path.spc + .ofInt 64 (toff.toInt * 4)).toNat < 2 ^ 52)
    (hjoin : (w.path.spc + .ofInt 64 (joff.toInt * 4)).toNat < 2 ^ 52) :
    exec (.split pn toff joff) s = .next (splitLanes s w
      ((lanesOf w.path.mask w.team.k.lanes).filter (fun l => w.team.p l pn.toNat))
      ((lanesOf w.path.mask w.team.k.lanes).filter (fun l => !w.team.p l pn.toNat))
      (w.path.spc + .ofInt 64 (toff.toInt * 4)) (w.path.spc + .ofInt 64 (joff.toInt * 4))) := by
  rw [exec_split, execSplit, withIssuer_eq h, wordOff_eq, wordOff_eq, hh, hidle, hpend]
  dsimp only
  rw [field_high_zero htarget, field_high_zero hjoin]
  rfl

/-! ## A path of its own -/

section Fork

variable {s : State} {w : Who} {ts fs : List Nat} {target join : Word64}

theorem freePath_free {t : Team} {c : Nat} (h : t.freePath = some c) : AMap.find t.paths c = none :=
  Option.isNone_iff_eq_none.1 (List.find?_some (p := fun k => (AMap.find t.paths k).isNone) h)

/-- The lowest free entry becomes a path of the lanes of `ts` (R197). -/
theorem splitLanes_forks {c : Nat} (hts : ts ≠ []) (hfs : fs ≠ []) (hpart : w.path.ejPart = none) (hfree : w.team.freePath = some c)
    (hejt : w.team.k.ejt ≤ ts.length) : splitLanes s w ts fs target join = s.modTeam w.key (fun t =>
      (t.modPath w.pi (fun p => { p.next with mask := maskOf fs, jcnt := p.jcnt + 1 })).setPath c
        (w.path.child w.pi (maskOf ts) target join)) := by
  rw [splitLanes, if_neg hts, if_neg hfs, hpart, hfree]
  dsimp only
  rw [if_neg (by simp), if_neg (fun hej => absurd hej.1 (Nat.not_lt.2 hejt))]

theorem splitLanes_full (hts : ts ≠ []) (hfs : fs ≠ []) (hpart : w.path.ejPart = none) (hfull : w.team.freePath = none)
    (hspsl : w.team.k.spsl = 0) : splitLanes s w ts fs target join = trapScalar s w .reservedField := by
  rw [splitLanes, if_neg hts, if_neg hfs, hpart, hfull]
  exact if_pos hspsl

theorem splitLanes_ejects (hts : ts ≠ []) (hfs : fs ≠ []) (hspsl : w.team.k.spsl ≠ 0)
    (hej : w.team.freePath = none ∨ ts.length < w.team.k.ejt) : splitLanes s w ts fs target join = ejectSplit s w ts target join := by
  rw [splitLanes, if_neg hts, if_neg hfs]
  by_cases hpart : w.path.ejPart.isSome
  · exact if_pos hpart
  · rw [if_neg hpart]
    cases hfree : w.team.freePath with
    | none => exact if_neg hspsl
    | some c => exact if_pos ⟨hej.resolve_left (by simp [hfree]), hspsl⟩

end Fork

end Sys2Proof.Machine
end

section
/-! SUPPORT. Records of lanes (R200): spans and what is written to them, and the ejection of lanes to free slots (R198). -/
namespace Sys2Proof.Machine

/-! ## Spans -/

theorem spanPart_walked (s : State) (core asid lane : Nat) (kind : AccKind) (va n : Nat) :
    walked s (s.spanPart core asid lane kind va n).1 := by
  unfold State.spanPart
  have h := translate_walked s { core := core, asid := asid, host := false, va := va % 2 ^ 52, kind := kind, lpr := none }
  split <;> rename_i heq <;> rw [heq] at h <;> dsimp only at h ⊢
  · split_ifs
    any_goals exact h
    dsimp only
    exact h.trans (walked_of_translated (viewTouch_translated _ _))
  all_goals exact h

/-- The translation of a span changes neither teams nor launches. -/
theorem span_walked (s : State) (core asid lane : Nat) (kind : AccKind) (va n : Nat) : walked s (s.span core asid lane kind va n).1 := by
  unfold State.span
  have h := spanPart_walked s core asid lane kind va (min n (0x10000 - va % 0x10000))
  dsimp only
  split
  · next s1 m1 heq =>
    rw [heq] at h
    split
    · exact h
    · have h' := spanPart_walked s1 core asid lane kind (va + min n (0x10000 - va % 0x10000)) (n - min n (0x10000 - va % 0x10000))
      split
      · next heq' => rw [heq'] at h'; exact h.trans h'
      · exact h.trans h'
  · exact h

theorem walked_of_span {s t : State} {core asid lane : Nat} {kind : AccKind} {va n : Nat} {r : SpanEnd}
    (h : s.span core asid lane kind va n = (t, r)) : walked s t := by
  have := span_walked s core asid lane kind va n
  rwa [h] at this

theorem walked.teams {s t : State} (h : walked s t) : t.teams = s.teams := by obtain ⟨m, c, o, x, n, rfl⟩ := h; rfl

theorem walked.sched {s t : State} (h : walked s t) : t.sched = s.sched := by obtain ⟨m, c, o, x, n, rfl⟩ := h; rfl

theorem path_of_teams {s t : State} (h : t.teams = s.teams) (key pi : Nat) : t.path key pi = s.path key pi := by
  rw [State.path, State.team, h]; rfl

/-! ## What is written to a span -/

theorem spanWrite_translated (s : State) (m : Span) (cores : List Nat) (pts off : Nat) (bs : List Byte) :
    translated s (s.spanWrite m cores pts off bs).1 := by
  unfold State.spanWrite
  exact foldl_keeps (fun r : State × Nat => translated s r.1) _ _ _ (translated_refl s) fun r p h => h.trans (writeLines_is _ _ _ _ _)

theorem putRecord_translated (s : State) (m : Span) (core pts : Nat) (parts : List (Nat × List Byte)) :
    translated s (s.putRecord m core pts parts).1 := by
  unfold State.putRecord
  exact foldl_keeps (fun r : State × Nat => translated s r.1) _ _ _ (translated_refl s) fun r p h => h.trans (spanWrite_translated _ _ _ _ _ _)

/-- A byte joins the run before it when it follows on from it (R200). -/
def runsWith (m : Span) (off : Nat) (l : List (Nat × List Byte)) (b : Byte × Nat) : List (Nat × List Byte) :=
  match m.at (off + b.2) with
  | none => l
  | some pa =>
    match l with
    | (a, x) :: r => if a + x.length = pa then (a, x ++ [b.1]) :: r else (pa, [b.1]) :: l
    | [] => [(pa, [b.1])]

theorem spanWrite_eq (s : State) (m : Span) (cores : List Nat) (pts off : Nat) (bs : List Byte) : s.spanWrite m cores pts off bs =
    (bs.zipIdx.foldl (runsWith m off) []).foldl
      (fun (r : State × Nat) p => let q := r.1.writeLines cores pts p.1 p.2; (q.1, max r.2 q.2)) (s, 0) := rfl

theorem span_at_whole {pa n off : Nat} (h : off < n) : Span.at [(0, n, some pa)] off = some (pa + off) := by
  simp [Span.at, h]

/-- The bytes for one page of a span are one run. -/
theorem runsWith_whole {pa n off : Nat} (bs : List Byte) (k : Nat) (x : List Byte) (hx : x.length = k) (h : off + k + bs.length ≤ n)
    (hk : 0 < k) : (bs.zipIdx k).foldl (runsWith [(0, n, some pa)] off) [(pa + off, x)] = [(pa + off, x ++ bs)] := by
  induction bs generalizing k x with
  | nil => simp
  | cons b bs ih =>
    rw [List.length_cons] at h
    have hstep : runsWith [(0, n, some pa)] off [(pa + off, x)] (b, k) = [(pa + off, x ++ [b])] := by
      rw [runsWith, span_at_whole (by dsimp only; omega)]
      exact if_pos (by dsimp only; omega)
    rw [List.zipIdx_cons, List.foldl_cons, hstep, ih (k + 1) (x ++ [b]) (by simp [hx]) (by omega) (by omega), List.append_assoc]
    rfl

/-- Bytes written to a span of one page enter committed memory. -/
theorem spanWrite_bytes (s : State) (cores : List Nat) (pts : Nat) {pa n off : Nat} {bs : List Byte} (h : off + bs.length ≤ n) :
    (s.spanWrite [(0, n, some pa)] cores pts off bs).1.mem.bytes = Tab.setList 0 (pa + off) bs s.mem.bytes := by
  rw [spanWrite_eq]
  cases bs with
  | nil => rfl
  | cons b bs =>
    rw [List.length_cons] at h
    have hfirst : runsWith [(0, n, some pa)] off [] (b, 0) = [(pa + off, [b])] := by
      rw [runsWith, span_at_whole (by dsimp only; omega)]
      rfl
    rw [List.zipIdx_cons, List.foldl_cons, hfirst, runsWith_whole bs (0 + 1) [b] rfl (by omega) (by omega)]
    exact (writeLines_bytes s cores pts (pa + off) ([b] ++ bs)).1

/-! ## The parts of a record -/

/-- The bytes of memory with the parts of a record written at their places. -/
def partsPut (pa : Nat) (parts : List (Nat × List Byte)) (m : Tab Byte) : Tab Byte :=
  parts.foldl (fun m p => Tab.setList 0 (pa + p.1) p.2 m) m

theorem putRecord_bytes (s : State) (core pts : Nat) {pa n : Nat} {parts : List (Nat × List Byte)} (h : ∀ p ∈ parts, p.1 + p.2.length ≤ n) :
    (s.putRecord [(0, n, some pa)] core pts parts).1.mem.bytes = partsPut pa parts s.mem.bytes := by
  have hfold : ∀ r : State × Nat, (parts.foldl (fun (r : State × Nat) p =>
      ((r.1.spanWrite [(0, n, some pa)] [core] pts p.1 p.2).1, max r.2 (r.1.spanWrite [(0, n, some pa)] [core] pts p.1 p.2).2)) r).1.mem.bytes =
      partsPut pa parts r.1.mem.bytes := by
    induction parts with
    | nil => exact fun _ => rfl
    | cons p parts ih =>
      intro r
      have hp := spanWrite_bytes r.1 [core] pts (pa := pa) (h p List.mem_cons_self)
      refine (ih (fun q hq => h q (List.mem_cons_of_mem _ hq)) (_, _)).trans ?_
      exact congrArg (partsPut pa parts) hp
  exact hfold (s, 0)

theorem partsPut_wf {pa : Nat} (parts : List (Nat × List Byte)) {m : Tab Byte} (h : Tab.wf 0 m = true) :
    Tab.wf 0 (partsPut pa parts m) = true :=
  foldl_keeps (fun m : Tab Byte => Tab.wf 0 m = true) _ _ _ h fun m p hm => Tab.wf_setList 0 p.2 _ m hm

theorem partsPut_outside {pa x : Nat} {parts : List (Nat × List Byte)} {m : Tab Byte} (h : Tab.wf 0 m = true)
    (hx : ∀ p ∈ parts, x < pa + p.1 ∨ pa + p.1 + p.2.length ≤ x) : Tab.get 0 (partsPut pa parts m) x = Tab.get 0 m x := by
  induction parts generalizing m with
  | nil => rfl
  | cons p parts ih =>
    refine (ih (Tab.wf_setList 0 p.2 _ m h) fun q hq => hx q (List.mem_cons_of_mem _ hq)).trans ?_
    exact Tab.get_setList_outside 0 p.2 _ x m h (hx p List.mem_cons_self)

/-- Parts that lie one after the other are read back. -/
theorem partsPut_inside {pa i : Nat} {parts : List (Nat × List Byte)} {m : Tab Byte} (h : Tab.wf 0 m = true)
    (hasc : parts.Pairwise (fun p q => p.1 + p.2.length ≤ q.1)) {p : Nat × List Byte} (hp : p ∈ parts) (hi : i < p.2.length) :
    Tab.get 0 (partsPut pa parts m) (pa + p.1 + i) = p.2[i] := by
  induction parts generalizing m with
  | nil => cases hp
  | cons q parts ih =>
    obtain ⟨hafter, hrest⟩ := List.pairwise_cons.1 hasc
    rcases List.mem_cons.1 hp with rfl | hp
    · have hout := partsPut_outside (pa := pa) (x := pa + p.1 + i) (Tab.wf_setList 0 p.2 (pa + p.1) m h) (parts := parts)
        fun r hr => .inl (by have := hafter r hr; omega)
      exact hout.trans (Tab.get_setList_inside 0 p.2 _ i m h hi)
    · exact ih (Tab.wf_setList 0 q.2 _ m h) hrest hp

/-- Bytes within a part are read back. -/
theorem partsPut_read {pa : Nat} {parts : List (Nat × List Byte)} {m : Tab Byte} (h : Tab.wf 0 m = true)
    (hasc : parts.Pairwise (fun p q => p.1 + p.2.length ≤ q.1)) {p : Nat × List Byte} (hp : p ∈ parts) {i n : Nat}
    (hn : i + n ≤ p.2.length) :
    (List.range n).map (fun k => Tab.get 0 (partsPut pa parts m) (pa + (p.1 + i) + k)) = (p.2.drop i).take n := by
  refine List.ext_getElem (by simp; omega) fun k hk hk' => ?_
  rw [List.length_map, List.length_range] at hk
  simp only [List.getElem_map, List.getElem_range, List.getElem_take, List.getElem_drop]
  rw [← partsPut_inside h hasc hp (show i + k < p.2.length by omega)]
  congr 1
  omega

end Sys2Proof.Machine
end

section
/-! SUPPORT. Ejection (R198, R200): the record of an ejected lane, and what an ejection makes of its path. -/
namespace Sys2Proof.Machine

/-! ## The words of a record -/

theorem ofBytes_toBytes_toNat {w n : Nat} (x : BitVec w) (h : 2 ^ w = 256 ^ n) : ofBytes (toBytes n x.toNat) = x.toNat := by
  rw [ofBytes_toBytes, ← h, Nat.mod_eq_of_lt x.isLt]

/-- What the ejection of a lane writes to its slot (R198, R200). -/
def Who.record (w : Who) (l : Nat) (join : Word64) (live : BitVec 256) : List (Nat × List Byte) :=
  (0, recordHead w.team l join w.team.teamId w.pi l w.path.fmt) :: liveParts w.team l live

theorem length_recordHead (t : Team) (l : Nat) (jpc : Word64) (id : BitVec 32) (pi plane : Nat) (fmt : BitVec 32) :
    (recordHead t l jpc id pi plane fmt).length = 64 := rfl

theorem mem_liveParts {t : Team} {l : Nat} {live : BitVec 256} {p : Nat × List Byte} : p ∈ liveParts t l live ↔
    ∃ n < 256, live.getLsbD n = true ∧ p = (64 + 4 * n, toBytes 4 (t.v l n).toNat) := by
  simp only [liveParts, liveRegs, List.mem_map, List.mem_filter, List.mem_range, and_assoc, eq_comm]

/-- The parts of a record lie one after the other. -/
theorem record_ascends (w : Who) (l : Nat) (join : Word64) (live : BitVec 256) :
    (w.record l join live).Pairwise (fun p q => p.1 + p.2.length ≤ q.1) := by
  refine List.pairwise_cons.2 ⟨fun q hq => ?_, List.pairwise_map.2 ?_⟩
  · obtain ⟨n, -, -, rfl⟩ := mem_liveParts.1 hq
    rw [length_recordHead]
    omega
  · refine (List.Pairwise.filter _ List.pairwise_lt_range).imp fun {a b} hab => ?_
    rw [length_toBytes]
    omega

theorem record_fits {w : Who} {l : Nat} {join : Word64} {live : BitVec 256} {p : Nat × List Byte} (h : p ∈ w.record l join live) :
    p.1 + p.2.length ≤ 1088 := by
  rcases List.mem_cons.1 h with rfl | h
  · rw [length_recordHead]; omega
  · obtain ⟨n, hn, -, rfl⟩ := mem_liveParts.1 h
    rw [length_toBytes]
    omega

/-- PRED is the sum of the bits of the predicates that are true (R200). -/
theorem predByte_eq (t : Team) (l : Nat) : t.predByte l = ((List.range 8).map (fun n => if t.p l n = true then 2 ^ n else 0)).sum := by
  rw [List.sum_eq_foldl, List.foldl_map]
  rfl

theorem predByte_lt (t : Team) (l : Nat) : t.predByte l < 2 ^ 8 := by
  have hle : ((List.range 8).map (fun n => if t.p l n = true then 2 ^ n else 0)).sum ≤ ((List.range 8).map (fun n => 2 ^ n)).sum :=
    List.sum_le_sum fun n _ => by split <;> simp
  rw [← predByte_eq] at hle
  exact Nat.lt_succ_of_le hle

theorem predByte_shifted (t : Team) (l : Nat) :
    ((List.range 8).map (fun n => if t.p l n = true then 2 ^ (8 + n) else 0)).sum = t.predByte l * 2 ^ 8 := by
  rw [predByte_eq, ← List.sum_map_mul_right]
  congr 2
  funext n
  split
  · rw [Nat.pow_add, Nat.mul_comm]
  · rw [Nat.zero_mul]

section Head

variable (t : Team) (l : Nat) (jpc : Word64) (id : BitVec 32) (pi plane : Nat) (fmt : BitVec 32)

theorem recordHead_join : ofBytes (((recordHead t l jpc id pi plane fmt).drop 0).take 8) = jpc.toNat := by
  rw [show ((recordHead t l jpc id pi plane fmt).drop 0).take 8 = toBytes 8 jpc.toNat from rfl, ofBytes_toBytes_toNat jpc rfl]

theorem recordHead_info (hplane : plane < 1024) (hpi : pi < 8) : ofBytes (((recordHead t l jpc id pi plane fmt).drop 8).take 8) =
    t.predByte l * 2 ^ 8 + plane * 2 ^ 16 + pi * 2 ^ 29 + id.toNat * 2 ^ 32 := by
  have hpred := predByte_lt t l
  have hid := id.isLt
  rw [show ((recordHead t l jpc id pi plane fmt).drop 8).take 8 =
    toBytes 8 (t.predByte l * 2 ^ 8 + plane * 2 ^ 16 + pi * 2 ^ 29 + id.toNat * 2 ^ 32) from rfl, ofBytes_toBytes, Nat.mod_eq_of_lt (by omega)]

theorem recordHead_index {n : Nat} (hn : n < 8) :
    ofBytes (((recordHead t l jpc id pi plane fmt).drop (16 + 4 * n)).take 4) = (t.x l n).toNat := by
  have hword : ((recordHead t l jpc id pi plane fmt).drop (16 + 4 * n)).take 4 = toBytes 4 (t.x l n).toNat := by
    interval_cases n <;> rfl
  rw [hword, ofBytes_toBytes_toNat (t.x l n) rfl]

theorem recordHead_fmt : ofBytes (((recordHead t l jpc id pi plane fmt).drop 48).take 4) = fmt.toNat := by
  rw [show ((recordHead t l jpc id pi plane fmt).drop 48).take 4 = (toBytes 8 fmt.toNat).take 4 from rfl, ofBytes_take, ofBytes_toBytes]
  exact (Nat.mod_mod_of_dvd _ (by decide)).trans (Nat.mod_eq_of_lt fmt.isLt)

end Head

/-! ## One lane -/

/-- A lane's record goes to slot `i`, which the launch then holds as taken (R198, step 3). -/
def State.ejectTo (s : State) (w : Who) (join : Word64) (live : BitVec 256) (l i : Nat) (m : Span) : State :=
  let r := s.putRecord m (laneCore w l) (((s.path w.key w.pi).map (·.pts)).getD 0) (w.record l join live)
  (r.1.modLaunch w.team.launch (fun h => { h with contSlots := i :: h.contSlots })).onPath w (fun p =>
    { p with pts := max p.pts r.2, ejPart := some (p.ejPart.getD [] ++ [{ lane := l, slot := i, join := join, live := live }]) })

theorem ejectLanes_cons {s s1 : State} {w : Who} {join : Word64} {live : BitVec 256} {l i : Nat} {m : Span} (ls : List Nat)
    (hfree : s.freeContSlot w.team.launch w.team.k = some i)
    (hspan : s.span w.core w.team.asid l .store (contAddr w.team.k i) 1088 = (s1, .ok m)) :
    s.ejectLanes w join live (l :: ls) = (s1.ejectTo w join live l i m).ejectLanes w join live ls := by
  rw [State.ejectLanes, hfree]
  dsimp only
  rw [hspan]
  rfl

/-- An ejection that is done has found a slot for its first lane, and has written its record. -/
theorem ejectLanes_cons_done {s t : State} {w : Who} {join : Word64} {live : BitVec 256} {l : Nat} {ls : List Nat}
    (h : s.ejectLanes w join live (l :: ls) = .done t) : ∃ i s1 m,
      s.span w.core w.team.asid l .store (contAddr w.team.k i) 1088 = (s1, .ok m) ∧
        (s1.ejectTo w join live l i m).ejectLanes w join live ls = .done t := by
  rw [State.ejectLanes] at h
  split at h
  · cases h
  · next i _ =>
    split at h
    · cases h
    · cases h
    · cases h
    · next s1 m hspan => exact ⟨i, s1, m, hspan, h⟩

section EjectTo

variable (s : State) (w : Who) (join : Word64) (live : BitVec 256) (l i : Nat) (m : Span)

theorem ejectTo_mem : (s.ejectTo w join live l i m).mem =
    (s.putRecord m (laneCore w l) (((s.path w.key w.pi).map (·.pts)).getD 0) (w.record l join live)).1.mem := rfl

theorem ejectTo_path {p : Path} (hp : s.path w.key w.pi = some p) : ∃ n, (s.ejectTo w join live l i m).path w.key w.pi =
    some { p with pts := n, ejPart := some (p.ejPart.getD [] ++ [{ lane := l, slot := i, join := join, live := live }]) } := by
  have hput := putRecord_translated s m (laneCore w l) (((s.path w.key w.pi).map (·.pts)).getD 0) (w.record l join live)
  unfold State.ejectTo
  generalize s.putRecord m (laneCore w l) (((s.path w.key w.pi).map (·.pts)).getD 0) (w.record l join live) = r at *
  exact ⟨max p.pts r.2, onPath_path ((path_of_teams (walked_of_translated hput).teams w.key w.pi).trans hp) _⟩

theorem ejectTo_launch {L : Launch} (hL : s.launch w.team.launch = some L) :
    (s.ejectTo w join live l i m).launch w.team.launch = some { L with contSlots := i :: L.contSlots } := by
  have hput := putRecord_translated s m (laneCore w l) (((s.path w.key w.pi).map (·.pts)).getD 0) (w.record l join live)
  unfold State.ejectTo
  generalize s.putRecord m (laneCore w l) (((s.path w.key w.pi).map (·.pts)).getD 0) (w.record l join live) = r at *
  have hlaunch : r.1.launch w.team.launch = some L := by rw [State.launch, (walked_of_translated hput).sched]; exact hL
  show (r.1.modLaunch _ _).launch _ = _
  rw [modLaunch_launch, if_pos rfl, hlaunch]
  rfl

end EjectTo

/-! ## The record in memory -/

theorem ejectedRecord : Says.EjectedRecord := by
  intro s s1 w join live l i pa p hfree hp hl hpi _ hspan hwf _
  have hwalk := walked_of_span hspan
  have hp1 : s1.path w.key w.pi = some p := (path_of_teams hwalk.teams _ _).trans hp
  obtain ⟨n, hpath⟩ := ejectTo_path s1 w join live l i [(0, 1088, some pa)] hp1
  have hbytes : (s1.ejectTo w join live l i [(0, 1088, some pa)]).mem.bytes = partsPut pa (w.record l join live) s1.mem.bytes :=
    (congrArg Memory.bytes (ejectTo_mem s1 w join live l i _)).trans (putRecord_bytes s1 _ _ fun q hq => record_fits hq)
  have htab := ((Memory.wf_iff _).1 hwf).1
  have hread : ∀ {q : Nat × List Byte} (_ : q ∈ w.record l join live) {j k : Nat} (_ : j + k ≤ q.2.length),
      (List.range k).map (fun x => byteAt (s1.ejectTo w join live l i [(0, 1088, some pa)]) (pa + (q.1 + j) + x)) = (q.2.drop j).take k := by
    intro q hq j k hk
    simp only [byteAt, hbytes]
    exact partsPut_read htab (record_ascends w l join live) hq hk
  have hhead : ∀ {j k : Nat} (_ : j + k ≤ 64),
      (List.range k).map (fun x => byteAt (s1.ejectTo w join live l i [(0, 1088, some pa)]) (pa + j + x)) =
        ((recordHead w.team l join w.team.teamId w.pi l w.path.fmt).drop j).take k := by
    intro j k hk
    have := hread (q := (0, recordHead w.team l join w.team.teamId w.pi l w.path.fmt)) List.mem_cons_self (j := j) (k := k) hk
    rwa [Nat.zero_add] at this
  refine ⟨_, _, ejectLanes_cons [] hfree hspan, hpath, rfl, fun L hL => ⟨_, ejectTo_launch s1 w join live l i _ ?_, rfl⟩,
    ⟨?_, ?_, fun n hn => ?_, ?_, fun n hn hlive => ?_⟩, fun x hx => ?_⟩
  · rw [State.launch, hwalk.sched]; exact hL
  · dsimp only
    rw [hhead (by omega), recordHead_join]
  · dsimp only
    rw [hhead (by omega), recordHead_info _ _ _ _ _ _ _ hl hpi, predByte_shifted]
  · dsimp only
    rw [hhead (by omega), recordHead_index _ _ _ _ _ _ _ hn]
  · dsimp only
    rw [hhead (by omega), recordHead_fmt]
  · have hreg := hread (q := (64 + 4 * n, toBytes 4 (w.team.v l n).toNat)) (List.mem_cons_of_mem _ (mem_liveParts.2 ⟨n, hn, hlive, rfl⟩))
      (j := 0) (k := 4) (by rw [length_toBytes])
    rw [Nat.add_zero, List.drop_zero, List.take_of_length_le (by rw [length_toBytes])] at hreg
    dsimp only
    rw [hreg, ofBytes_toBytes_toNat (w.team.v l n) rfl]
  · rw [byteAt, hbytes]
    exact partsPut_outside htab fun q hq => by have := record_fits hq; omega

/-! ## All lanes -/

/-- An ejection that is done has given every lane a record in its path's list, and has changed that path in nothing but its clock (R198). -/
theorem ejectLanes_done {w : Who} {join : Word64} {live : BitVec 256} {t : State} (ls : List Nat) {s : State} {p : Path}
    {part : List EjLane} (h : s.ejectLanes w join live ls = .done t) (hp : s.path w.key w.pi = some p) (hpart : p.ejPart = some part) :
    ∃ n es, t.path w.key w.pi = some { p with pts := n, ejPart := some (part ++ es) } ∧ es.map (·.lane) = ls ∧
      ∀ e ∈ es, e.join = join ∧ e.live = live := by
  induction ls generalizing s p part with
  | nil =>
    cases h
    exact ⟨p.pts, [], by rw [hp, List.append_nil, ← hpart], rfl, fun e he => absurd he List.not_mem_nil⟩
  | cons l ls ih =>
    obtain ⟨i, s1, m, hspan, hrest⟩ := ejectLanes_cons_done h
    obtain ⟨n, hpath⟩ := ejectTo_path s1 w join live l i m ((path_of_teams (walked_of_span hspan).teams _ _).trans hp)
    obtain ⟨n', es, ht, hlanes, hes⟩ := ih hrest hpath rfl
    refine ⟨n', { lane := l, slot := i, join := join, live := live } :: es, ?_, by rw [List.map_cons, hlanes], fun e he => ?_⟩
    · rw [ht, hpart, Option.getD_some, List.append_assoc]
      rfl
    · rcases List.mem_cons.1 he with rfl | he
      · exact ⟨rfl, rfl⟩
      · exact hes e he

end Sys2Proof.Machine
end

section
/-! SUPPORT. Bins (R82): lanes that are placed in them stay there; and SPAWN (R304). -/
namespace Sys2Proof.Machine

/-! ## Bins -/

/-- A lane waits in a bin of a key. -/
def binned (k : BinKey) (l : BinLane) (bins : List Bin) : Prop :=
  ∃ x ∈ bins, l ∈ x.lanes ∧ x.launch = k.launch ∧ x.entry = k.entry ∧ x.frame = k.frame

/-- Bins that change keep what waits in them when each stays with its key and its lanes. -/
theorem binned.mono {k : BinKey} {l : BinLane} {bins bins' : List Bin} (h : binned k l bins)
    (hkeep : ∀ x ∈ bins, ∃ y ∈ bins', x.lanes ⊆ y.lanes ∧ y.launch = x.launch ∧ y.entry = x.entry ∧ y.frame = x.frame) :
    binned k l bins' := by
  obtain ⟨x, hx, hl, hlaunch, hentry, hframe⟩ := h
  obtain ⟨y, hy, hlanes, hlaunch', hentry', hframe'⟩ := hkeep x hx
  exact ⟨y, hy, hlanes hl, hlaunch'.trans hlaunch, hentry'.trans hentry, hframe'.trans hframe⟩

/-- What a list holds, a list with one element changed holds, changed or not. -/
theorem mem_modify_or {α : Type} {l : List α} {x : α} (h : x ∈ l) (i : Nat) (f : α → α) : x ∈ l.modify i f ∨ f x ∈ l.modify i f := by
  obtain ⟨j, hj, rfl⟩ := List.getElem_of_mem h
  have hlen : j < (l.modify i f).length := by rwa [List.length_modify]
  have hmem := List.getElem_mem hlen
  rw [List.getElem_modify] at hmem
  split at hmem
  · exact .inr hmem
  · exact .inl hmem

/-- A new bin takes its place, and every bin stays, launched or not (R82). -/
theorem insertBin_keeps (bins : List Bin) (b : Bin) : ∀ x ∈ b :: bins, ∃ y ∈ insertBin bins b,
    x.lanes ⊆ y.lanes ∧ y.launch = x.launch ∧ y.entry = x.entry ∧ y.frame = x.frame := by
  intro x hx
  have hall : x ∈ bins.takeWhile (fun x => decide (x.age ≤ b.age)) ++ b :: bins.dropWhile (fun x => decide (x.age ≤ b.age)) := by
    rcases List.mem_cons.1 hx with rfl | hx
    · simp
    · rw [← List.takeWhile_append_dropWhile (p := fun x => decide (x.age ≤ b.age)) (l := bins)] at hx
      rcases List.mem_append.1 hx with hx | hx
      · exact List.mem_append_left _ hx
      · exact List.mem_append_right _ (List.mem_cons_of_mem _ hx)
  unfold insertBin
  dsimp only
  split
  · exact ⟨x, hall, fun _ => id, rfl, rfl, rfl⟩
  · split
    · exact ⟨x, hall, fun _ => id, rfl, rfl, rfl⟩
    · rcases mem_modify_or hall _ (fun x => { x with launched := true }) with h | h
      · exact ⟨x, h, fun _ => id, rfl, rfl, rfl⟩
      · exact ⟨_, h, fun _ => id, rfl, rfl, rfl⟩

/-- A lane that is placed waits in a bin of its key (R82). -/
theorem placeLane_places (bins : List Bin) (k : BinKey) (lanes age : Nat) (l : BinLane) : binned k l (placeLane bins k lanes age l) := by
  unfold placeLane
  dsimp only
  split
  · next i hfind =>
    obtain ⟨hi, htakes, -⟩ := List.findIdx?_eq_some_iff_getElem.1 hfind
    simp only [Bin.takes, Bool.and_eq_true, beq_iff_eq] at htakes
    obtain ⟨⟨⟨⟨hlaunch, hentry⟩, hframe⟩, -⟩, -⟩ := htakes
    have hlen : i < (bins.modify i (fun b => { b with lanes := b.lanes ++ [l], launched := b.launched || decide (lanes ≤ (b.lanes ++ [l]).length) })).length := by
      rwa [List.length_modify]
    refine ⟨_, List.getElem_mem hlen, ?_⟩
    rw [List.getElem_modify_eq]
    exact ⟨List.mem_append_right _ (List.mem_singleton_self l), hlaunch, hentry, hframe⟩
  · obtain ⟨y, hy, hlanes, hlaunch, hentry, hframe⟩ := insertBin_keeps bins
      { launch := k.launch, entry := k.entry, frame := k.frame, lanes := [l], age := age, timer := 0,
        launched := false || decide (lanes ≤ 1), asid := k.asid } _ List.mem_cons_self
    exact ⟨y, hy, hlanes (List.mem_singleton_self l), hlaunch, hentry, hframe⟩

/-- Lanes that wait in bins wait there when another is placed (R82). -/
theorem placeLane_keeps {k : BinKey} {l : BinLane} {bins : List Bin} (h : binned k l bins) (k' : BinKey) (lanes age : Nat) (l' : BinLane) :
    binned k l (placeLane bins k' lanes age l') := by
  refine h.mono fun x hx => ?_
  unfold placeLane
  dsimp only
  split
  · next i _ =>
    rcases mem_modify_or hx i (fun b => { b with lanes := b.lanes ++ [l'], launched := b.launched || decide (lanes ≤ (b.lanes ++ [l']).length) })
      with h | h
    · exact ⟨x, h, fun _ => id, rfl, rfl, rfl⟩
    · exact ⟨_, h, List.subset_append_left _ _, rfl, rfl, rfl⟩
  · exact insertBin_keeps bins _ x (List.mem_cons_of_mem _ hx)

/-- Lanes placed in bins change the bins of a core and the count of free choices, and each waits in a bin of the key (R82). -/
theorem binLanes_places (s : State) (core : Nat) (k : BinKey) (lanes : Nat) (ls : List BinLane) :
    (∃ c n, s.binLanes core k lanes ls = { s with cores := c, fresh := n }) ∧
      ∀ l, (l ∈ ls ∨ binned k l (s.core core).bins) → binned k l ((s.binLanes core k lanes ls).core core).bins := by
  unfold State.binLanes
  induction ls generalizing s with
  | nil => exact ⟨⟨s.cores, s.fresh, rfl⟩, fun l hl => hl.resolve_left List.not_mem_nil⟩
  | cons a ls ih =>
    obtain ⟨⟨c, n, hrest⟩, hplaced⟩ := ih (s.tick.modCore core (fun c => { c with bins := placeLane c.bins k lanes s.fresh a }))
    rw [List.foldl_cons]
    refine ⟨⟨c, n, by rw [hrest]; rfl⟩, fun l hl => hplaced l ?_⟩
    have hbins : ((s.tick.modCore core (fun c => { c with bins := placeLane c.bins k lanes s.fresh a })).core core).bins =
        placeLane (s.core core).bins k lanes s.fresh a := by
      rw [modCore_core, if_pos rfl]
      rfl
    rw [hbins]
    rcases hl with hl | hl
    · rcases List.mem_cons.1 hl with rfl | hl
      · exact .inr (placeLane_places _ _ _ _ _)
      · exact .inl hl
    · exact .inr (placeLane_keeps hl _ _ _ _)

/-! ## SPAWN -/

/-- SPAWN of some lanes at an address where it traps for nothing and waits for nothing (R304). -/
theorem spawn_places {s : State} {w : Who} {sa sb : Reg6} (h : scalarReady s w [sa, sb, 1, 2, 3, 4]) (hh : w.team.handler = none)
    (hspsl : w.team.k.spsl ≠ 0) (hzero : (w.path.s sb).toNat / 2 ^ 11 % 2 ^ 21 = 0) (hone : 1 ≤ (w.path.s sb).toNat % 2 ^ 11)
    (hmax : (w.path.s sb).toNat % 2 ^ 11 ≤ 1024) (hspace : (w.path.s sa).toNat < 2 ^ 52) (halign : (w.path.s sa).toNat % 4 = 0)
    (hflight : s.inFlight w false = []) (hblocked : s.commitBlocked w.key = false) : exec (.spawn 0 sa sb) s =
      .next (((s.commitRelease w.key w.pi).onPath w Path.next).binLanes w.core
        { launch := w.team.launch, entry := w.path.s sa, frame := w.path.frame, asid := w.team.asid } w.team.k.lanes
        ((List.range ((w.path.s sb).toNat % 2 ^ 11)).map (fun i => .spawned (BitVec.ofNat 32 ((w.path.s sb).toNat / 2 ^ 32 + i))))) := by
  have hn : (field (w.path.s sb) 0 11).toNat = (w.path.s sb).toNat % 2 ^ 11 := by rw [Laws.field_toNat, Nat.pow_zero, Nat.div_one]
  have hmid : field (w.path.s sb) 11 21 = 0 := BitVec.eq_of_toNat_eq ((Laws.field_toNat _ _ _).trans hzero)
  have hlow : field (w.path.s sa) 0 2 = 0 := BitVec.eq_of_toNat_eq (by rw [Laws.field_toNat, Nat.pow_zero, Nat.div_one]; exact halign)
  have hvalue : ∀ i, field (w.path.s sb) 32 32 + BitVec.ofNat 32 i = BitVec.ofNat 32 ((w.path.s sb).toNat / 2 ^ 32 + i) := fun i =>
    BitVec.eq_of_toNat_eq (by
      rw [BitVec.toNat_add, Laws.field_toNat, BitVec.toNat_ofNat, BitVec.toNat_ofNat, ← Nat.add_mod])
  rw [exec_spawn, execSpawn]
  refine (scalarOp_ready h _).trans (congrArg _ ?_)
  dsimp only
  rw [hh, hn, hmid, field_high_zero hspace, hlow, hflight, hblocked, if_neg (by simpa using hspsl), if_neg (by simp; omega),
    if_neg (by simp), if_neg (by simp), if_neg (by simp), if_neg (by simp)]
  simp only [hvalue]

/-- What SPAWN refuses (R83, R304). -/
theorem spawn_refused {s : State} {w : Who} {sa sb : Reg6} (h : scalarReady s w [sa, sb, 1, 2, 3, 4])
    (hbad : w.team.k.spsl = 0 ∨ (w.path.s sb).toNat / 2 ^ 11 % 2 ^ 21 ≠ 0 ∨ (w.path.s sb).toNat % 2 ^ 11 = 0 ∨
      1024 < (w.path.s sb).toNat % 2 ^ 11) : exec (.spawn 0 sa sb) s = .next (trapScalar s w .reservedField) := by
  have hn : (field (w.path.s sb) 0 11).toNat = (w.path.s sb).toNat % 2 ^ 11 := by rw [Laws.field_toNat, Nat.pow_zero, Nat.div_one]
  have hmid : (w.path.s sb).toNat / 2 ^ 11 % 2 ^ 21 ≠ 0 → field (w.path.s sb) 11 21 ≠ 0 := fun hne hz =>
    hne ((Laws.field_toNat _ _ _).symm.trans (congrArg BitVec.toNat hz))
  rw [exec_spawn, execSpawn]
  refine (scalarOp_ready h _).trans (congrArg _ ?_)
  dsimp only
  rw [hn]
  by_cases hfirst : w.team.handler.isSome = true ∨ w.team.k.spsl = 0
  · exact if_pos hfirst
  · rw [if_neg hfirst]
    exact if_pos ((hbad.resolve_left fun h0 => hfirst (.inr h0)).imp_left hmid)

theorem path_of_still {p q : Path} (h : q.still = p.still) : ∃ n o, q = { p with pts := n, tableOld := o } := by
  refine ⟨q.pts, q.tableOld, ?_⟩
  cases p
  cases q
  simp only [Path.still, Path.mk.injEq] at h
  simp only [Path.mk.injEq]
  simpa using h

theorem spawn : Says.Spawn := by
  intro s w sa sb h hh
  refine ⟨fun hspsl hzero hone hmax hspace halign hflight hblocked hwf => ?_, spawn_refused h⟩
  obtain ⟨hissuer, -⟩ := id h
  obtain ⟨hteam, -⟩ := issuer_some hissuer
  have hexec := spawn_places h hh hspsl hzero hone hmax hspace halign hflight hblocked
  obtain ⟨⟨c, n, hrest⟩, hplaced⟩ := binLanes_places ((s.commitRelease w.key w.pi).onPath w Path.next) w.core
    { launch := w.team.launch, entry := w.path.s sa, frame := w.path.frame, asid := w.team.asid } w.team.k.lanes
    ((List.range ((w.path.s sb).toNat % 2 ^ 11)).map (fun i => .spawned (BitVec.ofNat 32 ((w.path.s sb).toNat / 2 ^ 32 + i))))
  obtain ⟨p, hp, hstill⟩ := (commitRelease_quiet s w.key w.pi).1.path (issuer_path hissuer)
  obtain ⟨ps, wT, task, born, hteam'⟩ := commitRelease_team hteam w.pi
  obtain ⟨k, o, rfl⟩ := path_of_still hstill
  have hpath := onPath_path hp Path.next
  have hteams : ((s.commitRelease w.key w.pi).onPath w Path.next).team w.key =
      some (((w.team.performed ps wT).begin task born).modPath w.pi Path.next) := by
    rw [State.onPath, State.modPath, modTeam_team, if_pos rfl, hteam', Option.map_some]
  have hmem : byteAt ((s.commitRelease w.key w.pi).onPath w Path.next) = byteAt (s.commitRelease w.key w.pi) := rfl
  generalize (s.commitRelease w.key w.pi).onPath w Path.next = u at *
  refine ⟨_, _, hexec, fun x => ?_, ⟨((w.team.performed ps wT).begin task born).modPath w.pi Path.next, ?_, rfl, rfl, rfl⟩,
    (path_of_teams (by rw [hrest]) w.key w.pi).trans hpath, rfl, rfl, rfl, fun i hi => ?_⟩
  · rw [hrest]
    show byteAt u x = _
    rw [hmem]
    exact commitRelease_performs hwf hteam w.pi x
  · rw [hrest]
    exact hteams
  · exact hplaced _ (.inl (List.mem_map.2 ⟨i, List.mem_range.2 hi, rfl⟩))

end Sys2Proof.Machine
end

section
/-! SUPPORT. The ejecting SPLIT (R198, R199): its descriptor, its commit, and its lanes on their way to a bin. -/
namespace Sys2Proof.Machine

/-! ## The continuation descriptor (R199) -/

theorem fetchPiece_length {s t : State} {w : Who} {va n : Nat} {b : List Byte} (h : s.fetchPiece w va n = (t, .bytes b)) :
    b.length = n := by
  unfold State.fetchPiece at h
  split at h
  · cases h
  · split at h
    · split at h
      · cases h
        exact List.length_replicate
      · split at h
        · cases h
        · cases h
          exact length_readPa _ _ _
    all_goals cases h

theorem fetchWords_length {s t : State} {w : Who} {va n : Nat} {b : List Byte} (h : s.fetchWords w va n = (t, .bytes b)) :
    b.length = 4 * n := by
  induction n generalizing s va b with
  | zero => cases h; rfl
  | succ n ih =>
    unfold State.fetchWords at h
    split at h
    · next s1 b1 hpiece =>
      split at h
      · next s2 bs hrest =>
        cases h
        rw [List.length_append, fetchPiece_length hpiece, ih hrest]
        omega
      · next hno => exact absurd h (hno t b)
    · next hno => exact absurd h (hno t b)

theorem ofBytes_lt (bs : List Byte) : ofBytes bs < 256 ^ bs.length := by
  have h := ofBytes_take bs.length bs
  rw [List.take_length] at h
  rw [h]
  exact Nat.mod_lt _ (Nat.pow_pos (by omega))

/-- The live set of nine words: MAGIC and the reserved bits, and no register past the last (R199). -/
theorem liveSet_eq {b : List Byte} (hlen : b.length = 36) (vcount : Nat) : liveSet b vcount =
    if ofBytes (b.take 4) ≠ 0xC0F70000 ∨ 2 ^ vcount ≤ ofBytes ((b.drop 4).take 32) then none
    else some (.ofNat 256 (ofBytes ((b.drop 4).take 32))) := by
  have hall : (b.drop 4).take 32 = b.drop 4 := List.take_of_length_le (by rw [List.length_drop, hlen])
  have hlt : ofBytes (b.drop 4) < 2 ^ 256 := by
    have := ofBytes_lt (b.drop 4)
    rwa [List.length_drop, hlen] at this
  have hlive : (BitVec.ofNat 256 (ofBytes (b.drop 4))).toNat = ofBytes (b.drop 4) := by
    rw [BitVec.toNat_ofNat, Nat.mod_eq_of_lt hlt]
  have hdiv : ofBytes (b.drop 4) / 2 ^ vcount ≠ 0 ↔ 2 ^ vcount ≤ ofBytes (b.drop 4) := by
    rw [Ne, Nat.div_eq_zero_iff_lt (Nat.pow_pos (by omega)), Nat.not_lt]
  rw [hall, liveSet, hlive]
  by_cases hmagic : ofBytes (b.take 4) ≠ 0xC0F70000
  · rw [if_pos hmagic, if_pos (.inl hmagic)]
  · rw [if_neg hmagic]
    by_cases hbig : 2 ^ vcount ≤ ofBytes (b.drop 4)
    · rw [if_pos (hdiv.2 hbig), if_pos (.inr hbig)]
    · rw [if_neg (mt hdiv.1 hbig), if_neg (not_or.2 ⟨hmagic, hbig⟩)]

/-! ## The steps of an ejection -/

/-- The state in which an ejecting SPLIT takes slots: its version has committed, and it holds the live set it checked (R198). -/
def State.ejecting (s : State) (w : Who) (live : BitVec 256) : State :=
  (s.commitRelease w.key w.pi).onPath w (fun p => { p with ejPart := some [], ejLive := live })

section Eject

variable {s s1 : State} {w : Who} {b : List Byte} {ts : List Nat} {target join : Word64}
  (hpart : w.path.ejPart = none) (hfetch : s.fetchWords w (target - 36).toNat 9 = (s1, .bytes b))
include hpart hfetch

/-- A descriptor that is refused (R199). -/
theorem ejectSplit_refused (hbad : ofBytes (b.take 4) ≠ 0xC0F70000 ∨ 2 ^ w.team.vcount ≤ ofBytes ((b.drop 4).take 32)) :
    ejectSplit s w ts target join = trapScalar s1 w .reservedField := by
  have hlive : liveSet b w.team.vcount = none := (liveSet_eq (fetchWords_length hfetch) _).trans (if_pos hbad)
  rw [ejectSplit, hpart, hfetch]
  dsimp only
  rw [hlive]
  rfl

/-- A descriptor that is taken: the version commits, and every lane goes for a slot (R198). -/
theorem ejectSplit_ejects (hmagic : ofBytes (b.take 4) = 0xC0F70000) (hregs : ofBytes ((b.drop 4).take 32) < 2 ^ w.team.vcount)
    (hblocked : s1.commitBlocked w.key = false) : ejectSplit s w ts target join =
      ejectRest (s1.ejecting w (.ofNat 256 (ofBytes ((b.drop 4).take 32)))) w ts (.ofNat 256 (ofBytes ((b.drop 4).take 32))) target join := by
  have hlive : liveSet b w.team.vcount = some (.ofNat 256 (ofBytes ((b.drop 4).take 32))) :=
    (liveSet_eq (fetchWords_length hfetch) _).trans (if_neg (not_or.2 ⟨not_not.2 hmagic, Nat.not_le.2 hregs⟩))
  rw [ejectSplit, hpart, hfetch]
  dsimp only
  rw [hlive]
  dsimp only
  rw [hblocked]
  rfl

end Eject

section Rest

variable {s : State} {w : Who} {ts : List Nat} {live : BitVec 256} {target join : Word64} (hpart : w.path.ejPart = none)
include hpart

theorem ejectRest_waits {l : Nat} {ls : List Nat} (hts : ts = l :: ls) (hfree : s.freeContSlot w.team.launch w.team.k = none) :
    ejectRest s w ts live target join = waitFor s w .contSlot := by
  rw [ejectRest, hpart]
  simp only [Option.getD_none, List.any_nil, Bool.not_false, List.filter_true]
  rw [hts, State.ejectLanes, hfree]

theorem ejectRest_done {t : State} (hdone : s.ejectLanes w join live ts = .done t) :
    ejectRest s w ts live target join = t.ejectFinish w target ts := by
  rw [ejectRest, hpart]
  simp only [Option.getD_none, List.any_nil, Bool.not_false, List.filter_true]
  rw [hdone]

end Rest

/-- The issuing path of a state whose SPLIT ejects. -/
theorem ejecting_path {s s1 : State} {w : Who} (h : issuer s = some w) (hteams : s1.teams = s.teams) (live : BitVec 256) :
    ∃ n o, (s1.ejecting w live).path w.key w.pi =
      some { w.path with pts := n, tableOld := o, ejPart := some [], ejLive := live } := by
  have hp : s1.path w.key w.pi = some w.path := (path_of_teams hteams _ _).trans (issuer_path h)
  obtain ⟨p, hp', hstill⟩ := (commitRelease_quiet s1 w.key w.pi).1.path hp
  obtain ⟨n, o, rfl⟩ := path_of_still hstill
  exact ⟨n, o, onPath_path hp' _⟩

/-- The last steps of an ejection: the path goes on without the lanes, which wait in the bin of the target (R198, steps 4 and 5). -/
theorem ejectFinish_is {s : State} {w : Who} {p : Path} {es : List EjLane} (hp : s.path w.key w.pi = some p)
    (hpart : p.ejPart = some es) (target : Word64) (ts : List Nat) :
    memoryKept s (s.ejectFinish w target ts) ∧
      (s.ejectFinish w target ts).path w.key w.pi = some
        { p.next with
          mask := p.mask &&& ~~~(maskOf ts), ejm := p.ejm ||| maskOf ts, jcnt := p.jcnt + ts.length, ejSlots := p.ejSlots ++ es,
          ejPart := none, ejLive := 0 } ∧
      ∀ e ∈ es, binned { launch := w.team.launch, entry := target, frame := w.path.frame, asid := w.team.asid }
        (.cont e.slot w.team.teamId w.pi e.lane e.live) ((s.ejectFinish w target ts).core w.core).bins := by
  have hheld : ((s.path w.key w.pi).bind (·.ejPart)).getD [] = es := by rw [hp, Option.bind_some, hpart, Option.getD_some]
  unfold State.ejectFinish
  rw [hheld]
  have hpath := onPath_path hp (fun p => { p.next with
    mask := p.mask &&& ~~~(maskOf ts), ejm := p.ejm ||| maskOf ts, jcnt := p.jcnt + ts.length, ejSlots := p.ejSlots ++ es,
    ejPart := none, ejLive := 0 })
  obtain ⟨⟨c, n, hrest⟩, hplaced⟩ := binLanes_places (s.onPath w (fun p => { p.next with
    mask := p.mask &&& ~~~(maskOf ts), ejm := p.ejm ||| maskOf ts, jcnt := p.jcnt + ts.length, ejSlots := p.ejSlots ++ es,
    ejPart := none, ejLive := 0 })) w.core { launch := w.team.launch, entry := target, frame := w.path.frame, asid := w.team.asid }
    w.team.k.lanes (es.map (fun e => .cont e.slot w.team.teamId w.pi e.lane e.live))
  refine ⟨?_, (path_of_teams (by rw [hrest]) w.key w.pi).trans hpath, fun e he => hplaced _ (.inl (List.mem_map.2 ⟨e, he, rfl⟩))⟩
  rw [hrest]
  exact ⟨rfl, rfl⟩

end Sys2Proof.Machine
end

section
/-! SUPPORT. The claim about SPLIT (R197, R198, R302). -/
namespace Sys2Proof.Machine

/-- The team once the lanes of `ts` have a path of their own in entry `c` (R197). -/
def Who.forked (w : Who) (c : Nat) (fs ts : List Nat) (target join : Word64) : Team :=
  (w.team.modPath w.pi (fun p => { p.next with mask := maskOf fs, jcnt := p.jcnt + 1 })).setPath c
    (w.path.child w.pi (maskOf ts) target join)

theorem forked_find {w : Who} (hpath : AMap.find w.team.paths w.pi = some w.path) (c : Nat) (fs ts : List Nat)
    (target join : Word64) (j : Nat) : AMap.find (w.forked c fs ts target join).paths j =
      if j = c then some (w.path.child w.pi (maskOf ts) target join)
      else if j = w.pi then some { w.path.next with mask := maskOf fs, jcnt := w.path.jcnt + 1 }
      else AMap.find w.team.paths j := by
  rw [Who.forked, Team.setPath, AMap.find_insert, Team.modPath, AMap.find_modify, hpath]
  rfl

theorem split : Says.Split := by
  intro s w pn toff joff h hh hidle hpend hpart target join lanes T F htarget hjoin
  have hexec : exec (.split pn toff joff) s = .next (splitLanes s w T F target join) := split_passes h hh hidle hpend htarget hjoin
  refine ⟨fun hT => ?_, fun hT hF => ?_, fun c hT hF hfree hejt => ?_, fun hT hF hfull hspsl => ?_, fun hT hF hspsl hej s1 b hfetch => ?_⟩
  · refine ⟨_, hexec, ?_⟩
    rw [splitLanes, if_pos hT]
    exact pathBecomes_onPath h Path.next
  · refine ⟨_, hexec, ?_⟩
    rw [splitLanes, if_neg hT, if_pos hF]
    exact pathBecomes_onPath h _
  · rw [hexec, splitLanes_forks hT hF hpart hfree hejt]
    obtain ⟨hteam, hpath, -⟩ := issuer_some h
    have hne : w.pi ≠ c := fun heq => by rw [heq, freePath_free hfree] at hpath; cases hpath
    have hfind := forked_find hpath c F T target join
    refine ⟨_, w.forked c F T target join, _, _, rfl, ⟨rfl, fun k hk => by rw [modTeam_team, if_neg hk]⟩, ?_, rfl,
      fun j hj hjc => by rw [hfind, if_neg hjc, if_neg hj], (hfind w.pi).trans ((if_neg hne).trans (if_pos rfl)), rfl,
      (hfind c).trans (if_pos rfl), rfl, rfl, rfl, rfl, rfl, rfl, rfl, rfl, fun l hl => ⟨maskOf_bit F hl, maskOf_bit T hl⟩⟩
    rw [modTeam_team, if_pos rfl, hteam]
    rfl
  · rw [hexec, splitLanes_full hT hF hpart hfull hspsl]
  · have hteams : s1.teams = s.teams := by
      have := fetchWords_teams s w (target - 36).toNat 9
      rwa [hfetch] at this
    have hteam : s1.team w.key = some w.team := by rw [State.team, hteams]; exact (issuer_some h).1
    intro live s2
    rw [hexec, splitLanes_ejects hT hF hspsl hej]
    refine ⟨fun hbad => by rw [ejectSplit_refused hpart hfetch hbad], fun hmagic hregs hblocked => ?_⟩
    rw [ejectSplit_ejects hpart hfetch hmagic hregs hblocked]
    obtain ⟨n, o, hpath⟩ := ejecting_path h hteams live
    refine ⟨fun hnone hwf => ?_, fun s3 hdone => ?_⟩
    · obtain ⟨l, ls, hcons⟩ := List.exists_cons_of_ne_nil hT
      have hsched : (s1.ejecting w live).freeContSlot w.team.launch w.team.k = none := by
        have : (s1.ejecting w live).sched = s1.sched := commitRelease_sched s1 w.key w.pi
        rw [State.freeContSlot, State.launch, this]
        exact hnone
      refine ⟨_, _, congrArg _ (ejectRest_waits hpart hcons hsched), commitRelease_performs hwf hteam w.pi, onPath_path hpath _, rfl, rfl, rfl⟩
    · obtain ⟨n', es, hpath3, hlanes, hes⟩ := ejectLanes_done T hdone hpath rfl
      obtain ⟨hmem, hq, hbins⟩ := ejectFinish_is hpath3 rfl target T
      refine ⟨_, _, es, congrArg _ (ejectRest_done hpart hdone), hmem, hq, rfl, rfl, rfl, rfl, rfl, rfl, hlanes,
        fun e he => ?_, fun l hl => ⟨mask_without _ T hl, mask_with _ T hl⟩⟩
      · obtain ⟨hj, hlive⟩ := hes e he
        refine ⟨hj, hlive, ?_⟩
        rw [← hlive]
        exact hbins e he

end Sys2Proof.Machine
end

section
/-! SUPPORT. The end of a path and of a team, and ejected lanes that are reloaded (R202, R381). -/
namespace Sys2Proof.Machine

/-! ## Settled paths -/

theorem settled_iff (p : Path) : settled p ↔ (!p.idle || p.jcnt != 0 || !p.pendScalar.isEmpty) = false := by
  unfold settled
  simp [and_assoc]

/-- JOIN of a path outside a handler (R202). -/
theorem join_waits {s : State} {w : Who} (h : issuer s = some w) (hh : w.team.handler = none) (hs : ¬ settled w.path) :
    exec (.join 0 0 0) s = .next (waitFor s w .join) := by
  rw [settled_iff, Bool.not_eq_false] at hs
  rw [exec_join, execJoin, withIssuer_eq h, hh, hs]
  rfl

theorem endPath_waits {s : State} {w : Who} (h : issuer s = some w) (hh : w.team.handler = none) (hs : ¬ settled w.path) :
    exec (.endPath 0 0 0) s = .next (waitFor s w .endPath) := by
  rw [settled_iff, Bool.not_eq_false] at hs
  rw [exec_endPath, execEndPath, withIssuer_eq h, hh, hs]
  rfl

/-- JOIN of a settled path that has lanes to reload (R202, case 1). -/
theorem join_reloads {s : State} {w : Who} (h : issuer s = some w) (hh : w.team.handler = none) (hs : settled w.path)
    {mine : List EjLane} (hmine : w.path.ejSlots.filter (fun e => e.join == w.path.spc) = mine) (hne : mine ≠ []) {t : State}
    (hdone : s.reloadLanes w mine = .done t) :
    exec (.join 0 0 0) s = .next (t.onPath w (fun p => { p.next with pts := max p.pts p.relT, relT := 0 })) := by
  rw [settled_iff] at hs
  rw [exec_join, execJoin, withIssuer_eq h, hh, hs, hmine]
  dsimp only
  rw [if_neg (by simp), if_neg (by simp), if_pos hne, hdone]

/-- JOIN of a settled path at its join point (R202, case 2). -/
theorem join_returns {s : State} {w : Who} (h : issuer s = some w) (hh : w.team.handler = none) (hs : settled w.path)
    (hej : w.path.ejSlots = []) (hrpc : w.path.rpc = some w.path.spc) {q : Nat} (hq : w.path.parent = some q) :
    exec (.join 0 0 0) s = .next (s.joinParent w.key w.pi w.path q) := by
  rw [settled_iff] at hs
  rw [exec_join, execJoin, withIssuer_eq h, hh, hs, hej]
  dsimp only
  rw [if_neg (by simp), if_neg (by simp), List.filter_nil, if_neg (by simp), if_pos hrpc, hq]

/-- The continuation lanes of the issuing path whose join point it is (R202, case 3). -/
def Who.joined (w : Who) : List Nat :=
  (List.range w.team.k.lanes).filter (fun l => w.path.mask.getLsbD l &&
    ((AMap.find w.team.contLanes l).map (fun c => c.jpc == w.path.spc)).getD false)

/-- Where JOIN takes a path of which no lane is away, whose join point it is not (R202, cases 3 and 4). -/
def joinOn (w : Who) (s : State) : State :=
  if ((s.path w.key w.pi).map (·.mask)).getD 0 = 0 then endHere s w else s.onPath w Path.next

theorem join_goes {s : State} {w : Who} (h : issuer s = some w) (hh : w.team.handler = none) (hs : settled w.path)
    (hej : w.path.ejSlots = []) (hrpc : w.path.rpc ≠ some w.path.spc) :
    exec (.join 0 0 0) s = .next (returnAll s w w.joined (joinOn w)) := by
  have hback : (lanesOf w.path.mask w.team.k.lanes).filter (fun l =>
      match AMap.find w.team.contLanes l with
      | some c => c.jpc == w.path.spc
      | none => false) = w.joined := by
    rw [lanesOf, List.filter_filter, Who.joined]
    refine List.filter_congr fun l _ => ?_
    rw [Bool.and_comm]
    cases AMap.find w.team.contLanes l <;> rfl
  rw [settled_iff] at hs
  rw [exec_join, execJoin, withIssuer_eq h, hh, hs, hej]
  dsimp only
  rw [if_neg (by simp), if_neg (by simp), List.filter_nil, if_neg (by simp), if_neg hrpc]
  exact congrArg (fun ls => Host.Outcome.next (returnAll s w ls (joinOn w))) hback

theorem endPath_ends {s : State} {w : Who} (h : issuer s = some w) (hh : w.team.handler = none) (hs : settled w.path)
    (hcont : w.team.contLanes = []) : exec (.endPath 0 0 0) s = .next (endHere s w) := by
  have hnone : ∀ ls : List Nat, ls.filter (fun l => (AMap.find w.team.contLanes l).isSome) = [] := fun ls => by
    rw [hcont]
    exact List.filter_eq_nil_iff.2 fun _ _ => Bool.false_ne_true
  rw [settled_iff] at hs
  rw [exec_endPath, execEndPath, withIssuer_eq h, hh, hs]
  dsimp only
  rw [hnone]
  rfl

/-! ## A path that ends -/

theorem passPts_is (s : State) (key : Nat) (t : Team) (pts : Nat) : ∃ c, s.passPts key t pts = { s with cores := c } := by
  unfold State.passPts
  exact modCore_foldl_is _ (fun _ k => k.pass pts) s

/-- The team without the entry of a path: the lanes that it ejected stay out of its barriers (R351). -/
def Team.dropped (t : Team) (pi : Nat) (p : Path) : Team :=
  { t with paths := AMap.erase pi t.paths, endedLanes := t.endedLanes ||| p.ejm }

theorem dropPath_is {s : State} {key pi : Nat} {t : Team} {p : Path} (ht : s.team key = some t) (hp : AMap.find t.paths pi = some p) :
    memoryKept s (s.dropPath key pi) ∧ (s.dropPath key pi).team key = some (t.dropped pi p) ∧
      ∀ k, k ≠ key → (s.dropPath key pi).team k = s.team k := by
  have hdrop : s.dropPath key pi = (s.passPts key t p.pts).modTeam key (fun t => t.dropped pi p) := by
    rw [State.dropPath, ht]
    dsimp only
    rw [hp]
    rfl
  obtain ⟨c, hc⟩ := passPts_is s key t p.pts
  rw [hdrop, hc]
  refine ⟨⟨rfl, rfl⟩, ?_, fun k hk => ?_⟩
  · rw [modTeam_team, if_pos rfl]
    exact congrArg (Option.map _) ht
  · rw [modTeam_team, if_neg hk]
    rfl

theorem dropped_find {t : Team} (hr : AMap.rising t.paths = true) (pi : Nat) (p : Path) (j : Nat) :
    AMap.find (t.dropped pi p).paths j = if j = pi then none else AMap.find t.paths j := AMap.find_erase _ hr pi j

/-- A path that returns to its parent (R202, case 2). -/
theorem joinParent_returns {s : State} {w : Who} (h : issuer s = some w) {q : Nat} {p : Path} (hq : q ≠ w.pi)
    (hp : AMap.find w.team.paths q = some p) (hr : AMap.rising w.team.paths = true) :
    ∃ b, (s.joinParent w.key w.pi w.path q).team w.key = some b ∧ memoryKept s (s.joinParent w.key w.pi w.path q) ∧
      (∀ k, k ≠ w.key → (s.joinParent w.key w.pi w.path q).team k = s.team k) ∧ AMap.find b.paths w.pi = none ∧
      b.endedLanes = w.team.endedLanes ||| w.path.ejm ∧
      AMap.find b.paths q = some { p with mask := p.mask ||| w.path.mask, jcnt := p.jcnt - 1, pts := max p.pts w.path.pts } := by
  obtain ⟨hteam, hpath, -⟩ := issuer_some h
  obtain ⟨hmem, hdrop, hothers⟩ := dropPath_is hteam hpath
  have hfind := dropped_find hr w.pi w.path
  unfold State.joinParent
  refine ⟨(w.team.dropped w.pi w.path).modPath q (fun k =>
      { k with mask := k.mask ||| w.path.mask, jcnt := k.jcnt - 1, pts := max k.pts w.path.pts }), ?_, hmem, fun k hk => ?_, ?_, rfl, ?_⟩
  · rw [modTeam_team, if_pos rfl, hdrop, Option.map_some]
  · rw [modTeam_team, if_neg hk, hothers k hk]
  · rw [Team.modPath, AMap.find_modify, if_neg (Ne.symm hq), hfind, if_pos rfl]
  · rw [Team.modPath, AMap.find_modify, if_pos rfl, hfind, if_neg hq, hp, Option.map_some]

/-- A map with two keys lists more than one. -/
theorem AMap.two_keys {α : Type} {m : AMap α} {i j : Nat} {p q : α} (hij : i ≠ j) (hp : AMap.find m i = some p)
    (hq : AMap.find m j = some q) : ¬ m.length ≤ 1 := by
  intro hlen
  rcases m with _ | ⟨⟨k, v⟩, _ | ⟨e, m⟩⟩
  · cases hp
  · have hi : k = i := by by_contra hk; simp [AMap.find, hk] at hp
    have hj : k = j := by by_contra hk; simp [AMap.find, hk] at hq
    exact hij (hi.symm.trans hj)
  · exact absurd hlen (by simp)

/-- END of a path that has a parent (R381). -/
theorem endHere_leaves {s : State} {w : Who} (h : issuer s = some w) {q : Nat} {p : Path} (hparent : w.path.parent = some q)
    (hq : q ≠ w.pi) (hp : AMap.find w.team.paths q = some p) (hr : AMap.rising w.team.paths = true) :
    ∃ b, (endHere s w).team w.key = some b ∧ memoryKept s (endHere s w) ∧
      (∀ k, k ≠ w.key → (endHere s w).team k = s.team k) ∧ AMap.find b.paths w.pi = none ∧
      AMap.find b.paths q = some { p with jcnt := p.jcnt - 1 } ∧
      b.endedLanes = w.team.endedLanes ||| w.path.ejm ||| w.path.mask := by
  obtain ⟨hteam, hpath, -⟩ := issuer_some h
  have hlast := AMap.two_keys hq hp hpath
  obtain ⟨hmem, hdrop, hothers⟩ := dropPath_is hteam hpath
  have hfind := dropped_find hr w.pi w.path
  unfold endHere State.endPathAt
  rw [hteam]
  dsimp only
  rw [if_neg (fun hend => hlast (of_decide_eq_true hend.1)), hpath]
  dsimp only
  rw [if_neg hlast, hparent]
  dsimp only
  refine ⟨({ w.team.dropped w.pi w.path with endedLanes := (w.team.dropped w.pi w.path).endedLanes ||| w.path.mask } : Team).modPath q
    (fun k => { k with jcnt := k.jcnt - 1 }), ?_, hmem, fun k hk => ?_, ?_, ?_, rfl⟩
  · rw [modTeam_team, if_pos rfl, hdrop, Option.map_some]
  · rw [modTeam_team, if_neg hk, hothers k hk]
  · rw [Team.modPath, AMap.find_modify, if_neg (Ne.symm hq), hfind, if_pos rfl]
  · rw [Team.modPath, AMap.find_modify, if_pos rfl, hfind, if_neg hq, hp, Option.map_some]

/-! ## A team that ends -/

theorem afterEnd_is (s : State) (t : Team) : ∃ c d, s.afterEnd t = { s with cores := c, sched := d } := by
  unfold State.afterEnd
  generalize hu : s.modLaunch t.launch (fun l => { l with privUsed := l.privUsed.erase t.privIdx }) = u
  obtain ⟨l, hl⟩ := settleNb_is u t.launch t.nbh
  rw [hl]
  obtain ⟨c, d, hc⟩ := settleVacate_is { u with sched := { u.sched with launches := l } }
  rw [hc, ← hu]
  exact ⟨c, d, rfl⟩

/-- A team that is removed changes the cores, the scheduler and the table of teams (R102, R108, R241). -/
theorem removeTeam_is {s : State} {key : Nat} {t : Team} (h : s.team key = some t) :
    ∃ c d, s.removeTeam key = { s with cores := c, sched := d, teams := AMap.erase key s.teams } := by
  unfold State.removeTeam
  rw [h]
  dsimp only
  obtain ⟨c, hc⟩ := leaveCores_is s key t
  have hpass : ∃ c', (t.paths ++ (t.handler.map (·.saved)).getD []).foldl (fun s p => s.passPts key t p.2.pts) (s.leaveCores key t) =
      { s with cores := c' } := by
    refine foldl_keeps (fun u : State => ∃ c', u = { s with cores := c' }) _ _ _ ⟨c, hc⟩ ?_
    rintro _ p ⟨c', rfl⟩
    obtain ⟨c'', hc''⟩ := passPts_is { s with cores := c' } key t p.2.pts
    exact ⟨c'', hc''⟩
  obtain ⟨c', hc'⟩ := hpass
  rw [hc']
  obtain ⟨c'', d, hend⟩ := afterEnd_is { s with
    cores := c', teams := AMap.erase key s.teams, sched := { s.sched with savedEv := s.sched.savedEv.filter (fun e => e.teamId != t.teamId) } } t
  exact ⟨c'', d, hend⟩

theorem passWrites_team (s : State) (key pi : Nat) :
    ∃ f, ∀ k, (s.passWrites key pi).team k = if k = key then (s.team key).map f else s.team k :=
  ⟨_, fun k => modTeam_team s key k _⟩

/-- END of a team's last path (R176, R381): the version performs, and the team is gone. -/
theorem endHere_ends {s : State} {w : Who} (h : issuer s = some w) (hpaths : w.team.paths = [(w.pi, w.path)])
    (hblocked : s.commitBlocked w.key = false) (hwf : s.mem.wf = true) (hr : AMap.rising s.teams = true) :
    (endHere s w).team w.key = none ∧ (∀ k, k ≠ w.key → (endHere s w).team k = s.team k) ∧
      versionPerformed s (endHere s w) w.team.version := by
  obtain ⟨hteam, hpath, -⟩ := issuer_some h
  obtain ⟨⟨ps, wT, hcommit⟩, hothers⟩ := commitVersion_team hteam w.pi
  have hend : endHere s w = s.endTeam w.key w.pi := by
    unfold endHere State.endPathAt
    rw [hblocked, if_neg (fun hb => Bool.false_ne_true hb.2), hteam]
    dsimp only
    rw [hpath, hpaths]
    rfl
  rw [hend, State.endTeam]
  generalize hu : (State.modLaunch _ _ _ : State) = u
  have humem : u.mem = (s.commitVersion w.key w.pi).mem := by rw [← hu]; rfl
  have huteams : u.teams = ((s.commitVersion w.key w.pi).passWrites w.key w.pi).teams := by rw [← hu]; rfl
  have hrising : AMap.rising u.teams = true := by
    rw [huteams]
    refine AMap.rising_modify _ _ _ ?_
    unfold State.commitVersion
    rw [hteam]
    refine AMap.rising_modify _ _ _ ?_
    rwa [(walked_of_translated (commitLines_translated s _ _ _)).teams]
  obtain ⟨f, hf⟩ := passWrites_team (s.commitVersion w.key w.pi) w.key w.pi
  have huteam : ∀ k, u.team k = if k = w.key then ((s.commitVersion w.key w.pi).team w.key).map f else (s.commitVersion w.key w.pi).team k :=
    fun k => by rw [← hf k, State.team, huteams]; rfl
  obtain ⟨c, d, hgone⟩ := removeTeam_is ((huteam w.key).trans ((if_pos rfl).trans (by rw [hcommit, Option.map_some])))
  rw [hgone]
  refine ⟨?_, fun k hk => ?_, fun x => ?_⟩
  · exact (AMap.find_erase _ hrising w.key w.key).trans (if_pos rfl)
  · refine (AMap.find_erase _ hrising w.key k).trans ((if_neg hk).trans ?_)
    exact (huteam k).trans ((if_neg hk).trans (hothers k hk))
  · rw [byteAt]
    show Tab.get 0 u.mem.bytes x = _
    rw [humem]
    exact commitVersion_performs hwf hteam w.pi x

end Sys2Proof.Machine
end

section
/-! SUPPORT. Ejected lanes that are reloaded at JOIN (R202, case 1): what a lane takes from its record. -/
namespace Sys2Proof.Machine

/-! ## Registers that a lane takes -/

/-- A run of writes to a table, each at a place from `base` on. -/
def Tab.setAt {α : Type} [DecidableEq α] (d : α) (base : Nat) (g : Nat → α) (ns : List Nat) (m : Tab α) : Tab α :=
  ns.foldl (fun m n => Tab.set d (base + n) (g n) m) m

theorem Tab.get_setAt {α : Type} [DecidableEq α] (d : α) (base : Nat) (g : Nat → α) (ns : List Nat) {m : Tab α} (h : Tab.wf d m = true)
    (j : Nat) : Tab.get d (Tab.setAt d base g ns m) j = if base ≤ j ∧ j - base ∈ ns then g (j - base) else Tab.get d m j := by
  induction ns generalizing m with
  | nil => exact (if_neg (fun hj => absurd hj.2 List.not_mem_nil)).symm
  | cons n ns ih =>
    refine (ih (Tab.wf_set d m (base + n) (g n) h)).trans ?_
    rw [Tab.get_set d m (Tab.wf_rising h)]
    by_cases hlater : base ≤ j ∧ j - base ∈ ns
    · rw [if_pos hlater, if_pos ⟨hlater.1, List.mem_cons_of_mem _ hlater.2⟩]
    · rw [if_neg hlater]
      by_cases hj : j = base + n
      · have hsub : j - base = n := by omega
        rw [if_pos hj, if_pos ⟨by omega, by rw [hsub]; exact List.mem_cons_self⟩, hsub]
      · rw [if_neg hj, if_neg]
        rintro ⟨hle, hmem⟩
        rcases List.mem_cons.1 hmem with heq | hmem
        · omega
        · exact hlater ⟨hle, hmem⟩

theorem foldl_setV (t : Team) (l : Nat) (g : Nat → Word32) (ns : List Nat) :
    ns.foldl (fun t n => t.setV l n (g n)) t = { t with vregs := Tab.setAt 0 (l * 256) g ns t.vregs } := by
  induction ns generalizing t with
  | nil => rfl
  | cons n ns ih => exact ih (t.setV l n (g n))

theorem foldl_setX (t : Team) (l : Nat) (g : Nat → Word32) (ns : List Nat) :
    ns.foldl (fun t n => t.setX l n (g n)) t = { t with xregs := Tab.setAt 0 (l * 8) g ns t.xregs } := by
  induction ns generalizing t with
  | nil => rfl
  | cons n ns ih => exact ih (t.setX l n (g n))

/-- A write to p0 is discarded (R186). -/
theorem foldl_setP (t : Team) (l : Nat) (g : Nat → Bool) (ns : List Nat) :
    ns.foldl (fun t n => t.setP l n (g n)) t = { t with pregs := Tab.setAt false (l * 8) g (ns.filter (fun n => n != 0)) t.pregs } := by
  induction ns generalizing t with
  | nil => rfl
  | cons n ns ih =>
    refine (ih (t.setP l n (g n))).trans ?_
    by_cases hn : n = 0
    · subst hn; rfl
    · rw [List.filter_cons_of_pos (by simpa using hn), Team.setP, if_neg hn]
      rfl

section Load

variable (t : Team) (s : State) (m : Span) (l : Nat) (live : BitVec 256)

theorem loadRecord_eq : t.loadRecord s m l live = { t with
    pregs := Tab.setAt false (l * 8) (fun n => ((s.spanRead m 9 1).headD 0).getLsbD n) ((List.range 8).filter (fun n => n != 0)) t.pregs,
    xregs := Tab.setAt 0 (l * 8) (fun n => .ofNat 32 (ofBytes (s.spanRead m (16 + 4 * n) 4))) (List.range 8) t.xregs,
    vregs := Tab.setAt 0 (l * 256) (fun n => .ofNat 32 (ofBytes (s.spanRead m (64 + 4 * n) 4))) (liveRegs live) t.vregs } := by
  unfold Team.loadRecord
  dsimp only
  rw [foldl_setP, foldl_setX, foldl_setV]

theorem mem_liveRegs {n : Nat} : n ∈ liveRegs live ↔ n < 256 ∧ live.getLsbD n = true := by simp [liveRegs]

theorem loadRecord_v (h : Tab.wf 0 t.vregs = true) (k : Nat) {n : Nat} (hn : n < 256) : (t.loadRecord s m l live).v k n =
    if k = l ∧ live.getLsbD n = true then .ofNat 32 (ofBytes (s.spanRead m (64 + 4 * n) 4)) else t.v k n := by
  rw [loadRecord_eq]
  refine (Tab.get_setAt 0 (l * 256) _ _ h (k * 256 + n)).trans ?_
  by_cases hk : k = l
  · subst hk
    simp only [Nat.add_sub_cancel_left, mem_liveRegs, Nat.le_add_right, hn, true_and]
    rfl
  · rw [if_neg (fun hj => by have := (mem_liveRegs live).1 hj.2; omega), if_neg (fun hl => hk hl.1)]
    rfl

theorem loadRecord_x (h : Tab.wf 0 t.xregs = true) {n : Nat} (hn : n < 8) :
    (t.loadRecord s m l live).x l n = .ofNat 32 (ofBytes (s.spanRead m (16 + 4 * n) 4)) := by
  rw [loadRecord_eq]
  refine (Tab.get_setAt 0 (l * 8) _ _ h (l * 8 + n)).trans ?_
  rw [Nat.add_sub_cancel_left]
  exact if_pos ⟨Nat.le_add_right _ _, List.mem_range.2 hn⟩

theorem loadRecord_p (h : Tab.wf false t.pregs = true) {n : Nat} (hn : n < 8) (h0 : n ≠ 0) :
    (t.loadRecord s m l live).p l n = ((s.spanRead m 9 1).headD 0).getLsbD n := by
  rw [loadRecord_eq, Team.p, if_neg h0]
  refine (Tab.get_setAt false (l * 8) _ _ h (l * 8 + n)).trans ?_
  rw [Nat.add_sub_cancel_left]
  exact if_pos ⟨Nat.le_add_right _ _, List.mem_filter.2 ⟨List.mem_range.2 hn, by simpa using h0⟩⟩

end Load

/-! ## One lane -/

/-- The team once a lane has its record back (R202). -/
def Team.reloaded (t : Team) (s : State) (m : Span) (e : EjLane) (pi : Nat) : Team :=
  let t := t.loadRecord s m e.lane e.live
  { (t.modPath pi (fun p =>
      { p with mask := p.mask ||| BitVec.twoPow 1024 e.lane, ejm := p.ejm &&& ~~~(BitVec.twoPow 1024 e.lane),
               ejSlots := p.ejSlots.filter (fun x => x.lane != e.lane) })) with
    vbar := Tab.set 0 e.lane t.vbarGen t.vbar, nbar := Tab.set 0 e.lane t.nbarGen t.nbar }

theorem reloadLanes_one {s s1 : State} {w : Who} {e : EjLane} {m : Span}
    (hspan : s.span w.core w.team.asid e.lane .load (contAddr w.team.k e.slot) 1088 = (s1, .ok m)) :
    s.reloadLanes w [e] = .done ((s1.modTeam w.key (fun t => t.reloaded s1 m e w.pi)).modLaunch w.team.launch
      (fun l => { l with contSlots := l.contSlots.erase e.slot })) := by
  rw [State.reloadLanes, hspan]
  rfl

/-- The issuing team after the JOIN that reloads its only ejected lane (R202, case 1). -/
theorem joinReload_team {s1 : State} {w : Who} (hteam : s1.team w.key = some w.team) (e : EjLane) (m : Span) :
    (((s1.modTeam w.key (fun t => t.reloaded s1 m e w.pi)).modLaunch w.team.launch
      (fun l => { l with contSlots := l.contSlots.erase e.slot })).onPath w
        (fun p => { p.next with pts := max p.pts p.relT, relT := 0 })).team w.key =
      some ((w.team.reloaded s1 m e w.pi).modPath w.pi (fun p => { p.next with pts := max p.pts p.relT, relT := 0 })) := by
  rw [State.onPath, State.modPath, modTeam_team, if_pos rfl, modLaunch_team, modTeam_team, if_pos rfl, hteam, Option.map_some,
    Option.map_some]

theorem joinReload_path {s1 : State} {w : Who} (hpath : AMap.find w.team.paths w.pi = some w.path) (e : EjLane) (m : Span) :
    AMap.find ((w.team.reloaded s1 m e w.pi).modPath w.pi (fun p => { p.next with pts := max p.pts p.relT, relT := 0 })).paths w.pi =
      some { w.path.next with
        mask := w.path.mask ||| BitVec.twoPow 1024 e.lane, ejm := w.path.ejm &&& ~~~(BitVec.twoPow 1024 e.lane),
        ejSlots := w.path.ejSlots.filter (fun x => x.lane != e.lane), pts := max w.path.pts w.path.relT, relT := 0 } := by
  rw [Team.modPath, AMap.find_modify, if_pos rfl]
  unfold Team.reloaded
  rw [loadRecord_eq]
  dsimp only [Team.modPath]
  rw [AMap.find_modify, if_pos rfl, hpath]
  rfl

end Sys2Proof.Machine
end

section
/-! SUPPORT. Continuation lanes that return to their parents (R202, case 3), and the claims about JOIN and END. -/
namespace Sys2Proof.Machine

/-! ## Lanes that leave -/

/-- A team and its path once the lanes of `ls` have left it: `t0` and `p0` are from before (R202, case 3). -/
structure LanesLeft (t0 : Team) (p0 : Path) (ls : List Nat) (t : Team) (p : Path) : Prop where
  path : ∃ n j r, p = { p0 with mask := p.mask, pts := n, jcnt := j, relT := r }
  mask : ∀ l, l < 1024 → p.mask.getLsbD l = (p0.mask.getLsbD l && decide (l ∉ ls))
  ended : ∀ l, l < 1024 → t.endedLanes.getLsbD l = (t0.endedLanes.getLsbD l || decide (l ∈ ls))
  rising : AMap.rising t0.contLanes = true → AMap.rising t.contLanes = true
  cont : AMap.rising t0.contLanes = true →
    ∀ j, AMap.find t.contLanes j = if j ∈ ls then none else AMap.find t0.contLanes j

theorem LanesLeft.refl (t : Team) (p : Path) : LanesLeft t p [] t p where
  path := ⟨p.pts, p.jcnt, p.relT, rfl⟩
  mask := by simp
  ended := by simp
  rising := id
  cont := fun _ j => (if_neg List.not_mem_nil).symm

theorem LanesLeft.trans {t0 t1 t2 : Team} {p0 p1 p2 : Path} {l : Nat} {ls : List Nat} (h : LanesLeft t0 p0 [l] t1 p1)
    (g : LanesLeft t1 p1 ls t2 p2) : LanesLeft t0 p0 (l :: ls) t2 p2 where
  path := by
    obtain ⟨n, j, r, hp⟩ := h.path
    obtain ⟨n', j', r', hq⟩ := g.path
    exact ⟨n', j', r', by rw [hq, hp]⟩
  mask := fun k hk => by
    rw [g.mask k hk, h.mask k hk]
    by_cases hkl : k = l <;> simp [hkl]
  ended := fun k hk => by
    rw [g.ended k hk, h.ended k hk]
    by_cases hkl : k = l <;> simp [hkl]
  rising := fun hr => g.rising (h.rising hr)
  cont := fun hr k => by
    rw [g.cont (h.rising hr) k, h.cont hr k]
    by_cases hkl : k = l <;> simp [hkl]

/-- The state once a continuation lane has left its team, before its return reaches the parent (R202, case 3). -/
def State.leaveLane (s : State) (w : Who) (l : Nat) (c : ContLane) (m : Span) : State :=
  let r := s.putRecord m (laneCore w l) (((s.path w.key w.pi).map (·.pts)).getD 0) (returnParts w.team l c.live)
  r.1.modTeam w.key (fun t =>
    { (t.modPath w.pi (fun p => { p with mask := p.mask &&& ~~~(BitVec.twoPow 1024 l), pts := max p.pts r.2 })) with
      contLanes := AMap.erase l t.contLanes, endedLanes := t.endedLanes ||| BitVec.twoPow 1024 l })

/-- The time at which the return of a lane is released (R426). -/
def State.leaveTime (s : State) (w : Who) (l : Nat) (c : ContLane) (m : Span) : Nat :=
  let pts := ((s.path w.key w.pi).map (·.pts)).getD 0
  max pts (s.putRecord m (laneCore w l) pts (returnParts w.team l c.live)).2

/-- A return that is done has written back the record of its first lane, which has left. -/
theorem returnLanes_cons_done {s t : State} {w : Who} {l : Nat} {ls : List Nat} {c : ContLane} (hc : AMap.find w.team.contLanes l = some c)
    (h : s.returnLanes w (l :: ls) = .done t) : ∃ s1 m,
      s.span w.core w.team.asid l .store (contAddr w.team.k c.slot) 1088 = (s1, .ok m) ∧
        ((s1.leaveLane w l c m).returnLane c.pteam c.ppath (s1.leaveTime w l c m)).returnLanes w ls = .done t := by
  rw [State.returnLanes, hc] at h
  dsimp only at h
  split at h
  · cases h
  · cases h
  · cases h
  · next s1 m hspan => exact ⟨s1, m, hspan, h⟩

/-- A lane that leaves takes its bit of the mask, its entry and its place in the team's barriers (R202, R351). -/
theorem leaveLane_left {s : State} {w : Who} {t0 : Team} {p0 : Path} (ht : s.team w.key = some t0) (hp : AMap.find t0.paths w.pi = some p0)
    (l : Nat) (c : ContLane) (m : Span) : ∃ t p, (s.leaveLane w l c m).team w.key = some t ∧ AMap.find t.paths w.pi = some p ∧
      LanesLeft t0 p0 [l] t p := by
  have hput := (walked_of_translated (putRecord_translated s m (laneCore w l) (((s.path w.key w.pi).map (·.pts)).getD 0)
    (returnParts w.team l c.live))).teams
  unfold State.leaveLane
  generalize s.putRecord m (laneCore w l) (((s.path w.key w.pi).map (·.pts)).getD 0) (returnParts w.team l c.live) = r at *
  have hteam : r.1.team w.key = some t0 := by rw [State.team, hput]; exact ht
  refine ⟨{ (t0.modPath w.pi (fun p => { p with mask := p.mask &&& ~~~(BitVec.twoPow 1024 l), pts := max p.pts r.2 })) with
      contLanes := AMap.erase l t0.contLanes, endedLanes := t0.endedLanes ||| BitVec.twoPow 1024 l },
    { p0 with mask := p0.mask &&& ~~~(BitVec.twoPow 1024 l), pts := max p0.pts r.2 }, ?_, ?_, ?_⟩
  · dsimp only
    rw [modTeam_team, if_pos rfl, hteam, Option.map_some]
  · show AMap.find (AMap.modify w.pi _ t0.paths) w.pi = _
    rw [AMap.find_modify, if_pos rfl, hp, Option.map_some]
  · have hbit : ∀ k, k < 1024 → (BitVec.twoPow 1024 l).getLsbD k = decide (k ∈ [l]) := fun k hk => by
      rw [BitVec.getLsbD_twoPow]
      by_cases hkl : k = l
      · subst hkl; simp [hk]
      · simp [hkl, Ne.symm hkl]
    refine ⟨⟨_, _, _, rfl⟩, fun k hk => ?_, fun k hk => ?_, fun hr => AMap.rising_erase _ l hr, fun hr j => ?_⟩
    · dsimp only
      rw [BitVec.getLsbD_and, BitVec.getLsbD_not, hbit k hk, decide_eq_true hk, Bool.true_and, decide_not]
    · dsimp only
      rw [BitVec.getLsbD_or, hbit k hk]
    · simp only [List.mem_singleton]
      exact AMap.find_erase _ hr l j

/-- The return of a lane changes the join counter and the clock of its parent path alone, even one of its own team (R202). -/
theorem returnLane_keeps {s : State} {key pi : Nat} {t0 : Team} {p0 : Path} (ht : s.team key = some t0)
    (hp : AMap.find t0.paths pi = some p0) (id : BitVec 32) (ppath rel : Nat) : ∃ t j r, (s.returnLane id ppath rel).team key = some t ∧
      AMap.find t.paths pi = some { p0 with jcnt := j, relT := r } ∧ t.contLanes = t0.contLanes ∧ t.endedLanes = t0.endedLanes := by
  unfold State.returnLane
  split
  · next key' t' _ =>
    by_cases hkey : key = key'
    · subst hkey
      have hteam := modTeam_team s key key (fun t => t.landPath ppath (fun p => { p with jcnt := p.jcnt - 1, relT := max p.relT rel }))
      rw [if_pos rfl, ht, Option.map_some] at hteam
      by_cases hpi : pi = ppath
      · subst hpi
        refine ⟨_, p0.jcnt - 1, max p0.relT rel, hteam, ?_, rfl, rfl⟩
        show AMap.find (AMap.modify pi _ t0.paths) pi = _
        rw [AMap.find_modify, if_pos rfl, hp, Option.map_some]
      · refine ⟨_, p0.jcnt, p0.relT, hteam, ?_, rfl, rfl⟩
        show AMap.find (AMap.modify ppath _ t0.paths) pi = _
        rw [AMap.find_modify, if_neg hpi, hp]
    · exact ⟨t0, p0.jcnt, p0.relT, by rw [modTeam_team, if_neg hkey, ht], hp, rfl, rfl⟩
  · exact ⟨t0, p0.jcnt, p0.relT, ht, hp, rfl, rfl⟩

/-- A return that is done has taken every lane from its team (R202, case 3). -/
theorem returnLanes_done {w : Who} {u : State} (ls : List Nat) (hcont : ∀ l ∈ ls, AMap.find w.team.contLanes l ≠ none) {s : State}
    {t0 : Team} {p0 : Path} (h : s.returnLanes w ls = .done u) (ht : s.team w.key = some t0) (hp : AMap.find t0.paths w.pi = some p0) :
    ∃ t p, u.team w.key = some t ∧ AMap.find t.paths w.pi = some p ∧ LanesLeft t0 p0 ls t p := by
  induction ls generalizing s t0 p0 with
  | nil =>
    cases h
    exact ⟨t0, p0, ht, hp, .refl t0 p0⟩
  | cons l ls ih =>
    obtain ⟨c, hc⟩ := Option.ne_none_iff_exists'.1 (hcont l List.mem_cons_self)
    obtain ⟨s1, m, hspan, hrest⟩ := returnLanes_cons_done hc h
    have ht1 : s1.team w.key = some t0 := by rw [State.team, (walked_of_span hspan).teams]; exact ht
    obtain ⟨t1, p1, hteam1, hpath1, hleft⟩ := leaveLane_left ht1 hp l c m
    obtain ⟨t2, j, r, hteam2, hpath2, hcont2, hended2⟩ := returnLane_keeps hteam1 hpath1 c.pteam c.ppath (s1.leaveTime w l c m)
    obtain ⟨t3, p3, hteam3, hpath3, hleft3⟩ := ih (fun k hk => hcont k (List.mem_cons_of_mem _ hk)) hrest hteam2 hpath2
    obtain ⟨n, j', r', hp1⟩ := hleft.path
    have hleft2 : LanesLeft t0 p0 [l] t2 { p1 with jcnt := j, relT := r } :=
      { path := ⟨n, j, r, by rw [hp1]⟩
        mask := hleft.mask
        ended := by rw [hended2]; exact hleft.ended
        rising := by rw [hcont2]; exact hleft.rising
        cont := by rw [hcont2]; exact hleft.cont }
    exact ⟨t3, p3, hteam3, hpath3, hleft2.trans hleft3⟩

/-! ## The claims -/

theorem mem_joined {w : Who} {l : Nat} (h : l ∈ w.joined) : AMap.find w.team.contLanes l ≠ none := by
  intro hnone
  obtain ⟨-, hl⟩ := List.mem_filter.1 h
  rw [hnone] at hl
  simp at hl

theorem joined_none {w : Who} (h : w.team.contLanes = []) : w.joined = [] := by
  rw [Who.joined, h]
  exact List.filter_eq_nil_iff.2 fun l _ => by simp

theorem joinOn_goes {s : State} {w : Who} {p : Path} (hp : s.path w.key w.pi = some p) (hmask : p.mask ≠ 0) :
    joinOn w s = s.onPath w Path.next := by
  rw [joinOn, hp]
  exact if_neg hmask

/-- JOIN of a path of which continuation lanes leave (R202, case 3). -/
theorem join_leaves {s s1 : State} {w : Who} (h : issuer s = some w) (hne : w.joined ≠ []) (hblocked : s.commitBlocked w.key = false)
    (hdone : (s.commitRelease w.key w.pi).returnLanes w w.joined = .done s1)
    (hleft : ∃ l, l < 1024 ∧ w.path.mask.getLsbD l = true ∧ l ∉ w.joined) :
    ∃ t p, returnAll s w w.joined (joinOn w) = s1.onPath w Path.next ∧ s1.team w.key = some t ∧ AMap.find t.paths w.pi = some p ∧
      p.spc = w.path.spc ∧ (∀ l, l < 1024 → p.mask.getLsbD l = (w.path.mask.getLsbD l && decide (l ∉ w.joined)) ∧
        t.endedLanes.getLsbD l = (w.team.endedLanes.getLsbD l || decide (l ∈ w.joined))) ∧
      (AMap.rising w.team.contLanes = true → ∀ l ∈ w.joined, AMap.find t.contLanes l = none) := by
  obtain ⟨hteam, -⟩ := issuer_some h
  obtain ⟨ps, wT, task, born, hteam'⟩ := commitRelease_team hteam w.pi
  obtain ⟨q, hq, hstill⟩ := (commitRelease_quiet s w.key w.pi).1.path (issuer_path h)
  obtain ⟨n, o, rfl⟩ := path_of_still hstill
  rw [State.path, hteam', Option.bind_some] at hq
  obtain ⟨t, p, ht, hp, hgone⟩ := returnLanes_done w.joined (fun _ => mem_joined) hdone hteam' hq
  have hpath : s1.path w.key w.pi = some p := by rw [State.path, ht, Option.bind_some, hp]
  have hmask : p.mask ≠ 0 := fun hzero => by
    obtain ⟨l, hl, hbit, hnot⟩ := hleft
    have hone := hgone.mask l hl
    rw [hzero] at hone
    simp [hbit, hnot] at hone
  have hall : returnAll s w w.joined (joinOn w) = joinOn w s1 := by
    rw [returnAll, if_neg (by simpa using hne), hblocked, if_neg Bool.false_ne_true, hdone]
  refine ⟨t, p, hall.trans (joinOn_goes hpath hmask), ht, hp, ?_, fun l hl => ⟨hgone.mask l hl, hgone.ended l hl⟩,
    fun hr l hl => (hgone.cont hr l).trans (if_pos hl)⟩
  obtain ⟨_, _, _, heq⟩ := hgone.path
  rw [heq]

theorem joinAndEnd : Says.JoinAndEnd := by
  intro s w h hh
  obtain ⟨hteam, hpath, -⟩ := issuer_some h
  refine ⟨fun hs => ⟨_, join_waits h hh hs, pathBecomes_onPath h _⟩, fun hs => ⟨_, endPath_waits h hh hs, pathBecomes_onPath h _⟩,
    fun q p hs hej hrpc hparent hq hp hr => ?_, fun e s1 m hs hmine hspan hv hp hx => ?_,
    fun s1 hs hej hrpc hback hblocked hdone hleft => ?_, fun hs hej hrpc hcont hmask => ?_,
    fun q p hs hparent hq hp hr hcont => ?_, fun hs hpaths hcont hblocked hwf hr => ?_⟩
  · obtain ⟨b, hb⟩ := joinParent_returns h hq hp hr
    exact ⟨_, b, join_returns h hh hs hej hrpc hparent, hb⟩
  · have hteam1 : s1.team w.key = some w.team := by rw [State.team, (walked_of_span hspan).teams]; exact hteam
    exact ⟨_, _, _, join_reloads h hh hs hmine (by simp) (reloadLanes_one hspan), ⟨rfl, rfl⟩, joinReload_team hteam1 e m,
      joinReload_path hpath e m, rfl, rfl, rfl, rfl, rfl, rfl, fun l n hn => loadRecord_v w.team s1 m e.lane e.live hv l hn,
      fun n hn => loadRecord_x w.team s1 m e.lane e.live hx hn, fun n hn h0 => loadRecord_p w.team s1 m e.lane e.live hp hn h0⟩
  · obtain ⟨t, p, hall, ht, hp, hspc, hbits, hgone⟩ := join_leaves h hback hblocked hdone hleft
    refine ⟨_, t.modPath w.pi Path.next, p.next, (join_goes h hh hs hej hrpc).trans (congrArg _ hall), ⟨rfl, rfl⟩, ?_, ?_,
      congrArg (· + 4) hspc, rfl, hbits, hgone⟩
    · rw [State.onPath, State.modPath, modTeam_team, if_pos rfl, ht, Option.map_some]
    · rw [Team.modPath, AMap.find_modify, if_pos rfl, hp, Option.map_some]
  · refine ⟨_, join_goes h hh hs hej hrpc, ?_⟩
    rw [joined_none hcont]
    show pathBecomes s (joinOn w s) w _
    rw [joinOn_goes (issuer_path h) hmask]
    exact pathBecomes_onPath h Path.next
  · obtain ⟨b, hb⟩ := endHere_leaves h hparent hq hp hr
    exact ⟨_, b, endPath_ends h hh hs hcont, hb⟩
  · exact ⟨_, endPath_ends h hh hs hcont, endHere_ends h hpaths hblocked hwf hr⟩

/-- Settles O5, from the lanes that SPLIT divides and ejects, the records of ejected lanes, the ways in which JOIN and END let a path go,
and the bins that SPAWN fills. -/
theorem divergenceAndSpawn : Obligations.DivergenceAndSpawn := ⟨split, ejectedRecord, joinAndEnd, spawn⟩

end Sys2Proof.Machine
end
